-- ==== Sys2Proof/Word.lean ====
section
/-! DEFINITION. The word types and the sparse map: plain data that every other file names. -/

namespace Sys2Proof

/-- A byte of memory or of a register image. -/
abbrev Byte := BitVec 8

/-- A 32-bit word: one vector register of one thread (R104, file 04). -/
abbrev W32 := BitVec 32

/-- A 64-bit word: a uniform register, a program counter or a BAR0 register (R116, file 04; R536, file 15). -/
abbrev W64 := BitVec 64

/-- A table with numbered entries, of which only those that differ from their default are listed, in rising order of
key. It stands for register files, memories, queues by number and every other numbered set of like things. -/
abbrev SMap (α : Type) := List (Nat × α)

/-- The unsigned field of `len` bits of `x` that starts at bit `lo`. -/
def fld {n : Nat} (x : BitVec n) (lo len : Nat) : Nat := (x.toNat >>> lo) % 2 ^ len

/-- The bit `i` of `x`. -/
def bitAt {n : Nat} (x : BitVec n) (i : Nat) : Bool := x.toNat.testBit i

/-- The number `x` as `n` bits, modulo 2^n. -/
def bits (n x : Nat) : BitVec n := BitVec.ofNat n x

end Sys2Proof
end

