-- ==== Sys2Proof/Machine/Wire.lean ====
section
/-! DEFINITION. The data that commands carry: instruction fields, flits, fabric messages, event records and the
readings of an almanac round. -/

namespace Sys2Proof.Machine

/-- Where an instruction issues: the logical core and the thread-group slot. Which threads it issues for, and at which
address, the machine chooses by R112. -/
structure Site where
  /-- logical core number [R9, file 00] -/
  core : Nat
  /-- group slot, 0 to 15 [R104, file 04] -/
  group : Nat
deriving DecidableEq, Repr

/-- The header fields of an instruction beside its opcode: GM in bits [9:8], GP in [12:10], HOLD in [15:13]
(R149, R156, R119 and the words of Table 05.15, file 05). -/
structure Hdr where
  /-- guard mode [R156, file 05] -/
  gm : BitVec 2
  /-- guard predicate [R156, file 05] -/
  gp : BitVec 3
  /-- operands held in the register cache: bit 0 source A, bit 1 source B, bit 2 source C [R119, file 04] -/
  hold : BitVec 3
deriving DecidableEq, Repr

/-- Format R, Table 05.2, with the second word of BSEL = 3. IMM14 is the fields VC and VB together. -/
structure FmtR where
  /-- destination -/
  vd : BitVec 7
  /-- source A -/
  va : BitVec 7
  /-- source B; the low bits of IMM14 -/
  vb : BitVec 7
  /-- source C; the high bits of IMM14 -/
  vc : BitVec 7
  /-- source B select -/
  bsel : BitVec 2
  /-- operand type, Table 05.8 -/
  ty : BitVec 5
  /-- rounding: 0 RNE, 1 RTZ -/
  rm : BitVec 1
  /-- predicate -/
  px : BitVec 3
  /-- function code -/
  fn : BitVec 9
  /-- the second word; 0 unless BSEL is 3 -/
  imm : BitVec 64
deriving DecidableEq, Repr

/-- Format C, Table 05.3. -/
structure FmtC where
  /-- destination -/
  vd : BitVec 7
  /-- source value -/
  va : BitVec 7
  /-- coordinate i of stochastic rounding -/
  vb : BitVec 7
  /-- coordinate j of stochastic rounding -/
  vc : BitVec 7
  /-- source format code -/
  srcf : BitVec 5
  /-- destination format code -/
  dstf : BitVec 5
  /-- rounding mode -/
  rmode : BitVec 2
  /-- saturation control -/
  sat : BitVec 1
  /-- u register of the seed -/
  useed : BitVec 5
  /-- machine word: 0 U32, 1 S32, 2 U64, 3 S64 -/
  word : BitVec 2
deriving DecidableEq, Repr

/-- Format M, Table 05.4. -/
structure FmtM where
  /-- load destination, store data, atomic result -/
  vd : BitVec 7
  /-- address or index register -/
  va : BitVec 7
  /-- atomic operand; u base register -/
  vb : BitVec 7
  /-- 0 global, 1 local memory -/
  space : BitVec 2
  /-- log2 of the bytes -/
  size : BitVec 3
  /-- 0 RELAXED, 1 ACQUIRE, 2 RELEASE, 3 ACQ_REL -/
  ord : BitVec 2
  /-- 0 cluster, 1 die, 2 package, 3 system -/
  scope : BitVec 2
  /-- 0 KEEP, 1 STREAM, 2 LASTUSE, 3 PIN -/
  hint : BitVec 2
  /-- uniform base plus index -/
  ubase : BitVec 1
  /-- sign extension; signed atomic compare -/
  sx : BitVec 1
  /-- atomic operation -/
  aop : BitVec 4
  /-- signed offset in units of the access size -/
  off : BitVec 10
deriving DecidableEq, Repr

/-- Format B, Table 05.5. -/
structure FmtB where
  /-- register pair that receives the return address -/
  vd : BitVec 7
  /-- register pair of the target -/
  va : BitVec 7
  /-- signed offset in 8-byte units; TRAP code in its low 16 bits -/
  off : BitVec 32
deriving DecidableEq, Repr

/-- Format S, Table 05.6. -/
structure FmtS where
  /-- u register -/
  ux : BitVec 5
  /-- mask from u[UX] -/
  msrc : BitVec 1
  /-- mask omitted -/
  momit : BitVec 1
  /-- barrier number -/
  bn : BitVec 4
  /-- predicate written -/
  px : BitVec 3
  /-- fence scope -/
  scope : BitVec 2
  /-- mask, group count, token mask or selector -/
  imm : BitVec 32
deriving DecidableEq, Repr

/-- Format A, Table 05.7. -/
structure FmtA where
  /-- u register of the base -/
  ua : BitVec 5
  /-- unsigned offset in 64-byte units -/
  off : BitVec 15
  /-- array -/
  arr : BitVec 1
  /-- token -/
  tok : BitVec 4
deriving DecidableEq, Repr

/-- A die-link flit (Table 09.3). -/
structure Flit where
  /-- FL_KIND [R305, file 09] -/
  kind : BitVec 4 := 0
  /-- FL_CLASS [R305, file 09] -/
  cls : BitVec 3 := 0
  /-- FL_CHAN [R305, file 09] -/
  chan : BitVec 2 := 0
  /-- FL_DATA [R305, file 09] -/
  data : Bool := false
  /-- FL_ACK [R305, file 09] -/
  ack : BitVec 16 := 0
  /-- FL_CR_FIFO [R305, file 09] -/
  crFifo : BitVec 5 := 0
  /-- FL_CR_COUNT [R305, file 09] -/
  crCount : BitVec 10 := 0
  /-- message header, internal to the package [R305, file 09] -/
  header : BitVec 128 := 0
  /-- payload; missing bytes are 0 [R305, file 09] -/
  payload : List (BitVec 8) := []
  /-- FL_CRC [R306, file 09] -/
  crc : BitVec 64 := 0
deriving DecidableEq, Repr

/-- A fabric message (Tables 10.6, 10.7). -/
structure FMsg where
  /-- FM_KIND [R344, file 10] -/
  kind : BitVec 4 := 0
  /-- FM_TC [R344, file 10] -/
  tc : BitVec 2 := 0
  /-- FM_HOPS [R344, file 10] -/
  hops : BitVec 4 := 0
  /-- FM_UNITS [R344, file 10] -/
  units : BitVec 4 := 0
  /-- FM_SRC [R344, file 10] -/
  src : BitVec 12 := 0
  /-- FM_DST [R344, file 10] -/
  dst : BitVec 12 := 0
  /-- FM_ALIVE [R344, file 10] -/
  alive : BitVec 16 := 0
  /-- FM_ADDR [R344, file 10] -/
  addr : BitVec 44 := 0
  /-- FM_HINT [R344, file 10] -/
  hint : BitVec 2 := 0
  /-- FM_LENIENT [R344, file 10] -/
  lenient : Bool := false
  /-- FM_BYTES, bytes minus 1 [R344, file 10] -/
  bytes : BitVec 8 := 0
  /-- FM_AOP [R344, file 10] -/
  aop : BitVec 4 := 0
  /-- FM_A64 [R344, file 10] -/
  a64 : Bool := false
  /-- FM_REL [R344, file 10] -/
  rel : Bool := false
  /-- FM_TAG [R344, file 10] -/
  tag : BitVec 16 := 0
  /-- FM_STATUS [R344, file 10] -/
  status : BitVec 8 := 0
  /-- FM_COLL_ID [R344, file 10] -/
  collId : BitVec 16 := 0
  /-- FM_CHUNK [R344, file 10] -/
  chunk : BitVec 24 := 0
  /-- FM_FMT [R344, file 10] -/
  fmt : BitVec 5 := 0
  /-- FM_ROP [R344, file 10] -/
  rop : BitVec 2 := 0
  /-- FM_WIRE32 [R344, file 10] -/
  wire32 : Bool := false
  /-- FM_TREE [R344, file 10] -/
  tree : BitVec 2 := 0
  /-- FM_STAGE [R344, file 10] -/
  stage : BitVec 2 := 0
  /-- FM_AUX [R344, file 10] -/
  aux : BitVec 32 := 0
  /-- data bytes [R343, file 10] -/
  data : List (BitVec 8) := []
deriving DecidableEq, Repr

/-- A strait flit (Table 10.2). -/
structure SFlit where
  /-- SF_KIND [R329, file 10] -/
  kind : BitVec 4 := 0
  /-- SF_TC [R329, file 10] -/
  tc : BitVec 2 := 0
  /-- SF_VC [R329, file 10] -/
  vc : BitVec 3 := 0
  /-- SF_START [R329, file 10] -/
  start : BitVec 7 := 0
  /-- SF_ACK [R329, file 10] -/
  ack : BitVec 16 := 0
  /-- SF_CR_BUF [R329, file 10] -/
  crBuf : BitVec 5 := 0
  /-- SF_CR_COUNT [R329, file 10] -/
  crCount : BitVec 10 := 0
  /-- SF_CTRL [R329, file 10] -/
  ctrl : BitVec 128 := 0
  /-- body; missing bytes are 0 [R329, file 10] -/
  body : List (BitVec 8) := []
  /-- SF_CRC [R330, file 10] -/
  crc : BitVec 64 := 0
deriving DecidableEq, Repr

/-- An event record (Table 12.9). -/
structure EvRec where
  /-- EV_TYPE [R454, file 12] -/
  typ : BitVec 8 := 0
  /-- EV_LEVEL [R454, file 12] -/
  level : BitVec 8 := 0
  /-- EV_ACTION [R454, file 12] -/
  action : BitVec 8 := 0
  /-- EV_STATUS [R454, file 12] -/
  status : BitVec 8 := 0
  /-- EV_LOC [R454, file 12] -/
  loc : BitVec 32 := 0
  /-- EV_TICKS [R454, file 12] -/
  ticks : BitVec 64 := 0
  /-- EV_DETAIL [R454, file 12] -/
  detail : BitVec 128 := 0
deriving DecidableEq, Repr

/-- The error that an access to a line of memory meets (R244, file 07; R271, R274, R275, file 08). -/
inductive MemErr where
  /-- no error -/
  | none
  /-- the slice's code corrected a byte -/
  | sliceCorrected
  /-- an uncorrectable error in the line the slice holds -/
  | sliceUncorrectable
  /-- the channel's code corrected some bytes of a codeword of the line -/
  | channelCorrected (codeword bytes : Nat)
  /-- an uncorrectable codeword of the line, or a parity mismatch of a LIGHT frame -/
  | channelUncorrectable (codeword : Nat)
  /-- the slice's code corrected a byte of the line's tag entry -/
  | tagCorrected
  /-- an uncorrectable error in the line's tag entry -/
  | tagUncorrectable
  /-- the slice's code corrected a byte of the line's directory entry -/
  | dirCorrected
  /-- an uncorrectable error in the line's directory entry -/
  | dirUncorrectable
  /-- the slice's code corrected a byte of a ledger entry -/
  | ledgerCorrected
  /-- an error of a codeword of the channel that its code takes for a correctable one, or does not see: bytes of the line, by
  their offsets, are delivered wrong; `bytes` of them were "corrected", 0 where nothing was seen -/
  | channelMissed (codeword bytes : Nat) (data : List (Nat × BitVec 8))
  /-- two errors, met in this order -/
  | both (a b : MemErr)
deriving DecidableEq, Repr

/-- The master classes of the slice counters (R250, file 07). -/
inductive Master where
  | core | tm | hub | host | fabric | fw
deriving DecidableEq, Repr

/-- A host write to configuration space or to an MSI-X table entry of a function (R369, R375, R376, file 11). -/
inductive CfgWrite where
  /-- NumVFs with VF Enable in the SR-IOV capability of the physical function -/
  | numVfs (n : Nat)
  /-- BAR2 resized: log2 of its bytes -/
  | bar2 (fn log2 : Nat)
  /-- the power state: D3hot or D0 -/
  | power (d3 : Bool)
  /-- PASID Enable of a function -/
  | pasid (fn : Nat) (en : Bool)
  /-- an MSI-X table entry: address, data and mask bit -/
  | msix (fn v : Nat) (addr : BitVec 64) (data : BitVec 32) (masked : Bool)
deriving DecidableEq, Repr


/-- What the monitors read in one almanac round, and what the power controller measured over it (R484 to R486, R409, file 13 and
file 11; R326, file 10; R442, file 12; R315, file 09). Missing entries read as 0. -/
structure Samples where
  /-- temperature, logic: four per cluster, by cluster × 4, in 0.125 °C -/
  logic : List Int := []
  /-- temperature, regulators: one per cluster -/
  reg : List Int := []
  /-- temperature, SRAM tier: three per slice, by slice × 3; the third is the spare -/
  sram : List Int := []
  /-- temperature, dense tiers: by (stack × 8 + tier) × 8 + pair of clusters; tier 0 is tier 1 -/
  dense : List Int := []
  /-- temperature, hub: 32 -/
  hub : List Int := []
  /-- temperature, optical engines: four per engine -/
  opt : List Int := []
  /-- domain currents in 0.1 A -/
  domI : List Nat := []
  /-- domain voltages in mV -/
  domMv : List Nat := []
  /-- the eleven rail currents in 0.1 A, in the order of Table 13.1 -/
  railI : List Nat := []
  /-- the eleven rail voltages in mV -/
  railMv : List Nat := []
  /-- direct energy of the round: (queue, in 0.000001 uJ) -/
  direct : List (Nat × Nat) := []
  /-- part of a queue's direct energy that belongs to the tasks of a LAUNCH: (queue, descriptor, in 0.000001 uJ) -/
  tasks : List (Nat × Nat × Nat) := []
  /-- ring oscillators: (slot, loss against shipment, loss projected for 30 days), in 0.1 % -/
  rings : List (Nat × Nat × Nat) := []
  /-- increments of the network counters: (point × 16 + class × 2 + direction, NET_BYTES, NET_SHORT) -/
  net : List (Nat × Nat × Nat) := []
  /-- laser sources: (engine, powers, temperatures, levels set) -/
  sources : List (Nat × BitVec 32 × BitVec 32 × BitVec 32) := []
  /-- functions whose telemetry write fails -/
  telFail : List Nat := []
deriving DecidableEq, Repr


/-- What start-up finds in a start (R507 to R513, R518, R523, R524, file 14). Every START_UP command carries one; each step reads its
own part. -/
structure StartIn where
  /-- the hub fails a test that no spare covers -/
  hubBad : Bool := false
  /-- key slots that the default tables of the image ask to revoke -/
  revoke : BitVec 4 := 0
  /-- lanes that fail at training or at their check: (direction into a link endpoint, lane, error ratio as
  −log10 × 10) -/
  linkLanes : List (Nat × Nat × Nat) := []
  /-- lanes that fail the check of R513: (strait, lane, error ratio as −log10 × 10) -/
  straitLanes : List (Nat × Nat × Nat) := []
  /-- hybrid-bond lanes that fail their check: (cluster, bundle, lane) -/
  bonds : List (Nat × Nat × Nat) := []
  /-- TSV lanes that fail their check: (channel, lane) -/
  tsvs : List (Nat × Nat) := []
  /-- runtime stores that are not full after the broadcast: (slot, chunks missing) -/
  missing : List (Nat × BitVec 64) := []
  /-- runtime stores that fail BC_IMG_CRC though full -/
  badStores : List Nat := []
  /-- 64 KiB pages with a failed codeword, as device physical address div 65,536 -/
  pages : List Nat := []
  /-- channels with a row that fails in more than one bank group -/
  channels : List Nat := []
  /-- slice rows that fail: (slice, array, macro, row, sets) -/
  rows : List (Nat × Nat × Nat × Nat × List Nat) := []
deriving DecidableEq, Repr

end Sys2Proof.Machine
end

