-- ==== Sys2Proof/Syntax.lean ====
section
/-! DEFINITION. The commands: one constructor for each row of the table of operations and events. -/

namespace Sys2Proof

open Machine

/-- The commands of the package: its instructions and its events (spec/opcode_table.json; rule in brackets). -/
inductive Instr where
  /-- IADD: Integer add on the acting threads, wrapping modulo 2^w. [R159] -/
  | iadd (site : Site) (h : Hdr) (f : FmtR)
  /-- ISUB: Integer subtract on the acting threads. [R159] -/
  | isub (site : Site) (h : Hdr) (f : FmtR)
  /-- IMUL: Low w bits of an integer product. [R159] -/
  | imul (site : Site) (h : Hdr) (f : FmtR)
  /-- IMULH: High w bits of the 2w-bit integer product. [R159] -/
  | imulh (site : Site) (h : Hdr) (f : FmtR)
  /-- IMAD: Integer multiply-add, low w bits. [R159] -/
  | imad (site : Site) (h : Hdr) (f : FmtR)
  /-- IMIN: Integer minimum, signed for I types. [R159] -/
  | imin (site : Site) (h : Hdr) (f : FmtR)
  /-- IMAX: Integer maximum, signed for I types. [R159] -/
  | imax (site : Site) (h : Hdr) (f : FmtR)
  /-- IABS: Integer absolute value. [R159] -/
  | iabs (site : Site) (h : Hdr) (f : FmtR)
  /-- BLOG: Bitwise logic selected by a function table in FN. [R159] -/
  | blog (site : Site) (h : Hdr) (f : FmtR)
  /-- SHL: Shift left by b mod w. [R159] -/
  | shl (site : Site) (h : Hdr) (f : FmtR)
  /-- SHR: Shift right, arithmetic or logical by type. [R159] -/
  | shr (site : Site) (h : Hdr) (f : FmtR)
  /-- BFE: Bit-field extract. [R159] -/
  | bfe (site : Site) (h : Hdr) (f : FmtR)
  /-- BFI: Bit-field insert. [R159] -/
  | bfi (site : Site) (h : Hdr) (f : FmtR)
  /-- POPC: Population count. [R159] -/
  | popc (site : Site) (h : Hdr) (f : FmtR)
  /-- CLZ: Count leading zeros. [R159] -/
  | clz (site : Site) (h : Hdr) (f : FmtR)
  /-- BREV: Bit-order reversal. [R159] -/
  | brev (site : Site) (h : Hdr) (f : FmtR)
  /-- ICMP: Integer compare writing a predicate. [R159] -/
  | icmp (site : Site) (h : Hdr) (f : FmtR)
  /-- SEL: Select a or b by a predicate. [R159] -/
  | sel (site : Site) (h : Hdr) (f : FmtR)
  /-- MOV: Bit copy of source B. [R159] -/
  | mov (site : Site) (h : Hdr) (f : FmtR)
  /-- PLOG: Predicate logic writing p[PX]. [R159] -/
  | plog (site : Site) (h : Hdr) (f : FmtR)
  /-- BYTESEL: Byte select from an 8-byte pair. [R159] -/
  | bytesel (site : Site) (h : Hdr) (f : FmtR)
  /-- FADD: Floating add, rounded under RM. [R159] -/
  | fadd (site : Site) (h : Hdr) (f : FmtR)
  /-- FSUB: Floating subtract. [R159] -/
  | fsub (site : Site) (h : Hdr) (f : FmtR)
  /-- FMUL: Floating multiply. [R159] -/
  | fmul (site : Site) (h : Hdr) (f : FmtR)
  /-- FFMA: Fused multiply-add with one rounding. [R159] -/
  | ffma (site : Site) (h : Hdr) (f : FmtR)
  /-- FMIN: Floating minimum under R52. [R159] -/
  | fmin (site : Site) (h : Hdr) (f : FmtR)
  /-- FMAX: Floating maximum under R52. [R159] -/
  | fmax (site : Site) (h : Hdr) (f : FmtR)
  /-- FCMP: FP32 compare writing a predicate. [R159] -/
  | fcmp (site : Site) (h : Hdr) (f : FmtR)
  /-- FSQRT: Correctly rounded FP32 square root. [R159] -/
  | fsqrt (site : Site) (h : Hdr) (f : FmtR)
  /-- RCP: Reciprocal special function. [R53] -/
  | rcp (site : Site) (h : Hdr) (f : FmtR)
  /-- RSQ: Reciprocal square root special function. [R53] -/
  | rsq (site : Site) (h : Hdr) (f : FmtR)
  /-- EX2: Base-2 exponential special function. [R53] -/
  | ex2 (site : Site) (h : Hdr) (f : FmtR)
  /-- LG2: Base-2 logarithm special function. [R53] -/
  | lg2 (site : Site) (h : Hdr) (f : FmtR)
  /-- SIN: Sine special function. [R53] -/
  | sin (site : Site) (h : Hdr) (f : FmtR)
  /-- COS: Cosine special function. [R53] -/
  | cos (site : Site) (h : Hdr) (f : FmtR)
  /-- TANH: Hyperbolic tangent special function. [R53] -/
  | tanh (site : Site) (h : Hdr) (f : FmtR)
  /-- CVT: Converts an element between two formats; a block-scaled target forms one block from the group. [R160] -/
  | cvt (site : Site) (h : Hdr) (f : FmtC)
  /-- CVT_FW: Converts a format to a machine word. [R160] -/
  | cvtFw (site : Site) (h : Hdr) (f : FmtC)
  /-- CVT_WF: Converts a machine word to a format. [R160] -/
  | cvtWf (site : Site) (h : Hdr) (f : FmtC)
  /-- XLANE: Reads a register of another thread of the group. [R163] -/
  | xlane (site : Site) (h : Hdr) (f : FmtR)
  /-- VOTE: ALL, ANY or BALLOT vote over acting threads. [R164] -/
  | vote (site : Site) (h : Hdr) (f : FmtR)
  /-- LRED: Reduction over acting threads written to every acting thread. [R164] -/
  | lred (site : Site) (h : Hdr) (f : FmtR)
  /-- READLANE: Copies one thread's register into a uniform register. [R159] -/
  | readlane (site : Site) (h : Hdr) (f : FmtR)
  /-- UIADD: Uniform integer add. [R159] -/
  | uiadd (site : Site) (h : Hdr) (f : FmtR)
  /-- UIMUL: Uniform integer multiply. [R159] -/
  | uimul (site : Site) (h : Hdr) (f : FmtR)
  /-- UBLOG: Uniform bitwise logic. [R159] -/
  | ublog (site : Site) (h : Hdr) (f : FmtR)
  /-- USHL: Uniform shift left. [R159] -/
  | ushl (site : Site) (h : Hdr) (f : FmtR)
  /-- USHR: Uniform shift right. [R159] -/
  | ushr (site : Site) (h : Hdr) (f : FmtR)
  /-- UMOV: Uniform move. [R159] -/
  | umov (site : Site) (h : Hdr) (f : FmtR)
  /-- UICMP: Uniform compare written to every acting thread's predicate. [R159] -/
  | uicmp (site : Site) (h : Hdr) (f : FmtR)
  /-- LD: Load from global or local memory with ordering, scope and hint. [R165] -/
  | ld (site : Site) (h : Hdr) (f : FmtM)
  /-- ST: Store to global or local memory. [R165] -/
  | st (site : Site) (h : Hdr) (f : FmtM)
  /-- ULD: Uniform load once per issue. [R170] -/
  | uld (site : Site) (h : Hdr) (f : FmtM)
  /-- ATOM: Atomic returning the old value, placed by scope. [R169] -/
  | atom (site : Site) (h : Hdr) (f : FmtM)
  /-- RED: Atomic without return. [R169] -/
  | red (site : Site) (h : Hdr) (f : FmtM)
  /-- PREF: Prefetches a line toward the L1. [R170] -/
  | pref (site : Site) (h : Hdr) (f : FmtM)
  /-- UNPIN: Ends the PIN hint of a slice line. [R227] -/
  | unpin (site : Site) (h : Hdr) (f : FmtM)
  /-- INV_L1: Invalidates the core's L1. [R178] -/
  | invL1 (site : Site) (h : Hdr) (f : FmtS)
  /-- FENCE: Release and acquire fence at a scope; the threads wait until it completes. [R177] -/
  | fence (site : Site) (h : Hdr) (f : FmtS)
  /-- BRA: Relative branch of the acting threads. [R171] -/
  | bra (site : Site) (h : Hdr) (f : FmtB)
  /-- BRX: Branch to an address in a register pair. [R171] -/
  | brx (site : Site) (h : Hdr) (f : FmtB)
  /-- CALL: Branch saving the return address in a register pair. [R171] -/
  | call (site : Site) (h : Hdr) (f : FmtB)
  /-- RET: Return branch through a register pair. [R171] -/
  | ret (site : Site) (h : Hdr) (f : FmtB)
  /-- EXIT: The acting threads end. [R135] -/
  | exit (site : Site) (h : Hdr) (f : FmtB)
  /-- NOP: Instruction with no effect. [R170] -/
  | nop (site : Site) (h : Hdr) (f : FmtB)
  /-- TRAP: Traps the task with PROGRAM_FAULT and a trap code. [R143] -/
  | trap (site : Site) (h : Hdr) (f : FmtB)
  /-- BAR_G: Group barrier arrival; releases when the mask has arrived or exited. [R122] -/
  | barG (site : Site) (h : Hdr) (f : FmtS)
  /-- BAR_C_SYNC: Named core barrier arrival with wait. [R126] -/
  | barCSync (site : Site) (h : Hdr) (f : FmtS)
  /-- BAR_C_ARRIVE: Named core barrier arrival without wait. [R126] -/
  | barCArrive (site : Site) (h : Hdr) (f : FmtS)
  /-- BAR_CL_SYNC: Cluster barrier arrival with a cluster-scope fence and wait. [R130] -/
  | barClSync (site : Site) (h : Hdr) (f : FmtS)
  /-- BAR_CL_ARRIVE: Cluster barrier arrival without wait. [R130] -/
  | barClArrive (site : Site) (h : Hdr) (f : FmtS)
  /-- MMA: Copies a matrix descriptor into an array queue and counts its token. [R173] -/
  | mma (site : Site) (h : Hdr) (f : FmtA)
  /-- TM: Copies a tile-mover descriptor into the tile mover's queue. [R173] -/
  | tm (site : Site) (h : Hdr) (f : FmtA)
  /-- WAITT: The acting threads wait until the masked tokens are clear. [R175] -/
  | waitt (site : Site) (h : Hdr) (f : FmtS)
  /-- TESTT: Writes a predicate telling whether the masked tokens are clear. [R175] -/
  | testt (site : Site) (h : Hdr) (f : FmtS)
  /-- SYSR: Reads a system value into a uniform register. [R179] -/
  | sysr (site : Site) (h : Hdr) (f : FmtS)
  /-- DATA_RETURN: Data of an outstanding load or atomic returns to the core and frees its dependants. [R186] -/
  | dataReturn (core index : Nat)
  /-- LOADB: Matrix descriptor at the queue head loads a stationary tile over 32 cycles, after its checks. [R71] -/
  | loadb (core arr : Nat)
  /-- RUN: Matrix descriptor at the queue head streams M rows of A through the loaded tile. [R67] -/
  | run (core arr rows : Nat)
  /-- LOADB_RUN: Matrix descriptor that performs a LOADB and then a RUN. [R73] -/
  | loadbRun (core arr rows : Nat)
  /-- MATRIX_COMPLETION: A matrix descriptor completes and its token count falls. [R82] -/
  | matrixCompletion (core arr : Nat)
  /-- ARRAY_STOP_DONE: The stopped array holds no work and its save area is written. [R92] -/
  | arrayStopDone (core arr : Nat)
  /-- ARRAY_PARITY_MISMATCH: A parity mismatch in an array discards rows, reloads the tile and restarts, or hands a hard fault to recovery. [R95] -/
  | arrayParityMismatch (core arr : Nat)
  /-- TASK_DISPATCH: The partition dispatcher gives a free logical core a task, or a gang, starting it with its initial state. [R396] -/
  | taskDispatch (p : Nat)
  /-- TASK_END: A task ends once its groups, asynchronous work and writes are done, and reports its status. [R135] -/
  | taskEnd (core : Nat)
  /-- WATCHDOG_EXPIRY: A task's watchdog reaches the queue's watchdog time and traps it. [R145] -/
  | watchdogExpiry (core : Nat)
  /-- L1_LINE_EXPIRY: An L1 line is invalidated 4,096 core cycles after its fill. [R190] -/
  | l1LineExpiry (core line : Nat)
  /-- LOAD: Tile-mover descriptor copying global memory into local memory. [R208] -/
  | load (core entry rows : Nat)
  /-- STORE: Tile-mover descriptor copying local memory to global memory. [R208] -/
  | store (core entry rows : Nat)
  /-- LCOPY: Tile-mover descriptor copying to a gang member's local memory. [R208] -/
  | lcopy (core entry rows : Nat)
  /-- LOADT: Tile-mover descriptor loading 16-bit data transposed. [R210] -/
  | loadt (core entry : Nat)
  /-- PREFETCH: Tile-mover descriptor bringing lines into their home slices. [R208] -/
  | prefetch (core entry rows : Nat)
  /-- LFILL: Tile-mover descriptor filling local memory with a pattern. [R208] -/
  | lfill (core entry rows : Nat)
  /-- TM_COMPLETION: A tile-mover descriptor completes and its token count falls. [R213] -/
  | tmCompletion (core entry : Nat)
  /-- LOADT_BLOCK: An assembly slice gathers 32 source rows and returns the block transposed. [R241] -/
  | loadtBlock (core entry : Nat)
  /-- READ: A cluster-cache read miss at the home directory. [R236] -/
  | read (cl line hint asid : Nat) (lenient : Bool) (err : MemErr)
  /-- OWN: A cluster-cache ownership request for a line entering P. [R236] -/
  | own (cl line : Nat)
  /-- SLICE_READ: A read performed at the home slice by a master other than a cluster cache. [R236] -/
  | sliceRead (m : Master) (line hint asid : Nat) (lenient narrow : Bool) (err : MemErr)
  /-- SLICE_WRITE: A write, RED or wider-scope atomic performed at the home slice. [R238] -/
  | sliceWrite (m : Master) (line hint asid : Nat) (data : List (Nat × Byte))
  /-- LASTUSE_READ: A LASTUSE read returns the line, drops it without write-back and enters the ledger. [R229] -/
  | lastuseRead (m : Master) (line asid : Nat) (lenient narrow : Bool) (err : MemErr)
  /-- E_EVICTION_NOTICE: A cluster cache reports eviction of an E line. [R234] -/
  | eEvictionNotice (cl line : Nat)
  /-- M_WRITE_BACK: A cluster cache writes back an M line. [R234] -/
  | mWriteBack (cl line : Nat)
  /-- INVALIDATION: A cluster cache receives an invalidation and acknowledges it. [R236] -/
  | invalidation (line cl : Nat)
  /-- RECALL: A cluster cache receives a recall and returns its copy. [R236] -/
  | recallLine (line cl : Nat) (keep : Bool)
  /-- ACKNOWLEDGEMENT: The home slice receives an acknowledgement, sending the grant or completion when enough have arrived. [R237] -/
  | acknowledgement (line cl : Nat)
  /-- GRANT: A cluster cache receives ownership with the full line and moves the line from P to M. [R192] -/
  | grant (line cl : Nat)
  /-- OWN_COMPLETION: A cluster cache learns that every cache has acknowledged, making the write performed at package scope. [R237] -/
  | ownCompletion (line cl : Nat)
  /-- LEDGER_PURGE: Mainland's purge command removes ledger entries of a physical range. [R233] -/
  | ledgerPurge (lo len : Nat)
  /-- ROW_FAILED: A slice data-array row is declared failed and repaired onto a spare row. [R245] -/
  | rowFailed (k arr macro_ row : Nat) (sets : List Nat)
  /-- REFRESH: A dense bank row is refreshed within its band's window. [R279] -/
  | refresh (ch : Nat)
  /-- SCRUB: Patrol scrub reads a STRONG line and writes back corrections. [R273] -/
  | scrub (ch : Nat) (err : MemErr)
  /-- PAGE_RETIREMENT: Mainland migrates and retires a 64 KiB page. [R277] -/
  | pageRetirement (addr : Nat) (new : Option Nat) (cause : Nat)
  /-- CHANNEL_LOST: A dense channel stops answering and is mapped out. [R280] -/
  | channelLost (ch : Nat)
  /-- CHANNEL_MAP_OUT: A field map-out pauses the region, re-lays the pool and re-pairs the owner. [R283] -/
  | channelMapOut (ch : Nat) (moves : List (Nat × Nat)) (pause : Nat)
  /-- PART_MEM_CFG_WRITE: Posted write requesting a region's memory layout for the next partition reset. [R261] -/
  | partMemCfgWrite (port r : Nat) (v : BitVec 64)
  /-- LINK_IDLE_FLIT: An idle die-link flit carries acknowledgement and credits. [R305] -/
  | linkIdleFlit (ep : Nat) (f : Flit)
  /-- LINK_MESSAGE_FLIT: A die-link message flit is CRC-checked and delivered or discarded. [R306] -/
  | linkMessageFlit (ep : Nat) (f : Flit)
  /-- LINK_REPLAY_REQUEST: The transmitter resends flits after the last good one. [R307] -/
  | linkReplayRequest (ep : Nat) (f : Flit)
  /-- LINK_RETRAIN_MARKER: A retrain marker flit ends a retraining on a die link. [R308] -/
  | linkRetrainMarker (ep : Nat) (f : Flit)
  /-- LINK_RETRAIN: A die link retrains, sparing a failed lane and replaying. [R308] -/
  | linkRetrain (ep : Nat) (lane : Option Nat)
  /-- LINK_DOWN: A die link or hub half is declared down when spares run out. [R446] -/
  | linkDown (ep cause : Nat)
  /-- SPINE_CLOCK_IDLE: After 1 ms of an idle region the spine clock falls to 300 MHz. [R300] -/
  | spineClockIdle (r : Nat)
  /-- LINK_QOS_CLASS_WRITE: Posted write requesting a class share, applied at the next almanac round. [R313] -/
  | linkQosClassWrite (port c : Nat) (v : BitVec 64)
  /-- LINK_DT_CFG_WRITE: Posted write setting the distance-table buffer. [R318] -/
  | linkDtCfgWrite (port : Nat) (v : BitVec 64)
  /-- DISTANCE_TABLE_REWRITE: Mainland rewrites the distance table after a mapping change. [R321] -/
  | distanceTableRewrite
  /-- TARGET_RESETTING_RETRY: A sender resends a message answered target resetting after 1 µs. [R317] -/
  | targetResettingRetry (cl : Nat)
  /-- LASER_SAMPLE: Every 10 µs an engine samples its laser inputs and may switch input. [R325] -/
  | laserSample (oe good low : Nat)
  /-- STRAIT_IDLE_FLIT: An idle strait flit carries acknowledgement and credits. [R329] -/
  | straitIdleFlit (sn : Nat) (f : SFlit) (fec : Nat) (unc replay : Bool)
  /-- STRAIT_BODY_FLIT: A strait body flit is CRC-checked and its units taken. [R330] -/
  | straitBodyFlit (sn : Nat) (f : SFlit) (fec : Nat) (unc replay : Bool)
  /-- STRAIT_REPLAY_REQUEST: A strait transmitter resends after the acknowledged flit. [R330] -/
  | straitReplayRequest (sn : Nat) (f : SFlit)
  /-- STRAIT_RETRAIN_MARKER: A retrain marker passes and traffic resumes on a strait. [R331] -/
  | straitRetrainMarker (sn : Nat) (f : SFlit)
  /-- LANE_MAP_CHANGE: A lane-map change moves a failed lane to the spare wavelength. [R331] -/
  | laneMapChange (sn : Nat) (f : SFlit)
  /-- LANE_FAILURE: A strait lane fails and the receiver starts the spare-wavelength swap or four-lane retrain. [R331] -/
  | laneFailure (sn lane : Nat)
  /-- STRAIT_RETRAIN: A strait retrains after 16 failures of one sequence number. [R330] -/
  | straitRetrain (sn : Nat)
  /-- STRAIT_DOWN: A strait goes down and switches drop it from their masks. [R332] -/
  | straitDown (sn : Nat)
  /-- STRAIT_TRAINED: A strait finishes training with its peer and carries flits. [R326] -/
  | straitTrained (sn peerId peerPort : Nat) (peerValid : Bool)
  /-- FAB_JOIN: Writing FAB_EN = 1 sends a claim for the requested package ID. [R335] -/
  | fabJoin (port id : Nat)
  /-- FAB_LEAVE: Writing FAB_EN = 0 leaves the fabric and releases the ID. [R335] -/
  | fabLeave (port id : Nat)
  /-- CLAIM_TIMEOUT: A claim unanswered for 10 ms is taken and the package joins. [R335] -/
  | claimTimeout
  /-- LINKSTATE_FLOOD: A package floods its strait list at least once per second. [R336] -/
  | linkstateFlood
  /-- THROUGH_TRAFFIC: The switch forwards a message not addressed to the package. [R341] -/
  | throughTraffic (sn : Nat) (m : FMsg)
  /-- PUT: A remote write is performed at the home slices in class FABRIC. [R346] -/
  | put (m : FMsg)
  /-- GET: A remote read answered with GET_DATA. [R346] -/
  | get (m : FMsg)
  /-- ATOMIC: A remote atomic answered with ATOMIC_RET. [R346] -/
  | atomic (m : FMsg)
  /-- NOTIFY: A remote release add to a 64-bit word. [R346] -/
  | notify (m : FMsg)
  /-- GET_DATA: The answer to a GET returns its data. [R343] -/
  | getData (m : FMsg)
  /-- ATOMIC_RET: The answer to an ATOMIC returns the old value. [R343] -/
  | atomicRet (m : FMsg)
  /-- RESP: A status answer to a request, acted on by FM_STATUS. [R342] -/
  | resp (m : FMsg)
  /-- COLL: A collective or guard chunk arrives and is reduced or forwarded. [R351] -/
  | coll (m : FMsg)
  /-- HEARTBEAT: A guard-group liveness message arrives. [R360] -/
  | heartbeat (m : FMsg)
  /-- LINKSTATE: A link-state message updates the route table. [R336] -/
  | linkstate (m : FMsg)
  /-- SYNC: An ID claim, or a reset of a flow's alive counters. [R345] -/
  | sync (sn : Nat) (m : FMsg)
  /-- ACK: A cumulative acknowledgement frees a flow's kept messages. [R345] -/
  | ack (m : FMsg)
  /-- NAK: A negative acknowledgement makes the sender resend from a counter. [R345] -/
  | nak (m : FMsg)
  /-- ACK_TIMER: A receiver sends a cumulative ACK 2 µs after an unacknowledged acceptance. [R345] -/
  | ackTimer (peer tc : Nat)
  /-- RETRANSMIT_TIMEOUT: After 100 µs without ACK the sender resends from the oldest kept message. [R345] -/
  | retransmitTimeout (peer tc : Nat)
  /-- FABRIC_RETRY: A request answered TARGET_RESETTING or NOT_READY is sent again. [R342] -/
  | fabricRetry (tag : Nat)
  /-- NO_ANSWER_TIMEOUT: After 1 s with no answer the originating work ends with DEVICE_LOST. [R342] -/
  | noAnswerTimeout (tag : Nat)
  /-- RELEASE_MARK_EXPIRY: A switch drops the release mark of an ID after 10 s. [R364] -/
  | releaseMarkExpiry (id : Nat)
  /-- COLLECTIVE_ABORT: An abort for a COLL_ID ends this member's collective with ABORTED. [R353] -/
  | collectiveAbort (m : FMsg)
  /-- ARRIVE: The domain coordinator receives a package's arrival at a guard point. [R358] -/
  | arrive (m : FMsg)
  /-- POINT: The coordinator's POINT establishes point g+1 and starts phase P. [R358] -/
  | point (m : FMsg)
  /-- COMMIT_P: Phase P is committed and phase Q begins. [R358] -/
  | commitP (m : FMsg)
  /-- COMMIT_Q: Phase Q is committed, shadows are released and GUARD POINT completes. [R358] -/
  | commitQ (m : FMsg)
  /-- HALT: Guarded queues stop dispatch and discard work in flight after a loss. [R361] -/
  | halt (m : FMsg)
  /-- RESUME: Guarded queues restart at the target's resume mark. [R361] -/
  | resume (m : FMsg)
  /-- GUARD_LEAVE: A package tells its group coordinator that it leaves, and is declared lost at once. [R363] -/
  | guardLeave (m : FMsg)
  /-- TAKEOVER: The spare releases its ID and takes the lost package's ID. [R361] -/
  | takeover (m : FMsg)
  /-- HEARTBEAT_TIMER: Every 10 ms a package sends a heartbeat to each group member. [R360] -/
  | heartbeatTimer
  /-- SELF_FENCE: After 30 ms without heartbeats a package stops its guarded queues and gives up its ID. [R360] -/
  | selfFence
  /-- LOSS_DECLARED: A group coordinator declares a silent member lost after 50 ms. [R360] -/
  | lossDeclared (id : Nat)
  /-- NO_SPARE_TIMEOUT: A group without a spare for 60 s ends its domain's guarded queues on a loss. [R366] -/
  | noSpareTimeout
  /-- PAGE_REBUILD: A data package asks for a rebuild of lost guarded pages. [R434] -/
  | pageRebuild (lo n : Nat)
  /-- GUARD_SETUP: GUARD SETUP joins a group and computes full parity. [R356] -/
  | guardSetup (q ix : Nat)
  /-- GUARD_POINT: GUARD POINT descriptor arrives at a guard point. [R358] -/
  | guardPoint (q ix : Nat)
  /-- GUARD_ADOPT: GUARD ADOPT starts the spare's rebuild of the lost package. [R361] -/
  | guardAdopt (q ix : Nat)
  /-- PORT_LINK_DOWN: A host port's link goes down; traffic moves or the functions reset by mode. [R374] -/
  | portLinkDown (n : Nat)
  /-- PORT_LINK_UP: A lost port trains again and traffic returns to its spread. [R374] -/
  | portLinkUp (n : Nat) (cxl : Bool)
  /-- PERST: PERST of a host port resets that port's functions and queues. [R503] -/
  | perst (n : Nat)
  /-- PERST_RELEASE: PERST rises and the port trains and answers configuration. [R508] -/
  | perstRelease (n : Nat) (cxl : Bool)
  /-- FUNCTION_LEVEL_RESET: An FLR disables the function's queues without completions. [R401] -/
  | functionLevelReset (port fn : Nat)
  /-- BAR2_READ: A host read through BAR2 performed at the home slice. [R377] -/
  | bar2Read (port fn off n : Nat)
  /-- BAR2_WRITE: A host write through BAR2. [R377] -/
  | bar2Write (port fn off : Nat) (data : List (BitVec 8))
  /-- BAR2_ATOMICOP: A host AtomicOp through BAR2 performed as a package-scope atomic. [R377] -/
  | bar2Atomicop (port fn off op n x y : Nat)
  /-- QUEUE_ENABLE: Writing QUE_EN = 1 checks the configuration and starts the queue. [R380] -/
  | queueEnable (q epoch : Nat) (ws : List Host.Cell)
  /-- QUEUE_DISABLE: Writing QUE_EN = 0 stops fetching and ends fetched work with ABORTED. [R384] -/
  | queueDisable (q : Nat)
  /-- DISABLE_TIMEOUT: At 10 ms after a disable, unwritable completion entries are dropped. [R384] -/
  | disableTimeout (q : Nat)
  /-- DOORBELL_INVALIDATION: A host write invalidates the CXL doorbell line and the D1 re-reads it. [R386] -/
  | doorbellInvalidation (q : Nat) (ws : List Host.Cell)
  /-- DOORBELL_POLL: A poll interval expires and the doorbell record is read. [R387] -/
  | doorbellPoll (q : Nat) (ws : List Host.Cell)
  /-- DESCRIPTOR_FETCH: Fetched descriptors return from the host ring. [R381] -/
  | descriptorFetch (q n : Nat) (ws : List Host.Cell)
  /-- NOP_DESCRIPTOR: A NOP descriptor completes with DONE. [R388] -/
  | nopDescriptor (q ix : Nat)
  /-- LAUNCH: A LAUNCH descriptor starts a grid of tasks. [R132] -/
  | launch (q ix : Nat)
  /-- COPY: A copy engine copies rows and optionally notifies. [R403] -/
  | copy (q ix n : Nat)
  /-- FILL: A copy engine fills memory with a pattern. [R390] -/
  | fill (q ix n : Nat)
  /-- CHECK: A check-value unit computes a CRC over memory. [R405] -/
  | check (q ix n : Nat)
  /-- COLLECTIVE: A COLLECTIVE descriptor starts this member's collective. [R351] -/
  | collective (q ix : Nat)
  /-- FENCE_DESCRIPTOR: A FENCE descriptor waits for earlier descriptors at its scope. [R390] -/
  | fenceDescriptor (q ix : Nat)
  /-- SIGNAL: A SIGNAL adds to or writes an event word with release. [R390] -/
  | signal (q ix : Nat)
  /-- WAIT: A WAIT reads an event word until its condition holds. [R390] -/
  | wait (q ix : Nat)
  /-- WAIT_RECHECK: A pending WAIT re-reads its word after a write or every 100 µs. [R390] -/
  | waitRecheck (q ix : Nat)
  /-- MAP_POOL: MAP POOL allocates and maps shared-pool pages. [R580] -/
  | mapPool (q ix : Nat)
  /-- MAP_PRIVATE: MAP PRIVATE maps the private slices of the partition's logical cores. [R389] -/
  | mapPrivate (q ix : Nat)
  /-- MAP_HOST: MAP HOST maps host memory. [R389] -/
  | mapHost (q ix : Nat)
  /-- MAP_REMOTE: MAP REMOTE maps another package's memory. [R389] -/
  | mapRemote (q ix : Nat)
  /-- MAP_EXPORT: MAP EXPORT exports device memory to a peer package. [R389] -/
  | mapExport (q ix : Nat)
  /-- MAP_UNMAP: MAP UNMAP removes mappings and returns pool backing. [R389] -/
  | mapUnmap (q ix : Nat)
  /-- MAP_CLASS: MAP CLASS changes the code class of frames and zeroes them. [R272] -/
  | mapClass (q ix : Nat)
  /-- MAP_PROTECT: MAP PROTECT sets permissions and the guard bit. [R389] -/
  | mapProtect (q ix : Nat)
  /-- DESCRIPTOR_WATCHDOG: A non-LAUNCH descriptor running QUE_WD_MS ends with WATCHDOG. [R391] -/
  | descriptorWatchdog (q ix : Nat)
  /-- DESCRIPTOR_COMPLETION: A completed descriptor's completion entry is written when the ring has room. [R392] -/
  | descriptorCompletion (q ix energy : Nat)
  /-- CHECK_SWITCH: A lower-class CHECK is switched out at a 64 KiB boundary. [R408] -/
  | checkSwitch (q ix : Nat)
  /-- IRQ_MOD_TIMEOUT: The moderation time expires and the interrupt is sent. [R394] -/
  | irqModTimeout (port fn v : Nat)
  /-- MSIX_UNMASK: Unmasking a vector sends its pending message. [R394] -/
  | msixUnmask (port fn v : Nat)
  /-- EVENT_LOG_FULL_RECHECK: While the event-log ring is full the consumed count is re-read every 100 µs. [R411] -/
  | eventLogFullRecheck (n : Nat) (ws : List Host.Cell)
  /-- TASK_RECOVERY: A detected fault stops, rolls back and replays a task, remapping the core if hard. [R424] -/
  | taskRecovery (core cause : Nat) (fail : Bool) (bad : Option Nat) (row : Option (Nat × Nat × Nat))
  /-- RECOMPUTATION: Lost data is restored by running its recorded producer again. [R432] -/
  | recomputation (frame : Nat) (reader : Option (Nat × Nat))
  /-- IDLE_ARRAY_TEST: An idle core runs the array pattern test. [R437] -/
  | idleArrayTest (core : Nat) (pass : Bool)
  /-- TEST_STOP: A core without idle time for 9 minutes is tested by stopping each array in turn. [R437] -/
  | testStop (core : Nat) (pass0 pass1 : Bool)
  /-- DUAL_EXECUTION: Mainland runs a twin of a task on a free core. [R439] -/
  | dualExecution (orig twin : Nat)
  /-- DUAL_COMPARISON: A twin's writes are compared with the original's. [R440] -/
  | dualComparison (twin : Nat) (cover : Bool) (fmt : Nat) (failO failT : Bool) (odd : Nat)
  /-- WEAR_MOVE: A worn slot's logical core moves to a spare at the end of its task. [R442] -/
  | wearMove (core : Nat)
  /-- EYE_SCAN: Hourly eye scan of a bond, TSV or die-link lane. [R443] -/
  | eyeScan (kind u bundle lane height : Nat) (rate : Bool)
  /-- PWROK_AON_RISE: Always-on power good rises. [R461] -/
  | pwrokAonRise
  /-- PWROK_AON_FALL: Always-on power good falls and the package takes a cold reset. [R500] -/
  | pwrokAonFall
  /-- PWROK_MAIN_RISE: Main power good rises. [R509] -/
  | pwrokMainRise
  /-- PWROK_MAIN_FALL: Main power good falls; clocks and regulators stop within 10 µs. [R461] -/
  | pwrokMainFall
  /-- PKG_RST_N_ASSERT: PKG_RST_N low holds a package reset. [R502] -/
  | pkgRstNAssert
  /-- PKG_RST_N_RELEASE: PKG_RST_N rises and skerry restarts from ROM. [R502] -/
  | pkgRstNRelease
  /-- REF25_LOSS: REF25 shows no edge for 2 µs and the package trips. [R465] -/
  | ref25Loss
  /-- REGULATOR_FAILURE: A cluster regulator fails and the cluster moves to the fallback rail. [R463] -/
  | regulatorFailure (cl : Nat) (vfbLow carries : Bool)
  /-- SET_POINT_STEP: A cluster moves one step toward its new set point. [R467] -/
  | setPointStep (cl : Nat)
  /-- CLOCK_OFF_ENTRY: An idle cluster enters CLOCK-OFF after its idle time. [R470] -/
  | clockOffEntry (cl : Nat)
  /-- GATED_ENTRY: An idle cluster enters GATED after its idle time. [R470] -/
  | gatedEntry (cl : Nat)
  /-- OFF_ENTRY: An idle cluster enters OFF after its idle time. [R470] -/
  | offEntry (cl : Nat)
  /-- OFF_EXIT_WAVE: A cluster begins an OFF exit in its region's wave slot. [R477] -/
  | offExitWave (cl : Nat)
  /-- GATE_STEP: A power-gate step opens after its die has been quiet for 10 µs. [R477] -/
  | gateStep (cl : Nat)
  /-- DROOP_TRIP: A droop detector trips and the cluster's clock stretches by 25 %. [R474] -/
  | droopTrip (cl det : Nat)
  /-- STRETCH_ESCALATE: A detector still tripped after 32 stretched cycles raises the stretch to 50 %. [R474] -/
  | stretchEscalate (cl : Nat)
  /-- STRETCH_END: Both detectors untripped for 1 µs ends the stretch. [R474] -/
  | stretchEnd (cl : Nat)
  /-- DETECTOR_DISABLE: A detector tripped for 10 ms at good voltage is disabled. [R473] -/
  | detectorDisable (cl det : Nat)
  /-- VIN_SAG: The VIN monitor trips and all clusters stretch. [R475] -/
  | vinSag (ns : Nat)
  /-- CURRENT_LIMIT_WINDOW: At each 10 µs window the current limiters apply or release stretches. [R476] -/
  | currentLimitWindow (vin sum : Nat × Nat) (dom : List (Nat × Nat))
  /-- ALMANAC_ROUND: The 1 ms round samples sensors and sets ceilings, caps, stops, bands, energy and telemetry. [R485] -/
  | almanacRound (x : Samples)
  /-- PWR_CAP_WRITE: Posted write requesting a power cap and step ceiling for the next round. [R478] -/
  | pwrCapWrite (port : Nat) (v : BitVec 64)
  /-- PWR_IDLE_CFG_WRITE: Posted write of the idle times, taken at the next round. [R472] -/
  | pwrIdleCfgWrite (port : Nat) (v : BitVec 64)
  /-- TRIP: A trip comparator fires and the package stops and goes dark. [R494] -/
  | trip (cause kind value sensor : Nat) (reading : Int)
  /-- TRIP_COOLDOWN_CHECK: Skerry re-reads the tripped sensor every second until start-up may continue. [R496] -/
  | tripCooldownCheck (reading : Int)
  /-- CYCLE_COUNT_SAVE: Skerry saves the thermal-cycle counts to flash every hour. [R498] -/
  | cycleCountSave
  /-- START_UP: Start-up runs from ROM to READY, RECOVERY or HALTED. [R509] -/
  | startUp (x : StartIn)
  /-- PARTITION_RESET: Writing PART_RST_GO resets one partition's cores, caches and work. [R505] -/
  | partitionReset (p port : Nat) (go : Bool)
  /-- SETTINGS_SAVE: Mainland rewrites the saved link settings at most hourly. [R514] -/
  | settingsSave (vals : List (Nat × Nat))
  /-- RUNTIME_REPAIR_ROUND: Stores report missing runtime chunks and mainland unicasts them. [R524] -/
  | runtimeRepairRound (missing : List (Nat × BitVec 64)) (bad : List Nat)
  /-- FW_UPDATE_DATA: Skerry receives image data, checking the header before the first erase. [R521] -/
  | fwUpdateData (off : Nat) (data : List (BitVec 8))
  /-- VERIFY_COMPLETE: Skerry reads back the image slot and checks every component hash. [R521] -/
  | verifyComplete
  /-- ACTIVATE_FIRMWARE: Skerry answers that activation needs a reset. [R521] -/
  | activateFirmware
  /-- UPDATE_STALL_TIMEOUT: A transfer stalled for 60 s is abandoned. [R522] -/
  | updateStallTimeout
  /-- REPAIR: Mailbox command journalling and applying a repair. [R449] -/
  | repair (slot : Nat) (es : List (Nat × List (BitVec 8)))
  /-- PART_GRANT: Mailbox command granting a partition to a port. [R526] -/
  | partGrant (slot p : Nat)
  /-- QUOTE: Mailbox command signing an attestation quote. [R526] -/
  | quote (slot : Nat) (nonce : List (BitVec 8))
  /-- FLASH_LOG: Mailbox command writing a record to the flash event log. [R516] -/
  | flashLog (slot : Nat) (e : EvRec)
  /-- FULL_NEXT: Mailbox command requesting a full start next time. [R511] -/
  | fullNext (slot : Nat)
  /-- RESTART: Mailbox command requesting a package reset. [R526] -/
  | restart (slot : Nat)
  /-- ACTIVATE: Mailbox command activating a spare slot within the grade. [R526] -/
  | activate (slot k : Nat)
  /-- MAINLAND_RESTART: After 100 ms without a heartbeat skerry restarts mainland. [R527] -/
  | mainlandRestart (ok : Bool)
  /-- GET_IDENTITY_CERT: DOE request returning the identity certificate. [R530] -/
  | getIdentityCert (port : Nat)
  /-- GET_ALIAS_CERT: DOE request returning the alias certificate. [R530] -/
  | getAliasCert (port : Nat)
  /-- GET_QUOTE: DOE request returning a signed quote over the nonce and measurements. [R530] -/
  | getQuote (port : Nat) (nonce : List (BitVec 8))
  /-- DEBUG_UNLOCK: A signed unlock token opens debug access until cold reset. [R532] -/
  | debugUnlock (token : List (BitVec 8))
  /-- MCTP_SET_ENDPOINT_ID: The bus owner assigns the MCTP endpoint ID. [R533] -/
  | mctpSetEndpointId (eid : Nat)
  /-- PLDM_SENSOR_READ: PLDM request returning a sensor reading. [R534] -/
  | pldmSensorRead (id : Nat)
  /-- PLDM_EVENT_READ: The BMC reads an event through the event-receiver path and ALERT_N rises. [R533] -/
  | pldmEventRead
  /-- FLASH_EVENT_LOG_READ: PLDM file transfer of the flash event log. [R516] -/
  | flashEventLogRead (lo n : Nat)
  /-- POWER_CAP_EFFECTER: BMC writes the power cap effecter, the sideband source of R478. [R534] -/
  | powerCapEffecter (w : Nat)
  /-- STEP_INDEX_CEILING_EFFECTER: BMC writes the step-index ceiling effecter. [R534] -/
  | stepIndexCeilingEffecter (k : Nat)
  /-- FULL_START_EFFECTER: BMC requests a full start at the next start. [R534] -/
  | fullStartEffecter (on : Bool)
  /-- LOW_WORD_READ: A 4-byte read of a low word fills and tags the read shadow. [R538] -/
  | lowWordRead (port fn off : Nat) (wide : Bool)
  /-- HIGH_WORD_READ: A 4-byte read of a high word returns the shadow or the live word. [R538] -/
  | highWordRead (port fn off : Nat)
  /-- LOW_WORD_WRITE: A 4-byte write of a low word fills the staging word. [R539] -/
  | lowWordWrite (port fn off : Nat) (v : BitVec 32)
  /-- HIGH_WORD_WRITE: A 4-byte write of a high word commits both words. [R539] -/
  | highWordWrite (port fn off : Nat) (v : BitVec 32)
  /-- ALIAS_WRITE: A bit-alias write sets or clears one bit indivisibly. [R543] -/
  | aliasWrite (port fn off n : Nat) (v : BitVec 32)
  /-- POSTED_WRITE_APPLIED: A posted write reaches its register and the block's BUSY clears. [R541] -/
  | postedWriteApplied (block k : Nat)
  /-- ID_QUE_HOLD_WRITE: Write holding or releasing queue fetches. [R547] -/
  | idQueHoldWrite (port fn : Nat) (v : BitVec 64)
  /-- FN_RECORD_WRITE: Write to FN_QCFG or FN_ASID, refused while the function's queues are enabled. [R549] -/
  | fnRecordWrite (port f n : Nat) (v : BitVec 64)
  /-- FN_BAR2_WRITE: Write setting a function's BAR2 window. [R549] -/
  | fnBar2Write (port f : Nat) (v : BitVec 64)
  /-- EVENT_LOG_ENABLE: Writing EVL_EN = 1 starts the event-log ring and flushes buffered records. [R550] -/
  | eventLogEnable (port : Nat) (v : BitVec 64)
  /-- TELEMETRY_CONFIG_WRITE: Posted write of TEL_CFG, taken at the next almanac round. [R551] -/
  | telemetryConfigWrite (port fn : Nat) (v : BitVec 64)
  /-- PART_GRANT_WRITE: Posted write requesting a partition grant through skerry. [R554] -/
  | partGrantWrite (port p : Nat) (v : BitVec 64)
  /-- PART_DIE_WRITE: Posted write requesting a die merge or split at the next partition reset. [R555] -/
  | partDieWrite (port d : Nat) (v : BitVec 64)
  /-- REGISTER_WRITE: A write to a BAR0 register that has no row of its own. [R537] -/
  | registerWrite (port fn off n : Nat) (v : BitVec 64)
  /-- COMPLETION_TIMEOUT: A non-posted host-memory request made for a ring, completion ring, doorbell or work gets no completion within the port's completion timeout. [R378] -/
  | completionTimeout (q : Nat) (work core : Option Nat)
  /-- HUB_LOSS: The hub is lost by a fault beyond its spares, forwarding stops and every queue's work in flight ends with DEVICE_LOST where completions can still be written. [R458] -/
  | hubLoss (canWrite : Bool)
  /-- BOND_OR_TSV_LANE_FAILURE: A hybrid-bond or TSV lane fails in service under CRC retrain and is spared, or, with spares gone, its vertical port runs at half width, its cluster is retired or its channel is mapped out. [R446] -/
  | bondOrTsvLaneFailure (kind u bundle lane : Nat) (carries : Bool)
  /-- REF25_RETURN: REF25 returns after a trip of cause 6, and skerry lets the held start-up continue. [R496] -/
  | ref25Return
  /-- CONFIGURATION_WRITE: The host writes configuration space, for example NumVFs of the SR-IOV capability or the resizable BAR2 size. [R375] -/
  | configurationWrite (port : Nat) (w : CfgWrite)
  /-- ATS_INVALIDATION: The host sends an ATS invalidation request, and the port drops the named cached translations and answers. [R369] -/
  | atsInvalidation (port fn page n : Nat)
  /-- REJECTED_READ: A BAR0 or alias read of a size or alignment other than aligned 4 or 8 bytes completes with Completer Abort and counts in ID_ERR_SIZE. [R536] -/
  | rejectedRead (port fn off n : Nat)
deriving DecidableEq, Repr

/-- RECALL under its row's own name, which alone is a word of Mathlib's. -/
abbrev Instr.recall := Instr.recallLine

end Sys2Proof
end

