-- ==== Sys2Proof/Decode.lean ====
section
/-! DEFINITION. The words of the core instructions: fields, encoder and decoder (R148 to R151, Tables 05.1 to 05.7, 05.9, 05.10,
file 05). The table of commands gives its rows no bits, so no table word spells a command. -/

namespace Sys2Proof

open Machine

/-! ### Header and formats -/

/-- The low 16 bits of an instruction: opcode, guard mode, guard predicate and the hold bits (log 8). -/
def Machine.Hdr.bits (h : Hdr) (opc : BitVec 8) : BitVec 16 := h.hold ++ h.gp ++ h.gm ++ opc

/-- The header of a word. -/
def Machine.Hdr.ofWord (w : BitVec 64) : Hdr := ⟨w.extractLsb' 8 2, w.extractLsb' 10 3, w.extractLsb' 13 3⟩

/-- Bits [63:16] of format R (Table 05.2). -/
def Machine.FmtR.bits (f : FmtR) : BitVec 48 := f.fn ++ f.px ++ f.rm ++ f.ty ++ f.bsel ++ f.vc ++ f.vb ++ f.va ++ f.vd

/-- The format R fields of a word; the second word is taken where BSEL is 3 (R151). -/
def Machine.FmtR.ofWord (w imm : BitVec 64) : FmtR :=
  { vd := w.extractLsb' 16 7, va := w.extractLsb' 23 7, vb := w.extractLsb' 30 7, vc := w.extractLsb' 37 7,
    bsel := w.extractLsb' 44 2, ty := w.extractLsb' 46 5, rm := w.extractLsb' 51 1, px := w.extractLsb' 52 3,
    fn := w.extractLsb' 55 9, imm := if w.extractLsb' 44 2 = 3 then imm else 0 }

/-- Bits [63:16] of format C (Table 05.3). -/
def Machine.FmtC.bits (f : FmtC) : BitVec 48 :=
  f.word ++ f.useed ++ f.sat ++ f.rmode ++ f.dstf ++ f.srcf ++ f.vc ++ f.vb ++ f.va ++ f.vd

/-- The format C fields of a word. -/
def Machine.FmtC.ofWord (w : BitVec 64) : FmtC :=
  { vd := w.extractLsb' 16 7, va := w.extractLsb' 23 7, vb := w.extractLsb' 30 7, vc := w.extractLsb' 37 7,
    srcf := w.extractLsb' 44 5, dstf := w.extractLsb' 49 5, rmode := w.extractLsb' 54 2, sat := w.extractLsb' 56 1,
    useed := w.extractLsb' 57 5, word := w.extractLsb' 62 2 }

/-- Bits [63:16] of format M (Table 05.4). -/
def Machine.FmtM.bits (f : FmtM) : BitVec 48 :=
  f.off ++ f.aop ++ f.sx ++ f.ubase ++ f.hint ++ f.scope ++ f.ord ++ f.size ++ f.space ++ f.vb ++ f.va ++ f.vd

/-- The format M fields of a word. -/
def Machine.FmtM.ofWord (w : BitVec 64) : FmtM :=
  { vd := w.extractLsb' 16 7, va := w.extractLsb' 23 7, vb := w.extractLsb' 30 7, space := w.extractLsb' 37 2,
    size := w.extractLsb' 39 3, ord := w.extractLsb' 42 2, scope := w.extractLsb' 44 2, hint := w.extractLsb' 46 2,
    ubase := w.extractLsb' 48 1, sx := w.extractLsb' 49 1, aop := w.extractLsb' 50 4, off := w.extractLsb' 54 10 }

/-- Bits [63:16] of format B (Table 05.5); the reserved bits are 0. -/
def Machine.FmtB.bits (f : FmtB) : BitVec 48 := f.off ++ 0#2 ++ f.va ++ f.vd

/-- The format B fields of a word. -/
def Machine.FmtB.ofWord (w : BitVec 64) : FmtB :=
  { vd := w.extractLsb' 16 7, va := w.extractLsb' 23 7, off := w.extractLsb' 32 32 }

/-- Bits [63:16] of format S (Table 05.6). -/
def Machine.FmtS.bits (f : FmtS) : BitVec 48 := f.imm ++ f.scope ++ f.px ++ f.bn ++ f.momit ++ f.msrc ++ f.ux

/-- The format S fields of a word. -/
def Machine.FmtS.ofWord (w : BitVec 64) : FmtS :=
  { ux := w.extractLsb' 16 5, msrc := w.extractLsb' 21 1, momit := w.extractLsb' 22 1, bn := w.extractLsb' 23 4,
    px := w.extractLsb' 27 3, scope := w.extractLsb' 30 2, imm := w.extractLsb' 32 32 }

/-- Bits [63:16] of format A (Table 05.7); the reserved bits are 0. -/
def Machine.FmtA.bits (f : FmtA) : BitVec 48 := 0#23 ++ f.tok ++ f.arr ++ f.off ++ f.ua

/-- The format A fields of a word. -/
def Machine.FmtA.ofWord (w : BitVec 64) : FmtA :=
  { ua := w.extractLsb' 16 5, off := w.extractLsb' 21 15, arr := w.extractLsb' 36 1, tok := w.extractLsb' 37 4 }

/-! ### Opcodes (Tables 05.9 and 05.10) -/

/-- An instruction word from its body and its header. -/
def coreWord (opc : BitVec 8) (h : Hdr) (body : BitVec 48) : BitVec 64 := body ++ Hdr.bits h opc

/-- The words of a core instruction: the first, and the second, which is 0 where there is none; none for a command that is no
instruction. -/
def encodeCore (i : Instr) : Option (BitVec 64 × BitVec 64) :=
  match i with
  | .iadd _ h f => some (coreWord 0x00 h f.bits, f.imm)
  | .isub _ h f => some (coreWord 0x01 h f.bits, f.imm)
  | .imul _ h f => some (coreWord 0x02 h f.bits, f.imm)
  | .imulh _ h f => some (coreWord 0x03 h f.bits, f.imm)
  | .imad _ h f => some (coreWord 0x04 h f.bits, f.imm)
  | .imin _ h f => some (coreWord 0x05 h f.bits, f.imm)
  | .imax _ h f => some (coreWord 0x06 h f.bits, f.imm)
  | .iabs _ h f => some (coreWord 0x07 h f.bits, f.imm)
  | .blog _ h f => some (coreWord 0x08 h f.bits, f.imm)
  | .shl _ h f => some (coreWord 0x09 h f.bits, f.imm)
  | .shr _ h f => some (coreWord 0x0A h f.bits, f.imm)
  | .bfe _ h f => some (coreWord 0x0B h f.bits, f.imm)
  | .bfi _ h f => some (coreWord 0x0C h f.bits, f.imm)
  | .popc _ h f => some (coreWord 0x0D h f.bits, f.imm)
  | .clz _ h f => some (coreWord 0x0E h f.bits, f.imm)
  | .brev _ h f => some (coreWord 0x0F h f.bits, f.imm)
  | .icmp _ h f => some (coreWord 0x10 h f.bits, f.imm)
  | .sel _ h f => some (coreWord 0x11 h f.bits, f.imm)
  | .mov _ h f => some (coreWord 0x12 h f.bits, f.imm)
  | .plog _ h f => some (coreWord 0x13 h f.bits, f.imm)
  | .bytesel _ h f => some (coreWord 0x14 h f.bits, f.imm)
  | .fadd _ h f => some (coreWord 0x20 h f.bits, f.imm)
  | .fsub _ h f => some (coreWord 0x21 h f.bits, f.imm)
  | .fmul _ h f => some (coreWord 0x22 h f.bits, f.imm)
  | .ffma _ h f => some (coreWord 0x23 h f.bits, f.imm)
  | .fmin _ h f => some (coreWord 0x24 h f.bits, f.imm)
  | .fmax _ h f => some (coreWord 0x25 h f.bits, f.imm)
  | .fcmp _ h f => some (coreWord 0x26 h f.bits, f.imm)
  | .fsqrt _ h f => some (coreWord 0x27 h f.bits, f.imm)
  | .rcp _ h f => some (coreWord 0x30 h f.bits, f.imm)
  | .rsq _ h f => some (coreWord 0x31 h f.bits, f.imm)
  | .ex2 _ h f => some (coreWord 0x32 h f.bits, f.imm)
  | .lg2 _ h f => some (coreWord 0x33 h f.bits, f.imm)
  | .sin _ h f => some (coreWord 0x34 h f.bits, f.imm)
  | .cos _ h f => some (coreWord 0x35 h f.bits, f.imm)
  | .tanh _ h f => some (coreWord 0x36 h f.bits, f.imm)
  | .cvt _ h f => some (coreWord 0x40 h f.bits, 0)
  | .cvtFw _ h f => some (coreWord 0x41 h f.bits, 0)
  | .cvtWf _ h f => some (coreWord 0x42 h f.bits, 0)
  | .xlane _ h f => some (coreWord 0x50 h f.bits, f.imm)
  | .vote _ h f => some (coreWord 0x51 h f.bits, f.imm)
  | .lred _ h f => some (coreWord 0x52 h f.bits, f.imm)
  | .readlane _ h f => some (coreWord 0x53 h f.bits, f.imm)
  | .uiadd _ h f => some (coreWord 0x60 h f.bits, f.imm)
  | .uimul _ h f => some (coreWord 0x61 h f.bits, f.imm)
  | .ublog _ h f => some (coreWord 0x62 h f.bits, f.imm)
  | .ushl _ h f => some (coreWord 0x63 h f.bits, f.imm)
  | .ushr _ h f => some (coreWord 0x64 h f.bits, f.imm)
  | .umov _ h f => some (coreWord 0x65 h f.bits, f.imm)
  | .uicmp _ h f => some (coreWord 0x66 h f.bits, f.imm)
  | .ld _ h f => some (coreWord 0x80 h f.bits, 0)
  | .st _ h f => some (coreWord 0x81 h f.bits, 0)
  | .uld _ h f => some (coreWord 0x82 h f.bits, 0)
  | .atom _ h f => some (coreWord 0x83 h f.bits, 0)
  | .red _ h f => some (coreWord 0x84 h f.bits, 0)
  | .pref _ h f => some (coreWord 0x85 h f.bits, 0)
  | .unpin _ h f => some (coreWord 0x86 h f.bits, 0)
  | .invL1 _ h f => some (coreWord 0x87 h f.bits, 0)
  | .fence _ h f => some (coreWord 0x88 h f.bits, 0)
  | .bra _ h f => some (coreWord 0x90 h f.bits, 0)
  | .brx _ h f => some (coreWord 0x91 h f.bits, 0)
  | .call _ h f => some (coreWord 0x92 h f.bits, 0)
  | .ret _ h f => some (coreWord 0x93 h f.bits, 0)
  | .exit _ h f => some (coreWord 0x94 h f.bits, 0)
  | .nop _ h f => some (coreWord 0x95 h f.bits, 0)
  | .trap _ h f => some (coreWord 0x96 h f.bits, 0)
  | .barG _ h f => some (coreWord 0xA0 h f.bits, 0)
  | .barCSync _ h f => some (coreWord 0xA1 h f.bits, 0)
  | .barCArrive _ h f => some (coreWord 0xA2 h f.bits, 0)
  | .barClSync _ h f => some (coreWord 0xA3 h f.bits, 0)
  | .barClArrive _ h f => some (coreWord 0xA4 h f.bits, 0)
  | .mma _ h f => some (coreWord 0xB0 h f.bits, 0)
  | .tm _ h f => some (coreWord 0xB1 h f.bits, 0)
  | .waitt _ h f => some (coreWord 0xB2 h f.bits, 0)
  | .testt _ h f => some (coreWord 0xB3 h f.bits, 0)
  | .sysr _ h f => some (coreWord 0xC0 h f.bits, 0)
  | _ => none

/-- The instruction that a word spells, with the word after it, as the group of `site` issues it; none for an undefined opcode
(R149). -/
def decodeCore (site : Site) (w imm : BitVec 64) : Option Instr :=
  let h := Hdr.ofWord w
  match (w.extractLsb' 0 8).toNat with
  | 0x00 => some (.iadd site h (FmtR.ofWord w imm))
  | 0x01 => some (.isub site h (FmtR.ofWord w imm))
  | 0x02 => some (.imul site h (FmtR.ofWord w imm))
  | 0x03 => some (.imulh site h (FmtR.ofWord w imm))
  | 0x04 => some (.imad site h (FmtR.ofWord w imm))
  | 0x05 => some (.imin site h (FmtR.ofWord w imm))
  | 0x06 => some (.imax site h (FmtR.ofWord w imm))
  | 0x07 => some (.iabs site h (FmtR.ofWord w imm))
  | 0x08 => some (.blog site h (FmtR.ofWord w imm))
  | 0x09 => some (.shl site h (FmtR.ofWord w imm))
  | 0x0A => some (.shr site h (FmtR.ofWord w imm))
  | 0x0B => some (.bfe site h (FmtR.ofWord w imm))
  | 0x0C => some (.bfi site h (FmtR.ofWord w imm))
  | 0x0D => some (.popc site h (FmtR.ofWord w imm))
  | 0x0E => some (.clz site h (FmtR.ofWord w imm))
  | 0x0F => some (.brev site h (FmtR.ofWord w imm))
  | 0x10 => some (.icmp site h (FmtR.ofWord w imm))
  | 0x11 => some (.sel site h (FmtR.ofWord w imm))
  | 0x12 => some (.mov site h (FmtR.ofWord w imm))
  | 0x13 => some (.plog site h (FmtR.ofWord w imm))
  | 0x14 => some (.bytesel site h (FmtR.ofWord w imm))
  | 0x20 => some (.fadd site h (FmtR.ofWord w imm))
  | 0x21 => some (.fsub site h (FmtR.ofWord w imm))
  | 0x22 => some (.fmul site h (FmtR.ofWord w imm))
  | 0x23 => some (.ffma site h (FmtR.ofWord w imm))
  | 0x24 => some (.fmin site h (FmtR.ofWord w imm))
  | 0x25 => some (.fmax site h (FmtR.ofWord w imm))
  | 0x26 => some (.fcmp site h (FmtR.ofWord w imm))
  | 0x27 => some (.fsqrt site h (FmtR.ofWord w imm))
  | 0x30 => some (.rcp site h (FmtR.ofWord w imm))
  | 0x31 => some (.rsq site h (FmtR.ofWord w imm))
  | 0x32 => some (.ex2 site h (FmtR.ofWord w imm))
  | 0x33 => some (.lg2 site h (FmtR.ofWord w imm))
  | 0x34 => some (.sin site h (FmtR.ofWord w imm))
  | 0x35 => some (.cos site h (FmtR.ofWord w imm))
  | 0x36 => some (.tanh site h (FmtR.ofWord w imm))
  | 0x40 => some (.cvt site h (FmtC.ofWord w))
  | 0x41 => some (.cvtFw site h (FmtC.ofWord w))
  | 0x42 => some (.cvtWf site h (FmtC.ofWord w))
  | 0x50 => some (.xlane site h (FmtR.ofWord w imm))
  | 0x51 => some (.vote site h (FmtR.ofWord w imm))
  | 0x52 => some (.lred site h (FmtR.ofWord w imm))
  | 0x53 => some (.readlane site h (FmtR.ofWord w imm))
  | 0x60 => some (.uiadd site h (FmtR.ofWord w imm))
  | 0x61 => some (.uimul site h (FmtR.ofWord w imm))
  | 0x62 => some (.ublog site h (FmtR.ofWord w imm))
  | 0x63 => some (.ushl site h (FmtR.ofWord w imm))
  | 0x64 => some (.ushr site h (FmtR.ofWord w imm))
  | 0x65 => some (.umov site h (FmtR.ofWord w imm))
  | 0x66 => some (.uicmp site h (FmtR.ofWord w imm))
  | 0x80 => some (.ld site h (FmtM.ofWord w))
  | 0x81 => some (.st site h (FmtM.ofWord w))
  | 0x82 => some (.uld site h (FmtM.ofWord w))
  | 0x83 => some (.atom site h (FmtM.ofWord w))
  | 0x84 => some (.red site h (FmtM.ofWord w))
  | 0x85 => some (.pref site h (FmtM.ofWord w))
  | 0x86 => some (.unpin site h (FmtM.ofWord w))
  | 0x87 => some (.invL1 site h (FmtS.ofWord w))
  | 0x88 => some (.fence site h (FmtS.ofWord w))
  | 0x90 => some (.bra site h (FmtB.ofWord w))
  | 0x91 => some (.brx site h (FmtB.ofWord w))
  | 0x92 => some (.call site h (FmtB.ofWord w))
  | 0x93 => some (.ret site h (FmtB.ofWord w))
  | 0x94 => some (.exit site h (FmtB.ofWord w))
  | 0x95 => some (.nop site h (FmtB.ofWord w))
  | 0x96 => some (.trap site h (FmtB.ofWord w))
  | 0xA0 => some (.barG site h (FmtS.ofWord w))
  | 0xA1 => some (.barCSync site h (FmtS.ofWord w))
  | 0xA2 => some (.barCArrive site h (FmtS.ofWord w))
  | 0xA3 => some (.barClSync site h (FmtS.ofWord w))
  | 0xA4 => some (.barClArrive site h (FmtS.ofWord w))
  | 0xB0 => some (.mma site h (FmtA.ofWord w))
  | 0xB1 => some (.tm site h (FmtA.ofWord w))
  | 0xB2 => some (.waitt site h (FmtS.ofWord w))
  | 0xB3 => some (.testt site h (FmtS.ofWord w))
  | 0xC0 => some (.sysr site h (FmtS.ofWord w))
  | _ => none

/-- The command that a word of the table's bits spells: the table gives no row bits, so none does. -/
def decodeTableWord (_nbits _w : Nat) : Option Instr := none

end Sys2Proof
end

