-- ==== Sys2Proof/Config.lean ====
section
/-! DEFINITION. The free values: what the spec leaves open, as constants without a body. A claim holds whatever they
are. -/

namespace Sys2Proof

/-- Free: a 64-bit value drawn for the use `n`; the state's counter gives each use its own number (log 4). -/
opaque Config.freeWord (n : Nat) : BitVec 64

/-- Free: the byte at device physical address `addr` of an undefined span of memory with the number `tag`
(R229, file 07; R262, file 08; R212, file 06; log 4). -/
opaque Config.freeByte (tag addr : Nat) : BitVec 8

/-- Free: a byte of host memory that neither the host's commands nor the D1 have written (log 6). -/
opaque Config.hostByte (port addr : Nat) : BitVec 8

/-- Free: the twilight clock periods that pass before the use `n` of the tick counter (log 7). -/
opaque Config.elapsed (n : Nat) : Nat

/-- Free within its error bound: the FP32 result of special function `op` for the FP32 bits `x` (R53, file 02; log 14). -/
opaque Config.sfu (op : Nat) (x : BitVec 32) : BitVec 32

/-- Check symbol `j` of the STRONG code RS(72,64) over the 64 bytes of a codeword, as a little-endian number (R271, file 08; log
97). -/
opaque Config.strongCheck (data j : Nat) : BitVec 8

/-- The fused voltage V(k) of a cluster at step index `k`, in mV (R467, file 13; log 16). -/
opaque Config.setPointMv (cluster k : Nat) : Nat

/-- The thermal resistance θ of a slice, fused at test, in 0.001 °C/W; it lies within 250 to 450 (R490, file 13; log 16). -/
opaque Config.theta (slice : Nat) : Nat

/-- The power of a slice in mW, estimated from its access counts with coefficients fused at test (R490, file 13; log 16). -/
opaque Config.sliceMw (slice accesses : Nat) : Nat

/-- The hash function of the image and of the measurements, SHA-256 (R518, R529, file 14; log 17). -/
opaque Config.sha256 (data : List (BitVec 8)) : BitVec 256

/-- Verification of a signature under a public key, SLH-DSA (R518, R532, file 14; log 17). -/
opaque Config.verify (key data sig : List (BitVec 8)) : Bool

/-- HKDF-SHA-256 of a 256-bit input with a label: the 48 bytes of seeds of an SLH-DSA-SHA2-128f key pair (R528, file 14; log 17). -/
opaque Config.hkdf (input : BitVec 256) (label : List (BitVec 8)) : List (BitVec 8)

/-- HMAC-SHA-256 of `data` under a key (R528, file 14; log 17). -/
opaque Config.hmac (key : BitVec 256) (data : List (BitVec 8)) : BitVec 256

/-- The public key of the SLH-DSA-SHA2-128f key pair that grows from some seeds (R528, file 14; log 17). -/
opaque Config.slhPublic (seeds : List (BitVec 8)) : List (BitVec 8)

/-- The SLH-DSA-SHA2-128f signature over `data` of the key pair that grows from some seeds (R528, R530, file 14; log 17). -/
opaque Config.slhSign (seeds data : List (BitVec 8)) : List (BitVec 8)

/-- A debug unlock token names the identity public key `pub` and is signed by the manufacturer (R532, file 14; log 17). -/
opaque Config.tokenOk (pub token : List (BitVec 8)) : Bool

end Sys2Proof
end

