-- ==== Sys2Proof/Machine/Formats.lean ====
section
/-! DEFINITION. Chapter 02: the seventeen formats, their exact values, the three roundings, the conversions and the
arithmetic of cells and lanes, on exact binary fractions. -/

namespace Sys2Proof.Machine

/-- The seventeen formats of Table 02.1 (R32, file 02). -/
inductive Fmt where
  | fp32 | fp19 | fp16 | bf16 | e4m3 | e5m2 | e3m2 | e2m3 | e2m1 | int8 | int4
  | mxe4m3 | mxe5m2 | mxe3m2 | mxe2m3 | mxfp4 | mxint8
deriving DecidableEq, Repr

/-- The format of a 5-bit code; none for the reserved codes 0x0B and 0x12 to 0x1F (R32, file 02). -/
def Fmt.ofCode (c : Nat) : Option Fmt :=
  match c with
  | 0x00 => some .fp32 | 0x01 => some .fp19 | 0x02 => some .fp16 | 0x03 => some .bf16
  | 0x04 => some .e4m3 | 0x05 => some .e5m2 | 0x06 => some .e3m2 | 0x07 => some .e2m3
  | 0x08 => some .e2m1 | 0x09 => some .int8 | 0x0A => some .int4
  | 0x0C => some .mxe4m3 | 0x0D => some .mxe5m2 | 0x0E => some .mxe3m2 | 0x0F => some .mxe2m3
  | 0x10 => some .mxfp4 | 0x11 => some .mxint8
  | _ => none

/-- Bits per element of a format, without its scale (Table 02.1). -/
def Fmt.bits (f : Fmt) : Nat :=
  match f with
  | .fp32 | .fp19 => 32
  | .fp16 | .bf16 => 16
  | .e4m3 | .e5m2 | .int8 | .mxe4m3 | .mxe5m2 | .mxint8 => 8
  | .e3m2 | .e2m3 | .mxe3m2 | .mxe2m3 => 6
  | .e2m1 | .int4 | .mxfp4 => 4

/-- The format has one E8M0 scale for each 32 elements (R40, file 02). -/
def Fmt.scaled (f : Fmt) : Bool :=
  match f with
  | .mxe4m3 | .mxe5m2 | .mxe3m2 | .mxe2m3 | .mxfp4 | .mxint8 => true
  | _ => false

/-- The element format of a block-scaled format; the format itself otherwise. -/
def Fmt.elem (f : Fmt) : Fmt :=
  match f with
  | .mxe4m3 => .e4m3 | .mxe5m2 => .e5m2 | .mxe3m2 => .e3m2 | .mxe2m3 => .e2m3
  | .mxfp4 => .e2m1 | .mxint8 => .int8
  | f => f

/-- INT8 and INT4, the integer group of Table 02.6. -/
def Fmt.isInt (f : Fmt) : Bool := f == .int8 || f == .int4

/-- Matrix input depth of Table 02.1; none for FP32, which is no matrix input. -/
def Fmt.depth (f : Fmt) : Option Nat :=
  match f with
  | .fp32 => none
  | .fp19 => some 2
  | .fp16 | .bf16 => some 4
  | .e2m1 | .int4 | .mxfp4 => some 16
  | _ => some 8

/-- The format is a matrix output of Table 02.1. -/
def Fmt.isOutput (f : Fmt) : Bool :=
  match f with
  | .fp32 | .fp19 | .fp16 | .bf16 | .e4m3 | .e5m2 | .int8 => true
  | _ => false

/-- What an encoding does with the top exponent field (R38, file 02). -/
inductive TopField where
  /-- All-ones exponent: Inf with a zero mantissa, NaN otherwise. -/
  | ieee
  /-- FP8-E4M3: only the all-ones magnitude is NaN; there is no infinity. -/
  | nanOnly
  /-- Neither Inf nor NaN. -/
  | plain
deriving DecidableEq, Repr

/-- A floating-point layout: exponent bits, mantissa bits, bias and the use of the top exponent field. -/
structure Layout where
  /-- width of the exponent field -/
  eb : Nat
  /-- width of the mantissa field -/
  mb : Nat
  /-- exponent bias -/
  bias : Nat
  /-- what the top exponent field means -/
  top : TopField
deriving DecidableEq, Repr

/-- The layout of an element format; the integer formats are given that of FP32, which nothing reads. FP19 is given as
its 19 significant bits: `encode` and `decode` place them in bits [31:13] (R34, file 02). -/
def Fmt.layout (f : Fmt) : Layout :=
  match f.elem with
  | .fp19 => ⟨8, 10, 127, .ieee⟩
  | .fp16 => ⟨5, 10, 15, .ieee⟩
  | .bf16 => ⟨8, 7, 127, .ieee⟩
  | .e4m3 => ⟨4, 3, 7, .nanOnly⟩
  | .e5m2 => ⟨5, 2, 15, .ieee⟩
  | .e3m2 => ⟨3, 2, 3, .plain⟩
  | .e2m3 => ⟨2, 3, 1, .plain⟩
  | .e2m1 => ⟨2, 1, 1, .plain⟩
  | _ => ⟨8, 23, 127, .ieee⟩

/-- The 40-bit column format of Table 02.7 (R57, file 02). -/
def Layout.column : Layout := ⟨8, 31, 127, .ieee⟩

/-- The FP32 layout. -/
def Layout.fp32 : Layout := ⟨8, 23, 127, .ieee⟩

/-- An exact value: NaN, a signed infinity, or (−1)^neg × m × 2^e (R48, file 02). -/
inductive Val where
  | nan
  | inf (neg : Bool)
  | fin (neg : Bool) (m : Nat) (e : Int)
deriving DecidableEq, Repr

/-- +0. -/
def Val.zero : Val := .fin false 0 0

/-- The exact value of an integer; 0 is +0. -/
def Val.ofInt (n : Int) : Val := .fin (decide (n < 0)) n.natAbs 0

/-- The value `x` with its magnitude multiplied by 2^k. -/
def Val.scale (x : Val) (k : Int) : Val :=
  match x with
  | .fin s m e => .fin s m (e + k)
  | x => x

/-- The value `x` with its sign changed. -/
def Val.negate (x : Val) : Val :=
  match x with
  | .fin s m e => .fin (!s) m e
  | .inf s => .inf (!s)
  | .nan => .nan

/-- The value of the bits `b` in a layout (R33, R38, file 02). -/
def Layout.decode (l : Layout) (b : Nat) : Val :=
  let s := b.testBit (l.eb + l.mb)
  let e := (b >>> l.mb) % 2 ^ l.eb
  let m := b % 2 ^ l.mb
  let finite : Val :=
    if e = 0 then .fin s m (1 - (l.bias : Int) - l.mb)
    else .fin s (2 ^ l.mb + m) ((e : Int) - l.bias - l.mb)
  if e = 2 ^ l.eb - 1 then
    match l.top with
    | .ieee => if m = 0 then .inf s else .nan
    | .nanOnly => if m = 2 ^ l.mb - 1 then .nan else finite
    | .plain => finite
  else finite

/-- The bits of the largest finite magnitude of a layout. -/
def Layout.maxBits (l : Layout) : Nat :=
  match l.top with
  | .ieee => (2 ^ l.eb - 1) * 2 ^ l.mb - 1
  | .nanOnly => 2 ^ (l.eb + l.mb) - 2
  | .plain => 2 ^ (l.eb + l.mb) - 1

/-- The bits of the canonical NaN of a layout (Table 02.3); 0 where the format has none (Table 02.4). -/
def Layout.nanBits (l : Layout) : Nat :=
  match l.top with
  | .ieee => (2 ^ l.eb - 1) * 2 ^ l.mb + 2 ^ (l.mb - 1)
  | .nanOnly => 2 ^ (l.eb + l.mb) - 1
  | .plain => 0

/-- The bits of infinity in a layout that has it. -/
def Layout.infBits (l : Layout) : Nat := (2 ^ l.eb - 1) * 2 ^ l.mb

/-- The three rounding modes (R44, file 02); SR carries its 16-bit random value r. -/
inductive Round where
  | rne
  | rtz
  | sr (r : Nat)
deriving DecidableEq, Repr

/-- m × 2^e in units of 2^q, rounded: RNE with ties to even, RTZ, or SR by the first 16 bits below the last retained
bit (R44, R45, file 02). -/
def roundMag (rm : Round) (m : Nat) (e q : Int) : Nat :=
  if q ≤ e then m * 2 ^ (e - q).toNat
  else
    let sh := (q - e).toNat
    let t := m >>> sh
    let rem := m % 2 ^ sh
    match rm with
    | .rtz => t
    | .rne => if 2 * rem > 2 ^ sh || (2 * rem == 2 ^ sh && t % 2 == 1) then t + 1 else t
    | .sr r => if (rem * 65536) >>> sh + r ≥ 65536 then t + 1 else t

/-- The exponent of the unit in the last place of m × 2^e with `mb` mantissa bits and the least exponent `emin`. -/
def ulpExp (mb : Nat) (emin : Int) (m : Nat) (e : Int) : Int :=
  max (emin - mb) ((Nat.log2 m : Int) + e - mb)

/-- The bits of m × 2^e (already a multiple of its unit 2^q, as count `t`) in a layout, with the exponent range taken as
unbounded: an answer above `maxBits` is an overflow. -/
def Layout.packMag (l : Layout) (t : Nat) (q : Int) : Nat :=
  -- q = (exponent field, at least 1) - bias - mb; a carry out of the mantissa moves on into the exponent field
  let f := (q + l.bias + l.mb - 1).toNat
  f * 2 ^ l.mb + t

/-- The encoding of an exact value: round to the target precision, then Table 02.4 (R48, R49, file 02). -/
def Layout.encode (l : Layout) (rm : Round) (sat : Bool) (v : Val) : Nat :=
  let sign (s : Bool) : Nat := if s then 2 ^ (l.eb + l.mb) else 0
  match v with
  | .nan => l.nanBits
  | .inf s =>
    match l.top with
    | .ieee => sign s + (if sat then l.maxBits else l.infBits)
    | .nanOnly => if sat then sign s + l.maxBits else l.nanBits
    | .plain => sign s + l.maxBits
  | .fin s m e =>
    if m = 0 then sign s else
    let q := ulpExp l.mb (1 - l.bias) m e
    let b := l.packMag (roundMag rm m e q) q
    if b ≤ l.maxBits then sign s + b
    else if sat || rm == .rtz then sign s + l.maxBits
    else
      match l.top with
      | .ieee => sign s + l.infBits
      | .nanOnly => l.nanBits
      | .plain => sign s + l.maxBits

/-- The exact value rounded to an integer, −0 as 0 (R44, R50, file 02). -/
def Val.roundInt (rm : Round) (s : Bool) (m : Nat) (e : Int) : Int :=
  let t := roundMag rm m e 0
  if s then -(t : Int) else t

/-- Conversion to an integer in the range lo to hi: NaN gives 0, all else saturates (R49, R50, file 02). -/
def Val.toInt (rm : Round) (lo hi : Int) (v : Val) : Int :=
  match v with
  | .nan => 0
  | .inf s => if s then lo else hi
  | .fin s m e => max lo (min hi (Val.roundInt rm s m e))

/-- The two's-complement reading of the low `w` bits of `b`. -/
def sext (w b : Nat) : Int :=
  let x := b % 2 ^ w
  if x < 2 ^ (w - 1) then x else (x : Int) - 2 ^ w

/-- The low `w` bits of an integer. -/
def lowBits (w : Nat) (n : Int) : Nat := (n % 2 ^ w).toNat

/-- The value of an element of a non-scaled format (R33, R34, R38, file 02). -/
def Fmt.decodeElem (f : Fmt) (b : Nat) : Val :=
  match f.elem with
  | .int8 => Val.ofInt (sext 8 b)
  | .int4 => Val.ofInt (sext 4 b)
  | .fp19 => f.layout.decode (b >>> 13)
  | _ => f.layout.decode b

/-- The value of an element with its block scale: 2^(x − 127), NaN for the scale 0xFF, and the factor 2^−6 of MXINT8
(R41, R42, file 02). A non-scaled format ignores `scale`. -/
def Fmt.decode (f : Fmt) (b scale : Nat) : Val :=
  if f.scaled then
    if scale = 255 then .nan
    else (f.decodeElem b).scale ((scale : Int) - 127 - (if f = .mxint8 then 6 else 0))
  else f.decodeElem b

/-- The encoding of a value in a non-scaled format (R48 to R50, file 02). -/
def Fmt.encode (f : Fmt) (rm : Round) (sat : Bool) (v : Val) : Nat :=
  match f.elem with
  | .int8 => lowBits 8 (v.toInt rm (-128) 127)
  | .int4 => lowBits 4 (v.toInt rm (-8) 7)
  | .fp19 => f.layout.encode rm sat v <<< 13
  | _ => f.layout.encode rm sat v

/-- The E of R51 for the block-scaled formats. -/
def Fmt.blockE (f : Fmt) : Int :=
  match f with
  | .mxe4m3 => 8 | .mxe5m2 => 15 | .mxe3m2 => 4 | .mxe2m3 => 2 | .mxfp4 => 2 | _ => 0

/-- floor(log2) of a nonzero magnitude m × 2^e. -/
def magLog2 (m : Nat) (e : Int) : Int := (Nat.log2 m : Int) + e

/-- m1 × 2^e1 < m2 × 2^e2. -/
def magLt (m1 : Nat) (e1 : Int) (m2 : Nat) (e2 : Int) : Bool :=
  let e := min e1 e2
  decide (m1 * 2 ^ (e1 - e).toNat < m2 * 2 ^ (e2 - e).toNat)

/-- The block has a NaN or infinite member (step 1 of R51). -/
def blockSpecial (vs : List Val) : Bool :=
  vs.any fun v => match v with | .fin _ _ _ => false | _ => true

/-- floor(log2 a) for the largest magnitude a of a block of finite values; none if all are zero (steps 2, 3 of R51). -/
def blockLog2 (vs : List Val) : Option Int :=
  vs.foldl (fun acc v =>
    match v with
    | .fin _ m e => if m = 0 then acc else some (match acc with | none => magLog2 m e | some a => max a (magLog2 m e))
    | _ => acc) none

/-- One element of a block: the value divided by 2^X, with the factor 2^6 for MXINT8, rounded, and held at the element's
largest finite magnitude (step 4 of R51). -/
def Fmt.encodeBlockElem (f : Fmt) (rm : Round) (x : Int) (v : Val) : Nat :=
  if f = .mxint8 then lowBits 8 ((v.scale (6 - x)).toInt rm (-127) 127)
  else f.layout.encode rm true (v.scale (-x))

/-- A block of at most 32 values in a block-scaled format: its scale byte and its elements; `rms` gives each element's
rounding (R51, file 02). -/
def Fmt.encodeBlock (f : Fmt) (vs : List (Val × Round)) : Nat × List Nat :=
  let xs := vs.map Prod.fst
  if blockSpecial xs then (255, xs.map fun _ => 0)
  else
    match blockLog2 xs with
    | none => (0, xs.map fun _ => 0)
    | some a =>
      let x := max (-127) (min 127 (a - f.blockE))
      ((x + 127).toNat, vs.map fun (v, rm) => f.encodeBlockElem rm x v)

/-- The generator of stochastic rounding (R46, file 02). -/
def srRandom (seed i j : Nat) : Nat :=
  let x := seed ^^^ (i * 0x9E3779B1 % 2 ^ 32) ^^^ (j * 0x85EBCA77 % 2 ^ 32)
  let x := x % 2 ^ 32
  let x := x ^^^ (x >>> 16)
  let x := x * 0x7FEB352D % 2 ^ 32
  let x := x ^^^ (x >>> 15)
  let x := x * 0x846CA68B % 2 ^ 32
  let x := x ^^^ (x >>> 16)
  x >>> 16

/-- The rounding that a mode code names: 0 RNE, 1 RTZ, 2 SR with its random value (Tables 03.2, 05.8). -/
def Round.ofCode (c r : Nat) : Round := if c = 1 then .rtz else if c = 2 then .sr r else .rne

/-- Exact sum: opposite infinities give NaN; a zero sum is +0 unless both terms are −0 (R59, file 02). -/
def Val.add (a b : Val) : Val :=
  match a, b with
  | .nan, _ | _, .nan => .nan
  | .inf s, .inf t => if s = t then .inf s else .nan
  | .inf s, _ => .inf s
  | _, .inf t => .inf t
  | .fin s m e, .fin t n f =>
    let q := min e f
    let x : Int := (m * 2 ^ (e - q).toNat : Nat)
    let y : Int := (n * 2 ^ (f - q).toNat : Nat)
    let z := (if s then -x else x) + (if t then -y else y)
    if z = 0 then .fin (s && t && m == 0 && n == 0) 0 0 else .fin (decide (z < 0)) z.natAbs q

/-- Exact product: 0 × Inf is NaN (R59, file 02). -/
def Val.mul (a b : Val) : Val :=
  match a, b with
  | .nan, _ | _, .nan => .nan
  | .inf s, .inf t => .inf (s != t)
  | .inf s, .fin t m _ => if m = 0 then .nan else .inf (s != t)
  | .fin s m _, .inf t => if m = 0 then .nan else .inf (s != t)
  | .fin s m e, .fin t n f => .fin (s != t) (m * n) (e + f)

/-- a < b for values that are not NaN, with −0 equal to +0. -/
def Val.lt (a b : Val) : Bool :=
  match a, b with
  | .nan, _ | _, .nan => false
  | .inf s, .inf t => s && !t
  | .inf s, _ => s
  | _, .inf t => !t
  | .fin s m e, .fin t n f =>
    if m = 0 && n = 0 then false
    else if s && !t then true
    else if !s && t then false
    else if s then magLt n f m e else magLt m e n f

/-- Zero of either sign. -/
def Val.isZero (a : Val) : Bool := match a with | .fin _ 0 _ => true | _ => false

/-- NaN. -/
def Val.isNan (a : Val) : Bool := match a with | .nan => true | _ => false

/-- The sign bit of a value that is not NaN. -/
def Val.isNeg (a : Val) : Bool := match a with | .fin s _ _ => s | .inf s => s | .nan => false

/-- Minimum: the non-NaN operand when exactly one is NaN; −0 is less than +0 (R52, file 02). -/
def Val.minV (a b : Val) : Val :=
  if a.isNan then b else if b.isNan then a
  else if a.lt b || (a.isZero && b.isZero && a.isNeg) then a else b

/-- Maximum, as `minV` (R52, file 02). -/
def Val.maxV (a b : Val) : Val :=
  if a.isNan then b else if b.isNan then a
  else if b.lt a || (a.isZero && b.isZero && b.isNeg) then a else b

/-- Integer square root by one bit of the answer a step: `k` steps, answer so far `r`. -/
def isqrtAux (n : Nat) : Nat → Nat → Nat
  | 0, r => r
  | k + 1, r => let c := r + 2 ^ k; isqrtAux n k (if c * c ≤ n then c else r)

/-- The integer square root. -/
def isqrt (n : Nat) : Nat := isqrtAux n (Nat.log2 n / 2 + 1) 0

/-- Square root as a value that rounds as the exact root does: the root to 40 more bits than any target keeps, with a
sticky last bit. A negative nonzero value gives NaN; −0 gives −0 (R52, file 02: correctly rounded). -/
def Val.sqrtV (a : Val) : Val :=
  match a with
  | .nan => .nan
  | .inf s => if s then .nan else .inf false
  | .fin s m e =>
    if m = 0 then .fin s 0 0
    else if s then .nan
    else
      let odd := (e % 2 == 1 : Bool)
      let n := (if odd then 2 * m else m) <<< 128
      let k := (if odd then e - 1 else e) - 128
      let r := isqrt n
      .fin false (2 * r + (if r * r = n then 0 else 1)) (k / 2 - 1)

/-- FP32 bits of a value under a rounding without saturation (R52, file 02). -/
def fp32Of (rm : Round) (v : Val) : Nat := Layout.fp32.encode rm false v

/-- The value of FP32 bits. -/
def fp32Val (b : Nat) : Val := Layout.fp32.decode b

/-- One cell: the exact dot product added to the incoming partial sum, rounded once to the 40-bit format with RNE; the
incoming sum and the answer are column bits (R56, R57, R59, file 02). -/
def cellStep (partialSum : Nat) (products : List Val) : Nat :=
  Layout.column.encode .rne false (products.foldl Val.add (Layout.column.decode partialSum))

end Sys2Proof.Machine
end

