-- ==== Sys2Proof/Machine/State.lean ====
section
/-! DEFINITION. The state of the package: every register, memory, queue, buffer, counter and mode that the spec names,
with the field's reset value as its default; the faults and refusals; the state right after a cold reset. -/

namespace Sys2Proof.Machine

/-- What a thread waits for (R111, 04). -/
inductive WaitReason where
  /-- the thread is not waiting -/
  | none
  /-- waits at BAR.G (R122) -/
  | barG
  /-- waits at core barrier n (R126) -/
  | barC (n : Nat)
  /-- waits at cluster barrier n of its gang (R130) -/
  | barCl (n : Nat)
  /-- waits for tokens (R175) -/
  | tokens (mask : BitVec 16)
  /-- waits for an acquire's reads and its L1 invalidation (R202) -/
  | acquire
  /-- waits for a fence to complete (R177) -/
  | fence (scope : Nat)
deriving DecidableEq, Repr

/-- QUE_PRIO (Table 11.7, 11). -/
inductive Prio where
  /-- URGENT -/
  | urgent
  /-- HIGH -/
  | high
  /-- NORMAL -/
  | normal
  /-- BULK -/
  | bulk
deriving DecidableEq, Repr

/-- The open phase of a group barrier (R122, R123). -/
structure BarG where
  /-- participation mask the phase's first arrival fixed [R122, file 04] -/
  mask : BitVec 32 := 0
  /-- threads that have arrived in the phase [R122, file 04] -/
  arrived : BitVec 32 := 0
deriving DecidableEq, Repr

/-- A named core barrier or cluster barrier in its phase (R126, R127, R130). -/
structure NBar where
  /-- group arrivals counted in the phase [R126, file 04] -/
  count : Nat := 0
  /-- group count g the phase's first arrival fixed; 0 while no arrival has been made [R127, file 04] -/
  g : Nat := 0
  /-- per group (key: member rank * 16 + group): for each of its 32 threads, how many times the thread has executed a BAR.C form in the phase beyond the group arrivals already counted [R126, file 04] -/
  arrivedThreads : SMap (List Nat) := []
deriving DecidableEq, Repr

/-- One thread-group slot of a core (Table 04.1, R105). -/
structure Group where
  /-- the running task uses this slot [R133, file 04] -/
  used : Bool := false
  /-- v0 to v127 of the 32 threads, key register * 32 + thread [R104, file 04] -/
  vregs : SMap (BitVec 32) := []
  /-- u0 to u31 [R116, file 04] -/
  uregs : SMap (BitVec 64) := []
  /-- p0 to p7 of each thread [R117, file 04] -/
  preds : SMap (BitVec 8) := []
  /-- program counter of each thread [R110, file 04] -/
  pcs : SMap (BitVec 64) := []
  /-- threads that have executed EXIT [R135, file 04] -/
  exited : BitVec 32 := 0
  /-- what each thread waits for [R111, file 04] -/
  waits : SMap WaitReason := []
  /-- age of the issue set each thread is in [R112, file 04] -/
  ages : SMap Nat := []
  /-- open phase of the group barrier [R122, file 04] -/
  barG : Option BarG := none
  /-- pending count 0 to 63 of each token [R174, file 05] -/
  tokens : SMap Nat := []
  /-- registers in the register cache, most recently used first [R119, file 04] -/
  regCache : List Nat := []
  /-- per-thread registers awaiting a result of an outstanding load or atomic [R155, file 05] -/
  pendV : List Nat := []
  /-- u registers awaiting the result of an outstanding ULD [R155, file 05] -/
  pendU : List Nat := []
  /-- threads that have found a token clear, whose later fences order the completed operations' writes [R176, file 05] -/
  seenTokenWrites : BitVec 32 := 0
  /-- status of the group's first trap, if one was taken [R143, file 04] -/
  trapped : Option (BitVec 8) := none
  /-- the group is held on a full matrix or tile-mover queue or a full token count, so none of its threads is in an issue set (R77, R173, R174) [R111, file 04] -/
  held : Bool := false
deriving DecidableEq, Repr

/-- One entry of an undo log (R419). -/
structure UndoEntry where
  /-- device physical address of the 256-byte line [R419, file 12] -/
  line : Nat := 0
  /-- line image; none for a LASTUSE read of a clean line [R419, file 12] -/
  image : Option (List (BitVec 8)) := none
  /-- stamp drawn from the package's counter [R419, file 12] -/
  stamp : Nat := 0
  /-- the entry was made by a LASTUSE read [R419, file 12] -/
  lastUse : Bool := false
deriving DecidableEq, Repr

/-- One entry of an array's descriptor queue (R76, R77). -/
structure MEntry where
  /-- copy of the matrix descriptor [R76, file 03] -/
  desc : BitVec 512 := 0
  /-- false: the descriptor address was not a multiple of 64, so there is no copy and no token [R173, file 05] -/
  hasCopy : Bool := true
  /-- issuing thread group [R82, file 03] -/
  group : Nat := 0
  /-- the head checks have passed and the descriptor is in progress [R80, file 03] -/
  started : Bool := false
  /-- its LOADB part is done [R73, file 03] -/
  loaded : Bool := false
  /-- rows of A that have entered [R67, file 03] -/
  entered : Nat := 0
  /-- D rows written to local memory [R67, file 03] -/
  written : Nat := 0
  /-- all its work is done; its token has not completed yet [R82, file 03] -/
  finished : Bool := false
  /-- parity mismatches charged to this descriptor [R97, file 03] -/
  parity : Nat := 0
  /-- partial sums in flight restored from a save area: key window row * 32 + column [R57, file 03] -/
  sums : SMap (BitVec 40) := []
  /-- progress index or restart row at which the stopped descriptor continues [R93, file 03] -/
  resumeAt : Option Nat := none
  /-- rows whose A, C or scale bytes, or saved sums, were written before their D row, so that its values are undefined [R83, file 03] -/
  broken : List Nat := []
  /-- stopped on the save path: its save area holds its state [R91, file 03] -/
  saved : Bool := false
deriving DecidableEq, Repr

/-- The stationary tile held in an array with its tile record (R73, R74). -/
structure Tile where
  /-- tile record: the descriptor that loaded the tile [R74, file 03] -/
  record : BitVec 512 := 0
  /-- pass depth the LOADB fixed [R74, file 03] -/
  depth : Nat := 0
  /-- element bits of B latched in the cells: key stored K row * 32 + column [R63, file 03] -/
  elems : SMap (BitVec 32) := []
  /-- B scales latched in the cells: key 32 * block + column [R65, file 03] -/
  scales : SMap (BitVec 8) := []
  /-- sparsity metadata latched in the cells: key group * 32 + column [R85, file 03] -/
  metas : SMap (BitVec 4) := []
  /-- thread group that issued the tile record [R143, file 04] -/
  group : Nat := 0
deriving DecidableEq, Repr

/-- How far a stop of an array has come. -/
inductive StopState where
  /-- the array takes descriptors -/
  | running
  /-- a stop was requested and the array has not yet finished it (R90) -/
  | stopping
  /-- the array holds no work (R92) -/
  | stopped
deriving DecidableEq, Repr

/-- One matrix array (R62). -/
structure MatArray where
  /-- descriptor queue, the entry in progress first [R77, file 03] -/
  queue : List MEntry := []
  /-- stationary tile; none while the array holds no tile [R73, file 03] -/
  tile : Option Tile := none
  /-- stop in progress [R89, file 03] -/
  stop : StopState := .running
  /-- descriptors returned unissued to the task's saved context [R91, file 03] -/
  returned : List MEntry := []
deriving DecidableEq, Repr

/-- One line of the L1 (R188). -/
structure L1Line where
  /-- device physical address div 128 [R188, file 06] -/
  line : Nat := 0
  /-- copy of the line's bytes, key offset [R188, file 06] -/
  bytes : SMap (BitVec 8) := []
deriving DecidableEq, Repr

/-- One thread's part of an outstanding load or atomic (R165, R166). -/
structure LoadPiece where
  /-- thread (0 for ULD) [R165, file 05] -/
  thread : Nat := 0
  /-- PTE_TGT of the translation, or 3 for local memory [R287, file 08] -/
  tgt : Nat := 0
  /-- translated address [R165, file 05] -/
  addr : Nat := 0
  /-- data, once the access has been performed [R186, file 06] -/
  value : Option (List (BitVec 8)) := none
  /-- the status with which the part failed as it was performed [R168, file 05] -/
  bad : Option (BitVec 8) := none
  /-- the part reached a lost codeword; true in the second part when the data is gone [R429, file 12] -/
  lost : Option Bool := none
deriving DecidableEq, Repr

/-- An outstanding load or atomic of a core (R155, R186). -/
structure Outst where
  /-- issuing group [R155, file 05] -/
  group : Nat := 0
  /-- address of the instruction, for a TRAP record [R143, file 04] -/
  pc : BitVec 64 := 0
  /-- ULD: the destination is u[dest] [R170, file 05] -/
  uniform : Bool := false
  /-- destination register [R165, file 05] -/
  dest : Nat := 0
  /-- bytes [R166, file 05] -/
  size : Nat := 0
  /-- SX [R166, file 05] -/
  signed : Bool := false
  /-- HINT [R167, file 05] -/
  hint : Nat := 0
  /-- an acquire load or atomic [R202, file 06] -/
  acquire : Bool := false
  /-- atomic operation; none for a load [R169, file 05] -/
  aop : Option Nat := none
  /-- atomic operand of each thread [R169, file 05] -/
  opB : SMap (BitVec 64) := []
  /-- CAS new value of each thread [R169, file 05] -/
  opC : SMap (BitVec 64) := []
  /-- SCOPE [R197, file 06] -/
  scope : Nat := 0
  /-- ORD RELEASE or ACQ_REL [R201, file 06] -/
  release : Bool := false
  /-- RED: nothing is written back [R169, file 05] -/
  noReturn : Bool := false
  /-- the threads' accesses in increasing thread index [R168, file 05] -/
  pieces : List LoadPiece := []
deriving DecidableEq, Repr

/-- One entry of a core's tile-mover entries (R206). -/
structure TmEntry where
  /-- number of the entry, by which fabric answers find it [(model)] -/
  id : Nat := 0
  /-- its checks at the head have passed [R211, file 06] -/
  started : Bool := false
  /-- progress of the transfer, in rows moved [R214, file 06] -/
  byte : Nat := 0
  /-- copy of the tile-mover descriptor [R207, file 06] -/
  desc : BitVec 512 := 0
  /-- issuing group [R174, file 05] -/
  group : Nat := 0
  /-- completion token [R173, file 05] -/
  tok : Nat := 0
  /-- in one of the two entries reserved for an URGENT task [R206, file 06] -/
  urgent : Bool := false
  /-- its accesses are done; its token has not completed yet [R213, file 06] -/
  finished : Bool := false
deriving DecidableEq, Repr

/-- One in-place range (R418). -/
structure Range where
  /-- device virtual base, multiple of 256 [R418, file 12] -/
  base : Nat := 0
  /-- length in bytes, multiple of 256 [R418, file 12] -/
  len : Nat := 0
deriving DecidableEq, Repr

/-- How a task stands. -/
inductive TaskPhase where
  /-- issues -/
  | running
  /-- a trap was taken; ends with its status (R143) -/
  | trapped
  /-- stopped by a detected fault (R424) -/
  | recovering
  /-- waits for lost data to be restored (R430) -/
  | waitingData
deriving DecidableEq, Repr

/-- The task a core runs (R132). -/
structure Task where
  /-- queue of its LAUNCH, key (port * 32 + function) * 64 + queue [R132, file 04] -/
  queue : Nat := 0
  /-- descriptor index of its LAUNCH [R132, file 04] -/
  desc : Nat := 0
  /-- task index [R133, file 04] -/
  index : Nat := 0
  /-- ENTRY [R133, file 04] -/
  entry : BitVec 64 := 0
  /-- ARGS [R133, file 04] -/
  args : BitVec 64 := 0
  /-- GRID [R133, file 04] -/
  grid : Nat := 0
  /-- GROUPS [R132, file 04] -/
  groups : Nat := 0
  /-- VREGS [R115, file 04] -/
  vregs : Nat := 0
  /-- LM_SIZE in bytes, URGENT only [R132, file 04] -/
  lmSize : Nat := 0
  /-- priority class of its queue [R396, file 11] -/
  prio : Prio := .normal
  /-- address space [R379, file 11] -/
  asid : Nat := 0
  /-- partition [R11, file 00] -/
  part : Nat := 0
  /-- QUE_LENIENT [R230, file 07] -/
  lenient : Bool := false
  /-- watchdog time, ms; 0: none [R145, file 04] -/
  wdMs : Nat := 0
  /-- gang identifier; none with no gang [R129, file 04] -/
  gang : Option Nat := none
  /-- rank within the gang [R133, file 04] -/
  rank : Nat := 0
  /-- members of the task's gang as dispatched [R133, file 04] -/
  members : Nat := 1
  /-- in-place ranges [R418, file 12] -/
  ranges : List Range := []
  /-- how the task stands [R142, file 04] -/
  phase : TaskPhase := .running
  /-- highest status of its causes so far (R16) [R143, file 04] -/
  status : BitVec 8 := 0
  /-- held in place by a power, thermal or map-out stop [R480, file 13] -/
  held : Bool := false
  /-- pre-empted [R137, file 04] -/
  suspended : Bool := false
  /-- dispatch order number of the package, for the most recent dispatch of R397 [R397, file 11] -/
  seq : Nat := 0
  /-- cause of a recovery in progress [R579, file 12] -/
  cause : Nat := 0
  /-- the fault of a recovery in progress is hard [R425, file 12] -/
  hard : Bool := false
  /-- this run is a twin of the task of that logical core [R439, file 12] -/
  twinOf : Option Nat := none
  /-- writes of a twin, captured and not performed [R439, file 12] -/
  captured : SMap (Option (BitVec 8)) := []
  /-- the twin was abandoned [R439, file 12] -/
  twinVoid : Bool := false
  /-- this run restores lost data [R432, file 12] -/
  recompute : Bool := false
deriving DecidableEq, Repr

/-- A task's watchdog timer (R145). -/
structure Watch where
  /-- the task's first instruction has issued [R145, file 04] -/
  on : Bool := false
  /-- paused, while the task or a member of its gang is pre-empted [R145, file 04] -/
  hold : Bool := false
  /-- ticks from which it counts on [R145, file 04] -/
  since : Nat := 0
  /-- periods counted before that [R145, file 04] -/
  acc : Nat := 0
deriving DecidableEq, Repr

/-- Context frame of a logical core: the displaced state of a pre-empted task (R137). -/
structure Frame where
  /-- the pre-empted task [R137, file 04] -/
  task : Task := {}
  /-- group records and registers of the displaced slots [R137, file 04] -/
  groups : SMap Group := []
  /-- displaced local memory [R137, file 04] -/
  lm : SMap (BitVec 8) := []
  /-- bytes of local memory displaced [R137, file 04] -/
  lmSize : Nat := 0
  /-- state of the sixteen named barriers [R137, file 04] -/
  barriers : SMap NBar := []
  /-- tile records of the arrays that held a tile [R137, file 04] -/
  tiles : SMap Tile := []
  /-- matrix descriptors returned unissued, and the stopped one, per array [R137, file 04] -/
  returned : SMap (List MEntry) := []
  /-- suspended tile-mover descriptors [R214, file 06] -/
  tm : List TmEntry := []
  /-- undo log of the pre-empted task [R419, file 12] -/
  undo : List UndoEntry := []
  /-- lines the pre-empted task has logged [R419, file 12] -/
  undoSeen : List Nat := []
  /-- watchdog timer of the pre-empted task [R145, file 04] -/
  watch : Watch := {}
  /-- an uncorrectable error was met in it, so the pre-empted task will be replayed from its start [R428, file 12] -/
  bad : Bool := false
deriving DecidableEq, Repr

/-- One logical core's core (R104). -/
structure Core where
  /-- running task [R106, file 04] -/
  task : Option Task := none
  /-- context frame while it holds a pre-empted task [R137, file 04] -/
  frame : Option Frame := none
  /-- thread-group slots [R105, file 04] -/
  groups : SMap Group := []
  /-- MA0 and MA1 [R62, file 03] -/
  arrays : SMap MatArray := []
  /-- local memory, key byte address; cleared memory lists nothing [R182, file 06] -/
  lm : SMap (BitVec 8) := []
  /-- L1 lines: key set; the eviction end first [R188, file 06] -/
  l1 : SMap (List L1Line) := []
  /-- named barriers [R126, file 04] -/
  barriers : SMap NBar := []
  /-- outstanding loads and atomics, oldest first [R155, file 05] -/
  outst : List Outst := []
  /-- tile-mover entries of this core, in issue order [R206, file 06] -/
  tm : List TmEntry := []
  /-- address space of the core's previous task; none: no previous task since reset [R134, file 04] -/
  lastAsid : Option Nat := none
  /-- CORE_RC_HIT [R121, file 04] -/
  rcHit : Nat := 0
  /-- CORE_RC_MISS [R121, file 04] -/
  rcMiss : Nat := 0
  /-- groups by last issue on the arithmetic port, most recent first [R108, file 04] -/
  arithOrder : List Nat := []
  /-- groups by last issue on the memory port, most recent first [R108, file 04] -/
  memOrder : List Nat := []
  /-- undo log [R419, file 12] -/
  undo : List UndoEntry := []
  /-- lines already logged in this task run [R419, file 12] -/
  undoSeen : List Nat := []
  /-- ticks of the core's detected faults in the last 24 hours [R425, file 12] -/
  faultTicks : List Nat := []
  /-- local ticks of the last passing array test [R438, file 12] -/
  lastPass : Nat := 0
  /-- the core has passed the array test since the start [R437, file 12] -/
  hasTested : Bool := false
  /-- ticks of the last twin of this core's tasks [R439, file 12] -/
  twinAt : Option Nat := none
  /-- watchdog timer of the running task [R145, file 04] -/
  watch : Watch := {}
  /-- URGENT task whose pre-emption of the running task has been requested and is not complete [R138, file 04] -/
  urgent : Option Task := none
  /-- port of the last instruction that issued: 0 arithmetic, 1 memory [R107, file 04] -/
  lastPort : Nat := 0
  /-- what may still count in the cycle in which the task trapped: an instruction on the arithmetic (0) or memory port (1), a watchdog expiry (2) [R147, file 04] -/
  still : List Nat := []
  /-- instruction cache: addresses of the 8-byte instruction words it holds, the last fetched first [R104, file 04] -/
  icache : List Nat := []
  /-- core clock cycles since the core last left reset, as the last CYCLES read found them [R179, file 05] -/
  cycles : BitVec 64 := 0
deriving DecidableEq, Repr

/-- State of a core slot (R2, 00). -/
inductive SlotStatus where
  /-- holds a logical core -/
  | active
  /-- held out of service -/
  | spare
  /-- never enters service (R2) -/
  | fusedOff
  /-- taken out of service by a repair or failed (R424, R524) -/
  | fenced
deriving DecidableEq, Repr

/-- One physical core slot (R2). -/
structure Slot where
  /-- active, spare, fused off, or fenced [R2, file 00] -/
  status : SlotStatus := .fusedOff
  /-- received bitmap of the slot's runtime store [R524, file 14] -/
  rtBitmap : BitVec 64 := 0
  /-- the runtime store is full and passed BC_IMG_CRC [R524, file 14] -/
  rtGood : Bool := false
  /-- normalised ring-oscillator loss against shipment, 0.1 % units [R442, file 12] -/
  freqLoss : Nat := 0
  /-- loss the 30-day trend projects, 0.1 % units [R442, file 12] -/
  freqTrend : Nat := 0
  /-- spare rows used in each local-memory (array 3) or register-file (array 4) macro, key array * 65,536 + macro [R441, file 12] -/
  rowSpares : SMap Nat := []
  /-- rows with a detected error: (key of the macro * 65,536 + row, ticks) [R441, file 12] -/
  rowErrs : List (Nat × Nat) := []
deriving DecidableEq, Repr

/-- One logical core number (R9). -/
structure LCore where
  /-- physical slot it is mapped to; none once retired [R9, file 00] -/
  slot : Option Nat := none
  /-- channel its slot is paired with [R264, file 08] -/
  channel : Option Nat := none
  /-- the number has stopped existing [R426, file 12] -/
  retired : Bool := false
deriving DecidableEq, Repr

/-- State of a cluster-cache line, Table 06.3; I is a line that is not listed. -/
inductive CcSt where
  /-- S -/
  | shared
  /-- E -/
  | exclusive
  /-- M -/
  | modified
  /-- P -/
  | pend
deriving DecidableEq, Repr

/-- One line of a cluster cache (R192). -/
structure CcLine where
  /-- device physical address div 256 [R191, file 06] -/
  line : Nat := 0
  /-- S, E, M or P [R192, file 06] -/
  st : CcSt := .shared
  /-- bytes the line holds, key offset; in P only those that dirty names are present [R192, file 06] -/
  bytes : SMap (BitVec 8) := []
  /-- bytes merged since the line was last clean [R192, file 06] -/
  dirty : BitVec 256 := 0
  /-- hint of the access that last wrote the line [R222, file 07] -/
  hint : Nat := 0
  /-- the merged bytes are performed at die scope [R237, file 07] -/
  atDie : Bool := false
  /-- the merged bytes are performed at package scope [R237, file 07] -/
  atPkg : Bool := false
  /-- address space of the request [R225, file 07] -/
  pinAsid : Nat := 0
  /-- logical cores whose undo logs take the value the grant brings [R419, file 12] -/
  loggers : List Nat := []
  /-- ownership has been requested from the home slice [R192, file 06] -/
  asked : Bool := false
deriving DecidableEq, Repr

/-- Cluster clock state, Table 13.2. -/
inductive ClkState where
  /-- ACTIVE -/
  | active
  /-- CLOCK-OFF -/
  | clockOff
  /-- GATED -/
  | gated
  /-- OFF -/
  | off
deriving DecidableEq, Repr

/-- Stop that holds a cluster. -/
inductive StopKind where
  /-- no stop -/
  | none
  /-- power stop (R480) -/
  | power
  /-- thermal stop (R489) -/
  | thermal
deriving DecidableEq, Repr

/-- The gang to which a cluster's sync unit gives four barriers (R130). -/
structure Gang where
  /-- queue of the LAUNCH [R129, file 04] -/
  queue : Nat := 0
  /-- descriptor index [R129, file 04] -/
  desc : Nat := 0
  /-- logical cores by rank [R129, file 04] -/
  members : List Nat := []
  /-- ranks whose task has ended [R423, file 12] -/
  ended : List Nat := []
  /-- the gang's cluster barriers 0 to 3 [R130, file 04] -/
  barriers : SMap NBar := []
  /-- task index of rank 0 [R129, file 04] -/
  first : Nat := 0
deriving DecidableEq, Repr

/-- One cluster (R23). -/
structure Cluster where
  /-- clock state [R469, file 13] -/
  clk : ClkState := .off
  /-- step index of the set point in force [R466, file 13] -/
  step : Nat := 0
  /-- step index the power controller has set [R468, file 13] -/
  target : Nat := 0
  /-- sag stretch in force, 0, 25 or 50 % [R466, file 13] -/
  stretch : Nat := 0
  /-- current-limiter stretch in force, 0, 25 or 50 % [R476, file 13] -/
  limStretch : Nat := 0
  /-- droop detectors tripped now; bit 2: the VIN monitor of R475 [R473, file 13] -/
  tripped : BitVec 3 := 0
  /-- droop detectors disabled [R473, file 13] -/
  detOff : BitVec 2 := 0
  /-- droop events of the round [R473, file 13] -/
  droops : Nat := 0
  /-- wear margin m, mV [R467, file 13] -/
  wearMargin : Nat := 0
  /-- ticks of the last raise of the margin [R467, file 13] -/
  wearRaisedAt : Option Nat := none
  /-- on the region's fallback rail [R463, file 13] -/
  onVfb : Bool := false
  /-- a regulator failure waits for the next wake [R483, file 13] -/
  regFailed : Bool := false
  /-- logic ceiling [R488, file 13] -/
  logicCeil : Nat := 18
  /-- consecutive quiet rounds of the logic ceiling [R489, file 13] -/
  logicQuiet : Nat := 0
  /-- rounds the logic ceiling has been below 18 [R499, file 13] -/
  logicRounds : Nat := 0
  /-- slice ceiling of the slice above [R488, file 13] -/
  sliceCeil : Nat := 18
  /-- consecutive quiet rounds of the slice ceiling [R489, file 13] -/
  sliceQuiet : Nat := 0
  /-- rounds the slice ceiling has been below 18 [R499, file 13] -/
  sliceRounds : Nat := 0
  /-- power or thermal stop that holds the cluster's tasks [R480, file 13] -/
  stop : StopKind := .none
  /-- ticks since which the cluster has been idle [R470, file 13] -/
  idleFrom : Option Nat := none
  /-- power-gate steps open in an OFF exit in progress [R477, file 13] -/
  gateSteps : Nat := 0
  /-- an OFF exit is in progress [R477, file 13] -/
  waking : Bool := false
  /-- a dispatch waits for the cluster to leave OFF [R470, file 13] -/
  wakeReq : Bool := false
  /-- the tile mover and sync unit are in service [R447, file 12] -/
  tileMover : Bool := true
  /-- the cluster is retired [R447, file 12] -/
  retired : Bool := false
  /-- hybrid-bond spares of the vertical port in use, as bundle * 4,096 + lane div 16 [R441, file 12] -/
  bondUsed : List Nat := []
  /-- vertical port at half width toward the spine [R446, file 12] -/
  portHalfUp : Bool := false
  /-- vertical port at half width toward the cluster [R446, file 12] -/
  portHalfDown : Bool := false
  /-- cluster-cache lines: key set; the eviction end first [R191, file 06] -/
  cc : SMap (List CcLine) := []
  /-- CC_RD_HIT [R195, file 06] -/
  ccRdHit : Nat := 0
  /-- CC_RD_MISS [R195, file 06] -/
  ccRdMiss : Nat := 0
  /-- CC_WR [R195, file 06] -/
  ccWr : Nat := 0
  /-- CC_WB [R195, file 06] -/
  ccWb : Nat := 0
  /-- CC_ATOM [R195, file 06] -/
  ccAtomic : Nat := 0
  /-- CC_RECALL [R195, file 06] -/
  ccRecall : Nat := 0
  /-- gangs the sync unit serves, key gang identifier [R130, file 04] -/
  gangs : SMap Gang := []
  /-- the SRAM-tier side of the port answers for the cluster in partition reset [R317, file 09] -/
  inReset : Bool := false
  /-- logic reading of the last round, 0.125 C [R488, file 13] -/
  tLogic : Int := 0
  /-- domain voltage of the last round, mV [R487, file 13] -/
  domMv : Nat := 0
  /-- domain current of the last round, 0.1 A [R487, file 13] -/
  domI : Nat := 0
  /-- per logic sensor: consecutive rounds it differed from the other three by more than 10 C [R488, file 13] -/
  logicExcl : SMap Nat := []
deriving DecidableEq, Repr

/-- Pin of a slice line. -/
inductive PinKind where
  /-- not pinned -/
  | unpinned
  /-- pinned by a program of that pinning space (R225) -/
  | program (asid : Nat)
  /-- firmware pin (R226) -/
  | firmware
deriving DecidableEq, Repr

/-- One line held in a slice's data array (R217, R223). -/
structure SLine where
  /-- device physical address div 256 [R221, file 07] -/
  line : Nat := 0
  /-- way of the set [R245, file 07] -/
  way : Nat := 0
  /-- the line is newer than its channel [R217, file 07] -/
  dirty : Bool := false
  /-- pin and pinning space [R225, file 07] -/
  pin : PinKind := .unpinned
  /-- the line's data, key offset [R217, file 07] -/
  bytes : SMap (BitVec 8) := []
deriving DecidableEq, Repr

/-- Stable state of a directory entry, Table 07.5; U is a line with no entry. -/
inductive DirSt where
  /-- SH with its sharer vector -/
  | shared (sharers : BitVec 64)
  /-- EX with its owner -/
  | owned (owner : Nat)
deriving DecidableEq, Repr

/-- Kind of a request at a home slice (Table 07.6). -/
inductive ReqKind where
  /-- READ of a cluster cache -/
  | read
  /-- OWN of a cluster cache -/
  | own
  /-- LASTUSE read of a cluster cache or of another master -/
  | last
  /-- read by a master that is no cluster cache -/
  | sread
  /-- write by a master that is no cluster cache -/
  | swrite
deriving DecidableEq, Repr

/-- A request at a home slice (R218, R222, R236). -/
structure CohReq where
  /-- what is asked [R236, file 07] -/
  kind : ReqKind := .read
  /-- requesting cluster cache of a READ or OWN [R236, file 07] -/
  cl : Nat := 0
  /-- master class [R250, file 07] -/
  m : Master := .core
  /-- hint of the request [R222, file 07] -/
  hint : Nat := 0
  /-- address space of the request [R225, file 07] -/
  asid : Nat := 0
  /-- the queue is lenient [R230, file 07] -/
  lenient : Bool := false
  /-- the bytes lie in one 32-byte block [R268, file 08] -/
  narrow : Bool := false
  /-- bytes that a write brings, by offset [R238, file 07] -/
  data : List (Nat × BitVec 8) := []
deriving DecidableEq, Repr

/-- An open transaction of a directory entry in state BUSY (R235, R236). -/
structure Txn where
  /-- the request that opened it [R236, file 07] -/
  r : CohReq := {}
  /-- caches whose acknowledgement is outstanding [R237, file 07] -/
  waiting : List Nat := []
  /-- the grant has been sent [R237, file 07] -/
  granted : Bool := false
  /-- a recall is outstanding, so the line is not at the slice [R236, file 07] -/
  recalling : Bool := false
  /-- sharers to record when a READ closes [R236, file 07] -/
  sharers : BitVec 64 := 0
  /-- a writer has been signalled that its write is performed at die scope [R238, file 07] -/
  atDie : Bool := false
deriving DecidableEq, Repr

/-- One directory entry (R235). -/
structure DirEnt where
  /-- device physical address div 256 [R235, file 07] -/
  line : Nat := 0
  /-- SH or EX [R235, file 07] -/
  st : DirSt := .shared 0
  /-- the open transaction while the entry is BUSY [R235, file 07] -/
  txn : Option Txn := none
  /-- requests that wait for the transaction to close, oldest first [R218, file 07] -/
  waiting : List CohReq := []
deriving DecidableEq, Repr

/-- One SRAM slice (R216). -/
structure Slice where
  /-- data array: key sub-array * 8,192 + set; the eviction end first [R216, file 07] -/
  sets : SMap (List SLine) := []
  /-- directory: key directory set; least recently used first [R234, file 07] -/
  dir : SMap (List DirEnt) := []
  /-- last-use ledger: line addresses, oldest first [R228, file 07] -/
  ledger : List Nat := []
  /-- disabled ways of each set, key as sets [R246, file 07] -/
  waysOff : SMap (BitVec 16) := []
  /-- sets disabled as a whole [R246, file 07] -/
  setsOff : List Nat := []
  /-- directory entries disabled in each directory set [R247, file 07] -/
  dirOff : SMap Nat := []
  /-- spare rows used: key array kind * 1,024 + macro (0 data, 1 tag, 2 directory) [R245, file 07] -/
  rowSpares : SMap Nat := []
  /-- SLC_HIT_m_h, key m * 4 + h [R250, file 07] -/
  hits : SMap Nat := []
  /-- SLC_MISS_m_h, key m * 4 + h [R250, file 07] -/
  misses : SMap Nat := []
  /-- SLC_PIN_DEMOTE [R250, file 07] -/
  pinDemote : Nat := 0
  /-- SLC_LEDGER_POISON [R250, file 07] -/
  ledPoison : Nat := 0
  /-- SLC_LEDGER_LENIENT [R250, file 07] -/
  ledLenient : Nat := 0
  /-- SLC_LEDGER_NOCTX [R250, file 07] -/
  ledNoctx : Nat := 0
  /-- signal that the slice sent last to a writer: line; false at die scope, true at package scope [R238, file 07] -/
  signal : Option (Nat × Bool) := none
  /-- rows with a corrected error: (key array * 2^20 + macro * 512 + row of the data array, or array * 2^20 + set of the tag array or directory; almanac round; ticks) [R245, file 07] -/
  rowErrs : List (Nat × Nat × Nat) := []
  /-- rows that mainland is to declare failed, keyed as rowErrs [R245, file 07] -/
  rowBad : List Nat := []
  /-- failed rows whose ways, sets or entries stay disabled until the spare row is in place: array, macro, row, sets [R245, file 07] -/
  repairing : List (Nat × Nat × Nat × List Nat) := []
  /-- SLC_LEDGER_OVERWRITE [R250, file 07] -/
  ledOver : Nat := 0
  /-- SLC_DIR_RECALL [R250, file 07] -/
  dirRecall : Nat := 0
  /-- SLC_CE [R250, file 07] -/
  ce : Nat := 0
  /-- transpose buffers: the last blocks assembled, at most two [R241, file 07] -/
  transpose : List (List (BitVec 8)) := []
  /-- the two active sensors are suspect [R491, file 13] -/
  sensorsOff : Bool := false
  /-- the thermal model alone governs the slice [R491, file 13] -/
  modelOnly : Bool := false
  /-- consecutive rounds in which the model exceeded the sensor by more than 6 C [R491, file 13] -/
  modelRounds : Nat := 0
  /-- effective SRAM-tier temperature of the last round, 0.125 C [R488, file 13] -/
  tEff : Int := 0
deriving DecidableEq, Repr

/-- Producer record of a frame (R431). -/
structure Producer where
  /-- queue of the frame's most recent write [R431, file 12] -/
  queue : Nat := 0
  /-- descriptor index [R431, file 12] -/
  desc : Nat := 0
  /-- lowest task index among the writers [R431, file 12] -/
  lo : Nat := 0
  /-- highest task index among the writers [R431, file 12] -/
  hi : Nat := 0
  /-- recomputable [R431, file 12] -/
  ok : Bool := false
deriving DecidableEq, Repr

/-- One dense channel (R252). -/
structure Channel where
  /-- mapped out [R257, file 08] -/
  mappedOut : Bool := false
  /-- stopped answering, map-out not yet done [R280, file 08] -/
  lost : Bool := false
  /-- paired with no slot after its core was retired [R426, file 12] -/
  orphaned : Bool := false
  /-- TSV spares left [R441, file 12] -/
  tsvSpares : Nat := 32
  /-- retired 64 KiB pages of its private slice and firmware range, as address div 65,536 [R276, file 08] -/
  retired : List Nat := []
  /-- CH_BURST_RD [R289, file 08] -/
  burstRd : Nat := 0
  /-- CH_BURST_WR [R289, file 08] -/
  burstWr : Nat := 0
  /-- CH_NARROW_RD [R289, file 08] -/
  narrowRd : Nat := 0
  /-- CH_CE [R289, file 08] -/
  chCe : Nat := 0
  /-- CH_CE_4B [R289, file 08] -/
  chCe4 : Nat := 0
  /-- CH_UE [R289, file 08] -/
  chUe : Nat := 0
  /-- CH_PARITY [R289, file 08] -/
  chParity : Nat := 0
  /-- CH_SCRUB_PASS [R289, file 08] -/
  scrubPass : Nat := 0
  /-- pool pages retired whose errors came from this channel, part of CH_RETIRED [R289, file 08] -/
  poolRetired : Nat := 0
  /-- CH_BAND_TIME_0 to CH_BAND_TIME_3 [R289, file 08] -/
  bandTime : SMap Nat := []
  /-- channel line address the patrol scrub reads next [R273, file 08] -/
  scrubAt : Nat := 0
  /-- next bank row to refresh, bank * 8,192 + row [R279, file 08] -/
  refreshRow : Nat := 0
  /-- codewords corrected before: (codeword address div 64, almanac round) [R276, file 08] -/
  ceSeen : List (Nat × Nat) := []
  /-- codewords corrected by scrub: (codeword address div 64, scrub pass) [R276, file 08] -/
  ceScrub : List (Nat × Nat) := []
  /-- codewords that needed 3 or 4 bytes corrected, as address div 64 [R276, file 08] -/
  ceFour : List Nat := []
  /-- codewords that had an uncorrectable error or a parity mismatch, as address div 64 [R276, file 08] -/
  ueSeen : List Nat := []
  /-- corrections in the round so far [R457, file 12] -/
  ceRound : Nat := 0
  /-- CLA, codeword and bytes corrected of the first correction in the round [R457, file 12] -/
  ceFirst : Nat × Nat × Nat := (0, 0, 0)
deriving DecidableEq, Repr

/-- One region (R23). -/
structure Region where
  /-- PART_PRIV_STEPS in bits [2:0] and PART_DIE_WIDE in bit [3] as last stored [R261, file 08] -/
  memReq : BitVec 4 := 0b0010
  /-- PART_MEM_REJECT [R261, file 08] -/
  memReject : Bool := false
  /-- PART_PRIV_APPLIED, the p in force [R261, file 08] -/
  privSteps : Nat := 2
  /-- PART_DIE_WIDE_APPLIED [R261, file 08] -/
  dieWide : Bool := false
  /-- PART_MEM_STATE [R261, file 08] -/
  memState : Nat := 0
  /-- retired pages of the region's pool, as device physical address div 65,536 [R276, file 08] -/
  poolRetired : List Nat := []
  /-- pages whose retirement waits for a free page [R278, file 08] -/
  retireWait : List Nat := []
  /-- spine clock, MHz [R300, file 09] -/
  spineMhz : Nat := 1200
  /-- at 300 MHz because the region is idle [R300, file 09] -/
  spineIdle : Bool := false
  /-- spine clock the thermal rule allows, MHz [R489, file 13] -/
  spineTherm : Nat := 1200
  /-- consecutive quiet rounds of the spine clock [R489, file 13] -/
  spineQuiet : Nat := 0
  /-- rounds the thermal spine clock has been below 1,200 MHz [R499, file 13] -/
  spineRounds : Nat := 0
  /-- ticks of the last OFF exit begun in the region [R477, file 13] -/
  waveAt : Option Nat := none
  /-- channel whose map-out is in progress or waits [R283, file 08] -/
  mapOut : Option Nat := none
deriving DecidableEq, Repr

/-- One die (R23). -/
structure Die where
  /-- PART_DIE_REQ as last stored [R553, file 15] -/
  dieReq : Bool := false
  /-- PART_DIE_APPLIED [R553, file 15] -/
  dieApplied : Bool := false
  /-- PART_DIE_REJECT [R553, file 15] -/
  dieReject : Bool := false
  /-- temperature band of the stack [R279, file 08] -/
  band : Nat := 0
  /-- refresh window in force, ms [R279, file 08] -/
  refreshWindow : Nat := 64
  /-- the stack is critical [R492, file 13] -/
  critical : Bool := false
  /-- die ceiling [R489, file 13] -/
  dieCeil : Nat := 18
  /-- consecutive quiet rounds of the die ceiling [R489, file 13] -/
  dieQuiet : Nat := 0
  /-- rounds the die ceiling has been below 18 [R499, file 13] -/
  dieRounds : Nat := 0
  /-- thermal bandwidth cap, 0.1 % of non-STATIC slots; 1000 when none [R492, file 13] -/
  bwTherm : Nat := 1000
  /-- thermal-cycle counter in its rising state [R498, file 13] -/
  cycRising : Bool := false
  /-- lo of the cycle counter; none before the first reading [R498, file 13] -/
  cycLo : Option Int := none
  /-- hi of the cycle counter [R498, file 13] -/
  cycHi : Int := 0
  /-- thermal cycles counted [R498, file 13] -/
  cycles : Nat := 0
  /-- hottest dense sensor of the last round, 0.125 C [R487, file 13] -/
  tDense : Int := 0
  /-- ticks of the die's last droop event [R477, file 13] -/
  lastDroop : Option Nat := none
deriving DecidableEq, Repr

/-- A weighted round robin among classes and queues (R396, file 11). -/
structure Turn where
  /-- starts HIGH has left in this turn [R396, file 11] -/
  high : Nat := 4
  /-- starts NORMAL has left in this turn [R396, file 11] -/
  normal : Nat := 2
  /-- starts BULK has left in this turn [R396, file 11] -/
  bulk : Nat := 1
  /-- queue that started last, per priority class (key 0 to 3), plus one [R396, file 11] -/
  lastQueue : SMap Nat := []
deriving DecidableEq, Repr

/-- One partition (R11). -/
structure Part where
  /-- PART_GRANT_REQ as last stored [R553, file 15] -/
  grantReq : BitVec 2 := 0
  /-- PART_GRANT_APPLIED [R553, file 15] -/
  grant : BitVec 2 := 0
  /-- PART_GRANT_REJECT [R553, file 15] -/
  grantReject : Bool := false
  /-- port whose grant request waits for skerry [R554, file 15] -/
  grantAsk : Option Nat := none
  /-- PART_RST_ACTIVE [R504, file 14] -/
  rstActive : Bool := false
  /-- ticks at the reference of the reset in progress [R505, file 14] -/
  rstAt : Nat := 0
  /-- port whose physical function requested the reset in progress [R504, file 14] -/
  rstPort : Nat := 0
  /-- PART_RST_WAIT [R504, file 14] -/
  rstWait : Bool := false
  /-- PART_RST_COUNT [R504, file 14] -/
  rstCount : BitVec 16 := 0
  /-- dispatch stopped by a map-out pause or reset [R283, file 08] -/
  paused : Bool := false
  /-- dispatches HIGH has left in this turn [R396, file 11] -/
  turnHigh : Nat := 4
  /-- dispatches NORMAL has left in this turn [R396, file 11] -/
  turnNormal : Nat := 2
  /-- dispatches BULK has left in this turn [R396, file 11] -/
  turnBulk : Nat := 1
  /-- queue that dispatched last, per priority class (key 0 to 3), plus one [R396, file 11] -/
  lastQueue : SMap Nat := []
deriving DecidableEq, Repr

/-- A coherence message in flight between a home slice and a cluster cache (R236, R237, 07). -/
inductive CohMsg where
  /-- an invalidation on its way to a cluster cache -/
  | inv (line cluster : Nat)
  /-- a recall on its way to a cluster cache -/
  | recall (line cluster : Nat) (toShared : Bool)
  /-- an acknowledgement on its way to the home slice -/
  | ack (line cluster : Nat)
  /-- a grant on its way to a cluster cache -/
  | grant (line cluster : Nat)
  /-- a completion on its way to a cluster cache -/
  | done (line cluster : Nat)
deriving DecidableEq, Repr

/-- A message in the network inside the package (R291, R295). -/
structure NetMsg where
  /-- number by which messages keep their age [(model)] -/
  id : Nat := 0
  /-- the coherence message it carries; none for a burst at a dense channel or a barrier arrival [R236, file 07] -/
  coh : Option CohMsg := none
  /-- class of Table 09.4 [R309, file 09] -/
  cls : Nat := 1
  /-- protocol channel: 0 REQ, 1 FWD, 2 RSP [R295, file 09] -/
  chan : Nat := 0
  /-- source endpoint: cluster cache c as c, slice k as 64 + k, core slot k as 128 + k [R296, file 09] -/
  src : Nat := 0
  /-- destination endpoint, numbered as src [R296, file 09] -/
  dst : Nat := 0
  /-- payload bytes [R315, file 09] -/
  bytes : Nat := 0
  /-- quarter slots it takes: 4, or 1 for a narrow access [R312, file 09] -/
  quarters : Nat := 4
  /-- the owner tag [R293, file 09] -/
  owner : Bool := false
  /-- input port at the cluster crossbar of its path [R292, file 09] -/
  inp : Nat := 0
  /-- arrival number at the point where it waits [R295, file 09] -/
  since : Nat := 0
  /-- points still to leave, the one where it waits first; empty at its destination [R291, file 09] -/
  path : List Nat := []
deriving DecidableEq, Repr

/-- A regulated point, a crossbar output or a seam bridge FIFO (R292, R297, R310). -/
structure NetPoint where
  /-- slot_in_window, in quarter slots [R310, file 09] -/
  slot : Nat := 0
  /-- share set in force in this window [R314, file 09] -/
  share : List Nat := []
  /-- used, per class, in quarter slots [R310, file 09] -/
  used : SMap Nat := []
  /-- quarter slots of the window that requests without the owner tag used, per class [R312, file 09] -/
  others : SMap Nat := []
  /-- guaranteed class that the round robin within shares served last [R310, file 09] -/
  rr : Nat := 0
  /-- class that the round robin of leftover slots served last [R310, file 09] -/
  left : Nat := 5
  /-- protocol channel served last, per class [R295, file 09] -/
  chanRr : SMap Nat := []
  /-- input port that a crossbar output served last [R292, file 09] -/
  inRr : Nat := 13
  /-- classes pending at every slot of the window so far [R315, file 09] -/
  pendAll : List Nat := []
  /-- NET_BYTES, per class [R315, file 09] -/
  bytes : SMap Nat := []
  /-- NET_SHORT, per class [R315, file 09] -/
  short : SMap Nat := []
deriving DecidableEq, Repr

/-- One end of a die-to-die or die-hub link (R302). -/
structure LinkEnd where
  /-- the link (or half) is in service [R446, file 12] -/
  up : Bool := false
  /-- holds traffic while it retrains [R308, file 09] -/
  retraining : Bool := false
  /-- sequence number of the next flit this end sends [R306, file 09] -/
  txSeq : BitVec 16 := 0
  /-- sequence number this end expects next [R306, file 09] -/
  rxSeq : BitVec 16 := 0
  /-- flits kept for replay, oldest first [R307, file 09] -/
  kept : List (BitVec 16 × Flit) := []
  /-- flits being sent again [R307, file 09] -/
  resend : List (BitVec 16 × Flit) := []
  /-- discards every flit until the replay [R307, file 09] -/
  discarding : Bool := false
  /-- times in a row the expected sequence number has failed [R308, file 09] -/
  failRun : Nat := 0
  /-- replay request waiting to be sent: FL_ACK it names [R307, file 09] -/
  replayReq : Option (BitVec 16) := none
  /-- credits held per class * 3 + protocol channel [R305, file 09] -/
  credits : SMap Nat := []
  /-- message flits delivered in order [R307, file 09] -/
  inbox : List Flit := []
  /-- spare lanes left in this end's receive direction [R302, file 09] -/
  spareLanes : Nat := 0
  /-- failed lanes [R308, file 09] -/
  badLanes : List Nat := []
  /-- LINK_CRC_ERR [R307, file 09] -/
  crcErr : Nat := 0
  /-- LINK_REPLAY [R307, file 09] -/
  replays : Nat := 0
  /-- flits corrected in the almanac round [R308, file 09] -/
  corrRate : Nat := 0
deriving DecidableEq, Repr

/-- LINK_QOS_CLASSc (Table 09.6). -/
structure Qos where
  /-- LINK_QOS_SHARE as last stored [R313, file 09] -/
  req : BitVec 8 := 0
  /-- LINK_QOS_APPLIED [R313, file 09] -/
  applied : BitVec 8 := 0
deriving DecidableEq, Repr

/-- The network inside the package (chapter 09). -/
structure Net where
  /-- messages in the network, oldest first [R295, file 09] -/
  msgs : List NetMsg := []
  /-- number of messages and of arrivals at points so far [(model)] -/
  seq : Nat := 0
  /-- regulated points, crossbar outputs and seam bridge FIFOs, key point number [R310, file 09] -/
  points : SMap NetPoint := []
  /-- link ends, key endpoint number [R302, file 09] -/
  links : SMap LinkEnd := []
  /-- die route table: key from * 5 + to (4 is the hub); 0 default path, 1 first alternative, 2 second alternative [R303, file 09] -/
  routes : SMap Nat := []
  /-- class shares [R313, file 09] -/
  qos : SMap Qos := []
  /-- a requested set waits for the next almanac round [R314, file 09] -/
  qosPending : Bool := false
  /-- LINK_QOS_REJECT [R313, file 09] -/
  qosReject : Bool := false
  /-- LINK_DT_CFG as last stored [R318, file 09] -/
  dtCfg : BitVec 64 := 0
  /-- port whose physical function wrote LINK_DT_CFG [R318, file 09] -/
  dtPort : Nat := 0
  /-- DT_GEN [R319, file 09] -/
  dtGen : BitVec 64 := 0
  /-- a rewrite of the distance table is due [R321, file 09] -/
  dtDue : Bool := false
  /-- NET_BYTES, key (point * 8 + class) * 2 + direction [R315, file 09] -/
  netBytes : SMap Nat := []
  /-- NET_SHORT, keys as NET_BYTES [R315, file 09] -/
  netShort : SMap Nat := []
  /-- messages answered target resetting that wait to be sent again, by cluster [R317, file 09] -/
  retries : List Nat := []
deriving DecidableEq, Repr

/-- An optical engine (R323). -/
structure Engine where
  /-- LS_EN_N of the engine is driven low [R326, file 10] -/
  lit : Bool := false
  /-- the input selector passes LASER_B [R325, file 10] -/
  laserB : Bool := false
  /-- inputs A (bit 0) and B (bit 1) meet Table 10.1 [R325, file 10] -/
  good : BitVec 2 := 0b11
  /-- inputs that read below the switch threshold in the last sample [R324, file 10] -/
  low : BitVec 2 := 0
  /-- the engine is dark [R327, file 10] -/
  dark : Bool := true
  /-- hottest sensor of the last round, 0.125 C [R487, file 13] -/
  tOpt : Int := 0
  /-- power readings of its two laser sources, 16 bits each [R326, file 10] -/
  srcPower : BitVec 32 := 0
  /-- temperature readings of its two laser sources [R326, file 10] -/
  srcTemp : BitVec 32 := 0
  /-- output levels set for its two laser sources [R326, file 10] -/
  srcLevel : BitVec 32 := 0
deriving DecidableEq, Repr

/-- One strait (R323, R328). -/
structure Strait where
  /-- STR_UP [R333, file 10] -/
  up : Bool := false
  /-- STR_HALF [R333, file 10] -/
  half : Bool := false
  /-- STR_SPARE_USED [R333, file 10] -/
  spareUsed : Bool := false
  /-- STR_SPARE_FOR [R333, file 10] -/
  spareFor : BitVec 3 := 0
  /-- STR_PEER_ID [R333, file 10] -/
  peerId : BitVec 12 := 0
  /-- STR_PEER_PORT [R333, file 10] -/
  peerPort : BitVec 4 := 0
  /-- STR_PEER_VALID [R333, file 10] -/
  peerValid : Bool := false
  /-- the transmit direction carries a lane on the spare wavelength [R331, file 10] -/
  txSpareUsed : Bool := false
  /-- lane the spare wavelength carries in the transmit direction [R331, file 10] -/
  txSpareFor : BitVec 3 := 0
  /-- failed lanes in the receive direction [R331, file 10] -/
  rxBad : BitVec 8 := 0
  /-- failed lanes in the transmit direction [R332, file 10] -/
  txBad : BitVec 8 := 0
  /-- holds new flits while a swap, switch or retrain runs [R331, file 10] -/
  holding : Bool := false
  /-- lane whose swap is in progress [R331, file 10] -/
  swapLane : Option (BitVec 3) := none
  /-- sequence number of the next flit sent [R330, file 10] -/
  txSeq : BitVec 16 := 0
  /-- sequence number expected next [R330, file 10] -/
  rxSeq : BitVec 16 := 0
  /-- flits kept for replay, oldest first [R330, file 10] -/
  kept : List (BitVec 16 × SFlit) := []
  /-- flits being sent again [R330, file 10] -/
  resend : List (BitVec 16 × SFlit) := []
  /-- discards every flit until the replay [R330, file 10] -/
  discarding : Bool := false
  /-- times in a row the expected sequence number has failed [R330, file 10] -/
  failRun : Nat := 0
  /-- replay request waiting to be sent [R330, file 10] -/
  replayReq : Option (BitVec 16) := none
  /-- credits held per traffic class * 8 + hop buffer [R329, file 10] -/
  credits : SMap Nat := []
  /-- body units taken and not yet assembled into messages, per traffic class * 8 + hop buffer [R329, file 10] -/
  units : SMap (List (BitVec 8)) := []
  /-- messages queued for this strait [R338, file 10] -/
  outq : List FMsg := []
  /-- units already sent of the oldest queued message, per traffic class * 8 + hop buffer [R329, file 10] -/
  sent : SMap Nat := []
  /-- credits to be returned to the peer, per traffic class * 8 + hop buffer [R329, file 10] -/
  owed : SMap Nat := []
  /-- flits sent in the window of 256 [R340, file 10] -/
  winSlot : Nat := 0
  /-- flits each traffic class has sent in the window [R340, file 10] -/
  winUsed : SMap Nat := []
  /-- class that the round robin served last [R340, file 10] -/
  rr : Nat := 0
  /-- the swap in progress is in the transmit direction [R331, file 10] -/
  swapTx : Bool := false
  /-- STR_CRC_ERR [R330, file 10] -/
  crcErr : Nat := 0
  /-- STR_REPLAY [R330, file 10] -/
  replays : Nat := 0
  /-- STR_FEC_CORR [R330, file 10] -/
  fecCorr : Nat := 0
  /-- STR_FEC_UNCORR [R330, file 10] -/
  fecUncorr : Nat := 0
deriving DecidableEq, Repr

/-- One entry of the fabric switch's route table (R336). -/
structure Route where
  /-- minimal mask [R336, file 10] -/
  mask : BitVec 16 := 0
  /-- detour strait [R336, file 10] -/
  detour : Option Nat := none
  /-- hop distance [R336, file 10] -/
  dist : Nat := 0
deriving DecidableEq, Repr

/-- Alive counters and kept messages of one flow at this package (R345). -/
structure Flow where
  /-- counter of the next message this package sends on the flow [R345, file 10] -/
  txNext : BitVec 16 := 0
  /-- unacknowledged messages, oldest first [R345, file 10] -/
  kept : List FMsg := []
  /-- counter expected next on the flow [R345, file 10] -/
  rxNext : BitVec 16 := 0
  /-- messages accepted since the last ACK sent [R345, file 10] -/
  unacked : Nat := 0
  /-- messages held because 1,024 are unacknowledged [R345, file 10] -/
  held : List FMsg := []
deriving DecidableEq, Repr

/-- A physical range exported to a package (R348). -/
structure Export where
  /-- package ID [R348, file 10] -/
  peer : Nat := 0
  /-- first device physical address [R348, file 10] -/
  base : Nat := 0
  /-- bytes [R348, file 10] -/
  len : Nat := 0
  /-- address space of the exporting queue [R389, file 11] -/
  asid : Nat := 0
  /-- virtual address of the range's first byte [R389, file 11] -/
  va : Nat := 0
deriving DecidableEq, Repr

/-- Who waits for the answer to a fabric request. -/
inductive ReqWho where
  /-- a thread's part of an outstanding load or atomic of a core -/
  | load (core group dest thread : Nat)
  /-- a write of a core's task -/
  | store (core : Nat)
  /-- a tile-mover descriptor of a core -/
  | tm (core id : Nat)
  /-- a descriptor of a queue -/
  | desc (queue index : Nat)
  /-- a host access through BAR2 -/
  | bar (port fn : Nat)
deriving DecidableEq, Repr

/-- A request of this package awaiting its answer (R342, R343). -/
structure FReq where
  /-- FM_TAG [R344, file 10] -/
  tag : Nat := 0
  /-- the request, to be sent again on a retry answer [R342, file 10] -/
  msg : FMsg := {}
  /-- originating work [R342, file 10] -/
  who : ReqWho := .desc 0 0
  /-- answered TARGET_RESETTING (1) or NOT_READY (2), waits to be sent again [R342, file 10] -/
  retry : Option Nat := none
  /-- the answer's data, kept until the work takes it [R343, file 10] -/
  answer : Option (List (BitVec 8)) := none
  /-- status with which the request ended, until the work takes it [R342, file 10] -/
  status : Option (BitVec 8) := none
  /-- NOT_READY answers so far [R342, file 10] -/
  tries : Nat := 0
deriving DecidableEq, Repr

/-- One chunk of an open collective at this member (R351). -/
structure CollChunk where
  /-- contributions of children that have arrived [R351, file 10] -/
  got : Nat := 0
  /-- contributions combined so far, FP32 [R352, file 10] -/
  acc : List (BitVec 32) := []
  /-- acc holds a first contribution [R352, file 10] -/
  has : Bool := false
  /-- this member's own contribution is in [R351, file 10] -/
  own : Bool := false
deriving DecidableEq, Repr

/-- An open collective at this member (R349, R351). -/
structure Coll where
  /-- COLL_ID [R349, file 10] -/
  collId : Nat := 0
  /-- Q_HINT of its descriptor [R388, file 11] -/
  hint : Nat := 0
  /-- queue of its descriptor [R353, file 10] -/
  queue : Nat := 0
  /-- descriptor index [R353, file 10] -/
  desc : Nat := 0
  /-- OP [R349, file 10] -/
  op : Nat := 0
  /-- ROP [R349, file 10] -/
  rop : Nat := 0
  /-- FMT [R349, file 10] -/
  fmt : Nat := 0
  /-- WIRE [R349, file 10] -/
  wire32 : Bool := false
  /-- SAT [R349, file 10] -/
  sat : Bool := false
  /-- SRC [R349, file 10] -/
  src : Nat := 0
  /-- DST [R349, file 10] -/
  dst : Nat := 0
  /-- COUNT [R349, file 10] -/
  count : Nat := 0
  /-- ROOT [R349, file 10] -/
  root : Nat := 0
  /-- CM_SIZE [R350, file 10] -/
  size : Nat := 1
  /-- CM_RANK [R350, file 10] -/
  rank : Nat := 0
  /-- its descriptor has completed; the member goes on forwarding [R353, file 10] -/
  ended : Bool := false
  /-- CM_TREES [R350, file 10] -/
  trees : Nat := 1
  /-- CM_PARENT per tree, plus one; 0 at the root [R350, file 10] -/
  parents : SMap Nat := []
  /-- CM_CHILD per tree: package, RANK_LO, RANK_HI [R350, file 10] -/
  children : SMap (List (Nat × Nat × Nat)) := []
  /-- CM_MEMBERS [R350, file 10] -/
  members : List Nat := []
  /-- chunks that are open or done [R351, file 10] -/
  chunks : SMap CollChunk := []
  /-- messages this member still has to receive [R351, file 10] -/
  duty : Nat := 0
  /-- pieces of SRC that this member has put in [R351, file 10] -/
  fed : Nat := 0
  /-- chunks whose results this member still needs in DST [R351, file 10] -/
  need : Nat := 0
deriving DecidableEq, Repr

/-- Progress of a GUARD POINT, Table 10.11. -/
inductive GuardPhase where
  /-- no point in progress -/
  | idle
  /-- ARRIVE sent, POINT not yet received -/
  | arriving
  /-- point established, parity P being brought up -/
  | phaseP
  /-- COMMIT_P received, parity Q being brought up -/
  | phaseQ
deriving DecidableEq, Repr

/-- This package's place in its guard group and domain (R355). -/
structure Guard where
  /-- a SETUP has completed [R356, file 10] -/
  joined : Bool := false
  /-- queue whose GUARD SETUP is in progress or made the group [R390, file 11] -/
  setupQueue : Option Nat := none
  /-- GR_DOMAIN [R355, file 10] -/
  domain : Nat := 0
  /-- GR_DOMAIN_SIZE [R355, file 10] -/
  domainSize : Nat := 0
  /-- GR_K [R355, file 10] -/
  k : Nat := 0
  /-- GR_ROLE [R355, file 10] -/
  role : Nat := 0
  /-- GR_MEMBERS, data ranks 0 to k - 1 [R355, file 10] -/
  members : List Nat := []
  /-- GR_P_ID [R355, file 10] -/
  pId : Nat := 0
  /-- GR_Q_ID [R355, file 10] -/
  qId : Nat := 0
  /-- GR_SPARE_ID [R355, file 10] -/
  spareId : Nat := 0
  /-- GR_BASE [R355, file 10] -/
  base : Nat := 0
  /-- GR_SIZE [R355, file 10] -/
  size : Nat := 0
  /-- GR_SHADOW_MIB [R355, file 10] -/
  shadowMib : Nat := 0
  /-- GR_DOMAIN_COMM [R355, file 10] -/
  domainComm : Nat := 0
  /-- GR_GROUP_COMM [R355, file 10] -/
  groupComm : Nat := 0
  /-- address space of the guarded range [R356, file 10] -/
  asid : Nat := 0
  /-- newest established point g [R358, file 10] -/
  gen : Nat := 0
  /-- newest point whose COMMIT_P was sent: the recovery target [R359, file 10] -/
  target : Nat := 0
  /-- progress of the point in progress [R358, file 10] -/
  phase : GuardPhase := .idle
  /-- shadows: key generation * 2^36 + guarded page number [R357, file 10] -/
  shadows : SMap (List (BitVec 8)) := []
  /-- packages whose ARRIVE the coordinator holds [R358, file 10] -/
  arrived : List Nat := []
  /-- packages of the group or domain declared lost [R360, file 10] -/
  lostIds : List Nat := []
  /-- rounds of silence counted per group member, 10 ms each [R360, file 10] -/
  heard : SMap Nat := []
  /-- HALT is in force [R361, file 10] -/
  halted : Bool := false
  /-- a parity page set is being recomputed [R362, file 10] -/
  recompute : Bool := false
  /-- guarded pages rebuilt so far [R361, file 10] -/
  restored : Nat := 0
  /-- parity whose phase the loss interrupted, to be recomputed after RESUME: 1 P, 2 Q, 0 none [R362, file 10] -/
  again : Nat := 0
  /-- a parity of the domain is being recomputed [R366, file 10] -/
  redoing : Bool := false
  /-- a loss in the group has found no spare [R366, file 10] -/
  unspared : Bool := false
  /-- rounds of 10 ms since the last HEARTBEAT of each group member [R360, file 10] -/
  beats : SMap Nat := []
  /-- the group has no spare [R366, file 10] -/
  noSpare : Bool := false
  /-- guarded queues of this package that have reached their POINT [R390, file 11] -/
  arrivedQueues : List Nat := []
  /-- a GUARD ADOPT rebuild is in progress on this package [R361, file 10] -/
  adopted : Bool := false
  /-- a SETUP is in progress, so that phases P and Q carry whole pages [R356, file 10] -/
  setup : Bool := false
  /-- CM_MEMBERS of GR_DOMAIN_COMM [R350, file 10] -/
  domainMembers : List Nat := []
  /-- role plus one of each package whose ARRIVE came, key package ID [R358, file 10] -/
  roles : SMap Nat := []
  /-- packages that reported the end of the phase or rebuild in progress [R358, file 10] -/
  finished : List Nat := []
  /-- parent toward P in tree 0 of GR_GROUP_COMM; none when flat [R355, file 10] -/
  treeP : Option Nat := none
  /-- parent toward Q in tree 1 of GR_GROUP_COMM; none when flat [R355, file 10] -/
  treeQ : Option Nat := none
  /-- data packages whose delta or rebuild stream has ended at this package [R358, file 10] -/
  ended : List Nat := []
  /-- contents combined so far for the pages being rebuilt or recomputed here, key guarded page [R361, file 10] -/
  rebuild : SMap (List (BitVec 8)) := []
  /-- role whose pages are rebuilt here, plus one; 0: none [R359, file 10] -/
  rebuildFor : Nat := 0
  /-- the rebuild in progress uses parity Q [R359, file 10] -/
  useQ : Bool := false
  /-- ticks at which the loss was declared [R361, file 10] -/
  lostAt : BitVec 64 := 0
deriving DecidableEq, Repr

/-- The fabric side of the package (chapter 10). -/
structure Fab where
  /-- optical engines OE0 to OE3 [R323, file 10] -/
  engines : SMap Engine := []
  /-- straits S0 to S15 [R323, file 10] -/
  straits : SMap Strait := []
  /-- FAB_ID_REQ as last stored [R334, file 10] -/
  idReq : BitVec 12 := 0
  /-- FAB_EN as last stored [R334, file 10] -/
  enReq : Bool := false
  /-- FAB_ID_APPLIED [R334, file 10] -/
  idApplied : BitVec 12 := 0
  /-- FAB_JOINED [R334, file 10] -/
  joined : Bool := false
  /-- FAB_ADOPTED [R334, file 10] -/
  adopted : Bool := false
  /-- FAB_REJECT [R334, file 10] -/
  reject : Bool := false
  /-- ID whose claim waits out its 10 ms [R335, file 10] -/
  claim : Option (BitVec 12) := none
  /-- route table, key destination ID [R336, file 10] -/
  routes : SMap Route := []
  /-- link-state received: per package, its straits and their peers [R336, file 10] -/
  linkState : SMap (List (Nat × Nat)) := []
  /-- IDs for which a release mark is held [R364, file 10] -/
  marks : List Nat := []
  /-- flows, key (peer ID * 4 + traffic class) [R345, file 10] -/
  flows : SMap Flow := []
  /-- ranges exported to other packages [R348, file 10] -/
  exports : List Export := []
  /-- requests awaiting an answer [R342, file 10] -/
  reqs : List FReq := []
  /-- next requester tag [R344, file 10] -/
  nextTag : Nat := 0
  /-- FAB_HOP_DROP [R337, file 10] -/
  hopDrop : Nat := 0
  /-- FAB_REPEAT [R345, file 10] -/
  repeats : Nat := 0
  /-- FAB_GAP [R345, file 10] -/
  gaps : Nat := 0
  /-- FAB_RETX [R345, file 10] -/
  retx : Nat := 0
  /-- the switch forwards through-traffic [R341, file 10] -/
  forwarding : Bool := false
  /-- messages assembled from body units and not yet handled [R329, file 10] -/
  inbox : List FMsg := []
  /-- strait and last ticks of each flow's flowlet, key (source * 4096 + destination) * 4 + traffic class; strait plus one, 0 with none [R338, file 10] -/
  flowlets : SMap (Nat × BitVec 64) := []
  /-- packages whose latest link state named no ID [R363, file 10] -/
  noId : List Nat := []
  /-- collectives open in this package [R354, file 10] -/
  colls : List Coll := []
  /-- contributions that arrived before their member's COLLECTIVE [R354, file 10] -/
  early : List FMsg := []
  /-- guard group and domain [R355, file 10] -/
  guard : Guard := {}
deriving DecidableEq, Repr

/-- A completion entry (Table 11.21). -/
structure CqEntry where
  /-- CQ_STATUS [R392, file 11] -/
  status : BitVec 8 := 0
  /-- CQ_OPC [R392, file 11] -/
  opc : BitVec 4 := 0
  /-- CQ_RECOV [R392, file 11] -/
  recov : Nat := 0
  /-- CQ_TAG [R392, file 11] -/
  tag : BitVec 16 := 0
  /-- CQ_INDEX [R392, file 11] -/
  index : BitVec 32 := 0
  /-- CQ_RESULT [R392, file 11] -/
  result : BitVec 64 := 0
  /-- Q_IRQ of the descriptor [R394, file 11] -/
  irq : Bool := false
  /-- Q_QUIET of the descriptor [R388, file 11] -/
  quiet : Bool := false
  /-- CQ_RETIRE [R392, file 11] -/
  retire : BitVec 32 := 0
  /-- CQ_TICKS [R392, file 11] -/
  ticks : BitVec 64 := 0
deriving DecidableEq, Repr

/-- How a fetched descriptor stands. -/
inductive DescPhase where
  /-- not started -/
  | fetched
  /-- in progress -/
  | running
  /-- ended, its completion entry not yet made -/
  | finished (status : BitVec 8) (result : BitVec 64)
deriving DecidableEq, Repr

/-- The progress of a LAUNCH (R132). -/
structure Launch where
  /-- index of the next task to dispatch [R132, file 04] -/
  next : Nat := 0
  /-- tasks that have ended [R135, file 04] -/
  ended : Nat := 0
  /-- tasks dispatched and not ended [R132, file 04] -/
  running : Nat := 0
  /-- status selected so far (R16) [R135, file 04] -/
  status : BitVec 8 := 0
  /-- no further task is dispatched [R144, file 04] -/
  stopped : Bool := false
  /-- the in-place ranges have been checked [R418, file 12] -/
  checked : Bool := false
  /-- its checks have passed and its range list has been read [R391, file 11] -/
  loaded : Bool := false
  /-- in-place ranges [R418, file 12] -/
  ranges : List Range := []
  /-- task indices waiting for redispatch [R426, file 12] -/
  redo : List Nat := []
  /-- runs again to restore lost data [R432, file 12] -/
  recompute : Bool := false
  /-- nesting depth of a recomputation [R432, file 12] -/
  depth : Nat := 0
  /-- energy attributed to its tasks, uJ [R410, file 11] -/
  energy : BitVec 64 := 0
  /-- recoveries of each task, by task index [R427, file 12] -/
  replays : SMap Nat := []
  /-- frame whose lost data a recomputation restores, as address div 2^21 [R432, file 12] -/
  frame : Nat := 0
  /-- lost codewords of the frame when the recomputation began [R432, file 12] -/
  lostN : Nat := 0
  /-- task indices that the recomputation has still to dispatch [R432, file 12] -/
  again : List Nat := []
  /-- tasks of the recomputation that run [R432, file 12] -/
  rerunning : Nat := 0
  /-- tasks in redo wait for lost data to be restored [R430, file 12] -/
  waitLost : Bool := false
deriving DecidableEq, Repr

/-- The saved state of a CHECK (R408). -/
structure ChkSave where
  /-- running value [R408, file 11] -/
  value : BitVec 64 := 0
  /-- bytes fed [R408, file 11] -/
  offset : Nat := 0
  /-- a block is open [R408, file 11] -/
  blockOpen : Bool := false
  /-- the descriptor holds a check-value unit [R402, file 11] -/
  onUnit : Bool := false
deriving DecidableEq, Repr

/-- A fetched descriptor of a queue (R381). -/
structure Desc where
  /-- descriptor index [R381, file 11] -/
  index : BitVec 32 := 0
  /-- the descriptor's 64 bytes [R388, file 11] -/
  bits : BitVec 512 := 0
  /-- how it stands [R395, file 11] -/
  phase : DescPhase := .fetched
  /-- recoveries during the descriptor [R392, file 11] -/
  recov : Nat := 0
  /-- pieces that a COPY or FILL has moved [R403, file 11] -/
  progress : Nat := 0
  /-- progress of a LAUNCH [R132, file 04] -/
  launch : Launch := {}
  /-- progress of a CHECK [R408, file 11] -/
  check : ChkSave := {}
  /-- waits for lost data to be restored [R430, file 12] -/
  lostWait : Bool := false
deriving DecidableEq, Repr

/-- Queue set-up in force, read at the enable (R379, R380). -/
structure QSet where
  /-- QUE_RING_BASE in force [R379, file 11] -/
  ringBase : Nat := 0
  /-- QUE_CQ_BASE in force [R379, file 11] -/
  cqBase : Nat := 0
  /-- QUE_DB in force [R379, file 11] -/
  db : Nat := 0
  /-- QUE_RING_LOG2 in force [R379, file 11] -/
  ringLog2 : Nat := 0
  /-- QUE_CQ_LOG2 in force [R379, file 11] -/
  cqLog2 : Nat := 0
  /-- QUE_PRIO in force [R379, file 11] -/
  prio : Prio := .normal
  /-- QUE_PART in force [R379, file 11] -/
  part : Nat := 0
  /-- QUE_LENIENT in force [R379, file 11] -/
  lenient : Bool := false
  /-- QUE_STANDBY in force [R379, file 11] -/
  standby : Bool := false
  /-- QUE_ASID in force [R379, file 11] -/
  asid : Nat := 0
  /-- QUE_PASID_EN in force [R379, file 11] -/
  pasidEn : Bool := false
  /-- QUE_PASID in force [R379, file 11] -/
  pasid : Nat := 0
  /-- QUE_VEC in force [R379, file 11] -/
  vec : Nat := 0
  /-- QUE_WD_MS in force [R379, file 11] -/
  wdMs : Nat := 0
  /-- QUE_POLL_MIN in force [R379, file 11] -/
  pollMin : Nat := 0
  /-- QUE_POLL_MAX in force [R379, file 11] -/
  pollMax : Nat := 0
  /-- QUE_POLL_IDLE in force [R379, file 11] -/
  pollIdle : Nat := 0
  /-- epoch in force [R380, file 11] -/
  epoch : BitVec 16 := 0
deriving DecidableEq, Repr

/-- One queue of a function (R379). -/
structure Queue where
  /-- QUE_RING_BASE [R379, file 11] -/
  rRing : BitVec 64 := 0
  /-- QUE_CQ_BASE [R379, file 11] -/
  rCq : BitVec 64 := 0
  /-- QUE_DB [R379, file 11] -/
  rDb : BitVec 64 := 0
  /-- QUE_CFG (QUE_PRIO resets to 2) [R379, file 11] -/
  rCfg : BitVec 64 := 0x20000
  /-- QUE_TIMING (Table 11.8's reset values) [R379, file 11] -/
  rTiming : BitVec 64 := 0x3E801F400052710
  /-- QUE_CTRL as last stored [R379, file 11] -/
  rCtrl : BitVec 64 := 0
  /-- set-up in force [R380, file 11] -/
  set : QSet := {}
  /-- the queue is enabled, active or in error [R380, file 11] -/
  enabled : Bool := false
  /-- QUE_ACTIVE [R379, file 11] -/
  active : Bool := false
  /-- QUE_BUSY [R379, file 11] -/
  busy : Bool := false
  /-- QUE_GUARDED [R379, file 11] -/
  guarded : Bool := false
  /-- QUE_HALTED [R379, file 11] -/
  halted : Bool := false
  /-- QUE_ERR [R379, file 11] -/
  err : BitVec 8 := 0
  /-- QUE_CQ_DROPPED [R379, file 11] -/
  dropped : BitVec 16 := 0
  /-- a disable waits for room in the completion ring [R384, file 11] -/
  disabling : Bool := false
  /-- QUE_FETCH [R379, file 11] -/
  fetch : BitVec 32 := 0
  /-- QUE_RETIRE [R379, file 11] -/
  retire : BitVec 32 := 0
  /-- QUE_ENERGY [R379, file 11] -/
  energy : BitVec 64 := 0
  /-- sub-uJ remainder of QUE_ENERGY, in 1/1,000,000 uJ [R409, file 11] -/
  energyFrac : Nat := 0
  /-- QUE_DONE [R379, file 11] -/
  done : BitVec 64 := 0
  /-- DB_PROD last read [R382, file 11] -/
  prod : BitVec 32 := 0
  /-- DB_CQ_HEAD last read [R382, file 11] -/
  cqHead : BitVec 32 := 0
  /-- completion entries written since the enable [R392, file 11] -/
  cqTail : BitVec 32 := 0
  /-- fetched descriptors whose completion has not been made, in index order [R381, file 11] -/
  descs : List Desc := []
  /-- completion entries waiting for room [R393, file 11] -/
  waiting : List CqEntry := []
  /-- indices at or above QUE_RETIRE already completed [R379, file 11] -/
  doneIdx : List (BitVec 32) := []
  /-- poll interval in force, 0.1 us [R387, file 11] -/
  poll : Nat := 0
  /-- ticks at which a new descriptor was last found [R387, file 11] -/
  newAt : BitVec 64 := 0
  /-- the doorbell line is held Shared in the CXL device cache [R371, file 11] -/
  dbShared : Bool := false
  /-- resume marks: (point generation, ring index) [R358, file 10] -/
  marks : List (Nat × BitVec 32) := []
  /-- descriptors below this index ran before a loss [R365, file 10] -/
  replayTo : Option (BitVec 32) := none
  /-- descriptors complete with DONE_RECOVERED until the next GUARD POINT [R365, file 10] -/
  respan : Bool := false
  /-- completed descriptors that producer records name, kept for recomputation [R431, file 12] -/
  past : List Desc := []
  /-- indices above the resume mark that wrote a completion before the loss [R365, file 10] -/
  written : List (BitVec 32) := []
deriving DecidableEq, Repr

/-- A read shadow or write staging word with its tag (R538, R539). -/
structure Shadow where
  /-- register offset; none while clear [R538, file 15] -/
  tag : Option Nat := none
  /-- the word held [R538, file 15] -/
  word : BitVec 32 := 0
deriving DecidableEq, Repr

/-- Interrupt moderation state of a vector (R394). -/
structure IrqSt where
  /-- IRQ_MODv [R394, file 11] -/
  mod : BitVec 64 := 1
  /-- entries counted since the last interrupt [R394, file 11] -/
  counted : Nat := 0
  /-- MSI-X mask bit of the vector's table entry [R394, file 11] -/
  masked : Bool := true
  /-- MSI-X pending bit [R394, file 11] -/
  pend : Bool := false
  /-- MSI-X table entry: message address [R376, file 11] -/
  addr : BitVec 64 := 0
  /-- MSI-X table entry: message data [R376, file 11] -/
  data : BitVec 32 := 0
  /-- messages sent, as the host sees them [R394, file 11] -/
  sent : Nat := 0
deriving DecidableEq, Repr

/-- A telemetry set-up (Table 15.8). -/
structure TelCfg where
  /-- TEL_SLOTS_MINUS1 [R551, file 15] -/
  slotsM1 : Nat := 0
  /-- TEL_SLOT_SIZE [R551, file 15] -/
  slotSize : Nat := 0
  /-- TEL_PERIOD [R551, file 15] -/
  period : Nat := 1
  /-- TEL_MASK [R551, file 15] -/
  mask : BitVec 10 := 1
  /-- TEL_EN [R551, file 15] -/
  en : Bool := false
  /-- TEL_PASID_EN [R551, file 15] -/
  pasidEn : Bool := false
  /-- TEL_PASID [R551, file 15] -/
  pasid : Nat := 0
  /-- TEL_BASE as the D1 took it [R551, file 15] -/
  base : Nat := 0
deriving DecidableEq, Repr

/-- One function of a host port (R375). -/
structure Func where
  /-- FN_QUEUES [R548, file 15] -/
  fnQueues : Nat := 0
  /-- FN_URGENT [R548, file 15] -/
  fnUrgent : Bool := false
  /-- FN_PARTS [R548, file 15] -/
  fnParts : BitVec 8 := 0
  /-- FN_VEC_BASE [R548, file 15] -/
  fnVecBase : Nat := 0
  /-- FN_VEC_COUNT [R548, file 15] -/
  fnVecCount : Nat := 0
  /-- FN_REJECT [R548, file 15] -/
  fnReject : Bool := false
  /-- FN_ASID0 to FN_ASID3 [R548, file 15] -/
  fnAsids : BitVec 256 := 0
  /-- FN_BAR2_ASID [R548, file 15] -/
  bar2Asid : Nat := 0
  /-- FN_BAR2_EN [R548, file 15] -/
  bar2En : Bool := false
  /-- FN_BAR2_BASE as the window base B [R548, file 15] -/
  bar2Base : Nat := 0
  /-- size of BAR2 as resized, log2 of bytes [R369, file 11] -/
  bar2Log2 : Nat := 30
  /-- PASID is enabled in the function's capability [R380, file 11] -/
  pasidCap : Bool := false
  /-- ID_SCRATCH0 to ID_SCRATCH7 [R546, file 15] -/
  scratch : SMap (BitVec 64) := []
  /-- ID_QUE_HOLD [R547, file 15] -/
  queHold : BitVec 64 := 0
  /-- ID_ERR_SIZE of the accesses through each port [R546, file 15] -/
  errSize : SMap (BitVec 16) := []
  /-- ID_ERR_STAGE per port [R546, file 15] -/
  errStage : SMap (BitVec 16) := []
  /-- ID_ERR_BUSY per port [R546, file 15] -/
  errBusy : SMap (BitVec 16) := []
  /-- read shadow per port [R538, file 15] -/
  shadow : SMap Shadow := []
  /-- write staging word per port [R539, file 15] -/
  staging : SMap Shadow := []
  /-- moderation and MSI-X state of each vector [R394, file 11] -/
  irq : SMap IrqSt := []
  /-- TEL_BASE [R551, file 15] -/
  telBase : BitVec 64 := 0
  /-- TEL_CFG as last stored [R551, file 15] -/
  telStored : TelCfg := {}
  /-- a TEL_CFG write waits for the next almanac round [R551, file 15] -/
  telPending : Bool := false
  /-- telemetry set-up in force [R551, file 15] -/
  tel : TelCfg := {}
  /-- TEL_BUSY [R551, file 15] -/
  telBusy : Bool := false
  /-- TEL_REJECT [R551, file 15] -/
  telReject : Bool := false
  /-- TEL_ERR [R551, file 15] -/
  telErr : Bool := false
  /-- TEL_RECORDS [R551, file 15] -/
  telRecords : BitVec 32 := 0
  /-- almanac rounds of the telemetry period so far [R412, file 11] -/
  telRounds : Nat := 0
deriving DecidableEq, Repr

/-- One host port (R369). -/
structure Port where
  /-- ID_Pn_UP [R546, file 15] -/
  up : Bool := false
  /-- ID_Pn_CXL [R546, file 15] -/
  cxl : Bool := false
  /-- the host trains the port as CXL with the 256-byte flit [R370, file 11] -/
  cxlHost : Bool := false
  /-- Pn_PERST_N [R500, file 14] -/
  perstN : Bool := false
  /-- Pn_WAKE_N is driven low [R564, file 16] -/
  wakeLow : Bool := false
  /-- virtual functions set through SR-IOV [R375, file 11] -/
  numVfs : Nat := 0
  /-- device power state D3hot [R369, file 11] -/
  d3 : Bool := false
  /-- cached translations: (function, page) [R369, file 11] -/
  ats : List (Nat × Nat) := []
  /-- data of the last read completion or DOE answer that the port sent; none: Completer Abort or none yet [R536, file 15] -/
  answer : Option (List (BitVec 8)) := none
  /-- PKB_BUSY of the port's physical function [R552, file 15] -/
  pkbBusy : Bool := false
  /-- EVL_BASE [R550, file 15] -/
  evlBase : BitVec 64 := 0
  /-- EVL_LOG2, EVL_VEC, EVL_PASID_EN, EVL_PASID and EVL_EN [R550, file 15] -/
  evlCfg : BitVec 64 := 0
  /-- EVL_HEAD [R550, file 15] -/
  evlHead : BitVec 64 := 0
  /-- ring base in force [R550, file 15] -/
  evlSetBase : Nat := 0
  /-- ring size in force [R550, file 15] -/
  evlSetLog2 : Nat := 0
  /-- vector in force [R550, file 15] -/
  evlSetVec : Nat := 0
  /-- address of the consumed-count word in force [R550, file 15] -/
  evlSetHead : Nat := 0
  /-- PASID space of the ring accesses in force: 0 none, else EVL_PASID plus one [R550, file 15] -/
  evlSpace : Nat := 0
  /-- consumed count as last read [R411, file 11] -/
  evlRead : BitVec 32 := 0
  /-- EVL_WRITTEN [R550, file 15] -/
  evlWritten : BitVec 32 := 0
  /-- buffered records with their EVL_SEQ; EVL_BUFFERED is their number [R411, file 11] -/
  evlBuf : List (Nat × EvRec) := []
  /-- EVL_ERR [R550, file 15] -/
  evlErr : Bool := false
  /-- records dropped since the previous entry [R411, file 11] -/
  evlLost : Nat := 0
deriving DecidableEq, Repr

/-- One journal entry (Table 12.6). -/
structure Journal where
  /-- JR_SEQ [R448, file 12] -/
  seq : Nat := 0
  /-- JR_TXN [R448, file 12] -/
  txn : Nat := 0
  /-- JR_PART [R448, file 12] -/
  part : Nat := 0
  /-- JR_PARTS [R448, file 12] -/
  parts : Nat := 0
  /-- JR_KIND [R448, file 12] -/
  kind : Nat := 0
  /-- JR_BODY [R448, file 12] -/
  body : List (BitVec 8) := []
  /-- JR_CRC reads correctly [R450, file 12] -/
  crcOk : Bool := true
  /-- JR_COMMIT programmed [R448, file 12] -/
  commit : Bool := false
  /-- JR_FUSED programmed [R448, file 12] -/
  fused : Bool := false
  /-- JR_VOID programmed [R448, file 12] -/
  void : Bool := false
deriving DecidableEq, Repr

/-- The fuse array (R451, R495, R518, R519). -/
structure Fuses where
  /-- ID_GRADE [R546, file 15] -/
  grade : Nat := 0
  /-- ID_STEPPING [R546, file 15] -/
  stepping : Nat := 0
  /-- hashes of the four signing-key slots [R518, file 14] -/
  keyHash : SMap (BitVec 256) := []
  /-- revocation fuses [R518, file 14] -/
  revoked : BitVec 4 := 0
  /-- anti-rollback counters, key component kind [R519, file 14] -/
  svn : SMap Nat := []
  /-- repair records used [R451, file 12] -/
  repairs : Nat := 0
  /-- FUSES_FULL has been written [R451, file 12] -/
  fullWritten : Bool := false
  /-- trip counter [R495, file 13] -/
  trips : Nat := 0
  /-- cause of the last trip [R495, file 13] -/
  lastTrip : Nat := 0
  /-- device secret, set at manufacture [R528, file 14] -/
  deviceSecret : BitVec 256 := 0
deriving DecidableEq, Repr

/-- One component entry of the image header (Table 14.10). -/
structure Comp where
  /-- CMP_KIND [R517, file 14] -/
  kind : Nat := 0
  /-- CMP_SVN [R517, file 14] -/
  svn : Nat := 0
  /-- CMP_OFFSET [R517, file 14] -/
  offset : Nat := 0
  /-- CMP_LENGTH [R517, file 14] -/
  len : Nat := 0
  /-- CMP_HASH [R517, file 14] -/
  hash : BitVec 256 := 0
deriving DecidableEq, Repr

/-- The serial flash (Table 14.8). -/
structure Flash where
  /-- image slot; erased bytes list nothing [R515, file 14] -/
  image : SMap (Option (BitVec 8)) := []
  /-- repair journal, active area, oldest first [R448, file 12] -/
  journal : List Journal := []
  /-- next JR_SEQ [R448, file 12] -/
  journalSeq : Nat := 0
  /-- next JR_TXN [R448, file 12] -/
  journalTxn : Nat := 0
  /-- area B is the active area [R452, file 12] -/
  areaB : Bool := false
  /-- sequence number of the newer copy of the saved settings; 0: no valid copy [R514, file 14] -/
  settingsSeq : Nat := 0
  /-- IMG_VERSION recorded with the settings [R511, file 14] -/
  settingsVer : Nat := 0
  /-- last JR_SEQ of the saved repair map, plus one; 0 with none [R511, file 14] -/
  settingsJr : Nat := 0
  /-- saved equaliser and timing values: key (link * 64 + lane group) * 16 + temperature bin [R514, file 14] -/
  settings : SMap Nat := []
  /-- TICKS-counted uptime since the last full start [R511, file 14] -/
  uptime : Nat := 0
  /-- saved thermal-cycle counts [R498, file 13] -/
  cycSaved : SMap Nat := []
  /-- start number [R530, file 14] -/
  startNum : Nat := 0
  /-- the previous start ended in a trip [R511, file 14] -/
  lastStartTrip : Bool := false
  /-- a full start was requested for the next start [R511, file 14] -/
  fullNext : Bool := false
  /-- flash event log, oldest first [R516, file 14] -/
  log : List EvRec := []
  /-- identity certificate, written at manufacture [R515, file 14] -/
  identity : List (BitVec 8) := []
  /-- writes outside a party's window, discarded and counted [R515, file 14] -/
  discarded : Nat := 0
  /-- retired pages of the repair map, as address div 65,536 [R448, file 12] -/
  retiredPages : List Nat := []
deriving DecidableEq, Repr

/-- Start-up state, Table 14.5b. -/
inductive StartState where
  /-- 0x0 RESET -/
  | reset
  /-- 0x1 ROM -/
  | rom
  /-- 0x2 VERIFY -/
  | verify
  /-- 0x3 MAINLAND -/
  | mainland
  /-- 0x4 LINKS -/
  | links
  /-- 0x5 CLUSTERS -/
  | clusters
  /-- 0x6 MEMTEST -/
  | memtest
  /-- 0x7 LINKCHECK -/
  | linkcheck
  /-- 0x8 READY -/
  | ready
  /-- 0x9 RECOVERY -/
  | recovery
  /-- 0xA TRIPPED -/
  | tripped
  /-- 0xB HALTED -/
  | halted
deriving DecidableEq, Repr

/-- A firmware update in progress (R521). -/
structure Update where
  /-- a transfer is in progress [R521, file 14] -/
  active : Bool := false
  /-- the header passed steps 1 to 4 of R518 [R521, file 14] -/
  checked : Bool := false
  /-- the slot has been erased and VerifyComplete has not succeeded since [R522, file 14] -/
  erased : Bool := false
  /-- data received before the header check [R521, file 14] -/
  buf : SMap (BitVec 8) := []
  /-- bytes received [R535, file 14] -/
  received : Nat := 0
  /-- VerifyComplete succeeded [R522, file 14] -/
  verified : Bool := false
deriving DecidableEq, Repr

/-- Start-up, trust and sideband state (chapter 14). -/
structure Boot where
  /-- ID_START [R507, file 14] -/
  state : StartState := .reset
  /-- level of PWROK_AON [R461, file 13] -/
  pwrokAon : Bool := false
  /-- level of PWROK_MAIN [R461, file 13] -/
  pwrokMain : Bool := false
  /-- level of PKG_RST_N [R502, file 14] -/
  pkgRstN : Bool := false
  /-- REF25 runs [R465, file 13] -/
  ref25 : Bool := true
  /-- level of STRAP_HOSTMODE [R372, file 11] -/
  strap : BitVec 2 := 0
  /-- ID_HOSTMODE: the strap as sampled [R546, file 15] -/
  hostMode : BitVec 2 := 0
  /-- ID_FULL_START [R546, file 15] -/
  fullStart : Bool := false
  /-- ID_DEBUG [R546, file 15] -/
  debug : Bool := false
  /-- ticks at the reference of the start [R509, file 14] -/
  startRef : Nat := 0
  /-- reset that led to this start, Table 14.15: 0 cold, 1 package [R535, file 14] -/
  lastReset : Nat := 0
  /-- cause of a package reset, Table 14.15 [R535, file 14] -/
  lastCause : Nat := 0
  /-- fuse array [R451, file 12] -/
  fuses : Fuses := {}
  /-- serial flash [R515, file 14] -/
  flash : Flash := {}
  /-- cause of the trip state in force; 0: none [R493, file 13] -/
  tripLayer : Nat := 0
  /-- sensor whose comparator fired [R499, file 13] -/
  tripSensor : Nat := 0
  /-- EV_LOC of the sensor whose comparator fired [R499, file 13] -/
  tripUnit : BitVec 32 := 0
  /-- skerry holds start-up until the sensor has cooled or REF25 is present [R496, file 13] -/
  coolHold : Bool := false
  /-- mainland runs [R527, file 14] -/
  mainland : Bool := false
  /-- ID_FW_VERSION: IMG_VERSION of the running image [R546, file 15] -/
  imgVersion : BitVec 64 := 0
  /-- IMG_KEY_SLOT of the running image [R517, file 14] -/
  imgKeySlot : Nat := 0
  /-- components of the running image [R518, file 14] -/
  comps : List Comp := []
  /-- measurements M0 to M7; 0 for what was not loaded [R529, file 14] -/
  meas : SMap (BitVec 256) := []
  /-- the alias key is derived and certified [R528, file 14] -/
  aliasReady : Bool := false
  /-- seeds of the identity key pair, derived in this start [R528, file 14] -/
  identityKey : List (BitVec 8) := []
  /-- seeds of the alias key pair, derived in this start [R528, file 14] -/
  aliasKey : List (BitVec 8) := []
  /-- alias certificate, signed by the identity key in this start [R528, file 14] -/
  aliasCert : List (BitVec 8) := []
  /-- the ROM has locked the device secret [R525, file 14] -/
  secretLocked : Bool := false
  /-- a quote is in progress [R531, file 14] -/
  quoteBusy : Bool := false
  /-- host port whose GET_QUOTE the quote in progress answers [R531, file 14] -/
  quotePort : Option Nat := none
  /-- nonce of the quote in progress [R530, file 14] -/
  quoteNonce : BitVec 256 := 0
  /-- last attestation response [R530, file 14] -/
  quoteOut : List (BitVec 8) := []
  /-- BC_GEN of the last broadcast [R523, file 14] -/
  bcGen : Nat := 0
  /-- slots whose stores were not full after the broadcast [R524, file 14] -/
  bcMissing : List Nat := []
  /-- runtime repair rounds run [R524, file 14] -/
  repairRounds : Nat := 0
  /-- firmware update [R521, file 14] -/
  update : Update := {}
  /-- MCTP endpoint ID assigned by the bus owner [R533, file 14] -/
  mctpEid : Nat := 0
  /-- ALERT_N is driven low [R533, file 14] -/
  alertLow : Bool := false
  /-- FAULT_N is driven low [R497, file 13] -/
  faultLow : Bool := false
  /-- THERM_N is driven low [R497, file 13] -/
  thermLow : Bool := false
  /-- records the BMC has not read through the event-receiver path [R533, file 14] -/
  pldmQueue : List EvRec := []
  /-- last PLDM reading returned [R534, file 14] -/
  pldmOut : Int := 0
  /-- command code of the last request in each mailbox slot [R526, file 14] -/
  mbox : SMap Nat := []
  /-- answer status of each mailbox slot [R526, file 14] -/
  mboxStatus : SMap Nat := []
  /-- ticks of the last save of the link settings since the start [R514, file 14] -/
  savedAt : Option Nat := none
  /-- ticks of the last hourly save of the thermal-cycle counts since the start [R498, file 13] -/
  cycSavedAt : Option Nat := none
  /-- uptime since the last full start that earlier starts have counted [R511, file 14] -/
  upBase : Nat := 0
  /-- last piece of the flash event log that the PLDM file service returned [R516, file 14] -/
  fileOut : List (BitVec 8) := []
  /-- answer of the last firmware-update command: 0 done; 1 verification failed; 2 activation needs a reset [R521, file 14] -/
  fwAnswer : Nat := 0
  /-- record that the BMC read last through the event-receiver path [R533, file 14] -/
  pldmEvent : Option EvRec := none
  /-- loss of PWROK that the next start reports: 0 main, 1 always-on [R499, file 13] -/
  pwrokLost : Option Nat := none
  /-- VIN sag events of the round [R475, file 13] -/
  vinSags : Nat := 0
  /-- longest VIN sag of the round, ns [R499, file 13] -/
  vinSagLong : Nat := 0
deriving DecidableEq, Repr

/-- Source of a power-cap request, Table 13.14. -/
inductive CapSrc where
  /-- physical function of P0 -/
  | p0
  /-- physical function of P1 -/
  | p1
  /-- PLDM effecter -/
  | sideband
deriving DecidableEq, Repr

/-- The power controller (chapter 13). -/
structure Power where
  /-- PWR_CAP_W as last stored [R478, file 13] -/
  capStored : Nat := 1800
  /-- PWR_FMAX as last stored [R478, file 13] -/
  fmaxStored : Nat := 18
  /-- PWR_CAP_REJECT [R478, file 13] -/
  capReject : Bool := false
  /-- latest valid request waiting for the next round [R478, file 13] -/
  capPending : Option (Nat × Nat × CapSrc) := none
  /-- PWR_CAP_APPLIED [R478, file 13] -/
  cap : Nat := 1800
  /-- PWR_FMAX_APPLIED [R478, file 13] -/
  fmax : Nat := 18
  /-- PWR_IDLE_CFG as last stored [R472, file 13] -/
  idleStored : BitVec 32 := 0x03E80A0A
  /-- PWR_IDLE_CFG in force [R472, file 13] -/
  idle : BitVec 32 := 0x03E80A0A
  /-- cap ceiling f [R479, file 13] -/
  capCeil : Nat := 18
  /-- quiet of R479 [R479, file 13] -/
  quiet : Nat := 0
  /-- consecutive rounds with p above c [R480, file 13] -/
  overRounds : Nat := 0
  /-- power bandwidth cap, 0.1 % of non-STATIC slots; 1000 when none [R480, file 13] -/
  bwCap : Nat := 1000
  /-- the bandwidth lever is in use [R480, file 13] -/
  bwUsed : Bool := false
  /-- clusters under a power stop, latest first [R480, file 13] -/
  stops : List Nat := []
  /-- PWR_LIM_CURRENT [R482, file 13] -/
  limCurrent : Bool := false
  /-- a limiter of R476 has acted in this round [R482, file 13] -/
  limActed : Bool := false
  /-- PWR_NOW_W [R482, file 13] -/
  nowW : Nat := 0
  /-- package power over the last round, mW [R487, file 13] -/
  nowMw : Nat := 0
  /-- PWR_ENERGY_UJ [R482, file 13] -/
  energy : BitVec 64 := 0
  /-- sub-uJ remainder of the package energy [R486, file 13] -/
  energyFrac : Nat := 0
  /-- idle energy, uJ [R409, file 11] -/
  idleEnergy : BitVec 64 := 0
  /-- rail currents of the last round, 0.1 A [R487, file 13] -/
  railI : SMap Nat := []
  /-- hottest hub sensor of the last round, 0.125 C [R487, file 13] -/
  tHub : Int := 0
  /-- stretch by the VIN current limiter, 0, 25 or 50 % [R476, file 13] -/
  limVin : Nat := 0
  /-- stretch by the limiter of the sum of the domains [R476, file 13] -/
  limSum : Nat := 0
  /-- an almanac round has sampled the sensors since the reset [R489, file 13] -/
  sampled : Bool := false
deriving DecidableEq, Repr

/-- A lost 64-byte codeword (R429). -/
structure Lost where
  /-- device physical address of the codeword [R429, file 12] -/
  addr : Nat := 0
  /-- no source applies [R436, file 12] -/
  gone : Bool := false
deriving DecidableEq, Repr

/-- A span of device memory whose contents the spec leaves undefined (R229, R262, R212). -/
structure Undef where
  /-- first device physical address [R262, file 08] -/
  lo : Nat := 0
  /-- bytes [R262, file 08] -/
  len : Nat := 0
  /-- free-value tag (the model's own) [R262, file 08] -/
  tag : Nat := 0
deriving DecidableEq, Repr

/-- Device memory behind the slices (R252). -/
structure Mem where
  /-- bytes by device physical address; an unlisted byte reads as 0 outside the undefined spans [R252, file 08] -/
  cells : List Host.Cell := []
  /-- spans whose contents are undefined [R262, file 08] -/
  undef : List Undef := []
deriving DecidableEq, Repr

/-- The package. -/
structure State where
  /-- commands waiting, first in first out [(model)] -/
  pending : List Instr := []
  /-- counter of free values drawn [(model)] -/
  free : Nat := 0
  /-- TICKS: twilight clock periods since the last cold or package reset [R179, file 05] -/
  ticks : BitVec 64 := 0
  /-- TEL_ROUND [R412, file 11] -/
  rounds : BitVec 64 := 0
  /-- package counter from which undo-log stamps are drawn [R419, file 12] -/
  stamp : Nat := 0
  /-- dispatches made [R397, file 11] -/
  dispatchSeq : Nat := 0
  /-- turns of the hub engines: key 0 the copy engines, 1 the check-value units [R396, file 11] -/
  hubTurns : SMap Turn := []
  /-- gangs dispatched [R129, file 04] -/
  gangSeq : Nat := 0
  /-- numbers given to tile-mover entries [(model)] -/
  workSeq : Nat := 0
  /-- EVL_SEQ of the last record [R411, file 11] -/
  evlSeq : Nat := 0
  /-- start-up, trust and sideband [R507, file 14] -/
  boot : Boot := {}
  /-- power controller [R478, file 13] -/
  power : Power := {}
  /-- physical core slots [R2, file 00] -/
  slots : SMap Slot := []
  /-- logical core numbers [R9, file 00] -/
  lcores : SMap LCore := []
  /-- cores, by logical core [R104, file 04] -/
  cores : SMap Core := []
  /-- clusters, by linear slice number [R23, file 01] -/
  clusters : SMap Cluster := []
  /-- slices, by linear slice number [R216, file 07] -/
  slices : SMap Slice := []
  /-- dense channels, by linear slot number [R252, file 08] -/
  channels : SMap Channel := []
  /-- regions, die * 2 + region [R23, file 01] -/
  regions : SMap Region := []
  /-- dies [R23, file 01] -/
  dies : SMap Die := []
  /-- partitions [R11, file 00] -/
  parts : SMap Part := []
  /-- device memory behind the slices [R252, file 08] -/
  mem : Mem := {}
  /-- code map: 2 MiB frames of class LIGHT, as address div 2^21 [R271, file 08] -/
  light : List Nat := []
  /-- producer records, key frame address div 2^21 [R431, file 12] -/
  producers : SMap Producer := []
  /-- lost codewords [R429, file 12] -/
  lost : List Lost := []
  /-- page table entries: key (asid * 4 + level) * 2^36 + index prefix [R286, file 08] -/
  ptes : SMap (BitVec 64) := []
  /-- address space that held each 64 KiB page last, plus one, key address div 65,536 [R389, file 11] -/
  owners : SMap Nat := []
  /-- the last request at a home slice that the D1 ended: line and status [R260, file 08] -/
  ended : Option (Nat × BitVec 8) := none
  /-- network [R291, file 09] -/
  net : Net := {}
  /-- fabric [R323, file 10] -/
  fab : Fab := {}
  /-- host ports [R369, file 11] -/
  ports : SMap Port := []
  /-- functions, key port * 32 + function [R375, file 11] -/
  funcs : SMap Func := []
  /-- queues, key (port * 32 + function) * 64 + queue [R379, file 11] -/
  queues : SMap Queue := []
  /-- host memory as the D1 and the hosts have written it: key (port * 2^21 + PASID space) * 2^64 + address (one host in multipath mode: port 0) [R378, file 11] -/
  host : SMap (Option (BitVec 8)) := []
deriving DecidableEq, Repr
/-- Why a step can stop with a fault. -/
inductive Fault where
  /-- The command names a unit that the package does not have: a core, slice, cluster, channel, port, function, queue,
  link end, strait, die, region or partition number outside the ranges of chapters 00, 01, 09, 10 and 11. Raised by the
  meaning that takes the number. Safe: the hardware has no such command. -/
  | noSuchUnit
deriving DecidableEq, Repr

/-- Why a command can be refused. Every reason but the first says that the event cannot come about in this state: the
spec's machine does not make it, so nothing is left out. -/
inductive Refusal where
  /-- The arm has no meaning yet. Raised by `exec` alone. Safe. -/
  | notModelled (mnemonic : String)
  /-- No issue set of the group can issue now: no running task, a task that is held, suspended or trapped, a group that
  does not run, or no thread that is neither exited nor waiting (R110, R111, R137, R143). Raised by every core
  instruction. Safe. -/
  | notIssuable
  /-- A register that the instruction reads or writes awaits an earlier result (R155). Raised by core instructions. Safe. -/
  | notReady
  /-- The work, message, timer or condition that the event is about is not there. Raised by every event command. Safe. -/
  | notPending
  /-- The part of the package that would act is held in reset, without power, tripped, or not yet started. Raised by
  commands to mainland, skerry and the host ports. Safe. -/
  | unavailable
deriving DecidableEq, Repr

/-- The package right after a cold reset, before its power rails are good: every field at the reset value that its
declaration gives. -/
def State.reset : State := {}

end Sys2Proof.Machine
end

