-- ==== Sys2Proof/Machine/Ops.lean ====
section
/-! DEFINITION. The named operations on the state: numbered maps, accessors, bytes, free values, the tick counter, the
event records, and the taking of a trap. -/

namespace Sys2Proof.Machine

/-! ### Numbered maps -/

/-- The entry of `m` at `k`; `d` where nothing is listed. -/
def look {α : Type} (d : α) (m : SMap α) (k : Nat) : α :=
  match m with
  | [] => d
  | (j, v) :: r => if j = k then v else look d r k

/-- `m` without any entry at `k`. -/
def drop {α : Type} (m : SMap α) (k : Nat) : SMap α :=
  match m with
  | [] => []
  | (j, v) :: r => if j = k then drop r k else (j, v) :: drop r k

/-- `m` with an entry at `k` placed before the first greater key. -/
def place {α : Type} (m : SMap α) (k : Nat) (v : α) : SMap α :=
  match m with
  | [] => [(k, v)]
  | (j, w) :: r => if k < j then (k, v) :: (j, w) :: r else (j, w) :: place r k v

/-- `m` with `v` at `k`; writing the default unlists the entry. -/
def put {α : Type} [DecidableEq α] (d : α) (m : SMap α) (k : Nat) (v : α) : SMap α :=
  if v = d then drop m k else place (drop m k) k v

/-- The canonical form of a map: keys rising, no entry equal to the default. -/
def SMap.wf {α : Type} [DecidableEq α] (d : α) (m : SMap α) : Bool :=
  match m with
  | [] => true
  | (k, v) :: r => decide (v ≠ d) && r.all (fun p => decide (k < p.1)) && SMap.wf d r

/-- A function applied at each number of a list, in order. -/
def each {α : Type} (ks : List Nat) (f : Nat → α → α) (a : α) : α := ks.foldl (fun a k => f k a) a

/-! ### Bytes, little-endian (R12, file 00) -/

/-- The low `n` bytes of `x`, least significant first. -/
def bytesOf (n x : Nat) : List Byte :=
  match n with
  | 0 => []
  | n + 1 => BitVec.ofNat 8 x :: bytesOf n (x / 256)

/-- The number that little-endian bytes hold. -/
def natOf (bs : List Byte) : Nat :=
  match bs with
  | [] => 0
  | b :: r => b.toNat + 256 * natOf r

/-- `n` bytes of a byte function from `a` on. -/
def bytesAt (f : Nat → Byte) (a n : Nat) : List Byte := (List.range n).map fun i => f (a + i)

/-- A map with bytes written from `a` on. -/
def putBytes (m : SMap Byte) (a : Nat) (bs : List Byte) : SMap Byte :=
  match bs with
  | [] => m
  | b :: r => putBytes (put 0 m a b) (a + 1) r

/-- A set of small numbers as a 64-bit mask. -/
def maskOf (l : List Nat) : Nat := l.foldl (fun m k => m ||| 2 ^ k) 0

/-- The members of a mask below `n`, rising. -/
def maskList (n : Nat) (m : Nat) : List Nat := (List.range n).filter fun k => m.testBit k

/-- Add 1 to a counter of `w` bits, modulo 2^w. -/
def bump (w n : Nat) : Nat := (n + 1) % 2 ^ w

/-! ### Accessors -/

/-- A core slot as a DRD1-512 is shipped: slot 8 of each cluster is its spare (R2, file 00; log 16). -/
def Slot.atReset (k : Nat) : Slot :=
  { status := if k ≥ 576 then .fusedOff else if k % 9 = 8 then .spare else .active }

/-- The first mapping of logical cores: the active slots in rising linear order, each with the channel above it
(R9, file 00; R264, file 08). -/
def LCore.atReset (k : Nat) : LCore :=
  if k < 512 then { slot := some (k / 8 * 9 + k % 8), channel := some (k / 8 * 9 + k % 8) } else {}

/-- The record of a function at reset: a physical function (number 0) is granted everything (Table 15.6, file 15). -/
def Func.atReset (k : Nat) : Func :=
  if k % 32 = 0 then
    { fnQueues := 64, fnUrgent := true, fnParts := 0xFF, fnVecCount := 2048, fnAsids := BitVec.allOnes 256 }
  else {}

/-- Entry `k` of `slots`. -/
def State.slot (s : State) (k : Nat) : Slot := look (Slot.atReset k) s.slots k

/-- `slots` with entry `k` replaced. -/
def State.putSlot (s : State) (k : Nat) (x : Slot) : State := { s with slots := put (Slot.atReset k) s.slots k x }

/-- `slots` with entry `k` changed by `g`. -/
def State.modSlot (s : State) (k : Nat) (g : Slot → Slot) : State := s.putSlot k (g (s.slot k))

/-- Entry `k` of `lcores`. -/
def State.lcore (s : State) (k : Nat) : LCore := look (LCore.atReset k) s.lcores k

/-- `lcores` with entry `k` replaced. -/
def State.putLcore (s : State) (k : Nat) (x : LCore) : State := { s with lcores := put (LCore.atReset k) s.lcores k x }

/-- `lcores` with entry `k` changed by `g`. -/
def State.modLcore (s : State) (k : Nat) (g : LCore → LCore) : State := s.putLcore k (g (s.lcore k))

/-- Entry `k` of `cores`. -/
def State.core (s : State) (k : Nat) : Core := look {} s.cores k

/-- `cores` with entry `k` replaced. -/
def State.putCore (s : State) (k : Nat) (x : Core) : State := { s with cores := put {} s.cores k x }

/-- `cores` with entry `k` changed by `g`. -/
def State.modCore (s : State) (k : Nat) (g : Core → Core) : State := s.putCore k (g (s.core k))

/-- Entry `k` of `clusters`. -/
def State.cluster (s : State) (k : Nat) : Cluster := look {} s.clusters k

/-- `clusters` with entry `k` replaced. -/
def State.putCluster (s : State) (k : Nat) (x : Cluster) : State := { s with clusters := put {} s.clusters k x }

/-- `clusters` with entry `k` changed by `g`. -/
def State.modCluster (s : State) (k : Nat) (g : Cluster → Cluster) : State := s.putCluster k (g (s.cluster k))

/-- Entry `k` of `slices`. -/
def State.slice (s : State) (k : Nat) : Slice := look {} s.slices k

/-- `slices` with entry `k` replaced. -/
def State.putSlice (s : State) (k : Nat) (x : Slice) : State := { s with slices := put {} s.slices k x }

/-- `slices` with entry `k` changed by `g`. -/
def State.modSlice (s : State) (k : Nat) (g : Slice → Slice) : State := s.putSlice k (g (s.slice k))

/-- Entry `k` of `channels`. -/
def State.channel (s : State) (k : Nat) : Channel := look {} s.channels k

/-- `channels` with entry `k` replaced. -/
def State.putChannel (s : State) (k : Nat) (x : Channel) : State := { s with channels := put {} s.channels k x }

/-- `channels` with entry `k` changed by `g`. -/
def State.modChannel (s : State) (k : Nat) (g : Channel → Channel) : State := s.putChannel k (g (s.channel k))

/-- Entry `k` of `regions`. -/
def State.region (s : State) (k : Nat) : Region := look {} s.regions k

/-- `regions` with entry `k` replaced. -/
def State.putRegion (s : State) (k : Nat) (x : Region) : State := { s with regions := put {} s.regions k x }

/-- `regions` with entry `k` changed by `g`. -/
def State.modRegion (s : State) (k : Nat) (g : Region → Region) : State := s.putRegion k (g (s.region k))

/-- Entry `k` of `dies`. -/
def State.die (s : State) (k : Nat) : Die := look {} s.dies k

/-- `dies` with entry `k` replaced. -/
def State.putDie (s : State) (k : Nat) (x : Die) : State := { s with dies := put {} s.dies k x }

/-- `dies` with entry `k` changed by `g`. -/
def State.modDie (s : State) (k : Nat) (g : Die → Die) : State := s.putDie k (g (s.die k))

/-- Entry `k` of `parts`. -/
def State.part (s : State) (k : Nat) : Part := look {} s.parts k

/-- `parts` with entry `k` replaced. -/
def State.putPart (s : State) (k : Nat) (x : Part) : State := { s with parts := put {} s.parts k x }

/-- `parts` with entry `k` changed by `g`. -/
def State.modPart (s : State) (k : Nat) (g : Part → Part) : State := s.putPart k (g (s.part k))

/-- Entry `k` of `ports`. -/
def State.port (s : State) (k : Nat) : Port := look {} s.ports k

/-- `ports` with entry `k` replaced. -/
def State.putPort (s : State) (k : Nat) (x : Port) : State := { s with ports := put {} s.ports k x }

/-- `ports` with entry `k` changed by `g`. -/
def State.modPort (s : State) (k : Nat) (g : Port → Port) : State := s.putPort k (g (s.port k))

/-- Entry `k` of `funcs`. -/
def State.func (s : State) (k : Nat) : Func := look (Func.atReset k) s.funcs k

/-- `funcs` with entry `k` replaced. -/
def State.putFunc (s : State) (k : Nat) (x : Func) : State := { s with funcs := put (Func.atReset k) s.funcs k x }

/-- `funcs` with entry `k` changed by `g`. -/
def State.modFunc (s : State) (k : Nat) (g : Func → Func) : State := s.putFunc k (g (s.func k))

/-- Entry `k` of `queues`. -/
def State.queue (s : State) (k : Nat) : Queue := look {} s.queues k

/-- `queues` with entry `k` replaced. -/
def State.putQueue (s : State) (k : Nat) (x : Queue) : State := { s with queues := put {} s.queues k x }

/-- `queues` with entry `k` changed by `g`. -/
def State.modQueue (s : State) (k : Nat) (g : Queue → Queue) : State := s.putQueue k (g (s.queue k))

/-- Entry `k` of `groups`. -/
def Core.group (c : Core) (k : Nat) : Group := look {} c.groups k

/-- `groups` with entry `k` replaced. -/
def Core.putGroup (c : Core) (k : Nat) (x : Group) : Core := { c with groups := put {} c.groups k x }

/-- `groups` with entry `k` changed by `g`. -/
def Core.modGroup (c : Core) (k : Nat) (g : Group → Group) : Core := c.putGroup k (g (c.group k))

/-- Entry `k` of `arrays`. -/
def Core.arr (c : Core) (k : Nat) : MatArray := look {} c.arrays k

/-- `arrays` with entry `k` replaced. -/
def Core.putArr (c : Core) (k : Nat) (x : MatArray) : Core := { c with arrays := put {} c.arrays k x }

/-- `arrays` with entry `k` changed by `g`. -/
def Core.modArr (c : Core) (k : Nat) (g : MatArray → MatArray) : Core := c.putArr k (g (c.arr k))

/-- Entry `k` of `barriers`. -/
def Core.bar (c : Core) (k : Nat) : NBar := look {} c.barriers k

/-- `barriers` with entry `k` replaced. -/
def Core.putBar (c : Core) (k : Nat) (x : NBar) : Core := { c with barriers := put {} c.barriers k x }

/-- `barriers` with entry `k` changed by `g`. -/
def Core.modBar (c : Core) (k : Nat) (g : NBar → NBar) : Core := c.putBar k (g (c.bar k))

/-- Entry `k` of `links`. -/
def Net.link (n : Net) (k : Nat) : LinkEnd := look {} n.links k

/-- `links` with entry `k` replaced. -/
def Net.putLink (n : Net) (k : Nat) (x : LinkEnd) : Net := { n with links := put {} n.links k x }

/-- `links` with entry `k` changed by `g`. -/
def Net.modLink (n : Net) (k : Nat) (g : LinkEnd → LinkEnd) : Net := n.putLink k (g (n.link k))

/-- Entry `k` of `straits`. -/
def Fab.strait (f : Fab) (k : Nat) : Strait := look {} f.straits k

/-- `straits` with entry `k` replaced. -/
def Fab.putStrait (f : Fab) (k : Nat) (x : Strait) : Fab := { f with straits := put {} f.straits k x }

/-- `straits` with entry `k` changed by `g`. -/
def Fab.modStrait (f : Fab) (k : Nat) (g : Strait → Strait) : Fab := f.putStrait k (g (f.strait k))

/-- Entry `k` of `engines`. -/
def Fab.engine (f : Fab) (k : Nat) : Engine := look {} f.engines k

/-- `engines` with entry `k` replaced. -/
def Fab.putEngine (f : Fab) (k : Nat) (x : Engine) : Fab := { f with engines := put {} f.engines k x }

/-- `engines` with entry `k` changed by `g`. -/
def Fab.modEngine (f : Fab) (k : Nat) (g : Engine → Engine) : Fab := f.putEngine k (g (f.engine k))

/-- Entry `k` of `flows`. -/
def Fab.flow (f : Fab) (k : Nat) : Flow := look {} f.flows k

/-- `flows` with entry `k` replaced. -/
def Fab.putFlow (f : Fab) (k : Nat) (x : Flow) : Fab := { f with flows := put {} f.flows k x }

/-- `flows` with entry `k` changed by `g`. -/
def Fab.modFlow (f : Fab) (k : Nat) (g : Flow → Flow) : Fab := f.putFlow k (g (f.flow k))

/-! ### Logical cores and their places (R2, R9, file 00; R23, file 01) -/

/-- The package has logical core number `l`: below 512, not retired, and mapped to a slot. -/
def State.hasCore (s : State) (l : Nat) : Bool := decide (l < 512) && (s.lcore l).slot.isSome && !(s.lcore l).retired

/-- The physical slot of a logical core; 0 for a number that has none. -/
def State.slotOf (s : State) (l : Nat) : Nat := (s.lcore l).slot.getD 0

/-- The linear slice number of a slot's cluster: nine slots to a cluster (R2, R216). -/
def clusterOfSlot (k : Nat) : Nat := k / 9

/-- The cluster a logical core stands in. -/
def State.clusterOf (s : State) (l : Nat) : Nat := clusterOfSlot (s.slotOf l)

/-- The region (die × 2 + region) of a cluster: eight clusters to a region. -/
def regionOfCluster (c : Nat) : Nat := c / 8

/-- The die of a cluster. -/
def dieOfCluster (c : Nat) : Nat := c / 16

/-- Logical cores that exist, in rising order. -/
def State.logicalCores (s : State) : List Nat := (List.range 512).filter s.hasCore

/-- The die runs as one partition (R11, R555). -/
def State.dieMerged (s : State) (d : Nat) : Bool := (s.die d).dieApplied

/-- The partition of a region: die × 2 + region, or the number of the W region of a merged die (R11, file 00). -/
def State.partOfRegion (s : State) (r : Nat) : Nat := if s.dieMerged (r / 2) then r / 2 * 2 else r

/-- The partition of a cluster. -/
def State.partOfCluster (s : State) (c : Nat) : Nat := s.partOfRegion (regionOfCluster c)

/-- The regions of a partition. -/
def State.regionsOf (s : State) (p : Nat) : List Nat := (List.range 8).filter fun r => s.partOfRegion r == p

/-- The clusters of a partition. -/
def State.clustersOfPart (s : State) (p : Nat) : List Nat := (List.range 64).filter fun c => s.partOfCluster c == p

/-- The logical cores of a partition, rising. -/
def State.coresOfPart (s : State) (p : Nat) : List Nat :=
  s.logicalCores.filter fun l => s.partOfCluster (s.clusterOf l) == p

/-- The logical cores of a cluster, rising. -/
def State.coresOfCluster (s : State) (c : Nat) : List Nat := s.logicalCores.filter fun l => s.clusterOf l == c

/-! ### Free values and the tick counter -/

/-- Draw a free 64-bit value (log 4). -/
def State.draw (s : State) : BitVec 64 × State := (Config.freeWord s.free, { s with free := s.free + 1 })

/-- TICKS moved on by a free number of periods: the model has no clock of its own, so time passes where TICKS is seen
(log 7). -/
def State.touch (s : State) : State :=
  { s with ticks := s.ticks + BitVec.ofNat 64 (Config.elapsed s.free), free := s.free + 1 }

/-! ### Host memory (R378, file 11) -/

/-- Both ports lead to one host (Table 11.3, file 11). -/
def State.multipath (s : State) : Bool := s.boot.hostMode == 1

/-- The key of a host address: the host, the PASID space (0: none; PASID + 1) and the address. -/
def State.hostKey (s : State) (port space a : Nat) : Nat :=
  ((if s.multipath then 0 else port) * 2 ^ 21 + space) * 2 ^ 64 + a % 2 ^ 64

/-- A byte of host memory: what was written to it, else a free value (log 6). -/
def State.hostByte (s : State) (port space a : Nat) : Byte :=
  (look none s.host (s.hostKey port space a)).getD (Config.hostByte port a)

/-- `n` bytes of host memory. -/
def State.hostRead (s : State) (port space a n : Nat) : List Byte := bytesAt (s.hostByte port space) a n

/-- Host memory with bytes written from `a` on. -/
def State.hostWrite (s : State) (port space a : Nat) (bs : List Byte) : State :=
  match bs with
  | [] => s
  | b :: r => State.hostWrite { s with host := put none s.host (s.hostKey port space a) (some b) } port space (a + 1) r

/-- The host's own writes to its memory, which a command reports before the D1 reads (log 6). -/
def State.hostWrites (s : State) (port space : Nat) (ws : List Host.Cell) : State :=
  ws.foldl (fun s w => s.hostWrite port space w.1 [w.2]) s

/-- The PASID space number of a PASID and its enable. -/
def pasidSpace (en : Bool) (pasid : Nat) : Nat := if en then pasid + 1 else 0

/-! ### Interrupts (R394, file 11) -/

/-- The key of a function. -/
def fnKey (port fn : Nat) : Nat := port * 32 + fn

/-- The function whose MSI-X table serves a function: in multipath mode that of P0 (R374, file 11). -/
def State.irqOwner (s : State) (k : Nat) : Nat := if s.multipath then k % 32 else k

/-- Send a vector's message: a masked vector sets its pending bit; outside multipath mode a message whose port is down
is dropped (R394, file 11). -/
def State.irqSend (s : State) (k v : Nat) : State :=
  s.modFunc (s.irqOwner k) fun f =>
    let i := look {} f.irq v
    let i := if i.masked then { i with counted := 0, pend := true }
      else if !s.multipath && !(s.port (k / 32)).up then { i with counted := 0 }
      else { i with counted := 0, sent := i.sent + 1 }
    { f with irq := put {} f.irq v i }

/-- Count one entry toward a vector's interrupt, and send it at IRQ_MOD_COUNT entries (0 acts as 1). -/
def State.irqCount (s : State) (k v : Nat) : State :=
  let i := look {} (s.func (s.irqOwner k)).irq v
  if i.counted + 1 ≥ max 1 (fld i.mod 0 8) then s.irqSend k v
  else s.modFunc (s.irqOwner k) fun f => { f with irq := put {} f.irq v { i with counted := i.counted + 1 } }

/-! ### Event records (R454 to R456, file 12; R411, file 11) -/

/-- EV_LOC: kind and value (Table 12.11). -/
def locOf (kind value : Nat) : BitVec 32 := BitVec.ofNat 32 (kind * 2 ^ 28 + value % 2 ^ 28)

/-- EV_DETAIL from fields (byte offset, bytes, value) of Table 12.12. -/
def detailOf (fs : List (Nat × Nat × Nat)) : BitVec 128 :=
  fs.foldl (fun d f => d ||| BitVec.ofNat 128 ((f.2.2 % 256 ^ f.2.1) <<< (8 * f.1))) 0

/-- The 64 bytes of an event-log entry (Table 11.26). -/
def evlEntry (e : EvRec) (seq lost phase : Nat) : List Byte :=
  bytesOf 1 e.typ.toNat ++ bytesOf 1 e.level.toNat ++ bytesOf 1 e.action.toNat ++ bytesOf 1 e.status.toNat ++
  bytesOf 4 e.loc.toNat ++ bytesOf 8 e.ticks.toNat ++ bytesOf 16 e.detail.toNat ++
  bytesOf 8 seq ++ bytesOf 4 lost ++ bytesOf 19 0 ++ bytesOf 1 phase

/-- The event-log ring of a port is in use (R550, file 15). -/
def Port.evlOn (p : Port) : Bool := bitAt p.evlCfg 63 && !p.evlErr

/-- The consumed count read again when the ring appears full (R411, file 11). -/
def State.evlReread (s : State) (n : Nat) : State :=
  let p := s.port n
  s.modPort n fun p' => { p' with evlRead := BitVec.ofNat 32 (natOf (s.hostRead n p.evlSpace p.evlSetHead 4)) }

/-- The ring of port `n` has room by the last consumed count. -/
def State.evlRoom (s : State) (n : Nat) : Bool :=
  decide (((s.port n).evlWritten - (s.port n).evlRead).toNat < 2 ^ (s.port n).evlSetLog2)

/-- Write the oldest buffered record of a port into its ring. -/
def State.evlWriteOne (s : State) (n : Nat) : State :=
  let p := s.port n
  match p.evlBuf with
  | [] => s
  | (seq, e) :: r =>
    let w := p.evlWritten.toNat
    let size := 2 ^ p.evlSetLog2
    let s := s.hostWrite n p.evlSpace (p.evlSetBase + 64 * (w % size))
      (evlEntry e seq p.evlLost (if w / size % 2 = 0 then 1 else 0))
    let s := s.modPort n fun p => { p with evlBuf := r, evlLost := 0, evlWritten := p.evlWritten + 1 }
    s.irqCount (fnKey n 0) p.evlSetVec

/-- Write buffered records while the ring is in use and has room, at most `fuel` of them. -/
def State.evlFlush (s : State) (n : Nat) : Nat → State
  | 0 => s
  | fuel + 1 =>
    if !(s.port n).evlOn || (s.port n).evlBuf.isEmpty then s
    else
      let s := if s.evlRoom n then s else s.evlReread n
      if s.evlRoom n then (s.evlWriteOne n).evlFlush n fuel else s

/-- A record given to the ring of one port: buffered, or dropped and counted when 4,096 wait, then written as far as
the ring has room (R411, file 11). -/
def State.evlGive (s : State) (n seq : Nat) (e : EvRec) : State :=
  let p := s.port n
  if p.evlBuf.length ≥ 4096 then s.putPort n { p with evlLost := p.evlLost + 1 }
  else (s.putPort n { p with evlBuf := p.evlBuf ++ [(seq, e)] }).evlFlush n (p.evlBuf.length + 1)

/-- A record given to the event-log ring of each physical function; port 1 presents one in two_hosts mode only (R374,
R411, file 11). -/
def State.evlGiveAll (s : State) (e : EvRec) : State :=
  let s := { s with evlSeq := s.evlSeq + 1 }
  let s := s.evlGive 0 s.evlSeq e
  if s.boot.hostMode = 0 then s.evlGive 1 s.evlSeq e else s

/-- The record belongs in the flash event log by itself: types 0x4A and 0x80 to 0xBF, and DEVICE_LOST (R516, file 14). -/
def EvRec.toFlash (e : EvRec) : Bool :=
  let t := e.typ.toNat
  t == 0x4A || (decide (0x80 ≤ t) && decide (t ≤ 0xBF)) || t == 0x3F

/-- Records the flash event log holds: 16 MiB of 32 bytes (Table 14.8, file 14). -/
def flashLogMax : Nat := 524288

/-- A record written into the flash event log, a ring (R516, file 14). -/
def State.flashLog (s : State) (e : EvRec) : State :=
  let l := s.boot.flash.log ++ [e]
  { s with boot := { s.boot with flash := { s.boot.flash with
      log := if l.length > flashLogMax then l.drop (l.length - flashLogMax) else l } } }

/-- An event record: stamped with TICKS, given to the event-log ring of each physical function, to the flash event log
where R516 says so, and at level 5 or 6 to the BMC with ALERT_N low (R411, R454, R516, R533). -/
def State.record (s : State) (typ level action status : Nat) (loc : BitVec 32) (detail : BitVec 128) : State :=
  let s := s.touch
  let e : EvRec :=
    { typ := bits 8 typ, level := bits 8 level, action := bits 8 action, status := bits 8 status, loc := loc,
      ticks := s.ticks, detail := detail }
  let s := s.evlGiveAll e
  let s := if e.toFlash then s.flashLog e else s
  if level ≥ 5 then
    { s with boot := { s.boot with pldmQueue := s.boot.pldmQueue ++ [e], alertLow := true } }
  else s

/-! ### Status codes (Table 00.6, file 00) -/

/-- DONE -/
def stDone : BitVec 8 := 0x00
/-- DONE_RECOVERED -/
def stRecovered : BitVec 8 := 0x01
/-- PROGRAM_FAULT -/
def stProgram : BitVec 8 := 0x10
/-- LASTUSE_VIOLATION -/
def stLastUse : BitVec 8 := 0x11
/-- BARRIER_TIMEOUT -/
def stBarrier : BitVec 8 := 0x12
/-- BAD_DESCRIPTOR -/
def stBadDesc : BitVec 8 := 0x13
/-- ACCESS_VIOLATION -/
def stAccess : BitVec 8 := 0x14
/-- FORMAT_ERROR -/
def stFormat : BitVec 8 := 0x15
/-- WATCHDOG -/
def stWatchdog : BitVec 8 := 0x16
/-- ABORTED -/
def stAborted : BitVec 8 := 0x20
/-- PARTITION_RESET -/
def stReset : BitVec 8 := 0x21
/-- CAPACITY_SHORT -/
def stCapacity : BitVec 8 := 0x30
/-- DEVICE_LOST -/
def stLost : BitVec 8 := 0x3F

/-- The code that R16 selects of two causes: the numerically higher. -/
def worse (a b : BitVec 8) : BitVec 8 := if a.toNat < b.toNat then b else a

/-- The worst of a list of causes; none where there is none. -/
def worstOf (l : List (BitVec 8)) : Option (BitVec 8) :=
  l.foldl (fun a b => match a with | none => some b | some a => some (worse a b)) none

/-! ### Queues and descriptors named by tasks -/

/-- The value of location kind 13 for a queue key (Table 12.11): the key itself. -/
def queueValue (q : Nat) : Nat := q

/-- A queue's fetched descriptor of an index changed by `g`. -/
def State.modDesc (s : State) (q i : Nat) (g : Desc → Desc) : State :=
  let h (d : Desc) : Desc := if d.index.toNat = i then g d else d
  s.modQueue q fun x =>
    if x.descs.any fun d => d.index.toNat == i then { x with descs := x.descs.map h } else { x with past := x.past.map h }

/-- A queue's descriptor of an index: fetched and not completed, or kept for recomputation. -/
def State.desc? (s : State) (q i : Nat) : Option Desc :=
  ((s.queue q).descs ++ (s.queue q).past).find? fun d => d.index.toNat == i

/-! ### Traps (R142 to R144, file 04) -/

/-- What a trap does to its own core, whatever its cause: the task issues no more and has the worse status; both arrays
discard their queues; the tile mover ends the task's transfers; outstanding accesses complete by themselves (R143). -/
def Core.trap (c : Core) (status : BitVec 8) : Core :=
  { c with
    task := c.task.map fun t => { t with phase := .trapped, status := worse t.status status }
    arrays := c.arrays.map fun p => (p.1, { p.2 with queue := [], stop := .running, returned := [] })
    tm := [] }

/-- What may still count in the cycle in which a task traps: from an instruction's trap, the other port and the watchdog; from a
descriptor's or an answer's (`ports` 2), both ports and the watchdog; from the watchdog's, both ports. Causes after the first leave
what is left (R143, R147, Table 04.6; log 100). -/
def Core.openCycle (c : Core) (ports : Nat) : List Nat :=
  match c.task with
  | some t =>
    if t.phase = .running then (match ports with | 0 => [1, 2] | 1 => [0, 2] | 2 => [0, 1, 2] | _ => [0, 1]) else c.still.filter fun x => ports < 3 || x != 2
  | none => []

/-- The canonical form after an array map was changed entry by entry. -/
def normal {α : Type} [DecidableEq α] (d : α) (m : SMap α) : SMap α := m.filter fun p => decide (p.2 ≠ d)

/-- The logical cores that run a task of a gang. -/
def State.gangCores (s : State) (g : Nat) : List Nat :=
  s.logicalCores.filter fun l => match (s.core l).task with | some t => t.gang == some g | none => false

/-- The logical cores that hold a pre-empted task of a gang. -/
def State.gangFrames (s : State) (g : Nat) : List Nat :=
  s.logicalCores.filter fun l => match (s.core l).frame with | some f => f.task.gang == some g | none => false

/-- The pre-empted task of a core takes a trap: it ends when it resumes. -/
def Core.trapFrame (c : Core) (status : BitVec 8) : Core :=
  { c with frame := c.frame.map fun f =>
    { f with task := { f.task with phase := .trapped, status := worse f.task.status status }, returned := [], tm := [] } }

/-- A trap's effect on the launch and on the gang: no further task of the launch is dispatched, and every task of the
gang ends with the same status (R144). -/
def State.trapSpread (s : State) (l : Nat) (status : BitVec 8) : State :=
  match (s.core l).task with
  | none => s
  | some t =>
    if t.twinOf.isSome then s
    else
    let s := s.modDesc t.queue t.desc fun d => { d with launch := { d.launch with stopped := true } }
    match t.gang with
    | none => s
    | some g =>
      let s := (s.gangCores g).foldl (fun s m => s.modCore m fun c =>
        let c := c.trap status; { c with arrays := normal {} c.arrays }) s
      (s.gangFrames g).foldl (fun s m => s.modCore m fun c => c.trapFrame status) s

/-- Statuses that traps give (Table 04.5; R420). Work that ends with ABORTED or DEVICE_LOST stops as at a trap, but is none,
and leaves no TRAP record (R142, R143). -/
def trapStatus (st : BitVec 8) : Bool := (decide (0x10 ≤ st.toNat) && decide (st.toNat ≤ 0x16)) || st == 0x30

/-- A trap of the task on core `l`: `group` names the group slot, or 255 for a watchdog expiry; the first trap of each
group makes a TRAP record (R143). -/
def State.trap (s : State) (l group : Nat) (status : BitVec 8) (pc : Nat) (mask : Nat) (code : Nat) : State :=
  let twin := match (s.core l).task with | some t => t.twinOf.isSome | none => false
  let first := !twin && trapStatus status && (group == 255 || ((s.core l).group group).trapped.isNone)
  let s := s.modCore l fun c =>
    let c := { c.trap status with still := if trapStatus status then c.openCycle (if group < 16 then c.lastPort else 3) else [] }
    let c := { c with arrays := normal {} c.arrays }
    if group < 16 && trapStatus status then c.modGroup group fun g => { g with trapped := some (g.trapped.getD status) } else c
  let s := s.trapSpread l status
  if first then s.record 0x01 1 0x10 status.toNat (locOf 1 l)
      (detailOf [(0, 8, pc), (8, 4, mask), (0xC, 1, group), (0xE, 2, code)])
  else s

/-- A trap that no instruction raised, of a descriptor that group `group` issued: the record's program counter, mask and
code hold 0 (R81, R143, R212). -/
def State.trapDesc (s : State) (l group : Nat) (status : BitVec 8) : State :=
  let s := s.modCore l fun c =>
    let c := { c.trap status with still := if trapStatus status then c.openCycle 2 else [] }
    { c with arrays := normal {} c.arrays }
  let s := s.trapSpread l status
  if trapStatus status then s.record 0x01 1 0x10 status.toNat (locOf 1 l) (detailOf [(0xC, 1, group)]) else s

/-- The DEVICE_LOST record of a task on core `l`: the core is changed by it, or the cluster where a whole gang ends
(R25, R459). -/
def State.lostRecord (s : State) (l : Nat) (gang : Bool) (case_ q i : Nat) : State :=
  s.record 0x3F (if gang then 2 else 1) 0x0F stLost.toNat (if gang then locOf 3 (s.clusterOf l) else locOf 1 l)
    (detailOf [(0, 1, case_), (4, 4, q), (8, 4, i)])

/-- A descriptor that fails several checks: the task ends with the worst status, and every cause is recorded (R16). -/
def State.trapDescs (s : State) (l group : Nat) (causes : List (BitVec 8)) : State :=
  causes.eraseDups.foldl (fun s st => s.trapDesc l group st) s

/-- Draw `n` free bytes, each of its own (log 4). -/
def State.drawBytes (s : State) (n : Nat) : List Byte × State :=
  ((List.range n).map fun i => BitVec.ofNat 8 (Config.freeWord (s.free + i)).toNat, { s with free := s.free + n })

/-! ### Outcomes -/

/-- Go on with `k` where `b` holds, refuse otherwise. -/
def need (b : Bool) (r : Refusal) (k : Host.Outcome State Fault Refusal) : Host.Outcome State Fault Refusal :=
  if b then k else .refused r

/-- Go on with `k` where the unit number `n` is below `bound`, fault otherwise. -/
def unit (n bound : Nat) (k : Host.Outcome State Fault Refusal) : Host.Outcome State Fault Refusal :=
  if n < bound then k else .fault .noSuchUnit

/-- Mainland runs, and the package has power and is not tripped (R527, file 14). -/
def State.mainlandUp (s : State) : Bool := s.boot.mainland && s.boot.pwrokAon && s.boot.pwrokMain && s.boot.tripLayer == 0

/-- Skerry runs: the always-on rail is good (R500, file 14). -/
def State.skerryUp (s : State) : Bool := s.boot.pwrokAon && (s.boot.pkgRstN || s.boot.tripLayer != 0)

/-- The compute side of the package has power and is not tripped (R461, R494, file 13). -/
def State.powered (s : State) : Bool := s.boot.pwrokMain && s.boot.pwrokAon && s.boot.tripLayer == 0

end Sys2Proof.Machine
end

