-- ==== Sys2Proof/Machine/Translate.lean ====
section
/-! DEFINITION. Page tables, device physical addresses, the home of a line and its place in a slice (chapters 07 and 08);
the bytes behind the slices. -/

namespace Sys2Proof.Machine

/-! ### Page tables (R286 to R288, file 08) -/

/-- The lowest index bit of a level: 39, 30, 21, 16 (Table 08.10). -/
def levelShift (lv : Nat) : Nat := if lv = 0 then 39 else if lv = 1 then 30 else if lv = 2 then 21 else 16

/-- The key of a page table entry: address space, level, and the virtual address above the level's page (log 15). -/
def pteKey (asid lv va : Nat) : Nat := (asid * 4 + lv) * 2 ^ 36 + (va % 2 ^ 52) >>> levelShift lv

/-- What an access needs of its leaf. -/
inductive Perm where
  | r | w | x | none
deriving DecidableEq, Repr

/-- Where a device virtual address leads. -/
inductive Loc where
  /-- device memory of this package: device physical address -/
  | dev (a : Nat)
  /-- device memory of another package: its ID and the device physical address there -/
  | remote (pkg a : Nat)
  /-- host memory: host address -/
  | host (a : Nat)
deriving DecidableEq, Repr

/-- The permission bit is set in a leaf. -/
def pteAllows (e : BitVec 64) (p : Perm) : Bool :=
  match p with
  | .r => bitAt e 2
  | .w => bitAt e 3
  | .x => bitAt e 4
  | .none => true

/-- The entry holds no reserved value: bits [15:9] clear, PTE_TGT not 3, the high PTE_ADDR bits of its target clear, and in a leaf
the low PTE_ADDR bits of its level (R287). -/
def pteSound (e : BitVec 64) (lv : Nat) : Bool :=
  fld e 9 7 == 0 && fld e 7 2 != 3 &&
  (if fld e 7 2 = 0 then fld e 44 20 == 0 else if fld e 7 2 = 1 then fld e 56 8 == 0 else true) &&
  (if bitAt e 1 then (e.toNat % 2 ^ levelShift lv) >>> 16 == 0 else true)

/-- An entry that points to the next table, at a 64 KiB page of this package's device memory: where mainland puts a table is open,
so a free value gives the page (R286, R287; log 15). -/
def tableEntry (place : Nat) : BitVec 64 := BitVec.ofNat 64 (1 + place % 2 ^ 28 * 65536)

/-- The location that a leaf of level `lv` gives for `va`. -/
def leafLoc (e : BitVec 64) (lv va : Nat) : Loc :=
  let sh := levelShift lv
  let a := (e.toNat >>> sh) <<< sh + va % 2 ^ sh
  match fld e 7 2 with
  | 0 => .dev (a % 2 ^ 44)
  | 1 => .remote (a >>> 44 % 4096) (a % 2 ^ 44)
  | _ => .host (a % 2 ^ 64)

/-- The walk over the levels that are left: the leaf and its level, or none for an ACCESS_VIOLATION (R288). -/
def walk (ptes : SMap (BitVec 64)) (asid va : Nat) : List Nat → Option (BitVec 64 × Nat)
  | [] => none
  | lv :: rest =>
    let e := look 0 ptes (pteKey asid lv va)
    if !bitAt e 0 || !pteSound e lv then none
    else if bitAt e 1 then (if lv = 0 then none else some (e, lv))
    else walk ptes asid va rest

/-- The leaf that maps a virtual address of 52 bits, with its level. -/
def State.leaf (s : State) (asid va : Nat) : Option (BitVec 64 × Nat) :=
  if va < 2 ^ 52 then walk s.ptes asid va [0, 1, 2, 3] else none

/-- Translation with its permission check; a leaf of target 1 that names this package is local (R347, file 10). -/
def State.translate (s : State) (asid va : Nat) (p : Perm) : Option Loc :=
  match s.leaf asid va with
  | none => none
  | some (e, lv) =>
    if pteAllows e p then
      match leafLoc e lv va with
      | .remote pkg a => if s.fab.joined && pkg == s.fab.idApplied.toNat then some (.dev a) else some (.remote pkg a)
      | x => some x
    else none

/-! ### Device physical addresses (R255 to R260, file 08) -/

/-- The private step count p in force in a region (R261). -/
def State.privSteps (s : State) (r : Nat) : Nat := (s.region r).privSteps

/-- A channel in service (R257). -/
def State.inService (s : State) (ch : Nat) : Bool := !(s.channel ch).mappedOut

/-- The region of a channel: 72 channels to a region. -/
def regionOfChan (ch : Nat) : Nat := ch / 72

/-- The good-channel list of a region (R220). -/
def State.goodRegion (s : State) (r : Nat) : List Nat := ((List.range 72).map (r * 72 + ·)).filter s.inService

/-- The good-channel list of a die (R220). -/
def State.goodDie (s : State) (d : Nat) : List Nat := ((List.range 144).map (d * 144 + ·)).filter s.inService

/-- Lines of a channel's shared part: (1,020 − 128 p) MiB (Table 08.2). -/
def sharedLines (p : Nat) : Nat := (1020 - 128 * p) * 4096

/-- The home channel of pool line `l` over `n` good channels: its index in the list, and its line g within the channel's
shared part (R219, file 07). -/
def homeChannel (l n : Nat) : Nat × Nat :=
  let g := l / n
  let j := l % n
  let x := g * 0x9E3779B1 % 2 ^ 32
  let x := x ^^^ (x >>> 15)
  ((j + x % n) % n, g)

/-- The line of a channel: its linear slot number and the channel line address. -/
structure Home where
  /-- channel -/
  chan : Nat
  /-- channel line address, 22 bits -/
  cla : Nat
deriving DecidableEq, Repr

/-- The fields of a device physical address: die, region, kind (Table 08.3). -/
def dpaDie (a : Nat) : Nat := a >>> 42 % 4
def dpaRegion (a : Nat) : Nat := a >>> 41 % 2
def dpaKind (a : Nat) : Nat := a >>> 39 % 4
def dpaReg (a : Nat) : Nat := dpaDie a * 2 + dpaRegion a

/-- The channel that a private or firmware address names. -/
def dpaChan (a : Nat) : Nat := dpaReg a * 72 + a >>> 30 % 128

/-- The pool line's home, when the offset lies in the pool. -/
def poolHome (good : List Nat) (p off : Nat) : Option Home :=
  let n := good.length
  let l := off / 256
  if l < n * sharedLines p then
    let (i, g) := homeChannel l n
    (good[i]?).map fun ch => ⟨ch, p * 0x80000 + g⟩
  else none

/-- The home of an address, or none where R260 ends the access, its retired pages left aside. -/
def State.homeRaw (s : State) (a : Nat) : Option Home :=
  let r := dpaReg a
  let p := s.privSteps r
  if 2 ^ 44 ≤ a then none
  else match dpaKind a with
  | 0 =>
    if a >>> 37 % 4 = 0 && a >>> 30 % 128 ≤ 71 && a % 2 ^ 30 < 2 ^ 27 * p && s.inService (dpaChan a)
    then some ⟨dpaChan a, a % 2 ^ 30 / 256⟩ else none
  | 3 =>
    if a >>> 37 % 4 = 0 && a >>> 30 % 128 ≤ 71 && a % 2 ^ 30 < 2 ^ 22 && s.inService (dpaChan a)
    then some ⟨dpaChan a, 0x3FC000 + a % 2 ^ 30 / 256⟩ else none
  | 1 =>
    if a.testBit 38 || (s.region r).dieWide then none else poolHome (s.goodRegion r) p (a % 2 ^ 38)
  | _ =>
    if a.testBit 38 || dpaRegion a == 1 || !(s.region r).dieWide then none
    else poolHome (s.goodDie (dpaDie a)) p (a % 2 ^ 38)

/-- The page of an address is retired (R276). -/
def State.retiredPage (s : State) (a : Nat) : Bool :=
  let pg := a / 65536
  if dpaKind a = 0 || dpaKind a = 3 then (s.channel (dpaChan a)).retired.contains pg
  else (s.region (dpaReg a)).poolRetired.contains pg

/-- The home of an address for the D1's own engines (R260). -/
def State.home (s : State) (a : Nat) : Option Home := if s.retiredPage a then none else s.homeRaw a

/-- The home of an address for a request from a program: the firmware range is closed to it (R256, R260). -/
def State.homeProgram (s : State) (a : Nat) : Option Home := if dpaKind a = 3 then none else s.home a

/-! ### The place of a line in its home slice (R221, file 07) -/

/-- The slice of a channel: the slice above its cluster. -/
def Home.slice (h : Home) : Nat := h.chan / 9

/-- The channel's slot number in its cluster. -/
def Home.slot (h : Home) : Nat := h.chan % 9

/-- sub-array = s mod 3 -/
def Home.sub (h : Home) : Nat := h.slot % 3

/-- set = CLA[12:0] XOR (CLA[21:13] << 4) XOR ((s div 3) << 11) -/
def Home.set (h : Home) : Nat := (h.cla % 8192) ^^^ ((h.cla >>> 13 % 512) <<< 4) ^^^ ((h.slot / 3) <<< 11)

/-- tag = ((s div 3) << 9) + CLA[21:13] -/
def Home.tag (h : Home) : Nat := (h.slot / 3) * 512 + h.cla >>> 13 % 512

/-- directory set = bits [10:0] of the set -/
def Home.dirSet (h : Home) : Nat := h.set % 2048

/-- The key of the set among a slice's 24,576. -/
def Home.setKey (h : Home) : Nat := h.sub * 8192 + h.set

/-! ### The place of a line in its channel (R253, file 08) -/

/-- Line within the page, bank group, bank, tier and row of a channel line address. -/
def claPlace (c : Nat) : Nat × Nat × Nat × Nat × Nat :=
  (c % 4, (c >>> 2 % 4) ^^^ (c >>> 9 % 4), (c >>> 4 % 4) ^^^ (c >>> 11 % 4),
   ((c >>> 6 % 8) ^^^ (c >>> 13 % 8)) + 1, c >>> 9)

/-! ### The bytes behind the slices -/

/-- The undefined span that holds an address. -/
def undefAt (us : List Undef) (a : Nat) : Option Undef := us.find? fun u => decide (u.lo ≤ a) && decide (a < u.lo + u.len)

/-- A listed byte. -/
def cellAt (cs : List Host.Cell) (a : Nat) : Option Byte :=
  match cs with
  | [] => none
  | (k, b) :: r => if k = a then some b else cellAt r a

/-- What an unlisted address reads as: a free value in an undefined span, else 0 (the zeros of the memory test, R512;
log 5). -/
def Mem.unlisted (m : Mem) (a : Nat) : Byte :=
  match undefAt m.undef a with
  | some u => Config.freeByte u.tag a
  | none => 0

/-- One byte of device memory. -/
def Mem.byte (m : Mem) (a : Nat) : Byte := (cellAt m.cells a).getD (m.unlisted a)

/-- The 256 bytes of a line, by offset; zero bytes are not listed. -/
def Mem.line (m : Mem) (line : Nat) : SMap Byte :=
  (List.range 256).filterMap fun i => let b := m.byte (line * 256 + i); if b = 0 then none else some (i, b)

/-- A span without the addresses from `lo` to `hi` − 1. -/
def Undef.cut (u : Undef) (lo hi : Nat) : List Undef :=
  if u.lo + u.len ≤ lo || hi ≤ u.lo then [u]
  else (if u.lo < lo then [{ u with len := lo - u.lo }] else []) ++
    (if hi < u.lo + u.len then [{ u with lo := hi, len := u.lo + u.len - hi }] else [])

/-- Cells for a run of bytes from `a` on, without those that are 0. -/
def cellsOf (f : Nat → Byte) (a n : Nat) : List Host.Cell :=
  (List.range n).filterMap fun i => if f i = 0 then none else some (a + i, f i)

/-- Device memory with the `n` bytes from `a` on replaced by `f 0`, `f 1`, …: the listed cells below, the new ones, the
listed cells above. -/
def Mem.write (m : Mem) (a n : Nat) (f : Nat → Byte) : Mem :=
  { cells := m.cells.filter (fun c => decide (c.1 < a)) ++ cellsOf f a n ++
      m.cells.filter (fun c => decide (a + n ≤ c.1)),
    undef := m.undef.flatMap fun u => u.cut a (a + n) }

/-- A line written whole. -/
def Mem.putLine (m : Mem) (line : Nat) (d : SMap Byte) : Mem := m.write (line * 256) 256 (look 0 d)

/-- A range whose contents become undefined under a number of its own (R229, R262). -/
def Mem.forget (m : Mem) (a n tag : Nat) : Mem :=
  { cells := m.cells.filter fun c => decide (c.1 < a) || decide (a + n ≤ c.1)
    undef := (m.undef.flatMap fun u => u.cut a (a + n)) ++ [{ lo := a, len := n, tag := tag }] }

/-- The canonical form of the listed cells: addresses strictly rising. -/
def cellsRising : List Host.Cell → Bool
  | [] => true
  | c :: r => r.all (fun d => decide (c.1 < d.1)) && cellsRising r

/-- The canonical form of device memory: addresses strictly rising, no listed 0 outside the undefined spans, no listed
address inside one. -/
def Mem.wf (m : Mem) : Bool :=
  cellsRising m.cells && m.cells.all fun c => decide (c.2 ≠ 0) && (undefAt m.undef c.1).isNone

/-- Lines whose codewords are lost (R429, file 12). -/
def State.lostIn (s : State) (line : Nat) : Bool := s.lost.any fun x => decide (x.addr / 256 = line)

/-- What a read of `n` bytes from offset `o` of a line meets: none where it reaches no lost codeword, else whether one is gone.
`own`: bytes of the line that merged writes stand over (R430, R436, file 12). -/
def State.lossIn (s : State) (line o n : Nat) (own : BitVec 256) : Option Bool :=
  let hits := s.lost.filter fun x =>
    decide (x.addr / 256 = line) && (List.range n).any fun i => decide ((o + i) / 64 = x.addr / 64 % 4) && !bitAt own (o + i)
  if hits.isEmpty then none else some (hits.any fun x => x.gone)

/-- A write of offsets `offs` of a line clears the mark of each lost codeword that it covers whole (R429, file 12). -/
def State.clearLost (s : State) (line : Nat) (covers : Nat → Bool) : State :=
  { s with lost := s.lost.filter fun x =>
      !(decide (x.addr / 256 = line) && (List.range 64).all fun i => covers (x.addr / 64 % 4 * 64 + i)) }

end Sys2Proof.Machine
end

