-- ==== Sys2Proof/Machine/Network.lean ====
section
/-! DEFINITION. The network inside the package (chapter 09): the ways of messages through cluster crossbars, vertical ports,
spines, seams and links; the FIFOs and the arbitration of every regulated point; one slot of the whole network. -/

namespace Sys2Proof.Machine

/-- The network changed. -/
def State.onNet (s : State) (g : Net → Net) : State := { s with net := g s.net }

/-- The coherence messages in flight, oldest first. -/
def Net.coh (n : Net) : List CohMsg := n.msgs.filterMap NetMsg.coh

/-! ### Class shares (R309, R313) -/

/-- Default share of a class in slots per 256 (Table 09.4). -/
def shareDefault (c : Nat) : Nat := [76, 80, 56, 8, 16, 16, 2].getD c 0

/-- Least share of a class (Table 09.4). -/
def shareLeast (c : Nat) : Nat := [32, 16, 8, 1, 1, 1, 1].getD c 0

/-- A class's registers at reset. -/
def Qos.atReset (c : Nat) : Qos := { req := bits 8 (shareDefault c), applied := bits 8 (shareDefault c) }

/-- The registers of a class. -/
def State.qosOf (s : State) (c : Nat) : Qos := look (Qos.atReset c) s.net.qos c

/-- The registers of a class replaced. -/
def State.putQos (s : State) (c : Nat) (x : Qos) : State := s.onNet fun n => { n with qos := put (Qos.atReset c) n.qos c x }

/-- The share set in force, classes 0 to 6 (R314). -/
def State.shares (s : State) : List Nat := (List.range 7).map fun c => (s.qosOf c).applied.toNat

/-- The class of a master's traffic (Table 09.4). -/
def Master.cls (m : Master) : Nat :=
  match m with | .core => 1 | .tm => 2 | .hub => 4 | .host => 3 | .fabric => 5 | .fw => 4

/-! ### Link ends (R302) -/

/-- The endpoint number names a link end. -/
def isEp (ep : Nat) : Bool := (decide (ep < 64) && decide (ep % 16 < 4)) || (decide (64 ≤ ep) && decide (ep < 72))

/-- The other end of a link. -/
def peerEp (ep : Nat) : Nat :=
  let u := ep / 16
  let p := ep % 16
  if u = 4 then p / 2 * 16 + 2 + p % 2
  else match p with
    | 0 => (u + 1) % 4 * 16 + 1
    | 1 => (u + 3) % 4 * 16
    | _ => 64 + 2 * u + (p - 2)

/-- The link whose end at die `d` has port `p` is in service. -/
def State.dieLink (s : State) (d p : Nat) : Bool :=
  (s.net.link (d * 16 + p)).up && (s.net.link (peerEp (d * 16 + p))).up

/-- Both ends of the link are in service, and neither retrains. -/
def State.linkRuns (s : State) (ep : Nat) : Bool :=
  (s.net.link ep).up && (s.net.link (peerEp ep)).up && !(s.net.link ep).retraining && !(s.net.link (peerEp ep)).retraining

/-! ### Point numbers -/

/-- The vertical port of a cluster toward the spine. -/
def ptUp (c : Nat) : Nat := c
/-- The vertical port of a cluster toward the cluster. -/
def ptDown (c : Nat) : Nat := 64 + c
/-- The port of a slice toward the slice. -/
def ptIn (k : Nat) : Nat := 128 + k
/-- The port of a slice toward the spine. -/
def ptOut (k : Nat) : Nat := 192 + k
/-- The transmit end of seam bridge `b` of die `d` in the direction out of region `r`. -/
def ptSeam (d b r : Nat) : Nat := 256 + (d * 4 + b) * 2 + r
/-- The FIFO of seam bridge `b` of die `d` in the direction out of region `r`. -/
def ptBridge (d b r : Nat) : Nat := 288 + (d * 4 + b) * 2 + r
/-- A link end or hub half. -/
def ptLink (ep : Nat) : Nat := 320 + ep
/-- A dense channel. -/
def ptChan (ch : Nat) : Nat := 400 + ch
/-- Output `o` of the crossbar of cluster `c`: 0 to 8 the core ports, 9 the cluster cache, 10 the tile mover, 11 the sync
unit, 12 the channel switch, 13 the vertical port (Table 09.1). -/
def ptXbar (c o : Nat) : Nat := 1024 + c * 16 + o

/-- The point is a regulated point (R310): the others are crossbar outputs and bridge FIFOs. -/
def regulated (p : Nat) : Bool := decide (p < 1024) && !(decide (288 ≤ p) && decide (p < 320))

/-! ### Ways (R293, R294, R297, R299, R303; Table 09.2) -/

/-- From the spine of region `r` of die `d` to that of region `t`: through one of the four seam bridges, by a hash of the
destination endpoint (R297). The hash, the low two bits of the endpoint number, is the model's own (log 89). -/
def pathCross (d r t dst : Nat) : List Nat := if r = t then [] else [ptSeam d (dst % 4) r, ptBridge d (dst % 4) r]

/-- From region `r` of die `d` to the hub's end of a half: the region's own, or the other half across the seam (R303). -/
def State.pathHalf (s : State) (d r dst : Nat) : List Nat × Nat :=
  if s.dieLink d (2 + r) || !s.dieLink d (3 - r) then ([ptLink (d * 16 + 2 + r)], r)
  else (pathCross d r (1 - r) dst ++ [ptLink (d * 16 + 3 - r)], 1 - r)

/-- From the hub to region `t` of die `e`. -/
def State.pathFromHub (s : State) (e t dst : Nat) : List Nat :=
  let h := if s.dieLink e (2 + t) || !s.dieLink e (3 - t) then t else 1 - t
  ptLink (64 + 2 * e + h) :: pathCross e h t dst

/-- From the spine of region `r` of die `d` to the spine of region `t` of die `e`, by the route in force (R303). A die's E
spine carries the link to die (d + 1) mod 4, and its W spine the one to die (d + 3) mod 4 (R294). -/
def State.pathDies (s : State) (d r e t dst : Nat) : List Nat :=
  let p := look 0 s.net.routes (d * 5 + e)
  let hub := (s.pathHalf d r dst).1 ++ s.pathFromHub e t dst
  let up (a r b t : Nat) : List Nat := pathCross a r 1 dst ++ [ptLink (a * 16)] ++ pathCross b 0 t dst
  let down (a r b t : Nat) : List Nat := pathCross a r 0 dst ++ [ptLink (a * 16 + 1)] ++ pathCross b 1 t dst
  if d = e then pathCross d r t dst
  else if e = (d + 1) % 4 then (if p = 0 then up d r e t else hub)
  else if e = (d + 3) % 4 then (if p = 0 then down d r e t else hub)
  else match p with
    | 0 => hub
    | 1 => up d r ((d + 1) % 4) 1 ++ up ((d + 1) % 4) 1 e t
    | _ => down d r ((d + 3) % 4) 0 ++ down ((d + 3) % 4) 0 e t

/-- From the spine above cluster `a` to the spine above cluster `b`; the slice above a cluster is reached by the local turn,
through no spine switch (R293). -/
def State.pathSpine (s : State) (a b dst : Nat) : List Nat :=
  if a = b then [] else s.pathDies (dieOfCluster a) (regionOfCluster a % 2) (dieOfCluster b) (regionOfCluster b % 2) dst

/-- From the cluster cache of cluster `c` to slice `k`. -/
def State.pathUp (s : State) (c k : Nat) : List Nat :=
  [ptXbar c 13, ptUp c] ++ s.pathSpine c k (64 + k) ++ [ptIn k]

/-- From slice `k` to the cluster cache of cluster `c`. -/
def State.pathDown (s : State) (k c : Nat) : List Nat :=
  [ptOut k] ++ s.pathSpine k c c ++ [ptDown c, ptXbar c 9]

/-! ### Messages and their FIFOs (R295, R296) -/

/-- A message entered into the network at the first point of its path. -/
def State.netPush (s : State) (m : NetMsg) : State :=
  s.onNet fun n => { n with msgs := n.msgs ++ [{ m with id := n.seq, since := n.seq }], seq := n.seq + 1 }

/-- The messages that wait at a point. -/
def Net.waiting (n : Net) (p : Nat) : List NetMsg := n.msgs.filter fun m => m.path.head? == some p

/-- FIFO depth: 64 slots (R295, R297). -/
def fifoDepth : Nat := 64

/-- The next point of a message has room for it: its FIFO of class and protocol channel, or the FIFO of a seam bridge, holds
fewer than 64 messages. The end of a path has room. This is the credit of R28 (R295, R297, R298). -/
def Net.room (n : Net) (m : NetMsg) : Bool :=
  match m.path.drop 1 with
  | [] => true
  | q :: _ =>
    let w := n.waiting q
    decide ((if 288 ≤ q ∧ q < 320 then w else w.filter fun x => x.cls == m.cls && x.chan == m.chan).length < fifoDepth)

/-- The one of two messages that came to its point first. -/
def earlier (a b : NetMsg) : NetMsg := if b.since < a.since then b else a

/-- The message of a list that came first to the point where they wait. -/
def firstOf : List NetMsg → Option NetMsg
  | [] => none
  | m :: r => match firstOf r with | none => some m | some x => some (earlier m x)

/-- The heads of the FIFOs of one class at a point, by protocol channel, that can leave. -/
def Net.heads (n : Net) (w : List NetMsg) (c : Nat) : List (Nat × NetMsg) :=
  (List.range 3).filterMap fun ch =>
    match firstOf (w.filter fun m => m.cls == c && m.chan == ch) with
    | some m => if n.room m then some (ch, m) else none
    | none => none

/-- The first element at or after a start in a round of `n`, counted from `base`, that satisfies `ok`. -/
def roundRobin (n base start : Nat) (ok : Nat → Bool) : Option Nat :=
  ((List.range n).map fun i => (start - base + i) % n + base).find? ok

/-- The class that a slot goes to (R310): STATIC within its share; else the next guaranteed class within its share; else the
next class but BG; else BG. `used` counts quarter slots. The two rounds keep their places apart (log 89). -/
def pickShare (share : Nat → Nat) (p : NetPoint) (pend : Nat → Bool) : Option Nat :=
  let within (c : Nat) : Bool := pend c && decide (look 0 p.used c < 4 * share c)
  if within 0 then some 0
  else match roundRobin 5 1 (p.rr + 1) within with
    | some c => some c
    | none => match roundRobin 6 0 (p.left + 1) pend with
      | some c => some c
      | none => if pend 6 then some 6 else none

/-- The bandwidth cap of the power controller on a channel, in 0.1 % of its non-STATIC slots; 1000 with none (R312, R480,
R492). -/
def State.chanCap (s : State) (p : Nat) : Nat :=
  if 400 ≤ p ∧ p < 976 then min s.power.bwCap (s.die ((p - 400) / 144)).bwTherm else 1000

/-- Non-STATIC quarter slots that a window of a point allows under its cap (R312). -/
def capQuarters (cap static : Nat) : Nat := (256 - static) * 4 * cap / 1000

/-- Within one class at a dense channel, half of the CORE and TM shares is kept for requests that carry the owner tag: while
one waits, the others take at most half (R312). -/
def ownerTurn (share : Nat → Nat) (p : NetPoint) (c : Nat) (w : List NetMsg) : List NetMsg :=
  let mine := w.filter fun m => m.cls == c && m.owner
  if (c = 1 ∨ c = 2) ∧ !mine.isEmpty ∧ 2 * share c ≤ look 0 p.others c then w.filter fun m => m.cls != c || m.owner else w

/-- The head that a class sends at a regulated point: its protocol channels in turn (log 89). -/
def Net.classHead (n : Net) (p : NetPoint) (w : List NetMsg) (c : Nat) : Option NetMsg :=
  let hs := n.heads w c
  (roundRobin 3 0 (look 2 p.chanRr c + 1) fun ch => hs.any fun h => h.1 == ch).bind fun ch =>
    (hs.find? fun h => h.1 == ch).map Prod.snd

/-- The head that a crossbar output sends: its inputs in round robin, one message a cycle, each input's messages in their
order (R292). A seam bridge sends its oldest (R297). -/
def Net.plainHead (n : Net) (p : NetPoint) (w : List NetMsg) (key : Nat) : Option NetMsg :=
  if key < 1024 then (firstOf w).filter n.room
  else
    let head (i : Nat) : Option NetMsg := (firstOf (w.filter fun m => m.inp == i)).filter n.room
    (roundRobin 14 0 (p.inRr + 1) fun i => (head i).isSome).bind head

/-- A message leaves the point where it waits. -/
def Net.move (n : Net) (m : NetMsg) : Net :=
  { n with
    seq := n.seq + 1
    msgs := (n.msgs.map fun x => if x.id = m.id then { x with path := x.path.drop 1, since := n.seq } else x).filter
      fun x => !(x.path.isEmpty && x.coh.isNone) }

/-- The windows of the point change: `used` starts again and the share set in force is taken; a class that was pending at
every slot and had less than its share is counted short (R310, R314, R315). -/
def NetPoint.turn (p : NetPoint) (now : List Nat) : NetPoint :=
  if p.slot < 1024 then { p with share := if p.slot = 0 then now else p.share }
  else
    let cut := p.pendAll.filter fun c => decide (look 0 p.used c < 4 * p.share.getD c 0)
    { p with
      slot := 0, share := now, used := [], others := [], pendAll := (List.range 7)
      short := cut.foldl (fun m c => put 0 m c ((look 0 m c + 1) % 2 ^ 64)) p.short }

/-- One slot of a regulated point: the class of R310, its message, and the counters. -/
def State.regSlot (s : State) (key : Nat) : State :=
  let p := (look {} s.net.points key).turn s.shares
  let p := if p.slot = 0 then { p with pendAll := List.range 7 } else p
  let w := s.net.waiting key
  let share (c : Nat) : Nat := p.share.getD c 0
  let spent := ((List.range 6).map fun i => look 0 p.used (i + 1)).sum
  let live (l : Nat) : Bool := decide (spent + l ≤ capQuarters (s.chanCap key) (share 0))
  let wo := fun c => if 400 ≤ key then ownerTurn share p c w else w
  let runs := if 320 ≤ key ∧ key < 400 then s.linkRuns (key - 320) else true
  let pend (c : Nat) : Bool := runs && ((s.net.classHead p (wo c) c).any fun m => c == 0 || s.chanCap key == 1000 || live m.quarters)
  let p := { p with pendAll := p.pendAll.filter pend }
  match (pickShare share p pend).bind fun c => (s.net.classHead p (wo c) c).map fun m => (c, m) with
  | none => s.onNet fun n => { n with points := put {} n.points key { p with slot := p.slot + 4 } }
  | some (c, m) =>
    let ok := decide (look 0 p.used c < 4 * share c)
    let p := { p with
      slot := p.slot + m.quarters
      used := put 0 p.used c (look 0 p.used c + m.quarters)
      others := if m.owner then p.others else put 0 p.others c (look 0 p.others c + m.quarters)
      rr := if ok && c != 0 && c != 6 then c else p.rr
      left := if ok || c == 6 then p.left else c
      chanRr := put 2 p.chanRr c m.chan
      bytes := put 0 p.bytes c ((look 0 p.bytes c + m.bytes) % 2 ^ 64) }
    (s.onNet fun n => { n with points := put {} n.points key p }).onNet fun n => n.move m

/-- One cycle of a crossbar output or of a bridge FIFO. -/
def State.plainSlot (s : State) (key : Nat) : State :=
  let p := look {} s.net.points key
  match s.net.plainHead p (s.net.waiting key) key with
  | none => s
  | some m =>
    (s.onNet fun n => { n with points := if key < 1024 then n.points else put {} n.points key { p with inRr := m.inp } }).onNet
      fun n => n.move m

/-- The points at which a message waits or a window is open. -/
def Net.live (n : Net) : List Nat :=
  ((n.msgs.filterMap fun m => m.path.head?) ++ (n.points.filter fun p => p.2.slot != 0).map Prod.fst).eraseDups

/-- One slot at every point where a message waits or a window is open (R310; log 89). -/
def State.netTick (s : State) : State :=
  s.net.live.foldl (fun s k => if regulated k then s.regSlot k else s.plainSlot k) s

/-- Slots of the network until the message with an id has arrived, at most `fuel` of them; a round that moves no message ends
the wait. -/
def State.netRun (s : State) (id : Nat) : Nat → State
  | 0 => s
  | fuel + 1 =>
    if s.net.msgs.any fun m => m.id == id && !m.path.isEmpty then
      let t := s.netTick
      if t.net.seq = s.net.seq then s else t.netRun id fuel
    else s

/-- A message of the coherence protocol taken from the network: the slots that bring it to its destination pass first
(R310, R311; log 89). -/
def State.unsend (s : State) (m : CohMsg) : State :=
  match s.net.msgs.find? fun x => x.coh == some m with
  | none => s
  | some x => (s.netRun x.id 16384).onNet fun n => { n with msgs := n.msgs.filter fun y => y.id != x.id }

/-- No older message of the same source, destination, class and protocol channel is in flight (R296). -/
def State.firstInFlow (s : State) (m : CohMsg) : Bool :=
  match s.net.msgs.find? fun x => x.coh == some m with
  | none => false
  | some x => !s.net.msgs.any fun y => decide (y.id < x.id) && y.src == x.src && y.dst == x.dst && y.cls == x.cls &&
      y.chan == x.chan && y.coh.isSome

/-- Slots of the network until the first point of a message has room for it, at most `fuel` of them: its sender holds it
meanwhile (R295). -/
def State.netRoom (s : State) (m : NetMsg) : Nat → State
  | 0 => s
  | fuel + 1 => if s.net.room { m with path := 0 :: m.path } then s else s.netTick.netRoom m fuel

/-- A message sent: it enters the FIFO of its first point when that has room. -/
def State.netSend (s : State) (m : NetMsg) : State := (s.netRoom m 4096).netPush m

/-- A burst or a narrow access at a dense channel (R312). -/
def State.burst (s : State) (ch cls bytes : Nat) (narrow owner : Bool) : State :=
  s.netSend { cls := cls, bytes := bytes, quarters := if narrow then 1 else 4, owner := owner, src := 64 + ch / 9,
              dst := 64 + ch / 9, path := [ptChan ch] }

end Sys2Proof.Machine
end

