-- ==== Sys2Proof/Machine/SliceOps.lean ====
section
/-! DEFINITION. The SRAM slice (chapter 07): its data array with hints, pins and replacement, its last-use ledger, and its
directory entries. -/

namespace Sys2Proof.Machine

/-- The number of a master class in the counters: CORE 0 to FW 5. -/
def Master.ix (m : Master) : Nat :=
  match m with | .core => 0 | .tm => 1 | .hub => 2 | .host => 3 | .fabric => 4 | .fw => 5

/-- What a request carries to a home slice (R222, R225, R230, file 07). Hints are coded as in Table 05.4: 0 KEEP,
1 STREAM, 2 LASTUSE, 3 PIN. -/
structure Req where
  /-- master class -/
  m : Master
  /-- hint -/
  hint : Nat := 0
  /-- address space of the request -/
  asid : Nat := 0
  /-- the queue is lenient -/
  lenient : Bool := false
  /-- the requested bytes lie in one 32-byte block, for the narrow path (R268) -/
  narrow : Bool := false
  /-- an atomic, which acts as KEEP whatever its hint (Table 07.3) -/
  atomic : Bool := false
  /-- the request carries the owner tag (R293) -/
  owner : Bool := false
deriving DecidableEq, Repr

/-- The hint by which the data array acts (Table 07.3). -/
def Req.acts (rq : Req) : Nat := if rq.atomic then 0 else rq.hint % 4

/-- The answer of a read at a home slice. -/
structure Rd where
  /-- the state after the read -/
  s : State
  /-- the line's bytes -/
  data : SMap Byte
  /-- poisoned after a last use (R230) -/
  poison : Bool := false
  /-- a lost codeword was reached (R429) -/
  lost : Bool := false

/-- The slice of a line; its channel's when the line has a home. -/
def State.homeOfLine (s : State) (line : Nat) : Home := (s.homeRaw (line * 256)).getD ⟨576 * 9, 0⟩

/-- Change the home slice of a line. -/
def State.modHome (s : State) (line : Nat) (g : Slice → Slice) : State := s.modSlice (s.homeOfLine line).slice g

/-! ### The data array (R217, R223 to R227) -/

/-- The lines of a set, the eviction end first. -/
def Slice.setLines (sl : Slice) (key : Nat) : List SLine := look [] sl.sets key

/-- The held line with a number. -/
def Slice.find (sl : Slice) (key line : Nat) : Option SLine := (sl.setLines key).find? fun x => x.line == line

/-- A set's lines replaced. -/
def Slice.putSet (sl : Slice) (key : Nat) (ls : List SLine) : Slice := { sl with sets := put [] sl.sets key ls }

/-- A set without a line. -/
def Slice.remove (sl : Slice) (key line : Nat) : Slice :=
  sl.putSet key ((sl.setLines key).filter fun x => x.line != line)

/-- A line put into its set at the most-recently-used position, or at the eviction end. -/
def Slice.insert (sl : Slice) (key : Nat) (x : SLine) (mru : Bool) : Slice :=
  let r := (sl.setLines key).filter fun y => y.line != x.line
  sl.putSet key (if mru then r ++ [x] else x :: r)

/-- A held line changed in place. -/
def Slice.update (sl : Slice) (key line : Nat) (g : SLine → SLine) : Slice :=
  sl.putSet key ((sl.setLines key).map fun x => if x.line = line then g x else x)

/-- The disabled ways of a set. -/
def Slice.off (sl : Slice) (key : Nat) : BitVec 16 := look 0 sl.waysOff key

/-- The enabled ways of a set. -/
def Slice.enabled (sl : Slice) (key : Nat) : Nat := ((List.range 16).filter fun w => !bitAt (sl.off key) w).length

/-- A set disabled as a whole: declared so, or with fewer than 8 enabled ways (R246). -/
def Slice.setOff (sl : Slice) (key : Nat) : Bool := sl.setsOff.contains key || decide (sl.enabled key < 8)

/-- P_CAP = min(12, enabled ways − 4) (R225). -/
def Slice.pCap (sl : Slice) (key : Nat) : Nat := min 12 (sl.enabled key - 4)

/-- Pinned lines of a set. -/
def Slice.pinned (sl : Slice) (key : Nat) : Nat := ((sl.setLines key).filter fun x => x.pin != .unpinned).length

/-- An enabled way of the set that holds no line. -/
def Slice.freeWay (sl : Slice) (key : Nat) : Option Nat :=
  (List.range 16).find? fun w => !bitAt (sl.off key) w && !(sl.setLines key).any fun x => x.way == w

/-- A directory entry. -/
def Slice.dirFind (sl : Slice) (dset line : Nat) : Option DirEnt := (look [] sl.dir dset).find? fun e => e.line == line

/-- The directory entry of a line at its home. -/
def State.dirEnt (s : State) (line : Nat) : Option DirEnt :=
  let h := s.homeOfLine line
  (s.slice h.slice).dirFind h.dirSet line

/-- The line has an open transaction (R218, R224). -/
def State.lineBusy (s : State) (line : Nat) : Bool := match s.dirEnt line with | some e => e.txn.isSome | none => false

/-- A line read from its channel as one burst or as one narrow access: counted, and a message at the channel's regulated
point (R268, R289, file 08; R312, file 09). -/
def State.chanRead (s : State) (rq : Req) (line : Nat) (narrow : Bool) : State :=
  let ch := (s.homeOfLine line).chan
  let s := s.modChannel ch fun c =>
    if narrow then { c with narrowRd := bump 48 c.narrowRd } else { c with burstRd := bump 48 c.burstRd }
  s.burst ch rq.m.cls (if narrow then 32 else 256) narrow rq.owner

/-- A line written to its channel. -/
def State.chanWrite (s : State) (rq : Req) (line : Nat) (d : SMap Byte) : State :=
  let ch := (s.homeOfLine line).chan
  let s := s.modChannel ch fun c => { c with burstWr := bump 48 c.burstWr }
  let s := s.burst ch rq.m.cls 256 false rq.owner
  { s with mem := s.mem.putLine line d }

/-- A dirty line written back to its channel as it leaves the array, in the class of the request that forced it (R217,
R309). -/
def State.writeBack (s : State) (rq : Req) (x : SLine) : State := if x.dirty then s.chanWrite rq x.line x.bytes else s

/-- The line that is to leave a set for another: the one at the eviction end that is neither pinned nor in a transaction
(R224). -/
def State.slotVictim (s : State) (line : Nat) : Option SLine :=
  let h := s.homeOfLine line
  ((s.slice h.slice).setLines h.setKey).find? fun y => y.pin == .unpinned && !s.lineBusy y.line

/-- A line given a way of its set: an invalid enabled way, else the way of its victim, which is written back if dirty. In a
set disabled as a whole nothing is allocated, and a dirty line goes to its channel (R224, R246). `State.blocker` sees to it
that a victim is there. -/
def State.allocate (s : State) (rq : Req) (x : SLine) (mru : Bool) : State :=
  let h := s.homeOfLine x.line
  let sl := s.slice h.slice
  if sl.setOff h.setKey then s.writeBack rq x
  else match sl.freeWay h.setKey with
    | some w => s.modSlice h.slice fun sl => sl.insert h.setKey { x with way := w } mru
    | none =>
      match s.slotVictim x.line with
      | none => s.writeBack rq x
      | some v =>
        let s := s.writeBack rq v
        s.modSlice h.slice fun sl => (sl.remove h.setKey v.line).insert h.setKey { x with way := v.way } mru

/-- Firmware pins of a set. -/
def Slice.fwPinned (sl : Slice) (key : Nat) : Nat := ((sl.setLines key).filter fun x => x.pin == .firmware).length

/-- Pin a held line: for mainland a firmware pin, of which a set holds at most two, for anyone else a program pin of the
request's address space. At P_CAP the request acts as KEEP and is counted; a firmware pin beyond two is taken alike (R225,
R226; log 90). -/
def State.pinLine (s : State) (rq : Req) (line : Nat) : State :=
  let h := s.homeOfLine line
  let kind : PinKind := if rq.m = .fw then .firmware else .program rq.asid
  s.modSlice h.slice fun sl =>
    match sl.find h.setKey line with
    | none => sl
    | some x =>
      if x.pin != .unpinned then sl
      else if sl.pinned h.setKey < sl.pCap h.setKey && (rq.m != .fw || decide (sl.fwPinned h.setKey < 2)) then
        sl.update h.setKey line fun x => { x with pin := kind }
      else { sl with pinDemote := bump 48 sl.pinDemote }

/-- The pin of a held line ends: a dirty line is written to its channel, and it keeps its position and its dirty state
(R217, R227; log 91). -/
def State.endPin (s : State) (line : Nat) : State :=
  let h := s.homeOfLine line
  match (s.slice h.slice).find h.setKey line with
  | none => s
  | some x =>
    if x.pin = .unpinned then s
    else
      let s := s.writeBack { m := .fw } x
      s.modSlice h.slice fun sl => sl.update h.setKey line fun x => { x with pin := .unpinned }

/-- A request reaches the region of its home slice, whose spine leaves the idle clock (R300, file 09). -/
def State.spineWake (s : State) (line : Nat) : State :=
  s.modRegion ((s.homeOfLine line).slice / 8) fun r =>
    if r.spineIdle then { r with spineIdle := false, spineMhz := r.spineTherm } else r

/-- A request counted as a hit or a miss of its master class and hint (R250). -/
def State.countAccess (s : State) (rq : Req) (line : Nat) (hit : Bool) : State :=
  (s.spineWake line).modHome line fun sl =>
    let k := rq.m.ix * 4 + rq.hint % 4
    if hit then { sl with hits := put 0 sl.hits k (bump 48 (look 0 sl.hits k)) }
    else { sl with misses := put 0 sl.misses k (bump 48 (look 0 sl.misses k)) }

/-- The held line of a number at its home. -/
def State.held (s : State) (line : Nat) : Option SLine :=
  let h := s.homeOfLine line
  (s.slice h.slice).find h.setKey line

/-- The line's data at its home: the array's, else the channel's. -/
def State.homeData (s : State) (line : Nat) : SMap Byte :=
  match s.held line with | some x => x.bytes | none => s.mem.line line

/-- A read miss with this request takes the narrow path (R268). -/
def State.goesNarrow (s : State) (rq : Req) (line : Nat) : Bool :=
  let h := s.homeOfLine line
  let sl := s.slice h.slice
  rq.narrow && (rq.m == .tm || rq.m == .hub || rq.m == .fabric) &&
  (rq.hint == 2 || (rq.hint == 1 && (sl.setOff h.setKey || (sl.freeWay h.setKey).isNone)))

/-- A read at the data array under KEEP, STREAM or PIN (Table 07.3). A line with a lost codeword is not allocated, and the answer
says that there is one (R274). In a set disabled as a whole the line is served without allocation (R246). -/
def State.arrayRead (s : State) (rq : Req) (line : Nat) : Rd :=
  let h := s.homeOfLine line
  match s.held line with
  | some x =>
    let s := s.countAccess rq line true
    let s := if rq.acts = 1 then s else s.modSlice h.slice fun sl => sl.insert h.setKey x true
    ⟨if rq.acts = 3 then s.pinLine rq line else s, x.bytes, false, s.lostIn line⟩
  | none =>
    let d := s.mem.line line
    let nrw := s.goesNarrow rq line
    let s := (s.countAccess rq line false).chanRead rq line nrw
    if s.lostIn line then ⟨s, d, false, true⟩
    else if nrw then ⟨s, d, false, false⟩
    else
      let x : SLine := { line := line, bytes := d }
      let sl := s.slice h.slice
      if rq.acts = 1 then
        ⟨if (sl.freeWay h.setKey).isSome then s.allocate rq x false else s, d, false, false⟩
      else
        let s := s.allocate rq x true
        ⟨if rq.acts = 3 then s.pinLine rq line else s, d, false, false⟩

/-- Bytes merged into a line at their offsets. -/
def mergeBytes (d : SMap Byte) (ws : List (Nat × Byte)) : SMap Byte := ws.foldl (fun d w => put 0 d w.1 w.2) d

/-- The write covers the offset. -/
def covers (ws : List (Nat × Byte)) (o : Nat) : Bool := ws.any fun w => w.1 == o

/-- The write covers the whole line. -/
def coversAll (ws : List (Nat × Byte)) : Bool := (List.range 256).all (covers ws)

/-- A write at the data array (Table 07.3): a full STREAM write to an absent line goes to the channel; anything else is
allocated or updated, with a fill from the channel for the bytes it does not cover. -/
def State.arrayWrite (s : State) (rq : Req) (line : Nat) (ws : List (Nat × Byte)) : State :=
  let h := s.homeOfLine line
  let s := s.clearLost line (covers ws)
  match s.held line with
  | some x =>
    let s := s.countAccess rq line true
    let x := { x with bytes := mergeBytes x.bytes ws, dirty := true }
    let s := s.modSlice h.slice fun sl => sl.insert h.setKey x (rq.acts != 1)
    if rq.acts = 3 then s.pinLine rq line else s
  | none =>
    let s := s.countAccess rq line false
    if rq.acts = 1 && coversAll ws then s.chanWrite rq line (mergeBytes [] ws)
    else
      let d := mergeBytes (s.mem.line line) ws
      let s := if coversAll ws then s else s.chanRead rq line false
      let s := s.allocate rq { line := line, bytes := d, dirty := true } (rq.acts != 1)
      if rq.acts = 3 then s.pinLine rq line else s

/-! ### The last-use ledger (R228 to R231) -/

/-- The line's address has a ledger entry. -/
def State.inLedger (s : State) (line : Nat) : Bool := (s.slice (s.homeOfLine line).slice).ledger.contains line

/-- The entry removed by a write (R231). -/
def State.unledger (s : State) (line : Nat) : State :=
  s.modHome line fun sl => { sl with ledger := sl.ledger.filter fun l => l != line }

/-- An entry made; the oldest is overwritten and counted when 1,024 stand (R228). -/
def State.enledger (s : State) (line : Nat) : State :=
  s.modHome line fun sl =>
    let l := sl.ledger.filter (fun x => x != line)
    if l.length ≥ 1024 then { sl with ledger := l.drop 1 ++ [line], ledOver := bump 48 sl.ledOver }
    else { sl with ledger := l ++ [line] }

/-- The line dropped from the array without write-back; a pin ends with it (R223, R227). -/
def State.dropLine (s : State) (line : Nat) : State :=
  let h := s.homeOfLine line
  s.modSlice h.slice fun sl => sl.remove h.setKey line

/-- What a read of a ledger line answers (Table 07.4): host and mainland read the backing contents; a lenient queue
reads them; anyone else gets poison. The line is not in the array, so the request is a miss (R250). -/
def State.ledgerRead (s : State) (rq : Req) (line : Nat) : Rd :=
  let d := s.mem.line line
  let s := s.countAccess rq line false
  let fetch (s : State) : State := s.chanRead rq line (s.goesNarrow rq line)
  if rq.m = .host || rq.m = .fw then
    ⟨(fetch s).modHome line fun sl => { sl with ledNoctx := bump 48 sl.ledNoctx }, d, false, false⟩
  else if rq.lenient then
    ⟨(fetch s).modHome line fun sl => { sl with ledLenient := bump 48 sl.ledLenient }, d, false, false⟩
  else ⟨s.modHome line fun sl => { sl with ledPoison := bump 48 sl.ledPoison }, d, true, false⟩

/-! ### Directory entries (R234, R235, R239) -/

/-- The directory entry of a line replaced, or made as the most recently used; no check of room. -/
def Slice.putDir (sl : Slice) (dset : Nat) (e : DirEnt) : Slice :=
  { sl with dir := put [] sl.dir dset ((look [] sl.dir dset).filter (fun x => x.line != e.line) ++ [e]) }

/-- The directory entry of a line removed: state U. -/
def Slice.dropDir (sl : Slice) (dset line : Nat) : Slice :=
  { sl with dir := put [] sl.dir dset ((look [] sl.dir dset).filter fun x => x.line != line) }

/-- The directory entry of a line set. -/
def State.putDir (s : State) (e : DirEnt) : State :=
  let h := s.homeOfLine e.line
  s.modSlice h.slice fun sl => sl.putDir h.dirSet e

/-- The directory entry of a line removed. -/
def State.dropDir (s : State) (line : Nat) : State :=
  let h := s.homeOfLine line
  s.modSlice h.slice fun sl => sl.dropDir h.dirSet line

/-- The directory set of the line has no enabled entry: the line is uncacheable (R247). -/
def State.uncacheable (s : State) (line : Nat) : Bool :=
  let h := s.homeOfLine line
  decide (16 ≤ look 0 (s.slice h.slice).dirOff h.dirSet)

/-- Directory entries of a set that are enabled. -/
def Slice.dirWays (sl : Slice) (dset : Nat) : Nat := 16 - look 0 sl.dirOff dset

/-- A use of the directory entry of a line: it becomes the most recently used (R239; log 92). -/
def State.touchDir (s : State) (line : Nat) : State :=
  match s.dirEnt line with
  | some e => s.putDir e
  | none => s

/-- The entry that a new one replaces in a full directory set: the least recently used that is not BUSY (R239). -/
def State.dirVictim (s : State) (line : Nat) : Option DirEnt :=
  let h := s.homeOfLine line
  let sl := s.slice h.slice
  let es := look [] sl.dir h.dirSet
  if es.length < sl.dirWays h.dirSet then none else es.find? fun e => e.txn.isNone

/-- The line whose transaction must close before a request for `line` can be served: in a directory set whose entries are all
BUSY, or in a set of the data array whose candidate ways all have an open transaction, the first of them (R224, R239). -/
def State.blocker (s : State) (line : Nat) : Option Nat :=
  let h := s.homeOfLine line
  let sl := s.slice h.slice
  let es := look [] sl.dir h.dirSet
  if (s.dirEnt line).isNone && !s.uncacheable line && decide (sl.dirWays h.dirSet ≤ es.length) && (s.dirVictim line).isNone then
    (es.find? fun e => e.line != line).map DirEnt.line
  else if (s.held line).isNone && !sl.setOff h.setKey && (sl.freeWay h.setKey).isNone && (s.slotVictim line).isNone then
    ((sl.setLines h.setKey).find? fun y => y.pin == .unpinned).map SLine.line
  else none

end Sys2Proof.Machine
end

