-- ==== Sys2Proof/Machine/Coherence.lean ====
section
/-! DEFINITION. Cluster caches and the directory protocol between them and the home slices (R191 to R197, file 06; R234 to
R240, file 07), the undo logs and producer records of writes (R419, R431, file 12), guard shadows (R357, file 10), and the
accesses performed at a home slice. -/

namespace Sys2Proof.Machine

/-! ### Cluster-cache lines -/

/-- The set of a line among the 1,024 of a cluster cache: its low line-address bits (R191; log 12). -/
def ccSet (line : Nat) : Nat := line % 1024

/-- The lines of a set of a cluster cache, the eviction end first. -/
def Cluster.ccLines (c : Cluster) (k : Nat) : List CcLine := look [] c.cc k

/-- A line of a cluster cache; none in state I. -/
def State.cc (s : State) (cl line : Nat) : Option CcLine :=
  ((s.cluster cl).ccLines (ccSet line)).find? fun x => x.line == line

/-- A line put into its set: a held one in its place, a new one at the most-recently-used position. -/
def ccPlace (x : CcLine) : List CcLine → List CcLine
  | [] => [x]
  | y :: r => if y.line = x.line then x :: r else y :: ccPlace x r

/-- A line of a cluster cache set, or dropped to I. -/
def State.putCc (s : State) (cl line : Nat) (x : Option CcLine) : State :=
  s.modCluster cl fun c =>
    { c with cc := put [] c.cc (ccSet line) (match x with
        | some x => ccPlace { x with line := line } (c.ccLines (ccSet line))
        | none => (c.ccLines (ccSet line)).filter fun y => y.line != line) }

/-- A held line moved to the most-recently-used position of its set, or with `mru` false to the eviction end. -/
def State.moveCc (s : State) (cl line : Nat) (mru : Bool) : State :=
  match s.cc cl line with
  | none => s
  | some x => s.modCluster cl fun c =>
      let r := (c.ccLines (ccSet line)).filter fun y => y.line != line
      { c with cc := put [] c.cc (ccSet line) (if mru then r ++ [x] else x :: r) }

/-- Ways of a cluster-cache set (R191). -/
def ccWays : Nat := 16

/-- A cluster's requests to its home slice above carry the owner tag where the line lies in the private slice of one of its cores
(R293). -/
def State.ownerTag (s : State) (cl line : Nat) : Bool :=
  dpaKind (line * 256) == 0 && (s.coresOfCluster cl).any fun l => (s.lcore l).channel == some (dpaChan (line * 256))

/-- The request of a cluster cache with a hint for an address space. -/
def State.ccReq (s : State) (cl line hint asid : Nat) (lenient : Bool) : Req :=
  { m := .core, hint := hint, asid := asid, lenient := lenient, owner := s.ownerTag cl line }

/-- The clusters that hold a line in state P. -/
def State.pHolders (s : State) (line : Nat) : List Nat :=
  (List.range 64).filter fun cl => match s.cc cl line with | some x => x.st == .pend | none => false

/-- Bytes of `d` at the offsets that a mask names, over the bytes of `base`. -/
def overlay (base d : SMap Byte) (mask : BitVec 256) : SMap Byte :=
  (List.range 256).foldl (fun b o => if bitAt mask o then put 0 b o (look 0 d o) else b) base

/-- Only the bytes that a mask names. -/
def maskBytes (d : SMap Byte) (mask : BitVec 256) : SMap Byte := overlay [] d mask

/-- The value of a line as the package sees it: the modified copy of its owner, else the home's data. -/
def State.lineValue (s : State) (line : Nat) : SMap Byte :=
  match s.dirEnt line with
  | some { st := .owned y, .. } =>
    match s.cc y line with
    | some x => if x.st = .modified then x.bytes else s.homeData line
    | none => s.homeData line
  | _ => s.homeData line

/-! ### Undo logs and producer records (R418 to R420, R431, file 12) -/

/-- A 256-byte image as a list. -/
def imageOf (d : SMap Byte) : List Byte := (List.range 256).map (look 0 d)

/-- The line of the firmware range of a channel at an offset of 256 bytes (Table 08.3). -/
def fwLine (ch k : Nat) : Nat := ((ch / 72) * 2 ^ 41 + 3 * 2 ^ 39 + ch % 72 * 2 ^ 30 + 256 * k) / 256

/-- The image of undo entry `k` of a core written into the firmware range of its channel under a firmware pin; the entry
1,024 before it loses its pin (R226, R419; log 90). -/
def State.undoPin (s : State) (l k : Nat) (image : Option (List Byte)) : State :=
  match (s.lcore l).channel, image with
  | some ch, some im =>
    if !s.inService ch then s
    else
      let s := s.arrayWrite { m := .fw, hint := 3 } (fwLine ch k) (im.mapIdx fun o b => (o, b))
      if k < 1024 then s else s.endPin (fwLine ch (k - 1024))
  | _, _ => s

/-- The entries of the pre-empted task's log, which stand before those of the running task in the firmware range (log 90). -/
def Core.undoBase (c : Core) : Nat := match c.frame with | some f => f.undo.length | none => 0

/-- An entry added to a logical core's undo log with the package's next stamp. -/
def State.undoPush (s : State) (l line : Nat) (image : Option (List Byte)) (lastUse : Bool) : State :=
  let k := (s.core l).undoBase + (s.core l).undo.length
  let s := s.modCore l fun c =>
    { c with undo := c.undo ++ [{ line := line, image := image, stamp := s.stamp, lastUse := lastUse }] }
  { s with stamp := s.stamp + 1 }.undoPin l k image

/-- The firmware pins of the `n` entries of an undo log from entry `lo` on end as the log is discarded (R226). -/
def State.undoUnpin (s : State) (l lo n : Nat) : State :=
  match (s.lcore l).channel with
  | some ch => if s.inService ch then (List.range (min n 1024)).foldl (fun s i => s.endPin (fwLine ch (lo + n - 1 - i))) s else s
  | none => s

/-- The undo log of a core's running task discarded (R226, R419). -/
def State.undoDrop (s : State) (l : Nat) : State :=
  (s.undoUnpin l (s.core l).undoBase (s.core l).undo.length).modCore l fun c => { c with undo := [], undoSeen := [] }

/-- The undo log of a core is full (R420). -/
def State.undoFull (s : State) (l : Nat) : Bool := decide (11904 ≤ (s.core l).undo.length)

/-- A virtual address lies in an in-place range of the task of core `l`. -/
def State.inRange (s : State) (l va : Nat) : Bool :=
  match (s.core l).task with
  | some t => t.ranges.any fun r => decide (r.base ≤ va) && decide (va < r.base + r.len)
  | none => false

/-- Line bytes from an image. -/
def ofImage (bs : List Byte) : SMap Byte := putBytes [] 0 bs

/-- The first write of a task to a line of its ranges is to be logged (once per line and run). -/
def State.needsUndo (s : State) (l line va : Nat) : Bool := s.inRange l va && !(s.core l).undoSeen.contains line

/-- The line noted as logged in this run. -/
def State.undoMark (s : State) (l line : Nat) : State := s.modCore l fun c => { c with undoSeen := c.undoSeen ++ [line] }

/-- The producer record of a frame after a write: a writer of the listed kinds names itself, and the same descriptor's
record widens its task indices; any other writer leaves it unrecomputable (R431). -/
def State.produce (s : State) (line : Nat) (w : Option (Nat × Nat × Nat)) : State :=
  let fr := line / 8192
  let old := look {} s.producers fr
  let new : Producer := match w with
    | none => { old with ok := false }
    | some (q, d, i) =>
      if old.ok && old.queue = q && old.desc = d then { old with lo := min old.lo i, hi := max old.hi i }
      else { queue := q, desc := d, lo := i, hi := i, ok := true }
  { s with producers := put {} s.producers fr new }

/-- The producer that a plain store of core `l`'s task names: its launch, if that launch has no in-place range. -/
def State.taskProducer (s : State) (l : Nat) : Option (Nat × Nat × Nat) :=
  match (s.core l).task with
  | some t => if t.ranges.isEmpty then some (t.queue, t.desc, t.index) else none
  | none => none

/-! ### Guard shadows (R356, R357, file 10) -/

/-- The guarded page number of a device physical page, found through the leaves of the guarded address space. -/
def State.guardedPage (s : State) (a : Nat) : Option Nat :=
  let g := s.fab.guard
  if !(g.joined || (g.setup && g.phase != .idle)) then none
  else (s.ptes.find? fun p =>
      p.1 / 2 ^ 36 == g.asid * 4 + 3 && bitAt p.2 0 && bitAt p.2 1 && bitAt p.2 6 && fld p.2 7 2 == 0 &&
      fld p.2 16 28 == a / 65536 &&
      decide (g.base ≤ p.1 % 2 ^ 36 * 65536) && decide (p.1 % 2 ^ 36 * 65536 < g.base + g.size)).map
    fun p => p.1 % 2 ^ 36 - g.base / 65536

/-- The 64 KiB content of a device physical page as the package sees it. -/
def State.pageValue (s : State) (page : Nat) : List Byte :=
  (List.range 256).flatMap fun i => imageOf (s.lineValue (page * 256 + i))

/-- The key of a shadow: generation and guarded page. -/
def shadowKey (gen j : Nat) : Nat := gen * 2 ^ 36 + j

/-- Before a write to a line of a data package: a guarded page first touched after point g has its content copied into a shadow of
generation g. The answer is none where the pool is full, which ends the write's work with CAPACITY_SHORT (R357). -/
def State.shadowTouch (s : State) (line : Nat) : Option State :=
  match s.guardedPage (line * 256) with
  | none => some s
  | some j =>
    let g := s.fab.guard
    let k := shadowKey g.gen j
    if g.k ≤ g.role || !(look [] g.shadows k).isEmpty then some s
    else if g.shadowMib * 16 ≤ g.shadows.length then none
    else
      let pg := s.pageValue (line / 256)
      some { s with fab := { s.fab with guard := { g with shadows := put [] g.shadows k pg } } }

/-! ### Messages (R236, R237) -/

/-- The line a message is about. -/
def CohMsg.line (m : CohMsg) : Nat :=
  match m with | .inv l _ => l | .recall l _ _ => l | .ack l _ => l | .grant l _ => l | .done l _ => l

/-- The cluster cache a message comes from or goes to. -/
def CohMsg.cl (m : CohMsg) : Nat :=
  match m with | .inv _ c => c | .recall _ c _ => c | .ack _ c => c | .grant _ c => c | .done _ c => c

/-- The protocol channel of a message: recalls and invalidations travel in FWD, the others in RSP (R295). -/
def CohMsg.chan (m : CohMsg) : Nat := match m with | .inv _ _ => 1 | .recall _ _ _ => 1 | _ => 2

/-- A message sent between a home slice and a cluster cache, in the class of the request that causes it (R236, R309, R316).
A grant carries the line. -/
def State.sendAs (s : State) (cls : Nat) (m : CohMsg) : State :=
  let k := (s.homeOfLine m.line).slice
  let up := match m with | .ack _ _ => true | _ => false
  s.netSend { coh := some m, cls := cls, chan := m.chan, bytes := (match m with | .grant _ _ => 256 | _ => 0),
              src := if up then m.cl else 64 + k, dst := if up then 64 + k else m.cl,
              inp := if up then 9 else 13,
              path := if up then s.pathUp m.cl k else s.pathDown k m.cl }

/-- A message that a cluster cache's request causes. -/
def State.send (s : State) (m : CohMsg) : State := s.sendAs 1 m

/-- The bytes of a modified line that its write-back writes: all, but where a codeword of the line is lost only those merged. -/
def State.wbBytes (s : State) (line : Nat) (x : CcLine) : List (Nat × Byte) :=
  ((List.range 256).filter fun o => !s.lostIn line || bitAt x.dirty o).map fun o => (o, look 0 x.bytes o)

/-- A cluster cache gives up or keeps clean its copy of a line, answering a recall or an invalidation. `wb`: a modified
copy is written back to the slice; `keep`: the copy stays in S. Bytes of a line in P stay merged. -/
def State.ccYield (s : State) (cl line : Nat) (wb keep : Bool) : State :=
  match s.cc cl line with
  | none => s
  | some x =>
    let s := s.modCluster cl fun c =>
      { c with ccRecall := bump 48 c.ccRecall, ccWb := if wb && x.st == .modified then bump 48 c.ccWb else c.ccWb }
    let s := if wb && x.st == .modified then s.arrayWrite (s.ccReq cl line x.hint x.pinAsid false) line (s.wbBytes line x) else s
    if x.st = .pend then s.putCc cl line (some { x with bytes := maskBytes x.bytes x.dirty })
    else s.putCc cl line (if keep then some { x with st := .shared, dirty := 0, atDie := false, atPkg := false } else none)

/-- The directory forgets an owner that no longer holds the line; an open transaction goes on (R236). -/
def State.ownerGone (s : State) (cl line : Nat) : State :=
  match s.dirEnt line with
  | some e => if e.st = .owned cl && e.txn.isNone then s.dropDir line else s
  | none => s

/-- A line leaves a cluster cache: an M line is written back, and the directory of an M or E line is told; an S line leaves
without notice, and a line in P stays (R192, R234). -/
def State.ccEvict (s : State) (cl line : Nat) : State :=
  match s.cc cl line with
  | none => s
  | some x =>
    match x.st with
    | .modified =>
      let s := s.arrayWrite (s.ccReq cl line x.hint x.pinAsid false) line (s.wbBytes line x)
      let s := s.modCluster cl fun c => { c with ccWb := bump 48 c.ccWb }
      (s.putCc cl line none).ownerGone cl line
    | .exclusive => (s.putCc cl line none).ownerGone cl line
    | .shared => s.putCc cl line none
    | .pend => s

/-- The set of a line holds 16 others. -/
def State.ccFull (s : State) (cl line : Nat) : Bool :=
  (s.cc cl line).isNone && decide (ccWays ≤ ((s.cluster cl).ccLines (ccSet line)).length)

/-- Room for a line in its set of a cluster cache: in a full set the line at the eviction end that is not in P leaves (R191;
log 12). -/
def State.ccRoom (s : State) (cl line : Nat) : State :=
  if !s.ccFull cl line then s
  else match ((s.cluster cl).ccLines (ccSet line)).find? fun x => x.st != .pend with
    | some v => s.ccEvict cl v.line
    | none => s

/-- A directory entry is about to be made for a line: in a full set the victim's copies are recalled with write-back of
modified data, and SLC_DIR_RECALL counts it (R239). -/
def State.dirRoom (s : State) (line : Nat) : State :=
  match s.dirVictim line with
  | none => s
  | some v =>
    let holders := match v.st with
      | .shared sh => maskList 64 sh.toNat
      | .owned y => [y]
    let s := holders.foldl (fun s c => s.ccYield c v.line true false) s
    let s := s.dropDir v.line
    s.modHome line fun sl => { sl with dirRecall := bump 48 sl.dirRecall }

/-- Room made and the entry of a line set. -/
def State.setDir (s : State) (e : DirEnt) : State :=
  let s := if (s.dirEnt e.line).isSome then s else s.dirRoom e.line
  s.putDir e

/-- The line delivered to a cluster cache by a READ: at the eviction end for STREAM, else at the most-recently-used position
(R192, R193). A line that it holds already stays as it is. Where every line of the set waits for ownership nothing is
allocated, and the home learns that an exclusive copy is not held. -/
def State.fillCc (s : State) (cl line : Nat) (st : CcSt) (d : SMap Byte) (hint asid : Nat) : State :=
  if (s.cc cl line).isSome then s
  else
    let s := s.ccRoom cl line
    if s.ccFull cl line then (if st = .exclusive then s.ownerGone cl line else s)
    else (s.putCc cl line (some { st := st, bytes := d, hint := hint, pinAsid := asid })).moveCc cl line (hint != 1)

/-- A READ performed at the home directory for an entry that is not BUSY (Table 07.6). A read that hits the ledger, that
reaches a lost codeword or whose line is uncacheable allocates nothing in the cluster cache. -/
def State.readHome (s : State) (cl line hint asid : Nat) (lenient : Bool) : Rd :=
  let rq := s.ccReq cl line hint asid lenient
  if s.inLedger line then s.ledgerRead rq line
  else if s.uncacheable line then s.arrayRead rq line
  else match s.dirEnt line with
    | none =>
      let r := s.arrayRead rq line
      if r.lost then r
      else ⟨(r.s.setDir { line := line, st := .owned cl }).fillCc cl line .exclusive r.data hint asid, r.data, false, false⟩
    | some e =>
      match e.st with
      | .shared sh =>
        let r := s.arrayRead rq line
        if r.lost then r
        else ⟨(r.s.setDir { e with st := .shared (sh ||| BitVec.ofNat 64 (2 ^ cl)) }).fillCc cl line .shared r.data hint asid,
          r.data, false, false⟩
      | .owned y =>
        if y = cl then
          let r := (s.touchDir line).arrayRead rq line
          if r.lost then r else ⟨r.s.fillCc cl line .exclusive r.data hint asid, r.data, r.poison, false⟩
        else
          let t : Txn := { r := { kind := .read, cl := cl, hint := hint, asid := asid, lenient := lenient }, waiting := [y],
                           recalling := true, sharers := BitVec.ofNat 64 (2 ^ cl ||| 2 ^ y) }
          ⟨(s.setDir { e with txn := some t }).send (.recall line y true), [], false, false⟩

/-- Merged bytes of a line whose directory set has no enabled entry: they are written at the home slice, and the line leaves the
cluster cache (R247). -/
def State.writeUncached (s : State) (cl line : Nat) : State :=
  match s.cc cl line with
  | none => s
  | some x =>
    let s := x.loggers.foldl (fun s l => s.undoPush l line (some (imageOf (s.homeData line))) false) s
    let ws := ((List.range 256).filter (bitAt x.dirty)).map fun o => (o, look 0 x.bytes o)
    (s.arrayWrite (s.ccReq cl line x.hint x.pinAsid false) line ws).putCc cl line none

/-- An OWN performed at the home directory for an entry that is not BUSY (Table 07.6, R237). -/
def State.ownHome (s : State) (cl line hint asid : Nat) : State :=
  let s := s.unledger line
  let rq := s.ccReq cl line hint asid false
  let now (s : State) : State :=
    let s := (s.arrayRead rq line).s
    ((s.setDir { line := line, st := .owned cl }).send (.grant line cl)).send (.done line cl)
  let req : CohReq := { kind := .own, cl := cl, hint := hint, asid := asid }
  if s.uncacheable line then s.writeUncached cl line
  else match s.dirEnt line with
  | none => now s
  | some e =>
    match e.st with
    | .shared sh =>
      let others := (maskList 64 sh.toNat).filter (· != cl)
      if others.isEmpty then now s
      else
        let s := (s.arrayRead rq line).s
        let local_ := others.filter fun c => dieOfCluster c == dieOfCluster cl
        let t : Txn := { r := req, waiting := others, granted := local_.isEmpty }
        let s := s.setDir { e with txn := some t }
        let s := others.foldl (fun s c => s.send (.inv line c)) s
        if local_.isEmpty then s.send (.grant line cl) else s
    | .owned y =>
      if y = cl then now s
      else
        let t : Txn := { r := req, waiting := [y], recalling := true }
        (s.setDir { e with txn := some t }).send (.recall line y false)

/-! ### Requests of other masters (Table 07.6, R229, R238) -/

/-- What a request of a master carries to the data array. -/
def CohReq.rq (r : CohReq) : Req :=
  { m := r.m, hint := r.hint, asid := r.asid, lenient := r.lenient, narrow := r.narrow }

/-- The slice signals a writer that its write is performed at die scope, or with `pkg` at package scope (R238). -/
def State.signalWriter (s : State) (line : Nat) (pkg : Bool) : State :=
  s.modHome line fun sl => { sl with signal := some (line, pkg) }

/-- Before a write to a line of a data package its guarded page gets its shadow; where the pool is full the write is not
performed (R357). -/
def State.sliceStore (s : State) (r : CohReq) (line : Nat) : State :=
  match s.shadowTouch line with
  | none => s
  | some s => (((s.unledger line).arrayWrite r.rq line r.data).produce line none).signalWriter line true

/-- A LASTUSE read as every copy is gone: the slice's copy is dropped without write-back, and the address enters the ledger; the
image that an undo log takes is its caller's (R223, R229). -/
def State.sliceLast (s : State) (r : CohReq) (line : Nat) : State :=
  let rq := { r.rq with hint := 2 }
  let hit := (s.held line).isSome
  let s := s.countAccess rq line hit
  let s := if hit then s else s.chanRead rq line (s.goesNarrow rq line)
  if s.lostIn line then s else (s.dropLine line).enledger line

/-- The caches that a request of a master is to recall or to invalidate. -/
def DirEnt.holders (e : DirEnt) : List Nat :=
  match e.st with | .owned y => [y] | .shared sh => maskList 64 sh.toNat

/-- The request of a master performed: every copy it had to end has ended. -/
def State.sliceDo (s : State) (r : CohReq) (line : Nat) : State :=
  match r.kind with
  | .swrite => s.sliceStore r line
  | .last => if s.inLedger line then (s.ledgerRead { r.rq with hint := 2 } line).s else s.sliceLast r line
  | _ => if s.inLedger line then (s.ledgerRead r.rq line).s else (s.arrayRead r.rq line).s

/-- A request of a master that is no cluster cache, or a LASTUSE read, at an entry that is not BUSY: a read recalls an owner to S; a
write or a LASTUSE read invalidates every sharer or recalls the owner to I. With no copy to end it is performed at once. -/
def State.sliceHome (s : State) (r : CohReq) (line : Nat) : State :=
  match s.dirEnt line with
  | none => s.sliceDo r line
  | some e =>
    let keep := r.kind == .sread
    match keep, e.st with
    | true, .shared _ => (s.touchDir line).sliceDo r line
    | _, st =>
      let ws := e.holders
      if ws.isEmpty then (s.dropDir line).sliceDo r line
      else
        let owned := match st with | .owned _ => true | .shared _ => false
        let t : Txn := { r := r, waiting := ws, recalling := owned, sharers := BitVec.ofNat 64 (maskOf ws) }
        let s := s.putDir { e with txn := some t }
        ws.foldl (fun s c => s.sendAs r.m.cls (if owned then .recall line c keep else .inv line c)) s

/-- A request at the home slice for an entry that is not BUSY. -/
def State.serveHome (s : State) (r : CohReq) (line : Nat) : State :=
  match r.kind with
  | .read => (s.readHome r.cl line r.hint r.asid r.lenient).s
  | .own => s.ownHome r.cl line r.hint r.asid
  | _ => s.sliceHome r line

/-- Requests that waited for the line run in their order until one opens a transaction (R218). -/
def State.serveWaiting (s : State) (line : Nat) : List CohReq → State
  | [] => s
  | w :: ws =>
    if s.lineBusy line then
      match s.dirEnt line with
      | some e => s.putDir { e with waiting := e.waiting ++ (w :: ws) }
      | none => s
    else (s.serveHome w line).serveWaiting line ws

/-- The transaction of an entry closes: the entry takes its final state, U where `st` is none, and waiting requests are served. -/
def State.closeTxn (s : State) (e : DirEnt) (st : Option DirSt) : State :=
  let s := match st with
    | some st => s.setDir { e with st := st, txn := none, waiting := [] }
    | none => s.dropDir e.line
  s.serveWaiting e.line e.waiting

/-- The class of the open transaction of a line, in which its acknowledgements travel (R309). -/
def State.txnClass (s : State) (line : Nat) : Nat :=
  match s.dirEnt line with
  | some { txn := some t, .. } => t.r.m.cls
  | _ => 1

/-- The copy that a cluster cache returns for a recall is written back, but for the recall of a LASTUSE read (R229). -/
def State.keepsData (s : State) (line : Nat) : Bool :=
  match s.dirEnt line with
  | some { txn := some t, .. } => t.r.kind != .last
  | _ => true

/-- A cluster cache receives an invalidation and acknowledges it at once (R234). At the vertical port of a cluster in partition
reset the port acknowledges without data (R317). -/
def State.takeInv (s : State) (line cl : Nat) : State := (s.ccYield cl line false false).sendAs (s.txnClass line) (.ack line cl)

/-- A cluster cache receives a recall, returns its copy and acknowledges. -/
def State.takeRecall (s : State) (line cl : Nat) (keep : Bool) : State :=
  (s.ccYield cl line (s.keepsData line) keep).sendAs (s.txnClass line) (.ack line cl)

/-- A cluster cache holds a line in M or E, or its grant is on its way. -/
def State.holdsOwn (s : State) (cl line : Nat) : Bool :=
  s.net.coh.contains (.grant line cl) ||
  match s.cc cl line with | some x => x.st == .modified || x.st == .exclusive | none => false

/-- The home slice receives an acknowledgement: the grant goes out when every cache on the requester's die has
acknowledged and the line is at the slice, and the completion when every cache has; a line that its new owner has written back
meanwhile ends in U (R236, R237). A write of another master is performed at die scope once the caches of the home's die have
acknowledged, and at package scope once all have (R238; log 93). -/
def State.takeAck (s : State) (line cl : Nat) : State :=
  match s.dirEnt line with
  | none => s
  | some e =>
    match e.txn with
    | none => s
    | some t =>
      let w := t.waiting.erase cl
      let x := t.r.cl
      match t.r.kind with
      | .read =>
        if w.isEmpty then
          let r := s.arrayRead (s.ccReq x line t.r.hint t.r.asid t.r.lenient) line
          if r.lost then r.s.closeTxn e (some (.shared (t.sharers &&& ~~~(BitVec.ofNat 64 (2 ^ x)))))
          else (r.s.fillCc x line .shared r.data t.r.hint t.r.asid).closeTxn e (some (.shared t.sharers))
        else s.putDir { e with txn := some { t with waiting := w } }
      | .own =>
        let ready := if t.recalling then w.isEmpty else !w.any fun c => dieOfCluster c == dieOfCluster x
        let s := if ready && !t.granted then
            (if t.recalling then (s.arrayRead (s.ccReq x line t.r.hint t.r.asid false) line).s else s).send (.grant line x)
          else s
        if w.isEmpty then
          let s := s.send (.done line x)
          s.closeTxn e (if s.holdsOwn x line then some (.owned x) else none)
        else s.putDir { e with txn := some { t with waiting := w, granted := t.granted || ready } }
      | kind =>
        let home := (s.homeOfLine line).slice
        let atDie := t.atDie || !w.any fun c => dieOfCluster c == dieOfCluster home
        let s := if kind = .swrite && atDie && !t.atDie then s.signalWriter line false else s
        if w.isEmpty then
          if kind = .sread then (s.sliceDo t.r line).closeTxn e (some (.shared t.sharers))
          else ((s.dropDir line).sliceDo t.r line).serveWaiting line e.waiting
        else s.putDir { e with txn := some { t with waiting := w, atDie := atDie } }

/-- A cluster cache receives ownership with the full line: the merged bytes stand over it and the line passes from P to
M. The undo logs that wait for this line take the value that the grant brings; a lost codeword that the merged bytes cover is
lost no more (R192, R236, R419, R429). -/
def State.takeGrant (s : State) (line cl : Nat) : State :=
  match s.cc cl line with
  | none => s
  | some x =>
    if x.st != .pend then s
    else
      let home := s.homeData line
      let s := x.loggers.foldl (fun s l => s.undoPush l line (some (imageOf home)) false) s
      (s.putCc cl line (some { x with st := .modified, bytes := overlay home x.bytes x.dirty, atDie := true, loggers := [],
                                      asked := false })).clearLost line (bitAt x.dirty)

/-- A cluster cache learns that every cache has acknowledged: its write is performed at package scope (R237). -/
def State.takeDone (s : State) (line cl : Nat) : State :=
  match s.cc cl line with
  | none => s
  | some x => s.putCc cl line (some { x with atPkg := true })

/-- A message arrives. -/
def State.deliver (s : State) (m : CohMsg) : State :=
  let s := s.unsend m
  match m with
  | .inv l c => s.takeInv l c
  | .recall l c k => s.takeRecall l c k
  | .ack l c => s.takeAck l c
  | .grant l c => s.takeGrant l c
  | .done l c => s.takeDone l c

/-- The messages about a line delivered, oldest first, until none is left, at most `fuel` of them. A transaction of another line
that keeps this one from its room in the directory or in the data array runs first. -/
def State.settleN (s : State) (line : Nat) : Nat → State
  | 0 => s
  | fuel + 1 =>
    match s.net.coh.find? fun m => m.line == line with
    | none => s
    | some m =>
      let s := match s.blocker line with
        | some o => s.settleN o fuel
        | none => s
      (s.deliver m).settleN line fuel

/-- The line's open transactions run to their end. One round of a transaction has at most 64 invalidations, as many
acknowledgements, a grant and a completion; at most 64 requests can wait. -/
def State.settle (s : State) (line : Nat) : State := s.settleN line 8576

/-- A request for a line can be served: what keeps it from a directory entry or a way has closed (R224, R239). -/
def State.unblock (s : State) (line : Nat) : State :=
  match s.blocker line with
  | some o => s.settle o
  | none => s

/-- A cluster cache's pending line gets its ownership and every acknowledgement now. -/
def State.ownNow (s : State) (cl line : Nat) : State :=
  let s := s.settle line
  match s.cc cl line with
  | some x => if x.st = .pend then ((s.unblock line).ownHome cl line x.hint x.pinAsid).settle line else s
  | none => s

/-- Room for a line that a store or an atomic is about to bring into a cluster cache: where every line of its set waits for
ownership, the one at the eviction end gets it first (R191, R192; log 12). -/
def State.ccSpace (s : State) (cl line : Nat) : State :=
  let s := s.ccRoom cl line
  if !s.ccFull cl line then s
  else match (s.cluster cl).ccLines (ccSet line) with
    | v :: _ => (s.ownNow cl v.line).ccRoom cl line
    | [] => s

/-- The lines of a cluster cache whose writes are not yet performed at package scope: those in P, and those in M whose completion
is outstanding (R192, R199, R237). -/
def Cluster.unperformed (c : Cluster) : List Nat :=
  c.cc.flatMap fun p => (p.2.filter fun x => x.st == .pend || (x.st == .modified && !x.atPkg)).map CcLine.line

/-- Every write that a cluster cache has accepted performed at package scope: what a release at die, package or system
scope waits for (R201; log 11). -/
def State.drainCluster (s : State) (cl : Nat) : State :=
  (s.cluster cl).unperformed.foldl (fun s line => s.ownNow cl line) s

/-! ### Accesses at the home slice by masters other than a cluster cache's READ and OWN (Table 07.6) -/

/-- Before a read: an owner's copy is recalled to S (R236). -/
def State.dirForRead (s : State) (line : Nat) : State :=
  let s := s.settle line
  match s.dirEnt line with
  | some e =>
    match e.st with
    | .owned y => (s.ccYield y line true true).putDir { e with st := .shared (BitVec.ofNat 64 (2 ^ y)) }
    | .shared _ => s.touchDir line
  | none => s

/-- Before a write: every copy is invalidated, a modified one written back, and the entry ends in U (R236, R238). -/
def State.dirForWrite (s : State) (line : Nat) : State :=
  let s := s.settle line
  match s.dirEnt line with
  | some e =>
    match e.st with
    | .owned y => (s.ccYield y line true false).dropDir line
    | .shared sh => ((maskList 64 sh.toNat).foldl (fun s c => s.ccYield c line false false) s).dropDir line
  | none => s

/-- Before an atomic of die, package or system scope: pending and modified copies are first written back, then every
copy is invalidated (Table 06.4). -/
def State.dirForAtomic (s : State) (line : Nat) : State :=
  ((s.pHolders line).foldl (fun s c => s.ownNow c line) s).dirForWrite line

/-- What an atomic at the home slice meets on `n` bytes from offset `o` of a line, as `lossIn` answers. -/
def State.atomicLoss (s : State) (line o n : Nat) : Option Bool := (s.dirForAtomic line).lossIn line o n 0

/-- A read performed at the home slice (R230, R236). -/
def State.homeRead (s : State) (rq : Req) (line : Nat) : Rd :=
  let s := (s.dirForRead line).unblock line
  if s.inLedger line then s.ledgerRead rq line else s.arrayRead rq line

/-- A LASTUSE read: the current value is returned, every copy is invalidated without write-back, the slice's copy is
dropped, and the address enters the ledger. A line in the ledger already answers as any read of it. The undo log of the
task takes the image of a dirty line, or the address of a clean one. `o`, `n`: the bytes read (R223, R229, R236, R419). -/
def State.lastUseRead (s : State) (rq : Req) (line o n : Nat) (task : Option Nat) : Rd :=
  let s := s.settle line
  if s.inLedger line then s.ledgerRead { rq with hint := 2 } line
  else
    let rq := { rq with hint := 2 }
    let owner := match s.dirEnt line with | some { st := .owned y, .. } => some y | _ => none
    let copy := owner.bind fun y => (s.cc y line).filter fun x => x.st == .modified
    let modified := copy.isSome
    let d := s.lineValue line
    let hit := (s.held line).isSome
    let dirty := modified || (match s.held line with | some x => x.dirty | none => false)
    let lost := (s.lossIn line o n (match copy with | some x => x.dirty | none => 0)).isSome
    let s := s.countAccess rq line hit
    let s := if hit || modified then s else s.chanRead rq line (s.goesNarrow rq line)
    if lost then ⟨s, d, false, true⟩
    else
      let s := match task with
        | some l => s.undoPush l line (if dirty then some (imageOf d) else none) true
        | none => s
      let s := match s.dirEnt line with
        | some e => (match e.st with
          | .owned y => s.ccYield y line false false
          | .shared sh => (maskList 64 sh.toNat).foldl (fun s c => s.ccYield c line false false) s).dropDir line
        | none => s
      ⟨(s.dropLine line).enledger line, d, false, false⟩

/-- The outcome of a write at a home slice: the state, and whether the shadow pool was full, so that nothing was
written (R357). -/
structure Wr where
  /-- the state after the write -/
  s : State
  /-- no room for a shadow: the work ends with CAPACITY_SHORT -/
  short : Bool := false

/-- A write performed at the home slice: shadow, directory, ledger entry removed, producer record, data (R231, R236,
R238, R357, R431). -/
def State.homeWrite (s : State) (rq : Req) (line : Nat) (ws : List (Nat × Byte)) (w : Option (Nat × Nat × Nat)) : Wr :=
  match s.shadowTouch line with
  | none => ⟨s, true⟩
  | some s =>
    let s := ((s.dirForWrite line).unblock line).unledger line
    ⟨(s.arrayWrite rq line ws).produce line w, false⟩

/-- The outcome of an atomic at a home slice. -/
structure At where
  /-- the state after the atomic -/
  s : State
  /-- the line as the atomic found it -/
  data : SMap Byte
  /-- poisoned, and not performed (R230) -/
  poison : Bool := false
  /-- no room for a shadow -/
  short : Bool := false

/-- An atomic performed at the home slice; it acts as KEEP and counts under its hint. `ret`: it returns the old value, so a ledger entry poisons it
unless its queue is lenient or it is the host's; without return it is performed on the backing contents. `f` gives the
bytes written from the line found (R197, R230, R231, Table 07.3). -/
def State.homeAtomic (s : State) (rq : Req) (line : Nat) (ret : Bool) (f : SMap Byte → List (Nat × Byte)) : At :=
  let s := (s.dirForAtomic line).unblock line
  let rq := { rq with atomic := true }
  if s.inLedger line && ret && rq.m != .host && !rq.lenient then
    let r := s.ledgerRead rq line
    ⟨r.s, r.data, true, false⟩
  else
    match s.shadowTouch line with
    | none => ⟨s, [], false, true⟩
    | some s =>
      let s := if s.inLedger line then
          s.modHome line fun sl =>
            if rq.m = .host then { sl with ledNoctx := bump 48 sl.ledNoctx } else { sl with ledLenient := bump 48 sl.ledLenient }
        else s
      let s := s.unledger line
      let d := s.homeData line
      ⟨(s.arrayWrite rq line (f d)).produce line none, d, false, false⟩

/-- An UNPIN, taken in its turn on the line: a program pin of the line ends (R218, R227, R251). -/
def State.unpinLine (s : State) (line : Nat) : State :=
  let s := s.settle line
  match s.held line with
  | some { pin := .program _, .. } => s.endPin line
  | _ => s

end Sys2Proof.Machine
end

