-- ==== Sys2Proof/Machine/Issue.lean ====
section
/-! DEFINITION. Issue of a core instruction (chapters 04 and 05): the issue set and its age, guards, the checks made at
every issue, the register cache, and the retirement of an instruction. -/

namespace Sys2Proof.Machine

/-! ### Registers of a group -/

/-- v[r] of thread t. -/
def Group.v (g : Group) (r t : Nat) : W32 := look 0 g.vregs (r * 32 + t)

/-- v[r] of thread t set. -/
def Group.setV (g : Group) (r t : Nat) (x : W32) : Group := { g with vregs := put 0 g.vregs (r * 32 + t) x }

/-- The 64-bit value of a register pair: the named register holds bits [31:0] (R152). -/
def Group.v64 (g : Group) (r t : Nat) : Nat := (g.v r t).toNat + (g.v (r + 1) t).toNat * 2 ^ 32

/-- A 64-bit value written to a register pair. -/
def Group.setV64 (g : Group) (r t x : Nat) : Group := (g.setV r t (bits 32 x)).setV (r + 1) t (bits 32 (x >>> 32))

/-- u[r]. -/
def Group.u (g : Group) (r : Nat) : W64 := look 0 g.uregs r

/-- u[r] set. -/
def Group.setU (g : Group) (r : Nat) (x : W64) : Group := { g with uregs := put 0 g.uregs r x }

/-- p[i] of thread t. -/
def Group.p (g : Group) (i t : Nat) : Bool := bitAt (look (0 : BitVec 8) g.preds t) i

/-- p[i] of thread t set. -/
def Group.setP (g : Group) (i t : Nat) (b : Bool) : Group :=
  let x := look (0 : BitVec 8) g.preds t
  let m := BitVec.ofNat 8 (2 ^ i)
  { g with preds := put 0 g.preds t (if b then x ||| m else x &&& ~~~m) }

/-- The program counter of thread t. -/
def Group.pc (g : Group) (t : Nat) : W64 := look 0 g.pcs t

/-- The program counter of thread t set. -/
def Group.setPc (g : Group) (t : Nat) (x : W64) : Group := { g with pcs := put 0 g.pcs t x }

/-- What thread t waits for. -/
def Group.wait (g : Group) (t : Nat) : WaitReason := look .none g.waits t

/-- Thread t starts or ends a wait; a thread that stops waiting comes into its set with age 0 (R111, R112). -/
def Group.setWait (g : Group) (t : Nat) (w : WaitReason) : Group :=
  { g with waits := put .none g.waits t w, ages := put 0 g.ages t 0 }

/-- Thread t has executed EXIT. -/
def Group.gone (g : Group) (t : Nat) : Bool := bitAt g.exited t

/-- All 32 threads have ended (R135). -/
def Group.ended (g : Group) : Bool := (List.range 32).all g.gone

/-- The threads of the group that have not exited. -/
def Group.liveThreads (g : Group) : List Nat := (List.range 32).filter fun t => !g.gone t

/-! ### Issue sets (R110 to R112) -/

/-- The threads that are in some issue set: neither exited nor waiting, of a group that no full queue holds (R110, R111). -/
def Group.active (g : Group) : List Nat := (List.range 32).filter fun t => !g.held && !g.gone t && g.wait t == .none

/-- The age of the issue set at a program counter: the greatest among its threads, as merged sets keep it. -/
def Group.setAge (g : Group) (pc : W64) : Nat :=
  (g.active.filter fun t => g.pc t == pc).foldl (fun a t => max a (look 0 g.ages t)) 0

/-- The program counter of the issue set that R112 selects: some set of age 32 or more, then the oldest, ties to the
lowest address; else the lowest address. None where no thread is in a set. -/
def Group.selectPc (g : Group) : Option W64 :=
  let pick (l : List Nat) : Option W64 :=
    l.foldl (fun b t => match b with
      | none => some (g.pc t)
      | some b => some (if (g.pc t).toNat < b.toNat then g.pc t else b)) none
  let oldest := g.active.foldl (fun a t => max a (look 0 g.ages t)) 0
  if oldest ≥ 32 then pick (g.active.filter fun t => g.setAge (g.pc t) == oldest) else pick g.active

/-- The threads of the selected set. -/
def Group.setAt (g : Group) (pc : W64) : List Nat := g.active.filter fun t => g.pc t == pc

/-- The ages after the set `set` issued: 0 for its threads; one more than its set's age for every other active thread. -/
def Group.ageAfter (g : Group) (set : List Nat) : SMap Nat :=
  g.active.foldl (fun m t => put 0 m t (if set.contains t then 0 else g.setAge (g.pc t) + 1)) g.ages

/-! ### What an instruction issues with -/

/-- The context of an issue. -/
structure Ctx where
  /-- logical core -/
  l : Nat
  /-- group slot -/
  gi : Nat
  /-- address of the instruction -/
  pc : W64
  /-- threads of the issue set -/
  set : List Nat
  /-- acting threads (R156) -/
  act : List Nat
  /-- the task -/
  task : Task
  /-- the group as the instruction found it -/
  g : Group
  /-- issue ports that can take it: both, but in the cycle in which the task trapped those not yet used (R107, R143) -/
  ports : List Nat := [0, 1]

/-- What an instruction reads and writes, and the outcome of the checks that do not depend on threads. -/
structure Needs where
  /-- per-thread registers read, by operand -/
  reads : List (List Nat) := []
  /-- per-thread registers written -/
  vw : List Nat := []
  /-- uniform registers read -/
  ur : List Nat := []
  /-- uniform registers written -/
  uw : List Nat := []
  /-- check 2: no reserved value, R151, register alignment -/
  enc : Bool := true
  /-- check 4: the type is accepted -/
  ty : Bool := true
  /-- bytes of the instruction: 8 or 16 -/
  len : Nat := 8
  /-- it issues on the arithmetic port -/
  arith : Bool := true
  /-- registers that HOLD allocates in the register cache -/
  hold : List Nat := []
deriving DecidableEq, Repr

/-- The per-thread registers read. -/
def Needs.vr (n : Needs) : List Nat := n.reads.flatten

/-- The port that the instruction issues on: 0 arithmetic, 1 memory (R107). -/
def Needs.port (n : Needs) : Nat := if n.arith then 0 else 1

/-- The group slot belongs to the running task: with a pre-empted task on the core, only the displaced slots do (R137). -/
def Core.slotRuns (c : Core) (t : Task) (gi : Nat) : Bool :=
  (c.group gi).used && (!c.frame.isSome || decide (16 - t.groups ≤ gi))

/-- The watchdog count of a task: periods of the twilight clock since its first instruction, without pauses (R145). -/
def Watch.count (w : Watch) (now : Nat) : Nat := w.acc + if w.on && !w.hold then now - w.since else 0

/-- The count at which a watchdog time of so many milliseconds is reached (R145). -/
def watchLimit (ms : Nat) : Nat := ms * 25000

/-- The core can issue: its cluster runs; its task runs, or traps in this very cycle, which leaves another port of the core free;
it is not held; no pre-emption of it has been requested; and its watchdog time is not past (R106, R111, R138, R143, R145, R147, R480,
R283). -/
def State.coreIssues (s : State) (l : Nat) : Bool :=
  s.hasCore l && s.powered && (s.cluster (s.clusterOf l)).clk == .active &&
  match (s.core l).task with
  | some t => (t.phase == .running || (t.phase == .trapped && (s.core l).still.any fun x => decide (x < 2))) && !t.held &&
      (s.core l).urgent.isNone && (t.wdMs == 0 || decide ((s.core l).watch.count s.ticks.toNat ≤ watchLimit t.wdMs))
  | none => false

/-- The group can issue beside the task's phase: a running task's; in the cycle of a trap, one that has not trapped (R143). -/
def Group.mayIssue (g : Group) (t : Task) : Bool := t.phase == .running || g.trapped.isNone

/-- The context of the next issue of a group, by R112 and the guard of the header. -/
def State.ctx? (s : State) (site : Site) (h : Hdr) : Option Ctx :=
  if !s.coreIssues site.core then none
  else match (s.core site.core).task with
    | none => none
    | some t =>
      let c := s.core site.core
      if !(c.slotRuns t site.group) then none
      else
        let g := c.group site.group
        match if g.mayIssue t then g.selectPc else none with
        | none => none
        | some pc =>
          let set := g.setAt pc
          let act := set.filter fun t =>
            if h.gm.toNat = 0 then true else if h.gm.toNat = 1 then g.p h.gp.toNat t else !g.p h.gp.toNat t
          some { l := site.core, gi := site.group, pc := pc, set := set, act := act, task := t, g := g,
                 ports := if t.phase = .running then [0, 1] else c.still }

/-- A register that the instruction reads or writes awaits an earlier result (R155). -/
def Group.blocked (g : Group) (n : Needs) : Bool :=
  (n.vr ++ n.vw).any g.pendV.contains || (n.ur ++ n.uw).any g.pendU.contains

/-- The instruction cannot issue yet: a register is awaited, or its port is used (R107, R155). -/
def Ctx.blocked (c : Ctx) (n : Needs) : Bool := c.g.blocked n || !c.ports.contains n.port

/-- A fetch at `pc` passes translation, permission and R260 (check 1 of Table 05.14). -/
def State.fetchOk (s : State) (asid pc : Nat) : Bool :=
  match s.translate asid pc .x with
  | some (.dev a) => (s.homeProgram a).isSome
  | some _ => true
  | none => false

/-- The first of checks 1 to 4 of Table 05.14 that fails. -/
def State.issueCheck (s : State) (c : Ctx) (h : Hdr) (n : Needs) : Option (BitVec 8) :=
  if !(s.fetchOk c.task.asid c.pc.toNat && (n.len == 8 || s.fetchOk c.task.asid (c.pc.toNat + 8))) then some stAccess
  else if h.gm.toNat = 3 || !n.enc then some stProgram
  else if (n.vr ++ n.vw).any (fun r => decide (c.task.vregs ≤ r)) then some stProgram
  else if !n.ty then some stFormat
  else none

/-- A register allocated in the register cache of six entries, or moved to its most recently used place (R119). -/
def cacheAlloc (rc : List Nat) (r : Nat) : List Nat := (r :: rc.filter (· != r)).take 6

/-- The register cache after an operand is read, with a hit where it holds every register of the operand; the registers that it holds
become the most recently used (R119, R121; log 98). -/
def cacheRead (rc : List Nat) (rs : List Nat) : Bool × List Nat :=
  (rs.all rc.contains, (rs.filter rc.contains).foldl cacheAlloc rc)

/-- The register-cache effects of an instruction: its operands counted, then its held sources and its destinations
allocated (R119, R121). -/
def Core.cacheStep (c : Core) (gi : Nat) (n : Needs) : Core :=
  let g := c.group gi
  let (hit, miss, rc) := n.reads.foldl (fun (x : Nat × Nat × List Nat) rs =>
    let (h, rc) := cacheRead x.2.2 rs
    if h then (x.1 + 1, x.2.1, rc) else (x.1, x.2.1 + 1, rc)) (0, 0, g.regCache)
  let rc := (n.hold.filter n.vr.contains ++ n.vw).foldl cacheAlloc rc
  { c.modGroup gi fun g => { g with regCache := rc } with
    rcHit := (c.rcHit + hit) % 2 ^ 48, rcMiss := (c.rcMiss + miss) % 2 ^ 48 }

/-- The 8-byte words that the instruction cache holds: 64 KiB (Table 04.1). -/
def icacheWords : Nat := 8192

/-- A word fetched into the instruction cache, or found there (R104, R172; log 98). -/
def icacheFetch (ic : List Nat) (a : Nat) : List Nat := (a :: ic.filter (· != a)).take icacheWords

/-- A port used by an issue: the instruction words are in the instruction cache, and the watchdog counts from the task's first
instruction (R107, R145, R172). -/
def Core.usePort (k : Core) (now pc : Nat) (n : Needs) : Core :=
  { k with
    lastPort := n.port
    still := k.still.filter (· != n.port)
    watch := if k.watch.on then k.watch else { k.watch with on := true, since := now }
    icache := icacheFetch (if n.len = 8 then k.icache else icacheFetch k.icache (pc + 8)) pc }

/-- The state after an instruction left the issue stage: program counters advanced, ages and port orders updated, the
register cache used, the port taken. The instruction's own effect comes after it. -/
def State.retire (s : State) (c : Ctx) (n : Needs) : State :=
  s.modCore c.l fun k =>
    let k := (k.cacheStep c.gi n).usePort s.ticks.toNat c.pc.toNat n
    let k := k.modGroup c.gi fun g =>
      let ages := g.ageAfter c.set
      let g := c.set.foldl (fun g t => g.setPc t (c.pc + BitVec.ofNat 64 n.len)) g
      { g with ages := ages }
    if n.arith then { k with arithOrder := c.gi :: k.arithOrder.filter (· != c.gi) }
    else { k with memOrder := c.gi :: k.memOrder.filter (· != c.gi) }

/-- The issue of an instruction: refused where nothing can issue or a register is awaited, trapped where a check of
every issue fails, and else retired with the effect `k`. -/
def issue (site : Site) (h : Hdr) (n : Needs) (k : Ctx → State → State) (s : State) :
    Host.Outcome State Fault Refusal :=
  match s.ctx? site h with
  | none => .refused .notIssuable
  | some c =>
    if c.blocked n then .refused .notReady
    else match s.issueCheck c h n with
      | some st => .next ((s.modCore c.l fun k => k.usePort s.ticks.toNat c.pc.toNat n).trap c.l c.gi st c.pc.toNat (maskOf c.set) 0)
      | none => .next (k c (s.retire c n))

/-- The group of a context changed. -/
def State.onGroup (s : State) (c : Ctx) (f : Group → Group) : State := s.modCore c.l fun k => k.modGroup c.gi f

/-- A trap of an instruction on the threads of a mask (R143). -/
def State.trapAt (s : State) (c : Ctx) (st : BitVec 8) (threads : List Nat) (code : Nat) : State :=
  s.trap c.l c.gi st c.pc.toNat (maskOf threads) code

end Sys2Proof.Machine
end

