-- ==== Sys2Proof/Machine/Operands.lean ====
section
/-! DEFINITION. The operands of format R (R150 to R154, file 05): types, source values, register names, and the checks of
an instruction's encoding. -/

namespace Sys2Proof.Machine

/-- The operand types of Table 05.8. -/
inductive Ty where
  | i32 | u32 | i64 | u64 | f32 | bf2 | f2
deriving DecidableEq, Repr

/-- The type of a TY code; none for a reserved code. -/
def Ty.ofCode (c : Nat) : Option Ty :=
  match c with
  | 0 => some .i32 | 1 => some .u32 | 2 => some .i64 | 3 => some .u64
  | 8 => some .f32 | 9 => some .bf2 | 10 => some .f2 | _ => none

/-- Operands of the type take a register pair. -/
def Ty.wide (t : Ty) : Bool := t == .i64 || t == .u64

/-- Width in bits. -/
def Ty.w (t : Ty) : Nat := if t.wide then 64 else 32

/-- I32 or I64. -/
def Ty.signed (t : Ty) : Bool := t == .i32 || t == .i64

/-- An integer type. -/
def Ty.isInt (t : Ty) : Bool := t == .i32 || t == .u32 || t == .i64 || t == .u64

/-- A floating type. -/
def Ty.isFloat (t : Ty) : Bool := !t.isInt

/-- A packed 16-bit type. -/
def Ty.packed (t : Ty) : Bool := t == .bf2 || t == .f2

/-- The format of a half of a packed type. -/
def Ty.half (t : Ty) : Fmt := if t = .bf2 then .bf16 else .fp16

/-- What an opcode of format R does with its fields. -/
structure RSpec where
  /-- reads source A -/
  a : Bool := true
  /-- reads source B -/
  b : Bool := true
  /-- reads source C -/
  c : Bool := false
  /-- writes the register VD of each acting thread -/
  d : Bool := true
  /-- types accepted -/
  ok : Ty → Bool
  /-- TY is ignored -/
  anyTy : Bool := false
  /-- the function code holds no reserved value -/
  fnOk : Bool := true

/-- IMM14: bits [43:30] of the word. -/
def FmtR.imm14 (f : FmtR) : Nat := f.vc.toNat * 128 + f.vb.toNat

/-- The type in force; I32 where the code is reserved or ignored. -/
def FmtR.type (f : FmtR) : Ty := (Ty.ofCode f.ty.toNat).getD .i32

/-- The registers of an operand of a type. -/
def regsOf (t : Ty) (r : Nat) : List Nat := if t.wide then [r, r + 1] else [r]

/-- A per-thread operand's register is aligned for its type (R152). -/
def regOk (t : Ty) (r : Nat) : Bool := !t.wide || r % 2 == 0

/-- A 7-bit field that names a u register has bits [6:5] clear (R152). -/
def uOk (r : BitVec 7) : Bool := decide (r.toNat < 32)

/-- The checks and registers of a per-thread instruction of format R (R150 to R155, R158). -/
def rNeeds (sp : RSpec) (h : Hdr) (f : FmtR) : Needs :=
  let t := if sp.anyTy then Ty.i32 else f.type
  let va := if sp.a then regsOf t f.va.toNat else []
  let vb := if sp.b && f.bsel.toNat == 0 then regsOf t f.vb.toNat else []
  let vc := if sp.c then regsOf t f.vc.toNat else []
  let vd := if sp.d then regsOf t f.vd.toNat else []
  { reads := [va, vb, vc].filter fun x => !x.isEmpty
    vw := vd
    ur := if sp.b && f.bsel.toNat == 1 then [f.vb.toNat] else []
    enc := (sp.anyTy || (Ty.ofCode f.ty.toNat).isSome) && sp.fnOk &&
      (!sp.a || regOk t f.va.toNat) && (!sp.d || regOk t f.vd.toNat) && (!sp.c || regOk t f.vc.toNat) &&
      (!sp.b || f.bsel.toNat != 0 || regOk t f.vb.toNat) && (!sp.b || f.bsel.toNat != 1 || uOk f.vb) &&
      !(sp.c && f.bsel.toNat == 2)
    ty := sp.anyTy || sp.ok t
    len := if f.bsel.toNat = 3 then 16 else 8
    hold := (if bitAt h.hold 0 then va else []) ++ (if bitAt h.hold 1 then vb else []) ++ (if bitAt h.hold 2 then vc else []) }

/-- A per-thread register operand of a type. -/
def Group.operand (g : Group) (t : Ty) (r thread : Nat) : Nat := if t.wide then g.v64 r thread else (g.v r thread).toNat

/-- IMM14 as source B of a type: sign-extended for integers, the top bits of the value for floating types (R154). -/
def immB (t : Ty) (imm : Nat) : Nat :=
  if t.isInt then lowBits t.w (sext 14 imm)
  else if t = .f32 then imm <<< 18
  else imm <<< 2 + (imm <<< 2) <<< 16

/-- Source B (R154). -/
def FmtR.srcB (f : FmtR) (g : Group) (t : Ty) (thread : Nat) : Nat :=
  match f.bsel.toNat with
  | 0 => g.operand t f.vb.toNat thread
  | 1 => (g.u f.vb.toNat).toNat % 2 ^ t.w
  | 2 => immB t f.imm14
  | _ => f.imm.toNat % 2 ^ t.w

/-- Source A. -/
def FmtR.srcA (f : FmtR) (g : Group) (t : Ty) (thread : Nat) : Nat := g.operand t f.va.toNat thread

/-- Source C. -/
def FmtR.srcC (f : FmtR) (g : Group) (t : Ty) (thread : Nat) : Nat := g.operand t f.vc.toNat thread

/-- A result written to a register or pair of a thread. -/
def Group.result (g : Group) (t : Ty) (r thread x : Nat) : Group :=
  if t.wide then g.setV64 r thread x else g.setV r thread (bits 32 x)

/-- The results of the acting threads written, each computed from the group as the instruction found it. -/
def writeThreads (t : Ty) (r : Nat) (act : List Nat) (val : Nat → Nat) (g : Group) : Group :=
  act.foldl (fun g k => g.result t r k (val k)) g

/-- The predicates of the acting threads written. -/
def writePreds (i : Nat) (act : List Nat) (val : Nat → Bool) (g : Group) : Group :=
  act.foldl (fun g k => g.setP i k (val k)) g

/-- A per-thread instruction whose result is a function of sources A, B and C. -/
def rResult (sp : RSpec) (op : Ty → Nat → Nat → Nat → Nat) (site : Site) (h : Hdr) (f : FmtR) (s : State) :
    Host.Outcome State Fault Refusal :=
  issue site h (rNeeds sp h f) (fun c s =>
    let t := f.type
    s.onGroup c (writeThreads t f.vd.toNat c.act fun k => op t (f.srcA c.g t k) (f.srcB c.g t k) (f.srcC c.g t k))) s

/-- A per-thread instruction that writes p[PX] from sources A and B. -/
def rPred (sp : RSpec) (op : Ty → Nat → Nat → Bool) (site : Site) (h : Hdr) (f : FmtR) (s : State) :
    Host.Outcome State Fault Refusal :=
  issue site h (rNeeds { sp with d := false } h f) (fun c s =>
    let t := f.type
    s.onGroup c (writePreds f.px.toNat c.act fun k => op t (f.srcA c.g t k) (f.srcB c.g t k))) s

end Sys2Proof.Machine
end

