-- ==== Sys2Proof/Machine/FabricOps.lean ====
section
/-! DEFINITION. Sending on the fabric: flows with their alive counters, the choice of a strait, and requests of this
package that wait for an answer (R336 to R338, R342 to R347, file 10). -/

namespace Sys2Proof.Machine

/-- The fabric state changed. -/
def State.onFab (s : State) (g : Fab → Fab) : State := { s with fab := g s.fab }

/-- The traffic class of a message kind (Table 10.6). -/
def tcOfKind (k : Nat) : Nat := if k < 4 then 0 else if k < 7 then 1 else if k = 7 then 2 else 3

/-- The key of a flow between this package and a peer. -/
def flowKey (peer tc : Nat) : Nat := peer * 4 + tc

/-- Straits of a mask that are up and not holding. -/
def Fab.usable (f : Fab) (mask : BitVec 16) : List Nat :=
  (List.range 16).filter fun i => bitAt mask i && (f.strait i).up && !(f.strait i).holding

/-- The data queued for a strait, in units of 32 bytes. -/
def Strait.queued (x : Strait) : Nat :=
  (x.outq.map fun m => 1 + m.units.toNat).sum - (x.sent.map fun p => p.2).sum

/-- The one of a list of straits with the least queued data; the first of equals. -/
def Fab.leastQueued (f : Fab) (l : List Nat) : Option Nat :=
  l.foldl (fun b i => match b with
    | none => some i
    | some b => some (if (f.strait i).queued < (f.strait b).queued then i else b)) none

/-- The strait for a message: the flowlet's choice while it is usable, else the least queued of the minimal mask, else
the detour strait (R338). -/
def Fab.pick (f : Fab) (dst : Nat) (choice : Option Nat) : Option Nat :=
  let r := look {} f.routes dst
  let l := f.usable r.mask
  let fresh : Option Nat :=
    match f.leastQueued l with
    | some i => some i
    | none => r.detour.bind fun d => if (f.strait d).up && !(f.strait d).holding then some d else none
  match choice with
  | some c => if l.contains c then some c else fresh
  | none => fresh

/-- The key of a flow through this switch: source, destination, traffic class. -/
def FMsg.flow (m : FMsg) : Nat := (m.src.toNat * 4096 + m.dst.toNat) * 4 + m.tc.toNat

/-- A message put into the queue of a strait. -/
def State.onWire (s : State) (i : Nat) (m : FMsg) : State :=
  s.onFab fun f => f.modStrait i fun x => { x with outq := x.outq ++ [m] }

/-- A message queued for a strait. Its flowlet keeps its strait until the flow has sent nothing for 2 µs, which is 50
periods of TICKS (R338; log 7). Without a usable strait the message is not sent now and is recovered under R345. -/
def State.fabQueue (s : State) (m : FMsg) : State :=
  let s := s.touch
  let (i, at_) := look (0, 0) s.fab.flowlets m.flow
  let choice := if i ≠ 0 && decide ((s.ticks - at_).toNat ≤ 50) then some (i - 1) else none
  match s.fab.pick m.dst.toNat choice with
  | none => s
  | some i => (s.onWire i m).onFab fun f => { f with flowlets := put (0, 0) f.flowlets m.flow (i + 1, s.ticks) }

/-- A message of this package sent on its flow: numbered with the flow's alive counter, kept until acknowledged, and
held while 1,024 are unacknowledged (R345). ACK and NAK are not numbered. -/
def State.fabSend (s : State) (m : FMsg) : State :=
  let kind := m.kind.toNat
  let m := { m with tc := BitVec.ofNat 2 (tcOfKind kind), src := s.fab.idApplied,
                    units := BitVec.ofNat 4 ((m.data.length + 31) / 32) }
  if kind = 12 || kind = 13 then s.fabQueue m
  else
    let k := flowKey m.dst.toNat (tcOfKind kind)
    let fl := s.fab.flow k
    if fl.kept.length ≥ 1024 then s.onFab fun f => f.putFlow k { fl with held := fl.held ++ [m] }
    else
      let m := { m with alive := fl.txNext }
      (s.onFab fun f => f.putFlow k { fl with txNext := fl.txNext + 1, kept := fl.kept ++ [m] }).fabQueue m

/-- A request of this package sent with a fresh tag and remembered until its answer (R342, R344). -/
def State.fabRequest (s : State) (m : FMsg) (who : ReqWho) : State :=
  let m := { m with tag := BitVec.ofNat 16 s.fab.nextTag }
  let s := s.onFab fun f =>
    { f with nextTag := (f.nextTag + 1) % 65536, reqs := f.reqs ++ [{ tag := f.nextTag, msg := m, who := who }] }
  s.fabSend m

/-- Requests of one originator that wait for an answer. -/
def State.fabWaits (s : State) (who : ReqWho) : Bool :=
  s.fab.reqs.any fun r => decide (r.who = who) && r.answer.isNone && r.status.isNone

/-- The answered read of an originator at an address. -/
def State.fabAnswer (s : State) (who : ReqWho) (pkg a n : Nat) : Option (List Byte) :=
  (s.fab.reqs.find? fun r => decide (r.who = who) && r.msg.kind.toNat == 1 && r.msg.dst.toNat == pkg &&
    r.msg.addr.toNat == a && r.msg.bytes.toNat + 1 == n && r.answer.isSome).bind fun r => r.answer

/-- The requests of an originator forgotten: its work has taken their answers or ended. -/
def State.fabForget (s : State) (who : ReqWho) : State :=
  s.onFab fun f => { f with reqs := f.reqs.filter fun r => decide (r.who ≠ who) }

/-- A GET of `n` bytes, at most 256 (Table 10.6). -/
def mkGet (pkg a n hint : Nat) (lenient : Bool) : FMsg :=
  { kind := 1, dst := bits 12 pkg, addr := bits 44 a, bytes := bits 8 (n - 1), hint := bits 2 hint, lenient := lenient }

/-- A PUT of the bytes given, at most 256. -/
def mkPut (pkg a : Nat) (d : List Byte) (hint : Nat) (rel : Bool) : FMsg :=
  { kind := 0, dst := bits 12 pkg, addr := bits 44 a, bytes := bits 8 (d.length - 1), hint := bits 2 hint,
    rel := rel, data := d }

/-- An ATOMIC; the operand is 8 or 16 bytes. -/
def mkAtomic (pkg a aop : Nat) (a64 : Bool) (d : List Byte) (hint : Nat) (lenient rel sx : Bool) : FMsg :=
  { kind := 2, dst := bits 12 pkg, addr := bits 44 a, hint := bits 2 hint, aop := bits 4 aop, a64 := a64, data := d, lenient := lenient,
    rel := rel, aux := if sx then 1 else 0 }

/-- A NOTIFY: adds a 32-bit value to a 64-bit word as a release. -/
def mkNotify (pkg a v : Nat) : FMsg := { kind := 3, dst := bits 12 pkg, addr := bits 44 a, aux := bits 32 v, rel := true }

/-! ### The header of a message (Table 10.7) -/

/-- A Bool as a bit. -/
def bit01 (b : Bool) : Nat := if b then 1 else 0

/-- The 256 bits of a message header. -/
def FMsg.header (m : FMsg) : Nat :=
  m.kind.toNat + m.tc.toNat * 2 ^ 4 + m.hops.toNat * 2 ^ 6 + m.units.toNat * 2 ^ 10 + m.src.toNat * 2 ^ 14 +
  m.dst.toNat * 2 ^ 26 + m.alive.toNat * 2 ^ 38 + m.addr.toNat * 2 ^ 64 + m.hint.toNat * 2 ^ 108 +
  bit01 m.lenient * 2 ^ 110 + m.bytes.toNat * 2 ^ 112 + m.aop.toNat * 2 ^ 120 + bit01 m.a64 * 2 ^ 124 +
  bit01 m.rel * 2 ^ 125 + m.tag.toNat * 2 ^ 128 + m.status.toNat * 2 ^ 144 + m.collId.toNat * 2 ^ 160 +
  m.chunk.toNat * 2 ^ 176 + m.fmt.toNat * 2 ^ 200 + m.rop.toNat * 2 ^ 205 + bit01 m.wire32 * 2 ^ 207 +
  m.tree.toNat * 2 ^ 208 + m.stage.toNat * 2 ^ 210 + m.aux.toNat * 2 ^ 224

/-- A field of a number as a bit vector. -/
def fieldOf (w n lo : Nat) : BitVec w := BitVec.ofNat w (n >>> lo)

/-- A message from its header bits and its data bytes. -/
def FMsg.ofHeader (n : Nat) (data : List Byte) : FMsg :=
  { kind := fieldOf 4 n 0, tc := fieldOf 2 n 4, hops := fieldOf 4 n 6, units := fieldOf 4 n 10, src := fieldOf 12 n 14,
    dst := fieldOf 12 n 26, alive := fieldOf 16 n 38, addr := fieldOf 44 n 64, hint := fieldOf 2 n 108,
    lenient := n.testBit 110, bytes := fieldOf 8 n 112, aop := fieldOf 4 n 120, a64 := n.testBit 124,
    rel := n.testBit 125, tag := fieldOf 16 n 128, status := fieldOf 8 n 144, collId := fieldOf 16 n 160,
    chunk := fieldOf 24 n 176, fmt := fieldOf 5 n 200, rop := fieldOf 2 n 205, wire32 := n.testBit 207,
    tree := fieldOf 2 n 208, stage := fieldOf 2 n 210, aux := fieldOf 32 n 224, data := data }

/-- A message as 32-byte units: the header, then the data with its last unit filled with zeros (R329, R343). -/
def FMsg.asUnits (m : FMsg) : List (List Byte) :=
  bytesOf 32 m.header :: (List.range m.units.toNat).map fun i =>
    let d := (m.data.drop (32 * i)).take 32
    d ++ List.replicate (32 - d.length) 0

end Sys2Proof.Machine
end

