-- ==== Sys2Proof/Machine/Rollback.lean ====
section
/-! DEFINITION. Stopping a task's work, rolling its undo log back, and freeing its core (R421, R424 steps 1 to 3, R430,
file 12). -/

namespace Sys2Proof.Machine

/-- An undo entry put into a list in descending stamp order. -/
def stampInsert (e : UndoEntry) : List UndoEntry → List UndoEntry
  | [] => [e]
  | f :: r => if f.stamp < e.stamp then e :: f :: r else f :: stampInsert e r

/-- Undo entries in descending stamp order. -/
def byStamp (l : List UndoEntry) : List UndoEntry := l.foldl (fun r e => stampInsert e r) []

/-- One entry restored: the image of a range line is written back to its line, whose ledger entry that write removes (R231); a LASTUSE entry loses its ledger entry,
and a dirty image is reinstated in the slice as a dirty line (R421). -/
def State.undoOne (s : State) (e : UndoEntry) : State :=
  if e.lastUse then
    let s := s.unledger e.line
    match e.image with
    | some im => (s.unblock e.line).allocate { m := .fw } { line := e.line, bytes := ofImage im, dirty := true } true
    | none => s
  else
    match e.image with
    | some im => ((s.dirForWrite e.line).unledger e.line).arrayWrite { m := .fw } e.line ((List.range 256).map fun o => (o, im.getD o 0))
    | none => s

/-- The undo logs of the running tasks of the cores `ls`, and of the pre-empted tasks of the cores `fs`, rolled back in one
stamp order and cleared; with `n`, only the first `n` entries can be read (Table 12.3). The tasks' stores are performed
first (R421, R424 steps 2 and 3). -/
def State.rollbackTo (s : State) (ls fs : List Nat) (n : Option Nat) : State :=
  let s := (ls ++ fs).foldl (fun s l => s.drainCluster (s.clusterOf l)) s
  let es := byStamp (ls.flatMap (fun l => (s.core l).undo) ++ fs.flatMap fun l => match (s.core l).frame with | some f => f.undo | none => [])
  let s := (es.take (n.getD es.length)).foldl State.undoOne s
  let s := ls.foldl (fun s l => (s.undoDrop l).modCore l fun c => { c with l1 := [] }) s
  fs.foldl (fun s l => (s.undoUnpin l 0 (s.core l).undoBase).modCore l fun c =>
    { c with frame := c.frame.map fun f => { f with undo := [], undoSeen := [] } }) s

/-- Everything rolled back. -/
def State.rollback (s : State) (ls fs : List Nat) : State := s.rollbackTo ls fs none

/-- A core's work stopped at once: the groups of its task, its arrays without a save, its tile-mover descriptors and its
outstanding accesses (R424 steps 1 and 2). The state of a pre-empted task stays. -/
def Core.stopWork (c : Core) : Core :=
  let keep (gi : Nat) : Bool := match c.task, c.frame with
    | some t, some _ => decide (gi < 16 - t.groups)
    | _, _ => false
  { c with
    groups := c.groups.filter fun p => keep p.1
    arrays := normal {} (c.arrays.map fun p => (p.1, { p.2 with queue := [], tile := none, stop := .running, returned := [] }))
    tm := []
    outst := []
    l1 := []
    barriers := [] }

/-- A core whose task is gone. -/
def Core.release (c : Core) : Core := { c.stopWork with task := none, lastAsid := match c.task with | some t => some t.asid | none => c.lastAsid }

/-- The cores that a recovery of core `l`'s task stops: its own, or its whole gang's (R423). -/
def State.workCores (s : State) (l : Nat) : List Nat :=
  match (s.core l).task with
  | some t => (match t.gang with | some g => s.gangCores g | none => [l])
  | none => []

/-- The cores whose pre-empted task belongs to the gang of core `l`'s task (R423). -/
def State.workFrames (s : State) (l : Nat) : List Nat :=
  match (s.core l).task with
  | some { gang := some g, .. } => s.gangFrames g
  | _ => []

/-- A task index put back into its launch, or into its recomputation, for redispatch. -/
def State.requeueIndex (s : State) (t : Task) : State :=
  s.modDesc t.queue t.desc fun d =>
    let x := d.launch
    { d with launch := if t.recompute then { x with rerunning := x.rerunning - 1, again := x.again ++ [t.index] }
                       else { x with running := x.running - 1, redo := x.redo ++ [t.index] } }

/-- A task put back into its launch for redispatch: it no longer runs, and its index waits (R424, R430). -/
def State.requeueTask (s : State) (l : Nat) : State :=
  match (s.core l).task with
  | none => s
  | some t => (s.requeueIndex t).modCore l Core.release

/-- The URGENT task whose pre-emption of a core is requested put back into its launch, as the core leaves service. -/
def State.withdrawUrgent (s : State) (l : Nat) : State :=
  match (s.core l).urgent with
  | none => s
  | some t => (s.requeueIndex t).modCore l fun c => { c with urgent := none }

/-- The context frame dropped, with what the pre-empted task left in its own slots. -/
def Core.unframe (c : Core) : Core :=
  let mine (gi : Nat) : Bool := match c.task with | some t => decide (16 - t.groups ≤ gi) | none => false
  { c with frame := none, groups := c.groups.filter fun p => mine p.1, outst := c.outst.filter fun o => mine o.group }

/-- The pre-empted task of a core put back into its launch; its context frame is dropped. -/
def State.requeueFrame (s : State) (l : Nat) : State :=
  match (s.core l).frame with
  | none => s
  | some f => (s.requeueIndex f.task).modCore l Core.unframe

/-- The tasks of the cores `ls` and the pre-empted tasks of the cores `fs` stopped and rolled back in one order; the cores are
freed, and the tasks wait for redispatch (R421, R423). `gang`: the gang they make up. -/
def State.replayWork (s : State) (ls fs : List Nat) (gang : Option Nat) : State :=
  let cls := (ls ++ fs).map s.clusterOf
  let s := ls.foldl (fun s m => s.modCore m fun c => { c with arrays := c.stopWork.arrays, tm := [], outst := [] }) s
  let s := s.rollback ls fs
  let s := (ls ++ fs).foldl (fun s m => s.fabForget (.store m)) s
  let s := fs.foldl State.requeueFrame (ls.foldl State.requeueTask s)
  match gang with
  | some g => cls.foldl (fun s cl => s.modCluster cl fun c => { c with gangs := put {} c.gangs g {} }) s
  | none => s

/-- The pre-empted task of a core is replayed from its start, with its gang; one that has trapped has ended (Table 12.3). -/
def State.dropFrame (s : State) (l : Nat) : State :=
  match (s.core l).frame with
  | none => s
  | some f =>
    if f.task.phase = .trapped then (s.modCore l Core.unframe).modDesc f.task.queue f.task.desc fun d =>
      { d with launch := { d.launch with running := d.launch.running - 1, ended := d.launch.ended + 1,
                                         status := worse d.launch.status f.task.status } }
    else match f.task.gang with
      | some g => s.replayWork (s.gangCores g) (s.gangFrames g) (some g)
      | none => s.replayWork [] [l] none

/-- The task index under which replays are counted: a gang counts as one task (R417, R427). -/
def Task.replayKey (t : Task) : Nat := t.index - t.rank

/-- A recovery of a task counted for its descriptor, with its TASK_RECOVERED record; a gang's is of level 2 (R25, R423, R424,
Table 12.12). -/
def State.noteRecovery (s : State) (l : Nat) (t : Task) (cause : Nat) : State :=
  let n := match s.desc? t.queue t.desc with | some d => look 0 d.launch.replays t.replayKey | none => 0
  (s.modDesc t.queue t.desc fun d => { d with recov := d.recov + 1 }).record 0x02 (if t.gang.isSome then 2 else 1) 0x02 0 (locOf 1 l)
    (detailOf [(0, 4, t.queue), (4, 4, t.desc), (8, 4, t.index), (0xC, 1, cause), (0xD, 1, n)])

/-- The task of core `l`, with its whole gang, stopped and rolled back; the cores are freed, and the tasks wait for redispatch,
members that had ended among them. A twin only leaves its core (R423, R430, R439). -/
def State.stopReplay (s : State) (l : Nat) : State :=
  match (s.core l).task with
  | none => s
  | some t =>
    if t.twinOf.isSome then s.modCore l fun c => { c.release with undo := [], undoSeen := [] }
    else s.replayWork (s.workCores l) (s.workFrames l) t.gang

/-- A task whose read reached a lost codeword waits for redispatch, with its gang (R430). -/
def State.lostStop (s : State) (l : Nat) : State :=
  match (s.core l).task with
  | some t =>
    if t.twinOf.isSome then s.stopReplay l
    else ((s.stopReplay l).modDesc t.queue t.desc fun d => { d with launch := { d.launch with waitLost := true } }).noteRecovery l t 7
  | none => s

/-- A fault detected in the work of core `l`'s task: it and its gang issue no more, and both arrays and the tile mover
discard their work (step 1 of Table 12.2). TASK_RECOVERY runs the other steps. `cause` is coded as in TASK_RECOVERED. -/
def State.detect (s : State) (l cause : Nat) (hard : Bool) : State :=
  (s.workCores l).foldl (fun s m => s.modCore m fun c =>
    { c with
      task := c.task.map fun t =>
        if m = l then { t with phase := .recovering, cause := cause, hard := hard } else { t with phase := .recovering }
      arrays := c.stopWork.arrays
      tm := [] }) s

/-- The work of core `l`'s task ends with DEVICE_LOST, case 3: it read data that is gone (R436, R458, R459). -/
def State.goneEnd (s : State) (l gi : Nat) : State :=
  let (g, q, d) := match (s.core l).task with | some t => (t.gang.isSome, t.queue, t.desc) | none => (false, 0, 0)
  (s.trap l gi stLost 0 0 0).lostRecord l g 3 q d

end Sys2Proof.Machine
end

