-- ==== Sys2Proof/Machine/MemOps.lean ====
section
/-! DEFINITION. The accesses of a core: addresses and their checks, local memory, the L1, the cluster cache, stores and
atomics (R165 to R169, file 05; R188 to R203, file 06). -/

namespace Sys2Proof.Machine

/-! ### Addresses (R152, R165, R166) -/

/-- Bytes of an access of SIZE. -/
def FmtM.bytes (f : FmtM) : Nat := 2 ^ f.size.toNat

/-- The registers of a data operand of `n` bytes. -/
def dataRegs (n r : Nat) : List Nat := (List.range (max 1 (n / 4))).map (r + ·)

/-- The register of a data operand of `n` bytes is aligned. -/
def dataOk (n r : Nat) : Bool := r % max 1 (n / 4) == 0

/-- The access is to local memory. -/
def FmtM.isLocal (f : FmtM) : Bool := f.space.toNat == 1

/-- Per-thread registers that form the address. -/
def FmtM.addrRegs (f : FmtM) (uld : Bool) : List Nat :=
  if uld then [] else if f.ubase.toNat = 1 || f.isLocal then [f.va.toNat] else [f.va.toNat, f.va.toNat + 1]

/-- Uniform registers that form the address. -/
def FmtM.addrU (f : FmtM) (uld : Bool) : List Nat := if uld || f.ubase.toNat == 1 then [f.vb.toNat] else []

/-- The fields of format M hold no reserved value: SPACE, SIZE, AOP in every instruction of the format, the pair of a global address,
the u register (R150, R152). -/
def FmtM.addrEnc (f : FmtM) (uld : Bool) : Bool :=
  decide (f.space.toNat < 2) && decide (f.size.toNat < 5) && decide (f.aop.toNat < 11) &&
  (uld || f.ubase.toNat == 1 || f.isLocal || f.va.toNat % 2 == 0) &&
  (!(uld || f.ubase.toNat == 1) || uOk f.vb)

/-- The address of a thread (R165): 64 bits for global, modulo 2^32 for local memory. -/
def FmtM.addr (f : FmtM) (g : Group) (uld : Bool) (t : Nat) : Nat :=
  let off : Int := sext 10 f.off.toNat * f.bytes
  let base : Nat :=
    if uld then (g.u f.vb.toNat).toNat
    else if f.ubase.toNat = 1 then (g.u f.vb.toNat).toNat + (g.v f.va.toNat t).toNat
    else if f.isLocal then (g.v f.va.toNat t).toNat
    else g.v64 f.va.toNat t
  lowBits (if f.isLocal then 32 else 64) (base + off)

/-- Where an access goes. -/
inductive Place where
  /-- local memory -/
  | lm (a : Nat)
  /-- a global location -/
  | loc (l : Loc)
deriving DecidableEq, Repr

/-- The local-memory size, 2 MiB. -/
def lmBytes : Nat := 2 ^ 21

/-- Checks 6 and 7 of Table 05.14 for one address. -/
def State.access (s : State) (asid : Nat) (isLocal : Bool) (a n : Nat) (p : Perm) (atomic : Bool) :
    Except (BitVec 8) Place :=
  if a % n ≠ 0 then .error stProgram
  else if isLocal then (if a < lmBytes then .ok (.lm a) else .error stAccess)
  else
    match s.translate asid a p with
    | none => .error stAccess
    | some (.dev d) => if (s.homeProgram d).isSome then .ok (.loc (.dev d)) else .error stAccess
    | some (.remote k d) => if s.fab.joined then .ok (.loc (.remote k d)) else .error stAccess
    | some (.host x) => if atomic then .error stAccess else .ok (.loc (.host x))

/-- The statuses of the threads whose access fails. -/
def failures (l : List (Nat × Except (BitVec 8) Place)) : List (BitVec 8) :=
  l.filterMap fun p => match p.2 with | .error e => some e | .ok _ => none

/-- The threads whose access fails. -/
def failThreads (l : List (Nat × Except (BitVec 8) Place)) : List Nat :=
  l.filterMap fun p => match p.2 with | .error _ => some p.1 | .ok _ => none

/-- The threads and places of accesses that pass. -/
def passes (l : List (Nat × Except (BitVec 8) Place)) : List (Nat × Place) :=
  l.filterMap fun p => match p.2 with | .error _ => none | .ok x => some (p.1, x)

/-! ### The host side of a task -/

/-- The port that carries a queue's host traffic: its function's, or in multipath mode port q mod 2, or the other while
that one is down (R374, file 11). -/
def State.queuePort (s : State) (q : Nat) : Nat :=
  if s.multipath then
    let p := q % 2
    if (s.port p).up then p else 1 - p
  else q / 2048

/-- The PASID space of a queue. -/
def State.queueSpace (s : State) (q : Nat) : Nat := pasidSpace (s.queue q).set.pasidEn (s.queue q).set.pasid

/-! ### Local memory (R182, R187) -/

/-- Bytes of local memory. -/
def Core.lmRead (c : Core) (a n : Nat) : List Byte := bytesAt (look 0 c.lm) a n

/-- Local memory with bytes written, and nothing else changed. -/
def Core.lmRaw (c : Core) (a : Nat) (bs : List Byte) : Core := { c with lm := putBytes c.lm a bs }

/-! ### Packed elements (R34, R35, file 02) -/

/-- Bits of element `x` of a packed row at `base`: elements follow each other from the lowest bit up. -/
def packed (rd : Nat → Byte) (f : Fmt) (base x : Nat) : Nat :=
  let b := f.bits * x
  natOf (bytesAt rd (base + b / 8) ((f.bits + 7) / 8 + 1)) >>> (b % 8) % 2 ^ f.bits

/-- The bytes of a packed row of elements. -/
def packRow (f : Fmt) (els : List Nat) : List Byte :=
  bytesOf ((els.length * f.bits + 7) / 8)
    ((els.foldr (fun x n => x % 2 ^ f.bits + n * 2 ^ f.bits) 0))

/-! ### Inputs of queued matrix descriptors (R75, R83, file 03) -/

/-- A field of a matrix descriptor (Table 03.3). -/
def MEntry.f (e : MEntry) (lo len : Nat) : Nat := fld e.desc lo len

/-- OP: 0 LOADB, 1 RUN, 2 LOADB+RUN. -/
def MEntry.op (e : MEntry) : Nat := e.f 0 2

/-- Rows of A and D. -/
def MEntry.rows (e : MEntry) : Nat := e.f 28 12 + 1

/-- Bytes that `n` packed elements of a format occupy: whole bytes, and whole groups of four for FP6 (R35, R64). -/
def Fmt.rowBytes (f : Fmt) (n : Nat) : Nat := if f.bits = 6 then (n + 3) / 4 * 3 else (n * f.bits + 7) / 8

/-- The format of a code, FP32 for a reserved one. -/
def fmtOf (c : Nat) : Fmt := (Fmt.ofCode c).getD .fp32

/-- K and N of the tile that a record loads (R74). -/
def tileK (tr : BitVec 512) : Nat := fld tr 44 10 + 1
def tileN (tr : BitVec 512) : Nat := fld tr 54 5 + 1

/-- D coincides exactly with C (R96). -/
def MEntry.inPlace (e : MEntry) : Bool :=
  e.f 3 1 == 1 && e.f 160 21 == e.f 128 21 && e.f 240 16 == e.f 224 16 && e.f 23 5 == e.f 18 5

/-- The rows, not written yet, of a RUN whose tile has the record `tr` that a write of `n` bytes from `a` on spoils: rows of whose A, scales
or C it meets a byte, and of a saved descriptor the window, where it meets the save area. `own`: it is the descriptor's own D row
(R83; log 99). -/
def MEntry.hit (e : MEntry) (tr : BitVec 512) (own : Bool) (a n : Nat) : List Nat :=
  let fa := fmtOf (e.f 8 5)
  let meets (m base stride len : Nat) : Bool := decide (base + m * stride < a + n) && decide (a < base + m * stride + len)
  if e.hasCopy && (e.op == 1 || e.op == 2) && !e.finished then
    (List.range e.rows).filter fun m => decide (e.written ≤ m) &&
      (meets m (e.f 64 21) (e.f 192 16) (fa.rowBytes (tileK tr)) ||
       (fa.scaled && meets m (e.f 256 21) (e.f 320 16) ((tileK tr + 31) / 32)) ||
       (e.f 3 1 == 1 && !(own && e.inPlace) && meets m (e.f 128 21) (e.f 224 16) ((fmtOf (e.f 18 5)).rowBytes (tileN tr))) ||
       (e.saved && decide (m < e.entered) && decide (e.f 416 21 < a + n) && decide (a < e.f 416 21 + 8448)))
  else []

/-- Queued descriptors whose inputs a write meets marked, each under the tile in force when it runs; `own`: the first
unfinished one is the writer. -/
def markQueue (a n : Nat) (own : Bool) (tr : BitVec 512) : List MEntry → List MEntry
  | [] => []
  | e :: r =>
    let tr := if e.op = 1 then tr else e.desc
    { e with broken := e.broken ++ (e.hit tr own a n).filter fun m => !e.broken.contains m } :: markQueue a n (own && e.finished) tr r

/-- An array whose queued descriptors a write may meet. -/
def MatArray.mark (m : MatArray) (a n : Nat) (own : Bool) : MatArray :=
  { m with queue := markQueue a n own (match m.tile with | some t => t.record | none => 0) m.queue }

/-- The queued descriptors of both arrays after a write to local memory; `own`: the array whose descriptor writes it. -/
def Core.lmMark (c : Core) (a n : Nat) (own : Option Nat) : Core :=
  { c with arrays := c.arrays.map fun p => (p.1, p.2.mark a n (own == some p.1)) }

/-- Local memory written by the lanes or by the tile mover. -/
def Core.lmWrite (c : Core) (a : Nat) (bs : List Byte) : Core := (c.lmMark a bs.length none).lmRaw a bs

/-! ### The L1 (R188 to R190) -/

/-- The set of an L1 line number (address div 128) among 128: its low bits (R188; log 12). -/
def l1Set (line : Nat) : Nat := line % 128

/-- Ways of an L1 set (R188). -/
def l1Ways : Nat := 8

/-- The L1 line with a number. -/
def Core.l1At (c : Core) (line : Nat) : Option L1Line := (look [] c.l1 (l1Set line)).find? fun x => x.line == line

/-- The L1 line that holds an address. -/
def Core.l1Line (c : Core) (a : Nat) : Option L1Line := c.l1At (a / 128)

/-- The L1 line with a number invalidated. -/
def Core.l1Remove (c : Core) (line : Nat) : Core :=
  { c with l1 := put [] c.l1 (l1Set line) ((look [] c.l1 (l1Set line)).filter fun x => x.line != line) }

/-- The L1 line of an address invalidated. -/
def Core.l1Drop (c : Core) (a : Nat) : Core := c.l1Remove (a / 128)

/-- Bytes of an L1 line. -/
def L1Line.read (x : L1Line) (a n : Nat) : List Byte := bytesAt (look 0 x.bytes) (a % 128) n

/-- A line put at the most-recently-used position of its L1 set; the eviction end leaves a full one (R188; log 12). -/
def Core.l1Put (c : Core) (x : L1Line) : Core :=
  let r := (look [] c.l1 (l1Set x.line)).filter fun y => y.line != x.line
  { c with l1 := put [] c.l1 (l1Set x.line) ((if r.length < l1Ways then r else r.drop 1) ++ [x]) }

/-- A store updates the L1 line that holds the address, if any (Table 06.2). -/
def Core.l1Store (c : Core) (a : Nat) (bs : List Byte) : Core :=
  match c.l1Line a with
  | none => c
  | some x => c.l1Put { x with bytes := putBytes x.bytes (a % 128) bs }

/-- The half line that holds an address, allocated in the L1 from the bytes of its 256-byte line. -/
def Core.l1Fill (c : Core) (a : Nat) (d : SMap Byte) : Core :=
  let base := a % 256 / 128 * 128
  let bs := (List.range 128).map fun i => look 0 d (base + i)
  c.l1Put { line := a / 128, bytes := putBytes [] 0 bs }

/-! ### Reads through the cluster cache (R192, R195) -/

/-- The cluster cache can serve `n` bytes at offset `o` of a line: S, E and M hold every byte, P its merged bytes. -/
def CcLine.serves (x : CcLine) (o n : Nat) : Bool :=
  x.st != .pend || (List.range n).all fun i => bitAt x.dirty (o + i)

/-- A read lookup counted. -/
def State.ccCount (s : State) (cl : Nat) (hit : Bool) : State :=
  s.modCluster cl fun c =>
    if hit then { c with ccRdHit := bump 48 c.ccRdHit } else { c with ccRdMiss := bump 48 c.ccRdMiss }

/-- Bytes of a line. -/
def lineBytes (d : SMap Byte) (o n : Nat) : List Byte := bytesAt (look 0 d) o n

/-- The acquire bit of ORD. -/
def FmtM.acquires (f : FmtM) : Bool := f.ord.toNat == 1 || f.ord.toNat == 3

/-- The release bit of ORD. -/
def FmtM.releases (f : FmtM) : Bool := f.ord.toNat == 2 || f.ord.toNat == 3

/-- The hint of a load in force: a twin's LASTUSE reads are performed as KEEP (R439, file 12). -/
def loadHint (t : Task) (f : FmtM) : Nat := if t.twinOf.isSome && f.hint.toNat == 2 then 0 else f.hint.toNat

/-- One thread's part of a load of device memory as it issues: served from the L1 or the cluster cache where they hold
it, else left to the line's arrival (Table 06.2). A load that the merged bytes of a line in P serve brings nothing into the L1,
since the line is not whole there (log 59). A LASTUSE read is looked up, and served below. -/
def State.loadDev (s : State) (l a n hint : Nat) (acquire : Bool) (t : Nat) : State × LoadPiece :=
  let line := a / 256
  let o := a % 256
  let cl := s.clusterOf l
  let p : LoadPiece := { thread := t, tgt := 0, addr := a }
  let plain := !acquire && hint != 2
  match (if plain then (s.core l).l1Line a else none) with
  | some x => (s.modCore l fun c => c.l1Put x, { p with value := some (x.read a n) })
  | none =>
    let s := if plain then s else s.modCore l fun c => c.l1Drop a
    match s.cc cl line with
    | some x =>
      if hint = 2 then (s.ccCount cl true, p)
      else if x.serves o n && (s.lossIn line o n x.dirty).isNone then
        let s := (s.ccCount cl true).moveCc cl line true
        let s := if plain && hint != 1 && x.st != .pend && !s.lostIn line then s.modCore l fun c => c.l1Fill a x.bytes else s
        (s, { p with value := some (lineBytes x.bytes o n) })
      else (s.ccCount cl false, p)
    | none => (s.ccCount cl false, p)

/-- One thread's part of a load as it issues. A read in another package becomes a GET (R347, file 10). -/
def State.loadPiece (s : State) (l gi dest n hint : Nat) (acquire : Bool) (lenient : Bool) (t : Nat) (x : Place) :
    State × LoadPiece :=
  match x with
  | .lm a => (s, { thread := t, tgt := 3, addr := a, value := some ((s.core l).lmRead a n) })
  | .loc (.dev a) => s.loadDev l a n hint acquire t
  | .loc (.host a) => (s, { thread := t, tgt := 2, addr := a })
  | .loc (.remote k a) =>
    (s.fabRequest (mkGet k a n hint lenient) (.load l gi dest t), { thread := t, tgt := 1, addr := k * 2 ^ 44 + a })

/-- The parts of a load in increasing thread index (R168). -/
def State.loadPieces (s : State) (l gi dest n hint : Nat) (acquire lenient : Bool) :
    List (Nat × Place) → State × List LoadPiece
  | [] => (s, [])
  | (t, x) :: r =>
    let (s, p) := s.loadPiece l gi dest n hint acquire lenient t x
    let (s, ps) := s.loadPieces l gi dest n hint acquire lenient r
    (s, p :: ps)

/-- The status of task work for the status of a fabric answer (R342, file 10). -/
def fabStatus (st : BitVec 8) : BitVec 8 :=
  match st.toNat with
  | 3 => stAccess
  | 4 => stLastUse
  | 6 => stAccess
  | _ => stLost

/-! ### Stores (R192, R193, R419, R357) -/

/-- The mask of the offsets written. -/
def writeMask (ws : List (Nat × Byte)) : BitVec 256 := ws.foldl (fun m w => m ||| BitVec.ofNat 256 (2 ^ w.1)) 0

/-- A store accepted by the cluster cache (Table 06.3): E and M take the bytes at once, the others hold them in P until ownership is
granted. The undo log takes the line's value, now where the line is owned, else with the grant. `none`: a shadow or an
undo entry would not fit, so the work ends with CAPACITY_SHORT (R192, R357, R419, R420). -/
def State.ccStore (s : State) (l line va hint asid : Nat) (ws : List (Nat × Byte)) (prod : Option (Nat × Nat × Nat)) :
    Option State :=
  let cl := s.clusterOf l
  let log := s.needsUndo l line va
  if log && s.undoFull l then none
  else match s.shadowTouch line with
  | none => none
  | some s =>
    let s := if log then s.undoMark l line else s
    let s := s.produce line prod
    let s := s.modCluster cl fun c => { c with ccWr := bump 48 c.ccWr }
    if s.uncacheable line then
      let s := if log then s.undoPush l line (some (imageOf (s.lineValue line))) false else s
      some (s.homeWrite (s.ccReq cl line hint asid false) line ws prod).s
    else
      let m := writeMask ws
      let s := (s.ccSpace cl line).moveCc cl line true
      match s.cc cl line with
      | some x =>
        let y := { x with bytes := mergeBytes x.bytes ws, dirty := x.dirty ||| m, hint := hint, pinAsid := asid }
        match x.st with
        | .exclusive | .modified =>
          let s := if log then s.undoPush l line (some (imageOf x.bytes)) false else s
          let pkg := x.st == .exclusive || x.atPkg
          some ((s.putCc cl line (some { y with st := .modified, atDie := true, atPkg := pkg })).clearLost line (bitAt y.dirty))
        | .pend => some (s.putCc cl line (some { y with loggers := if log then x.loggers ++ [l] else x.loggers }))
        | .shared => some (s.putCc cl line (some { y with st := .pend, dirty := m, atDie := false, atPkg := false, asked := false,
                                                          loggers := if log then [l] else [] }))
      | none => some (s.putCc cl line (some { st := .pend, bytes := mergeBytes [] ws, dirty := m, hint := hint,
                                              pinAsid := asid, loggers := if log then [l] else [] }))

/-- Bytes placed at an offset of their line. -/
def atOffset (o : Nat) (bs : List Byte) : List (Nat × Byte) := (List.range bs.length).map fun i => (o + i, bs.getD i 0)

/-- A twin's write captured at its device virtual address, or the twin abandoned beyond 1 MiB (R439, file 12). -/
def State.capture (s : State) (l a : Nat) (bs : List Byte) : State :=
  s.modCore l fun c => { c with task := c.task.map fun t =>
    let m := (atOffset a bs).foldl (fun m w => put none m w.1 (some w.2)) t.captured
    if m.length > 2 ^ 20 then { t with twinVoid := true } else { t with captured := m } }

/-- A twin abandoned (R439). -/
def State.twinAbandon (s : State) (l : Nat) : State :=
  s.modCore l fun c => { c with task := c.task.map fun t => { t with twinVoid := true } }

/-- One thread's store (R189, R192, R347). `none`: CAPACITY_SHORT. -/
def State.storeOne (s : State) (l va hint : Nat) (t : Task) (rel : Bool) (x : Place) (bs : List Byte) : Option State :=
  match x with
  | .lm a => some (s.modCore l fun c => c.lmWrite a bs)
  | .loc (.dev a) =>
    if t.twinOf.isSome then some (s.capture l va bs)
    else
      let s := s.modCore l fun c => c.l1Store a bs
      s.ccStore l (a / 256) va hint t.asid (atOffset (a % 256) bs) (s.taskProducer l)
  | .loc (.host a) =>
    if t.twinOf.isSome then some (s.twinAbandon l)
    else some (s.hostWrite (s.queuePort t.queue) (s.queueSpace t.queue) a bs)
  | .loc (.remote k a) =>
    if t.twinOf.isSome then some (s.twinAbandon l)
    else some (s.fabRequest (mkPut k a bs hint rel) (.store l))

/-! ### Atomic operations (Table 05.11) -/

/-- AOP and SIZE name an operation of Table 05.11. The table is silent on SX with an operation other than MIN and MAX: the model
accepts it and it changes nothing (DESIGN CHOICE, log 94). -/
def aopOk (aop size : Nat) : Bool :=
  if aop < 8 then size == 2 || size == 3 else if aop < 11 then size == 2 else false

/-- The new value of an atomic on `w` bits: `b` the operand, `c` the new value of CAS. -/
def aopNew (aop w : Nat) (sx : Bool) (old b c : Nat) : Nat :=
  let less : Bool := if sx then decide (sext w old < sext w b) else decide (old < b)
  let half (f : Fmt) (i : Nat) : Nat :=
    f.encode .rne false ((f.decodeElem (old >>> (16 * i) % 65536)).add (f.decodeElem (b >>> (16 * i) % 65536)))
  match aop with
  | 0 => (old + b) % 2 ^ w
  | 1 => if less then old else b
  | 2 => if less then b else old
  | 3 => old &&& b
  | 4 => old ||| b
  | 5 => old ^^^ b
  | 6 => b
  | 7 => if old = b then c else old
  | 8 => fp32Of .rne ((fp32Val old).add (fp32Val b))
  | 9 => half .bf16 0 + half .bf16 1 * 65536
  | _ => half .fp16 0 + half .fp16 1 * 65536

/-- The atomic's written bytes on a line, and its effect as a function of the line. -/
def aopLine (aop : Nat) (sx : Bool) (o n b c : Nat) (d : SMap Byte) : List (Nat × Byte) :=
  atOffset o (bytesOf n (aopNew aop (8 * n) sx (natOf (lineBytes d o n)) b c))

/-- The outcome of one thread's atomic. -/
structure AtomOut where
  /-- the state after it -/
  s : State
  /-- the old value, where it was performed here -/
  old : Option (List Byte) := none
  /-- poisoned and not performed -/
  poison : Bool := false
  /-- CAPACITY_SHORT: nothing performed -/
  short : Bool := false
  /-- a lost codeword was reached, and nothing performed; true in the second part when it is gone -/
  lost : Option Bool := none

/-- An atomic on device memory, where its scope places it (R197, R198, Table 06.4): at cluster scope in the issuing core's cluster
cache, once the line is owned; wider, at the home slice, once every pending and modified copy has been written back. The line's
open transactions close first. `ret`: ATOM. -/
def State.atomDev (s : State) (l va a n scope hint : Nat) (lenient ret : Bool) (asid aop : Nat) (sx : Bool) (b c : Nat) :
    AtomOut :=
  let line := a / 256
  let o := a % 256
  let cl := s.clusterOf l
  let s := s.modCore l fun k => k.l1Drop a
  let rq : Req := { s.ccReq cl line hint asid lenient with atomic := true }
  let log := s.needsUndo l line va
  let near := scope = 0 && !s.uncacheable line
  if log && s.undoFull l then { s := s, short := true }
  else
  let s := if near then (s.settle line).ownNow cl line else s.dirForAtomic line
  let held := if near then s.cc cl line else none
  let lost := s.lossIn line o n (match held with | some x => x.dirty | none => 0)
  if lost.isSome then { s := s, lost := lost }
  else if s.inLedger line && ret && !lenient then { s := (s.ledgerRead rq line).s, poison := true }
  else match s.shadowTouch line with
  | none => { s := s, short := true }
  | some s =>
    let s := if log then (s.undoMark l line).undoPush l line (some (imageOf (s.lineValue line))) false else s
    if near then
      let s := if s.inLedger line then
          s.modHome line fun sl => { sl with ledLenient := bump 48 sl.ledLenient } else s
      let s := match held with
        | some x => if x.st = CcSt.shared then s.putCc cl line (some { x with st := .pend, dirty := 0, hint := hint }) else s
        | none => (s.ccSpace cl line).putCc cl line (some { st := .pend, hint := hint, pinAsid := asid })
      let s := (s.ownNow cl line).moveCc cl line true
      match s.cc cl line with
      | none => { s := s, short := true }
      | some x =>
        let ws := aopLine aop sx o n b c x.bytes
        let s := s.modCluster cl fun k => { k with ccAtomic := bump 48 k.ccAtomic }
        let s := s.putCc cl line (some { x with
          st := .modified, bytes := mergeBytes x.bytes ws, dirty := x.dirty ||| writeMask ws, hint := hint, atDie := true,
          atPkg := true })
        { s := s.produce line none, old := some (lineBytes x.bytes o n) }
    else
      let r := s.homeAtomic rq line ret (aopLine aop sx o n b c)
      { s := r.s, old := some (lineBytes r.data o n), poison := r.poison, short := r.short }

end Sys2Proof.Machine
end

