-- ==== Sys2Proof/Machine/Global.lean ====
section
/-! DEFINITION. Reads and writes of device virtual addresses by the tile movers and the engines: cut at 256-byte lines, each
piece translated, checked and performed at its home slice, in host memory, or in another package (R194, R206, file 06;
R260, file 08; R346, R347, file 10). -/

namespace Sys2Proof.Machine

/-- On whose behalf an engine accesses memory. -/
structure GCtx where
  /-- the work that waits for fabric answers -/
  who : ReqWho
  /-- master class -/
  m : Master
  /-- address space -/
  asid : Nat
  /-- the queue is lenient -/
  lenient : Bool
  /-- host port of the queue -/
  port : Nat
  /-- PASID space of the queue -/
  space : Nat
  /-- the core whose undo log records the accesses, and whose cluster cache they check -/
  core : Option Nat := none
  /-- what the producer record names for a write -/
  prod : Option (Nat × Nat × Nat) := none
  /-- the own cluster cache first writes back its lines (R242) -/
  flush : Bool := false
  /-- the writes of a twin are captured (R439) -/
  twin : Bool := false

/-- What came of an access. -/
structure GOut where
  /-- the state -/
  s : State
  /-- the bytes read -/
  data : List Byte := []
  /-- the status with which the access fails -/
  bad : Option (BitVec 8) := none
  /-- a lost codeword was reached; true in the second part when it is gone -/
  lost : Option Bool := none
  /-- an answer from another package is still out -/
  wait : Bool := false

/-- The access went through. -/
def GOut.ok (r : GOut) : Bool := r.bad.isNone && r.lost.isNone && !r.wait

/-- The pieces (address, bytes) of a run of bytes, one for each 256-byte line it touches. -/
def linePieces (a n : Nat) : List (Nat × Nat) :=
  if n = 0 then []
  else (List.range ((a + n - 1) / 256 - a / 256 + 1)).map fun i =>
    let lo := max a ((a / 256 + i) * 256)
    (lo, min (a + n) ((a / 256 + i + 1) * 256) - lo)

/-- Where a virtual address leads for an engine, with checks 7's range, translation and permission (R260, R288, R347). -/
def State.gPlace (s : State) (asid va : Nat) (p : Perm) : Option Loc :=
  match s.translate asid va p with
  | none => none
  | some (.dev a) => if (s.homeProgram a).isSome then some (.dev a) else none
  | some (.remote k a) => if s.fab.joined then some (.remote k a) else none
  | some (.host a) => some (.host a)

/-- A read of one line's bytes at its home slice, over which the own cluster's merged bytes stand; where they are all that is
read, a poisoned answer does no harm (R194). -/
def State.gReadDev (s : State) (g : GCtx) (hint a n : Nat) : GOut :=
  let line := a / 256
  let o := a % 256
  let own := g.core.bind fun l => (s.cc (s.clusterOf l) line).bind fun x =>
    if (x : CcLine).st = CcSt.pend then some (s.clusterOf l, x) else none
  let s := match own with
    | some (cl, _) => if hint = 2 || g.flush then s.ownNow cl line else s
    | none => s
  let tag := match g.core with | some l => s.ownerTag (s.clusterOf l) line | none => false
  let rq : Req := { m := g.m, hint := hint, asid := g.asid, lenient := g.lenient,
                    narrow := o / 32 == (o + n - 1) / 32, owner := tag }
  let full := match g.core with | some l => s.undoFull l | none => false
  if hint = 2 && full && !s.inLedger line then { s := s, bad := some stCapacity }
  else
    let r := if hint = 2 then s.lastUseRead rq line o n g.core else s.homeRead rq line
    let own8 : BitVec 256 := match own with | some (_, x) => if hint = 2 || g.flush then 0 else x.dirty | none => 0
    let d := match own with
      | some (_, x) => if hint = 2 || g.flush then r.data else overlay r.data x.bytes x.dirty
      | none => r.data
    { s := r.s, data := lineBytes d o n, bad := if r.poison && !(List.range n).all (fun i => bitAt own8 (o + i)) then some stLastUse else none,
      lost := if r.lost then r.s.lossIn line o n own8 else none }

/-- A read in another package: a GET is sent once, and its answer taken when it has come (R347). -/
def State.gReadRemote (s : State) (g : GCtx) (hint pkg a n : Nat) : GOut :=
  match s.fab.reqs.find? fun r => decide (r.who = g.who) && r.msg.kind.toNat == 1 && r.msg.dst.toNat == pkg &&
      r.msg.addr.toNat == a && r.msg.bytes.toNat + 1 == n with
  | none => { s := s.fabRequest (mkGet pkg a n hint g.lenient) g.who, wait := true }
  | some r =>
    match r.status, r.answer with
    | some st, _ => { s := s, bad := some (fabStatus st) }
    | none, some d => { s := s, data := d }
    | none, none => { s := s, wait := true }

/-- One piece read. -/
def State.gReadPiece (s : State) (g : GCtx) (hint va n : Nat) : GOut :=
  match s.gPlace g.asid va .r with
  | none => { s := s, bad := some stAccess }
  | some (.dev a) => s.gReadDev g hint a n
  | some (.remote k a) => s.gReadRemote g hint k a n
  | some (.host a) => { s := s, data := s.hostRead g.port g.space a n }

/-- Pieces read in order, up to the first that fails; with answers outstanding the later requests still go out. -/
def State.gReadAll (s : State) (g : GCtx) (hint : Nat) : List (Nat × Nat) → GOut
  | [] => { s := s }
  | (va, n) :: r =>
    let x := s.gReadPiece g hint va n
    if x.bad.isSome || x.lost.isSome then x
    else
      let y := x.s.gReadAll g hint r
      { y with data := x.data ++ y.data, wait := x.wait || y.wait }

/-- All remote pieces of a run of bytes have their answers. -/
def State.gArrived (s : State) (g : GCtx) (va n : Nat) : Bool :=
  (linePieces va n).all fun p =>
    match s.gPlace g.asid p.1 .r with
    | some (.remote k a) => s.fab.reqs.any fun r => decide (r.who = g.who) && r.msg.kind.toNat == 1 &&
        r.msg.dst.toNat == k && r.msg.addr.toNat == a && r.msg.bytes.toNat + 1 == p.2 &&
        (r.answer.isSome || r.status.isSome)
    | _ => true

/-- The GETs that a run of bytes needs sent, and nothing else done. -/
def State.gAsk (s : State) (g : GCtx) (hint va n : Nat) : State :=
  (linePieces va n).foldl (fun s p =>
    match s.gPlace g.asid p.1 .r with
    | some (.remote k a) => (s.gReadRemote g hint k a p.2).s
    | _ => s) s

/-- `n` bytes read: first every GET is answered, then the pieces are read. -/
def State.gRead (s : State) (g : GCtx) (hint va n : Nat) : GOut :=
  if s.gArrived g va n then s.gReadAll g hint (linePieces va n)
  else { s := s.gAsk g hint va n, wait := true }

/-- A write of one line's bytes (R231, R357, R419, R431). -/
def State.gWriteDev (s : State) (g : GCtx) (hint va a : Nat) (bs : List Byte) : GOut :=
  let line := a / 256
  let tag := match g.core with | some l => s.ownerTag (s.clusterOf l) line | none => false
  let rq : Req := { m := g.m, hint := hint, asid := g.asid, lenient := g.lenient, owner := tag }
  let put (s : State) : GOut :=
    let r := s.homeWrite rq line (atOffset (a % 256) bs) g.prod
    { s := r.s, bad := if r.short then some stCapacity else none }
  match g.core with
  | none => put s
  | some l =>
    if g.twin then { s := s.capture l va bs }
    else
      let s := s.ownNow (s.clusterOf l) line
      if s.needsUndo l line va then
        if s.undoFull l then { s := s, bad := some stCapacity }
        else put ((s.undoMark l line).undoPush l line (some (imageOf (s.lineValue line))) false)
      else put s

/-- One piece written. -/
def State.gWritePiece (s : State) (g : GCtx) (hint va : Nat) (bs : List Byte) : GOut :=
  match s.gPlace g.asid va .w with
  | none => { s := s, bad := some stAccess }
  | some (.dev a) => s.gWriteDev g hint va a bs
  | some (.remote k a) =>
    if g.twin then { s := match g.core with | some l => s.twinAbandon l | none => s }
    else { s := s.fabRequest (mkPut k a bs hint false) g.who }
  | some (.host a) =>
    if g.twin then { s := match g.core with | some l => s.twinAbandon l | none => s }
    else { s := s.hostWrite g.port g.space a bs }

/-- Pieces written in order, up to the first that fails. -/
def State.gWriteAll (s : State) (g : GCtx) (hint va : Nat) (bs : List Byte) : List (Nat × Nat) → GOut
  | [] => { s := s }
  | (a, n) :: r =>
    let x := s.gWritePiece g hint a ((bs.drop (a - va)).take n)
    if x.ok then x.s.gWriteAll g hint va bs r else x

/-- Bytes written from a virtual address on. -/
def State.gWrite (s : State) (g : GCtx) (hint va : Nat) (bs : List Byte) : GOut :=
  s.gWriteAll g hint va bs (linePieces va bs.length)

/-- The answered reads of some work forgotten; its writes go on waiting for their answers. -/
def State.fabForgetReads (s : State) (who : ReqWho) : State :=
  s.onFab fun f => { f with reqs := f.reqs.filter fun r => !(decide (r.who = who) && r.msg.kind.toNat == 1) }

/-- Bytes of a list replaced by free values where `p` holds of their index (log 4). -/
def State.freeWhere (s : State) (bs : List Byte) (p : Nat → Bool) : List Byte × State :=
  (bs.mapIdx fun i b => if p i then BitVec.ofNat 8 (Config.freeWord (s.free + i)).toNat else b,
   { s with free := s.free + bs.length })

end Sys2Proof.Machine
end

