-- ==== Sys2Proof/Machine/Preempt.lean ====
section
/-! DEFINITION. The start of a task and its pre-emption (R133, R134, R137 to R139, R145, file 04). -/

namespace Sys2Proof.Machine

/-! ### Starting a task (R133, R134) -/

/-- A group at the start of its task (Table 04.3). `g`: its index in the task. -/
def Group.start (t : Task) (l g : Nat) : Group :=
  let u : SMap W64 := [(0, t.args), (1, bits 64 t.index), (2, bits 64 t.grid), (3, bits 64 l), (4, bits 64 t.rank),
    (5, bits 64 g), (6, bits 64 t.groups), (7, bits 64 t.members)]
  let v0 : SMap W32 := (List.range 32).map fun i => (i, bits 32 i)
  let v1 : SMap W32 := (List.range 32).map fun i => (32 + i, bits 32 (g * 32 + i))
  { used := true, uregs := normal 0 u, vregs := normal 0 (v0 ++ v1),
    pcs := normal 0 ((List.range 32).map fun i => (i, t.entry)) }

/-- The first slot of a task's groups. -/
def Task.base (t : Task) : Nat := if t.prio = .urgent then 16 - t.groups else 0

/-- The groups of a task at its start. -/
def Task.startGroups (t : Task) (l : Nat) : SMap Group := (List.range t.groups).map fun g => (t.base + g, Group.start t l g)

/-- A core that starts a task: local memory is cleared after another address space or none; everything else of the task is
new, and the instruction cache is empty (R133, R134, R145, R172). -/
def Core.startTask (c : Core) (l : Nat) (t : Task) : Core :=
  { c with
    task := some t
    groups := t.startGroups l
    lm := if c.lastAsid = some t.asid then c.lm else []
    arrays := [], tm := [], outst := [], l1 := [], barriers := [], undo := [], undoSeen := [],
    arithOrder := [], memOrder := [], watch := {}, still := [], icache := [] }

/-! ### Pre-emption (R137, R138) -/

/-- A watchdog timer paused, and one that goes on (R145). -/
def Watch.pause (w : Watch) (now : Nat) : Watch := { w with acc := w.count now, hold := true, since := now }
@[inherit_doc Watch.pause]
def Watch.resume (w : Watch) (now : Nat) : Watch := { w with hold := false, since := now }

/-- The displaced state of a core: the slots from `lo` on and local memory below `lm` (R137). -/
def Core.frameOf (c : Core) (t : Task) (lo lm : Nat) : Frame :=
  { task := { t with suspended := true }
    groups := c.groups.filter fun p => decide (lo ≤ p.1)
    lm := c.lm.filter fun p => decide (p.1 < lm)
    lmSize := lm
    barriers := c.barriers
    tiles := c.arrays.filterMap fun p => p.2.tile.map fun x => (p.1, x)
    returned := (c.arrays.map fun p => (p.1, p.2.queue ++ p.2.returned)).filter fun p => !p.2.isEmpty
    tm := c.tm
    undo := c.undo
    undoSeen := c.undoSeen }

/-- An URGENT task starts on the displaced slots of a core, with an empty L1 (Table 04.4, R145, R190). -/
def Core.preempt (c : Core) (l now : Nat) (old t : Task) : Core :=
  let lo := 16 - t.groups
  { c with
    frame := some { c.frameOf old lo t.lmSize with watch := c.watch.pause now }
    task := some t
    urgent := none
    groups := c.groups.filter (fun p => decide (p.1 < lo)) ++ t.startGroups l
    lm := if old.asid = t.asid then c.lm else c.lm.filter fun p => decide (t.lmSize ≤ p.1)
    arrays := [], tm := [], l1 := [], barriers := [], undo := [], undoSeen := [], watch := {}, still := [], icache := [] }

/-- No access of a displaced slot is outstanding (step 3 of Table 04.4). -/
def Core.quiet (c : Core) (lo : Nat) : Bool := c.outst.all fun o => decide (o.group < lo)

/-- Steps 4 to 6 of Table 04.4: the displaced state is saved and the URGENT task starts. The timers of the pre-empted task's gang
pause (R145). -/
def State.preemptNow (s : State) (l : Nat) (old t : Task) : State :=
  let now := s.ticks.toNat
  let s := s.modCore l fun c => c.preempt l now old t
  match old.gang with
  | some g => (s.gangCores g).foldl (fun s m => s.modCore m fun c => { c with watch := c.watch.pause now }) s
  | none => s

/-- A pre-emption that has been requested completes once both arrays hold no work and every access of a displaced slot has
returned (steps 2 and 3 of Table 04.4). It waits while the task is held, has trapped or is being recovered. -/
def State.preemptTry (s : State) (l : Nat) : State :=
  let c := s.core l
  match c.urgent, c.task with
  | some t, some old =>
    if old.phase == .running && !old.held && c.quiet (16 - t.groups) && [0, 1].all (fun a => (c.arr a).stop != .stopping) then
      s.preemptNow l old t
    else s
  | _, _ => s

end Sys2Proof.Machine
end

