-- ==== Sys2Proof/Machine/MemPort.lean ====
section
/-! DEFINITION. The memory instructions LD, ST, ULD, ATOM, RED, PREF, UNPIN, INV.L1 and FENCE, the return of data, and the
expiry of an L1 line (R165 to R170, R177, R178, file 05; R186 to R204, file 06). -/

namespace Sys2Proof.Machine

/-! ### Waiting for earlier accesses -/

/-- A group has reads or atomics of some threads that have not returned. -/
def Core.readsOut (c : Core) (gi : Nat) (threads : List Nat) : Bool :=
  c.outst.any fun o => o.group == gi && (o.uniform || o.pieces.any fun p => threads.contains p.thread)

/-- The earlier reads and remote writes that a release waits for are over (R201, R347). -/
def State.releaseReady (s : State) (l gi : Nat) (threads : List Nat) : Bool :=
  !(s.core l).readsOut gi threads && !s.fabWaits (.store l)

/-- The writes that a release at a scope waits for made performed: at cluster scope the cluster cache has accepted them
already; a wider one has every pending line of the cluster owned and acknowledged (R199, R201; log 11). -/
def State.releaseDrain (s : State) (l scope : Nat) : State := if scope = 0 then s else s.drainCluster (s.clusterOf l)

/-- The L1 of a core invalidated (R190). -/
def State.l1Clear (s : State) (l : Nat) : State := s.modCore l fun c => { c with l1 := [] }

/-- Threads of a group set to wait. -/
def State.setWaits (s : State) (l gi : Nat) (threads : List Nat) (w : WaitReason) : State :=
  s.modCore l fun k => k.modGroup gi fun g => threads.foldl (fun g t => g.setWait t w) g

/-- An issue whose instruction also waits for a condition of the machine. -/
def issueWhen (ready : Ctx → State → Bool) (site : Site) (h : Hdr) (n : Needs) (k : Ctx → State → State) (s : State) :
    Host.Outcome State Fault Refusal :=
  match s.ctx? site h with
  | none => .refused .notIssuable
  | some c => if ready c s then issue site h n k s else .refused .notReady

/-- A twin that was abandoned stops without effect (R439, file 12). -/
def State.twinStop (s : State) (l : Nat) : State :=
  match (s.core l).task with
  | some t => if t.twinVoid then s.modCore l Core.release else s
  | none => s

/-! ### Lines that return -/

/-- What came of one part of an outstanding access as its data returns. -/
structure PieceOut where
  /-- the state -/
  s : State
  /-- the data -/
  value : List Byte := []
  /-- the status with which the part fails -/
  bad : Option (BitVec 8) := none
  /-- a lost codeword was reached; true in the second part when it is gone -/
  lost : Option Bool := none

/-- A line that a load brings goes to the L1 of its core where it is whole in the cluster cache; else any older copy there goes,
so that no later load of the core reads an older value (R189, R200; log 59). -/
def State.l1Bring (s : State) (l : Nat) (o : Outst) (a : Nat) (x : Option CcLine) : State :=
  match x with
  | some x =>
    if !o.acquire && o.hint != 1 && x.st != .pend && !s.lostIn (a / 256) then s.modCore l fun c => c.l1Fill a x.bytes
    else s.modCore l fun c => c.l1Drop a
  | none => s.modCore l fun c => c.l1Drop a

/-- A read of a line of device memory that neither the L1 nor the cluster cache served at issue. -/
def State.lineReturn (s : State) (l : Nat) (t : Task) (o : Outst) (a : Nat) : PieceOut :=
  let line := a / 256
  let off := a % 256
  let n := o.size
  let cl := s.clusterOf l
  let s := match s.cc cl line with
    | some x => if o.hint = 2 || !x.serves off n || s.lostIn line then s.ownNow cl line else s
    | none => s
  if o.hint = 2 then
    if s.undoFull l && !s.inLedger line then { s := s, bad := some stCapacity }
    else
      let r := (s.modCore l fun c => c.l1Drop a).lastUseRead
        { m := .core, asid := t.asid, lenient := t.lenient, owner := s.ownerTag cl line } line off n (some l)
      { s := r.s, value := lineBytes r.data off n, bad := if r.poison then some stLastUse else none,
        lost := if r.lost then some ((r.s.lossIn line off n 0).getD false) else none }
  else
    match s.cc cl line with
    | some x =>
      match s.lossIn line off n x.dirty with
      | some gone => { s := s, lost := some gone }
      | none => { s := s.l1Bring l o a (some x), value := lineBytes x.bytes off n }
    | none =>
      let r := ((s.settle line).unblock line).readHome cl line o.hint t.asid t.lenient
      let s := r.s.settle line
      if r.poison then { s := s, bad := some stLastUse }
      else match s.lossIn line off n 0 with
        | some gone => { s := s, lost := some gone }
        | none =>
          { s := s.l1Bring l o a (s.cc cl line),
            value := lineBytes (match s.cc cl line with
              | some x => x.bytes
              | none => if r.data.isEmpty then s.homeData line else r.data) off n }

/-- A part of a load of device memory that has not returned, of a line and group. -/
def Outst.awaits (o : Outst) (gi line : Nat) (p : LoadPiece) : Bool :=
  o.group == gi && p.tgt == 0 && p.addr / 256 == line && p.value.isNone && p.bad.isNone && p.lost.isNone

/-- The parts of earlier loads of a group from a line performed before a later access of the group to that line, so that none of
them reads a later value (R200; log 13). The data is written to its registers when DATA_RETURN comes. -/
def State.readFirst (s : State) (l gi line : Nat) : State :=
  match (s.core l).task with
  | none => s
  | some t =>
    each (List.range (s.core l).outst.length) (fun k s =>
      match (s.core l).outst[k]? with
      | none => s
      | some o => each (List.range o.pieces.length) (fun j s =>
          match o.pieces[j]? with
          | none => s
          | some p =>
            if !o.awaits gi line p then s
            else
              let r := s.lineReturn l t o p.addr
              let q := { p with value := if r.bad.isNone && r.lost.isNone then some r.value else none, bad := r.bad, lost := r.lost }
              r.s.modCore l fun c => { c with outst := c.outst.modify k fun o => { o with pieces := o.pieces.set j q } }) s) s

/-- The same for the place of an access. -/
def State.readFirstAt (s : State) (l gi : Nat) (x : Place) : State :=
  match x with
  | .loc (.dev a) => s.readFirst l gi (a / 256)
  | _ => s

/-! ### Loads -/

/-- What a memory instruction reads and writes: the address registers, the atomic operand `vb` and the store data `vd`. HOLD takes
them as sources A, B and C (Table 05.1, R119; log 98). -/
def FmtM.needs (f : FmtM) (h : Hdr) (uld : Bool) (vb vd vw uw : List Nat) (enc : Bool) : Needs :=
  let va := f.addrRegs uld
  { reads := [va, vb, vd].filter fun x => !x.isEmpty
    vw := vw, ur := f.addrU uld, uw := uw, enc := f.addrEnc uld && enc, arith := false
    hold := (if bitAt h.hold 0 then va else []) ++ (if bitAt h.hold 1 then vb else []) ++ (if bitAt h.hold 2 then vd else []) }

/-- The accesses of the acting threads with their checks. -/
def FmtM.accesses (f : FmtM) (c : Ctx) (s : State) (p : Perm) (atomic : Bool) : List (Nat × Except (BitVec 8) Place) :=
  c.act.map fun t => (t, s.access c.task.asid f.isLocal (f.addr c.g false t) f.bytes p atomic)

/-- The trap of an instruction for the threads whose checks failed, or else the effect. -/
def orTrap (c : Ctx) (l : List (Nat × Except (BitVec 8) Place)) (k : State → State) (s : State) : State :=
  match worstOf (failures l) with
  | some st => s.trapAt c st (failThreads l) 0
  | none => k s

/-- A load that starts: its parts, the registers it keeps waiting, and the wait of an acquire (R155, R202). -/
def State.startLoad (s : State) (c : Ctx) (o : Outst) (ps : List (Nat × Place)) (regs : List Nat) : State :=
  if ps.isEmpty then s
  else
    let s := ps.foldl (fun s p => s.readFirstAt c.l c.gi p.2) s
    let (s, pieces) := s.loadPieces c.l c.gi o.dest o.size o.hint o.acquire c.task.lenient ps
    let s := s.modCore c.l fun k =>
      { k.modGroup c.gi fun g =>
          if o.uniform then { g with pendU := g.pendU ++ regs } else { g with pendV := g.pendV ++ regs } with
        outst := k.outst ++ [{ o with pieces := pieces }] }
    if o.acquire then s.setWaits c.l c.gi (if o.uniform then c.act else ps.map (·.1)) .acquire else s

/-- The outstanding entry of a load. -/
def FmtM.outst (f : FmtM) (c : Ctx) : Outst :=
  { group := c.gi, pc := c.pc, dest := f.vd.toNat, size := f.bytes, signed := f.sx.toNat == 1,
    hint := loadHint c.task f, acquire := f.acquires && !f.isLocal, scope := f.scope.toNat }

/-- LD (R165 to R168, Table 05.10). RELEASE and ACQ_REL are reserved (R167). -/
def execLd (site : Site) (h : Hdr) (f : FmtM) (s : State) : Host.Outcome State Fault Refusal :=
  let n := f.bytes
  let vd := f.vd.toNat
  issue site h (f.needs h false [] [] (dataRegs n vd) [] (dataOk n vd && !f.releases)) (fun c s =>
    let l := f.accesses c s .r false
    orTrap c l (fun s => s.startLoad c (f.outst c) (passes l) (dataRegs n vd)) s) s

/-- ULD: once per issue, into u[VD] (R157, R170). -/
def execUld (site : Site) (h : Hdr) (f : FmtM) (s : State) : Host.Outcome State Fault Refusal :=
  issue site h (f.needs h true [] [] [] [f.vd.toNat]
      (uOk f.vd && (f.size.toNat == 2 || f.size.toNat == 3) && !f.releases)) (fun c s =>
    if c.act.isEmpty then s
    else match s.access c.task.asid f.isLocal (f.addr c.g true 0) f.bytes .r false with
      | .error st => s.trapAt c st c.act 0
      | .ok x => s.startLoad c { f.outst c with uniform := true } [(0, x)] [f.vd.toNat]) s

/-! ### Stores -/

/-- The data of a store: `n` bytes from v[r] on. -/
def Group.dataBytes (g : Group) (r n t : Nat) : List Byte :=
  ((List.range 4).flatMap fun i => bytesOf 4 (g.v (r + i) t).toNat).take n

/-- The stores of the threads in increasing index; none when a shadow or undo entry does not fit (R168, R192). -/
def State.storeAll (s : State) (c : Ctx) (f : FmtM) : List (Nat × Place) → Option State
  | [] => some s
  | (t, x) :: r =>
    match (s.readFirstAt c.l c.gi x).storeOne c.l (f.addr c.g false t) f.hint.toNat c.task f.releases x (c.g.dataBytes f.vd.toNat f.bytes t) with
    | none => none
    | some s => s.storeAll c f r

/-- A release waits as R201 says; nothing else does. -/
def FmtM.ready (f : FmtM) (c : Ctx) (s : State) : Bool :=
  if f.releases && !f.isLocal then s.releaseReady c.l c.gi c.act else true

/-- ST (R166 to R168, Table 05.10). ACQUIRE and ACQ_REL are reserved (R167). -/
def execSt (site : Site) (h : Hdr) (f : FmtM) (s : State) : Host.Outcome State Fault Refusal :=
  let n := f.bytes
  let vd := f.vd.toNat
  issueWhen f.ready site h (f.needs h false [] (dataRegs n vd) [] [] (dataOk n vd && !f.acquires)) (fun c s =>
    let l := f.accesses c s .w false
    orTrap c l (fun s =>
      let s := if f.releases && !f.isLocal && !c.act.isEmpty then s.releaseDrain c.l f.scope.toNat else s
      match s.storeAll c f (passes l) with
      | none => s.trapAt c stCapacity c.act 0
      | some s => s.twinStop c.l) s) s

/-! ### Atomics -/

/-- The registers of an atomic's operand: one value, or two for CAS (Table 05.11). -/
def FmtM.atomRegs (f : FmtM) : List Nat := dataRegs (if f.aop.toNat = 7 then 2 * f.bytes else f.bytes) f.vb.toNat

/-- The encoding of ATOM and RED: UBASE = 1, an operation outside Table 05.11 and a misaligned operand are reserved
(R152, R165, R169). -/
def FmtM.atomEnc (f : FmtM) : Bool :=
  f.ubase.toNat == 0 && aopOk f.aop.toNat f.size.toNat &&
  dataOk (if f.aop.toNat = 7 then 2 * f.bytes else f.bytes) f.vb.toNat

/-- A value of `n` bytes in the registers from `r` on. -/
def Group.value (g : Group) (r n t : Nat) : Nat := if n = 8 then g.v64 r t else (g.v r t).toNat

/-- What came of the atomics of an instruction. -/
structure AtomsOut where
  /-- the state -/
  s : State
  /-- the parts, with the values found -/
  pieces : List LoadPiece := []
  /-- a shadow or undo entry did not fit -/
  short : Bool := false
  /-- a lost codeword was reached; true in the second part when it is gone -/
  lost : Option Bool := none

/-- The operand of CAS is the compare value; its new value follows it. -/
def FmtM.atomC (f : FmtM) (c : Ctx) (t : Nat) : Nat :=
  if f.aop.toNat = 7 then c.g.value (f.vb.toNat + max 1 (f.bytes / 4)) f.bytes t else 0

/-- One thread's atomic (R169, R197, R347). -/
def State.atomOne (s : State) (c : Ctx) (f : FmtM) (ret : Bool) (t : Nat) (x : Place) : AtomsOut :=
  let n := f.bytes
  let b := c.g.value f.vb.toNat n t
  let cv := f.atomC c t
  let sx := f.sx.toNat == 1
  let aop := f.aop.toNat
  match x with
  | .lm a =>
    let old := (s.core c.l).lmRead a n
    let s := s.modCore c.l fun k => k.lmWrite a (bytesOf n (aopNew aop (8 * n) sx (natOf old) b cv))
    { s := s, pieces := [{ thread := t, tgt := 3, addr := a, value := some old }] }
  | .loc (.dev a) =>
    let r := (s.readFirst c.l c.gi (a / 256)).atomDev c.l (f.addr c.g false t) a n f.scope.toNat f.hint.toNat (c.task.lenient || !ret) ret c.task.asid aop sx b cv
    { s := r.s, pieces := [{ thread := t, tgt := 0, addr := a, value := r.old, bad := if r.poison then some stLastUse else none }], short := r.short,
      lost := r.lost }
  | .loc (.remote k a) =>
    let d := bytesOf 8 b ++ (if aop = 7 then bytesOf 8 cv else [])
    let m := mkAtomic k a aop (n == 8) d f.hint.toNat c.task.lenient f.releases sx
    { s := s.fabRequest m (if ret then .load c.l c.gi f.vd.toNat t else .store c.l),
      pieces := [{ thread := t, tgt := 1, addr := k * 2 ^ 44 + a }] }
  | .loc (.host _) => { s := s }

/-- The atomics of the threads in increasing index, up to the first that cannot be performed (R168). -/
def State.atomAll (s : State) (c : Ctx) (f : FmtM) (ret : Bool) : List (Nat × Place) → AtomsOut
  | [] => { s := s }
  | (t, x) :: r =>
    let o := s.atomOne c f ret t x
    if o.short || o.lost.isSome then o
    else
      let q := o.s.atomAll c f ret r
      { q with pieces := o.pieces ++ q.pieces }

/-- ATOM and RED beyond their registers: `ret` for ATOM. A twin that issues one is abandoned (R439, file 12). -/
def atomEffect (ret : Bool) (f : FmtM) (c : Ctx) (s : State) : State :=
  let l := f.accesses c s .w true
  orTrap c l (fun s =>
    if c.act.isEmpty then s
    else if c.task.twinOf.isSome then (s.twinAbandon c.l).twinStop c.l
    else
      let s := if f.releases && !f.isLocal then s.releaseDrain c.l f.scope.toNat else s
      let o := s.atomAll c f ret (passes l)
      if o.short then o.s.trapAt c stCapacity c.act 0
      else match o.lost with
        | some true => o.s.goneEnd c.l c.gi
        | some false => o.s.lostStop c.l
        | none =>
          if !ret then o.s
          else
            let n := f.bytes
            let e : Outst := { f.outst c with aop := some f.aop.toNat, pieces := o.pieces }
            let s := o.s.modCore c.l fun k =>
              { k.modGroup c.gi fun g => { g with pendV := g.pendV ++ dataRegs n f.vd.toNat } with
                outst := k.outst ++ [e] }
            if e.acquire then s.setWaits c.l c.gi c.act .acquire else s) s

/-- ATOM (R169). -/
def execAtom (site : Site) (h : Hdr) (f : FmtM) (s : State) : Host.Outcome State Fault Refusal :=
  let n := f.bytes
  let vd := f.vd.toNat
  issueWhen f.ready site h (f.needs h false f.atomRegs [] (dataRegs n vd) [] (f.atomEnc && dataOk n vd)) (atomEffect true f) s

/-- RED (R169). -/
def execRed (site : Site) (h : Hdr) (f : FmtM) (s : State) : Host.Outcome State Fault Refusal :=
  issueWhen f.ready site h (f.needs h false f.atomRegs [] [] [] f.atomEnc) (atomEffect false f) s

/-! ### PREF, UNPIN, INV.L1 and FENCE -/

/-- A line brought to the L1 of a core (Table 06.2). A line whose data is lost or poisoned is not. -/
def State.prefetch (s : State) (l a hint asid : Nat) (lenient : Bool) : State :=
  let line := a / 256
  let cl := s.clusterOf l
  let hint := if hint = 2 then 0 else hint
  if ((s.core l).l1Line a).isSome then s
  else
    let s := match s.cc cl line with
      | some _ => s.ccCount cl true
      | none =>
        let s := ((s.ccCount cl false).settle line).unblock line
        if s.inLedger line then s else (s.readHome cl line hint asid lenient).s.settle line
    match s.cc cl line with
    | some x => if x.st = CcSt.pend || s.lostIn line then s else s.modCore l fun c => c.l1Fill a x.bytes
    | none => s

/-- PREF: an address that fails a check is dropped; of local, remote and host memory nothing is brought (R170, R188). -/
def execPref (site : Site) (h : Hdr) (f : FmtM) (s : State) : Host.Outcome State Fault Refusal :=
  issue site h (f.needs h false [] [] [] [] true) (fun c s =>
    (passes (f.accesses c s .r false)).foldl (fun s p =>
      match p.2 with
      | .loc (.dev a) => s.prefetch c.l a f.hint.toNat c.task.asid c.task.lenient
      | _ => s) s) s

/-- UNPIN: the program pin of the line ends; no alignment is asked of the address (R170, R227). -/
def execUnpin (site : Site) (h : Hdr) (f : FmtM) (s : State) : Host.Outcome State Fault Refusal :=
  issue site h (f.needs h false [] [] [] [] true) (fun c s =>
    let l := c.act.map fun t => (t, s.access c.task.asid f.isLocal (f.addr c.g false t) 1 .none false)
    orTrap c l (fun s => (passes l).foldl (fun s p =>
      match p.2 with
      | .loc (.dev a) => s.unpinLine (a / 256)
      | _ => s) s) s) s

/-- INV.L1: once per issue (R157, R178). -/
def execInvL1 (site : Site) (h : Hdr) (_f : FmtS) (s : State) : Host.Outcome State Fault Refusal :=
  issue site h { arith := false } (fun c s => if c.act.isEmpty then s else s.l1Clear c.l) s

/-- The threads of a group that wait at a fence. -/
def Group.fenceWaiters (g : Group) : List Nat :=
  (List.range 32).filter fun t => match g.wait t with | .fence _ => true | _ => false

/-- The widest scope at which threads of a group wait for a fence. -/
def Group.fenceScope (g : Group) : Nat :=
  (List.range 32).foldl (fun m t => match g.wait t with | .fence x => max m x | _ => m) 0

/-- Waiting fences of a core complete where the accesses before them are over (R177, R201, R202). -/
def State.fenceSettle (s : State) (l : Nat) : State :=
  each (List.range 16) (fun gi s =>
    let g := (s.core l).group gi
    let ws := g.fenceWaiters
    if ws.isEmpty || !s.releaseReady l gi ws then s
    else ((s.releaseDrain l g.fenceScope).l1Clear l).setWaits l gi ws .none) s

/-- FENCE: the acting threads wait until their earlier accesses are over; the fence then completes (R177). -/
def execFence (site : Site) (h : Hdr) (f : FmtS) (s : State) : Host.Outcome State Fault Refusal :=
  issue site h { arith := false } (fun c s =>
    if c.act.isEmpty then s
    else (s.setWaits c.l c.gi c.act (.fence f.scope.toNat)).fenceSettle c.l) s

/-! ### The return of data -/

/-- The fabric request of one part of an outstanding access. -/
def State.pieceReq (s : State) (l : Nat) (o : Outst) (p : LoadPiece) : Option FReq :=
  s.fab.reqs.find? fun r => decide (r.who = .load l o.group o.dest p.thread)

/-- The part needs nothing more from the fabric. -/
def State.pieceReady (s : State) (l : Nat) (o : Outst) (p : LoadPiece) : Bool :=
  p.tgt != 1 || match s.pieceReq l o p with
    | some r => r.answer.isSome || r.status.isSome
    | none => true

/-- One part completed. -/
def State.pieceReturn (s : State) (l : Nat) (t : Task) (o : Outst) (p : LoadPiece) : PieceOut :=
  if p.bad.isSome || p.lost.isSome then { s := s, bad := p.bad, lost := p.lost }
  else match p.value with
    | some d => { s := s, value := d }
    | none =>
      match p.tgt with
      | 0 => s.lineReturn l t o p.addr
      | 1 =>
        match s.pieceReq l o p with
        | some r => { s := s, value := r.answer.getD [], bad := r.status.map fabStatus }
        | none => { s := s, bad := some stLost }
      | _ => { s := s, value := s.hostRead (s.queuePort t.queue) (s.queueSpace t.queue) p.addr o.size }

/-- The parts completed in increasing thread index, up to the first that reaches lost data. -/
def State.piecesReturn (s : State) (l : Nat) (t : Task) (o : Outst) :
    List LoadPiece → State × List (Nat × PieceOut)
  | [] => (s, [])
  | p :: r =>
    let x := s.pieceReturn l t o p
    if x.lost.isSome then (x.s, [(p.thread, x)])
    else
      let (s, ys) := x.s.piecesReturn l t o r
      (s, (p.thread, x) :: ys)

/-- The data of a load as the register value of `n` bytes (R166). -/
def loadValue (signed : Bool) (n : Nat) (d : List Byte) : Nat :=
  if n < 4 && signed then lowBits 32 (sext (8 * n) (natOf d)) else natOf d

/-- Returned data written to the registers of one thread. -/
def Group.loadInto (g : Group) (o : Outst) (t : Nat) (d : List Byte) : Group :=
  let x := loadValue o.signed o.size d
  if o.uniform then g.setU o.dest (bits 64 x)
  else (List.range (max 1 (o.size / 4))).foldl (fun g i => g.setV (o.dest + i) t (bits 32 (x >>> (32 * i)))) g

/-- The registers that an outstanding access keeps waiting are free again, and its acquire ends. -/
def Group.loadDone (g : Group) (o : Outst) : Group :=
  let regs := dataRegs o.size o.dest
  let g := if o.uniform then { g with pendU := g.pendU.filter (· != o.dest) }
    else { g with pendV := g.pendV.filter fun r => !regs.contains r }
  if o.acquire then
    (List.range 32).foldl (fun g t =>
      if g.wait t == .acquire && (o.uniform || o.pieces.any fun p => p.thread == t) then g.setWait t .none else g) g
  else g

/-- The undo log of the running task and that of the pre-empted task exchanged. -/
def Core.swapUndo (c : Core) : Core :=
  match c.frame with
  | none => c
  | some f => { c with undo := f.undo, undoSeen := f.undoSeen, frame := some { f with undo := c.undo, undoSeen := c.undoSeen } }

/-- A trap of the pre-empted task of core `l`, whose access in a slot that stayed in place failed: it ends when it resumes, and
its launch and gang are told; the first trap of each group makes a TRAP record (R137, R143, R144). -/
def State.trapPreempted (s : State) (l group : Nat) (status : BitVec 8) (pc mask : Nat) : State :=
  match (s.core l).frame with
  | none => s
  | some f =>
    let t := f.task
    let first := trapStatus status && ((s.core l).group group).trapped.isNone
    let s := s.modCore l fun c => (c.trapFrame status).modGroup group fun g =>
      { g with trapped := if trapStatus status then some (g.trapped.getD status) else g.trapped }
    let s := s.modDesc t.queue t.desc fun d => { d with launch := { d.launch with stopped := true } }
    let s := match t.gang with
      | none => s
      | some g => (s.gangFrames g).foldl (fun s m => s.modCore m fun c => c.trapFrame status)
          ((s.gangCores g).foldl (fun s m => s.modCore m fun c => c.trap status) s)
    if first then s.record 0x01 1 0x10 status.toNat (locOf 1 l) (detailOf [(0, 8, pc), (8, 4, mask), (0xC, 1, group)])
    else s

/-- An outstanding access of the pre-empted task completes in a slot that stayed in place (R137); an acquire invalidates the L1,
and a fence that waited for it completes (R202). -/
def State.returnPreempted (s : State) (core index : Nat) (o : Outst) (t : Task) : State :=
  let (s, rs) := (s.modCore core Core.swapUndo).piecesReturn core t o o.pieces
  let s := s.modCore core Core.swapUndo
  let s := o.pieces.foldl (fun s p => s.fabForget (.load core o.group o.dest p.thread)) s
  let s := s.modCore core fun c => { c.modGroup o.group fun g => g.loadDone o with outst := c.outst.eraseIdx index }
  let mask := maskOf (rs.map (·.1))
  match rs.findSome? fun r => r.2.lost with
  | some true => (s.trapPreempted core o.group stLost o.pc.toNat mask).lostRecord core t.gang.isSome 3 t.queue t.desc
  | some false => ((s.dropFrame core).modDesc t.queue t.desc fun d =>
      { d with launch := { d.launch with waitLost := true } }).noteRecovery core t 7
  | none =>
    let bad := rs.filter fun r => r.2.bad.isSome
    match worstOf (bad.filterMap fun r => r.2.bad) with
    | some st => s.trapPreempted core o.group st o.pc.toNat (maskOf (bad.map (·.1)))
    | none =>
      let s := s.modCore core fun c => c.modGroup o.group fun g => rs.foldl (fun g r => g.loadInto o r.1 r.2.value) g
      (if o.acquire then s.l1Clear core else s).fenceSettle core

/-- DATA_RETURN: the outstanding access `index` of a core, counted from the oldest, completes. Its data is written and its
registers are free (R186, R155); poisoned data traps with LASTUSE_VIOLATION (check 8 of Table 05.14); a lost codeword
stops the task (R430) and one that is gone ends it (R436). -/
def execDataReturn (core index : Nat) (s : State) : Host.Outcome State Fault Refusal :=
  unit core 512 <|
  match (s.core core).outst[index]?, (s.core core).task with
  | some o, some t =>
    need (o.pieces.all (s.pieceReady core o)) .notPending <|
    match if o.group < 16 - t.groups then (s.core core).frame else none with
    | some f => .next (s.returnPreempted core index o f.task)
    | none =>
    let (s, rs) := s.piecesReturn core t o o.pieces
    let s := o.pieces.foldl (fun s p => s.fabForget (.load core o.group o.dest p.thread)) s
    match rs.findSome? fun r => r.2.lost with
    | some false => .next (s.lostStop core)
    | gone =>
      let s := s.modCore core fun c =>
        { c.modGroup o.group fun g => g.loadDone o with outst := c.outst.eraseIdx index }
      if gone.isSome then .next ((s.goneEnd core o.group).fenceSettle core)
      else
      let bad := rs.filter fun r => r.2.bad.isSome
      match worstOf (bad.filterMap fun r => r.2.bad) with
      | some st =>
        let open_ := (s.core core).openCycle 2
        let s := (s.trap core o.group st o.pc.toNat (maskOf (bad.map (·.1))) 0).modCore core fun c => { c with still := open_ }
        .next (s.fenceSettle core)
      | none =>
        let s := s.modCore core fun c => c.modGroup o.group fun g => rs.foldl (fun g r => g.loadInto o r.1 r.2.value) g
        let s := if o.acquire then s.l1Clear core else s
        .next ((s.fenceSettle core).preemptTry core)
  | _, _ => .refused .notPending

/-- L1_LINE_EXPIRY: a line of a core's L1, by its number, is invalidated 4,096 core cycles after its fill (R190). -/
def execL1LineExpiry (core line : Nat) (s : State) : Host.Outcome State Fault Refusal :=
  unit core 512 <|
  need ((s.core core).l1At line).isSome .notPending <|
  .next (s.modCore core fun c => c.l1Remove line)

end Sys2Proof.Machine
end

