-- ==== Sys2Proof/Machine/Repair.lean ====
section
/-! DEFINITION. The repair journal and the fuses (R448 to R452, file 12), the move of a logical core to another slot (R426),
lost data and its marks (R429 to R436), and detected memory errors (R244, file 07; R274 to R276, file 08). -/

namespace Sys2Proof.Machine

/-! ### Boot-side accessors -/

/-- The start-up, trust and sideband state changed. -/
def State.onBoot (s : State) (g : Boot → Boot) : State := { s with boot := g s.boot }

/-- The fuse array changed. -/
def State.onFuses (s : State) (g : Fuses → Fuses) : State := s.onBoot fun b => { b with fuses := g b.fuses }

/-- The serial flash changed. -/
def State.onFlash (s : State) (g : Flash → Flash) : State := s.onBoot fun b => { b with flash := g b.flash }

/-- The power controller changed. -/
def State.onPower (s : State) (g : Power → Power) : State := { s with power := g s.power }

/-! ### The repair journal (R448 to R452) -/

/-- The kinds of repair that are fused: 1 to 10 (Table 12.7). -/
def fusedKind (k : Nat) : Bool := decide (1 ≤ k) && decide (k ≤ 10)

/-- Entries that one area of the journal holds: 1 MiB of 64 bytes. -/
def journalMax : Nat := 16384

/-- A journal body: values with their sizes in bytes, filled with zeros to 32 bytes (Table 12.6; log 30). -/
def journalBody (vs : List (Nat × Nat)) : List Byte :=
  let b := vs.flatMap fun v => bytesOf v.1 v.2
  b ++ List.replicate (32 - b.length) 0

/-- The entries of a transaction, numbered from a JR_SEQ on. -/
def journalEntries (seq txn : Nat) (es : List (Nat × List Byte)) : List Journal :=
  es.mapIdx fun i e =>
    { seq := seq + i, txn := txn, part := i, parts := es.length, kind := e.1, body := e.2,
      commit := decide (i + 1 = es.length) }

/-- A later entry takes the place of an earlier one: the map of the same logical core, the pairing of the same channel, or the same
repair again. -/
def Journal.over (new old : Journal) : Bool :=
  new.kind == old.kind &&
    (if new.kind = 2 then new.body.take 4 == old.body.take 4
     else if new.kind = 3 then (new.body.drop 4).take 4 == (old.body.drop 4).take 4
     else new.body == old.body)

/-- The entries that no later one takes the place of. -/
def netRepairs : List Journal → List Journal
  | [] => []
  | j :: r => if r.any fun k => k.over j then netRepairs r else j :: netRepairs r

/-- The net repair map moved into the other area, in one transaction (R452). -/
def Flash.compact (f : Flash) : Flash :=
  let keep := netRepairs (f.journal.filter fun j => !j.void)
  let es := keep.mapIdx fun i j =>
    { j with seq := f.journalSeq + i, txn := f.journalTxn, part := i, parts := keep.length,
             commit := decide (i + 1 = keep.length) }
  { f with journal := es, journalSeq := f.journalSeq + keep.length, journalTxn := f.journalTxn + 1, areaB := !f.areaB }

/-- Entries appended as one committed transaction. -/
def Flash.append (f : Flash) (es : List (Nat × List Byte)) : Flash :=
  let f := if journalMax - f.journal.length < 64 then f.compact else f
  { f with journal := f.journal ++ journalEntries f.journalSeq f.journalTxn es,
           journalSeq := f.journalSeq + es.length, journalTxn := f.journalTxn + 1 }

/-- The entries of a transaction number marked as fused. -/
def Flash.fuse (f : Flash) (txn : Nat) : Flash :=
  { f with journal := f.journal.map fun j => if j.txn = txn && fusedKind j.kind then { j with fused := true } else j }

/-- A repair journalled and, for fused kinds, fused while repair records are left; a full array is recorded once
(R449, R451). -/
def State.journal (s : State) (es : List (Nat × List Byte)) : State :=
  let s := s.onFlash fun f => f.append es
  let txn := s.boot.flash.journalTxn - 1
  let n := (es.filter fun e => fusedKind e.1).length
  if n = 0 then s
  else if s.boot.fuses.repairs + n ≤ 4096 then
    (s.onFuses fun f => { f with repairs := f.repairs + n }).onFlash fun f => f.fuse txn
  else if s.boot.fuses.fullWritten then s
  else (s.onFuses fun f => { f with fullWritten := true }).record 0x2C 5 0x00 0 (locOf 0 0) 0

/-! ### Moving a logical core (R264, R426) -/

/-- The slot a logical core moves to: a spare of its cluster, else the lowest spare of its region, outside retired
clusters. -/
def State.spareFor (s : State) (old : Nat) : Option Nat :=
  let ok (k : Nat) : Bool := (s.slot k).status == .spare && !(s.cluster (clusterOfSlot k)).retired
  match ((List.range 9).map (old / 9 * 9 + ·)).find? ok with
  | some k => some k
  | none => ((List.range 72).map (old / 72 * 72 + ·)).find? ok

/-- The distance table is to be rewritten after a mapping change (R321). -/
def State.dtDue (s : State) : State := s.onNet fun n => { n with dtDue := true }

/-- A hard fault's move of logical core `l`: its slot is fenced, and it takes a spare slot with its channel, or is retired
and its channel is orphaned. `keep` says what stays of the core's own state on the new slot. `cause` is that of
CORE_REMAPPED and CORE_RETIRED (R426, R264, Table 12.14). -/
def State.moveCore (s : State) (l cause : Nat) (keep : Core → Core) : State :=
  let x := s.lcore l
  match x.slot with
  | none => s
  | some old =>
    let ch := x.channel.getD old
    let s := s.modSlot old fun k => { k with status := .fenced }
    match s.spareFor old with
    | some new =>
      let s := s.modSlot new fun k => { k with status := .active }
      let s := s.putLcore l { x with slot := some new }
      let s := s.journal [(1, journalBody [(4, (locOf 2 old).toNat)]),
        (2, journalBody [(4, (locOf 1 l).toNat), (4, (locOf 2 new).toNat)]),
        (3, journalBody [(4, (locOf 2 new).toNat), (4, (locOf 6 ch).toNat)])]
      let s := s.modCore l keep
      (s.record 0x04 1 0x03 0 (locOf 1 l) (detailOf [(0, 2, old), (2, 2, new), (4, 2, ch), (6, 1, cause)])).dtDue
    | none =>
      let s := s.putLcore l { slot := none, channel := none, retired := true }
      let s := s.modChannel ch fun c => { c with orphaned := true }
      let s := s.journal [(1, journalBody [(4, (locOf 2 old).toNat)]), (2, journalBody [(4, (locOf 1 l).toNat)])]
      let s := s.putCore l {}
      (s.record 0x05 1 0x04 0 (locOf 1 l) (detailOf [(0, 2, old), (2, 2, ch), (4, 1, cause)])).dtDue

/-! ### Lost data (R429, R436) -/

/-- The level of the unit that holds an address: the core for a private slice, the region or the die for a pool. -/
def addrLevel (a : Nat) : Nat := if dpaKind a = 1 then 3 else if dpaKind a = 2 then 4 else 1

/-- EV_LOC of the 64 KiB page of a device physical address. -/
def pageLoc (a : Nat) : BitVec 32 := locOf 14 (a / 65536)

/-- The frame of an address is of class LIGHT (R271). -/
def State.isLight (s : State) (a : Nat) : Bool := s.light.contains (a / 2 ^ 21)

/-- The source from which lost data is restored: 1 recompute, 2 page rebuild, 3 parity, 0 none (R430 to R436). A package
whose role is P or Q holds parity in its whole guarded range (R435). -/
def State.lossSource (s : State) (a : Nat) : Nat :=
  if (look {} s.producers (a / 2 ^ 21)).ok then 1
  else if (s.guardedPage a).isSome then (if s.fab.guard.role < s.fab.guard.k then 2 else 3)
  else 0

/-- A 64-byte codeword marked lost, with its DATA_LOSS record; where no source applies it is gone, with its DATA_LOST
record. `cause` is that of DATA_LOSS (R429, R436, Table 12.14). -/
def State.loseCode (s : State) (a cause : Nat) : State :=
  let a := a / 64 * 64
  if s.lost.any fun x => x.addr == a then s
  else
    let src := s.lossSource a
    let s := { s with lost := s.lost ++ [({ addr := a, gone := src == 0 } : Lost)] }
    let s := s.record 0x11 (addrLevel a) 0x10 0 (pageLoc a)
      (detailOf [(0, 8, a), (8, 1, if s.isLight a then 1 else 0), (9, 1, cause), (0xA, 1, src)])
    if src = 0 then s.record 0x13 (addrLevel a) 0x0F 0 (pageLoc a) (detailOf [(0, 8, a), (8, 4, 1)]) else s

/-- The four codewords of a line marked lost. -/
def State.loseLine (s : State) (line cause : Nat) : State :=
  (List.range 4).foldl (fun s i => s.loseCode (line * 256 + 64 * i) cause) s

/-! ### Detected errors (R244, R274, R275, R457) -/

/-- A corrected codeword counted; the channel's first of a round is kept for the round's CE_DENSE record (R274, R457). `n`: bytes
corrected. -/
def State.chanCorrected (s : State) (line cw n : Nat) : State :=
  let h := s.homeOfLine line
  s.modChannel h.chan fun c =>
    { c with chCe := bump 48 c.chCe, chCe4 := if 3 ≤ n then bump 48 c.chCe4 else c.chCe4, ceRound := c.ceRound + 1, ceFirst := if c.ceRound = 0 then (h.cla, cw, n) else c.ceFirst,
             ceSeen := c.ceSeen ++ [(line * 4 + cw, s.rounds.toNat)],
             ceFour := if 3 ≤ n then c.ceFour ++ [line * 4 + cw] else c.ceFour }

/-- An uncorrectable STRONG codeword, or a LIGHT parity mismatch: counted, and its data is lost unless the slice holds the
line (R274, R275, R429). -/
def State.chanUncorrectable (s : State) (line cw : Nat) : State :=
  let light := s.isLight (line * 256)
  let s := s.modChannel (s.homeOfLine line).chan fun c =>
    let c := { c with ueSeen := c.ueSeen ++ [line * 4 + cw] }
    if light then { c with chParity := bump 48 c.chParity } else { c with chUe := bump 48 c.chUe }
  s.loseCode (line * 256 + 64 * cw) (if light then 2 else 1)

/-- The number of a row of a slice among those of its arrays, for the histories of R245: a data-array row by the macro and row that
hold way `w` of set `key`; a tag or directory row by the set. -/
def dataRow (key w : Nat) : Nat := (key / 8192 * 128 + w * 8 + key % 8192 / 1024) * 512 + key % 1024 / 2
def tagRow (key : Nat) : Nat := 2 ^ 20 + key
def dirRow (key : Nat) : Nat := 2 * 2 ^ 20 + key

/-- A row is to be declared failed (R245). -/
def Slice.failRow (sl : Slice) (row : Nat) : Slice :=
  { sl with rowBad := if sl.rowBad.contains row then sl.rowBad else sl.rowBad ++ [row] }

/-- Periods of TICKS in 24 hours. -/
def ticksPerDay : Nat := 24 * 3600 * 25000000

/-- A corrected error in a row of a slice: counted, and noted with its almanac round; errors in two different rounds within 24 hours
fail the row (R244, R245). -/
def State.rowCorrected (s : State) (line row : Nat) : State :=
  let now := s.ticks.toNat
  s.modHome line fun sl =>
    let old := sl.rowErrs.filter fun e => decide (now ≤ e.2.2 + ticksPerDay)
    let sl := { sl with ce := bump 48 sl.ce, rowErrs := old ++ [(row, s.rounds.toNat, now)] }
    if old.any fun e => e.1 == row && e.2.1 != s.rounds.toNat then sl.failRow row else sl

/-- A line of a slice passed to the recovery flow: its copies are dropped, and its data is lost (R244, R429). -/
def State.sliceLoss (s : State) (line : Nat) : State :=
  let s := (List.range 64).foldl (fun s c => s.putCc c line none) (s.settle line)
  ((s.dropDir line).dropLine line).loseLine line 3

/-- The effect of the error that an access to a line meets, before the access is served. A line that the array holds
meets errors of the array, any other those of its channel (R244, R271, R274, R275). -/
def State.meetError (s : State) (line : Nat) : MemErr → State
  | .none => s
  | .both a b => (s.meetError line a).meetError line b
  | .tagCorrected => s.rowCorrected line (tagRow (s.homeOfLine line).setKey)
  | .dirCorrected => s.rowCorrected line (dirRow (s.homeOfLine line).dirSet)
  | .ledgerCorrected => s.modHome line fun sl => { sl with ce := bump 48 sl.ce }
  | .tagUncorrectable => (s.modHome line fun sl => sl.failRow (tagRow (s.homeOfLine line).setKey)).sliceLoss line
  | .dirUncorrectable => (s.modHome line fun sl => sl.failRow (dirRow (s.homeOfLine line).dirSet)).sliceLoss line
  | .sliceCorrected =>
    match s.held line with
    | some x => s.rowCorrected line (dataRow (s.homeOfLine line).setKey x.way)
    | none => s
  | .sliceUncorrectable =>
    match s.held line with
    | some x =>
      let s := s.modHome line fun sl => sl.failRow (dataRow (s.homeOfLine line).setKey x.way)
      if x.dirty then (s.dropLine line).loseLine line 3 else s.dropLine line
    | none => s
  | .channelCorrected cw n => if (s.held line).isSome || s.isLight (line * 256) then s else s.chanCorrected line (cw % 4) n
  | .channelUncorrectable cw => if (s.held line).isSome then s else s.chanUncorrectable line (cw % 4)
  | .channelMissed cw n ws =>
    if (s.held line).isSome then s
    else
      let s := if n = 0 || s.isLight (line * 256) then s else s.chanCorrected line (cw % 4) n
      { s with mem := s.mem.putLine line (mergeBytes (s.mem.line line) (ws.filter fun w => w.1 / 64 == cw % 4)) }

end Sys2Proof.Machine
end

