-- ==== Sys2Proof/Machine/Links.lean ====
section
/-! DEFINITION. Die-to-die and die–hub links with their flits (R302 to R308, file 09; R446, file 12), the idle spine clock
(R300), the distance table (R318 to R321) and the retry of a message answered target resetting (R317). -/

namespace Sys2Proof.Machine

/-! ### CRC-64 (R306) -/

/-- One bit of the reflected CRC-64. -/
def crc64Bit (c : Nat) : Nat := if c % 2 = 1 then (c / 2) ^^^ 0xC96C5795D7870F42 else c / 2

/-- One byte fed to the reflected CRC-64. -/
def crc64Byte (c : Nat) (b : Byte) : Nat := (List.range 8).foldl (fun c _ => crc64Bit c) (c ^^^ b.toNat)

/-- The running CRC-64 over bytes. -/
def crc64Run (c : Nat) (bs : List Byte) : Nat := bs.foldl crc64Byte c

/-- All ones in 64 bits. -/
def ones64 : Nat := 0xFFFFFFFFFFFFFFFF

/-- Bytes filled with zeros, or cut, to a length. -/
def padTo (n : Nat) (bs : List Byte) : List Byte := (bs ++ List.replicate n 0).take n

/-- Flit bytes 0 to 279 (Table 09.3). -/
def Flit.bytes (f : Flit) : List Byte :=
  bytesOf 8 (f.kind.toNat + f.cls.toNat * 2 ^ 4 + f.chan.toNat * 2 ^ 7 + (if f.data then 2 ^ 9 else 0) +
    f.ack.toNat * 2 ^ 16 + f.crFifo.toNat * 2 ^ 32 + f.crCount.toNat * 2 ^ 37) ++
  bytesOf 16 f.header.toNat ++ padTo 256 (if f.data then f.payload else [])

/-- FL_CRC of a flit numbered `seq` for the receiving endpoint `ep` (R306). -/
def linkCrc (ep : Nat) (seq : BitVec 16) (f : Flit) : BitVec 64 :=
  bits 64 (crc64Run ones64 ([bits 8 ep, 0] ++ bytesOf 2 seq.toNat ++ f.bytes) ^^^ ones64)

/-! ### Endpoints (R302) -/

/-- The level of a link: 4 between dies, 5 to the hub. -/
def epLevel (ep : Nat) : Nat := if ep / 16 = 4 || 2 ≤ ep % 16 then 5 else 4

/-- A link end changed. -/
def State.modLink (s : State) (ep : Nat) (g : LinkEnd → LinkEnd) : State := s.onNet fun n => n.modLink ep g

/-! ### Flits (R305 to R307) -/

/-- Flits kept for replay after the one that an acknowledgement names. -/
def afterAck {α : Type} (ack : BitVec 16) (l : List (BitVec 16 × α)) : List (BitVec 16 × α) :=
  if l.any fun x => x.1 == ack then (l.dropWhile fun x => x.1 != ack).drop 1 else l

/-- The FIFO of a flit's message: class × 3 + protocol channel. -/
def Flit.fifo (f : Flit) : Nat := f.cls.toNat * 3 + f.chan.toNat

/-- The transmitting end sends a flit: the next of a replay, or a new one, which it numbers and keeps. A new message takes
one credit of its FIFO. The answer is the flit's number; none where it cannot be sent. -/
def LinkEnd.transmit (e : LinkEnd) (f : Flit) : Option (BitVec 16 × LinkEnd) :=
  match e.resend with
  | (n, g) :: r => if { f with crc := g.crc } = g then some (n, { e with resend := r }) else none
  | [] =>
    if 1024 ≤ e.kept.length then none
    else if f.kind = 1 && look 0 e.credits f.fifo == 0 then none
    else
      let e := if f.kind = 1 then { e with credits := put 0 e.credits f.fifo (look 0 e.credits f.fifo - 1) } else e
      some (e.txSeq, { e with txSeq := e.txSeq + 1, kept := e.kept ++ [(e.txSeq, f)] })

/-- What every flit that passes carries for the end that receives it: the acknowledgement and the credits. -/
def LinkEnd.absorb (e : LinkEnd) (f : Flit) : LinkEnd :=
  let k := f.crFifo.toNat
  { e with kept := afterAck f.ack e.kept, credits := put 0 e.credits k (look 0 e.credits k + f.crCount.toNat) }

/-- The messages of a FIFO that a returned credit says have been taken leave the inbox. -/
def takeFifo (k : Nat) : Nat → List Flit → List Flit
  | 0, l => l
  | _, [] => []
  | n + 1, f :: r => if f.fifo = k then takeFifo k n r else f :: takeFifo k (n + 1) r

/-- A flit that fails the check: it and every later one is discarded until the replay, which is asked for (R307). -/
def LinkEnd.fail (e : LinkEnd) : LinkEnd :=
  { e with discarding := true, replayReq := some (e.rxSeq - 1), failRun := e.failRun + 1, crcErr := bump 48 e.crcErr }

/-- A flit taken in order. -/
def LinkEnd.accept (e : LinkEnd) (f : Flit) : LinkEnd :=
  let e := e.absorb f
  { e with rxSeq := e.rxSeq + 1, failRun := 0, inbox := if f.kind = 1 then e.inbox ++ [f] else e.inbox }

/-- An idle or message flit sent by the other end arrives at endpoint `ep` (R305 to R307). The command gives its kind; the layout
reserves class 7 and protocol channel 3, which no master uses. -/
def linkFlit (kind : BitVec 4) (ep : Nat) (f : Flit) (s : State) : Host.Outcome State Fault Refusal :=
  need s.powered .unavailable <|
  if !isEp ep then .fault .noSuchUnit
  else
    need (s.linkRuns ep) .notPending <|
    let p := peerEp ep
    let f := { f with kind := kind }
    match (s.net.link p).transmit f with
    | none => .refused .notPending
    | some (n, tx) =>
      let good := f.crc == linkCrc ep n f
      let tx := { tx with kept := tx.kept.map fun (x : BitVec 16 × Flit) => if x.1 = n then (n, { f with crc := linkCrc ep n f }) else x }
      let s := s.modLink p fun _ => { tx with inbox := takeFifo f.crFifo.toNat f.crCount.toNat tx.inbox }
      let e := s.net.link ep
      if e.discarding then .next s
      else if good && n == e.rxSeq then .next (s.modLink ep fun e => e.accept f)
      else .next (s.modLink ep LinkEnd.fail)

/-- LINK_IDLE_FLIT. -/
def execLinkIdleFlit (ep : Nat) (f : Flit) (s : State) : Host.Outcome State Fault Refusal := linkFlit 0 ep f s

/-- LINK_MESSAGE_FLIT. -/
def execLinkMessageFlit (ep : Nat) (f : Flit) (s : State) : Host.Outcome State Fault Refusal := linkFlit 1 ep f s

/-- LINK_REPLAY_REQUEST: the other end's request arrives at endpoint `ep`, which sends again from the flit after the last
good one; the other end then waits for exactly those (R307). The request takes no number of its own. -/
def execLinkReplayRequest (ep : Nat) (f : Flit) (s : State) : Host.Outcome State Fault Refusal :=
  need s.powered .unavailable <|
  if !isEp ep then .fault .noSuchUnit
  else
    let p := peerEp ep
    let f := { f with kind := 2 }
    need (s.linkRuns ep && (s.net.link p).replayReq == some f.ack) .notPending <|
    if f.crc ≠ linkCrc ep (s.net.link ep).rxSeq f then .next (s.modLink ep fun e => { e with crcErr := bump 48 e.crcErr })
    else
      let s := s.modLink ep fun e =>
        let e := e.absorb f
        { e with resend := e.kept, replays := bump 48 e.replays }
      .next (s.modLink p fun e => { e with discarding := false, replayReq := none })

/-! ### Retraining and loss of a link (R303, R304, R308, R446) -/

/-- Spare lanes of one direction: 20 between dies, 8 of a hub half (R302). -/
def epSpares (ep : Nat) : Nat := if epLevel ep = 4 then 20 else 8

/-- LINK_RETRAIN: after 16 failures in a row, or on the corrected-flit rate of a round, both ends hold traffic; `lane`: a
failed lane of the direction into `ep`, which a spare replaces (R308). -/
def execLinkRetrain (ep : Nat) (lane : Option Nat) (s : State) : Host.Outcome State Fault Refusal :=
  need s.powered .unavailable <|
  if !isEp ep then .fault .noSuchUnit
  else
    let e := s.net.link ep
    need (s.linkRuns ep && (decide (16 ≤ e.failRun) || decide (0 < e.corrRate))) .notPending <|
    let hold (e : LinkEnd) : LinkEnd := { e with retraining := true }
    let s := (s.modLink ep hold).modLink (peerEp ep) hold
    match lane with
    | none => .next s
    | some l =>
      if e.badLanes.contains l then .next s
      else
        let s := s.modLink ep fun e => { e with badLanes := e.badLanes ++ [l], spareLanes := e.spareLanes - 1 }
        if e.spareLanes = 0 then .next s
        else
          let s := s.journal [(6, journalBody [(4, (locOf 7 ep).toNat), (2, l), (1, epSpares ep - e.spareLanes)])]
          .next (s.record 0x20 (epLevel ep) 0x05 0 (locOf 7 ep) (detailOf [(0, 2, l), (2, 1, e.spareLanes - 1)]))

/-- LINK_RETRAIN_MARKER: the marker that arrives at endpoint `ep` ends the retraining there, and the other end's retry
buffer replays (R308). -/
def execLinkRetrainMarker (ep : Nat) (f : Flit) (s : State) : Host.Outcome State Fault Refusal :=
  need s.powered .unavailable <|
  if !isEp ep then .fault .noSuchUnit
  else
    let f := { f with kind := 3 }
    need ((s.net.link ep).up && (s.net.link ep).retraining) .notPending <|
    if f.crc ≠ linkCrc ep (s.net.link ep).rxSeq f then .next (s.modLink ep fun e => { e with crcErr := bump 48 e.crcErr })
    else
      let last := (s.net.link ep).rxSeq - 1
      let s := s.modLink ep fun e =>
        { e.absorb f with retraining := false, discarding := false, replayReq := none, failRun := 0, corrRate := 0 }
      .next (s.modLink (peerEp ep) fun e => { e with kept := afterAck last e.kept, resend := afterAck last e.kept })

/-- Die `d` reaches the hub through one of its own halves. -/
def State.hubOf (s : State) (d : Nat) : Bool := s.dieLink d 2 || s.dieLink d 3

/-- The path of an ordered pair of dies, or of a die and the hub (unit 4), by Table 09.2 and Table 12.5: 0 default, 1 and 2
its alternatives in order; for the hub 1 is the other half and 2 and 3 lead through die (n + 1) and die (n + 3) mod 4. Key
4 * 5 + d stands for the hub's way to die d, the same path. -/
def State.pathOf (s : State) (a b : Nat) : Nat :=
  if a = 4 || b = 4 then
    let d := if a = 4 then b else a
    if s.dieLink d 2 && s.dieLink d 3 then 0
    else if s.hubOf d then 1
    else if s.dieLink d 0 then 2 else 3
  else if b = (a + 1) % 4 then (if s.dieLink a 0 then 0 else 1)
  else if b = (a + 3) % 4 then (if s.dieLink a 1 then 0 else 1)
  else if s.hubOf a && s.hubOf b then 0
  else if s.dieLink a 0 && s.dieLink ((a + 1) % 4) 0 then 1
  else 2

/-- The messages whose way leads over a link end out of service take the path of their pair in force, from their source on, as
the sources that held them send them (R304). -/
def State.repath (s : State) : State :=
  let dead (q : Nat) : Bool := decide (320 ≤ q) && decide (q < 392) && !((s.net.link (q - 320)).up && (s.net.link (peerEp (q - 320))).up)
  s.onNet fun n => { n with msgs := n.msgs.map fun m =>
    if m.coh.isNone || !m.path.any dead then m
    else { m with path := if m.dst < 64 then s.pathDown (m.src - 64) m.dst else s.pathUp m.src (m.dst - 64) } }

/-- Every pair whose path has changed moved onto its new path, each with its record (R304, R446). -/
def State.reroute (s : State) : State :=
  (List.range 25).foldl (fun s k =>
    let a := k / 5
    let b := k % 5
    if a = b then s
    else
      let p := s.pathOf a b
      if look 0 s.net.routes k = p then s
      else
        ((s.onNet fun n => { n with routes := put 0 n.routes k p }).record 0x22 5 0x0C 0 (locOf 0 0)
          (detailOf [(0, 1, a), (1, 1, b), (2, 1, p)])).dtDue) s |>.repath

/-- A link or a hub half is out of service; the routes that used it change (R304, R446). -/
def State.linkOff (s : State) (ep cause : Nat) : State :=
  let off (e : LinkEnd) : LinkEnd :=
    { e with up := false, retraining := false, discarding := false, replayReq := none, resend := [], kept := [], failRun := 0 }
  let s := (s.modLink ep off).modLink (peerEp ep) off
  let s := s.journal [(6, journalBody [(4, (locOf 7 ep).toNat)])]
  (s.record 0x21 (epLevel ep) 0x0C 0 (locOf 7 ep) (detailOf [(0, 1, cause)])).reroute

/-- LINK_DOWN: a link or a hub half is declared down; `cause` 1: fewer good lanes than data lanes with the spares used up;
2: the far end stopped answering or could not retrain (R303, R304, R446, R579). -/
def execLinkDown (ep cause : Nat) (s : State) : Host.Outcome State Fault Refusal :=
  need s.mainlandUp .unavailable <|
  if !isEp ep then .fault .noSuchUnit
  else
    let cause := if cause = 1 then 1 else 2
    let e := s.net.link ep
    need (e.up && (cause == 2 || (e.spareLanes == 0 && decide (epSpares ep < e.badLanes.length)))) .notPending <|
    .next (s.linkOff ep cause)

/-! ### The idle spine clock (R300) -/

/-- SPINE_CLOCK_IDLE: after 1 ms in which every cluster of a region is GATED or OFF and no request came, its spine clock
falls to 300 MHz (R300). -/
def execSpineClockIdle (r : Nat) (s : State) : Host.Outcome State Fault Refusal :=
  unit r 8 <|
  need s.powered .unavailable <|
  need (!(s.region r).spineIdle && (List.range 8).all fun i =>
    (s.cluster (r * 8 + i)).clk == .gated || (s.cluster (r * 8 + i)).clk == .off) .notPending <|
  .next (s.modRegion r fun x => { x with spineIdle := true, spineMhz := 300 })

/-! ### The distance table (R318 to R321) -/

/-- A way through the network: time in hundredths of a nanosecond, and hops. -/
abbrev Way := Option (Nat × Nat)

/-- Two parts of a way. -/
def Way.then_ (a b : Way) : Way := a.bind fun x => b.map fun y => (x.1 + y.1, x.2 + y.2)

/-- From the spine of one region of a die to the spine of another, or the same (Table 09.1). W is 0, E is 1. -/
def Way.cross (r t : Nat) : Way := if r = t then some (250, 1) else some (1000, 3)

/-- A die-to-die link, a hub-link half, the hub switch. -/
def Way.link : Way := some (2400, 1)
def Way.half : Way := some (1800, 1)
def Way.hub : Way := some (800, 1)

/-- From region `r` of die `d` to the hub's end of a half, by the path of the die and the hub. The first half listed is
the region's own. -/
def State.wayOwnHub (s : State) (d r : Nat) : Way :=
  if s.dieLink d (2 + r) then (Way.cross r r).then_ Way.half
  else if s.dieLink d (3 - r) then (Way.cross r (1 - r)).then_ Way.half
  else none

/-- From region `r` of die `d` to the hub, through a neighbouring die when both halves are down (Table 12.5). -/
def State.wayHub (s : State) (d r : Nat) : Way :=
  match look 0 s.net.routes (d * 5 + 4) with
  | 2 => ((Way.cross r 1).then_ Way.link).then_ (s.wayOwnHub ((d + 1) % 4) 0)
  | 3 => ((Way.cross r 0).then_ Way.link).then_ (s.wayOwnHub ((d + 3) % 4) 1)
  | _ => s.wayOwnHub d r

/-- From the spine of region `r` of die `d` to the spine of region `t` of die `e`, by the route in force (R303). -/
def State.way (s : State) (d r e t : Nat) : Way :=
  let p := look 0 s.net.routes (d * 5 + e)
  let hub := ((s.wayHub d r).then_ Way.hub).then_ (s.wayHub e t)
  let up (r t : Nat) : Way := ((Way.cross r 1).then_ Way.link).then_ (Way.cross 0 t)
  let down (r t : Nat) : Way := ((Way.cross r 0).then_ Way.link).then_ (Way.cross 1 t)
  if d = e then Way.cross r t
  else if e = (d + 1) % 4 then (if p = 0 then up r t else hub)
  else if e = (d + 3) % 4 then (if p = 0 then down r t else hub)
  else match p with
    | 0 => hub
    | 1 => ((Way.cross r 1).then_ Way.link).then_ (up 0 t)
    | _ => ((Way.cross r 0).then_ Way.link).then_ (down 1 t)

/-- A distance of 16 bits: hops in [3:0], nanoseconds rounded up in [15:4] (R320). -/
def Way.code (w : Way) : Nat :=
  match w with
  | some (t, h) => min h 15 + min ((t + 99) / 100) 4095 * 16
  | none => 0xFFFF

/-- From a core's crossbar port to its vertical port. -/
def Way.out : Way := some (500, 0)

/-- From a core of cluster `c` to a slice. -/
def State.waySlice (s : State) (c k : Nat) : Way :=
  if c = k then Way.out.then_ (some (83, 0))
  else Way.out.then_ (s.way (dieOfCluster c) (regionOfCluster c % 2) (dieOfCluster k) (regionOfCluster k % 2))

/-- ID_GRADE_CORES (R9, file 00). -/
def State.gradeCores (s : State) : Nat :=
  match s.boot.fuses.grade with | 0 => 512 | 1 => 480 | _ => 448

/-- The 160-byte record of a logical number (Table 09.9; R319 for a retired one). DT_HUB ends at the hub's end of the half: the hub
switch's own 8 ns and hop are not in it (DESIGN CHOICE, log 96). -/
def State.dtRecord (s : State) (l : Nat) : List Byte :=
  if !s.hasCore l then
    bytesOf 2 l ++ bytesOf 2 0 ++ bytesOf 4 (0x10000 + l) ++ (List.replicate 20 (0xFF : Byte)) ++ bytesOf 4 0 ++
      List.replicate 128 (0xFF : Byte)
  else
    let c := s.clusterOf l
    let d := dieOfCluster c
    let r := regionOfCluster c % 2
    let pc := ((s.lcore l).channel.getD (s.slotOf l)) / 9
    bytesOf 2 l ++
    bytesOf 1 (1 + (if (s.cluster c).onVfb then 2 else 0) + (if pc = c then 0 else 4)) ++
    bytesOf 1 (d + 4 * r) ++ bytesOf 4 c ++
    bytesOf 2 (s.waySlice c pc).code ++ bytesOf 2 (Way.out.then_ (s.wayHub d r)).code ++
    ((List.range 8).flatMap fun i =>
      bytesOf 2 (Way.out.then_ (s.way d r ((i / 2 + i % 2) % 4) (1 - i % 2))).code) ++
    bytesOf 4 0 ++ (List.range 64).flatMap fun k => bytesOf 2 (s.waySlice c k).code

/-- The header of the table (Table 09.8). -/
def State.dtHeader (s : State) : List Byte :=
  bytesOf 2 1 ++ bytesOf 2 160 ++ bytesOf 2 s.gradeCores ++ bytesOf 2 0 ++ bytesOf 8 s.net.dtGen.toNat ++
  bytesOf 2 1200 ++ bytesOf 2 1200 ++ bytesOf 44 0

/-- DISTANCE_TABLE_REWRITE: DT_GEN odd, the records, DT_GEN even, then the event record (R321). -/
def execDistanceTableRewrite (s : State) : Host.Outcome State Fault Refusal :=
  need s.mainlandUp .unavailable <|
  need (s.net.dtDue && bitAt s.net.dtCfg 0) .notPending <|
  let at_ := s.net.dtCfg.toNat / 4096 * 4096
  let p := s.net.dtPort
  let gen (s : State) : State := s.onNet fun n => { n with dtGen := n.dtGen + 1 }
  let s := gen s
  let s := s.hostWrite p 0 at_ s.dtHeader
  let s := (List.range s.gradeCores).foldl (fun s l => s.hostWrite p 0 (at_ + 0x40 + 160 * l) (s.dtRecord l)) s
  let s := gen s
  let s := s.hostWrite p 0 (at_ + 8) (bytesOf 8 s.net.dtGen.toNat)
  let s := s.onNet fun n => { n with dtDue := false }
  .next (s.record 0x23 5 0x00 0 (locOf 0 0) (detailOf [(0, 8, s.net.dtGen.toNat)]))

/-- TARGET_RESETTING_RETRY: after 1 µs a message answered target resetting is sent again; while the cluster is still in
reset it is answered so again (R317). -/
def execTargetResettingRetry (cl : Nat) (s : State) : Host.Outcome State Fault Refusal :=
  unit cl 64 <|
  need s.powered .unavailable <|
  need (s.net.retries.contains cl) .notPending <|
  if (s.cluster cl).inReset then .next s else .next (s.onNet fun n => { n with retries := n.retries.erase cl })

end Sys2Proof.Machine
end

