-- ==== Sys2Proof/Machine/Straits.lean ====
section
/-! DEFINITION. Optical engines and straits: laser inputs, strait flits with their CRC, credits and replay, the spare
wavelength, training and loss (R323 to R333, R337, R340, file 10). -/

namespace Sys2Proof.Machine

/-! ### State of a strait -/

/-- A strait changed. -/
def State.modStrait (s : State) (i : Nat) (g : Strait → Strait) : State := s.onFab fun f => f.modStrait i g

/-- An optical engine changed. -/
def State.modEngine (s : State) (oe : Nat) (g : Engine → Engine) : State := s.onFab fun f => f.modEngine oe g

/-- STR_STATE of a strait (Table 10.4). -/
def Fab.strState (f : Fab) (i : Nat) : Nat :=
  let x := f.strait i
  let e := f.engine (i / 4)
  bit01 x.up + bit01 (x.up && x.half) * 2 + bit01 x.spareUsed * 4 + x.spareFor.toNat * 8 + bit01 e.laserB * 2 ^ 6 +
  bit01 e.dark * 2 ^ 7 + x.peerId.toNat * 2 ^ 8 + x.peerPort.toNat * 2 ^ 20 + bit01 x.peerValid * 2 ^ 24

/-- The package's own list of straits and peers (R336). -/
def Fab.myPeers (f : Fab) : List (Nat × Nat) :=
  (List.range 16).filterMap fun i =>
    let x := f.strait i
    if x.up && x.peerValid then some (i, x.peerId.toNat) else none

/-! ### Routes (R336) -/

/-- Neighbours of a package by the link state held. -/
def Fab.neighbours (f : Fab) (p : Nat) : List Nat := (look [] f.linkState p).map (·.2)

/-- Hop distances, plus one, found by a breadth-first search of the link state from some packages on; `d` is the
distance of the frontier, and at most `fuel` further hops are searched. -/
def Fab.search (f : Fab) (d : Nat) (seen : SMap Nat) (front : List Nat) : Nat → SMap Nat
  | 0 => front.foldl (fun m p => if look 0 m p = 0 then put 0 m p (d + 1) else m) seen
  | fuel + 1 =>
    let fresh := (front.filter fun p => look 0 seen p == 0).eraseDups
    let seen := fresh.foldl (fun m p => put 0 m p (d + 1)) seen
    if fresh.isEmpty then seen else f.search (d + 1) seen (fresh.flatMap f.neighbours) fuel

/-- The hop distances, plus one, from the peer of each strait that is up. -/
def Fab.fromPeers (f : Fab) : List (Nat × SMap Nat) := f.myPeers.map fun p => (p.1, f.search 0 [] [p.2] 7)

/-- The route of a destination: the straits with the fewest hops, the lowest other strait that reaches it as a detour, and
the distance. -/
def routeOf (from_ : List (Nat × SMap Nat)) (dst : Nat) : Route :=
  let ds := from_.filterMap fun p => if look 0 p.2 dst = 0 then none else some (p.1, look 0 p.2 dst)
  match ds with
  | [] => {}
  | x :: r =>
    let d := r.foldl (fun m y => min m y.2) x.2
    let best := (ds.filter fun y => y.2 == d).map (·.1)
    { mask := bits 16 (maskOf best), detour := (ds.find? fun y => y.2 != d).map (·.1), dist := d }

/-- The route table computed from the link state: no route leads to this package, to an ID under a release mark, or to a
package that named no ID. -/
def Fab.computeRoutes (f : Fab) : SMap Route :=
  let from_ := f.fromPeers
  let dsts := (from_.flatMap fun p => p.2.map (·.1)).eraseDups
  dsts.foldl (fun m d =>
    if (f.joined && d == f.idApplied.toNat) || f.marks.contains d || f.noId.contains d then m
    else put {} m d (routeOf from_ d)) []

/-- Mainland recomputes the routes; while it does not run the table stays (R336, R341). -/
def State.reroutes (s : State) : State :=
  if s.mainlandUp then s.onFab fun f => { f with routes := f.computeRoutes } else s

/-- The data of a link-state message: sixteen peers of 2 bytes, 0xFFFF for none (log 31). -/
def peersData (l : List (Nat × Nat)) : List Byte :=
  (List.range 16).flatMap fun i => bytesOf 2 ((l.find? fun p => p.1 == i).elim 0xFFFF (·.2))

/-- A link-state message about package `origin`: its list, whether its ID is released, whether it names no ID (log 31). -/
def mkLinkState (dst origin : Nat) (l : List (Nat × Nat)) (released noId : Bool) : FMsg :=
  { kind := 9, dst := bits 12 dst, chunk := bits 24 origin, aux := bits 32 (bit01 released + 2 * bit01 noId), data := peersData l }

/-- A link-state message sent to every neighbour but one. -/
def State.floodOf (s : State) (origin : Nat) (l : List (Nat × Nat)) (released noId : Bool) (except_ : Option Nat) : State :=
  ((s.fab.myPeers.map (·.2)).eraseDups).foldl (fun s p =>
    if some p = except_ || p = origin then s else s.fabSend (mkLinkState p origin l released noId)) s

/-- The package floods its own list (R336). -/
def State.flood (s : State) : State :=
  if s.fab.joined then s.floodOf s.fab.idApplied.toNat s.fab.myPeers false false none else s

/-! ### Strait flits (R329, R330) -/

/-- Flit bytes 0 to 247 (Table 10.2). -/
def SFlit.bytes (f : SFlit) : List Byte :=
  bytesOf 8 (f.kind.toNat + f.tc.toNat * 2 ^ 4 + f.vc.toNat * 2 ^ 6 + f.start.toNat * 2 ^ 9 + f.ack.toNat * 2 ^ 16 +
    f.crBuf.toNat * 2 ^ 32 + f.crCount.toNat * 2 ^ 37) ++
  bytesOf 16 f.ctrl.toNat ++ padTo 224 (if f.kind = 1 then f.body else [])

/-- SF_CRC for a receiving package (ID, or none), strait and sequence number (R330). -/
def straitCrc (id : Option Nat) (i : Nat) (seq : BitVec 16) (f : SFlit) : BitVec 64 :=
  bits 64 (crc64Run ones64 (bytesOf 2 (id.getD 0xFFFF) ++ [bits 8 i, 0] ++ bytesOf 2 seq.toNat ++ [0, 0] ++ f.bytes) ^^^ ones64)

/-- This package's ID in fold words. -/
def Fab.foldId (f : Fab) : Option Nat := if f.joined then some f.idApplied.toNat else none

/-- The ID of the package at the other end of a strait in fold words. -/
def Strait.peerFold (x : Strait) : Option Nat := if x.peerValid then some x.peerId.toNat else none

/-- The buffer of a flit or of credits: traffic class × 8 + hop buffer. -/
def SFlit.buf (f : SFlit) : Nat := f.tc.toNat * 8 + f.vc.toNat

/-- What every flit taken carries for this end: the acknowledgement and the credits. -/
def Strait.absorb (x : Strait) (f : SFlit) : Strait :=
  let k := f.crBuf.toNat
  { x with kept := afterAck f.ack x.kept, credits := put 0 x.credits k (look 0 x.credits k + f.crCount.toNat) }

/-- One body unit taken: a unit that begins a message starts a new assembly; a message whose units are all there goes to
the inbox with one more strait crossed (R337; log 32). -/
def takeUnit (f : SFlit) (a : List Byte × List FMsg) (k : Nat) : List Byte × List FMsg :=
  let u := padTo 32 (f.body.drop (32 * k))
  let acc := if bitAt f.start k then u else if a.1.isEmpty then [] else a.1 ++ u
  let n := natOf (acc.take 32)
  let m := FMsg.ofHeader n (acc.drop 32)
  if acc.isEmpty then a
  else if acc.length = 32 * (1 + m.units.toNat) then ([], a.2 ++ [{ m with hops := m.hops + 1 }])
  else (acc, a.2)

/-- A numbered flit taken in order. -/
def State.takeFlit (s : State) (i : Nat) (f : SFlit) : State :=
  let s := s.modStrait i fun x =>
    { x.absorb f with rxSeq := x.rxSeq + 1, failRun := 0, discarding := false, replayReq := none }
  if f.kind ≠ 1 then s
  else
    let k := f.buf
    let (acc, ms) := (List.range 7).foldl (takeUnit f) (look [] (s.fab.strait i).units k, [])
    let s := s.modStrait i fun x => { x with units := put [] x.units k acc, owed := put 0 x.owed k (look 0 x.owed k + 1) }
    s.onFab fun fb => { fb with inbox := fb.inbox ++ ms }

/-- A flit that fails the check: it and every later one is discarded until the replay, which is asked for (R307, R330). -/
def Strait.fail (x : Strait) : Strait :=
  { x with discarding := true, replayReq := some (x.rxSeq - 1), failRun := x.failRun + 1, crcErr := bump 48 x.crcErr }

/-! ### Sending (R337, R340) -/

/-- The buffer of a queued message: its class and the straits it has crossed. -/
def FMsg.buf (m : FMsg) : Nat := m.tc.toNat * 8 + m.hops.toNat

/-- A buffer of an output has something to send and a credit for it. -/
def Strait.canSend (x : Strait) (k : Nat) : Bool := decide (0 < look 0 x.credits k) && x.outq.any fun m => m.buf == k

/-- The hop buffer that a class sends from: the highest that can. -/
def Strait.bestBuf (x : Strait) (tc : Nat) : Option Nat := (([7, 6, 5, 4, 3, 2, 1, 0]).map (tc * 8 + ·)).find? x.canSend

/-- The flits of a window that a class is sure of: 64 REQ, 64 RSP, 96 COL, 16 CTL. -/
def classShare (tc : Nat) : Nat := if tc = 3 then 16 else if tc = 2 then 96 else 64

/-- The class that sends next: CTL within its share, then REQ, RSP and COL within theirs in round robin, then any class in
round robin (R340). -/
def Strait.nextClass (x : Strait) : Option Nat :=
  let can (tc : Nat) : Bool := (x.bestBuf tc).isSome
  let within_ (tc : Nat) : Bool := decide (look 0 x.winUsed tc < classShare tc)
  let turn := (List.range 4).map fun k => (x.rr + 1 + k) % 4
  if can 3 && within_ 3 then some 3
  else match turn.find? fun tc => tc != 3 && can tc && within_ tc with
    | some tc => some tc
    | none => turn.find? can

/-- The units at the front of a buffer's queue, each with whether it begins a message, after the `off` units already sent. -/
def bufUnits (ms : List FMsg) (off : Nat) : List (Bool × List Byte) :=
  (ms.flatMap fun m => m.asUnits.mapIdx fun j u => (j == 0, u)).drop off

/-- The queue after `n` units of a buffer were sent, with the units sent of its oldest message left. -/
def afterUnits (k : Nat) : Nat → List FMsg → List FMsg × Nat
  | n, [] => ([], n)
  | n, m :: r =>
    if m.buf ≠ k then let (q, o) := afterUnits k n r; (m :: q, o)
    else if 1 + m.units.toNat ≤ n then afterUnits k (n - (1 + m.units.toNat)) r
    else (m :: r, n)

/-- The buffer whose credits go back with the next flit. While 64 MiB of early contributions are held, none go back for
COL (R354). -/
def Fab.giveBack (f : Fab) (x : Strait) : Option (Nat × Nat) :=
  let full := decide (2 ^ 26 ≤ (f.early.map fun m => m.data.length).foldl (· + ·) 0)
  x.owed.find? fun p => !(full && p.1 / 8 == 2)

/-- The numbered flit that a strait sends next: a body flit of the class that is next, or an idle one. -/
def Strait.compose (x : Strait) (cr : Option (Nat × Nat)) : SFlit × Strait :=
  let crBuf := cr.elim 0 (·.1)
  let crCount := min 1023 (cr.elim 0 (·.2))
  let x := { x with owed := put 0 x.owed crBuf (look 0 x.owed crBuf - crCount) }
  let base : SFlit := { ack := x.rxSeq - 1, crBuf := bits 5 crBuf, crCount := bits 10 crCount }
  let slot := (x.winSlot + 1) % 256
  match x.nextClass.bind fun tc => x.bestBuf tc with
  | none => (base, { x with winSlot := slot, winUsed := if slot = 0 then [] else x.winUsed })
  | some k =>
    let off := look 0 x.sent k
    let us := (bufUnits (x.outq.filter fun m => m.buf == k) off).take 7
    let (q, left) := afterUnits k (off + us.length) x.outq
    let tc := k / 8
    let f : SFlit := { base with
      kind := 1, tc := bits 2 tc, vc := bits 3 k
      start := bits 7 (maskOf ((List.range 7).filter fun j => (us.getD j (false, [])).1))
      body := us.flatMap fun u => u.2 }
    let used := if slot = 0 then [] else put 0 x.winUsed tc (look 0 x.winUsed tc + 1)
    (f, { x with outq := q, sent := put 0 x.sent k left, credits := put 0 x.credits k (look 0 x.credits k - 1),
                 winSlot := slot, winUsed := used, rr := tc })

/-- One flit sent by this end while it does not hold: the next of a replay, else a new one, numbered and kept; with 2,048
flits kept it sends none (R330). -/
def State.sendFlit (s : State) (i : Nat) : State :=
  let x := s.fab.strait i
  if !x.up || x.holding then s
  else match x.resend with
    | _ :: r => s.modStrait i fun x =>
      let slot := (x.winSlot + 1) % 256
      { x with resend := r, winSlot := slot, winUsed := if slot = 0 then [] else x.winUsed }
    | [] =>
      if 2048 ≤ x.kept.length then s
      else
        let (f, y) := x.compose (s.fab.giveBack x)
        let f := { f with crc := straitCrc x.peerFold x.peerPort.toNat x.txSeq f }
        s.modStrait i fun _ => { y with txSeq := x.txSeq + 1, kept := y.kept ++ [(x.txSeq, f)] }

/-! ### Arriving flits -/

/-- The guard of every flit: the strait exists, is powered and up. -/
def onStrait (i : Nat) (s : State) (k : Host.Outcome State Fault Refusal) : Host.Outcome State Fault Refusal :=
  unit i 16 <| need s.powered .unavailable <| need (s.fab.strait i).up .notPending k

/-- An idle or body flit arrives at strait `i`; `fec`: symbols that the FEC corrected in it; `unc`: its codeword was
uncorrectable; `replay`: it is the first flit of the replay asked for. As one flit time passes, this end sends one flit
too (R329, R330; log 32). -/
def straitFlit (kind : BitVec 4) (i : Nat) (f : SFlit) (fec : Nat) (unc replay : Bool) (s : State) :
    Host.Outcome State Fault Refusal :=
  onStrait i s <|
  let f := { f with kind := kind }
  let s := (s.sendFlit i).modStrait i fun x => { x with fecCorr := (x.fecCorr + fec) % 2 ^ 48 }
  let x := s.fab.strait i
  if unc then
    .next (s.modStrait i fun x =>
      let x := { x with fecUncorr := bump 48 x.fecUncorr }
      if x.discarding && !replay then x
      else { x with discarding := true, replayReq := some (x.rxSeq - 1), failRun := x.failRun + 1 })
  else if x.discarding && !replay then .next s
  else if f.crc = straitCrc s.fab.foldId i x.rxSeq f then .next (s.takeFlit i f)
  else .next (s.modStrait i Strait.fail)

/-- STRAIT_IDLE_FLIT. -/
def execStraitIdleFlit (i : Nat) (f : SFlit) (fec : Nat) (unc replay : Bool) (s : State) : Host.Outcome State Fault Refusal :=
  straitFlit 0 i f fec unc replay s

/-- STRAIT_BODY_FLIT. -/
def execStraitBodyFlit (i : Nat) (f : SFlit) (fec : Nat) (unc replay : Bool) (s : State) : Host.Outcome State Fault Refusal :=
  straitFlit 1 i f fec unc replay s

/-- A flit of kinds 2 to 4 arrives; it takes no sequence number, and its fold word holds the number expected next
(log 32). One that fails the check is counted and discarded. -/
def controlFlit (kind : BitVec 4) (i : Nat) (f : SFlit) (k : State → Host.Outcome State Fault Refusal) (s : State) :
    Host.Outcome State Fault Refusal :=
  onStrait i s <|
  let f := { f with kind := kind }
  if f.crc = straitCrc s.fab.foldId i (s.fab.strait i).rxSeq f then k (s.modStrait i fun x => x.absorb f)
  else .next (s.modStrait i fun x => { x with crcErr := bump 48 x.crcErr })

/-- STRAIT_REPLAY_REQUEST: this end sends again from the flit after the acknowledged one (R307, R330). -/
def execStraitReplayRequest (i : Nat) (f : SFlit) (s : State) : Host.Outcome State Fault Refusal :=
  controlFlit 2 i f (fun s => .next (s.modStrait i fun x => { x with resend := x.kept, replays := bump 48 x.replays })) s

/-! ### Loss, retraining and the spare wavelength (R330 to R332) -/

/-- The STRAIT_STATE record of a strait. -/
def State.straitRecord (s : State) (i action : Nat) : State :=
  s.record 0x2A 5 action 0 (locOf 9 i) (detailOf [(0, 8, s.fab.strState i)])

/-- A strait goes down: it leaves every mask and detour, what it kept or queued is lost, and the changed list is flooded
(R332, R336, R338, R368). -/
def State.straitLost (s : State) (i : Nat) : State :=
  if !(s.fab.strait i).up then s
  else
    let s := s.modStrait i fun x =>
      { x with up := false, holding := false, swapLane := none, swapTx := false, peerValid := false, kept := [],
               resend := [], discarding := false, replayReq := none, failRun := 0, units := [], outq := [], sent := [],
               owed := [], credits := [] }
    let s := s.onFab fun f => { f with routes := f.routes.map fun (p : Nat × Route) => (p.1, { p.2 with
      mask := p.2.mask &&& ~~~(bits 16 (2 ^ i)), detour := if p.2.detour = some i then none else p.2.detour }) }
    ((s.straitRecord i 0x0C).reroutes).flood

/-- STRAIT_DOWN: the strait loses light, or its peer stops answering (R332). -/
def execStraitDown (i : Nat) (s : State) : Host.Outcome State Fault Refusal := onStrait i s <| .next (s.straitLost i)

/-- The credits of a trained strait: 64 flits for each of the 32 buffers (log 33). -/
def fullCredits : SMap Nat := (List.range 32).map fun k => (k, 64)

/-- STRAIT_TRAINED: a strait of a lit engine finishes training with its peer; `peerId` and `peerValid` are the peer's ID and
whether it holds one, `peerPort` its strait (R326, R333). -/
def execStraitTrained (i peerId peerPort : Nat) (peerValid : Bool) (s : State) : Host.Outcome State Fault Refusal :=
  unit i 16 <|
  need s.powered .unavailable <|
  let e := s.fab.engine (i / 4)
  need (e.lit && !e.dark && !(s.fab.strait i).up) .notPending <|
  let s := s.modStrait i fun x =>
    { x with up := true, peerId := bits 12 peerId, peerPort := bits 4 peerPort, peerValid := peerValid, holding := false,
             txSeq := 0, rxSeq := 0, kept := [], resend := [], discarding := false, failRun := 0, replayReq := none,
             credits := fullCredits, units := [], owed := [] }
  .next (((s.straitRecord i 0x10).reroutes).flood)

/-- STRAIT_RETRAIN: after 16 failures of one sequence number the strait retrains; both ends hold (R330). -/
def execStraitRetrain (i : Nat) (s : State) : Host.Outcome State Fault Refusal :=
  onStrait i s <|
  need (decide (16 ≤ (s.fab.strait i).failRun)) .notPending <|
  .next (s.modStrait i fun x => { x with holding := true })

/-- STRAIT_RETRAIN_MARKER: the marker passes; the transmitter replays from SF_ACK + 1 and traffic resumes. A spare-wavelength
swap is over, with its record (R331, Table 10.3). -/
def execStraitRetrainMarker (i : Nat) (f : SFlit) (s : State) : Host.Outcome State Fault Refusal :=
  controlFlit 3 i f (fun s =>
    let x := s.fab.strait i
    let s := s.modStrait i fun x =>
      { x with holding := false, resend := x.kept, discarding := false, replayReq := none, failRun := 0, swapLane := none,
               swapTx := false }
    match x.swapLane with
    | none => .next s
    | some j =>
      let s := s.modStrait i fun y => if x.swapTx then y else { y with spareUsed := true, spareFor := j }
      .next (s.record 0x28 5 0x05 0 (locOf 9 i) (detailOf [(0, 1, j.toNat), (1, 1, bit01 x.swapTx)]))) s

/-- Lanes of a direction that have not failed. -/
def goodLanes (bad : BitVec 8) : Nat := ((List.range 8).filter fun j => !bitAt bad j).length

/-- The strait retrains to four good lanes in both directions, or is down with fewer than four in either (R332). -/
def State.halfWidth (s : State) (i : Nat) : State :=
  let x := s.fab.strait i
  if goodLanes x.rxBad < 4 || goodLanes x.txBad < 4 then s.straitLost i
  else s.modStrait i fun x => { x with half := true, holding := true, swapLane := none, swapTx := false }

/-- A lane of the receive direction failed: the first moves to λ8, a later one makes the strait retrain to four lanes
(R331, R332). -/
def State.laneFails (s : State) (i lane : Nat) : State :=
  let x := s.fab.strait i
  let s := s.modStrait i fun x => { x with rxBad := x.rxBad ||| bits 8 (2 ^ lane) }
  if x.spareUsed || x.swapLane.isSome || x.half then s.halfWidth i
  else s.modStrait i fun x => { x with swapLane := some (bits 3 lane), swapTx := false, holding := true }

/-- LANE_FAILURE: lane `lane` of the receive direction fails, for one of the three causes of R331; 8 stands for λ8 once it
carries a lane (R331, R332). -/
def execLaneFailure (i lane : Nat) (s : State) : Host.Outcome State Fault Refusal :=
  onStrait i s <|
  let x := s.fab.strait i
  unit lane 9 <|
  if lane = 8 then need x.spareUsed .notPending <| .next (s.halfWidth i)
  else
    need (!bitAt x.rxBad lane) .notPending <|
    .next (s.laneFails i lane)

/-- LANE_MAP_CHANGE: the peer's receiver names the lane of this end's transmit direction that failed and the new width;
this end holds new flits (Table 10.2, Table 10.3 steps 2 and 3, R332). One with a lane or a width that Table 10.2 does not give
changes no lane (log 104). -/
def execLaneMapChange (i : Nat) (f : SFlit) (s : State) : Host.Outcome State Fault Refusal :=
  let lane := fld f.ctrl 0 8
  let width := fld f.ctrl 8 8
  controlFlit 4 i f (fun s =>
    if !(decide (lane < 8) && (width == 8 || width == 4)) then .next s else
    let s := s.modStrait i fun x => { x with txBad := x.txBad ||| bits 8 (2 ^ lane) }
    if width = 4 then .next (s.halfWidth i)
    else .next (s.modStrait i fun x =>
      { x with txSpareUsed := true, txSpareFor := bits 3 lane, swapLane := some (bits 3 lane), swapTx := true, holding := true })) s

/-! ### Laser inputs (R325, R327) -/

/-- An engine goes dark: its straits transmit no valid signal and are down (R327). -/
def State.darken (s : State) (oe : Nat) : State :=
  let s := s.modEngine oe fun e => { e with dark := true }
  (List.range 4).foldl (fun s k => s.straitLost (4 * oe + k)) s

/-- LASER_SAMPLE: an engine samples its inputs; bit 0 stands for LASER_A, bit 1 for LASER_B: `good`, the inputs that meet
Table 10.1; `low`, those with a wavelength 3 dB below its level at the last training. At the threshold, two samples in a
row, the engine switches to the other input if that one is good (R325); with neither good it is dark, and an engine that was dark takes
the good input (R327). -/
def execLaserSample (oe good low : Nat) (s : State) : Host.Outcome State Fault Refusal :=
  unit oe 4 <|
  need s.powered .unavailable <|
  need (s.fab.engine oe).lit .notPending <|
  let (good, low) := (good % 4, low % 4)
  let e := s.fab.engine oe
  let act := if e.laserB then 1 else 0
  let reached := low.testBit act && bitAt e.low act
  let s := s.modEngine oe fun e => { e with good := bits 2 good, low := bits 2 low }
  if good = 0 then
    if e.dark then .next s else .next ((s.darken oe).record 0x2B 5 0x07 0 (locOf 10 oe) (detailOf [(0, 1, 1)]))
  else
    let s := s.modEngine oe fun e => { e with dark := false, laserB := if e.dark && !good.testBit act && !reached then !e.laserB else e.laserB }
    if reached && good.testBit (1 - act) then
      let s := s.modEngine oe fun e => { e with laserB := !e.laserB }
      let s := (List.range 4).foldl (fun s k => s.modStrait (4 * oe + k) fun x => { x with resend := x.kept }) s
      .next (s.record 0x29 5 0x0D 0 (locOf 10 oe) (detailOf [(0, 1, 1 - act)]))
    else .next s

end Sys2Proof.Machine
end

