-- ==== Sys2Proof/Machine/Barriers.lean ====
section
/-! DEFINITION. Group barriers, core barriers and cluster barriers (R122 to R131, file 04). -/

namespace Sys2Proof.Machine

/-! ### Group barriers (R122, R123) -/

/-- The group's barrier releases when every thread of the phase's mask has arrived or exited (R122). -/
def Group.settleG (g : Group) : Group :=
  match g.barG with
  | none => g
  | some b =>
    if (List.range 32).all fun t => !bitAt b.mask t || bitAt b.arrived t || g.gone t then
      let g := (maskList 32 b.arrived.toNat).foldl (fun g t => if g.wait t == .barG then g.setWait t .none else g) g
      { g with barG := none }
    else g

/-- The mask that a BAR.G names: none where it is omitted. -/
def FmtS.mask (f : FmtS) (g : Group) : Option Nat :=
  if f.momit.toNat = 1 then none
  else some (if f.msrc.toNat = 1 then (g.u f.ux.toNat).toNat % 2 ^ 32 else f.imm.toNat)

/-- The mask of the phase after this arrival: the one that stands, else the arrival's own, else the threads that have
not exited. -/
def Group.phaseMask (g : Group) (m : Option Nat) : Nat :=
  match g.barG with
  | some b => b.mask.toNat
  | none => m.getD (maskOf g.liveThreads)

/-- The acting threads that break R123: an explicit mask that differs from the phase's or leaves the thread out. -/
def Group.barGBad (g : Group) (m : Option Nat) (act : List Nat) : List Nat :=
  match m with
  | none => []
  | some x => act.filter fun t => x != g.phaseMask m || !x.testBit t

/-- BAR.G (R122, R123). -/
def execBarG (site : Site) (h : Hdr) (f : FmtS) (s : State) : Host.Outcome State Fault Refusal :=
  let omit_ := f.momit.toNat == 1
  let src := f.msrc.toNat == 1
  issue site h { ur := if src && !omit_ then [f.ux.toNat] else [], enc := !(omit_ && src), arith := false } (fun c s =>
    if c.act.isEmpty then s
    else
      let m := f.mask c.g
      let bad := c.g.barGBad m c.act
      if !bad.isEmpty then s.trapAt c stProgram bad 0
      else s.onGroup c fun g =>
        let b : BarG := { mask := bits 32 (g.phaseMask m),
                          arrived := bits 32 ((match g.barG with | some b => b.arrived.toNat | none => 0) ||| maskOf c.act) }
        let g := c.act.foldl (fun g t => g.setWait t .barG) g
        { g with barG := some b }.settleG) s

/-! ### Named barriers (R126, R127) -/

/-- The arrivals of the threads of one group beyond those counted. -/
def NBar.threads (b : NBar) (key : Nat) : List Nat := look (List.replicate 32 0) b.arrivedThreads key

/-- One more arrival of some threads of a group; the first arrival of a phase fixes g. -/
def NBar.arrive (b : NBar) (key g : Nat) (act : List Nat) : NBar :=
  let ts := (b.threads key).mapIdx fun t n => if act.contains t then n + 1 else n
  { b with g := g, arrivedThreads := put (List.replicate 32 0) b.arrivedThreads key ts }

/-- The arrivals of a group that are complete, counted: as many as every thread that has not exited has made. -/
def NBar.countGroup (b : NBar) (key : Nat) (g : Group) : NBar :=
  match g.liveThreads with
  | [] => b
  | t :: live =>
    let ts := b.threads key
    let m := live.foldl (fun m t => min m (ts.getD t 0)) (ts.getD t 0)
    { b with count := b.count + m,
             arrivedThreads := put (List.replicate 32 0) b.arrivedThreads key (ts.map fun n => n - m) }

/-- The phase is over: g group arrivals have counted. -/
def NBar.full (b : NBar) : Bool := b.g != 0 && decide (b.g ≤ b.count)

/-- The slots of a core that its running task uses. -/
def Core.runSlots (c : Core) : List Nat :=
  match c.task with
  | some t => (List.range 16).filter (c.slotRuns t)
  | none => []

/-- The threads of a group that wait for a reason go on. -/
def Group.wake (g : Group) (w : WaitReason) : Group :=
  (List.range 32).foldl (fun g t => if g.wait t == w then g.setWait t .none else g) g

/-- The threads of the running task that wait for a reason go on. -/
def Core.wake (c : Core) (w : WaitReason) : Core :=
  c.runSlots.foldl (fun c gi => c.modGroup gi fun g => g.wake w) c

/-- Core barrier `n` counts its groups and releases when it is full; it then starts a new phase (R126). -/
def Core.settleC (c : Core) (n : Nat) : Core :=
  let b := c.runSlots.foldl (fun b gi => b.countGroup gi (c.group gi)) (c.bar n)
  if b.full then (c.putBar n {}).wake (.barC n) else c.putBar n b

/-- The group count g of a BAR.C or BAR.CL. -/
def FmtS.count (f : FmtS) : Nat := fld f.imm 0 8

/-- BAR.C.SYNC and BAR.C.ARRIVE (R126, R127). -/
def barC (sync : Bool) (site : Site) (h : Hdr) (f : FmtS) (s : State) : Host.Outcome State Fault Refusal :=
  let n := f.bn.toNat
  let g := f.count
  issue site h { enc := g != 0, arith := false } (fun c s =>
    if c.act.isEmpty then s
    else
      let b := (s.core c.l).bar n
      if c.task.groups < g || (b.g != 0 && b.g != g) then s.trapAt c stProgram c.act 0
      else
        let s := if sync then s.setWaits c.l c.gi c.act (.barC n) else s
        s.modCore c.l fun k => (k.putBar n (b.arrive c.gi g c.act)).settleC n) s

/-- BAR.C.SYNC: arrives and waits. -/
def execBarCSync (site : Site) (h : Hdr) (f : FmtS) (s : State) : Host.Outcome State Fault Refusal := barC true site h f s

/-- BAR.C.ARRIVE: arrives and goes on. -/
def execBarCArrive (site : Site) (h : Hdr) (f : FmtS) (s : State) : Host.Outcome State Fault Refusal := barC false site h f s

/-! ### Cluster barriers (R130, R131) -/

/-- Entry `g` of a cluster's gangs. -/
def Cluster.gang (c : Cluster) (g : Nat) : Gang := look {} c.gangs g

/-- A gang of a cluster's sync unit changed. -/
def State.modGang (s : State) (cl g : Nat) (f : Gang → Gang) : State :=
  s.modCluster cl fun c => { c with gangs := put {} c.gangs g (f (c.gang g)) }

/-- The rank of a core in a gang. -/
def Gang.rankOf (g : Gang) (l : Nat) : Nat := g.members.idxOf l

/-- The groups of a gang as dispatched. -/
def State.gangGroups (s : State) (g : Gang) : Nat :=
  g.members.foldl (fun n l => n + match (s.core l).task with | some t => t.groups | none => 0) 0

/-- The first slot of the URGENT task that stands on a pre-empted one; 16 with none. -/
def Core.overFrom (c : Core) : Nat :=
  match c.frame, c.task with
  | some _, some t => 16 - t.groups
  | _, _ => 16

/-- Group `gi` of the pre-empted task of a core: displaced into the context frame, or in place (R137). -/
def Core.heldGroup (c : Core) (f : Frame) (gi : Nat) : Group :=
  let x := look {} f.groups gi
  if x.used then x else if gi < c.overFrom then c.group gi else {}

/-- The groups of a gang's task on a core, running or pre-empted, with their slots (R130, R141). -/
def Core.memberGroups (c : Core) (g : Nat) : List (Nat × Group) :=
  match c.frame with
  | some f =>
    if f.task.gang = some g then
      ((List.range 16).map fun gi => (gi, c.heldGroup f gi)).filter fun p => p.2.used
    else []
  | none => match c.task with
    | some { gang := some k, .. } => if k = g then c.runSlots.map fun gi => (gi, c.group gi) else []
    | _ => []

/-- Every group of a gang's task on a core changed, those in the context frame too. -/
def Core.modMember (c : Core) (g : Nat) (h : Group → Group) : Core :=
  match c.frame with
  | some f =>
    if f.task.gang = some g then
      let c := (List.range c.overFrom).foldl (fun c gi => c.modGroup gi fun x => if x.used then h x else x) c
      { c with frame := some { f with groups := f.groups.map fun p => (p.1, h p.2) } }
    else c
  | none => match c.task with
    | some { gang := some k, .. } => if k = g then c.runSlots.foldl (fun c gi => c.modGroup gi h) c else c
    | _ => c

/-- Cluster barrier `n` of a gang counts its groups and releases when it is full; members that are pre-empted count and go on too.
The cores of the released threads see the arrived groups' writes, so their L1 is invalidated as by an acquire (R130, R131, R141). -/
def State.settleCl (s : State) (cl g n : Nat) : State :=
  let x := (s.cluster cl).gang g
  let b := x.members.foldl (fun b l =>
    ((s.core l).memberGroups g).foldl (fun b p => b.countGroup (x.rankOf l * 16 + p.1) p.2) b) (look {} x.barriers n)
  if b.full then
    x.members.foldl (fun s l => s.modCore l fun c => { c.modMember g (fun y => y.wake (.barCl n)) with l1 := [] })
      (s.modGang cl g fun x => { x with barriers := put {} x.barriers n {} })
  else s.modGang cl g fun x => { x with barriers := put {} x.barriers n b }

/-- The message of an arrival from a core to the sync unit of its cluster: it travels in the core's class (R316; log 89). -/
def State.barrierMsg (s : State) (l : Nat) : State :=
  let cl := s.clusterOf l
  s.netSend { src := 128 + s.slotOf l, dst := cl, inp := s.slotOf l % 9, path := [ptXbar cl 11] }

/-- BAR.CL.SYNC and BAR.CL.ARRIVE; the arrival performs a fence of cluster scope for the group's threads (R130, R131). -/
def barCl (sync : Bool) (site : Site) (h : Hdr) (f : FmtS) (s : State) : Host.Outcome State Fault Refusal :=
  let n := f.bn.toNat
  let g := f.count
  issueWhen (fun c s => s.releaseReady c.l c.gi (List.range 32)) site h
      { enc := g != 0 && decide (n < 4), arith := false } (fun c s =>
    if c.act.isEmpty then s
    else match c.task.gang with
      | none => s.trapAt c stProgram c.act 0
      | some gid =>
        let cl := s.clusterOf c.l
        let x := (s.cluster cl).gang gid
        let b := look {} x.barriers n
        if c.task.members * c.task.groups < g || (b.g != 0 && b.g != g) then s.trapAt c stProgram c.act 0
        else
          let s := (s.l1Clear c.l).barrierMsg c.l
          let s := if sync then s.setWaits c.l c.gi c.act (.barCl n) else s
          let s := s.modGang cl gid fun x =>
            { x with barriers := put {} x.barriers n (b.arrive (x.rankOf c.l * 16 + c.gi) g c.act) }
          s.settleCl cl gid n) s

/-- BAR.CL.SYNC: arrives and waits. -/
def execBarClSync (site : Site) (h : Hdr) (f : FmtS) (s : State) : Host.Outcome State Fault Refusal := barCl true site h f s

/-- BAR.CL.ARRIVE: arrives and goes on. -/
def execBarClArrive (site : Site) (h : Hdr) (f : FmtS) (s : State) : Host.Outcome State Fault Refusal := barCl false site h f s

/-- Every barrier that a change in which threads have exited can release (R122, R126, R130). -/
def State.settleBarriers (s : State) (l gi : Nat) : State :=
  let s := s.modCore l fun c => c.modGroup gi Group.settleG
  let s := s.modCore l fun c => each (List.range 16) (fun n c => c.settleC n) c
  match (s.core l).task with
  | some { gang := some g, .. } => each (List.range 4) (fun n s => s.settleCl (s.clusterOf l) g n) s
  | _ => s

end Sys2Proof.Machine
end

