-- ==== Sys2Proof/Machine/Control.lean ====
section
/-! DEFINITION. The control instructions BRA, BRX, CALL, RET, EXIT, NOP and TRAP (R135, R143, R170, R171). -/

namespace Sys2Proof.Machine

/-- The acting threads go to a target (R171). -/
def State.branch (s : State) (c : Ctx) (target : Nat → W64) : State :=
  s.onGroup c fun g => c.act.foldl (fun g t => g.setPc t (target t)) g

/-- The target of BRA and CALL: the instruction's address + OFF × 8. -/
def FmtB.target (f : FmtB) (c : Ctx) : W64 := c.pc + BitVec.ofNat 64 (lowBits 64 (sext 32 f.off.toNat * 8))

/-- BRA (R171). -/
def execBra (site : Site) (h : Hdr) (f : FmtB) (s : State) : Host.Outcome State Fault Refusal :=
  issue site h { arith := false } (fun c s => s.branch c fun _ => f.target c) s

/-- A branch to the address in pair VA; an address that is no multiple of 8 traps (Table 05.10). -/
def branchPair (site : Site) (h : Hdr) (f : FmtB) (s : State) : Host.Outcome State Fault Refusal :=
  let r := f.va.toNat
  issue site h { reads := [[r, r + 1]], enc := r % 2 == 0, arith := false, hold := if bitAt h.hold 0 then [r, r + 1] else [] } (fun c s =>
    let bad := c.act.filter fun t => c.g.v64 r t % 8 != 0
    if !bad.isEmpty then s.trapAt c stProgram bad 0
    else s.branch c fun t => bits 64 (c.g.v64 r t)) s

/-- BRX (R171). -/
def execBrx (site : Site) (h : Hdr) (f : FmtB) (s : State) : Host.Outcome State Fault Refusal := branchPair site h f s

/-- CALL: pair VD receives the address of the next instruction (R171). -/
def execCall (site : Site) (h : Hdr) (f : FmtB) (s : State) : Host.Outcome State Fault Refusal :=
  let r := f.vd.toNat
  issue site h { vw := [r, r + 1], enc := r % 2 == 0, arith := false } (fun c s =>
    (s.onGroup c fun g => c.act.foldl (fun g t => g.setV64 r t (c.pc + 8).toNat) g).branch c fun _ => f.target c) s

/-- RET (R171). -/
def execRet (site : Site) (h : Hdr) (f : FmtB) (s : State) : Host.Outcome State Fault Refusal := branchPair site h f s

/-- EXIT: the acting threads end; exited threads count as arrived at barriers (R122, R126, R135). -/
def execExit (site : Site) (h : Hdr) (_f : FmtB) (s : State) : Host.Outcome State Fault Refusal :=
  issue site h { arith := false } (fun c s =>
    if c.act.isEmpty then s
    else (s.onGroup c fun g => { g with exited := g.exited ||| bits 32 (maskOf c.act) }).settleBarriers c.l c.gi) s

/-- NOP: no effect but the advance of the program counter (Table 05.10). -/
def execNop (site : Site) (h : Hdr) (_f : FmtB) (s : State) : Host.Outcome State Fault Refusal :=
  issue site h { arith := false } (fun _ s => s) s

/-- TRAP: traps the task with PROGRAM_FAULT; the code goes to the record (R143, Table 05.10). -/
def execTrap (site : Site) (h : Hdr) (f : FmtB) (s : State) : Host.Outcome State Fault Refusal :=
  issue site h { arith := false } (fun c s =>
    if c.act.isEmpty then s else s.trapAt c stProgram c.act (fld f.off 0 16)) s

end Sys2Proof.Machine
end

