-- ==== Sys2Proof/Machine/Matrix.lean ====
section
/-! DEFINITION. The matrix arrays (chapter 03): the checks of a matrix descriptor, the stationary tile, the rows of a RUN,
completion tokens, stops with their save area, and parity mismatches. -/

namespace Sys2Proof.Machine

/-! ### Checks (R54, R55, R80, Table 03.5) -/

/-- The pass depth of two formats; none where they do not pair (R54, R55). -/
def pairDepth (a b : Fmt) : Option Nat :=
  match a.depth, b.depth with
  | some x, some y => if a.isInt == b.isInt then some (min x y) else none
  | _, _ => none

/-- The output formats of a pairing (Table 02.6). -/
def outputOk (isInt : Bool) (d : Fmt) : Bool :=
  if isInt then d == .fp32 || d == .int8 else d.isOutput && d != .int8

/-- The formats that C may have. -/
def cinOk (f : Fmt) : Bool := f == .fp32 || f == .fp19 || f == .fp16 || f == .bf16

/-- One condition of a check with its status. -/
def when_ (b : Bool) (st : BitVec 8) : List (BitVec 8) := if b then [st] else []

/-- Some value that a check needs is there and fails it; a check of a field whose format code is reserved is not made. -/
def fails {α : Type} (x : Option α) (p : α → Bool) : Bool := match x with | some y => p y | none => false

/-- The checks of the fields that load a tile (Table 03.5). A reserved format code gives BAD_DESCRIPTOR, and no check that needs that
format applies (R32). META_ADDR is among the fields that a LOADB reads whatever SPARSE is; the scale fields of a format without
scales are ignored (R65, Table 03.4; log 99). -/
def tileChecks (d : BitVec 512) : List (BitVec 8) :=
  let k := tileK d
  let n := tileN d
  let sparse := bitAt d 2
  let fa := Fmt.ofCode (fld d 8 5)
  let fb := Fmt.ofCode (fld d 13 5)
  let stored := if sparse then (k + 1) / 2 else k
  let pair : Option (Option Nat) := fa.bind fun a => fb.map fun b => pairDepth a b
  when_ (fa.isNone || fb.isNone) stBadDesc ++
  when_ (fld d 96 21 % 32 != 0 || fld d 208 16 % 8 != 0 || fails fb (fun b => b.scaled && fld d 288 21 % 32 != 0) ||
    fld d 352 21 % 16 != 0) stBadDesc ++
  when_ (fails fb fun b => decide (fld d 208 16 < b.rowBytes n)) stBadDesc ++
  when_ (sparse && k % 4 != 0) stBadDesc ++
  when_ (fails pair fun x => x.isNone) stFormat ++
  when_ (fails pair fun x => fails x fun dp => decide (32 * dp * (if sparse then 2 else 1) < k)) stBadDesc ++
  when_ (fails fb (fun b => decide (lmBytes < fld d 96 21 + (stored - 1) * fld d 208 16 + b.rowBytes n)) ||
    fails fb (fun b => b.scaled && decide (lmBytes < fld d 288 21 + 32 * ((k + 31) / 32 - 1) + n)) ||
    (sparse && decide (lmBytes < fld d 352 21 + 16 * ((k + 3) / 4 - 1) + (n + 1) / 2))) stAccess

/-- The checks of a tile record that is reloaded: those of a LOADB, OP among them (R102). -/
def recordChecks (d : BitVec 512) : List (BitVec 8) := when_ (fld d 0 2 == 3) stBadDesc ++ tileChecks d

/-- The checks of the fields that a RUN reads, with the tile's K, N and B format; without a tile, or with a reserved B_FMT, there is
no B format, and the checks that need it do not apply (R32, R80, Table 03.5; log 99). -/
def runChecks (d : BitVec 512) (k n : Nat) (fb : Option Fmt) : List (BitVec 8) :=
  let rows := fld d 28 12 + 1
  let cin := bitAt d 3
  let fa := Fmt.ofCode (fld d 8 5)
  let fc := if cin then Fmt.ofCode (fld d 18 5) else none
  let fd := Fmt.ofCode (fld d 23 5)
  let pair := fa.bind fun a => fb.bind fun b => (pairDepth a b).map fun _ => b
  when_ (fa.isNone || fd.isNone || (cin && fc.isNone) || fld d 5 2 == 3) stBadDesc ++
  when_ (fld d 64 21 % 32 != 0 || fld d 160 21 % 32 != 0 || fld d 192 16 % 32 != 0 || fld d 240 16 % 32 != 0 ||
    fld d 416 21 % 256 != 0 || (cin && (fld d 128 21 % 32 != 0 || fld d 224 16 % 32 != 0))) stBadDesc ++
  when_ (fails fd fun f => decide (fld d 240 16 < f.rowBytes n)) stBadDesc ++
  when_ (fails pair (fun b => fails fd fun f => !outputOk b.isInt f) || fails fc (fun f => !cinOk f) ||
    (cin && fails pair fun b => b.isInt)) stFormat ++
  when_ (fails fa (fun f => decide (lmBytes < fld d 64 21 + (rows - 1) * fld d 192 16 + f.rowBytes k)) ||
    fails fa (fun f => f.scaled && decide (lmBytes < fld d 256 21 + (rows - 1) * fld d 320 16 + (k + 31) / 32)) ||
    fails fc (fun f => decide (lmBytes < fld d 128 21 + (rows - 1) * fld d 224 16 + f.rowBytes n)) ||
    fails fd (fun f => decide (lmBytes < fld d 160 21 + (rows - 1) * fld d 240 16 + f.rowBytes n)) ||
    decide (lmBytes < fld d 416 21 + 8448)) stAccess

/-- Every check of a descriptor at the head of its queue (R80). -/
def MEntry.checks (e : MEntry) (tile : Option Tile) : List (BitVec 8) :=
  let d := e.desc
  if !e.hasCopy || e.op = 3 then [stBadDesc]
  else match e.op with
    | 0 => tileChecks d
    | 1 =>
      match tile with
      | none => stBadDesc :: runChecks d 1 1 none
      | some t =>
        let fb := fmtOf (fld t.record 13 5)
        runChecks d (tileK t.record) (tileN t.record) (some fb) ++
        when_ (fails (Fmt.ofCode (fld d 8 5)) fun fa => decide (pairDepth fa fb ≠ some t.depth)) stFormat
    | _ => tileChecks d ++ runChecks d (tileK d) (tileN d) (Fmt.ofCode (fld d 13 5))

/-! ### The stationary tile (R63 to R66, R74, R84, R85) -/

/-- A byte of local memory. -/
def Core.lmByte (c : Core) (a : Nat) : Byte := look 0 c.lm a

/-- A table of the nonzero entries of rows × columns, key row × `w` + column. -/
def gridMap (w : Nat) (rows cols : Nat) (f : Nat → Nat → BitVec w') : SMap (BitVec w') :=
  (List.range rows).flatMap fun r => (List.range cols).filterMap fun c =>
    if f r c = 0 then none else some (r * w + c, f r c)

/-- The tile that a record of a group loads from local memory. -/
def Core.tileFrom (c : Core) (d : BitVec 512) (group : Nat := 0) : Tile :=
  let k := tileK d
  let n := tileN d
  let sparse := bitAt d 2
  let fb := fmtOf (fld d 13 5)
  { record := d
    group := group
    depth := (pairDepth (fmtOf (fld d 8 5)) fb).getD 0
    elems := gridMap 32 (if sparse then k / 2 else k) n fun r x =>
      bits 32 (packed c.lmByte fb (fld d 96 21 + r * fld d 208 16) x)
    scales := if fb.scaled then gridMap 32 ((k + 31) / 32) n fun b x => c.lmByte (fld d 288 21 + 32 * b + x) else []
    metas := if sparse then gridMap 32 (k / 4) n fun g x =>
        bits 4 ((c.lmByte (fld d 352 21 + 16 * g + x / 2)).toNat >>> (4 * (x % 2)))
      else [] }

/-! ### Rows of a RUN (R55 to R59, R66, R67, R86) -/

/-- The value of the A element of row `m` at K position `k`. -/
def Core.aValue (c : Core) (d : BitVec 512) (m k : Nat) : Val :=
  let fa := fmtOf (fld d 8 5)
  fa.decode (packed c.lmByte fa (fld d 64 21 + m * fld d 192 16) k)
    (if fa.scaled then (c.lmByte (fld d 256 21 + m * fld d 320 16 + k / 32)).toNat else 127)

/-- The products of cell (r, x) for row `m`: the depth's stored elements, each with the A element of its K position;
+0 beyond K (R63, R66, R86). -/
def Core.cellProducts (c : Core) (d : BitVec 512) (t : Tile) (m r x : Nat) : List Val :=
  let fb := fmtOf (fld t.record 13 5)
  let kk := tileK t.record
  (List.range t.depth).map fun j =>
    let p := r * t.depth + j
    let k := if bitAt t.record 2 then
        p / 2 * 4 + (look 0 t.metas (p / 2 * 32 + x)).toNat >>> (2 * (p % 2)) % 4
      else p
    if k < kk then
      (c.aValue d m k).mul (fb.decode (look 0 t.elems (p * 32 + x)).toNat (look 0 t.scales (k / 32 * 32 + x)).toNat)
    else Val.zero

/-- A partial sum carried through cell rows `lo` to `hi` − 1 of a column. -/
def Core.carry (c : Core) (d : BitVec 512) (t : Tile) (m x lo hi sum : Nat) : Nat :=
  ((List.range 32).filter fun r => decide (lo ≤ r) && decide (r < hi)).foldl
    (fun p r => cellStep p (c.cellProducts d t m r x)) sum

/-- The partial sum that enters a column: C's element, exactly, or +0 (R57). -/
def Core.entering (c : Core) (d : BitVec 512) (t : Tile) (m x : Nat) : Nat :=
  if bitAt d 3 && decide (x < tileN t.record) then
    let fc := fmtOf (fld d 18 5)
    Layout.column.encode .rne false (fc.decode (packed c.lmByte fc (fld d 128 21 + m * fld d 224 16) x) 127)
  else 0

/-- Cell rows that window row `i` has passed in column `x` at the end of the stop cycles (R91). -/
def passedRows (i x : Nat) : Nat := min 31 (63 - i - x) + 1

/-- The sum that leaves the bottom of a column: from the top, or on from a restored window (R93). -/
def Core.columnSum (c : Core) (e : MEntry) (t : Tile) (m x : Nat) : Nat :=
  match e.resumeAt with
  | some p =>
    if p - 32 ≤ m && decide (m < p) then
      let i := m - (p - 32)
      c.carry e.desc t m x (passedRows i x) 32 (look 0 e.sums (i * 32 + x)).toNat
    else c.carry e.desc t m x 0 32 (c.entering e.desc t m x)
  | none => c.carry e.desc t m x 0 32 (c.entering e.desc t m x)

/-- The bytes of D row `m`: each sum rounded once to D's format (R47, R58). -/
def Core.dRow (c : Core) (e : MEntry) (t : Tile) (m : Nat) : List Byte :=
  let fd := fmtOf (e.f 23 5)
  packRow fd ((List.range (tileN t.record)).map fun x =>
    fd.encode (Round.ofCode (e.f 5 2) (srRandom (e.f 384 32) m x)) (e.f 4 1 == 1)
      (Layout.column.decode (c.columnSum e t m x)))

/-- The queue of an array with its first unfinished entry changed. -/
def onCurrent (g : MEntry → MEntry) : List MEntry → List MEntry
  | [] => []
  | e :: r => if e.finished then e :: onCurrent g r else g e :: r

/-- The first unfinished entry: the descriptor at the head (R77). -/
def MatArray.current (m : MatArray) : Option MEntry := m.queue.find? fun e => !e.finished

/-- The first unfinished entry of an array changed. -/
def State.onEntry (s : State) (l a : Nat) (g : MEntry → MEntry) : State :=
  s.modCore l fun c => c.modArr a fun m => { m with queue := onCurrent g m.queue }

/-- D row `m` of the descriptor in progress written to local memory; free values where its inputs were written
(R67, R83). -/
def State.writeRow (s : State) (l a m : Nat) : State :=
  let c := s.core l
  let ar := c.arr a
  match ar.current, ar.tile with
  | some e, some t =>
    let (bs, s) := if e.broken.contains m then s.drawBytes ((fmtOf (e.f 23 5)).rowBytes (tileN t.record)) else (c.dRow e t m, s)
    let at_ := e.f 160 21 + m * e.f 240 16
    let s := s.modCore l fun c => (c.lmMark at_ bs.length (some a)).lmRaw at_ bs
    s.onEntry l a fun e => { e with written := m + 1 }
  | _, _ => s

/-- D rows `written` to `hi` − 1 written in order. -/
def State.writeRows (s : State) (l a lo hi : Nat) : State :=
  ((List.range hi).filter fun m => decide (lo ≤ m)).foldl (fun s m => s.writeRow l a m) s

/-- Rows enter up to row `n`: D row m is written as row m + 64 enters, and all that are left once the last row has
entered (R67, R68). -/
def State.enterTo (s : State) (l a n : Nat) : State :=
  match ((s.core l).arr a).current with
  | none => s
  | some e =>
    let n := min e.rows n
    let s := s.onEntry l a fun e => { e with entered := n }
    let s := s.writeRows l a e.written (if n = e.rows then n else n - 64)
    if n = e.rows then s.onEntry l a fun e => { e with finished := true } else s

/-! ### The three operations -/

/-- The arrays of a core are clocked: the cluster runs and the package has power (R99, R100). -/
def State.arraysRun (s : State) (l : Nat) : Bool :=
  s.hasCore l && s.powered && (s.cluster (s.clusterOf l)).clk == .active

/-- The descriptor at the head is checked; with a failure the queue behind it is discarded and the task ends with the
worst status (R80, R81). -/
def State.checkHead (s : State) (l a : Nat) (e : MEntry) : State × Bool :=
  match e.checks ((s.core l).arr a).tile with
  | c :: cs => (s.trapDescs l e.group (c :: cs), false)
  | [] => (s.onEntry l a fun e => { e with started := true }, true)

/-- The tile loaded from the descriptor in progress (R71, R74). -/
def State.loadTile (s : State) (l a : Nat) (e : MEntry) : State :=
  (s.modCore l fun c => c.modArr a fun m => { m with tile := some (c.tileFrom e.desc e.group) }).onEntry l a
    fun e => { e with loaded := true }

/-- The command is about the descriptor at the head: its OP, or no OP at all. -/
def MEntry.named (e : MEntry) (op : Nat) : Bool := !e.hasCopy || e.op == 3 || e.op == op

/-- An operation of an array on the descriptor at its head. -/
def onHead (op core arr : Nat) (k : MEntry → State → State) (s : State) : Host.Outcome State Fault Refusal :=
  unit core 512 <| unit arr 2 <|
  need (s.arraysRun core) .unavailable <|
  match ((s.core core).arr arr).current with
  | none => .refused .notPending
  | some e =>
    need (((s.core core).arr arr).stop == .running && e.named op) .notPending <|
    if e.started then .next (k e s)
    else
      let (s, ok) := s.checkHead core arr e
      .next (if ok then k e s else s)

/-- LOADB: the tile is latched, and the descriptor is done (R71, R82). -/
def execLoadb (core arr : Nat) (s : State) : Host.Outcome State Fault Refusal :=
  onHead 0 core arr (fun e s => (s.loadTile core arr e).onEntry core arr fun e => { e with finished := true }) s

/-- RUN: the next `rows` rows of A enter (R67, R68). -/
def execRun (core arr rows : Nat) (s : State) : Host.Outcome State Fault Refusal :=
  onHead 1 core arr (fun e s => s.enterTo core arr (e.entered + rows)) s

/-- LOADB+RUN: the tile is loaded first, then rows enter (R72, R73). -/
def execLoadbRun (core arr rows : Nat) (s : State) : Host.Outcome State Fault Refusal :=
  onHead 2 core arr (fun e s =>
    (if e.loaded then s else s.loadTile core arr e).enterTo core arr (e.entered + rows)) s

/-! ### Tokens (R82, R174, R175) -/

/-- The pending count of a token. -/
def Group.tok (g : Group) (t : Nat) : Nat := look 0 g.tokens t

/-- Every token of a mask is clear. -/
def Group.clear (g : Group) (m : Nat) : Bool := (maskList 16 m).all fun t => g.tok t == 0

/-- Threads whose token wait is over go on, and have seen the operations' writes (R175, R176). -/
def Group.wakeTokens (g : Group) : Group :=
  (List.range 32).foldl (fun g t =>
    match g.wait t with
    | .tokens m => if g.clear m.toNat then
        let g := g.setWait t .none
        { g with seenTokenWrites := g.seenTokenWrites ||| bits 32 (2 ^ t) } else g
    | _ => g) g

/-- A completion decrements a token's count (R174). -/
def Group.tokDone (g : Group) (t : Nat) : Group := { g with tokens := put 0 g.tokens t (g.tok t - 1) }.wakeTokens

/-- Groups held on a full queue or a full token count try again (R77, R111, R173, R174). -/
def Core.wakeHeld (c : Core) : Core :=
  (List.range 16).foldl (fun c gi => c.modGroup gi fun g =>
    { g with held := false }) c

/-- The finished descriptor in front of an array's queue completes its token. -/
def Core.matPop (c : Core) (a : Nat) : Core :=
  match (c.arr a).queue with
  | [] => c
  | e :: r =>
    if e.finished then
      ((c.modArr a fun m => { m with queue := r }).modGroup e.group fun g => g.tokDone (e.f 40 4)).wakeHeld
    else c

/-- MATRIX_COMPLETION: the descriptor's D rows are in local memory; its token completes and its entry is free (R82). -/
def execMatrixCompletion (core arr : Nat) (s : State) : Host.Outcome State Fault Refusal :=
  unit core 512 <| unit arr 2 <|
  match ((s.core core).arr arr).queue with
  | e :: _ => need e.finished .notPending <| .next (s.modCore core fun c => c.matPop arr)
  | [] => .refused .notPending

/-! ### Stops (R89 to R94, R101, R102) -/

/-- The control word of a save area (Table 03.7). -/
def saveControl (window : Bool) (arr progress : Nat) : Nat :=
  1 + (if window then 2 else 0) + 4 * arr + progress * 2 ^ 16 + 2 ^ 40

/-- A save area: control word, descriptor, tile record and partial sums (Table 03.6). -/
def saveBytes (window : Bool) (arr progress : Nat) (desc rec_ : BitVec 512) (sums : List Nat) : List Byte :=
  bytesOf 8 (saveControl window arr progress) ++ bytesOf 56 0 ++ bytesOf 64 desc.toNat ++ bytesOf 64 rec_.toNat ++
  bytesOf 64 0 ++ sums.flatMap fun x => bytesOf 8 x

/-- The 1,024 window sums at progress index `p` (R91). None where the spec gives no value: in columns that a narrower tile does not
have, and in rows whose inputs were written too early (R66, R83; log 99). -/
def Core.windowSums (c : Core) (e : MEntry) (t : Tile) (p : Nat) : List (Option Nat) :=
  (List.range 32).flatMap fun i => (List.range 32).map fun x =>
    let m := p - 32 + i
    if tileN t.record ≤ x || e.broken.contains m then none
    else some (c.carry e.desc t m x 0 (passedRows i x) (c.entering e.desc t m x))

/-- Sums with a free value where there is none. -/
def State.freeSums (s : State) : List (Option Nat) → List Nat × State
  | [] => ([], s)
  | some x :: r => let (l, s) := s.freeSums r; (x :: l, s)
  | none :: r =>
    let (x, s) := s.draw
    let (l, s) := s.freeSums r
    (x.toNat % 2 ^ 40 :: l, s)

/-- The stopped descriptor's save area written; its entry is marked as saved. -/
def State.save (s : State) (l a progress : Nat) (window : Bool) : State :=
  let c := s.core l
  let ar := c.arr a
  match ar.current with
  | none => s
  | some e =>
    let rec_ := match ar.tile with | some t => t.record | none => 0
    let (sums, s) :=
      match if window then ar.tile else none with
      | some t => s.freeSums (c.windowSums e t progress)
      | none => (List.replicate 1024 0, s)
    let s := s.modCore l fun c =>
      let c := { c with arrays := c.arrays.map fun (p : Nat × MatArray) =>
        if p.1 = a then p else (p.1, p.2.mark (e.f 416 21) 8448 false) }
      c.lmRaw (e.f 416 21) (saveBytes window a progress e.desc rec_ sums)
    s.onEntry l a fun e => { e with saved := true }

/-- The finished descriptors of an array complete. -/
def State.popFinished (s : State) (l a : Nat) : State :=
  s.modCore l fun c => (List.range 4).foldl (fun c _ => c.matPop a) c

/-- The next pass boundary for `n` rows entered (R90). -/
def boundary (n : Nat) : Nat := ((max 1 n - 1) / 32 + 1) * 32

/-- The row at which a descriptor restarts after a parity mismatch: the first D row not yet written where D coincides with C, else row 0
(R95, R96). -/
def MEntry.restartRow (e : MEntry) : Nat := if e.inPlace then e.written else 0

/-- The array finishes or saves the descriptor in progress (R90, R91). A descriptor that has had a parity mismatch is saved without its
window, to go on at its restart row (R98; log 99). -/
def State.stopCurrent (s : State) (l a : Nat) : State :=
  let s := match ((s.core l).arr a).current with
    | none => s
    | some e =>
      if !e.started then s
      else if e.op = 2 && e.entered = 0 then (if e.loaded then s else s.loadTile l a e).save l a 0 false
      else if e.rows - e.entered ≤ 32 then s.enterTo l a e.rows
      else if 0 < e.parity then
        let row := e.restartRow
        (s.onEntry l a fun e => { e with entered := row, written := row, resumeAt := none, sums := [] }).save l a row false
      else
        let p := boundary e.entered
        ((s.onEntry l a fun e => { e with entered := p }).writeRows l a e.written (p - 32)).save l a p true
  s.popFinished l a

/-- The descriptors behind the stopped one leave the queue, to issue again when the task resumes (R91). -/
def MatArray.giveBack (m : MatArray) : MatArray :=
  { m with queue := m.queue.filter (·.saved), returned := m.queue.filter fun e => !e.saved, stop := .stopped }

/-- A stop of an array run to its end. -/
def State.stopArray (s : State) (l a : Nat) : State :=
  (s.stopCurrent l a).modCore l fun c => c.modArr a MatArray.giveBack

/-- A stop requested: an array with a descriptor in progress stops as ARRAY_STOP_DONE says; any other holds no work at once (R89,
R90). -/
def State.askStop (s : State) (l a : Nat) : State :=
  match ((s.core l).arr a).current with
  | some e => if e.started then s.modCore l fun c => c.modArr a fun m => { m with stop := .stopping } else s.stopArray l a
  | none => s.stopArray l a

/-- The header of a save area fits the stopped descriptor (R102). -/
def Core.headerOk (c : Core) (a : Nat) (e : MEntry) : Bool :=
  let at_ := e.f 416 21
  let w := natOf (c.lmRead at_ 8)
  w % 2 == 1 && w >>> 40 % 256 == 1 && w >>> 2 % 2 == a && natOf (c.lmRead (at_ + 64) 64) == e.desc.toNat

/-- The tile of an array reloaded from its record, or its task ended by a record that fails a check (R102, R140). -/
def State.reloadChecked (s : State) (l a : Nat) : State :=
  match ((s.core l).arr a).tile with
  | none => s
  | some t =>
    match recordChecks t.record with
    | c :: cs => s.trapDescs l t.group (c :: cs)
    | [] => s.modCore l fun c => c.modArr a fun m => { m with tile := some (c.tileFrom t.record t.group) }

/-- The stopped descriptor of an array restarts from its save area, or its task ends; descriptors that were given back
issue again behind it (R93, R102, R140). -/
def State.resumeArray (s : State) (l a : Nat) : State :=
  let c := s.core l
  let ar := c.arr a
  let back (q : List MEntry) (s : State) : State :=
    s.modCore l fun c => c.modArr a fun m => { m with queue := q ++ m.returned, returned := [], stop := .running }
  match ar.queue with
  | e :: _ =>
    if !e.saved then back ar.queue s
    else if !c.headerOk a e then s.trapDesc l e.group stBadDesc
    else
      let at_ := e.f 416 21
      let rec_ := bits 512 (natOf (c.lmRead (at_ + 128) 64))
      match recordChecks rec_ with
      | c :: cs => s.trapDescs l e.group (c :: cs)
      | [] =>
        let w := natOf (c.lmRead at_ 8)
        let p := w >>> 16 % 8192
        let win := w >>> 1 % 2 == 1
        let sums := gridMap 32 32 32 fun i x => bits 40 (natOf (c.lmRead (at_ + 256 + (32 * i + x) * 8) 5))
        let e := { e with
          saved := false, loaded := true, entered := p, written := if win then max e.written (p - 32) else p,
          resumeAt := if win then some p else none, sums := if win then sums else [] }
        back [e] (s.modCore l fun c => c.modArr a fun m =>
          { m with tile := some (c.tileFrom rec_ (match m.tile with | some t => t.group | none => e.group)) })
  | [] => back [] s

/-! ### Parity mismatches (R95 to R98) -/

/-- Two spans of bytes meet. -/
def spansMeet (a n b m : Nat) : Bool := decide (a < b + m) && decide (b < a + n)

/-- D overlaps an input, the metadata or the save area in another way than by being C (R96). -/
def MEntry.overlaps (e : MEntry) (t : Tile) : Bool :=
  let k := tileK t.record
  let n := tileN t.record
  let last (stride len : Nat) : Nat := (e.rows - 1) * stride + len
  let fa := fmtOf (e.f 8 5)
  let fb := fmtOf (fld t.record 13 5)
  let sparse := bitAt t.record 2
  let d := e.f 160 21
  let dn := last (e.f 240 16) ((fmtOf (e.f 23 5)).rowBytes n)
  spansMeet d dn (e.f 64 21) (last (e.f 192 16) (fa.rowBytes k)) ||
  spansMeet d dn (fld t.record 96 21) (((if sparse then k / 2 else k) - 1) * fld t.record 208 16 + fb.rowBytes n) ||
  (e.f 3 1 == 1 && !e.inPlace && spansMeet d dn (e.f 128 21) (last (e.f 224 16) ((fmtOf (e.f 18 5)).rowBytes n))) ||
  (fa.scaled && spansMeet d dn (e.f 256 21) (last (e.f 320 16) ((k + 31) / 32))) ||
  (fb.scaled && spansMeet d dn (fld t.record 288 21) (32 * ((k + 31) / 32 - 1) + n)) ||
  (sparse && spansMeet d dn (fld t.record 352 21) (16 * (k / 4 - 1) + (n + 1) / 2)) ||
  spansMeet d dn (e.f 416 21) 8448

/-- The tile reloaded from its record. -/
def State.reloadTile (s : State) (l a : Nat) : State :=
  s.modCore l fun c => c.modArr a fun m => { m with tile := m.tile.map fun t => c.tileFrom t.record t.group }

/-- ARRAY_STOP_DONE: the array that was told to stop holds no work; a pre-emption that waited for it completes (R90 to R92, R138). -/
def execArrayStopDone (core arr : Nat) (s : State) : Host.Outcome State Fault Refusal :=
  unit core 512 <| unit arr 2 <|
  need (s.arraysRun core) .unavailable <|
  need (((s.core core).arr arr).stop == .stopping) .notPending <|
  .next ((s.stopArray core arr).preemptTry core)

/-- ARRAY_PARITY_MISMATCH: the array restarts its descriptor, or hands the fault to the recovery flow; with a stop in
progress the header names the restart row (R95 to R98). -/
def execArrayParityMismatch (core arr : Nat) (s : State) : Host.Outcome State Fault Refusal :=
  unit core 512 <| unit arr 2 <|
  need (s.arraysRun core) .unavailable <|
  let ar := (s.core core).arr arr
  match ar.current, ar.tile with
  | some e, some t =>
    if !e.started then .next (s.reloadTile core arr)
    else if e.parity ≥ 1 then .next (s.detect core 3 true)
    else if e.overlaps t && e.op != 0 then .next (s.detect core 3 false)
    else
      let row := e.restartRow
      let s := s.onEntry core arr fun e =>
        { e with parity := e.parity + 1, entered := row, written := row, resumeAt := none, sums := [] }
      let s := s.reloadTile core arr
      let (q, i) := match (s.core core).task with | some t => (t.queue, t.desc) | none => (0, 0)
      let s := s.modDesc q i fun d => { d with recov := d.recov + 1 }
      let s := s.record 0x03 1 0x01 0 (locOf 1 core) (detailOf [(0, 4, q), (4, 4, i), (8, 1, arr), (0xA, 2, row)])
      .next (if ar.stop = .stopping then
          (((s.save core arr row false).popFinished core arr).modCore core fun c => c.modArr arr MatArray.giveBack).preemptTry core
        else s)
  | none, some _ => .next (s.reloadTile core arr)
  | _, none => .refused .notPending

end Sys2Proof.Machine
end

