-- ==== Sys2Proof/Machine/TileMover.lean ====
section
/-! DEFINITION. The tile mover (R206 to R215, file 06; R241, R242, file 07): checks, the six operations, completion. -/

namespace Sys2Proof.Machine

/-! ### The descriptor (Table 06.6) -/

/-- Elements per row, rows per plane, planes. -/
def tmInner (d : BitVec 512) : Nat := fld d 192 24 + 1
def tmOuter1 (d : BitVec 512) : Nat := fld d 216 16 + 1
def tmOuter2 (d : BitVec 512) : Nat := fld d 232 16 + 1

/-- OP of Table 06.7. -/
def tmOp (d : BitVec 512) : Nat := fld d 0 4

/-- CONV where the operation reads it: LOAD, STORE and LCOPY (R209). -/
def tmConv (d : BitVec 512) : Bool := bitAt d 4 && decide (tmOp d < 3)

/-- Source and destination formats. -/
def tmSrc (d : BitVec 512) : Fmt := fmtOf (fld d 8 5)
def tmDst (d : BitVec 512) : Fmt := if tmConv d then fmtOf (fld d 13 5) else tmSrc d

/-- Scale bytes of a row. -/
def tmScales (d : BitVec 512) : Nat := (tmInner d + 31) / 32

/-- The place of row `i` on a side: address + plane × plane stride + row × row stride (R208). -/
def tmAt (d : BitVec 512) (addr s1 s2 i : Nat) : Nat := addr + i / tmOuter1 d * s2 + i % tmOuter1 d * s1

/-- Rows of a transfer. -/
def tmRows (d : BitVec 512) : Nat := tmOuter1 d * tmOuter2 d

/-- The three places of row `i`: global, local, and the destination of LCOPY. -/
def tmG (d : BitVec 512) (i : Nat) : Nat := tmAt d (fld d 64 52) (fld d 256 32) (fld d 288 32) i
def tmL (d : BitVec 512) (i : Nat) : Nat := tmAt d (fld d 128 21) (fld d 320 21) (fld d 352 21) i
def tmL2 (d : BitVec 512) (i : Nat) : Nat := tmAt d (fld d 160 21) (fld d 256 21) (fld d 288 21) i

/-- The element size in whole bytes, 3 for FP6 formats (Table 06.8). -/
def Fmt.byteSize (f : Fmt) : Nat := if f.bits = 6 then 3 else max 1 (f.bits / 8)

/-- The row length of a packed format fits its grouping: 4 for FP6, 2 for 4-bit formats. -/
def Fmt.innerOk (f : Fmt) (n : Nat) : Bool :=
  if f.bits = 6 then n % 4 == 0 else if f.bits = 4 then n % 2 == 0 else true

/-- The bytes that end a span of rows on a local side. -/
def tmEnd (d : BitVec 512) (at_ : Nat → Nat) (len : Nat) : Nat := at_ (tmRows d - 1) + len

/-- The checks made at the head (R211, Table 06.8); `members` is the size of the task's gang, 1 with none. -/
def tmChecks (d : BitVec 512) (members : Nat) : List (BitVec 8) :=
  let op := tmOp d
  let conv := tmConv d
  let inner := tmInner d
  let fs := tmSrc d
  let fd := tmDst d
  let badFmt := (op != 5 && (Fmt.ofCode (fld d 8 5)).isNone) || (conv && (Fmt.ofCode (fld d 13 5)).isNone)
  if 6 ≤ op then [stBadDesc]
  else
    when_ (badFmt || (conv && fld d 6 2 == 3) || (op == 3 && bitAt d 4)) stBadDesc ++
    when_ (op == 2 && decide (members ≤ fld d 20 3)) stBadDesc ++
    when_ (op != 4 && (fld d 128 21 % 32 != 0 || fld d 320 21 % 32 != 0 || fld d 352 21 % 32 != 0)) stBadDesc ++
    when_ (op == 2 && (fld d 160 21 % 32 != 0 || fld d 256 21 % 32 != 0 || fld d 288 21 % 32 != 0)) stBadDesc ++
    when_ ((op == 0 || op == 1 || op == 3 || op == 4) && !badFmt &&
      (let z := (if op = 1 then fd else fs).byteSize
       fld d 64 52 % z != 0 || fld d 256 32 % z != 0 || fld d 288 32 % z != 0)) stBadDesc ++
    when_ (op == 3 && (inner % 32 != 0 || tmOuter1 d % 32 != 0 || fld d 64 52 % 64 != 0 || fld d 256 32 % 64 != 0))
      stBadDesc ++
    when_ (op != 5 && !badFmt && !(fs.innerOk inner && fd.innerOk inner)) stBadDesc ++
    when_ (op == 3 && !badFmt && fs != .fp16 && fs != .bf16) stFormat ++
    (if badFmt then [] else
      let rows := tmRows d
      let nsc := tmScales d
      let loc := if op = 0 then fd else fs
      when_ (match op with
        | 3 => decide (lmBytes < fld d 128 21 + (tmOuter2 d - 1) * fld d 352 21 + (inner - 1) * fld d 320 21 + 2 * tmOuter1 d)
        | 4 => false
        | 5 => decide (lmBytes < tmEnd d (tmL d) (4 * inner))
        | _ =>
          decide (lmBytes < tmEnd d (tmL d) (loc.rowBytes inner)) ||
          (loc.scaled && decide (lmBytes < fld d 448 21 + rows * nsc)) ||
          (op == 2 && (decide (lmBytes < tmEnd d (tmL2 d) (fd.rowBytes inner)) ||
            (fd.scaled && decide (lmBytes < fld d 384 21 + rows * nsc))))) stAccess)

/-! ### Converting a row (R209) -/

/-- The values of a packed row with its scale bytes. -/
def rowVals (f : Fmt) (n : Nat) (raw scales : List Byte) : List Val :=
  (List.range n).map fun x =>
    f.decode (packed (fun i => raw.getD i 0) f 0 x) (if f.scaled then (scales.getD (x / 32) 0).toNat else 127)

/-- The packed elements and scale bytes of values in a format, blocks of 32 along the row (R40, R51). -/
def encodeRow (f : Fmt) (sat : Bool) (vs : List (Val × Round)) : List Byte × List Byte :=
  if f.scaled then
    let blocks := (List.range ((vs.length + 31) / 32)).map fun b => f.encodeBlock ((vs.drop (32 * b)).take 32)
    (packRow f (blocks.flatMap Prod.snd), blocks.map fun b => bits 8 b.1)
  else (packRow f (vs.map fun v => f.encode v.2 sat v.1), [])

/-- A row converted between two formats under a rounding mode, seed and index of its first element (R47, R48, R50). A
conversion of a format to itself copies the bits; FP19 writes its container bits [12:0] as 0 (R34). -/
def convertRow (fs fd : Fmt) (sat : Bool) (mode seed base n : Nat) (raw scales : List Byte) : List Byte × List Byte :=
  if fs = fd then
    (if fs = .fp19 then raw.mapIdx fun i b => if i % 4 = 0 then 0 else if i % 4 = 1 then b &&& 0xE0 else b else raw, scales)
  else encodeRow fd sat ((rowVals fs n raw scales).mapIdx fun x v => (v, Round.ofCode mode (srRandom seed (base + x) 0)))

/-- Row `i` of a transfer from its source bytes. -/
def tmConvert (d : BitVec 512) (i : Nat) (raw scales : List Byte) : List Byte × List Byte :=
  if tmConv d then
    convertRow (tmSrc d) (tmDst d) (bitAt d 5) (fld d 6 2) (fld d 32 32) (i * tmInner d) (tmInner d) raw scales
  else (raw, scales)

/-! ### Overlap (R212) -/

/-- The destination regions of a transfer: each row's elements, and each row's scales. -/
def tmRegions (d : BitVec 512) : List (Nat × Nat) :=
  let n := (tmDst d).rowBytes (tmInner d)
  let rows := List.range (tmRows d)
  let sc (a : Nat) : List (Nat × Nat) := if (tmDst d).scaled then [(a, tmRows d * tmScales d)] else []
  match tmOp d with
  | 0 => rows.map (fun i => (tmL d i, n)) ++ sc (fld d 448 21)
  | 1 => rows.map (fun i => (tmG d i, n)) ++ sc (fld d 384 52)
  | 2 => rows.map (fun i => (tmL2 d i, n)) ++ sc (fld d 384 21)
  | 3 => (List.range (tmOuter2 d * tmInner d)).map fun i =>
      (fld d 128 21 + i / tmInner d * fld d 352 21 + i % tmInner d * fld d 320 21, 2 * tmOuter1 d)
  | 5 => rows.map fun i => (tmL d i, 4 * tmInner d)
  | _ => []

/-- The source regions of an LCOPY within one core. -/
def tmSources (d : BitVec 512) : List (Nat × Nat) :=
  (List.range (tmRows d)).map (fun i => (tmL d i, (tmSrc d).rowBytes (tmInner d))) ++
  (if (tmSrc d).scaled then [(fld d 448 21, tmRows d * tmScales d)] else [])

/-- The regions that hold an address. -/
def regionCount (rs : List (Nat × Nat)) (a : Nat) : Nat :=
  (rs.filter fun r => decide (r.1 ≤ a) && decide (a < r.1 + r.2)).length

/-- A destination byte is written twice, or is also a source byte of an LCOPY in one core: its value is undefined. -/
def tmUndefined (d : BitVec 512) (self : Bool) (a : Nat) : Bool :=
  decide (2 ≤ regionCount (tmRegions d) a) || (tmOp d == 2 && self && decide (1 ≤ regionCount (tmSources d) a))

/-! ### One row -/

/-- The context of the tile mover's accesses for an entry of core `l` (Table 07.2; R439 for a twin). -/
def State.tmCtx (s : State) (l : Nat) (t : Task) (e : TmEntry) : GCtx :=
  { who := .tm l e.id, m := .tm, asid := t.asid, lenient := t.lenient, port := s.queuePort t.queue,
    space := s.queueSpace t.queue, core := some l, prod := s.taskProducer l, flush := tmOp e.desc == 3,
    twin := t.twinOf.isSome }

/-- The hint of an entry: LOADT treats LASTUSE as STREAM; a twin's LASTUSE acts as KEEP. -/
def tmHint (t : Task) (d : BitVec 512) : Nat :=
  let h := fld d 18 2
  if h = 2 && tmOp d = 3 then 1 else if h = 2 && t.twinOf.isSome then 0 else h

/-- Bytes written to a core's local memory, free where they are undefined. -/
def State.tmPutLocal (s : State) (l : Nat) (d : BitVec 512) (self : Bool) (a : Nat) (bs : List Byte) : State :=
  let (bs, s) := s.freeWhere bs fun i => tmUndefined d self (a + i)
  s.modCore l fun c => c.lmWrite a bs

/-- The destination core of an entry: its own, or the gang member DST_RANK (Table 06.7). -/
def State.tmDest (s : State) (l : Nat) (t : Task) (d : BitVec 512) : Nat :=
  match t.gang with
  | some g => ((s.cluster (s.clusterOf l)).gang g).members.getD (fld d 20 3) l
  | none => l

/-- Row `i` of LOAD. -/
def State.tmLoad (s : State) (l : Nat) (t : Task) (e : TmEntry) (i : Nat) : GOut :=
  let d := e.desc
  let g := s.tmCtx l t e
  let nsc := if (tmSrc d).scaled then tmScales d else 0
  let ga := tmG d i
  let sa := fld d 384 52 + i * nsc
  if !(s.gArrived g ga ((tmSrc d).rowBytes (tmInner d)) && s.gArrived g sa nsc) then
    { s := (s.gAsk g (tmHint t d) ga ((tmSrc d).rowBytes (tmInner d))).gAsk g (tmHint t d) sa nsc, wait := true }
  else
    let r := s.gRead g (tmHint t d) ga ((tmSrc d).rowBytes (tmInner d))
    if !r.ok then r
    else
      let q := r.s.gRead g (tmHint t d) sa nsc
      if !q.ok then q
      else
        let (out, sc) := tmConvert d i r.data q.data
        let s := q.s.tmPutLocal l d true (tmL d i) out
        let s := if (tmDst d).scaled then s.tmPutLocal l d true (fld d 448 21 + i * tmScales d) sc else s
        { s := s.fabForgetReads g.who }

/-- The converted row `i` of a local source. -/
def State.tmLocalRow (s : State) (l : Nat) (d : BitVec 512) (i : Nat) : List Byte × List Byte :=
  let c := s.core l
  tmConvert d i (c.lmRead (tmL d i) ((tmSrc d).rowBytes (tmInner d)))
    (if (tmSrc d).scaled then c.lmRead (fld d 448 21 + i * tmScales d) (tmScales d) else [])

/-- Row `i` of STORE. -/
def State.tmStore (s : State) (l : Nat) (t : Task) (e : TmEntry) (i : Nat) : GOut :=
  let d := e.desc
  let g := s.tmCtx l t e
  let (out, sc) := s.tmLocalRow l d i
  let (out, s) := s.freeWhere out fun k => tmUndefined d false (tmG d i + k)
  let r := s.gWrite g (tmHint t d) (tmG d i) out
  if !r.ok || !(tmDst d).scaled then r
  else
    let (sc, s) := r.s.freeWhere sc fun k => tmUndefined d false (fld d 384 52 + i * tmScales d + k)
    s.gWrite g (tmHint t d) (fld d 384 52 + i * tmScales d) sc

/-- Row `i` of LCOPY. -/
def State.tmLcopy (s : State) (l : Nat) (t : Task) (e : TmEntry) (i : Nat) : GOut :=
  let d := e.desc
  let m := s.tmDest l t d
  let (out, sc) := s.tmLocalRow l d i
  let s := s.tmPutLocal m d (m == l) (tmL2 d i) out
  { s := if (tmDst d).scaled then s.tmPutLocal m d (m == l) (fld d 384 21 + i * tmScales d) sc else s }

/-- Row `i` of PREFETCH: the line of each piece is read at its home slice; LASTUSE has no effect (R224). Only the rows' elements are
brought in, not the scale array of a block-scaled SRCF, which R208 does not name (DESIGN CHOICE, log 101). -/
def State.tmPrefetch (s : State) (l : Nat) (t : Task) (e : TmEntry) (i : Nat) : GOut :=
  let d := e.desc
  if fld d 18 2 = 2 then { s := s }
  else
    let g := s.tmCtx l t e
    (linePieces (tmG d i) ((tmSrc d).rowBytes (tmInner d))).foldl (fun r p =>
      if !r.ok then r
      else match r.s.gPlace g.asid p.1 .r with
        | none => { s := r.s, bad := some stAccess }
        | some (.dev a) => r.s.gReadDev g (fld d 18 2) a p.2
        | some _ => { s := r.s }) { s := s }

/-- Row `i` of LFILL. -/
def State.tmLfill (s : State) (l : Nat) (d : BitVec 512) (i : Nat) : GOut :=
  { s := s.tmPutLocal l d true (tmL d i) ((List.replicate (tmInner d) (bytesOf 4 (fld d 480 32))).flatten) }

/-! ### LOADT (R210, R241) -/

/-- The blocks of a LOADT. -/
def tmBlocks (d : BitVec 512) : Nat := tmOuter2 d * (tmOuter1 d / 32) * (tmInner d / 32)

/-- The global address of source row `j` of block `b`. -/
def tmBlockRow (d : BitVec 512) (b j : Nat) : Nat :=
  let bx := b % (tmInner d / 32)
  let by_ := b / (tmInner d / 32) % (tmOuter1 d / 32)
  let z := b / (tmInner d / 32) / (tmOuter1 d / 32)
  fld d 64 52 + z * fld d 288 32 + (32 * by_ + j) * fld d 256 32 + 64 * bx

/-- The local address of destination row `x` of block `b`. -/
def tmBlockDest (d : BitVec 512) (b x : Nat) : Nat :=
  let bx := b % (tmInner d / 32)
  let by_ := b / (tmInner d / 32) % (tmOuter1 d / 32)
  let z := b / (tmInner d / 32) / (tmOuter1 d / 32)
  fld d 128 21 + z * fld d 352 21 + (32 * bx + x) * fld d 320 21 + 64 * by_

/-- The 32 source rows of a block read in order. -/
def State.tmGather (s : State) (g : GCtx) (hint : Nat) (d : BitVec 512) (b : Nat) : List Nat → GOut × List (List Byte)
  | [] => ({ s := s }, [])
  | j :: r =>
    let x := s.gRead g hint (tmBlockRow d b j) 64
    if !x.ok then (x, [])
    else
      let (y, rows) := x.s.tmGather g hint d b r
      (y, x.data :: rows)

/-- The block kept in a transpose buffer of the assembly slice (R241, R243). -/
def State.tmBuffer (s : State) (g : GCtx) (va : Nat) (block : List Byte) : State :=
  match s.gPlace g.asid va .r with
  | some (.dev a) => s.modHome (a / 256) fun sl => { sl with transpose := (sl.transpose ++ [block]).drop (sl.transpose.length - 1) }
  | _ => s

/-- Block `b` of a LOADT. -/
def State.tmBlock (s : State) (l : Nat) (t : Task) (e : TmEntry) (b : Nat) : GOut :=
  let d := e.desc
  let g := s.tmCtx l t e
  let js := List.range 32
  if !js.all fun j => s.gArrived g (tmBlockRow d b j) 64 then
    { s := js.foldl (fun s j => s.gAsk g (tmHint t d) (tmBlockRow d b j) 64) s, wait := true }
  else
    let (r, rows) := s.tmGather g (tmHint t d) d b js
    if !r.ok then r
    else
      let row (x : Nat) : List Byte := rows.flatMap fun src => (src.drop (2 * x)).take 2
      let s := r.s.tmBuffer g (tmBlockRow d b 0) (js.flatMap row)
      let s := js.foldl (fun s x => s.tmPutLocal l d true (tmBlockDest d b x) (row x)) s
      { s := s.fabForgetReads g.who }

/-! ### Running an entry -/

/-- Unit `i` of an entry: a row, or a block of LOADT. -/
def State.tmUnit (s : State) (l : Nat) (t : Task) (e : TmEntry) (i : Nat) : GOut :=
  match tmOp e.desc with
  | 0 => s.tmLoad l t e i
  | 1 => s.tmStore l t e i
  | 2 => s.tmLcopy l t e i
  | 3 => s.tmBlock l t e i
  | 4 => s.tmPrefetch l t e i
  | _ => s.tmLfill l e.desc i

/-- Units of an entry. -/
def tmUnits (d : BitVec 512) : Nat := if tmOp d = 3 then tmBlocks d else tmRows d

/-- An entry of a core's tile-mover entries changed. -/
def State.onTm (s : State) (l id : Nat) (g : TmEntry → TmEntry) : State :=
  s.modCore l fun c => { c with tm := c.tm.map fun e => if e.id = id then g e else e }

/-- The destination of an LCOPY is a gang member that is pre-empted: the transfer holds (R214). -/
def State.tmHolds (s : State) (l : Nat) (t : Task) (d : BitVec 512) : Bool :=
  let m := s.tmDest l t d
  tmOp d == 2 && m != l && match (s.core m).frame with | some f => f.task.gang == t.gang | none => false

/-- Up to `n` further units moved; a failure stops the transfer, and the accesses performed stay (R212). -/
def State.tmMove (s : State) (l id : Nat) (t : Task) : Nat → State
  | 0 => s
  | n + 1 =>
    match (s.core l).tm.find? fun e => e.id == id with
    | none => s
    | some e =>
      if e.finished || s.tmHolds l t e.desc then s
      else
        let r := s.tmUnit l t e e.byte
        match r.bad, r.lost with
        | some st, _ => r.s.trapDesc l e.group st
        | none, some true => r.s.goneEnd l e.group
        | none, some false => r.s.lostStop l
        | none, none =>
          if r.wait then r.s
          else
            let s := r.s.onTm l id fun x => { x with byte := x.byte + 1, finished := decide (tmUnits e.desc ≤ x.byte + 1) }
            match (s.core l).task with
            | some t' => if t'.twinVoid then s.twinStop l else s.tmMove l id t n
            | none => s

/-- The entry can run: it has started, or every earlier one has and fewer than two are in progress (R206). One whose units have all
moved and whose completion alone is outstanding is no longer in progress (DESIGN CHOICE, log 101). -/
def Core.tmTurn (c : Core) (i : Nat) : Bool :=
  match c.tm[i]? with
  | none => false
  | some e => !e.finished && (e.started ||
      ((c.tm.take i).all (·.started) && decide ((c.tm.filter fun x => x.started && !x.finished).length < 2)))

/-- A tile-mover operation: entry `entry` of a core is checked as it starts, and up to `n` further units of it move. While a pre-emption
is requested the transfers are suspended (Table 04.4). -/
def tileMove (ops : Nat → Bool) (core entry n : Nat) (s : State) : Host.Outcome State Fault Refusal :=
  unit core 512 <|
  let c := s.core core
  need (s.arraysRun core && (s.cluster (s.clusterOf core)).tileMover) .unavailable <|
  match c.tm[entry]?, c.task with
  | some e, some t =>
    need (c.tmTurn entry && ops (tmOp e.desc) && c.urgent.isNone) .notPending <|
    if e.started then .next (s.tmMove core e.id t n)
    else
      match tmChecks e.desc (if t.gang.isSome then t.members else 1) with
      | c :: cs => .next (s.trapDescs core e.group (c :: cs))
      | [] => .next ((s.onTm core e.id fun x => { x with started := true }).tmMove core e.id t n)
  | _, _ => .refused .notPending

/-- LOAD; a descriptor with a reserved OP fails its check here or in any other operation. -/
def execLoad (core entry rows : Nat) (s : State) : Host.Outcome State Fault Refusal :=
  tileMove (fun op => op == 0 || decide (6 ≤ op)) core entry rows s

/-- STORE. -/
def execStore (core entry rows : Nat) (s : State) : Host.Outcome State Fault Refusal :=
  tileMove (· == 1) core entry rows s

/-- LCOPY. -/
def execLcopy (core entry rows : Nat) (s : State) : Host.Outcome State Fault Refusal :=
  tileMove (· == 2) core entry rows s

/-- LOADT: checked and started; its blocks move one by one as LOADT_BLOCK. -/
def execLoadt (core entry : Nat) (s : State) : Host.Outcome State Fault Refusal :=
  tileMove (· == 3) core entry 0 s

/-- PREFETCH. -/
def execPrefetch (core entry rows : Nat) (s : State) : Host.Outcome State Fault Refusal :=
  tileMove (· == 4) core entry rows s

/-- LFILL. -/
def execLfill (core entry rows : Nat) (s : State) : Host.Outcome State Fault Refusal :=
  tileMove (· == 5) core entry rows s

/-- LOADT_BLOCK: the assembly slice gathers the next block of a LOADT and returns it transposed (R241). -/
def execLoadtBlock (core entry : Nat) (s : State) : Host.Outcome State Fault Refusal :=
  tileMove (· == 3) core entry 1 s

/-- TM_COMPLETION: the descriptor's reads have returned and its writes are performed; its token completes and its entry
is free (R205, R213). -/
def execTmCompletion (core entry : Nat) (s : State) : Host.Outcome State Fault Refusal :=
  unit core 512 <|
  match (s.core core).tm[entry]? with
  | some e =>
    need (e.finished && !s.fabWaits (.tm core e.id)) .notPending <|
    let s := s.fabForget (.tm core e.id)
    .next (s.modCore core fun c =>
      ({ c with tm := c.tm.eraseIdx entry }.modGroup e.group fun g => g.tokDone e.tok).wakeHeld)
  | none => .refused .notPending

end Sys2Proof.Machine
end

