-- ==== Sys2Proof/Machine/Async.lean ====
section
/-! DEFINITION. The asynchronous issues MMA and TM, WAITT, TESTT and SYSR (R173 to R176, R179, file 05). -/

namespace Sys2Proof.Machine

/-- The descriptor's address: u[UA] bits [31:0] + OFF × 64 (R173). The rule is silent on a sum of 2^32 or more: the model does not wrap
it, and it lies beyond local memory (DESIGN CHOICE, log 99). -/
def FmtA.addr (f : FmtA) (g : Group) : Nat := (g.u f.ua.toNat).toNat % 2 ^ 32 + f.off.toNat * 64

/-- The 64 bytes at an address as a descriptor. -/
def Core.descAt (c : Core) (a : Nat) : BitVec 512 := bits 512 (natOf (c.lmRead a 64))

/-- An asynchronous issue: a descriptor beyond local memory traps; a full queue or token count holds the whole group, and
the instruction issues again when the group goes on (R77, R111, R173, R174). -/
def asyncIssue (site : Site) (h : Hdr) (f : FmtA) (held : Ctx → Core → Bool) (k : Ctx → Core → Core) (s : State) :
    Host.Outcome State Fault Refusal :=
  let n : Needs := { ur := [f.ua.toNat], arith := false }
  match s.ctx? site h with
  | none => .refused .notIssuable
  | some c =>
    if !c.blocked n && (s.issueCheck c h n).isNone && !c.act.isEmpty &&
        decide (f.addr c.g + 64 ≤ lmBytes) && held c (s.core c.l) then
      .next (s.modCore c.l fun k => k.modGroup c.gi fun g => { g with held := true })
    else
      issue site h n (fun c s =>
        if c.act.isEmpty then s
        else if lmBytes < f.addr c.g + 64 then s.trapAt c stAccess c.act 0
        else s.modCore c.l (k c)) s

/-- A token's count can take no further operation (R174). -/
def Group.tokFull (g : Group) (t : Nat) : Bool := decide (63 ≤ g.tok t)

/-- A token counted at issue. -/
def Group.tokAdd (g : Group) (t : Nat) : Group := { g with tokens := put 0 g.tokens t (g.tok t + 1) }

/-- MMA: the descriptor is copied into the array's queue; one at an address that is no multiple of 64 leaves no copy and
counts no token (R76, R77, R173). -/
def execMma (site : Site) (h : Hdr) (f : FmtA) (s : State) : Host.Outcome State Fault Refusal :=
  let arr := f.arr.toNat
  asyncIssue site h f
    (fun c k => decide (4 ≤ (k.arr arr).queue.length) ||
      (f.addr c.g % 64 == 0 && c.g.tokFull (fld (k.descAt (f.addr c.g)) 40 4)))
    (fun c k =>
      let a := f.addr c.g
      let d := k.descAt a
      if a % 64 = 0 then
        (k.modArr arr fun m => { m with queue := m.queue ++ [{ desc := d, group := c.gi }] }).modGroup c.gi
          fun g => g.tokAdd (fld d 40 4)
      else k.modArr arr fun m => { m with queue := m.queue ++ [{ group := c.gi, hasCopy := false }] }) s

/-- Entries of the tile mover that the running task may use: eight, or the two reserved ones for an URGENT task that runs
beside a task it pre-empted (R206). -/
def Core.tmRoom (c : Core) : Nat := if c.frame.isSome then 2 else 8

/-- TM: the descriptor is copied into the core's tile-mover entries under token TOK (R173, R206). -/
def execTm (site : Site) (h : Hdr) (f : FmtA) (s : State) : Host.Outcome State Fault Refusal :=
  let id := s.workSeq
  let tok := f.tok.toNat
  match asyncIssue site h f
    (fun c k => decide (k.tmRoom ≤ k.tm.length) || c.g.tokFull tok)
    (fun c k =>
      let e : TmEntry :=
        { id := id, desc := k.descAt (f.addr c.g), group := c.gi, tok := tok, urgent := k.frame.isSome }
      { k.modGroup c.gi (fun g => g.tokAdd tok) with tm := k.tm ++ [e] }) s with
  | .next s => .next { s with workSeq := id + 1 }
  | o => o

/-- The threads have found their tokens clear (R176). -/
def Group.seen (g : Group) (threads : List Nat) : Group :=
  { g with seenTokenWrites := g.seenTokenWrites ||| bits 32 (maskOf threads) }

/-- WAITT: each acting thread waits until every token of the mask is clear (R175). -/
def execWaitt (site : Site) (h : Hdr) (f : FmtS) (s : State) : Host.Outcome State Fault Refusal :=
  let m := fld f.imm 0 16
  issue site h { arith := false } (fun c s =>
    s.onGroup c fun g =>
      if g.clear m then g.seen c.act else c.act.foldl (fun g t => g.setWait t (.tokens (bits 16 m))) g) s

/-- TESTT: p[PX] tells whether every token of the mask is clear (R175). -/
def execTestt (site : Site) (h : Hdr) (f : FmtS) (s : State) : Host.Outcome State Fault Refusal :=
  let m := fld f.imm 0 16
  issue site h { arith := false } (fun c s =>
    s.onGroup c fun g =>
      let g := writePreds f.px.toNat c.act (fun _ => c.g.clear m) g
      if c.g.clear m then g.seen c.act else g) s

/-- CYCLES read: the model has no core clock, so the count is a free value that is no lower than the last one read (R179, log 7). -/
def State.readCycles (s : State) (l : Nat) : W64 × State :=
  let (x, s) := s.draw
  let old := (s.core l).cycles
  let y := if x.toNat < old.toNat then old else x
  (y, s.modCore l fun k => { k with cycles := y })

/-- SYSR: u[UX] takes a system value, once per issue; another selector traps (R157, R179, Table 05.12). TASK_TICKS is the watchdog count
of R145. -/
def execSysr (site : Site) (h : Hdr) (f : FmtS) (s : State) : Host.Outcome State Fault Refusal :=
  let r := f.ux.toNat
  issue site h { uw := [r], arith := false } (fun c s =>
    if c.act.isEmpty then s
    else match f.imm.toNat with
      | 0 => let (x, s) := s.readCycles c.l; s.onGroup c fun g => g.setU r x
      | 1 => let s := s.touch; s.onGroup c fun g => g.setU r s.ticks
      | 2 => let s := s.touch; s.onGroup c fun g => g.setU r (bits 64 ((s.core c.l).watch.count s.ticks.toNat))
      | 3 => s.onGroup c fun g => g.setU r (bits 64 c.task.part)
      | 4 => s.onGroup c fun g => g.setU r (bits 64 c.gi)
      | _ => s.trapAt c stProgram c.act 0) s

end Sys2Proof.Machine
end

