-- ==== Sys2Proof/Machine/Tasks.lean ====
section
/-! DEFINITION. Tasks: dispatch with pre-emption, end with resumption, and the watchdog (R129 to R141, R145, file 04; R395 to
R397, file 11; R470, R471, file 13). -/

namespace Sys2Proof.Machine

/-! ### LAUNCH descriptors (Table 11.15) -/

/-- Q_OPC. -/
def Desc.opc (d : Desc) : Nat := fld d.bits 0 4
/-- GRID. -/
def Desc.grid (d : Desc) : Nat := fld d.bits 32 24 + 1
/-- GROUPS. -/
def Desc.groups (d : Desc) : Nat := fld d.bits 56 4 + 1
/-- VREGS. -/
def Desc.vregs (d : Desc) : Nat := (fld d.bits 192 4 + 1) * 8
/-- L_GANG. -/
def Desc.gang (d : Desc) : Nat := fld d.bits 196 4
/-- LM_SIZE in bytes. -/
def Desc.lmSize (d : Desc) : Nat := (fld d.bits 200 5 + 1) * 4096

/-- Of some waiting task indices, those of the gang of the first one's index, lowest first. -/
def Desc.gangPart (d : Desc) (is : List Nat) : List Nat :=
  match is with
  | [] => []
  | r :: rs =>
    let g := max 1 d.gang
    let lo := rs.foldl min r
    ((List.range g).map (lo / g * g + ·)).filter is.contains

/-- The task indices of the next dispatch: those of a recomputation; those that wait for redispatch; else the next of the
grid; all of one gang (R129, R132, R430, R432). An index that waits for redispatch is dispatched even when another task of the launch has
trapped meanwhile: R144 bars further tasks, and this one had been dispatched already (DESIGN CHOICE, log 102). -/
def Desc.nextTasks (d : Desc) : List Nat :=
  let x := d.launch
  if x.recompute then d.gangPart x.again
  else if !x.redo.isEmpty then d.gangPart x.redo
  else if x.stopped then []
  else (List.range (min (max 1 d.gang) (d.grid - x.next))).map (x.next + ·)

/-- A LAUNCH in progress, its checks passed, that has a task to dispatch. -/
def Desc.ready (d : Desc) : Bool := d.opc == 1 && d.phase == .running && d.launch.loaded && !d.nextTasks.isEmpty

/-! ### Ends of descriptors -/

/-- A descriptor ends with a status and a result; with DONE after a recovery it ends with DONE_RECOVERED (R16, file 00; R424,
file 12). Its completion entry is made by DESCRIPTOR_COMPLETION. -/
def State.descEnd (s : State) (q i : Nat) (st : BitVec 8) (result : BitVec 64) : State :=
  s.modDesc q i fun d =>
    match d.phase with
    | .finished _ _ => d
    | _ => { d with phase := .finished (if st = stDone && decide (0 < d.recov) then stRecovered else st) result }

/-- The lost codewords of a frame. -/
def State.lostOf (s : State) (frame : Nat) : List Lost := s.lost.filter fun x => decide (x.addr / 2 ^ 21 = frame)

/-- A recomputation has ended: the codewords that it rewrote are restored, and the others fall to the next source or are
gone (R432, R434, R436). -/
def State.restored (s : State) (q i frame before : Nat) : State :=
  let left := s.lostOf frame
  let old : Producer := look {} s.producers frame
  let s := if left.isEmpty then s else { s with producers := put {} s.producers frame { old with ok := false } }
  let s := left.foldl (fun s x =>
    if s.lossSource x.addr = 0 && !x.gone then
      ({ s with lost := s.lost.map fun (y : Lost) => if y.addr = x.addr then { y with gone := true } else y }).record
        0x13 (addrLevel x.addr) 0x0F 0 (pageLoc x.addr) (detailOf [(0, 8, x.addr), (8, 4, 1)])
    else s) s
  s.record 0x12 (addrLevel (frame * 2 ^ 21)) 0x09 0 (pageLoc (frame * 2 ^ 21))
    (detailOf [(0, 4, before - left.length), (4, 4, q), (8, 4, i)])

/-- A twin of a task of the LAUNCH runs or waits for its comparison (R439). -/
def State.hasTwin (s : State) (q i : Nat) : Bool :=
  s.logicalCores.any fun l => match (s.core l).task with
    | some t => t.twinOf.isSome && t.queue == q && t.desc == i
    | none => false

/-- A LAUNCH completes when all its tasks have ended, or when the last running one has and no further is dispatched; a
recomputation ends when its tasks have (R135, R144, R432, R439). -/
def State.launchSettle (s : State) (q i : Nat) : State :=
  match s.desc? q i with
  | none => s
  | some d =>
    let x := d.launch
    let s := if x.recompute && x.rerunning = 0 && x.again.isEmpty then
        (s.modDesc q i fun d => { d with launch := { d.launch with recompute := false } }).restored q i x.frame x.lostN
      else s
    if x.running ≠ 0 || x.rerunning ≠ 0 || !x.redo.isEmpty || !x.again.isEmpty || s.hasTwin q i then s
    else if d.phase = .running && (d.grid ≤ x.ended || x.stopped) then s.descEnd q i x.status x.energy
    else s

/-- A task has ended with a status (R135, R144); one of a recomputation leaves the launch's own counts as they are. -/
def State.taskDone (s : State) (t : Task) : State :=
  (s.modDesc t.queue t.desc fun d =>
    let x := d.launch
    if t.recompute then { d with launch := { x with rerunning := x.rerunning - 1 } }
    else { d with launch := { x with running := x.running - 1, ended := x.ended + 1, status := worse x.status t.status } }).launchSettle t.queue t.desc

/-! ### Free cores (R396, R129) -/

/-- A partition reset runs; one that waits for a map-out has not started yet (R504, R505). -/
def Part.resetting (p : Part) : Bool := p.rstActive && !p.rstWait

/-- The cluster can take tasks: in service, under no stop, and its partition's cores in no reset. -/
def Cluster.open_ (c : Cluster) : Bool := !c.retired && c.stop == .none && !c.inReset

/-- A logical core of a partition is free. -/
def State.coreFree (s : State) (l : Nat) : Bool :=
  (s.core l).task.isNone && (s.core l).frame.isNone && (s.core l).urgent.isNone && (s.slot (s.slotOf l)).status == .active &&
  (s.cluster (s.clusterOf l)).open_

/-- The partition holds an enabled queue with QUE_STANDBY (R398). -/
def State.standbyPart (s : State) (p : Nat) : Bool := s.queues.any fun x => x.2.enabled && x.2.set.standby && x.2.set.part == p

/-- A free logical core stands in a cluster of a clock state. -/
def State.freeIn (s : State) (cl : Nat) (k : ClkState) : Bool := (s.cluster cl).clk == k && (s.coresOfCluster cl).any s.coreFree

/-- The standby cluster of a partition kept: where none of its clusters with a free logical core is ACTIVE or in CLOCK-OFF, a GATED one is
woken, or an OFF one asked to wake (R398). -/
def State.keepStandby (s : State) (p : Nat) : State :=
  let cs := s.clustersOfPart p
  if !s.standbyPart p || cs.any fun c => s.freeIn c .active || s.freeIn c .clockOff then s
  else match cs.find? fun c => s.freeIn c .gated with
    | some c => s.modCluster c fun x => { x with clk := .active, idleFrom := some (x.idleFrom.getD s.ticks.toNat) }
    | none => match cs.find? fun c => s.freeIn c .off with
      | some c => s.modCluster c fun x => { x with wakeReq := true }
      | none => s

/-- The core runs a twin, which a dispatch that needs the core abandons (R439). -/
def State.runsTwin (s : State) (l : Nat) : Bool :=
  match (s.core l).task with
  | some t => t.twinOf.isSome && (s.cluster (s.clusterOf l)).open_
  | none => false

/-- The order of clock states: ACTIVE, then CLOCK-OFF, then GATED and OFF. -/
def ClkState.rank (k : ClkState) : Nat :=
  match k with | .active => 0 | .clockOff => 1 | .gated => 2 | .off => 2

/-- The rank of a core's cluster. -/
def State.clkRank (s : State) (l : Nat) : Nat := (s.cluster (s.clusterOf l)).clk.rank

/-- Of some cores in rising number, the lowest in the best clock state. -/
def State.bestOf (s : State) (ls : List Nat) : Option Nat :=
  match ls.find? fun l => s.clkRank l == 0 with
  | some l => some l
  | none => match ls.find? fun l => s.clkRank l == 1 with
    | some l => some l
    | none => ls.head?

/-- The cores for `k` tasks that start together in one cluster. -/
def State.gangPlace (s : State) (ls : List Nat) (k : Nat) : Option (List Nat) :=
  let inCl (l : Nat) : List Nat := ls.filter fun m => s.clusterOf m == s.clusterOf l
  (s.bestOf (ls.filter fun l => decide (k ≤ (inCl l).length))).map fun l => (inCl l).take k

/-- Where tasks can go: free cores; where they do not suffice, cores of twins too. -/
def State.place (s : State) (p k : Nat) (off : Bool) : Option (List Nat) :=
  let ok (l : Nat) : Bool := off || (s.cluster (s.clusterOf l)).clk != .off
  let free := (s.coresOfPart p).filter fun l => ok l && s.coreFree l
  match s.gangPlace free k with
  | some ls => some ls
  | none => s.gangPlace ((s.coresOfPart p).filter fun l => ok l && (s.coreFree l || s.runsTwin l)) k

/-- A member of a gang that has ended and waits for the others (R423). -/
def State.memberEnded (s : State) (l : Nat) : Bool :=
  match (s.core l).task with
  | some { gang := some g, rank := r, .. } => ((s.cluster (s.clusterOf l)).gang g).ended.contains r
  | _ => false

/-- The order in which R397 takes a class; none for URGENT. -/
def Prio.victimRank (p : Prio) : Option Nat :=
  match p with | .bulk => some 2 | .normal => some 1 | .high => some 0 | .urgent => none

/-- The core that R397 pre-empts: BULK, then NORMAL, then HIGH; the most recent dispatch; never a core that holds a
pre-empted task. -/
def State.victim (s : State) (p : Nat) : Option Nat :=
  let cand := (s.coresOfPart p).filterMap fun l =>
    match (s.core l).task with
    | some t => if t.phase == .running && t.twinOf.isNone && (s.core l).frame.isNone && s.coreIssues l && !s.memberEnded l then
        t.prio.victimRank.map fun r => (l, r, t.seq) else none
    | none => none
  (cand.foldl (fun (b : Option (Nat × Nat × Nat)) x => match b with
    | none => some x
    | some y => some (if y.2.1 < x.2.1 || (y.2.1 == x.2.1 && decide (y.2.2 < x.2.2)) then x else y)) none).map Prod.fst

/-- A free core stands in an OFF cluster of the partition. -/
def State.offCore (s : State) (p : Nat) : Option Nat :=
  (s.coresOfPart p).find? fun l => s.coreFree l && (s.cluster (s.clusterOf l)).clk == .off

/-! ### The choice of a task (R396) -/

/-- The tasks to be redispatched wait: data that they read is lost and can still be restored; a recomputation does not wait
for the frame that it restores itself (R430, R432). -/
def State.lossWait (s : State) (d : Desc) : Bool :=
  let x := d.launch
  x.waitLost && (x.recompute || !x.redo.isEmpty) &&
    s.lost.any fun y => !y.gone && !(x.recompute && y.addr / 2 ^ 21 == x.frame)

/-- A task of this launch can go somewhere now. -/
def State.canPlace (s : State) (p : Nat) (pr : Prio) (d : Desc) : Bool :=
  let k := d.nextTasks.length
  (s.place p k (pr != .urgent)).isSome || (pr == .urgent && ((s.victim p).isSome || (s.offCore p).isSome))

/-- The first launch of a queue, in index order, with a task to dispatch; a launch after it waits for it (R395). -/
def State.queueLaunch (s : State) (p k : Nat) (pr : Prio) : Option Desc :=
  let q := s.queue k
  if q.enabled && !q.halted && q.set.part == p && q.set.prio == pr then
    (q.descs.find? Desc.ready).bind fun d => if s.canPlace p pr d && !s.lossWait d then some d else none
  else none

/-- A recomputation with a task to dispatch, of any class; it goes ahead of every class but URGENT (R432). -/
def State.redoLaunch (s : State) (p : Nat) : Option (Nat × Desc) :=
  s.queues.findSome? fun x =>
    if x.2.set.part == p then
      ((x.2.descs ++ x.2.past).find? fun d => d.opc == 1 && d.launch.recompute && !d.nextTasks.isEmpty && !s.lossWait d &&
        (s.place p d.nextTasks.length true).isSome).map fun d => (x.1, d)
    else none

/-- The number of a class. -/
def Prio.ix (p : Prio) : Nat := match p with | .urgent => 0 | .high => 1 | .normal => 2 | .bulk => 3

/-- The queue whose turn it is in a class, with its launch: the next after the last one that dispatched. -/
def State.turnQueue (s : State) (p : Nat) (pr : Prio) : Option (Nat × Desc) :=
  let last := look 0 (s.part p).lastQueue pr.ix
  let ks := s.queues.filterMap fun x => (s.queueLaunch p x.1 pr).map fun d => (x.1, d)
  match ks.find? fun x => decide (last ≤ x.1) with
  | some x => some x
  | none => ks.head?

/-- The class that the weighted round robin takes, and what is left of the turn. -/
def pickClass (h n b : Bool) (t : Nat × Nat × Nat) : Option (Prio × Nat × Nat × Nat) :=
  if h && decide (0 < t.1) then some (.high, t.1 - 1, t.2.1, t.2.2)
  else if n && decide (0 < t.2.1) then some (.normal, 0, t.2.1 - 1, t.2.2)
  else if b && decide (0 < t.2.2) then some (.bulk, 0, 0, t.2.2 - 1)
  else if h then some (.high, 3, 2, 1)
  else if n then some (.normal, 0, 1, 1)
  else if b then some (.bulk, 0, 0, 0)
  else none

/-- The queue and launch of the next dispatch of a partition, with the state after the choice. -/
def State.choose (s : State) (p : Nat) : Option (Nat × Desc × State) :=
  let note (q : Nat) (pr : Prio) (s : State) : State :=
    s.modPart p fun x => { x with lastQueue := put 0 x.lastQueue pr.ix (q + 1) }
  match s.turnQueue p .urgent with
  | some (q, d) => some (q, d, note q .urgent s)
  | none =>
    match s.redoLaunch p with
    | some (q, d) => some (q, d, s)
    | none =>
      let x := s.part p
      match pickClass (s.turnQueue p .high).isSome (s.turnQueue p .normal).isSome (s.turnQueue p .bulk).isSome
          (x.turnHigh, x.turnNormal, x.turnBulk) with
      | none => none
      | some (pr, a, b, c) =>
        (s.turnQueue p pr).map fun y =>
          (y.1, y.2, note y.1 pr (s.modPart p fun x => { x with turnHigh := a, turnNormal := b, turnBulk := c }))

/-! ### Starting a task (R133, R134) -/

/-- A cluster that sleeps is woken by a dispatch (R471). -/
def Cluster.wake (c : Cluster) : Cluster := { c with clk := .active, idleFrom := none }

/-- The task of an index of a launch. -/
def State.taskOf (s : State) (q : Nat) (d : Desc) (i rank members : Nat) (gang : Option Nat) : Task :=
  let k := (s.queue q).set
  { queue := q, desc := d.index.toNat, index := i, entry := bits 64 (fld d.bits 64 64), args := bits 64 (fld d.bits 128 64),
    grid := d.grid, groups := d.groups, vregs := d.vregs, lmSize := if k.prio = .urgent then d.lmSize else 0,
    prio := k.prio, asid := k.asid, part := k.part, lenient := k.lenient, wdMs := k.wdMs, gang := gang, rank := rank,
    members := members, ranges := d.launch.ranges, seq := s.dispatchSeq, recompute := d.launch.recompute }

/-! ### Resumption (R140) -/

/-- The pre-empted task of a core back in its place; its arrays are resumed by `State.resumeTask`. -/
def Core.restore (c : Core) (f : Frame) : Core :=
  let lo := match c.task with | some t => 16 - t.groups | none => 16
  let keys := (List.range 2).filter fun a => (f.tiles.map Prod.fst).contains a || (f.returned.map Prod.fst).contains a
  let arr (a : Nat) : MatArray :=
    let es := look [] f.returned a
    { tile := look none (f.tiles.map fun p => (p.1, some p.2)) a
      queue := es.filter (·.saved), returned := es.filter fun e => !e.saved, stop := .stopped }
  { c with
    frame := none
    task := some { f.task with suspended := false }
    groups := (c.groups.filter (fun p => decide (p.1 < lo)) ++ f.groups).map fun p => (p.1, { p.2 with regCache := [] })
    lm := f.lm ++ c.lm.filter fun p => decide (f.lmSize ≤ p.1)
    barriers := f.barriers
    arrays := normal {} (keys.map fun a => (a, arr a))
    tm := f.tm
    undo := f.undo
    undoSeen := f.undoSeen
    watch := f.watch
    still := []
    l1 := [] }

/-- The watchdog timer of a task that goes on, and those of its gang once no member is pre-empted any more (R145). -/
def State.watchOn (s : State) (l : Nat) (gang : Option Nat) : State :=
  let now := s.ticks.toNat
  let go (s : State) (m : Nat) : State := s.modCore m fun c => { c with watch := c.watch.resume now }
  match gang with
  | none => go s l
  | some g => if (s.gangFrames g).isEmpty then (s.gangCores g).foldl go s else s

/-- The arrays of a resumed task: each reloads its tile, then takes up its stopped and returned descriptors; a record that fails its
check ends the task (R102, R140). -/
def State.resumeArrays (s : State) (l : Nat) : State :=
  each [0, 1] (fun a s => match (s.core l).task with
    | some t => if t.phase = .running then s.resumeArray l a else s
    | none => s) (each [0, 1] (fun a s => s.reloadChecked l a) s)

/-- TASK_RESUME: the pre-empted task goes on where it was stopped, with an empty L1; a fence whose accesses have meanwhile ended
completes (R140, R177, R190). One whose context frame met an uncorrectable error is replayed from its start (Table 12.3). -/
def State.resumeTask (s : State) (l : Nat) (f : Frame) : State :=
  if f.bad then (s.modCore l Core.release).dropFrame l
  else
  let s := s.modCore l fun c => c.restore f
  let s := if f.task.held then s else s.watchOn l f.task.gang
  if f.task.phase == .running then (s.resumeArrays l).fenceSettle l
  else s.modCore l fun c => { c with arrays := [], tm := [] }

/-- The request of a pre-emption withdrawn, its URGENT task having ended: the arrays that were stopped go on. -/
def State.dropUrgent (s : State) (l : Nat) : State :=
  let s := s.modCore l fun c => { c with urgent := none }
  each [0, 1] (fun a s =>
    match ((s.core l).arr a).stop with
    | .stopping => s.modCore l fun c => c.modArr a fun m => { m with stop := .running }
    | .stopped => s.resumeArray l a
    | .running => s) s

/-! ### TASK_DISPATCH -/

/-- The in-place ranges lie, readable and writable, in device memory of this package (R418). -/
def State.rangesOk (s : State) (asid : Nat) (rs : List Range) : Bool :=
  rs.all fun r => (List.range ((r.base % 65536 + r.len + 65535) / 65536)).all fun i =>
    let va := (r.base / 65536 + i) * 65536
    r.len == 0 ||
    match s.translate asid va .r, s.translate asid va .w with
    | some (.dev _), some (.dev _) => true
    | _, _ => false

/-- The launch after a dispatch of some task indices. -/
def Launch.dispatched (x : Launch) (is : List Nat) : Launch :=
  if x.recompute then { x with again := x.again.filter fun i => !is.contains i, rerunning := x.rerunning + is.length }
  else if x.redo.isEmpty then { x with next := x.next + is.length, running := x.running + is.length }
  else
    let redo := x.redo.filter fun i => !is.contains i
    { x with redo := redo, running := x.running + is.length, waitLost := x.waitLost && !redo.isEmpty }

/-- The tasks of one dispatch started on their cores, by rank. -/
def State.startAll (s : State) (q : Nat) (d : Desc) (is ls : List Nat) : State :=
  let k := is.length
  let gang := if 2 ≤ d.gang then some s.gangSeq else none
  let cl := s.clusterOf (ls.headD 0)
  let s := s.modCluster cl Cluster.wake
  let s := match gang with
    | some g => { s.modGang cl g fun _ =>
        { queue := q, desc := d.index.toNat, members := ls, first := is.headD 0 } with gangSeq := s.gangSeq + 1 }
    | none => s
  let s := (is.zip ls).foldl (fun s (p : Nat × Nat) =>
    let rank := is.idxOf p.1
    let t := s.taskOf q d p.1 rank k gang
    let t := if gang.isSome then t else { t with rank := 0, members := 1 }
    { s.modCore p.2 fun c => c.startTask p.2 t with dispatchSeq := s.dispatchSeq + 1 }) s
  s.modDesc q d.index.toNat fun d => { d with launch := d.launch.dispatched is }

/-- A pre-emption requested: the task of a core issues no more, both arrays and the tile mover stop, and the URGENT task starts as soon as
the core holds no work and the displaced slots no access (step 1 of Table 04.4). -/
def State.startOver (s : State) (q : Nat) (d : Desc) (i l : Nat) : State :=
  let t := s.taskOf q d i 0 1 none
  let s := s.modCore l fun c => { c with urgent := some t }
  let s := each [0, 1] (fun a s => s.askStop l a) s
  ({ s with dispatchSeq := s.dispatchSeq + 1 }.modDesc q d.index.toNat fun d => { d with launch := d.launch.dispatched [i] }).preemptTry l

/-- No cluster of the partition has as many active logical cores, as a gang of `k` needs, or a single task with `k` = 1 (R129,
R414). -/
def State.gangShort (s : State) (p k : Nat) : Bool :=
  (s.clustersOfPart p).all fun c => decide ((s.coresOfCluster c).length < k)

/-- Gangs that wait for dispatch and fit into no cluster of the partition any more end their LAUNCH with CAPACITY_SHORT, and so do
tasks of a partition without a logical core (R129, R391, R414, R423). -/
def State.gangsShort (s : State) (p : Nat) : Option State :=
  s.queues.findSome? fun x =>
    if x.2.set.part == p then
      (x.2.descs.find? fun d => d.ready && s.gangShort p d.nextTasks.length).map fun d =>
        (s.modDesc x.1 d.index.toNat fun d =>
          { d with launch := { d.launch with stopped := true, redo := [], again := [], recompute := false, status := worse d.launch.status stCapacity } }).launchSettle
            x.1 d.index.toNat
    else none

/-- TASK_DISPATCH: the dispatcher of partition `p` gives a free core a task, or the free cores of one cluster a gang; an
URGENT task without a core pre-empts one or wakes an OFF cluster (R129, R136 to R138, R396, R397, R418). -/
def execTaskDispatch (p : Nat) (s : State) : Host.Outcome State Fault Refusal :=
  unit p 8 <|
  need (s.powered && s.boot.state == .ready) .unavailable <|
  need (!(s.part p).paused && !(s.part p).resetting) .notPending <|
  match s.gangsShort p with
  | some s => .next s
  | none =>
  match s.choose p with
  | none => .refused .notPending
  | some (q, d, s') =>
    let i := d.index.toNat
    let pr := (s.queue q).set.prio
    let is := d.nextTasks
    if !d.launch.checked && !s.rangesOk (s.queue q).set.asid d.launch.ranges then .next (s.descEnd q i stBadDesc 0)
    else
      let s := s'.modDesc q i fun d => { d with launch := { d.launch with checked := true } }
      match s.place p is.length (pr != .urgent || d.launch.recompute) with
      | some ls =>
        let cl := s.clusterOf (ls.headD 0)
        if (s.cluster cl).clk = .off || (s.cluster cl).regFailed then
          need (!(s.cluster cl).wakeReq) .notPending <| .next (s.modCluster cl fun c => { c with wakeReq := true })
        else .next ((s.startAll q d is ls).keepStandby p)
      | none =>
        match s.victim p with
        | some l => .next ((s.startOver q d (is.headD 0) l).keepStandby p)
        | none =>
          match s.offCore p with
          | some l =>
            need (!(s.cluster (s.clusterOf l)).wakeReq) .notPending <|
            .next (s.modCluster (s.clusterOf l) fun c => { c with wakeReq := true })
          | none => .refused .notPending

/-! ### TASK_END and WATCHDOG_EXPIRY -/

/-- A cluster is idle (R470). -/
def State.clusterIdle (s : State) (cl : Nat) : Bool :=
  ((s.coresOfCluster cl).all fun l => (s.core l).task.isNone && (s.core l).frame.isNone && (s.core l).urgent.isNone && (s.core l).tm.isEmpty) &&
  (s.cluster cl).gangs.isEmpty

/-- The time from which a cluster is idle noted, or dropped. -/
def State.noteIdle (s : State) (cl : Nat) : State :=
  s.modCluster cl fun c =>
    { c with idleFrom := if s.clusterIdle cl then some (c.idleFrom.getD s.ticks.toNat) else none }

/-- The conditions of R135 on the core; a trapped task waits only for its outstanding accesses (R143). -/
def Core.taskOver (c : Core) (t : Task) : Bool :=
  (c.outst.all fun o => !c.slotRuns t o.group) &&
  match t.phase with
  | .running => c.runSlots.all (fun gi => (c.group gi).ended) &&
      c.arrays.all (fun p => p.2.queue.isEmpty && p.2.returned.isEmpty) && c.tm.isEmpty
  | .trapped => true
  | _ => false

/-- The URGENT task whose pre-emption of a core is still requested starts there, now that the core holds no task (Table 04.6). -/
def State.startUrgent (s : State) (l : Nat) : State :=
  match (s.core l).urgent with
  | some t => s.modCore l fun c => { c.startTask l t with urgent := none }
  | none => s

/-- A task that has ended leaves its core; a pre-empted task resumes there, or the URGENT task that waits for the core starts (R135, R140,
R147). -/
def State.leaveCore (s : State) (l : Nat) (t : Task) : State :=
  let s := (s.fabForget (.store l)).undoDrop l
  let s := match (s.core l).frame with
    | some f => s.resumeTask l f
    | none => (s.modCore l fun c => { c.release with groups := [] }).startUrgent l
  s.taskDone t

/-- TASK_END: a task ends and its core reports the status; members of a gang leave together, when the last has ended. On a
core that an URGENT task left for redispatch the pre-empted task resumes, and on one that waits for its URGENT task that task starts
(R135, R140, R147, R419, R423). -/
def execTaskEnd (core : Nat) (s : State) : Host.Outcome State Fault Refusal :=
  unit core 512 <|
  need (s.hasCore core && s.powered) .unavailable <|
  match (s.core core).task with
  | none =>
    match (s.core core).frame with
    | some f => .next (s.resumeTask core f)
    | none => need (s.core core).urgent.isSome .notPending <| .next (s.startUrgent core)
  | some t =>
    need ((s.core core).taskOver t && t.twinOf.isNone && !s.memberEnded core && !s.fabWaits (.store core)) .notPending <|
    let cl := s.clusterOf core
    let s := s.drainCluster cl
    match t.gang with
    | none => .next ((s.leaveCore core t).noteIdle cl)
    | some g =>
      let x := (s.cluster cl).gang g
      if x.ended.length + 1 < x.members.length then
        .next (s.modGang cl g fun x => { x with ended := x.ended ++ [t.rank] })
      else
        let ls := x.members
        let s := s.modCluster cl fun c => { c with gangs := put {} c.gangs g {} }
        .next ((ls.foldl (fun s l => match (s.core l).task with
          | some t => s.leaveCore l t
          | none => s) s).noteIdle cl)

/-- Some thread of the task waits at a barrier (R145). -/
def Core.atBarrier (c : Core) : Bool :=
  c.runSlots.any fun gi => (List.range 32).any fun t =>
    match (c.group gi).wait t with | .barG => true | .barC _ => true | .barCl _ => true | _ => false

/-- The periods left until the watchdog time of core `l`'s task; none while its timer does not count (R145). -/
def State.watchLeft (s : State) (l : Nat) (t : Task) : Option Nat :=
  let w := (s.core l).watch
  if t.wdMs = 0 || !w.on || w.hold then none else some (watchLimit t.wdMs - w.count s.ticks.toNat)

/-- WATCHDOG_EXPIRY: TICKS reaches the moment at which the task has run for its queue's watchdog time, and the task traps; in the cycle of
another trap both count (R145, Table 04.6). -/
def execWatchdogExpiry (core : Nat) (s : State) : Host.Outcome State Fault Refusal :=
  unit core 512 <|
  need (s.hasCore core && s.powered) .unavailable <|
  match (s.core core).task with
  | none => .refused .notPending
  | some t =>
    need ((t.phase == .running || (t.phase == .trapped && (s.core core).still.contains 2)) && t.twinOf.isNone &&
      !s.memberEnded core) .notPending <|
    match s.watchLeft core t with
    | none => .refused .notPending
    | some n =>
      let s := { s with ticks := s.ticks + bits 64 n }
      .next (s.trap core 255 (if (s.core core).atBarrier then stBarrier else stWatchdog) 0 0 0)

end Sys2Proof.Machine
end

