-- ==== Sys2Proof/Machine/FabricCmds.lean ====
section
/-! DEFINITION. Fabric identity, routing and through-traffic, the flows with their alive counters, requests served for other
packages, and the answers to this package's own requests (R334 to R348, R363, R364, file 10). -/

namespace Sys2Proof.Machine

/-! ### Flows (R345) -/

/-- An ACK or NAK of a flow; FM_AUX [1:0] names the flow's class (log 34). -/
def mkAck (kind : BitVec 4) (peer tc : Nat) (alive : BitVec 16) : FMsg :=
  { kind := kind, dst := bits 12 peer, alive := alive, aux := bits 32 tc }

/-- The cumulative ACK of a flow sent. -/
def State.sendAck (s : State) (peer tc : Nat) : State :=
  let fl := s.fab.flow (flowKey peer tc)
  (s.onFab fun f => f.modFlow (flowKey peer tc) fun x => { x with unacked := 0 }).fabSend (mkAck 12 peer tc (fl.rxNext - 1))

/-- Messages sent again: each is queued once more and counted (R345). -/
def State.resendAll (s : State) (ms : List FMsg) : State :=
  let s := ms.foldl State.fabQueue s
  s.onFab fun f => { f with retx := f.retx + ms.length }

/-- The held messages of a flow sent as room appears. -/
def State.unhold (s : State) (k : Nat) : State :=
  let fl := s.fab.flow k
  let n := 1024 - fl.kept.length
  let s := s.onFab fun f => f.modFlow k fun x => { x with held := x.held.drop n }
  (fl.held.take n).foldl State.fabSend s

/-- Both directions of every flow with a peer start again at 0; what is unacknowledged is numbered anew and sent again
(R345). -/
def State.resetFlows (s : State) (peer : Nat) : State :=
  (List.range 4).foldl (fun s tc =>
    let k := flowKey peer tc
    let ms := (s.fab.flow k).kept.mapIdx fun j (m : FMsg) => { m with alive := bits 16 j }
    let s := s.onFab fun f => f.modFlow k fun x =>
      { x with txNext := bits 16 ms.length, kept := ms, rxNext := 0, unacked := 0 }
    ms.foldl State.fabQueue s) s

/-- How a numbered message stands to its flow's counter. -/
inductive Alive where
  | accept | repeat_ | gap
deriving DecidableEq, Repr

/-- The comparison of a message's counter with the one expected (R345). -/
def alivePlace (expected got : BitVec 16) : Alive :=
  if got = expected then .accept else if (expected - got).toNat ≤ 32768 then .repeat_ else .gap

/-- A message taken out of the inbox, where it waits there. -/
def State.unbox (s : State) (m : FMsg) : State := s.onFab fun f => { f with inbox := f.inbox.erase m }

/-- A message of any kind has been heard from a package (R360). -/
def State.heardFrom (s : State) (src : Nat) : State :=
  s.onFab fun f => { f with guard := { f.guard with heard := put 0 f.guard.heard src 0 } }

/-- The package answers messages addressed to its ID. -/
def State.addressed (s : State) (m : FMsg) : Bool := s.powered && s.fab.joined && m.dst == s.fab.idApplied

/-- A numbered message of a kind, in the traffic class of the kind (Table 10.7), arrives at its destination; an accepted one is
performed (R345). -/
def receive (kind : BitVec 4) (m : FMsg) (k : FMsg → State → State) (s : State) : Host.Outcome State Fault Refusal :=
  let m := { m with kind := kind, tc := bits 2 (tcOfKind kind.toNat) }
  need (s.addressed m) .unavailable <|
  let src := m.src.toNat
  let s := (s.unbox m).heardFrom src
  let tc := m.tc.toNat
  let key := flowKey src tc
  let fl := s.fab.flow key
  match alivePlace fl.rxNext m.alive with
  | .accept =>
    let s := s.onFab fun f => f.modFlow key fun x => { x with rxNext := x.rxNext + 1, unacked := x.unacked + 1 }
    let s := if 64 ≤ fl.unacked + 1 then s.sendAck src tc else s
    .next (k m s)
  | .repeat_ => .next ((s.onFab fun f => { f with repeats := f.repeats + 1 }).sendAck src tc)
  | .gap => .next ((s.onFab fun f => { f with gaps := f.gaps + 1 }).fabSend (mkAck 13 src tc fl.rxNext))

/-- ACK: kept messages up to the counter are freed, and held ones follow (R345). -/
def execAck (m : FMsg) (s : State) : Host.Outcome State Fault Refusal :=
  let m := { m with kind := 12 }
  need (s.addressed m) .unavailable <|
  let k := flowKey m.src.toNat (m.aux.toNat % 4)
  let s := ((s.unbox m).heardFrom m.src.toNat).onFab fun f => f.modFlow k fun x =>
    { x with kept := if x.kept.any fun y => y.alive == m.alive then (x.kept.dropWhile fun y => y.alive != m.alive).drop 1 else x.kept }
  .next (s.unhold k)

/-- NAK: the sender sends again from the counter named; what lies before it has been delivered (R345). -/
def execNak (m : FMsg) (s : State) : Host.Outcome State Fault Refusal :=
  let m := { m with kind := 13 }
  need (s.addressed m) .unavailable <|
  let k := flowKey m.src.toNat (m.aux.toNat % 4)
  let s := ((s.unbox m).heardFrom m.src.toNat).onFab fun f => f.modFlow k fun x =>
    { x with kept := if x.kept.any fun y => y.alive == m.alive then x.kept.dropWhile fun y => y.alive != m.alive else x.kept }
  .next ((s.resendAll (s.fab.flow k).kept).unhold k)

/-- ACK_TIMER: 2 µs after the last acceptance that no ACK answered (R345). -/
def execAckTimer (peer tc : Nat) (s : State) : Host.Outcome State Fault Refusal :=
  unit peer 4096 <| unit tc 4 <|
  need (s.powered && s.fab.joined) .unavailable <|
  need (decide (0 < (s.fab.flow (flowKey peer tc)).unacked)) .notPending <|
  .next (s.sendAck peer tc)

/-- RETRANSMIT_TIMEOUT: 100 µs with no ACK (R345). -/
def execRetransmitTimeout (peer tc : Nat) (s : State) : Host.Outcome State Fault Refusal :=
  unit peer 4096 <| unit tc 4 <|
  need (s.powered && s.fab.joined) .unavailable <|
  let ms := (s.fab.flow (flowKey peer tc)).kept
  need (!ms.isEmpty) .notPending <|
  .next (s.resendAll ms)

/-! ### Requests of other packages (R342, R346, R348) -/

/-- An answer to a message. -/
def State.reply (s : State) (m : FMsg) (kind : BitVec 4) (status : BitVec 8) (data : List Byte) : State :=
  s.fabSend { kind := kind, dst := m.src, tag := m.tag, status := status, data := data }

/-- The bytes that a request covers. -/
def FMsg.reach (m : FMsg) : Nat := match m.kind.toNat with | 2 => if m.a64 then 8 else 4 | 3 => 8 | _ => m.bytes.toNat + 1

/-- The export that lets a package reach a range (R348). -/
def State.exportFor (s : State) (src a n : Nat) : Option Export :=
  s.fab.exports.find? fun e => e.peer == src && decide (e.base ≤ a) && decide (a + n ≤ e.base + e.len)

/-- Why a request is turned away: not READY, its partition in reset, no export, no home, or a misaligned word; 0 where it
is performed (R342, R348, R260). -/
def State.reqStatus (s : State) (m : FMsg) : Nat :=
  let a := m.addr.toNat
  let n := m.reach
  if !s.boot.pkgRstN then 1
  else if s.boot.state != .ready then 2
  else if !(linePieces a n).all (fun p => (s.exportFor m.src.toNat p.1 p.2).isSome) then 3
  else if (s.part (s.partOfRegion (dpaReg a))).resetting then 1
  else if !(linePieces a n).all (fun p => (s.homeProgram p.1).isSome) then 3
  else if (m.kind = 2 || m.kind = 3) && a % n != 0 then 3
  else if m.kind = 2 && !aopOk m.aop.toNat (if m.a64 then 3 else 2) then 3
  else 0

/-- What a request says of its access: class FABRIC with its hint and lenience; a pin belongs to the exporting queue's
address space (R225, R346). -/
def State.reqOf (s : State) (m : FMsg) : Req :=
  { m := .fabric, hint := m.hint.toNat, lenient := m.lenient,
    asid := (s.exportFor m.src.toNat m.addr.toNat 1).elim 0 (·.asid) }

/-- What came of a served request. -/
structure Served where
  /-- the state -/
  s : State
  /-- the bytes read -/
  data : List Byte := []
  /-- FM_STATUS; 0: performed -/
  status : Nat := 0

/-- FM_STATUS of an access that met lost data: TARGET_RESETTING until it is restored, NO_TARGET where it is gone
(R430, R436; log 35). -/
def lostStatus (gone : Bool) : Nat := if gone then 5 else 1

/-- The lines of a GET read in order. -/
def State.serveGet (s : State) (rq : Req) : List (Nat × Nat) → Served
  | [] => { s := s }
  | (a, n) :: r =>
    let line := a / 256
    let rq := { rq with narrow := a % 256 / 32 == (a % 256 + n - 1) / 32 }
    let x := if rq.hint = 2 then s.lastUseRead rq line (a % 256) n none else s.homeRead rq line
    match if x.lost then x.s.lossIn line (a % 256) n 0 else none with
    | some gone => { s := x.s, status := lostStatus gone }
    | none =>
    if x.poison then { s := x.s, status := 4 }
    else
      let y := x.s.serveGet rq r
      { y with data := lineBytes x.data (a % 256) n ++ y.data }

/-- The lines of a PUT written in order. -/
def State.servePut (s : State) (rq : Req) (d : List Byte) (base : Nat) : List (Nat × Nat) → Served
  | [] => { s := s }
  | (a, n) :: r =>
    let x := s.homeWrite rq (a / 256) (atOffset (a % 256) ((padTo (a - base + n) d).drop (a - base))) none
    if x.short then { s := x.s, status := 3 } else x.s.servePut rq d base r

/-- An atomic of another package at package scope. -/
def State.serveAtomic (s : State) (rq : Req) (a n aop : Nat) (sx : Bool) (b c : Nat) : Served :=
  let line := a / 256
  match s.atomicLoss line (a % 256) n with
  | some gone => { s := s, status := lostStatus gone }
  | none =>
    let x := s.homeAtomic rq line true (aopLine aop sx (a % 256) n b c)
    if x.poison then { s := x.s, status := 4 }
    else if x.short then { s := x.s, status := 3 }
    else { s := x.s, data := lineBytes x.data (a % 256) n }

/-- A request performed. -/
def State.serveRequest (s : State) (m : FMsg) : Served :=
  let a := m.addr.toNat
  let n := m.reach
  let rq := s.reqOf m
  match m.kind.toNat with
  | 0 => s.servePut rq m.data a (linePieces a n)
  | 1 => s.serveGet rq (linePieces a n)
  | 2 => s.serveAtomic rq a n m.aop.toNat (m.aux.toNat % 2 == 1) (natOf (m.data.take 8) % 256 ^ n)
      (natOf ((m.data.drop 8).take 8) % 256 ^ n)
  | _ => s.serveAtomic rq a 8 0 false m.aux.toNat 0

/-- A request of another package performed and answered. -/
def State.answer (s : State) (m : FMsg) : State :=
  let st := s.reqStatus m
  if st ≠ 0 then s.reply m 6 (bits 8 st) []
  else
    let x := s.serveRequest m
    if x.status ≠ 0 then x.s.reply m 6 (bits 8 x.status) []
    else match m.kind.toNat with
      | 1 => x.s.reply m 4 0 x.data
      | 2 => x.s.reply m 5 0 (padTo 8 x.data)
      | _ => x.s.reply m 6 0 []

/-- PUT. -/
def execPut (m : FMsg) (s : State) : Host.Outcome State Fault Refusal := receive 0 m (fun m s => s.answer m) s

/-- GET. -/
def execGet (m : FMsg) (s : State) : Host.Outcome State Fault Refusal := receive 1 m (fun m s => s.answer m) s

/-- ATOMIC. -/
def execAtomic (m : FMsg) (s : State) : Host.Outcome State Fault Refusal := receive 2 m (fun m s => s.answer m) s

/-- NOTIFY. -/
def execNotify (m : FMsg) (s : State) : Host.Outcome State Fault Refusal := receive 3 m (fun m s => s.answer m) s

/-! ### Answers (R342, R343) -/

/-- The request that an answer belongs to. -/
def FReq.of (m : FMsg) (r : FReq) : Bool := r.tag == m.tag.toNat && r.msg.dst == m.src && r.answer.isNone && r.status.isNone

/-- The first request that satisfies `p` changed. -/
def State.onReq (s : State) (p : FReq → Bool) (g : FReq → FReq) : State :=
  s.onFab fun f => { f with reqs := f.reqs.map fun r => if p r then g r else r }

/-- The requests that satisfy `p` removed. -/
def State.dropReqs (s : State) (p : FReq → Bool) : State := s.onFab fun f => { f with reqs := f.reqs.filter fun r => !p r }

/-- The task work of a core that a request belongs to ends with a status. -/
def State.endTm (s : State) (core id : Nat) (st : BitVec 8) : State :=
  match (s.core core).tm.find? fun e => e.id == id with
  | some e => s.trapDesc core e.group st
  | none => s

/-- The work that sent a request ends with the status of FM_STATUS `st`; NO_TARGET writes a DEVICE_LOST record, case 2
(R342, Table 12.13). -/
def State.reqEnd (s : State) (r : FReq) (st : BitVec 8) : State :=
  let code := fabStatus st
  let same (x : FReq) : Bool := x.tag == r.tag && x.msg.dst == r.msg.dst
  let s := match r.who with
    | .load _ _ _ _ => s.onReq same fun x => { x with status := some st, retry := none }
    | .store core => ((s.dropReqs same).trapDesc core 0 code).fenceSettle core
    | .tm core id => ((s.endTm core id code).fabForget r.who)
    | .desc q i => ((s.descEnd q i code 0).fabForget r.who)
    | .bar _ _ => s.onReq same fun x => { x with status := some st, retry := none }
  let (q, i) := match r.who with
    | .desc q i => (q, i)
    | .bar _ _ => (0, 0)
    | .load c _ _ _ | .store c | .tm c _ => match (s.core c).task with | some t => (t.queue, t.desc) | none => (0, 0)
  if code = stLost then
    s.record 0x3F 6 0x0F stLost.toNat (locOf 12 r.msg.dst.toNat) (detailOf [(0, 1, 2), (4, 4, q), (8, 4, i)])
  else s

/-- The data of a GET or of an atomic taken by the request. -/
def State.takeAnswer (s : State) (m : FMsg) : State :=
  match s.fab.reqs.find? (FReq.of m) with
  | none => s
  | some r =>
    match r.who with
    | .store core => (s.dropReqs (FReq.of m)).fenceSettle core
    | _ => s.onReq (FReq.of m) fun x => { x with answer := some (padTo r.msg.reach m.data), retry := none }

/-- GET_DATA. -/
def execGetData (m : FMsg) (s : State) : Host.Outcome State Fault Refusal := receive 4 m (fun m s => s.takeAnswer m) s

/-- ATOMIC_RET. -/
def execAtomicRet (m : FMsg) (s : State) : Host.Outcome State Fault Refusal := receive 5 m (fun m s => s.takeAnswer m) s

/-- A request answered NOT_READY for the 1,000th time has been retried for 1 s and ends as for NO_TARGET (R342). -/
def State.notReadyAnswer (s : State) (m : FMsg) (r : FReq) : State :=
  if 1000 ≤ r.tries + 1 then s.reqEnd r 5
  else s.onReq (FReq.of m) fun x => { x with retry := some 2, tries := x.tries + 1 }

/-- A status answer acted on (R342). -/
def State.takeStatus (s : State) (m : FMsg) : State :=
  match s.fab.reqs.find? (FReq.of m) with
  | none => s
  | some r =>
    match m.status.toNat with
    | 0 => let s := s.dropReqs (FReq.of m); match r.who with | .store core => s.fenceSettle core | _ => s
    | 1 => s.onReq (FReq.of m) fun x => { x with retry := some 1 }
    | 2 => s.notReadyAnswer m r
    | _ => s.reqEnd r m.status

/-- RESP. -/
def execResp (m : FMsg) (s : State) : Host.Outcome State Fault Refusal := receive 6 m (fun m s => s.takeStatus m) s

/-- FABRIC_RETRY: a request answered TARGET_RESETTING or NOT_READY is sent again, after 10 µs or 1 ms (R342). -/
def execFabricRetry (tag : Nat) (s : State) : Host.Outcome State Fault Refusal :=
  need (s.powered && s.fab.joined) .unavailable <|
  match s.fab.reqs.find? fun r => r.tag == tag && r.retry.isSome with
  | none => .refused .notPending
  | some r => .next ((s.onReq (fun x => x.tag == tag && x.retry.isSome) fun x => { x with retry := none }).fabSend r.msg)

/-- NO_ANSWER_TIMEOUT: 1 s passes with no answer; the originating work ends as for NO_TARGET (R342). -/
def execNoAnswerTimeout (tag : Nat) (s : State) : Host.Outcome State Fault Refusal :=
  need s.powered .unavailable <|
  match s.fab.reqs.find? fun r => r.tag == tag && r.answer.isNone && r.status.isNone with
  | none => .refused .notPending
  | some r => .next (s.reqEnd r 5)

/-! ### Identity (R334, R335, R363, R364) -/

/-- Every strait that is up retrains with the fold word of the ID now in force (R361, R363; log 36). -/
def State.refold (s : State) : State :=
  (List.range 16).foldl (fun s i => if (s.fab.strait i).up then s.modStrait i fun x => { x with holding := true } else s) s

/-- A SYNC: FM_AUX 0 resets flows, 1 claims the ID in FM_CHUNK, 2 answers that the ID is held or claimed (log 34). -/
def mkSync (dst what id : Nat) : FMsg := { kind := 11, tc := 3, dst := bits 12 dst, aux := bits 32 what, chunk := bits 24 id }

/-- A claim, or an answer to one, put on every strait that is up, but one. -/
def State.spread (s : State) (m : FMsg) (except_ : Option Nat) : State :=
  (List.range 16).foldl (fun s i => if (s.fab.strait i).up && some i ≠ except_ then s.onWire i m else s) s

/-- FAB_ID written with FAB_EN = 1 (R335). -/
def State.fabJoin (s : State) (id : Nat) : State :=
  let s := s.onFab fun f => { f with idReq := bits 12 id, enReq := true, reject := false }
  if s.fab.joined || s.fab.claim.isSome then s.onFab fun f => { f with reject := true }
  else (s.onFab fun f => { f with claim := some (bits 12 id) }).spread (mkSync id 1 id) none

/-- Every package known to the switch gets a SYNC that resets the flows with it (R345). -/
def State.syncAll (s : State) : State :=
  (s.fab.routes.map (·.1)).foldl (fun s p => (s.resetFlows p).fabSend (mkSync p 0 0)) s

/-- The package takes an ID: it joins, its straits retrain, its flows are reset, its list is flooded (R335, R361). -/
def State.takeId (s : State) (id : Nat) (adopted : Bool) : State :=
  let s := s.onFab fun f =>
    { f with idApplied := bits 12 id, joined := true, adopted := adopted, claim := none, forwarding := true,
             marks := f.marks.filter (· != id), noId := f.noId.filter (· != id), linkState := drop f.linkState id }
  ((s.refold.reroutes).syncAll).flood

/-- CLAIM_TIMEOUT: a claim unanswered for 10 ms is taken, and the package joins (R335). -/
def execClaimTimeout (s : State) : Host.Outcome State Fault Refusal :=
  need s.mainlandUp .unavailable <|
  match s.fab.claim with
  | none => .refused .notPending
  | some id => .next (s.takeId id.toNat false)

/-- Fabric, collective or GUARD work is outstanding in some queue (R335). -/
def State.fabWork (s : State) : Bool :=
  !s.fab.reqs.isEmpty || s.fab.colls.any (fun c => !c.ended) ||
  s.queues.any fun p => p.2.descs.any fun d => d.opc == 10 && d.phase == .running

/-- An ID given back: a link-state message marks it released, and every switch, this one too, keeps a release mark
(R364). -/
def State.releaseId (s : State) : State :=
  let id := s.fab.idApplied.toNat
  (s.floodOf id [] true false none).onFab fun f =>
    { f with marks := if f.marks.contains id then f.marks else f.marks ++ [id], routes := drop f.routes id }

/-- The package holds no ID any more: its flows and requests are over, and its straits retrain (R363, R364). -/
def State.dropId (s : State) : State :=
  (s.onFab fun f => { f with joined := false, idApplied := 0, adopted := false, flows := [], reqs := [] }).refold

/-- FAB_ID written with FAB_EN = 0: a waiting claim is cancelled; an ID is released unless fabric work is outstanding
(R335, R364). -/
def State.fabLeave (s : State) (id : Nat) : State :=
  let s := s.onFab fun f => { f with idReq := bits 12 id, enReq := false, reject := false }
  if s.fab.claim.isSome then s.onFab fun f => { f with claim := none }
  else if !s.fab.joined then s
  else if s.fabWork then s.onFab fun f => { f with reject := true }
  else s.releaseId.dropId

/-- The work of this package on the fabric ended: each task or descriptor with the status that `st` gives its queue
(R363). -/
def State.endFabWork (s : State) (st : Nat → BitVec 8) : State :=
  let coreSt (s : State) (c : Nat) : BitVec 8 := match (s.core c).task with | some t => st t.queue | none => stAborted
  let s := s.fab.reqs.foldl (fun s r => match r.who with
    | .load c g _ _ => s.trapDesc c g (coreSt s c)
    | .store c => s.trapDesc c 0 (coreSt s c)
    | .tm c id => s.endTm c id (coreSt s c)
    | .desc q i => s.descEnd q i (st q) 0
    | .bar _ _ => s) s
  let s := s.fab.colls.foldl (fun s c => if c.ended then s else s.descEnd c.queue c.desc (st c.queue) 0) s
  let s := s.queues.foldl (fun s p => p.2.descs.foldl (fun s d =>
    if d.opc = 10 && d.phase = .running then s.descEnd p.1 d.index.toNat (st p.1) 0 else s) s) s
  s.onFab fun f => { f with colls := [], early := [] }

/-- The package gives up its ID (R363): its fabric work ends, it leaves its guard group, floods a link-state message that
names no ID, and goes on forwarding. -/
def State.giveUpId (s : State) (st : Nat → BitVec 8) : State :=
  if !s.fab.joined then s
  else
    let id := s.fab.idApplied.toNat
    let s := (s.endFabWork st).floodOf id s.fab.myPeers false true none
    (s.onFab fun f => { f with guard := {} }).dropId

/-- SYNC, arriving at strait `i`: a reset of the flows with its sender; a claim, which the holder or another claimant of the
ID answers and any other package passes on; or the answer, which ends this package's claim (R335, R345, R364). -/
def execSync (i : Nat) (m : FMsg) (s : State) : Host.Outcome State Fault Refusal :=
  unit i 16 <|
  let m := { m with kind := 11 }
  need s.powered .unavailable <|
  let s := s.unbox m
  let id := m.chunk.toNat % 4096
  let on := if m.hops.toNat < 8 && s.fab.forwarding then s.spread m (some i) else s
  match m.aux.toNat with
  | 0 => need (s.addressed m) .unavailable <| .next ((s.heardFrom m.src.toNat).resetFlows m.src.toNat)
  | 1 =>
    if (s.fab.joined && s.fab.idApplied.toNat == id) || s.fab.claim == some (bits 12 id) then
      .next (s.onWire i (mkSync id 2 id))
    else .next (on.onFab fun f => { f with marks := f.marks.filter (· != id) })
  | _ =>
    if s.fab.claim = some (bits 12 id) then .next (s.onFab fun f => { f with claim := none, reject := true })
    else .next on

/-! ### Link state and through-traffic (R336, R337, R341, R364) -/

/-- LINKSTATE_FLOOD: the list is flooded at least once every second (R336). -/
def execLinkstateFlood (s : State) : Host.Outcome State Fault Refusal :=
  need (s.mainlandUp && s.fab.joined) .unavailable <| .next s.flood

/-- The peers that a link-state message lists. -/
def FMsg.peerList (m : FMsg) : List (Nat × Nat) :=
  (List.range 16).filterMap fun i =>
    let p := natOf ((padTo 32 m.data).drop (2 * i) |>.take 2)
    if p < 4096 then some (i, p) else none

/-- A link-state message taken: news changes the table and is passed on to the other neighbours (R336, R363, R364). -/
def State.takeLinkState (s : State) (m : FMsg) : State :=
  let o := m.chunk.toNat % 4096
  let released := bitAt m.aux 0
  let noId := bitAt m.aux 1
  let l := m.peerList
  let f := s.fab
  if released then
    if f.marks.contains o then s
    else
      let s := s.onFab fun f => { f with marks := f.marks ++ [o], linkState := drop f.linkState o, routes := drop f.routes o }
      s.reroutes.floodOf o l true false (some m.src.toNat)
  else if look [] f.linkState o = l && (f.noId.contains o == noId) && !f.marks.contains o then s
  else
    let s := s.onFab fun f =>
      { f with linkState := put [] f.linkState o l, marks := f.marks.filter (· != o),
               noId := if noId then (if f.noId.contains o then f.noId else f.noId ++ [o]) else f.noId.filter (· != o) }
    s.reroutes.floodOf o l false noId (some m.src.toNat)

/-- LINKSTATE. -/
def execLinkstate (m : FMsg) (s : State) : Host.Outcome State Fault Refusal := receive 9 m (fun m s => s.takeLinkState m) s

/-- RELEASE_MARK_EXPIRY: after 10 s (R364). -/
def execReleaseMarkExpiry (id : Nat) (s : State) : Host.Outcome State Fault Refusal :=
  unit id 4096 <|
  need s.powered .unavailable <|
  need (s.fab.marks.contains id) .notPending <|
  .next (s.onFab fun f => { f with marks := f.marks.filter (· != id) })

/-- The answer that a switch gives to a request for a released ID; it goes out on the strait the request came by, in the
released ID's name, and is numbered as the request was (R364; log 34). -/
def releasedAnswer (m : FMsg) : FMsg :=
  { kind := 6, tc := 1, src := m.dst, dst := m.src, tag := m.tag, alive := m.alive, status := 6 }

/-- THROUGH_TRAFFIC: a message arrives at strait `i`. One that is addressed to this package waits for its own kind's command. A ninth crossing is discarded
and counted; a request for a released ID is answered; any other goes on by R338, unchanged, or is discarded where no
strait can take it (R337, R338, R341, R364). -/
def execThroughTraffic (i : Nat) (m : FMsg) (s : State) : Host.Outcome State Fault Refusal :=
  unit i 16 <|
  need (s.powered && s.fab.forwarding) .unavailable <|
  let s := s.unbox m
  if s.fab.joined && m.dst == s.fab.idApplied then .next (s.onFab fun f => { f with inbox := f.inbox ++ [m] })
  else if 8 ≤ m.hops.toNat then .next (s.onFab fun f => { f with hopDrop := f.hopDrop + 1 })
  else if s.fab.marks.contains m.dst.toNat then
    if m.kind.toNat < 4 then .next (s.onWire i (releasedAnswer m)) else .next s
  else .next (s.fabQueue m)

end Sys2Proof.Machine
end

