-- ==== Sys2Proof/Machine/Work.lean ====
section
/-! DEFINITION. Descriptors of a queue as work: their header, when they may start, and how the hub engines and mainland
read and write memory for them (R388, R395, R402, file 11; R430, R436, file 12). -/

namespace Sys2Proof.Machine

/-! ### The header (Table 11.13) -/

/-- Q_OVERLAP. -/
def Desc.overlap (d : Desc) : Bool := bitAt d.bits 4
/-- Q_HINT. -/
def Desc.hint (d : Desc) : Nat := fld d.bits 8 2
/-- The descriptor has ended; its completion entry may still be to be made. -/
def Desc.over (d : Desc) : Bool := match d.phase with | .finished _ _ => true | _ => false
/-- The descriptor has started. -/
def Desc.begun (d : Desc) : Bool := d.phase != .fetched
/-- Every task of a LAUNCH has been dispatched (R395). -/
def Desc.allOut (d : Desc) : Bool := d.over || (d.begun && (d.grid ≤ d.launch.next || d.launch.stopped) && d.launch.redo.isEmpty)

/-! ### Starting (R393, R395) -/

/-- A GUARD POINT whose point is established: the queue's later descriptors may start (Table 10.11 step 2; log 37). -/
def State.pointPassed (s : State) (q : Nat) (d : Desc) : Bool :=
  d.opc == 10 && fld d.bits 32 2 == 1 && d.phase == .running && (s.queue q).marks.any fun m => m.2 == d.index + 1

/-- The fetched descriptors of a queue before an index, in ring order. -/
def Queue.before (x : Queue) (i : Nat) : List Desc := x.descs.takeWhile fun d => d.index.toNat != i

/-- The start order of a queue lets a fetched descriptor start (R395). -/
def State.inOrder (s : State) (q : Nat) (d : Desc) : Bool :=
  let ds := (s.queue q).before d.index.toNat
  let closed (e : Desc) : Bool := e.over || s.pointPassed q e
  (if d.overlap then
    match ds.getLast? with
    | none => true
    | some p => p.begun && !(p.opc == 1 && d.opc == 1 && !p.allOut)
   else ds.all closed) &&
  (match ds.getLast? with
    | none => true
    | some p => if p.opc == 6 || p.opc == 8 || p.opc == 7 || p.opc == 10 then closed p else true)

/-- Descriptors of a queue in progress. -/
def Queue.inProgress (x : Queue) : Nat := (x.descs.filter fun d => d.phase == .running).length

/-- A fetched descriptor may start: its queue is enabled and not halted, fewer than 16 are in progress, and fewer than 64
completion entries wait for room (R361, R384, R393, R395). -/
def State.mayStart (s : State) (q : Nat) (d : Desc) : Bool :=
  let x := s.queue q
  d.phase == .fetched && x.enabled && !x.disabling && !x.halted && decide (x.inProgress < 16) &&
  decide (x.waiting.length < 64) && s.inOrder q d

/-- A descriptor of queue `q` put in progress. -/
def State.begin_ (s : State) (q i : Nat) : State := s.modDesc q i fun d => { d with phase := .running }

/-- Queues: 4,096, key port × 2,048 + function × 64 + queue. -/
def queueCount : Nat := 4096

/-- A fetched descriptor that has not been completed. -/
def State.live? (s : State) (q i : Nat) : Option Desc := (s.queue q).descs.find? fun d => d.index.toNat == i

/-- A command about a descriptor of an opcode: it starts the descriptor, where it may start and `room` holds, or goes on
with it while it is in progress. One that reached lost data goes on when what can be restored has been (R430, R432). -/
def onDesc (opc q i : Nat) (room : State → Bool) (k : Desc → State → State) (s : State) : Host.Outcome State Fault Refusal :=
  unit q queueCount <|
  need s.mainlandUp .unavailable <|
  match s.live? q i with
  | none => .refused .notPending
  | some d =>
    need (d.opc == opc) .notPending <|
    need (d.phase == .running || (s.mayStart q d && room s)) .notPending <|
    need (!(d.lostWait && s.lost.any fun x => !x.gone)) .notReady <|
    let s := if d.phase = .running then s else s.begin_ q i
    .next (k { d with phase := .running } s)

/-! ### Memory for a descriptor -/

/-- On whose behalf a descriptor's accesses are made: the hub's engines, for the address space, lenience and host side of
the queue (R346, R378, R402). -/
def State.deskCtx (s : State) (q i : Nat) : GCtx :=
  let x := (s.queue q).set
  { who := .desc q i, m := .hub, asid := x.asid, lenient := x.lenient, port := s.queuePort q, space := s.queueSpace q }

/-- A descriptor ends early with a status: its fabric requests are forgotten. -/
def State.descFail (s : State) (q i : Nat) (st : BitVec 8) : State := (s.descEnd q i st 0).fabForget (.desc q i)

/-- A descriptor that reached data that is gone ends with DEVICE_LOST, case 3 (R436, R458). -/
def State.descGone (s : State) (q i : Nat) : State :=
  (s.descFail q i stLost).record 0x3F 5 0x0F stLost.toNat (locOf 13 (queueValue q)) (detailOf [(0, 1, 3), (4, 4, q), (8, 4, i)])

/-- What a descriptor does after an access: it goes on; waits for an answer or for lost data (R430); or ends. -/
def State.after (q i : Nat) (x : GOut) (k : State → List Byte → State) : State :=
  match x.lost, x.bad with
  | some true, _ => x.s.descGone q i
  | some false, _ => x.s.modDesc q i fun d => if d.lostWait then d else { d with lostWait := true, recov := d.recov + 1 }
  | none, some st => x.s.descFail q i st
  | none, none => if x.wait then x.s else k (x.s.modDesc q i fun d => { d with lostWait := false }) x.data

/-- The answers that a descriptor's reads have taken forgotten. -/
def State.readsDone (s : State) (q i : Nat) : State := s.fabForgetReads (.desc q i)

/-- The little-endian number of `n` bytes at an offset of a list. -/
def numAt (d : List Byte) (o n : Nat) : Nat := natOf ((d.drop o).take n)

end Sys2Proof.Machine
end

