-- ==== Sys2Proof/Machine/Collective.lean ====
section
/-! DEFINITION. The collective engine (R349 to R354, file 10). -/

namespace Sys2Proof.Machine

/-! ### Shape of a collective (R349, R351) -/

/-- FMT as a format. -/
def Coll.format (c : Coll) : Fmt := fmtOf c.fmt
/-- The format in which chunks travel. -/
def Coll.wireFmt (c : Coll) : Fmt := if c.wire32 && c.op < 2 then .fp32 else c.format
/-- Elements of a chunk of 256 bytes of wire data. -/
def Coll.perChunk (c : Coll) : Nat := 2048 / c.wireFmt.bits
/-- Elements that are reduced. -/
def Coll.total (c : Coll) : Nat := if c.op = 1 then c.size * c.count else c.count
/-- Bytes of COUNT elements. -/
def Coll.block (c : Coll) : Nat := c.count * c.format.bits / 8
/-- Chunks of a block. -/
def Coll.blockChunks (c : Coll) : Nat := (c.block + 255) / 256
/-- Chunks of a broadcast that each rank takes: the buffer's chunks shared out in order (R351; log 38). -/
def Coll.share (c : Coll) : Nat := (c.blockChunks + c.size - 1) / c.size

/-- Chunks of the collective: of the reduced elements; of all blocks in rank order; of one block, or of the buffer of a
BROADCAST. -/
def Coll.nchunks (c : Coll) : Nat :=
  match c.op with
  | 0 | 1 => (c.total + c.perChunk - 1) / c.perChunk
  | 2 => c.size * c.blockChunks
  | _ => c.blockChunks

/-- Elements of a reduced chunk. -/
def Coll.elems (c : Coll) (k : Nat) : Nat := min c.perChunk (c.total - k * c.perChunk)

/-- Offset and bytes of a moved chunk in the buffer that holds it whole. -/
def Coll.piece (c : Coll) (k : Nat) : Nat × Nat :=
  let b := k / c.blockChunks
  let o := 256 * (k % c.blockChunks)
  (b * c.block + o, min 256 (c.block - o))

/-- The tree of a chunk. -/
def Coll.tree (c : Coll) (k : Nat) : Nat := k % c.trees
/-- The parent in a tree; none at the root. -/
def Coll.parent (c : Coll) (t : Nat) : Option Nat := match look 0 c.parents t with | 0 => none | p + 1 => some p
/-- The children in a tree: package, RANK_LO, RANK_HI. -/
def Coll.kids (c : Coll) (t : Nat) : List (Nat × Nat × Nat) := look [] c.children t

/-- The first and last rank that own elements of a chunk of REDUCE_SCATTER. -/
def Coll.owners (c : Coll) (k : Nat) : Nat × Nat :=
  (k * c.perChunk / c.count, (k * c.perChunk + c.elems k - 1) / c.count)

/-- Two rank ranges meet. -/
def rangesMeet (a b : Nat × Nat) : Bool := decide (a.1 ≤ b.2) && decide (b.1 ≤ a.2)

/-- The children toward which a result travels. -/
def Coll.downTo (c : Coll) (k : Nat) : List Nat :=
  ((c.kids (c.tree k)).filter fun x => c.op != 1 || rangesMeet (c.owners k) (x.2.1, x.2.2)).map (·.1)

/-- The ranks of the subtree of this member meet the owners of a chunk. -/
def Coll.belowMe (c : Coll) (k : Nat) : Bool :=
  rangesMeet (c.owners k) (c.rank, c.rank) || !(c.downTo k).isEmpty

/-- The rank whose block a moved chunk belongs to. -/
def Coll.ownerOf (c : Coll) (k : Nat) : Nat := if c.op = 2 then k / c.blockChunks else k / c.share

/-- The rank of this member lies below a child of a tree. -/
def Coll.fromKids (c : Coll) (t r : Nat) : Bool := (c.kids t).any fun x => decide (x.2.1 ≤ r) && decide (r ≤ x.2.2)

/-- Pieces of SRC that this member puts in. -/
def Coll.pieces (c : Coll) : Nat :=
  match c.op with
  | 0 | 1 => c.nchunks
  | 2 => c.blockChunks
  | 4 => if c.rank = c.root then c.nchunks else 0
  | _ => c.size * c.blockChunks

/-- Messages that this member will receive. -/
def Coll.expected (c : Coll) : Nat :=
  let count (p : Nat → Nat) : Nat := ((List.range c.nchunks).map p).foldl (· + ·) 0
  let down (k : Nat) : Nat := if (c.parent (c.tree k)).isSome then 1 else 0
  match c.op with
  | 0 => count fun k => (c.kids (c.tree k)).length + down k
  | 1 => count fun k => (c.kids (c.tree k)).length + (if c.belowMe k then down k else 0)
  | 2 => count fun k => (if c.fromKids (c.tree k) (c.ownerOf k) then 1 else 0) + down k
  | 4 => count fun k => (if c.fromKids (c.tree k) (c.ownerOf k) then 1 else 0) + down k +
      (if c.ownerOf k = c.rank && c.rank != c.root then 1 else 0)
  | _ => (c.size - 1) * c.blockChunks

/-- Chunks whose results this member writes to DST. -/
def Coll.results (c : Coll) : Nat :=
  match c.op with
  | 0 | 2 | 4 => c.nchunks
  | 1 => ((List.range c.nchunks).filter fun k => rangesMeet (c.owners k) (c.rank, c.rank)).length
  | _ => c.size * c.blockChunks

/-! ### Reduction (R352) -/

/-- Elements of packed data as values. -/
def unpackVals (f : Fmt) (n : Nat) (d : List Byte) : List Val :=
  (List.range n).map fun x => f.decodeElem (packed (fun a => d.getD a 0) f 0 x)

/-- A value as FP32 bits with RNE. -/
def fp32Bits (v : Val) : BitVec 32 := bits 32 (fp32Of .rne v)

/-- Two contributions combined in FP32. -/
def combine (rop : Nat) (a : BitVec 32) (b : Val) : BitVec 32 :=
  let x := fp32Val a.toNat
  fp32Bits (match rop with | 1 => x.minV b | 2 => x.maxV b | _ => x.add b)

/-- A contribution put into a chunk. -/
def CollChunk.take (x : CollChunk) (rop : Nat) (vs : List Val) : CollChunk :=
  { x with acc := if x.has then x.acc.zipWith (combine rop) vs else vs.map fp32Bits, has := true }

/-- Values as wire data. -/
def Coll.wireData (c : Coll) (vs : List Val) : List Byte := packRow c.wireFmt (vs.map fun v => c.wireFmt.encode .rne false v)

/-! ### Open collectives -/

/-- The open collective of an identifier. -/
def State.coll? (s : State) (id : Nat) : Option Coll := s.fab.colls.find? fun c => c.collId == id

/-- An open collective changed. -/
def State.modColl (s : State) (id : Nat) (g : Coll → Coll) : State :=
  s.onFab fun f => { f with colls := f.colls.map fun c => if c.collId = id then g c else c }

/-- A COLL message of a chunk. -/
def Coll.msg (c : Coll) (dst k stage : Nat) (d : List Byte) : FMsg :=
  { kind := 7, dst := bits 12 dst, bytes := bits 8 (d.length - 1), collId := bits 16 c.collId, chunk := bits 24 k,
    fmt := if c.wireFmt = Fmt.fp32 && c.op < 2 then 0 else bits 5 c.fmt, rop := bits 2 (if c.op < 2 then c.rop else 0),
    wire32 := c.wire32 && c.op < 2, tree := bits 2 (c.tree k), stage := bits 2 stage, data := d }

/-- Every other member told that the collective is aborted: COLL with FM_STAGE 3 (R353; log 34). -/
def State.collTell (s : State) (c : Coll) : State :=
  ((c.members.eraseDups).filter (· != s.fab.idApplied.toNat)).foldl (fun s p =>
    s.fabSend { kind := 7, dst := bits 12 p, collId := bits 16 c.collId, stage := 3 }) s

/-- The collective leaves the engine. -/
def State.collDrop (s : State) (id : Nat) : State :=
  s.onFab fun f => { f with colls := f.colls.filter fun c => c.collId != id, early := f.early.filter fun m => m.collId.toNat != id }

/-- This member's collective ends early: the others are told, and its descriptor ends with the status (R353). -/
def State.collEnd (s : State) (c : Coll) (st : BitVec 8) : State :=
  let s := (s.collTell c).collDrop c.collId
  if c.ended then s else s.descFail c.queue c.desc st

/-- A collective whose results are all in DST completes; one with no duty left leaves the engine (R353). -/
def State.collSettle (s : State) (id : Nat) : State :=
  match s.coll? id with
  | none => s
  | some c =>
    let fin := c.ended || (c.need == 0 && !s.fabWaits (.desc c.queue c.desc) && c.fed == c.pieces)
    let s := if fin && !c.ended then (s.descEnd c.queue c.desc stDone 0).modColl id fun c => { c with ended := true } else s
    if fin && c.duty = 0 && c.fed = c.pieces then s.collDrop id else s

/-- A result written to DST; a write that fails ends the collective. -/
def State.collWrite (s : State) (c : Coll) (off : Nat) (d : List Byte) : State :=
  if c.ended || (s.coll? c.collId).isNone then s
  else
    let x := s.gWrite (s.deskCtx c.queue c.desc) c.hint (c.dst + off) d
    match x.bad with
    | some st => x.s.collEnd c st
    | none => x.s.modColl c.collId fun c => { c with need := c.need - 1 }

/-! ### Reduced chunks: ALL_REDUCE and REDUCE_SCATTER -/

/-- The result of a chunk reaches this member: its own elements are written, and it goes on down (R351, R352). -/
def State.reducedDown (s : State) (c : Coll) (k : Nat) (vs : List Val) : State :=
  let f := c.format
  let els := vs.map fun v => f.encode .rne c.sat v
  let lo := k * c.perChunk
  let s := (c.downTo k).foldl (fun s p => s.fabSend (c.msg p k 1 (c.wireData (els.map f.decodeElem)))) s
  if c.op = 0 then s.collWrite c (lo * f.bits / 8) (packRow f els)
  else if rangesMeet (c.owners k) (c.rank, c.rank) then
    let a := max lo (c.rank * c.count)
    let b := min (lo + els.length) ((c.rank + 1) * c.count)
    s.collWrite c ((a - c.rank * c.count) * f.bits / 8) (packRow f ((els.drop (a - lo)).take (b - a)))
  else s

/-- A chunk that has every contribution goes up, or at the root comes back down. -/
def State.reduceStep (s : State) (id k : Nat) : State :=
  match s.coll? id with
  | none => s
  | some c =>
    let x := look {} c.chunks k
    if !x.own || x.got < (c.kids (c.tree k)).length then s
    else
      let vs := x.acc.map fun b => fp32Val b.toNat
      let s := s.modColl id fun c => { c with chunks := put {} c.chunks k {} }
      match c.parent (c.tree k) with
      | some p => s.fabSend (c.msg p k 0 (c.wireData vs))
      | none => s.reducedDown c k vs

/-- A contribution to a chunk: this member's own, or a child's (R351). -/
def State.contribute (s : State) (id k : Nat) (own : Bool) (vs : List Val) : State :=
  (s.modColl id fun c =>
    let x := (look {} c.chunks k).take c.rop vs
    { c with chunks := put {} c.chunks k (if own then { x with own := true } else { x with got := x.got + 1 }) }).reduceStep id k

/-! ### Moved chunks: ALL_GATHER, ALL_TO_ALL and BROADCAST -/

/-- A gathered chunk on its way down. -/
def State.gatherDown (s : State) (c : Coll) (k : Nat) (d : List Byte) : State :=
  (((c.kids (c.tree k)).map (·.1)).foldl (fun s p => s.fabSend (c.msg p k 1 d)) s).collWrite c (c.piece k).1 d

/-- A gathered chunk on its way up. -/
def State.gatherUp (s : State) (c : Coll) (k : Nat) (d : List Byte) : State :=
  match c.parent (c.tree k) with
  | some p => s.fabSend (c.msg p k 0 d)
  | none => s.gatherDown c k d

/-! ### SRC -/

/-- Address and bytes of a piece of SRC. -/
def Coll.source (c : Coll) (j : Nat) : Nat × Nat :=
  if c.op < 2 then (c.src + j * c.perChunk * c.format.bits / 8, c.elems j * c.format.bits / 8)
  else (c.src + (c.piece j).1, (c.piece j).2)

/-- A piece of SRC put in. -/
def State.putIn (s : State) (c : Coll) (j : Nat) (d : List Byte) : State :=
  match c.op with
  | 0 | 1 => s.contribute c.collId j true (unpackVals c.format (c.elems j) d)
  | 2 => s.gatherUp c (c.rank * c.blockChunks + j) d
  | 4 =>
    if c.ownerOf j = c.rank then s.gatherUp c j d
    else s.fabSend (c.msg (c.members.getD (c.ownerOf j) 0) j 2 d)
  | _ =>
    let r := j / c.blockChunks
    if r = c.rank then s.collWrite c (c.piece j).1 d
    else s.fabSend (c.msg (c.members.getD r 0) (j % c.blockChunks) 2 d)

/-- Pieces of SRC read and put in, up to one whose data has not come (R347, R430), at most `fuel` of them. -/
def State.feed (s : State) (id : Nat) : Nat → State
  | 0 => s
  | fuel + 1 =>
    match s.coll? id with
    | none => s
    | some c =>
      if c.pieces ≤ c.fed then s
      else
        let (a, n) := c.source c.fed
        let x := s.gRead (s.deskCtx c.queue c.desc) c.hint a n
        match x.lost, x.bad with
        | some true, _ => ((x.s.collTell c).collDrop id).descGone c.queue c.desc
        | some false, _ => x.s
        | none, some st => x.s.collEnd c st
        | none, none =>
          if x.wait then x.s
          else
            let s := x.s.fabForgetReads (.desc c.queue c.desc)
            ((s.modColl id fun c => { c with fed := c.fed + 1 }).putIn c c.fed x.data).feed id fuel

/-! ### Arriving chunks -/

/-- A chunk for an open collective (R351). -/
def State.collChunk (s : State) (c : Coll) (m : FMsg) : State :=
  let s := s.modColl c.collId fun c => { c with duty := c.duty - 1 }
  let k := m.chunk.toNat
  let d := padTo (m.bytes.toNat + 1) m.data
  let s :=
    if c.op < 2 then
      let vs := unpackVals c.wireFmt (c.elems k) d
      if m.stage = 0 then s.contribute c.collId k false vs else s.reducedDown c k vs
    else if m.stage = 0 then s.gatherUp c k d
    else if m.stage = 1 then s.gatherDown c k d
    else if c.op = 4 then s.gatherUp c k d
    else
      let r := c.members.findIdx fun p => p == m.src.toNat
      s.collWrite c (c.piece (r * c.blockChunks + k)).1 d
  s.collSettle c.collId

/-- A chunk that arrives before its member's COLLECTIVE waits for it (R354). -/
def State.collArrive (s : State) (m : FMsg) : State :=
  match s.coll? m.collId.toNat with
  | some c => s.collChunk c m
  | none => s.onFab fun f => { f with early := f.early ++ [m] }

/-- An abort ends this member's collective with ABORTED (R353). -/
def State.collAborted (s : State) (id : Nat) : State :=
  match s.coll? id with
  | none => s.onFab fun f => { f with early := f.early.filter fun m => m.collId.toNat != id }
  | some c =>
    let s := s.collDrop id
    if c.ended then s else s.descFail c.queue c.desc stAborted

/-- COLLECTIVE_ABORT: a member's abort for a COLL_ID arrives (R353). -/
def execCollectiveAbort (m : FMsg) (s : State) : Host.Outcome State Fault Refusal :=
  receive 7 { m with stage := 3, rop := if m.rop = 3 then 0 else m.rop } (fun m s => s.collAborted m.collId.toNat) s

/-! ### The COLLECTIVE descriptor (Table 11.17, R349, R350, R353) -/

/-- FP32, BF16, FP16, FP8-E4M3 and FP8-E5M2, which OP 0 and 1 accept. -/
def reducible (f : Fmt) : Bool := f == .fp32 || f == .bf16 || f == .fp16 || f == .e4m3 || f == .e5m2

/-- The parameters of a descriptor, before its communicator record is known. -/
def collParams (q : Nat) (d : Desc) : Coll :=
  let b := d.bits
  { collId := fld b 48 16, hint := d.hint, queue := q, desc := d.index.toNat, op := fld b 32 3, rop := fld b 35 2, fmt := fld b 37 5,
    wire32 := bitAt b 42, sat := bitAt b 43, src := fld b 128 64, dst := fld b 192 64, count := fld b 256 32, root := fld b 288 12 }

/-- The communicator record of 0x140 bytes, and the member list (Table 10.9). -/
def Coll.withComm (c : Coll) (r members : List Byte) : Coll :=
  let n := numAt r 2 2
  let t := numAt r 6 1
  let c := { c with
    size := n, rank := numAt r 4 2, trees := t
    parents := normal 0 ((List.range t).map fun t => (t, (numAt r (0x40 + 64 * t) 2 + 1) % 65536))
    children := normal [] ((List.range t).map fun t =>
      (t, (List.range (numAt r (0x42 + 64 * t) 1)).map fun k =>
        let o := 0x48 + 64 * t + 6 * k
        (numAt r o 2, numAt r (o + 2) 2, numAt r (o + 4) 2)))
    members := (List.range n).map fun k => numAt members (2 * k) 2 }
  { c with need := c.results, duty := c.expected }

/-- The communicator record is valid (R350, R353). -/
def commOk (r : List Byte) : Bool :=
  let n := numAt r 2 2
  let t := numAt r 6 1
  numAt r 0 2 == 1 && decide (1 ≤ n) && decide (n ≤ 4096) && decide (numAt r 4 2 < n) && decide (1 ≤ t) && decide (t ≤ 4) &&
  (List.range t).all fun t =>
    let kids := numAt r (0x42 + 64 * t) 1
    let p := numAt r (0x40 + 64 * t) 2
    decide (kids ≤ 8) && (decide (p < 4096) || p == 0xFFFF) &&
    (List.range kids).all fun k =>
      let o := 0x48 + 64 * t + 6 * k
      decide (numAt r o 2 < 4096) && decide (numAt r (o + 2) 2 ≤ numAt r (o + 4) 2) && decide (numAt r (o + 4) 2 < n)

/-- The causes by which a descriptor's own fields end it (R353, R391). -/
def Coll.bad (c : Coll) (comm : Nat) : List (BitVec 8) :=
  let f := Fmt.ofCode c.fmt
  let four := match f with | some f => c.op ≥ 2 && ((f.bits == 4 && c.count % 2 != 0) || (f.bits == 6 && c.count % 4 != 0)) | none => false
  (if 5 ≤ c.op || f.isNone || c.count = 0 || comm % 64 ≠ 0 || four then [stBadDesc] else []) ++
  (if c.op < 2 && (c.rop = 3 || !(match f with | some f => reducible f | none => true)) then [stFormat] else [])

/-- Collectives and GUARD descriptors open in the package; at most 16 (R354). -/
def State.collOpen (s : State) : Nat :=
  s.fab.colls.length + (s.queues.map fun p => (p.2.descs.filter fun d => d.opc == 10 && d.phase == .running).length).foldl (· + ·) 0

/-- A collective opened: its early contributions are taken, then its own SRC. -/
def State.collStart (s : State) (c : Coll) : State :=
  let ms := s.fab.early.filter fun m => m.collId.toNat == c.collId
  let s := s.onFab fun f =>
    { f with colls := f.colls ++ [c], early := f.early.filter fun m => m.collId.toNat != c.collId }
  let s := ms.foldl State.collArrive s
  (s.feed c.collId c.pieces).collSettle c.collId

/-- A COLLECTIVE in progress: checked and opened, with its communicator record read, or fed on (R349 to R353). -/
def State.collRun (s : State) (q : Nat) (d : Desc) : State :=
  let i := d.index.toNat
  let c := collParams q d
  match s.fab.colls.find? fun x => x.queue == q && x.desc == i with
  | some x => (s.feed x.collId x.pieces).collSettle x.collId
  | none =>
    let comm := fld d.bits 64 64
    match worstOf (c.bad comm) with
    | some st => s.descFail q i st
    | none =>
      let g := s.deskCtx q i
      State.after q i (s.gRead g d.hint comm 0x140) fun s r =>
        if !commOk r || (c.op == 4 && decide (numAt r 2 2 ≤ c.root)) then s.descFail q i stBadDesc
        else State.after q i (s.gRead g d.hint (comm + 0x140) (2 * numAt r 2 2)) fun s ms =>
          let c := c.withComm r ms
          if 1 < c.size && !s.fab.joined then s.descFail q i stAccess else (s.readsDone q i).collStart c

/-- COLLECTIVE: the descriptor starts this member's collective, or goes on once the data it waited for has come. -/
def execCollective (q i : Nat) (s : State) : Host.Outcome State Fault Refusal :=
  onDesc 5 q i (fun s => decide (s.collOpen < 16)) (fun d s => s.collRun q d) s

end Sys2Proof.Machine
end

