-- ==== Sys2Proof/Machine/Dense.lean ====
section
/-! DEFINITION. The commands of chapter 08 about a dense channel: refresh, patrol scrub, the retirement of a page, and the
map-out of a channel. -/

namespace Sys2Proof.Machine

/-! ### Lines and pages of a channel -/

/-- The device physical address of a channel line address: a private or firmware line of the channel, or the pool line
that R219 places there. -/
def State.addrOfCla (s : State) (ch cla : Nat) : Nat :=
  let r := regionOfChan ch
  let p := s.privSteps r
  let own := r * 2 ^ 41 + ch % 72 * 2 ^ 30
  if cla < p * 0x80000 then own + cla * 256
  else if 0x3FC000 ≤ cla then own + 3 * 2 ^ 39 + (cla - 0x3FC000) * 256
  else
    let wide := (s.region r).dieWide
    let good := if wide then s.goodDie (r / 2) else s.goodRegion r
    let n := good.length
    let g := cla - p * 0x80000
    let x := g * 0x9E3779B1 % 2 ^ 32
    let x := (x ^^^ (x >>> 15)) % n
    let j := (good.idxOf ch + n - x) % n
    (if wide then r / 2 * 2 ^ 42 + 2 * 2 ^ 39 else r * 2 ^ 41 + 2 ^ 39) + (g * n + j) * 256

/-- The entry is a leaf of device memory of this package. -/
def leafDev (e : BitVec 64) : Bool := bitAt e 0 && bitAt e 1 && fld e 7 2 == 0

/-- The 64 KiB page that a leaf of level 3 names. -/
def leafPage (e : BitVec 64) : Nat := fld e 16 28

/-- The physical pages that mainland maps (every leaf stands at level 3, log 15). -/
def State.mapped (s : State) : List Nat := s.ptes.filterMap fun p => if leafDev p.2 then some (leafPage p.2) else none

/-- A page holds a lost codeword. -/
def State.lostPage (s : State) (pg : Nat) : Bool := s.lost.any fun x => decide (x.addr / 65536 = pg)

/-- A page is free: it has a home, is not retired, and is not mapped. -/
def State.pageFree (s : State) (pg : Nat) : Bool :=
  (s.home (pg * 65536)).isSome && !s.mapped.contains pg

/-- Two pages are of the same kind and part: private pages of one channel, or pages of one pool. -/
def samePart (a b : Nat) : Bool :=
  let x := a * 65536
  let y := b * 65536
  dpaReg x == dpaReg y && dpaKind x == dpaKind y &&
  (if dpaKind x = 0 || dpaKind x = 3 then dpaChan x == dpaChan y else true)

/-- The first page number of the part of a page, and the pages an address field of that kind can name. -/
def partSpan (pg : Nat) : Nat × Nat :=
  let a := pg * 65536
  if dpaKind a = 0 || dpaKind a = 3 then (pg / 2 ^ 14 * 2 ^ 14, 2 ^ 14) else (pg / 2 ^ 23 * 2 ^ 23, 2 ^ 22)

/-- The lowest pages that satisfy `p`, at most `n`, of the `k` pages from `a` on. -/
def lowestPages (p : Nat → Bool) : Nat → Nat → Nat → List Nat
  | 0, _, _ => []
  | k + 1, a, n =>
    if n = 0 then [] else if p a then a :: lowestPages p k (a + 1) (n - 1) else lowestPages p k (a + 1) n

/-- The clusters that hold a copy of a line are asked for it: every copy is written back and invalidated. -/
def State.flushLine (s : State) (line : Nat) : State :=
  let s := (s.pHolders line).foldl (fun s c => s.ownNow c line) s
  s.dirForWrite line

/-- The lines that a core's undo logs and outstanding accesses name, re-numbered as data moves: an access that was answered retry
goes to the new place (R277, R284). -/
def Core.renumber (c : Core) (mv : Nat → Nat) : Core :=
  let un (l : List UndoEntry) : List UndoEntry := l.map fun e => { e with line := mv e.line }
  { c with
    undo := un c.undo
    undoSeen := c.undoSeen.map mv
    frame := c.frame.map fun f => { f with undo := un f.undo, undoSeen := f.undoSeen.map mv }
    outst := c.outst.map fun o => { o with pieces := o.pieces.map fun p =>
      if p.tgt = 0 then { p with addr := mv (p.addr / 256) * 256 + p.addr % 256 } else p } }

/-- Every number of a line that undo logs, outstanding accesses and lost-data marks hold, re-numbered as data moves. -/
def State.renumber (s : State) (mv : Nat → Nat) : State :=
  { s with
    cores := s.cores.map fun p => (p.1, p.2.renumber mv)
    lost := s.lost.map fun x => { x with addr := mv (x.addr / 256) * 256 + x.addr % 256 } }

/-- A line of a page that has moved. -/
def pageMoved (old new line : Nat) : Nat := if line / 256 = old then new * 256 + line % 256 else line

/-- Steps 2 to 4 of Table 08.8a: a page's lines are flushed and copied into the new page at the home slices, the entries
that mapped it name the new page, and its ledger entries and pins end. -/
def State.movePage (s : State) (old new : Nat) : State :=
  let s := (List.range 256).foldl (fun s i =>
    let a := old * 256 + i
    let b := new * 256 + i
    let s := (s.flushLine a).flushLine b
    let d := s.homeData a
    let s := (((s.arrayRead { m := .fw, hint := 1 } a).s.unledger a).unledger b).unblock b
    (s.arrayWrite { m := .fw } b ((List.range 256).map fun o => (o, look 0 d o))).dropLine a) s
  let s := s.renumber (pageMoved old new)
  let s := { s with
    ptes := s.ptes.map fun (p : Nat × BitVec 64) =>
      if leafDev p.2 && leafPage p.2 == old then
        (p.1, BitVec.ofNat 64 (p.2.toNat - old * 65536 + new * 65536)) else p
    owners := put 0 (put 0 s.owners new (look 0 s.owners old)) old 0 }
  s.produce (new * 256) none

/-- A page recorded as retired (R276, R277 step 5). -/
def State.markRetired (s : State) (pg src : Nat) : State :=
  let a := pg * 65536
  let s := if dpaKind a = 0 || dpaKind a = 3 then s.modChannel (dpaChan a) fun c => { c with retired := c.retired ++ [pg] }
    else (s.modRegion (dpaReg a) fun r => { r with poolRetired := r.poolRetired ++ [pg] }).modChannel src
      fun c => { c with poolRetired := bump 48 c.poolRetired }
  let s := s.onFlash fun f => { f with retiredPages := f.retiredPages ++ [pg] }
  s.journal [(12, journalBody [(4, (pageLoc a).toNat)])]

/-! ### Refresh and scrub -/

/-- REFRESH: the next bank row of a channel is refreshed (R279). Rows are taken in rising order of bank and row. -/
def execRefresh (ch : Nat) (s : State) : Host.Outcome State Fault Refusal :=
  unit ch 576 <|
  need (s.powered && s.inService ch) .unavailable <|
  .next (s.modChannel ch fun c => { c with refreshRow := (c.refreshRow + 1) % 2 ^ 20 })

/-- Some cluster cache holds a modified or pending copy, or the slice a dirty one: a later write-back supersedes the
scrub's (R273). -/
def State.heldDirty (s : State) (line : Nat) : Bool :=
  (match s.held line with | some x => x.dirty | none => false) ||
  (List.range 64).any fun cl => match s.cc cl line with | some x => x.st == .modified || x.st == .pend | none => false

/-- A copy of the line stands above the channel. -/
def State.heldAbove (s : State) (line : Nat) : Bool :=
  (s.held line).isSome ||
  (List.range 64).any fun cl => match s.cc cl line with | some x => x.st != .pend | none => false

/-- What the scrub finds in the codewords of a line that it has read, each in its turn (R273, R274). -/
def State.scrubFound (s : State) (ch line : Nat) : MemErr → State
  | .both a b => (s.scrubFound ch line a).scrubFound ch line b
  | .channelCorrected cw n =>
    let s := s.chanCorrected line (cw % 4) n
    let s := s.modChannel ch fun c => { c with ceScrub := c.ceScrub ++ [(line * 4 + cw % 4, c.scrubPass)] }
    if s.heldDirty line then s
    else
      let s := ((s.flushLine line).unblock line).unledger line
      let d := s.homeData line
      s.arrayWrite { m := .fw } line ((List.range 64).map fun o => (cw % 4 * 64 + o, look 0 d (cw % 4 * 64 + o)))
  | .channelUncorrectable cw =>
    if s.heldAbove line then s.modChannel ch fun c => { c with chUe := bump 48 c.chUe, ueSeen := c.ueSeen ++ [line * 4 + cw % 4] }
    else s.chanUncorrectable line (cw % 4)
  | .channelMissed cw n ws => if n = 0 then s else s.meetError line (.channelMissed cw n ws)
  | _ => s

/-- The scrub of one line of a STRONG frame: a burst in class BG, and what its codewords show (R273, R309). -/
def State.scrubLine (s : State) (ch line : Nat) (e : MemErr) : State :=
  let s := (s.modChannel ch fun c => { c with burstRd := bump 48 c.burstRd }).burst ch 6 256 false false
  s.scrubFound ch line e

/-- SCRUB: the patrol scrub reads the next line of a channel; LIGHT frames and retired pages are skipped (R273). -/
def execScrub (ch : Nat) (err : MemErr) (s : State) : Host.Outcome State Fault Refusal :=
  unit ch 576 <|
  need (s.powered && s.inService ch) .unavailable <|
  let cla := (s.channel ch).scrubAt
  let a := s.addrOfCla ch cla
  let s := if s.isLight a || s.retiredPage a then s else s.scrubLine ch (a / 256) err
  .next (s.modChannel ch fun c =>
    { c with scrubAt := (cla + 1) % 2 ^ 22,
             scrubPass := if cla + 1 = 2 ^ 22 then bump 48 c.scrubPass else c.scrubPass })

/-! ### Page retirement (R276 to R278) -/

/-- Almanac rounds, of 1 ms, in 24 hours. -/
def roundsPerDay : Nat := 24 * 3600 * 1000

/-- The codeword `w` = address div 64 gives its page this cause of retirement (R276; causes of Table 12.14). -/
def Channel.retireCause (c : Channel) (w cause : Nat) : Bool :=
  match cause with
  | 1 => c.ueSeen.contains w
  | 2 => c.ceFour.contains w
  | 3 =>
    let ps := (c.ceScrub.filter fun x => x.1 == w).map Prod.snd
    let rs := (c.ceSeen.filter fun x => x.1 == w).map Prod.snd
    ps.any (fun p => ps.any fun q => p != q) || rs.any fun p => rs.any fun q => decide (p < q) && decide (q ≤ p + roundsPerDay)
  | _ => false

/-- The histories of a page's codewords end with its retirement. -/
def Channel.forgetPage (c : Channel) (pg : Nat) : Channel :=
  let other (w : Nat) : Bool := w / 1024 != pg
  { c with ueSeen := c.ueSeen.filter other, ceFour := c.ceFour.filter other,
           ceScrub := c.ceScrub.filter fun x => other x.1, ceSeen := c.ceSeen.filter fun x => other x.1 }

/-- A page that a page may move to: free, of its kind, class and part (R277 step 1). -/
def State.mayMove (s : State) (old new : Nat) : Bool :=
  new != old && s.pageFree new && samePart old new && s.isLight (new * 65536) == s.isLight (old * 65536)

/-- The lowest page that a page may move to. -/
def State.lowestFree (s : State) (pg : Nat) : Option Nat := (lowestPages (s.mayMove pg) (partSpan pg).2 (partSpan pg).1 1).head?

/-- The page of a codeword retired onto a free page: migration, record and journal (Table 08.8a). -/
def State.retireTo (s : State) (addr new cause : Nat) : State :=
  let pg := addr / 65536
  let src := (s.homeOfLine (addr / 256)).chan
  let s := (s.movePage pg new).markRetired pg src
  let s := s.modChannel src fun c => c.forgetPage pg
  let s := s.modRegion (dpaReg addr) fun r => { r with retireWait := r.retireWait.filter (· != pg) }
  s.record 0x14 (addrLevel addr) 0x04 0 (pageLoc addr) (detailOf [(0, 4, (pageLoc (new * 65536)).toNat), (4, 1, cause)])

/-- The cause for which a page waits to be retired: the lowest that some codeword of it gives, 1 where none is held any more. -/
def State.waitCause (s : State) (pg : Nat) : Nat :=
  ([1, 2, 3].find? fun c => (List.range 1024).any fun i =>
    (s.channel (s.homeOfLine ((pg * 1024 + i) / 4)).chan).retireCause (pg * 1024 + i) c).getD 1

/-- Pages whose retirement waits for a free page of their kind are retired where there is one now (R278). -/
def State.retireWaiting (s : State) : State :=
  each (List.range 8) (fun r s => (s.region r).retireWait.foldl (fun s pg =>
    match s.lowestFree pg with
    | some new => if s.lostPage pg then s else s.retireTo (pg * 65536) new (s.waitCause pg)
    | none => s) s) s

/-- PAGE_RETIREMENT: mainland migrates the page of the codeword at `addr` to a free page, `new` where it may move there, else the
lowest, and retires it; with no free page of its kind it stays in use and waits. `cause` is that of PAGE_RETIRED, which the errors
of the codeword must give; a page whose data is lost is restored first (R276 to R278, R579). -/
def execPageRetirement (addr : Nat) (new : Option Nat) (cause : Nat) (s : State) : Host.Outcome State Fault Refusal :=
  need s.mainlandUp .unavailable <|
  let pg := addr / 65536
  need ((s.home addr).isSome && (s.channel (s.homeOfLine (addr / 256)).chan).retireCause (addr / 64) cause && !s.lostPage pg) .notPending <|
  .next (match new.filter (s.mayMove pg) |>.or (s.lowestFree pg) with
    | some n => s.retireTo addr n cause
    | none => s.modRegion (dpaReg addr) fun r =>
        { r with retireWait := if r.retireWait.contains pg then r.retireWait else r.retireWait ++ [pg] })

/-! ### Map-out of a channel (R280 to R284) -/

/-- The regions whose pool a channel serves. -/
def State.poolRegions (s : State) (ch : Nat) : List Nat :=
  let r := regionOfChan ch
  if (s.region r).dieWide then [r / 2 * 2, r / 2 * 2 + 1] else [r]

/-- A field of every region of a pool changed. -/
def State.onRegions (s : State) (rs : List Nat) (g : Region → Region) : State := each rs (fun r s => s.modRegion r g) s

/-- CHANNEL_LOST: a channel stops answering; the map-out is announced (R280, Table 08.9 step 0). -/
def execChannelLost (ch : Nat) (s : State) : Host.Outcome State Fault Refusal :=
  unit ch 576 <|
  need s.mainlandUp .unavailable <|
  need (s.inService ch && !(s.channel ch).lost) .notPending <|
  let rs := s.poolRegions ch
  let s := s.modChannel ch fun c => { c with lost := true }
  let s := s.record 0x17 1 0x10 0 (locOf 6 ch) (detailOf [(0, 1, 2)])
  .next (s.onRegions rs fun r => { r with memState := 2, mapOut := some (r.mapOut.getD ch) })

/-- The logical core that owns a channel (R264). -/
def State.ownerOf (s : State) (ch : Nat) : Option Nat := s.logicalCores.find? fun l => (s.lcore l).channel == some ch

/-- A channel of the reserve: in service, answering, unowned and not orphaned (R266, R280). -/
def State.reserve (s : State) (ch : Nat) : Bool :=
  s.inService ch && !(s.channel ch).lost && !(s.channel ch).orphaned && (s.ownerOf ch).isNone

/-- The channel that the owner of `ch` is paired with: one of its cluster, else the lowest of its region (R280). -/
def State.newPartner (s : State) (l ch : Nat) : Option Nat :=
  let ok (k : Nat) : Bool := k != ch && s.reserve k
  let cl := s.clusterOf l
  match ((List.range 9).map (cl * 9 + ·)).find? ok with
  | some k => some k
  | none => ((List.range 72).map (regionOfChan ch * 72 + ·)).find? ok

/-- The lines of the directory and the data array of a slice. -/
def Slice.lines (sl : Slice) : List Nat := sl.dir.flatMap (fun p => p.2.map DirEnt.line) ++ sl.sets.flatMap fun p => p.2.map SLine.line

/-- Step 2 of Table 08.9 at one slice: copies are written back and invalidated, lines written back and dropped, and ledger
entries discarded and counted. The answer lists the lines pinned. -/
def State.flushSlice (s : State) (k : Nat) : State × List (Nat × PinKind) :=
  let s := ((s.slice k).lines).foldl State.flushLine s
  let ls := (s.slice k).sets.flatMap fun p => p.2
  let s := ls.foldl (fun s x => s.writeBack { m := .fw } x) s
  (s.modSlice k fun sl => { sl with sets := [], ledger := [], ledOver := (sl.ledOver + sl.ledger.length) % 2 ^ 48 },
   (ls.filter fun x => x.pin != .unpinned).map fun x => (x.line, x.pin))

/-- The slices of a list flushed, with every pin found. -/
def State.flushSlices (s : State) : List Nat → State × List (Nat × PinKind)
  | [] => (s, [])
  | k :: r =>
    let (s, p) := s.flushSlice k
    let (s, q) := s.flushSlices r
    (s, p ++ q)

/-- A recorded pin made again at the line's home, subject to R225. -/
def State.repin (s : State) (p : Nat × PinKind) : State :=
  if (s.home (p.1 * 256)).isNone then s
  else
    let rq : Req := match p.2 with
      | .program asid => { m := .core, hint := 3, asid := asid }
      | _ => { m := .fw, hint := 3 }
    let s := (s.chanRead rq p.1 false).allocate rq { line := p.1, bytes := s.mem.line p.1 } true
    s.pinLine rq p.1

/-- The part of an undefined span inside a range. -/
def Undef.clip (u : Undef) (lo hi : Nat) : List Undef :=
  let a := max u.lo lo
  let b := min (u.lo + u.len) hi
  if a < b then [{ u with lo := a, len := b - a }] else []

/-- A range of device memory moved to another place, which it replaces; the old place reads as zeros. -/
def Mem.move (m : Mem) (src n dst : Nat) : Mem :=
  let inside (a : Nat) : Bool := decide (src ≤ a) && decide (a < src + n)
  let moved : List Host.Cell := (m.cells.filter fun c => inside c.1).map fun c => (c.1 - src + dst, c.2)
  let rest := m.cells.filter fun c => !inside c.1
  let us := m.undef.flatMap fun u => u.clip src (src + n)
  { cells := rest.filter (fun c => decide (c.1 < dst)) ++ moved ++ rest.filter (fun c => decide (dst + n ≤ c.1)),
    undef := (m.undef.flatMap fun u => (u.cut src (src + n)).flatMap fun v => v.cut dst (dst + n)) ++
      us.map fun u => { u with lo := u.lo - src + dst } }

/-- The first address of a channel's private slice (kind 0) or firmware range (kind 3). -/
def chanBase (ch kind : Nat) : Nat := regionOfChan ch * 2 ^ 41 + kind * 2 ^ 39 + ch % 72 * 2 ^ 30

/-- A line of the private slice or of the firmware range of `ch` as the same line of `new`; any other as it is. -/
def chanMoved (ch new line : Nat) : Nat :=
  let k := dpaKind (line * 256)
  if (k = 0 ∨ k = 3) ∧ dpaChan (line * 256) = ch then line - chanBase ch k / 256 + chanBase new k / 256 else line

/-- A page number with its channel field changed. -/
def pageOn (pg new : Nat) : Nat := regionOfChan new * 2 ^ 25 + new % 72 * 2 ^ 14 + pg % 2 ^ 14

/-- The private pages of a channel that mainland maps. -/
def State.privMapped (s : State) (ch : Nat) : List Nat :=
  (s.mapped.filter fun pg => dpaKind (pg * 65536) == 0 && dpaChan (pg * 65536) == ch).eraseDups

/-- A private page of `new` whose place is retired goes to the lowest free page of its channel; without one the retired
page stays in use, and its retirement waits (R278). -/
def State.offRetired (s : State) (pg : Nat) : State :=
  if !s.retiredPage (pg * 65536) then s
  else match (List.range (2 ^ 14)).find? fun i => s.pageFree (pg / 2 ^ 14 * 2 ^ 14 + i) with
    | some i => s.movePage pg (pg / 2 ^ 14 * 2 ^ 14 + i)
    | none => (s.modChannel (dpaChan (pg * 65536)) fun c => { c with retired := c.retired.filter (· != pg) }).modRegion
        (dpaReg (pg * 65536)) fun r => { r with retireWait := r.retireWait ++ [pg] }

/-- Bursts counted at a channel. -/
def State.countBursts (s : State) (ch rd wr : Nat) : State :=
  s.modChannel ch fun c => { c with burstRd := (c.burstRd + rd) % 2 ^ 48, burstWr := (c.burstWr + wr) % 2 ^ 48 }

/-- The private slice and the firmware data of `ch` moved to channel `new`: contents, page table entries, marks, owners and code
classes, and the bursts that copy them; then the pages that fell on retired places move on (R280, R289, Table 08.9 steps 3
and 4). -/
def State.movePrivate (s : State) (ch new : Nat) : State :=
  let pgs := s.privMapped ch
  let base (c : Nat) : Nat := chanBase c 0
  let n := s.privSteps (regionOfChan ch) * 0x80000 + 0x4000
  let s := (s.countBursts ch (if (s.channel ch).lost then 0 else n) 0).countBursts new 0 n
  let s := { s with
    mem := (s.mem.move (base ch) (2 ^ 30) (base new)).move (chanBase ch 3) (2 ^ 22) (chanBase new 3)
    light := (s.light.filter fun f => f / 512 != base new / 2 ^ 30).map fun f =>
      if f / 512 = base ch / 2 ^ 30 then base new / 2 ^ 21 + f % 512 else f
    ptes := s.ptes.map fun (p : Nat × BitVec 64) =>
      if leafDev p.2 && pgs.contains (leafPage p.2) then
        (p.1, BitVec.ofNat 64 (p.2.toNat - leafPage p.2 * 65536 + pageOn (leafPage p.2) new * 65536)) else p
    producers := (List.range 512).foldl (fun m f =>
      put {} (put {} m (base new / 2 ^ 21 + f) (look {} m (base ch / 2 ^ 21 + f))) (base ch / 2 ^ 21 + f) {}) s.producers }
  let s := s.renumber (chanMoved ch new)
  let s := pgs.foldl (fun s pg =>
    { s with owners := put 0 (put 0 s.owners (pageOn pg new) (look 0 s.owners pg)) pg 0 }) s
  pgs.foldl (fun s pg => s.offRetired (pageOn pg new)) s

/-- Lines of channel `i` of a list of `n` among the first `keep` lines of a pool (R219). -/
def poolShare (i n keep : Nat) : Nat :=
  keep / n + if (List.range (keep % n)).any fun j => (homeChannel (keep / n * n + j) n).1 == i then 1 else 0

/-- The bursts of a re-layout counted: every kept line is read at its old place and written at its new one (R282, R289). -/
def State.countRelay (s : State) (ch : Nat) : State :=
  let r := regionOfChan ch
  let good := if (s.region r).dieWide then s.goodDie (r / 2) else s.goodRegion r
  let n := good.length
  let size := sharedLines (s.privSteps r)
  each (List.range n) (fun i s =>
    let c := good.getD i 0
    s.countBursts c (if c = ch && (s.channel ch).lost then 0 else poolShare i n ((n - 1) * size)) (if c = ch then 0 else size)) s

/-- A logical core that goes out of service without a slot to move to: its task and the one it pre-empted wait for redispatch
elsewhere, its number is retired (R280, R426). -/
def State.retireCore (s : State) (l cause : Nat) : State :=
  let x := s.lcore l
  let old := x.slot.getD 0
  let ch := x.channel.getD old
  let s := ((s.lostStop l).dropFrame l).withdrawUrgent l
  let s := s.putLcore l { slot := none, channel := none, retired := true }
  let s := s.modSlot old fun k => { k with status := .fenced }
  let s := s.journal [(1, journalBody [(4, (locOf 2 old).toNat)]), (2, journalBody [(4, (locOf 1 l).toNat)])]
  let s := s.putCore l {}
  (s.record 0x05 1 0x04 0 (locOf 1 l) (detailOf [(0, 2, old), (2, 2, ch), (4, 1, cause)])).dtDue

/-- The mapped lines whose home is a channel. -/
def State.linesOn (s : State) (ch : Nat) : List Nat :=
  (s.mapped.eraseDups).flatMap fun pg => ((List.range 256).map (pg * 256 + ·)).filter fun line =>
    match s.homeRaw (line * 256) with | some h => h.chan == ch | none => false

/-- The pool lines that the pool of a channel holds without it (R281). -/
def State.poolLeft (s : State) (ch : Nat) : Nat :=
  (((s.poolRegions ch).flatMap s.goodRegion).length - 1) * sharedLines (s.privSteps (regionOfChan ch))

/-- The pages that this makes, from the pool's first. -/
def State.poolLimit (s : State) (ch : Nat) : Nat := s.poolLeft ch / 256

/-- The pages of a pool, mapped by mainland, that lie beyond the size the pool has without channel `ch` (R281). -/
def State.beyond (s : State) (ch : Nat) : List Nat :=
  s.mapped.eraseDups.filter fun pg =>
    let a := pg * 65536
    (dpaKind a == 1 || dpaKind a == 2) && (s.poolRegions ch).contains (dpaReg a) && decide (s.poolLeft ch < a % 2 ^ 38 / 256 + 256)

/-- The arrays of the running tasks of some partitions stopped, or resumed (R89, R93); those that a requested pre-emption stops are
left to it. -/
def State.eachArray (s : State) (ls : List Nat) (g : Nat → Nat → State → State) : State :=
  ls.foldl (fun s l => if (s.core l).task.isSome && (s.core l).urgent.isNone then g l 1 (g l 0 s) else s) s

/-- Steps 1 to 5 of Table 08.9. -/
def State.mapOut (s : State) (ch pause : Nat) : State :=
  let rs := s.poolRegions ch
  let lost := (s.channel ch).lost
  let ls := s.logicalCores.filter fun l => rs.contains (regionOfCluster (s.clusterOf l))
  let s := s.eachArray ls fun l a s => s.stopArray l a
  let s := rs.foldl (fun s r => (List.range 8).foldl (fun s i => s.drainCluster (r * 8 + i)) s) s
  let (s, pins) := s.flushSlices (rs.flatMap fun r => (List.range 8).map (r * 8 + ·))
  let gone := if lost then s.linesOn ch else []
  let s := s.countRelay ch
  let owner := s.ownerOf ch
  let partner := owner.bind fun l => s.newPartner l ch
  let s := match owner, partner with
    | some l, some new =>
      let s := s.movePrivate ch new
      let s := s.putLcore l { s.lcore l with channel := some new }
      s.journal [(8, journalBody [(4, (locOf 6 ch).toNat)]),
        (3, journalBody [(4, (locOf 2 (s.slotOf l)).toNat), (4, (locOf 6 new).toNat)])]
    | some l, none => (s.journal [(8, journalBody [(4, (locOf 6 ch).toNat)])]).retireCore l 7
    | none, _ => s.journal [(8, journalBody [(4, (locOf 6 ch).toNat)])]
  let s := s.modChannel ch fun c => { c with mappedOut := true, lost := false, orphaned := false }
  let moved (line : Nat) : Nat := match partner with
    | some new => chanMoved ch new line
    | none => line
  let s := gone.foldl (fun s line => s.loseLine (moved line) 5) s
  let s := pins.foldl (fun s p => s.repin (moved p.1, p.2)) s
  let s := s.eachArray ls fun l a s => s.resumeArray l a
  let s := s.record 0x18 1 0x08 0 (locOf 6 ch) (detailOf [(0, 2, (partner.getD 0xFFFF)), (4, 4, pause)])
  (s.onRegions rs fun r => { r with memState := 0, mapOut := none }).dtDue

/-- A channel is to be mapped out: it has stopped answering, its TSV spares are used up, more than 64 of its pages have been retired,
or its map-out is under way (R280). -/
def State.mapOutDue (s : State) (ch : Nat) : Bool :=
  let c := s.channel ch
  c.lost || c.tsvSpares == 0 || decide (64 < c.retired.length + c.poolRetired) || (s.region (regionOfChan ch)).mapOut == some ch

/-- A page in the top of a pool migrated below its new end: to the page that mainland chose, where it may move there, else to the lowest;
without one it stays (R281). -/
def State.moveDown (s : State) (ch : Nat) (moves : List (Nat × Nat)) (pg : Nat) : State :=
  let ok (n : Nat) : Bool := s.mayMove pg n && decide (n % 2 ^ 22 < s.poolLimit ch)
  let choice := (moves.find? fun m => m.1 == pg && ok m.2).map Prod.snd
  match choice.or (lowestPages ok (s.poolLimit ch) (partSpan pg).1 1).head? with
  | some n => s.movePage pg n
  | none => s

/-- CHANNEL_MAP_OUT: a field map-out. `moves` names the free pages that mainland gives to pages beyond the new pool size; `pause` is
the length of the pause in microseconds, at most 25,000. Without space the channel waits in service with PART_MEM_STATE 3 (R280
to R284). -/
def execChannelMapOut (ch : Nat) (moves : List (Nat × Nat)) (pause : Nat) (s : State) : Host.Outcome State Fault Refusal :=
  unit ch 576 <|
  need s.mainlandUp .unavailable <|
  let rs := s.poolRegions ch
  let r := regionOfChan ch
  need (s.inService ch && s.mapOutDue ch && (s.region r).mapOut.getD ch == ch) .notPending <|
  let s := if (s.region r).mapOut.isSome || (s.channel ch).lost then s
    else s.record 0x17 1 0x10 0 (locOf 6 ch) (detailOf [(0, 1, 1)])
  let s := s.onRegions rs fun r => { r with memState := 2, mapOut := some ch }
  let s := (s.beyond ch).foldl (fun s pg => s.moveDown ch moves pg) s
  .next (if (s.beyond ch).isEmpty then s.mapOut ch (min pause 25000) else s.onRegions rs fun r => { r with memState := 3 })

/-! ### Check bytes (R254, R271) -/

/-- One LIGHT check byte: bit k is the odd parity of data byte 8 j + k. -/
def lightCheck (d : List Byte) (j : Nat) : Byte :=
  BitVec.ofNat 8 (((List.range 8).map fun k =>
    if ((List.range 8).filter fun b => bitAt (d.getD (8 * j + k) 0) b).length % 2 = 0 then 2 ^ k else 0).sum)

/-- The 64 data bytes of codeword `k` of a line as its channel holds them. -/
def State.codeword (s : State) (line k : Nat) : List Byte := lineBytes (s.mem.line line) (64 * k) 64

/-- The 8 check bytes of codeword `k` of a line in its channel: LIGHT parity, or the STRONG code, whose field and generator the spec
does not give, so that its check symbols are a free function of the data (Config.strongCheck; log 97). -/
def State.checkBytes (s : State) (line k : Nat) : List Byte :=
  if s.isLight (line * 256) then (List.range 8).map (lightCheck (s.codeword line k))
  else (List.range 8).map fun j => Config.strongCheck (natOf (s.codeword line k)) j

end Sys2Proof.Machine
end

