-- ==== Sys2Proof/Machine/Guard.lean ====
section
/-! DEFINITION. Guard groups: set-up, guard points with their parity phases, heartbeats, loss, halt, rebuild and resume
(R355 to R366, file 10; R434, R435, file 12). The layout of guard messages is the model's (log 34). -/

namespace Sys2Proof.Machine

/-! ### The guard group (R355) -/

/-- The guard state changed. -/
def State.onGuard (s : State) (g : Guard → Guard) : State := s.onFab fun f => { f with guard := g f.guard }

/-- This package's own ID. -/
def State.myId (s : State) : Nat := s.fab.idApplied.toNat

/-- The packages of the group: data ranks, P, Q and, while there is one, the spare. -/
def Guard.group (g : Guard) : List Nat :=
  (g.members.take g.k ++ [g.pId, g.qId]) ++ if g.noSpare then [] else [g.spareId]

/-- The lowest ID of a list that has not been lost. -/
def Guard.lowest (g : Guard) (l : List Nat) : Option Nat :=
  match l.filter fun p => !g.lostIds.contains p && p < 4096 with
  | [] => none
  | x :: r => some (r.foldl min x)

/-- The domain coordinator and the group coordinator (R355). -/
def Guard.domainCoord (g : Guard) : Option Nat := g.lowest g.domainMembers
def Guard.groupCoord (g : Guard) : Option Nat := g.lowest g.group

/-- The package plays a part in a guard group. -/
def Guard.inForce (g : Guard) : Bool := g.joined || g.setup

/-- Command codes of GUARD messages, in FM_AUX [3:0] (log 34). -/
inductive GCmd where
  | arrive | point | commitP | commitQ | halt | resume | leave | takeover
deriving DecidableEq, Repr

/-- The code of a command. -/
def GCmd.code (c : GCmd) : Nat :=
  match c with
  | .arrive => 0 | .point => 1 | .commitP => 2 | .commitQ => 3 | .halt => 4 | .resume => 5 | .leave => 6 | .takeover => 7

/-- A GUARD message: command and generation in FM_AUX, the domain in FM_COLL_ID, a role in FM_FMT, a variant in FM_STAGE,
a choice in FM_ROP, a package in FM_TAG, a first byte in FM_ADDR and a number in FM_CHUNK (log 34). -/
def mkGuard (c : GCmd) (dst domain gen role stage rop tag addr chunk : Nat) : FMsg :=
  { kind := 10, dst := bits 12 dst, collId := bits 16 domain, aux := bits 32 (c.code + gen * 16), fmt := bits 5 role,
    stage := bits 2 stage, rop := bits 2 rop, tag := bits 16 tag, addr := bits 44 addr, chunk := bits 24 chunk }

/-- The generation that a GUARD message names. -/
def FMsg.gen (m : FMsg) : Nat := m.aux.toNat / 16

/-- A GUARD message to every other package of the domain that has not been lost. -/
def State.toDomain (s : State) (m : FMsg) : State :=
  let g := s.fab.guard
  (g.domainMembers.eraseDups.filter fun p => p != s.myId && !g.lostIds.contains p).foldl (fun s p =>
    s.fabSend { m with dst := bits 12 p }) s

/-! ### GF(2^8) (R356) -/

/-- A byte multiplied by 2 modulo 0x11D. -/
def gfTwice (b : Nat) : Nat := if 128 ≤ b then (2 * b) ^^^ 0x11D else 2 * b

/-- A byte multiplied by 2^n. -/
def gfShift (b : Nat) : Nat → Nat
  | 0 => b
  | n + 1 => gfShift (gfTwice b) n

/-- Bytes multiplied by 2^n; 2^255 = 1, so n = 255 − i divides by 2^i. -/
def gfBytes (n : Nat) (bs : List Byte) : List Byte := bs.map fun b => bits 8 (gfShift b.toNat n)

/-- Bytes combined by XOR. -/
def xorBytes (a b : List Byte) : List Byte := a.zipWith (· ^^^ ·) b

/-! ### Guarded pages (R356, R357, R359) -/

/-- The device page of a guarded page number, through the guarded address space; a page that is not guarded has none. -/
def State.guardPage (s : State) (j : Nat) : Option Nat :=
  let g := s.fab.guard
  match s.leaf g.asid (g.base + j * 65536) with
  | some (e, 3) => if leafDev e && bitAt e 6 then some (leafPage e) else none
  | _ => none

/-- The guarded pages of this package, rising. -/
def State.guardPages (s : State) : List Nat :=
  (List.range (s.fab.guard.size / 65536)).filter fun j => (s.guardPage j).isSome

/-- A page of zeros. -/
def zeroPage : List Byte := List.replicate 65536 0

/-- The content of a page as the package sees it now; zeros where the page is not guarded. -/
def State.pageNow (s : State) (j : Nat) : List Byte := match s.guardPage j with | some p => s.pageValue p | none => zeroPage

/-- The shadow of a generation. -/
def Guard.shadow (g : Guard) (gen j : Nat) : Option (List Byte) :=
  match look [] g.shadows (shadowKey gen j) with | [] => none | d => some d

/-- A page's content at the newest point: its shadow of that generation, else what it holds now (R358). -/
def State.pageAt (s : State) (gen j : Nat) : List Byte := (s.fab.guard.shadow gen j).getD (s.pageNow j)

/-- A page's content at the recovery target: its shadow of generation t, else of t + 1, else what it holds now (R359). -/
def State.pageTarget (s : State) (t j : Nat) : List Byte :=
  ((s.fab.guard.shadow t j).orElse fun _ => s.fab.guard.shadow (t + 1) j).getD (s.pageNow j)

/-- A line written by mainland for the guard group: every copy above is dropped, and the producer record ends (R431). -/
def State.guardLine (s : State) (line : Nat) (d : List Byte) : State :=
  (((s.dirForWrite line).unledger line).arrayWrite { m := .fw } line (atOffset 0 d)).produce line none

/-- A whole guarded page written. -/
def State.guardWrite (s : State) (j : Nat) (d : List Byte) : State :=
  match s.guardPage j with
  | none => s
  | some p => (List.range 256).foldl (fun s i => s.guardLine (p * 256 + i) ((d.drop (256 * i)).take 256)) s

/-- Part of a guarded page combined by XOR with what arrives. -/
def State.guardXor (s : State) (off : Nat) (d : List Byte) : State :=
  match s.guardPage (off / 65536) with
  | none => s
  | some p =>
    let line := p * 256 + off % 65536 / 256
    s.guardLine line (xorBytes (imageOf (s.lineValue line)) (padTo 256 d))

/-! ### Streams of guard data (R358, R359, R361) -/

/-- A BXOR chunk of guard data: the tree tells P (0), Q (1) and rebuild (2) apart; FM_ADDR is the offset in the guarded
range; FM_STAGE 3 ends a stream (log 34). -/
def Guard.chunkMsg (g : Guard) (dst tree role off : Nat) (d : List Byte) (last : Bool) : FMsg :=
  { kind := 7, dst := bits 12 dst, collId := bits 16 g.domain, rop := 3, tree := bits 2 tree, stage := if last then 3 else 2,
    addr := bits 44 off, bytes := 255, chunk := bits 24 role, data := if last then [] else d }

/-- Pages sent as chunks, and the end of the stream. -/
def State.sendPages (s : State) (dst tree role : Nat) (ps : List (Nat × List Byte)) : State :=
  let g := s.fab.guard
  let s := ps.foldl (fun s p => (List.range 256).foldl (fun s i =>
    s.fabSend (g.chunkMsg dst tree role (p.1 * 65536 + 256 * i) ((p.2.drop (256 * i)).take 256) false)) s) s
  s.fabSend (g.chunkMsg dst tree role 0 [] true)

/-- Where a data package sends its part of a parity: the next package toward P or Q in the group's tree, or the parity
package itself (R355; log 39). -/
def Guard.towards (g : Guard) (tree : Nat) : Nat := if tree = 0 then g.treeP.getD g.pId else g.treeQ.getD g.qId

/-- The deltas of a point: pages with a shadow of generation `gen` − 1, as their content at `gen` XOR that shadow; in a
set-up or a recomputation, the content of every guarded page (R356, R358, R362). -/
def State.deltas (s : State) (gen : Nat) (whole : Bool) : List (Nat × List Byte) :=
  let g := s.fab.guard
  if whole then s.guardPages.map fun j => (j, s.pageAt gen j)
  else s.guardPages.filterMap fun j => (g.shadow (gen - 1) j).map fun old => (j, xorBytes (s.pageAt gen j) old)

/-- A data package sends its part of a parity; the Q part is multiplied by 2^i at its source (R358). -/
def State.sendParity (s : State) (tree gen : Nat) (whole : Bool) : State :=
  let g := s.fab.guard
  if g.k ≤ g.role then s
  else
    let ps := s.deltas gen whole
    let ps := if tree = 1 then ps.map fun (p : Nat × List Byte) => (p.1, gfBytes g.role p.2) else ps
    s.sendPages (g.towards tree) tree g.role ps

/-- The role of the package that holds a parity. -/
def parityRole (tree : Nat) : Nat := 16 + tree

/-- A parity package starts a parity over from zeros (R356, R362). -/
def State.clearParity (s : State) : State := s.guardPages.foldl (fun s j => s.guardWrite j zeroPage) s

/-! ### Queues of the group -/

/-- A field of every guarded queue changed. -/
def State.onGuarded (s : State) (f : Queue → Queue) : State :=
  s.queues.foldl (fun s p => if p.2.guarded then s.modQueue p.1 f else s) s

/-- The guarded queues. -/
def State.guardedQueues (s : State) : List Nat := (s.queues.filter fun p => p.2.guarded).map (·.1)

/-- The GUARD descriptor of an operation in progress on a queue. -/
def State.guardDesc (s : State) (q op : Nat) : Option Desc :=
  (s.queue q).descs.find? fun d => d.opc == 10 && fld d.bits 32 2 == op && d.phase == .running

/-- The GUARD descriptors of an operation in progress end with a status. -/
def State.endGuardDescs (s : State) (op : Nat) (st : BitVec 8) : State :=
  s.queues.foldl (fun s p => match s.guardDesc p.1 op with
    | some d => s.descEnd p.1 d.index.toNat st 0
    | none => s) s

/-- The resume mark of a queue at an established point; the two newest are live (R358). -/
def State.setMark (s : State) (gen q : Nat) (d : Desc) : State :=
  s.modQueue q fun x => { x with marks := (x.marks ++ [(gen, d.index + 1)]).reverse.take 2 |>.reverse }

/-- The tasks of a queue, running, requested or pre-empted, leave their cores. -/
def State.clearTasks (s : State) (q : Nat) : State :=
  let s := s.logicalCores.foldl (fun s l =>
    let c := s.core l
    let s := match c.task with
      | some t => if t.queue = q then (((s.undoDrop l).modCore l Core.release).fabForget (.store l)) else s
      | none => s
    let s := match c.urgent with
      | some u => if u.queue = q then s.dropUrgent l else s
      | none => s
    match c.frame with
    | some f => if f.task.queue = q then (s.undoUnpin l 0 c.undoBase).modCore l Core.unframe else s
    | none => s) s
  (List.range 64).foldl (fun s c => s.modCluster c fun x =>
    { x with gangs := x.gangs.filter fun p => decide (p.2.queue ≠ q) }) s

/-- The work in flight of a queue discarded without completion: its tasks leave their cores, its descriptors are gone
(R361). -/
def State.discardQueue (s : State) (q : Nat) : State :=
  let s := s.clearTasks q
  let s := (s.queue q).descs.foldl (fun s d => s.fabForget (.desc q d.index.toNat)) s
  let s := s.onFab fun f => { f with colls := f.colls.filter fun c => c.queue != q }
  s.modQueue q fun x => { x with descs := [] }

/-! ### Points (R358) -/

/-- The parity phase that a package's role takes part in starts. -/
def State.startPhase (s : State) (tree : Nat) : State :=
  let g := s.fab.guard
  let s := s.onGuard fun g => { g with phase := if tree = 0 then .phaseP else .phaseQ, ended := [], finished := [] }
  let s := if g.setup && g.role = parityRole tree then s.clearParity else s
  s.sendParity tree g.gen g.setup

/-- POINT: the point is established; each queue that reached it records its resume mark, and phase P begins. -/
def State.pointAt (s : State) (gen : Nat) : State :=
  let g := s.fab.guard
  let op := if g.setup then 0 else 1
  let s := s.queues.foldl (fun s p => match s.guardDesc p.1 op with
    | some d => s.setMark gen p.1 d
    | none => s) s
  (s.onGuard fun g => { g with gen := gen, arrived := [], arrivedQueues := [] }).startPhase 0

/-- COMMIT_P: the recovery target moves to the new point, and phase Q begins (R358, R359). -/
def State.commitP (s : State) : State := (s.onGuard fun g => { g with target := g.gen }).startPhase 1

/-- COMMIT_Q: the shadows of the older generation are released, and GUARD POINT, or SETUP, completes; its queues are
guarded (R356, R358, R390). -/
def State.commitQ (s : State) : State :=
  let g := s.fab.guard
  let s := s.onGuard fun g =>
    { g with phase := .idle, finished := [], ended := [], joined := true, setup := false,
             shadows := g.shadows.filter fun p => decide (g.gen ≤ p.1 / 2 ^ 36) }
  if g.setup then
    let qs := (s.queues.filter fun p => (s.guardDesc p.1 0).isSome).map (·.1)
    let s := qs.foldl (fun s q => s.modQueue q fun x => { x with guarded := true }) s
    s.endGuardDescs 0 stDone
  else
    let s := s.onGuarded fun x => { x with respan := false, replayTo := none, written := [] }
    s.endGuardDescs 1 stDone

/-- The members of the domain that are still there, as the coordinator knows them. -/
def Guard.present (g : Guard) : List Nat := g.domainMembers.eraseDups.filter fun p => !g.lostIds.contains p

/-- The packages that hold a parity, by the roles that their ARRIVE named. -/
def Guard.holders (g : Guard) (tree : Nat) : List Nat :=
  (g.present).filter fun p => look 0 g.roles p == parityRole tree + 1

/-- The coordinator goes on once it holds all that it waits for: every ARRIVE, or every parity package's end of the phase
(R358). -/
def State.coordStep (s : State) : State :=
  let g := s.fab.guard
  let all (l have_ : List Nat) : Bool := l.all have_.contains
  match g.phase with
  | .phaseP =>
    if all (g.holders 0) g.finished then
      (s.toDomain (mkGuard .commitP 0 g.domain g.gen 0 0 0 0 0 0)).commitP
    else s
  | .phaseQ =>
    if all (g.holders 1) g.finished then
      (s.toDomain (mkGuard .commitQ 0 g.domain g.gen 0 0 0 0 0 0)).commitQ
    else s
  | _ =>
    if !g.arrived.isEmpty && all g.present g.arrived && !g.halted then
      let gen := if g.setup then 0 else g.gen + 1
      (s.toDomain (mkGuard .point 0 g.domain gen 0 0 0 0 0 0)).pointAt gen
    else s

/-- A number added to a list once. -/
def addOnce (l : List Nat) (k : Nat) : List Nat := if l.contains k then l else l ++ [k]

/-- What the domain coordinator is told by a package: stage 0, it has reached its point; 1 and 2, its parity phase is done
(R358). The phases can end at once where no parity package is known, so the step is taken three times. -/
def State.coordHears (s : State) (from_ role stage : Nat) : State :=
  let s := s.onGuard fun g =>
    let g := { g with roles := put 0 g.roles from_ (role + 1) }
    if stage = 0 then { g with arrived := addOnce g.arrived from_ } else { g with finished := addOnce g.finished from_ }
  s.coordStep.coordStep.coordStep

/-- A package tells the domain coordinator, which may be itself. -/
def State.tellCoord (s : State) (stage : Nat) : State :=
  let g := s.fab.guard
  match g.domainCoord with
  | none => s
  | some c =>
    if c = s.myId then s.coordHears c g.role stage
    else s.fabSend (mkGuard .arrive c g.domain g.gen g.role stage 0 0 0 0)

/-- ARRIVE is sent once every guarded queue has reached its POINT and no parity is being recomputed here (R358, R362, R390). -/
def State.tryArrive (s : State) : State :=
  let g := s.fab.guard
  let qs := if g.setup then g.setupQueue.toList else s.guardedQueues
  if g.recompute || g.halted || g.phase != .idle || qs.isEmpty || !qs.all g.arrivedQueues.contains then s
  else (s.onGuard fun g => { g with phase := .arriving }).tellCoord 0

/-! ### Loss, halt and resume (R359 to R366) -/

/-- The recovery target and whether the rebuild uses Q: while phase P runs the target is the older point, and Q still holds
it (R359). -/
def Guard.recovery (g : Guard) : Nat × Bool := (g.target, g.phase == .phaseP)

/-- The parity whose phase a loss interrupts, to be recomputed after RESUME: 1 P, 2 Q, 0 none (R362). -/
def Guard.interrupted (g : Guard) : Nat := match g.phase with | .phaseP => 1 | .phaseQ => 2 | _ => 0

/-- The guarded queues of this package end with DEVICE_LOST, case 1: each descriptor in flight (R366, R458). -/
def State.endGuarded (s : State) : State :=
  let qs := s.guardedQueues
  let first := (qs.findSome? fun q => ((s.queue q).descs.head?).map fun d => (q, d.index.toNat)).getD (0, 0)
  let s := qs.foldl (fun s q =>
    let s := (s.queue q).descs.foldl (fun s d => s.descFail q d.index.toNat stLost) s
    (s.clearTasks q).modQueue q fun x => { x with halted := false, guarded := false, marks := [] }) s
  let s := s.onFab fun f => { f with guard := {}, colls := f.colls.filter fun c => !qs.contains c.queue }
  s.record 0x3F 6 0x0F stLost.toNat (locOf 12 s.myId) (detailOf [(0, 1, 1), (4, 4, first.1), (8, 4, first.2)])

/-- HALT: guarded queues stop dispatch, their work in flight is discarded, and a data package restores its guarded pages to
the target (R361 steps 4 and 5). -/
def State.haltAt (s : State) (target : Nat) : State :=
  let g := s.fab.guard
  let s := s.guardedQueues.foldl State.discardQueue s
  let s := s.onGuarded fun x => { x with halted := true }
  let s :=
    if g.role < g.k then
      (s.guardPages.filter fun j => (g.shadow target j).isSome || (g.shadow (target + 1) j).isSome).foldl (fun s j =>
        s.guardWrite j (s.pageTarget target j)) s
    else s
  s.onGuard fun g => { g with halted := true, phase := .idle, gen := target, target := target, shadows := [], arrived := [],
                              finished := [], arrivedQueues := [], ended := [] }

/-- A package of the group sends the pages that a rebuild asks for, at the target: data multiplied for Q by 2^i, parity as
it is (R359, R361 step 7, R434). `role`: whose pages; `useQ`: from Q. -/
def State.sendRebuild (s : State) (dest role lo n : Nat) (useQ : Bool) : State :=
  let g := s.fab.guard
  let mine := (List.range n).map (lo + ·)
  let part : Bool := (decide (g.role < g.k) && g.role != role) || g.role == (if useQ then 17 else 16)
  if !part || dest = s.myId then s
  else
    let ps := mine.filterMap fun j => (s.guardPage j).map fun _ =>
      (j, if useQ && g.role < g.k then gfBytes g.role (s.pageNow j) else s.pageNow j)
    s.sendPages dest 2 g.role ps

/-- The domain halts, and the group sends what a rebuild needs; the coordinator does its own part too. -/
def State.orderRebuild (s : State) (target role dest lo n : Nat) (useQ : Bool) : State :=
  let g := s.fab.guard
  let m := mkGuard .halt 0 g.domain target role 1 (bit01 useQ) dest (lo * 65536) n
  let s := s.onGuard fun x => { x with again := if x.again = 0 then g.interrupted else x.again }
  ((s.toDomain m).haltAt target).sendRebuild dest role lo n useQ

/-- A rebuild asked of the domain coordinator: the variant 3 of ARRIVE (log 34). -/
def State.askRebuild (s : State) (lo n : Nat) : State :=
  let g := s.fab.guard
  match g.domainCoord with
  | none => s
  | some c =>
    let (t, q) := g.recovery
    if c = s.myId then s.orderRebuild t g.role s.myId lo n (q || g.useQ)
    else s.fabSend (mkGuard .arrive c g.domain g.gen g.role 3 0 s.myId (lo * 65536) n)

/-- RESUME at a queue: it runs again every descriptor after its mark at the target; those that had completed write no
second entry (R361, R365). -/
def Queue.restart (x : Queue) (target : Nat) : Queue :=
  match x.marks.find? fun m => m.1 == target with
  | none => { x with halted := false }
  | some (_, mark) =>
    let done := ((List.range (x.retire - mark).toNat).map fun i => mark + bits 32 i) ++ x.doneIdx
    { x with halted := false, fetch := mark, descs := [], replayTo := some x.fetch, respan := true,
             written := if (x.retire - mark).toNat < 65536 then x.written ++ done else x.written,
             marks := x.marks.filter fun m => decide (m.1 ≤ target) }

/-- RESUME: guarded queues restart; the parity whose phase was interrupted is recomputed from the data (R361, R362). -/
def State.resumeAt (s : State) (target parity : Nat) : State :=
  let s := s.onGuarded fun x => if x.halted then x.restart target else x
  let s := s.onGuard fun g => { g with halted := false, rebuildFor := 0, useQ := false, again := 0, unspared := false, redoing := parity != 0 }
  if parity = 0 then s
  else
    let tree := parity - 1
    let s :=
      if s.fab.guard.role = parityRole tree then (s.onGuard fun g => { g with recompute := true, ended := [] }).clearParity
      else s
    s.sendParity tree s.fab.guard.gen true

/-- The coordinator resumes the domain, with a GUARD_RESUME record (R361 step 8). -/
def State.orderResume (s : State) : State :=
  let g := s.fab.guard
  let parity := g.again
  let s := s.toDomain (mkGuard .resume 0 g.domain g.target 0 0 parity 0 0 0)
  let s := s.resumeAt g.target parity
  let s := s.touch
  s.record 0x3B 6 0x0A 0 (locOf 12 s.myId) (detailOf [(0, 2, g.domain), (4, 4, (s.ticks - g.lostAt).toNat / 25000)])

/-- The domain coordinator acts on a loss: for data it halts the domain at the target; in every case but the spare's own it
sends the spare to take the lost ID; parity is recomputed without a halt (R361, R362). -/
def State.domainLoss (s : State) (id role spare : Nat) : State :=
  let g := s.fab.guard
  let (t, q) := g.recovery
  let again := if g.again = 0 then g.interrupted else g.again
  let s := s.onGuard fun g => { g with lostAt := s.ticks, lostIds := addOnce g.lostIds id }
  let s :=
    if role < 16 then
      ((s.toDomain (mkGuard .halt 0 g.domain t role 0 (bit01 q) id 0 0)).haltAt t).onGuard fun g =>
        { g with useQ := q, again := again }
    else s
  if role = 18 || 4096 ≤ spare then s
  else s.fabSend (mkGuard .takeover spare g.domain t role 0 (bit01 q) id 0 0)

/-- Every guarded queue of the domain ends: HALT of variant 2 (R366; log 34). -/
def State.orderEnd (s : State) : State := (s.toDomain (mkGuard .halt 0 s.fab.guard.domain 0 0 2 0 0 0 0)).endGuarded

/-- The role of a package in this group. -/
def Guard.roleOf (g : Guard) (id : Nat) : Nat :=
  if id = g.pId then 16 else if id = g.qId then 17
  else if (g.members.take g.k).contains id then (g.members.take g.k).findIdx (· == id) else 18

/-- A member of this group is declared lost: recorded, and the domain coordinator is told. A loss before SETUP completes, or
of a second package before the rebuild ends, ends the domain's guarded queues (R360, R361, R366). -/
def State.declareLost (s : State) (id : Nat) : State :=
  let g := s.fab.guard
  let role := g.roleOf id
  let spare := if g.noSpare then 0xFFFF else g.spareId
  let s := s.record 0x38 6 0x10 0 (locOf 12 id) (detailOf [(0, 2, g.domain), (2, 1, role)])
  if g.setup || (role != 18 && (!g.lostIds.isEmpty || g.redoing)) || (role == 18 && g.halted) then s.orderEnd
  else
    let s := s.onGuard fun g =>
      { g with lostIds := if role = 18 then g.lostIds else addOnce g.lostIds id, noSpare := true,
               unspared := g.unspared || (role != 18 && g.noSpare) }
    if role = 18 then s
    else match s.fab.guard.domainCoord with
      | none => s
      | some c =>
        if c = s.myId then s.domainLoss id role spare
        else s.fabSend (mkGuard .leave c g.domain g.gen role 1 0 id 0 spare)

/-! ### Guard data that arrives -/

/-- A parity package has the streams of every data package: the phase, or its recomputation, is done here, which the domain hears in
RESUME of variant 1 (R358, R362; log 34). -/
def State.parityDone (s : State) (tree : Nat) : State :=
  let g := s.fab.guard
  if g.recompute then
    let s := s.onGuard fun g => { g with recompute := false, redoing := false, ended := [] }
    ((s.toDomain (mkGuard .resume 0 g.domain g.gen 0 1 0 0 0 0)).tellCoord (tree + 1)).tryArrive
  else (s.onGuard fun g => { g with ended := [] }).tellCoord (tree + 1)

/-- A rebuild has every stream: the pages are written at the target, and the coordinator hears of it (R359, R361, R434). -/
def State.rebuildDone (s : State) : State :=
  let g := s.fab.guard
  let n := g.rebuild.length
  let s := g.rebuild.foldl (fun s p => s.guardWrite p.1 (if g.useQ then gfBytes (255 - g.role) p.2 else p.2)) s
  let s := s.onGuard fun g => { g with rebuild := [], ended := [], rebuildFor := 0, restored := n, adopted := false }
  let s := s.record 0x3A 6 0x0A 0 (locOf 12 s.myId) (detailOf [(0, 2, g.domain), (4, 4, n)])
  let s := s.endGuardDescs 2 stDone
  match s.fab.guard.domainCoord with
  | none => s
  | some c =>
    if c = s.myId then s.orderResume else s.fabSend (mkGuard .arrive c g.domain g.gen g.role 3 1 s.myId 0 0)

/-- A BXOR chunk: parity data is combined into its page at the parity package and passed on by any other; a rebuild's
data is combined where the pages are lost (R351, R358, R361). -/
def State.guardChunk (s : State) (m : FMsg) : State :=
  let g := s.fab.guard
  let tree := m.tree.toNat
  let off := m.addr.toNat
  let last := m.stage == 3
  if tree < 2 then
    if g.role ≠ parityRole tree then s.fabSend { m with dst := bits 12 (g.towards tree) }
    else if !last then s.guardXor off m.data
    else
      let ended := addOnce g.ended m.chunk.toNat
      let s := s.onGuard fun g => { g with ended := ended }
      if (List.range g.k).all ended.contains then s.parityDone tree else s
  else if !last then
    let j := off / 65536
    let o := off % 65536
    let page := match look [] g.rebuild j with | [] => zeroPage | p => p
    let page := page.take o ++ xorBytes ((page.drop o).take 256) (padTo 256 m.data) ++ page.drop (o + 256)
    s.onGuard fun g => { g with rebuild := put [] g.rebuild j page }
  else
    let ended := addOnce g.ended m.chunk.toNat
    let s := s.onGuard fun g => { g with ended := ended }
    if g.k ≤ ended.length then s.rebuildDone else s

/-- COLL: a chunk of a collective, or of guard data, or an abort, arrives (R351, R353, R358; log 34). -/
def execColl (m : FMsg) (s : State) : Host.Outcome State Fault Refusal :=
  receive 7 m (fun m s =>
    if m.rop = 3 then s.guardChunk m else if m.stage = 3 then s.collAborted m.collId.toNat else s.collArrive m) s

/-! ### GUARD messages -/

/-- A GUARD message of a command, for this package's domain. -/
def guardMsg (c : GCmd) (m : FMsg) (k : State → State) (s : State) : Host.Outcome State Fault Refusal :=
  receive 10 { m with aux := bits 32 (m.aux.toNat / 16 * 16 + c.code) } (fun _ s => if s.fab.guard.inForce && s.fab.guard.domain = m.collId.toNat then k s else s) s

/-- ARRIVE: the domain coordinator hears of an arrival, of the end of a parity phase, of the end of a rebuild, or of a
rebuild asked for (R358, R361, R434). -/
def execArrive (m : FMsg) (s : State) : Host.Outcome State Fault Refusal :=
  guardMsg .arrive m (fun s =>
    if m.stage.toNat < 3 then s.coordHears m.src.toNat m.fmt.toNat m.stage.toNat
    else if m.rop = 1 then s.orderResume
    else
      let (t, q) := s.fab.guard.recovery
      s.orderRebuild t m.fmt.toNat m.tag.toNat (m.addr.toNat / 65536) m.chunk.toNat (q || s.fab.guard.useQ)) s

/-- POINT. -/
def execPoint (m : FMsg) (s : State) : Host.Outcome State Fault Refusal := guardMsg .point m (fun s => s.pointAt m.gen) s

/-- COMMIT_P. -/
def execCommitP (m : FMsg) (s : State) : Host.Outcome State Fault Refusal := guardMsg .commitP m (fun s => s.commitP) s

/-- COMMIT_Q. -/
def execCommitQ (m : FMsg) (s : State) : Host.Outcome State Fault Refusal := guardMsg .commitQ m (fun s => s.commitQ) s

/-- HALT: variant 0 after a loss, 1 with the pages that a rebuild needs, 2 when the domain's guarded queues end (R361, R366). -/
def execHalt (m : FMsg) (s : State) : Host.Outcome State Fault Refusal :=
  guardMsg .halt m (fun s =>
    match m.stage.toNat with
    | 2 => s.endGuarded
    | 1 => ((s.haltAt m.gen).onGuard fun g => { g with useQ := m.rop == 1 }).sendRebuild m.tag.toNat m.fmt.toNat
        (m.addr.toNat / 65536) m.chunk.toNat (m.rop == 1)
    | _ => (s.haltAt m.gen).onGuard fun g => { g with useQ := m.rop == 1, lostIds := addOnce g.lostIds m.tag.toNat }) s

/-- RESUME; in variant 1 a parity package says that its recomputation has ended (log 34). -/
def execResume (m : FMsg) (s : State) : Host.Outcome State Fault Refusal :=
  guardMsg .resume m (fun s => if m.stage = 1 then s.onGuard fun g => { g with redoing := false } else (s.resumeAt m.gen m.rop.toNat).onGuard fun g => { g with lostIds := [] }) s

/-- GUARD_LEAVE: a member leaves and is declared lost at once (R363); or a group coordinator tells the domain coordinator of
a loss in its group, variant 1 (R361; log 34). -/
def execGuardLeave (m : FMsg) (s : State) : Host.Outcome State Fault Refusal :=
  guardMsg .leave m (fun s =>
    if m.stage = 1 then s.domainLoss m.tag.toNat m.fmt.toNat m.chunk.toNat else s.declareLost m.src.toNat) s

/-- TAKEOVER: the spare releases its ID and takes the lost package's ID, in its role; taking a parity role it starts that
parity over, and the data packages are asked for it (R361, R362, R364). -/
def execTakeover (m : FMsg) (s : State) : Host.Outcome State Fault Refusal :=
  guardMsg .takeover m (fun s =>
    let g := s.fab.guard
    if g.role ≠ 18 then s
    else
      let role := m.fmt.toNat
      let s := (s.releaseId.dropId).takeId (m.tag.toNat % 4096) true
      let s := s.record 0x39 6 0x0D 0 (locOf 12 s.myId) (detailOf [(0, 2, g.domain), (2, 4, m.gen)])
      let s := s.onGuard fun g =>
        { g with role := role, noSpare := true, spareId := 0xFFFF, useQ := m.rop == 1, rebuildFor := role + 1,
                 gen := m.gen, target := m.gen, lostIds := [] }
      if role < 16 then s
      else
        let parity := role - 15
        (s.toDomain (mkGuard .resume 0 g.domain m.gen 0 0 parity 0 0 0)).resumeAt m.gen parity) s

/-! ### Heartbeats (R360) -/

/-- The other packages of the group. -/
def State.groupPeers (s : State) : List Nat :=
  (s.fab.guard.group.eraseDups).filter fun p => p != s.myId && p < 4096 && !s.fab.guard.lostIds.contains p

/-- HEARTBEAT: the sender has been heard (R360). -/
def execHeartbeat (m : FMsg) (s : State) : Host.Outcome State Fault Refusal := receive 8 m (fun m s =>
  s.onGuard fun g => { g with beats := put 0 g.beats m.src.toNat 0 }) s

/-- HEARTBEAT_TIMER: every 10 ms a HEARTBEAT goes to each other member, and their silence counts on (R360). -/
def execHeartbeatTimer (s : State) : Host.Outcome State Fault Refusal :=
  need (s.mainlandUp && s.fab.joined) .unavailable <|
  need s.fab.guard.inForce .notPending <|
  .next (s.groupPeers.foldl (fun s p =>
    (s.onGuard fun g => { g with
      heard := put 0 g.heard p (look 0 g.heard p + 1), beats := put 0 g.beats p (look 0 g.beats p + 1) }).fabSend { kind := 8, dst := bits 12 p }) s)

/-- SELF_FENCE: no heartbeat from any group member for 30 ms; the guarded queues stop and the package gives up its ID (R360,
R363). -/
def execSelfFence (s : State) : Host.Outcome State Fault Refusal :=
  need s.mainlandUp .unavailable <|
  need (s.fab.joined && s.fab.guard.inForce && s.groupPeers.all fun p => decide (3 ≤ look 0 s.fab.guard.beats p)) .notPending <|
  let s := s.guardedQueues.foldl State.discardQueue (s.giveUpId fun _ => stAborted)
  .next (s.onGuarded fun x => { x with halted := true })

/-- LOSS_DECLARED: the group coordinator has heard nothing from a member for 50 ms (R360). -/
def execLossDeclared (id : Nat) (s : State) : Host.Outcome State Fault Refusal :=
  unit id 4096 <|
  need s.mainlandUp .unavailable <|
  need (s.fab.joined && s.fab.guard.inForce && s.fab.guard.groupCoord == some s.myId && s.groupPeers.contains id &&
    decide (5 ≤ look 0 s.fab.guard.heard id)) .notPending <|
  .next (s.declareLost id)

/-- NO_SPARE_TIMEOUT: a loss in a group that has had no spare for 60 s ends the domain's guarded queues (R366). -/
def execNoSpareTimeout (s : State) : Host.Outcome State Fault Refusal :=
  need s.mainlandUp .unavailable <|
  need (s.fab.joined && s.fab.guard.inForce && s.fab.guard.unspared) .notPending <|
  .next s.orderEnd

/-- A package leaves its guard group as though it were lost: it tells its group coordinator and gives up its ID; each queue's
fabric work ends with the status that `st` gives (R363, R384, R505). -/
def State.guardLeave (s : State) (st : Nat → BitVec 8) : State :=
  let g := s.fab.guard
  let s :=
    if !(s.fab.joined && g.inForce) then s
    else match g.lowest (g.group.filter (· != s.myId)) with
      | some c => s.fabSend (mkGuard .leave c g.domain g.gen g.role 0 0 s.myId 0 0)
      | none => s
  s.giveUpId st

/-- PAGE_REBUILD: a data package asks its domain coordinator for a rebuild of `n` guarded pages from page `lo`, which hold
lost codewords; above 1 GiB it self-fences instead. A parity package asks the data packages anew (R434, R435). -/
def execPageRebuild (lo n : Nat) (s : State) : Host.Outcome State Fault Refusal :=
  need (s.mainlandUp && s.fab.joined) .unavailable <|
  let g := s.fab.guard
  need (g.joined && s.lost.any fun x => (match s.guardedPage x.addr with
    | some j => decide (lo ≤ j) && decide (j < lo + n)
    | none => false) && s.lossSource x.addr != 0) .notPending <|
  if g.role < g.k then
    if 16384 < n then
      let s := s.guardedQueues.foldl State.discardQueue (s.giveUpId fun _ => stAborted)
      .next (s.onGuarded fun x => { x with halted := true })
    else .next ((s.onGuard fun g => { g with rebuildFor := g.role + 1 }).askRebuild lo n)
  else
    need (decide (16 ≤ g.role) && decide (g.role ≤ 17)) .notPending <|
    let parity := g.role - 15
    .next ((s.toDomain (mkGuard .resume 0 g.domain g.gen 0 0 parity 0 0 0)).resumeAt g.gen parity)

/-! ### GUARD descriptors (Table 11.18, R356, R358, R361) -/

/-- The group record's fields (Table 10.10). -/
def Guard.ofRecord (g : Guard) (r : List Byte) (asid : Nat) : Guard :=
  { g with
    domain := numAt r 2 2, domainSize := numAt r 4 2, k := numAt r 6 1, role := numAt r 7 1
    members := (List.range 16).map fun i => numAt r (8 + 2 * i) 2
    pId := numAt r 0x28 2, qId := numAt r 0x2A 2, spareId := numAt r 0x2C 2, base := numAt r 0x30 8, size := numAt r 0x38 8
    shadowMib := numAt r 0x40 4, domainComm := numAt r 0x48 8, groupComm := numAt r 0x50 8, asid := asid }

/-- The group record is valid (Table 10.10; log 40). -/
def recordOk (r : List Byte) : Bool :=
  let k := numAt r 6 1
  let role := numAt r 7 1
  numAt r 0 2 == 1 && decide (1 ≤ k) && decide (k ≤ 16) && (decide (role < k) || (decide (16 ≤ role) && decide (role ≤ 18))) &&
  numAt r 0x30 8 % 65536 == 0 && numAt r 0x38 8 % 65536 == 0 && decide (numAt r 0x38 8 ≤ 448 * 2 ^ 30)

/-- The parent of a communicator record in a tree; none at a root or without such a tree. -/
def commParent (r : List Byte) (t : Nat) : Option Nat :=
  let p := numAt r (0x40 + 64 * t) 2
  if t < numAt r 6 1 && p < 4096 then some p else none

/-- What a GUARD descriptor reads: the group record, the domain's communicator and, where it is named, the group's. -/
def State.guardReads (s : State) (q : Nat) (d : Desc) (k : State → List Byte → List Nat → List Byte → State) : State :=
  let i := d.index.toNat
  let g := s.deskCtx q i
  State.after q i (s.gRead g d.hint (fld d.bits 64 64) 128) fun s r =>
    if !recordOk r then s.descFail q i stBadDesc
    else State.after q i (s.gRead g d.hint (numAt r 0x48 8) 0x140) fun s dc =>
      if !commOk dc then s.descFail q i stBadDesc
      else State.after q i (s.gRead g d.hint (numAt r 0x48 8 + 0x140) (2 * numAt dc 2 2)) fun s ms =>
        let dm := (List.range (numAt dc 2 2)).map fun k => numAt ms (2 * k) 2
        if numAt r 0x50 8 = 0 then k (s.readsDone q i) r dm []
        else State.after q i (s.gRead g d.hint (numAt r 0x50 8) 0x140) fun s gc => k (s.readsDone q i) r dm gc

/-- A new spare named while a loss waits for one takes the lost package's part: the group coordinator tells the domain's of the loss
again (R362, R366). -/
def State.newSpare (s : State) : State :=
  let g := s.fab.guard
  match g.lostIds.find? fun p => g.roleOf p != 18 with
  | some id =>
    if g.unspared && g.groupCoord == some s.myId then
      let s := s.onGuard fun g => { g with unspared := false, noSpare := true }
      match g.domainCoord with
      | some c => if c = s.myId then s.domainLoss id (g.roleOf id) g.spareId
        else s.fabSend (mkGuard .leave c g.domain g.gen (g.roleOf id) 1 0 id 0 g.spareId)
      | none => s
    else s
  | none => s

/-- A SETUP: joins a group, names a new spare of the group in force, or adds a queue to it (R356, R361, R390). -/
def State.guardSetup (s : State) (q i : Nat) (r : List Byte) (dm : List Nat) (gc : List Byte) : State :=
  let g := s.fab.guard
  if g.joined then
    if g.domain = numAt r 2 2 then
      let s := s.onGuard fun g => { g with spareId := numAt r 0x2C 2, noSpare := false }
      let s := s.newSpare
      ((s.modQueue q fun x => { x with guarded := true }).descEnd q i stDone 0)
    else s.descFail q i stBadDesc
  else if g.setup then s
  else
    let s := s.onGuard fun _ => { (({} : Guard).ofRecord r (s.queue q).set.asid) with
      setup := true, setupQueue := some q, domainMembers := dm, treeP := commParent gc 0, treeQ := commParent gc 1,
      arrivedQueues := [q] }
    s.tryArrive

/-- The guard of every GUARD descriptor: its operation, an ID to send with, and a record at a multiple of 64 (R335, R391). -/
def onGuardDesc (op q i : Nat) (k : Desc → State → State) (s : State) : Host.Outcome State Fault Refusal :=
  match s.live? q i with
  | some d =>
    need (fld d.bits 32 2 == op || (op == 0 && fld d.bits 32 2 == 3)) .notPending <|
    onDesc 10 q i (fun s => decide (s.collOpen < 16)) (fun d s =>
      if fld d.bits 32 2 = 3 || fld d.bits 64 64 % 64 ≠ 0 then s.descFail q i stBadDesc
      else if !s.fab.joined then s.descFail q i stAccess
      else k d s) s
  | none => onDesc 10 q i (fun _ => true) k s

/-- GUARD_SETUP. -/
def execGuardSetup (q i : Nat) (s : State) : Host.Outcome State Fault Refusal :=
  onGuardDesc 0 q i (fun d s =>
    if s.fab.guard.setup && s.fab.guard.setupQueue == some q then s
    else s.guardReads q d fun s r dm gc => s.guardSetup q i r dm gc) s

/-- GUARD_POINT: the queue has reached its point (R358). On a queue that is not guarded it is a bad descriptor (log 40). -/
def execGuardPoint (q i : Nat) (s : State) : Host.Outcome State Fault Refusal :=
  onGuardDesc 1 q i (fun _ s =>
    if !(s.queue q).guarded then s.descFail q i stBadDesc
    else (s.onGuard fun g => { g with arrivedQueues := addOnce g.arrivedQueues q }).tryArrive) s

/-- GUARD_ADOPT: the spare, which has taken the lost ID, asks for the content of its guarded pages (R361 steps 6 and 7). -/
def execGuardAdopt (q i : Nat) (s : State) : Host.Outcome State Fault Refusal :=
  onGuardDesc 2 q i (fun d s =>
    if s.fab.guard.adopted then s
    else s.guardReads q d fun s r dm gc =>
      let role := numAt r 7 1
      if !s.fab.adopted || s.fab.guard.rebuildFor ≠ role + 1 then s.descFail q i stBadDesc
      else
        let s := s.onGuard fun g => { (g.ofRecord r (s.queue q).set.asid) with
          joined := true, adopted := true, domainMembers := dm, treeP := commParent gc 0, treeQ := commParent gc 1 }
        (s.modQueue q fun x => { x with guarded := true }).askRebuild 0 (s.fab.guard.size / 65536)) s

end Sys2Proof.Machine
end

