-- ==== Sys2Proof/Machine/Engines.lean ====
section
/-! DEFINITION. Descriptors of the hub engines and the queue engine: NOP, LAUNCH, COPY, FILL, CHECK, FENCE, SIGNAL, WAIT, their
watchdog and their completion entries (R132, file 04; R388, R390 to R394, R402 to R410, file 11). -/

namespace Sys2Proof.Machine

/-- NOP_DESCRIPTOR: completes with DONE (R388). -/
def execNopDescriptor (q i : Nat) (s : State) : Host.Outcome State Fault Refusal :=
  onDesc 0 q i (fun _ => true) (fun _ s => s.descEnd q i stDone 0) s

/-! ### LAUNCH (R129, R132, file 04; Tables 11.15, 11.20) -/

/-- L_NRANGES. -/
def Desc.nranges (d : Desc) : Nat := fld d.bits 208 4
/-- L_RANGES. -/
def Desc.rangesAt (d : Desc) : Nat := fld d.bits 256 64

/-- An URGENT limit of Table 04.2 is exceeded. -/
def Desc.overUrgent (d : Desc) : Bool := decide (4 < d.groups) || decide (64 < d.vregs) || d.gang != 1

/-- The causes by which a LAUNCH's own fields end it. -/
def State.launchBad (s : State) (q : Nat) (d : Desc) : List (BitVec 8) :=
  let x := (s.queue q).set
  (if fld d.bits 64 64 % 8 ≠ 0 || d.gang = 0 || 8 < d.gang || 8 < d.nranges ||
      (d.nranges ≠ 0 && d.rangesAt % 16 ≠ 0) || (x.prio = .urgent && d.overUrgent) then [stBadDesc] else []) ++
  (if s.gangShort x.part d.gang then [stCapacity] else [])

/-- The range list from its bytes. -/
def rangesOf (n : Nat) (d : List Byte) : List Range :=
  (List.range n).map fun i => { base := numAt d (16 * i) 8, len := numAt d (16 * i + 8) 8 }

/-- LAUNCH: the descriptor's checks, then its range list; its tasks may then be dispatched (R132, R391, R418). -/
def execLaunch (q i : Nat) (s : State) : Host.Outcome State Fault Refusal :=
  need (!((s.live? q i).elim false (·.launch.loaded))) .notPending <|
  onDesc 1 q i (fun _ => true) (fun d s =>
    match worstOf (s.launchBad q d) with
    | some st => s.descFail q i st
    | none =>
      State.after q i (s.gRead (s.deskCtx q i) d.hint d.rangesAt (16 * d.nranges)) fun s data =>
        let rs := rangesOf d.nranges data
        let s := s.readsDone q i
        if rs.all fun r => r.base % 256 == 0 && r.len % 256 == 0 then
          s.modDesc q i fun d => { d with launch := { d.launch with ranges := rs, loaded := true } }
        else s.descFail q i stBadDesc) s

/-! ### COPY and FILL (R390, R402, R403) -/

/-- The rows of one side of a COPY: first address, stride, rows, bytes of a row. -/
structure Rows where
  /-- address of row 0 -/
  base : Nat
  /-- stride, modulo 2^64 -/
  stride : Nat
  /-- rows -/
  n : Nat
  /-- bytes of a row -/
  len : Nat

/-- Address of a byte of a row. -/
def Rows.at_ (r : Rows) (row o : Nat) : Nat := (r.base + row * r.stride + o) % 2 ^ 64

/-- The rows hold an address; a stride above 2^63 runs downward. -/
def Rows.holds (r : Rows) (a : Nat) : Bool :=
  let (base, stride) := if r.stride < 2 ^ 63 then (r.base, r.stride)
    else ((r.base + (r.n - 1) * r.stride) % 2 ^ 64, 2 ^ 64 - r.stride)
  let row := if stride = 0 then 0 else min (r.n - 1) ((a - base) / stride)
  decide (base ≤ a) && decide (a - base - row * stride < r.len)

/-- The source of a COPY. -/
def Desc.copySrc (d : Desc) : Rows := ⟨fld d.bits 64 64, fld d.bits 256 64, fld d.bits 384 32 + 1, fld d.bits 192 40⟩
/-- The destination of a COPY. -/
def Desc.copyDst (d : Desc) : Rows := ⟨fld d.bits 128 64, fld d.bits 320 64, fld d.bits 384 32 + 1, fld d.bits 192 40⟩
/-- C_NOTIFY_ADDR. -/
def Desc.notifyAt (d : Desc) : Nat := fld d.bits 448 64
/-- C_NOTIFY_VAL. -/
def Desc.notifyVal (d : Desc) : Nat := fld d.bits 32 32

/-- Pieces of a row: 256 bytes each. -/
def Rows.perRow (r : Rows) : Nat := (r.len + 255) / 256
/-- Pieces of all rows. -/
def Rows.pieces (r : Rows) : Nat := r.n * r.perRow
/-- Row, offset and bytes of a piece. -/
def Rows.piece (r : Rows) (k : Nat) : Nat × Nat × Nat :=
  let o := 256 * (k % r.perRow)
  (k / r.perRow, o, min 256 (r.len - o))

/-- Every byte of a run is read from device memory of this package or from host memory (R431). -/
def State.homeSource (s : State) (asid a n : Nat) : Bool :=
  (linePieces a n).all fun p => match s.gPlace asid p.1 .r with | some (.dev _) => true | some (.host _) => true | _ => false

/-- One piece of a COPY moved; bytes that are both source and destination leave free values (R403; log 4). -/
def State.copyPiece (s : State) (q i : Nat) (d : Desc) (k : Nat) : GOut :=
  let src := d.copySrc
  let dst := d.copyDst
  let (row, o, n) := src.piece k
  let x := s.gRead (s.deskCtx q i) d.hint (src.at_ row o) n
  if !x.ok then x
  else
    let (bs, s) := x.s.freeWhere x.data fun j => src.holds (dst.at_ row (o + j)) || dst.holds (src.at_ row (o + j))
    let s := s.readsDone q i
    let prod := if s.homeSource (s.queue q).set.asid (src.at_ row o) n then some (q, i, 0) else none
    s.gWrite { s.deskCtx q i with prod := prod } d.hint (dst.at_ row o) bs

/-- Bytes that a FILL writes. -/
def Desc.fillBytes (d : Desc) : Nat := fld d.bits 128 64
/-- Pattern bytes of a FILL. -/
def Desc.patSize (d : Desc) : Nat := 2 ^ fld d.bits 32 2

/-- One piece of a FILL: 256 bytes of the pattern, repeated from F_DST (R390). -/
def State.fillPiece (s : State) (q i : Nat) (d : Desc) (k : Nat) : GOut :=
  let n := min 256 (d.fillBytes - 256 * k)
  let bs := (List.range n).map fun j => bits 8 (fld d.bits 192 64 >>> (8 * ((256 * k + j) % d.patSize)))
  s.gWrite { s.deskCtx q i with prod := some (q, i, 0) } d.hint ((fld d.bits 64 64 + 256 * k) % 2 ^ 64) bs

/-- Pieces that a COPY or FILL moves. -/
def Desc.movePieces (d : Desc) : Nat := if d.opc = 2 then d.copySrc.pieces else (d.fillBytes + 255) / 256

/-- Bytes that a COPY or FILL writes. -/
def Desc.moveBytes (d : Desc) : Nat := if d.opc = 2 then d.copySrc.n * d.copySrc.len else d.fillBytes

/-- A COPY's own fields, or a FILL's, end it (Table 11.20). -/
def Desc.moveBad (d : Desc) : Bool :=
  if d.opc = 2 then d.copySrc.len = 0 || d.notifyAt % 8 ≠ 0
  else d.fillBytes = 0 || d.fillBytes % d.patSize ≠ 0 || fld d.bits 64 64 % d.patSize ≠ 0

/-- The event word at a location increased: an atomic of package scope with release, or a NOTIFY; none where the D1 makes no
atomic (R198, R347, R390). -/
def State.eventAdd (s : State) (q i hint va v : Nat) : Option GOut :=
  let g := s.deskCtx q i
  match s.gPlace g.asid va .w with
  | none => some { s := s, bad := some stAccess }
  | some (.dev a) =>
    let lost := s.atomicLoss (a / 256) (a % 256) 8
    if lost.isSome then some { s := s, lost := lost }
    else
    let r := s.homeAtomic { m := .hub, hint := hint, asid := g.asid, lenient := g.lenient } (a / 256) false fun d =>
      atOffset (a % 256) (bytesOf 8 (natOf (lineBytes d (a % 256) 8) + v))
    some { s := r.s, bad := if r.short then some stCapacity else none }
  | some (.remote k a) => some { s := s.fabRequest (mkNotify k a v) g.who }
  | some (.host _) => none

/-- A COPY or FILL whose pieces are all written ends, once its writes are answered; a notification comes before the end
(R390, R403). -/
def State.moveSettle (s : State) (q i : Nat) (d : Desc) : State :=
  let done (s : State) : State := if s.fabWaits (.desc q i) then s else s.descEnd q i stDone (bits 64 d.moveBytes)
  match s.live? q i with
  | none => s
  | some x =>
    if x.over || x.progress < d.movePieces || s.fabWaits (.desc q i) then s
    else if d.opc ≠ 2 || d.notifyAt = 0 || d.movePieces < x.progress then done s
    else
      match s.eventAdd q i d.hint d.notifyAt d.notifyVal with
      | none => s.descFail q i stAccess
      | some g => State.after q i g fun s _ => done (s.modDesc q i fun d => { d with progress := d.progress + 1 })

/-- Up to `fuel` pieces of a COPY or FILL moved, from the first not moved on. -/
def State.movePiecesN (s : State) (q i : Nat) (d : Desc) : Nat → State
  | 0 => s.moveSettle q i d
  | fuel + 1 =>
    match s.live? q i with
    | none => s
    | some x =>
      if x.over then s
      else if d.movePieces ≤ x.progress then s.moveSettle q i d
      else
        let k := x.progress
        State.after q i (if d.opc = 2 then s.copyPiece q i d k else s.fillPiece q i d k) fun s _ =>
          (s.modDesc q i fun d => { d with progress := k + 1 }).movePiecesN q i d fuel

/-! ### The turns of the hub engines (R396, R402) -/

/-- The opcodes that an engine kind runs: 0 the copy engines, 1 the check-value units. -/
def hubOpc (kind opc : Nat) : Bool := if kind = 0 then opc == 2 || opc == 3 else opc == 4

/-- The first descriptor of a queue that waits for an engine of a kind: one that may start, or a CHECK switched out. -/
def State.hubFirst (s : State) (kind q : Nat) (pr : Prio) : Option Nat :=
  let x := s.queue q
  if x.set.prio = pr then
    (x.descs.find? fun d => hubOpc kind d.opc &&
      (s.mayStart q d || (kind == 1 && d.phase == .running && !d.check.onUnit))).map (·.index.toNat)
  else none

/-- The queue whose turn it is in a class, with its descriptor: the next after the last one that started. -/
def State.hubQueue (s : State) (kind : Nat) (pr : Prio) : Option (Nat × Nat) :=
  let last := look 0 (look {} s.hubTurns kind).lastQueue pr.ix
  let ks := s.queues.filterMap fun x => (s.hubFirst kind x.1 pr).map fun i => (x.1, i)
  match ks.find? fun x => decide (last ≤ x.1) with
  | some x => some x
  | none => ks.head?

/-- The descriptor that the next free engine of a kind takes, with the state after the choice: the dispatcher's own class order and
weights, and turns of the queues within a class, kept for each kind of engine (R396; log 105). -/
def State.hubChoose (s : State) (kind : Nat) : Option (Nat × Nat × State) :=
  let t := look {} s.hubTurns kind
  let take (pr : Prio) (t : Turn) : Option (Nat × Nat × State) :=
    (s.hubQueue kind pr).map fun x =>
      (x.1, x.2, { s with hubTurns := put {} s.hubTurns kind { t with lastQueue := put 0 t.lastQueue pr.ix (x.1 + 1) } })
  if (s.hubQueue kind .urgent).isSome then take .urgent t
  else
    match pickClass (s.hubQueue kind .high).isSome (s.hubQueue kind .normal).isSome (s.hubQueue kind .bulk).isSome
        (t.high, t.normal, t.bulk) with
    | none => none
    | some (pr, a, b, c) => take pr { t with high := a, normal := b, bulk := c }

/-- A command about a descriptor of the hub engines: it goes on with one that holds an engine, or starts the one whose turn it is
where an engine is free. -/
def hubDesc (kind opc q i : Nat) (holds : Desc → Bool) (room : State → Bool) (k : Desc → State → State) (s : State) :
    Host.Outcome State Fault Refusal :=
  unit q queueCount <|
  if (s.live? q i).elim false holds then onDesc opc q i (fun _ => true) k s
  else match s.hubChoose kind with
    | none => .refused .notPending
    | some (q', i', s') => need (q' == q && i' == i && room s) .notPending <| onDesc opc q i (fun _ => true) k s'

/-- Running descriptors that satisfy `p`, over all queues. -/
def State.runningOf (s : State) (p : Desc → Bool) : Nat :=
  ((s.queues.map fun x => (x.2.descs.filter fun d => d.phase == .running && p d).length)).foldl (· + ·) 0

/-- One of the eight copy engines is free (R402). -/
def State.copyFree (s : State) : Bool := decide (s.runningOf (fun d => d.opc == 2 || d.opc == 3) < 8)

/-- A COPY or FILL started, or continued by up to `n` pieces of 256 bytes. -/
def moveDesc (opc q i n : Nat) (s : State) : Host.Outcome State Fault Refusal :=
  hubDesc 0 opc q i (fun d => d.phase == .running) State.copyFree (fun d s =>
    if d.moveBad then s.descFail q i stBadDesc else s.movePiecesN q i d n) s

/-- COPY: rows of bytes copied, then the notification (R390, R403). -/
def execCopy (q i n : Nat) (s : State) : Host.Outcome State Fault Refusal := moveDesc 2 q i n s

/-- FILL: the pattern written from F_DST on (R390). -/
def execFill (q i n : Nat) (s : State) : Host.Outcome State Fault Refusal := moveDesc 3 q i n s

/-! ### CHECK (R404 to R408) -/

/-- One bit of the reflected CRC-32C. -/
def crc32Bit (c : Nat) : Nat := if c % 2 = 1 then (c / 2) ^^^ 0x82F63B78 else c / 2
/-- One byte of the reflected CRC-32C. -/
def crc32Byte (c : Nat) (b : Byte) : Nat := (List.range 8).foldl (fun c _ => crc32Bit c) (c ^^^ b.toNat)

/-- K_ALG. -/
def Desc.chkAlg (d : Desc) : Nat := fld d.bits 32 3
/-- The algorithm has 64 bits. -/
def Desc.chkWide (d : Desc) : Bool := d.chkAlg % 2 == 1
/-- The initial value, and the final XOR (Table 11.24). -/
def Desc.chkOnes (d : Desc) : Nat := if d.chkWide then 2 ^ 64 - 1 else 2 ^ 32 - 1
/-- The running value from which a CHECK starts (R405). -/
def Desc.chkStart (d : Desc) : Nat :=
  if bitAt d.bits 35 then fld d.bits 192 64 % (d.chkOnes + 1) else d.chkOnes
/-- Bytes fed to the running value. -/
def Desc.chkFeed (d : Desc) (c : Nat) (bs : List Byte) : Nat := bs.foldl (if d.chkWide then crc64Byte else crc32Byte) c

/-- A block begins at a byte of a folded CHECK (R406). -/
def Desc.blockAt (d : Desc) (o : Nat) : Bool :=
  decide (2 ≤ d.chkAlg) && ((fld d.bits 256 64 + o) % 4096 == 0 || (o == 0 && !bitAt d.bits 35))

/-- Bytes fed from an offset on, each block's fold address first (R406). -/
def Desc.chkRun (d : Desc) (c o : Nat) : List Byte → Nat
  | [] => c
  | b :: r =>
    let c := if d.blockAt o then d.chkFeed c (bytesOf 8 ((fld d.bits 256 64 + o) % 2 ^ 64)) else c
    d.chkRun (d.chkFeed c [b]) (o + 1) r

/-- K_BYTES. -/
def Desc.chkBytes (d : Desc) : Nat := fld d.bits 128 64

/-- One of the sixteen check-value units is free (R402). -/
def State.unitFree (s : State) : Bool := decide (s.runningOf (fun d => d.check.onUnit) < 16)

/-- The class number of a queue. -/
def State.queueClass (s : State) (q : Nat) : Nat := (s.queue q).set.prio.ix

/-- The class numbers of the CHECK descriptors that hold a unit. -/
def State.chkClasses (s : State) : List Nat :=
  s.queues.flatMap fun x => (x.2.descs.filter fun d => d.phase == .running && d.check.onUnit).map fun _ => x.2.set.prio.ix

/-- A CHECK of a class above `c` waits for a unit. -/
def State.chkWaits (s : State) (c : Nat) : Bool :=
  s.queues.any fun x => decide (x.2.set.prio.ix < c) && x.2.descs.any fun d =>
    d.opc == 4 && ((d.phase == .running && !d.check.onUnit) || s.mayStart x.1 d)

/-- A CHECK at a 64 KiB boundary gives its unit up: all units are busy, none runs a lower class, and a CHECK of a higher class waits
(R408). -/
def State.switchDue (s : State) (q : Nat) (d : Desc) : Bool :=
  let c := s.queueClass q
  d.check.offset % 65536 == 0 && !s.unitFree && s.chkClasses.all (fun k => decide (k ≤ c)) && s.chkWaits c

/-- Up to `fuel` pieces of 256 bytes checked, none past a boundary at which the unit is to be given up. -/
def State.chkN (s : State) (q i : Nat) (d : Desc) : Nat → State
  | 0 => s
  | fuel + 1 =>
    match s.live? q i with
    | none => s
    | some x =>
      if x.over || !x.check.onUnit || (x.check.offset != 0 && s.switchDue q x) then s
      else
        let o := x.check.offset
        let n := min 256 (d.chkBytes - o)
        State.after q i (s.gRead (s.deskCtx q i) d.hint ((fld d.bits 64 64 + o) % 2 ^ 64) n) fun s data =>
          let c := d.chkRun x.check.value.toNat o data
          let s := s.readsDone q i
          let s := s.modDesc q i fun d =>
            { d with check := { d.check with value := bits 64 c, offset := o + n,
                                             blockOpen := d.check.blockOpen || (List.range n).any fun j => d.blockAt (o + j) } }
          if o + n = d.chkBytes then
            s.descEnd q i stDone (bits 64 (if bitAt d.bits 36 then c ^^^ d.chkOnes else c))
          else s.chkN q i d fuel

/-- CHECK: a check-value unit takes the descriptor, or goes on with it by up to `n` pieces of 256 bytes (R402, R404 to
R408). -/
def execCheck (q i n : Nat) (s : State) : Host.Outcome State Fault Refusal :=
  hubDesc 1 4 q i (fun d => d.check.onUnit) State.unitFree (fun d s =>
    if 4 ≤ d.chkAlg || d.chkBytes = 0 || 2 ^ 48 < d.chkBytes then s.descFail q i stBadDesc
    else
      (s.modDesc q i fun x =>
        { x with check := { x.check with
            onUnit := true, value := if x.check.offset = 0 then bits 64 d.chkStart else x.check.value } }).chkN q i d n) s

/-- CHECK_SWITCH: with all units busy, the unit that runs the lowest class gives it up at a 64 KiB boundary to a waiting
CHECK of a higher class; the running value, offset and open block are kept (R408). -/
def execCheckSwitch (q i : Nat) (s : State) : Host.Outcome State Fault Refusal :=
  unit q queueCount <|
  need s.mainlandUp .unavailable <|
  match s.live? q i with
  | none => .refused .notPending
  | some d =>
    need (d.phase == .running && d.check.onUnit && s.switchDue q d) .notPending <|
    .next (s.modDesc q i fun d => { d with check := { d.check with onUnit := false } })

/-! ### FENCE, SIGNAL and WAIT (R390) -/

/-- Every earlier descriptor of the queue has completed. -/
def State.allBefore (s : State) (q i : Nat) : Bool := ((s.queue q).before i).all Desc.over

/-- FENCE_DESCRIPTOR: completes when every earlier descriptor has completed; its writes are then performed at the scope,
since each completes only with its writes performed at package scope and issued to the host port (R390, R403). -/
def execFenceDescriptor (q i : Nat) (s : State) : Host.Outcome State Fault Refusal :=
  onDesc 6 q i (fun _ => true) (fun d s =>
    if fld d.bits 32 2 < 2 then s.descFail q i stBadDesc
    else if s.allBefore q i then s.descEnd q i stDone 0
    else s) s

/-- SG_SET. -/
def Desc.sgSet (d : Desc) : Bool := bitAt d.bits 32
/-- SG_ADDR, and WT_ADDR. -/
def Desc.wordAt (d : Desc) : Nat := fld d.bits 64 64
/-- SG_VALUE, and WT_VALUE. -/
def Desc.wordVal (d : Desc) : Nat := fld d.bits 128 64

/-- A SIGNAL's write or add sent on its way (R198, R347, R390). -/
def State.signal (s : State) (q i : Nat) (d : Desc) : GOut :=
  let g := s.deskCtx q i
  if d.sgSet then
    match s.gPlace g.asid d.wordAt .w with
    | some (.remote k a) => { s := s.fabRequest (mkPut k a (bytesOf 8 d.wordVal) d.hint true) g.who }
    | _ => s.gWrite g d.hint d.wordAt (bytesOf 8 d.wordVal)
  else
    match s.gPlace g.asid d.wordAt .w with
    | some (.remote _ _) =>
      if 2 ^ 32 ≤ d.wordVal then { s := s, bad := some stBadDesc }
      else (s.eventAdd q i d.hint d.wordAt d.wordVal).getD { s := s, bad := some stAccess }
    | _ => (s.eventAdd q i d.hint d.wordAt d.wordVal).getD { s := s, bad := some stAccess }

/-- SIGNAL: after every earlier descriptor has completed, adds to or writes an event word with release (R390). -/
def execSignal (q i : Nat) (s : State) : Host.Outcome State Fault Refusal :=
  onDesc 7 q i (fun _ => true) (fun d s =>
    let done (s : State) : State := if s.fabWaits (.desc q i) then s else s.descEnd q i stDone 0
    if d.wordAt % 8 ≠ 0 then s.descFail q i stBadDesc
    else if !s.allBefore q i then s
    else if 0 < d.progress then done s
    else State.after q i (s.signal q i d) fun s _ => done (s.modDesc q i fun d => { d with progress := 1 })) s

/-- WT_COND holds of a word. -/
def Desc.condHolds (d : Desc) (w : Nat) : Bool :=
  match fld d.bits 32 2 with | 0 => decide (d.wordVal ≤ w) | 1 => w == d.wordVal | _ => w != d.wordVal

/-- A WAIT's word read with acquire at package scope; the WAIT completes when its condition holds (R390). -/
def State.waitRead (s : State) (q i : Nat) (d : Desc) : State :=
  let g := s.deskCtx q i
  match s.gPlace g.asid d.wordAt .r with
  | some (.dev _) =>
    State.after q i (s.gRead g d.hint d.wordAt 8) fun s data =>
      if d.condHolds (natOf data) then s.descEnd q i stDone (bits 64 (natOf data)) else s
  | _ => s.descFail q i stAccess

/-- The causes by which a WAIT's own fields end it. -/
def Desc.waitBad (d : Desc) : Bool := d.wordAt % 8 ≠ 0 || fld d.bits 32 2 = 3

/-- WAIT: reads an event word of this package's device memory and completes when the condition holds (R390). -/
def execWait (q i : Nat) (s : State) : Host.Outcome State Fault Refusal :=
  onDesc 8 q i (fun _ => true) (fun d s => if d.waitBad then s.descFail q i stBadDesc else s.waitRead q i d) s

/-- WAIT_RECHECK: a pending WAIT reads its word again (R390). -/
def execWaitRecheck (q i : Nat) (s : State) : Host.Outcome State Fault Refusal :=
  need ((s.live? q i).elim true (fun d => d.phase == .running)) .notPending <|
  onDesc 8 q i (fun _ => false) (fun d s => s.waitRead q i d) s

/-! ### DESCRIPTOR_WATCHDOG (R391) -/

/-- The open collective of a descriptor. -/
def State.collOfDesc (s : State) (q i : Nat) : Option Coll := s.fab.colls.find? fun c => c.queue == q && c.desc == i && !c.ended

/-- A descriptor other than LAUNCH ends at once with a status; a COLLECTIVE's other members are told (R353, R391). -/
def State.descStop (s : State) (q i : Nat) (st : BitVec 8) : State :=
  match s.collOfDesc q i with
  | some c => s.collEnd c st
  | none => s.descFail q i st

/-- DESCRIPTOR_WATCHDOG: a descriptor other than LAUNCH still runs QUE_WD_MS after it started (R391). -/
def execDescriptorWatchdog (q i : Nat) (s : State) : Host.Outcome State Fault Refusal :=
  unit q queueCount <|
  need s.mainlandUp .unavailable <|
  match s.live? q i with
  | none => .refused .notPending
  | some d =>
    need (d.phase == .running && d.opc != 1 && (s.queue q).set.wdMs != 0) .notPending <|
    .next (s.descStop q i stWatchdog)

/-! ### Completion entries (R392 to R394) -/

/-- The 32 bytes of a completion entry (Table 11.21). -/
def CqEntry.encode (e : CqEntry) (phase : Nat) : List Byte :=
  [bits 8 phase, e.status, bits 8 e.opc.toNat, bits 8 (min 255 e.recov)] ++ bytesOf 2 e.tag.toNat ++ [0, 0] ++
  bytesOf 4 e.index.toNat ++ bytesOf 4 e.retire.toNat ++ bytesOf 8 e.result.toNat ++ bytesOf 8 e.ticks.toNat

/-- The completion ring of a queue has room by the last DB_CQ_HEAD (R393). -/
def Queue.cqRoom (x : Queue) : Bool := decide ((x.cqTail - x.cqHead).toNat < 2 ^ x.set.cqLog2)

/-- The PASID space of a queue's own host accesses. -/
def State.qSpace (s : State) (q : Nat) : Nat := s.queueSpace q

/-- A doorbell record that names more descriptors than the ring holds puts the queue in its error state, cause 6 (R381). -/
def Queue.checkProd (x : Queue) : Queue :=
  if x.active && !x.disabling && decide (2 ^ x.set.ringLog2 < (x.prod - x.retire).toNat) then { x with active := false, err := 6 } else x

/-- The doorbell record of a queue read: DB_PROD and DB_CQ_HEAD are taken when the epoch is the one in force (R382, R383). -/
def State.doorbell (s : State) (q : Nat) : State :=
  let x := s.queue q
  let d := s.hostRead (s.queuePort q) (s.qSpace q) x.set.db 12
  if numAt d 4 2 = x.set.epoch.toNat then
    s.modQueue q fun x => { x with prod := bits 32 (numAt d 0 4), cqHead := bits 32 (numAt d 8 4) }.checkProd
  else s

/-- The oldest waiting entry written: bytes 4 to 31 first, then bytes 0 to 3; it may count toward the interrupt. -/
def State.cqWriteOne (s : State) (q : Nat) : State :=
  let x := s.queue q
  match x.waiting with
  | [] => s
  | e :: r =>
    let n := x.cqTail.toNat
    let size := 2 ^ x.set.cqLog2
    let a := x.set.cqBase + 32 * (n % size)
    let bs := e.encode (if n / size % 2 = 0 then 1 else 0)
    let s := s.hostWrite (s.queuePort q) (s.qSpace q) (a + 4) (bs.drop 4)
    let s := s.hostWrite (s.queuePort q) (s.qSpace q) a (bs.take 4)
    let s := s.modQueue q fun x => { x with waiting := r, cqTail := x.cqTail + 1 }
    if e.irq || decide (stRecovered.toNat < e.status.toNat) then s.irqCount (q / 64) x.set.vec else s

/-- Waiting entries written as far as the ring has room; the doorbell record is read again when it appears full. -/
def State.cqFlush (s : State) (q : Nat) : Nat → State
  | 0 => s
  | fuel + 1 =>
    if (s.queue q).waiting.isEmpty then s
    else
      let s := if (s.queue q).cqRoom then s else s.doorbell q
      if (s.queue q).cqRoom then (s.cqWriteOne q).cqFlush q fuel else s

/-- The next index not completed, past those completed out of order. -/
def retireOver (done : List (BitVec 32)) (r : BitVec 32) : Nat → BitVec 32
  | 0 => r
  | n + 1 => if done.contains r then retireOver done (r + 1) n else r

/-- A producer record names a descriptor as recomputable (R431). -/
def State.producerNames (s : State) (q i : Nat) : Bool :=
  s.producers.any fun p => p.2.ok && p.2.queue == q && p.2.desc == i

/-- A queue after a descriptor of index `i` completed: counts and indices move on; the descriptor is kept while a producer
record names it. -/
def Queue.complete (x : Queue) (d : Desc) (keep : Bool) : Queue :=
  let done := d.index :: x.doneIdx
  let r := retireOver done x.retire done.length
  { x with
    descs := x.descs.filter fun e => e.index != d.index
    past := if keep then x.past ++ [d] else x.past
    done := x.done + 1, retire := r, doneIdx := done.filter fun k => decide ((k - r).toNat < 2 ^ 31) }

/-- The status of a completion: DONE becomes DONE_RECOVERED while the queue runs after a resume (R365). -/
def Queue.finalStatus (x : Queue) (st : BitVec 8) : BitVec 8 := if st = stDone && x.respan then stRecovered else st

/-- A descriptor's completion made: counts move on, and its entry is written, or waits for room. -/
def State.completeDesc (s : State) (q : Nat) (d : Desc) (st : BitVec 8) (result : BitVec 64) : State :=
  let s := s.touch
  let x := s.queue q
  let st := x.finalStatus st
  let quiet := (bitAt d.bits 6 && st = stDone) || x.written.contains d.index
  let s := s.putQueue q (x.complete d (s.producerNames q d.index.toNat))
  if quiet then s
  else
    let e : CqEntry :=
      { status := st, opc := bits 4 d.opc, recov := d.recov, tag := bits 16 (fld d.bits 16 16), index := d.index,
        result := result, irq := bitAt d.bits 5, quiet := bitAt d.bits 6, retire := (s.queue q).retire, ticks := s.ticks }
    let s := s.modQueue q fun x => { x with waiting := x.waiting ++ [e] }
    s.cqFlush q (s.queue q).waiting.length

/-! ### The end of a disable (R384) -/

/-- A disabled queue: QUE_ACTIVE and QUE_BUSY clear; the indices, counts and error stay readable. -/
def Queue.stop (x : Queue) : Queue :=
  { x with enabled := false, active := false, busy := false, disabling := false, guarded := false, halted := false,
           dbShared := false, descs := [], waiting := [], past := [], marks := [], replayTo := none, respan := false, written := [] }

/-- A disable ends when every descriptor has completed and every entry is written. -/
def State.disableSettle (s : State) (q : Nat) : State :=
  let x := s.queue q
  if x.disabling && x.descs.isEmpty && x.waiting.isEmpty then s.modQueue q Queue.stop else s

/-- A descriptor that no other command runs: a reserved opcode, a reserved MP_OP or a reserved GD_OP. -/
def Desc.reserved (d : Desc) : Bool :=
  decide (11 ≤ d.opc) || (d.opc == 9 && decide (8 ≤ fld d.bits 32 4)) || (d.opc == 10 && fld d.bits 32 2 == 3)

/-- DESCRIPTOR_COMPLETION: an ended descriptor's completion entry is written, or waits for room in the ring; a reserved
opcode ends here with BAD_DESCRIPTOR. `energy`: the share of the open almanac round that belongs to a LAUNCH (R391 to R394,
R410; log 20). -/
def execDescriptorCompletion (q i energy : Nat) (s : State) : Host.Outcome State Fault Refusal :=
  unit q queueCount <|
  need s.mainlandUp .unavailable <|
  match s.live? q i with
  | none => .refused .notPending
  | some d =>
    match d.phase with
    | .finished st r => .next ((s.completeDesc q d st (if d.opc = 1 then r + bits 64 energy else r)).disableSettle q)
    | .running =>
      let s := s.launchSettle q i
      match s.live? q i with
      | some { phase := .finished st r, .. } => .next ((s.completeDesc q d st (r + bits 64 energy)).disableSettle q)
      | _ => .refused .notPending
    | .fetched =>
      need (d.reserved && s.mayStart q d) .notPending <|
      let s := s.begin_ q i
      .next (s.completeDesc q d stBadDesc 0)

end Sys2Proof.Machine
end

