-- ==== Sys2Proof/Machine/Queues.lean ====
section
/-! DEFINITION. Queues: enable, disable, doorbell, descriptor fetch, failed host accesses, and the ways in which their work ends
(R378 to R387, R401, file 11; R541, R547, R548, file 15). -/

namespace Sys2Proof.Machine

/-! ### Functions (R374, R375, file 11; R545, file 15) -/

/-- The function whose state serves number `fn` on a port: in multipath mode that of P0 (R374, R545). -/
def State.fnOf (s : State) (port fn : Nat) : Nat := if s.multipath then fn else fnKey port fn

/-- The port exists: P1 is absent in P0-only mode (Table 11.3). -/
def State.portThere (s : State) (n : Nat) : Bool := n == 0 || (s.boot.hostMode != 2 && s.boot.hostMode != 3)

/-- The function exists: number 0, or one of the virtual functions that are set (R375). -/
def State.fnThere (s : State) (port fn : Nat) : Bool :=
  s.portThere port && decide (fn ≤ (s.port (if s.multipath then 0 else port)).numVfs)

/-- The registers of queue `q` answer: READY, on a function that presents queues, below FN_QUEUES (R508, R544). -/
def State.queueThere (s : State) (q : Nat) : Bool :=
  s.boot.state == .ready && s.fnThere (q / 2048) (q / 64 % 32) && !(s.multipath && 2048 ≤ q) &&
  decide (q % 64 < (s.func (q / 64)).fnQueues)

/-- ID_ERR_BUSY of a function advanced for accesses through a port (R541). -/
def State.errBusy (s : State) (port fn : Nat) : State :=
  s.modFunc (s.fnOf port fn) fun f => { f with errBusy := put 0 f.errBusy port (look 0 f.errBusy port + 1) }

/-! ### Ends of a queue's work -/

/-- Twins of tasks that satisfy `p` leave their cores; nothing of theirs was performed (R439). -/
def State.endTwins (s : State) (p : Task → Bool) : State :=
  s.logicalCores.foldl (fun s l => match (s.core l).task with
    | some t =>
      if t.twinOf.isSome && p t then
        s.modCore l fun c => { c.release with undo := [], undoSeen := [] }
      else s
    | none => s) s

/-- A LAUNCH ends: its running and pre-empted tasks end with the status as a trap does, no further task is dispatched, and it
completes when they have (R143, R384). -/
def State.endLaunch (s : State) (q i : Nat) (st : BitVec 8) : State :=
  let s := s.endTwins fun t => t.queue == q && t.desc == i
  let s := s.logicalCores.foldl (fun s l =>
    let s := match (s.core l).urgent with
      | some u => if u.queue = q && u.desc = i then (s.dropUrgent l).taskDone { u with status := worse u.status st } else s
      | none => s
    let s := match (s.core l).frame with
      | some f => if f.task.queue = q && f.task.desc = i then s.modCore l fun c => c.trapFrame st else s
      | none => s
    match (s.core l).task with
    | some t => if t.queue = q && t.desc = i && t.phase != .trapped then s.trap l 255 st 0 0 0 else s
    | none => s) s
  (s.modDesc q i fun d =>
    { d with launch := { d.launch with stopped := true, redo := [], again := [], recompute := false, status := worse d.launch.status st } }).launchSettle q i

/-- A fetched descriptor that has not ended ends with a status (R384). -/
def State.endDesc (s : State) (q : Nat) (st : BitVec 8) (d : Desc) : State :=
  let i := d.index.toNat
  match d.phase with
  | .finished _ _ => s
  | .fetched => s.descEnd q i st 0
  | .running => if d.opc = 1 then s.endLaunch q i st else s.descStop q i st

/-- Every fetched descriptor of a queue ends with a status. -/
def State.endDescs (s : State) (q : Nat) (st : BitVec 8) : State := (s.queue q).descs.foldl (fun s d => s.endDesc q st d) s

/-- The producer records that name a disabled queue are unrecomputable (R431). -/
def State.unproduce (s : State) (q : Nat) : State :=
  { s with producers := s.producers.map fun (p : Nat × Producer) => if p.2.queue = q then (p.1, { p.2 with ok := false }) else p }

/-- A guarded queue that is disabled, or loses its port, takes the package out of its guard group (R384). -/
def State.leaveFor (s : State) (q : Nat) : State := if (s.queue q).guarded then s.guardLeave fun _ => stAborted else s

/-- A queue disabled without completions, its registers at reset (R401, R501). -/
def State.killQueue (s : State) (q : Nat) : State :=
  if !(s.queue q).enabled then s.putQueue q {}
  else
    let s := ((s.leaveFor q).endDescs q stAborted).unproduce q
    s.putQueue q {}

/-! ### Enable (R380) -/

/-- Bit field of QUE_CFG. -/
def Queue.cfg (x : Queue) (lo n : Nat) : Nat := fld x.rCfg lo n
/-- Bit field of QUE_TIMING. -/
def Queue.timing (x : Queue) (lo n : Nat) : Nat := fld x.rTiming lo n

/-- QUE_PRIO by its code. -/
def Prio.ofCode (n : Nat) : Prio := match n with | 0 => .urgent | 1 => .high | 2 => .normal | _ => .bulk

/-- The partition is granted to the port. -/
def State.granted (s : State) (port p : Nat) : Bool := (s.part p).grant.toNat == port + 1

/-- The causes of Table 11.11 that the registers of a queue meet, rising. -/
def State.enableCauses (s : State) (q : Nat) : List Nat :=
  let x := s.queue q
  let f := s.func (q / 64)
  let part := x.cfg 18 3
  let asid := x.cfg 24 8
  let logBad (n : Nat) : Bool := decide (n < 4) || decide (16 < n)
  (if logBad (x.cfg 0 5) || logBad (x.cfg 8 5) || x.timing 16 10 = 0 || x.timing 32 12 < x.timing 16 10 then [1] else []) ++
  (if !bitAt f.fnParts part || !s.granted (q / 2048) part || s.partOfRegion part ≠ part then [2] else []) ++
  (if !bitAt f.fnAsids asid || (bitAt x.rCfg 23 && !f.pasidCap) then [3] else []) ++
  (if (x.cfg 16 2 = 0 && !f.fnUrgent) || (bitAt x.rCfg 22 && x.cfg 16 2 ≠ 0) then [4] else [])

/-- The set-up that the registers hold. -/
def Queue.setup (x : Queue) (epoch : BitVec 16) : QSet :=
  { ringBase := x.rRing.toNat / 4096 * 4096, cqBase := x.rCq.toNat / 4096 * 4096, db := x.rDb.toNat / 64 * 64,
    ringLog2 := x.cfg 0 5, cqLog2 := x.cfg 8 5, prio := Prio.ofCode (x.cfg 16 2), part := x.cfg 18 3,
    lenient := bitAt x.rCfg 21, standby := bitAt x.rCfg 22, asid := x.cfg 24 8, pasidEn := bitAt x.rCfg 23,
    pasid := x.cfg 32 20, vec := x.cfg 52 11, wdMs := x.timing 0 16, pollMin := x.timing 16 10, pollMax := x.timing 32 12,
    pollIdle := x.timing 48 16, epoch := epoch }

/-- A queue that passes its checks starts anew; its registers and its last drop count's place stay. -/
def Queue.start (x : Queue) (epoch : BitVec 16) (cxl : Bool) (now : BitVec 64) : Queue :=
  { rRing := x.rRing, rCq := x.rCq, rDb := x.rDb, rCfg := x.rCfg, rTiming := x.rTiming, rCtrl := x.rCtrl, busy := x.busy,
    set := x.setup epoch, enabled := true, active := true, poll := x.timing 16 10, newAt := now, dbShared := cxl }

/-- QUE_EN written to 1: the checks of Table 11.11, then the start; nothing where the queue is enabled already (R380). -/
def State.enableQueue (s : State) (q : Nat) (epoch : BitVec 16) : State :=
  if (s.queue q).enabled then s
  else
    match s.enableCauses q with
    | c :: _ => s.modQueue q fun x => { x with err := bits 8 c }
    | [] =>
      let s := s.touch
      let s := s.modQueue q fun x => x.start epoch (s.port (s.queuePort q)).cxl s.ticks
      let s := if (s.queue q).dbShared then s.doorbell q else s
      s.keepStandby (s.queue q).set.part

/-! ### Disable (R384) -/

/-- QUE_EN written to 0: fetching stops, and every fetched descriptor that has not completed ends with ABORTED (R384). -/
def State.disableQueue (s : State) (q : Nat) : State :=
  if !(s.queue q).enabled then s
  else
    let s := s.leaveFor q
    let s := s.modQueue q fun x => { x with disabling := true, halted := false }
    ((s.endDescs q stAborted).unproduce q).disableSettle q

/-- A write of QUE_CTRL: a posted write (R541). A disable keeps QUE_BUSY until it has ended. -/
def State.writeQueCtrl (s : State) (port q : Nat) (v : W64) : State :=
  if !s.queueThere q then s
  else if (s.queue q).busy then s.errBusy port (q / 64 % 32)
  else
    let s := s.modQueue q fun x => { x with rCtrl := v &&& 0xFFFF0001#64, busy := true }
    if bitAt v 0 then s.enableQueue q (bits 16 (fld v 16 16)) else s.disableQueue q

/-- QUEUE_ENABLE: QUE_EN written to 1 with an epoch (R380). `ws`: what the host has written to its memory (log 6). -/
def execQueueEnable (q epoch : Nat) (ws : List Host.Cell) (s : State) : Host.Outcome State Fault Refusal :=
  unit q queueCount <|
  let s := s.hostWrites (s.queuePort q) 0 ws
  .next (s.writeQueCtrl (q / 2048) q (bits 64 (1 + epoch % 65536 * 65536)))

/-- QUEUE_DISABLE: QUE_EN written to 0 (R384). -/
def execQueueDisable (q : Nat) (s : State) : Host.Outcome State Fault Refusal :=
  unit q queueCount <| .next (s.writeQueCtrl (q / 2048) q 0)

/-- A fetched descriptor's completion made at the end of a disable: one whose tasks have not left their cores ends with ABORTED. -/
def State.completeNow (s : State) (q : Nat) (d : Desc) : State :=
  match d.phase with
  | .finished st r => s.completeDesc q d st r
  | _ => s.completeDesc q d stAborted 0

/-- DISABLE_TIMEOUT: 10 ms after a disable every fetched descriptor has completed; the entries for which the ring has no room are
dropped and counted (R384). -/
def execDisableTimeout (q : Nat) (s : State) : Host.Outcome State Fault Refusal :=
  unit q queueCount <|
  need ((s.queue q).enabled && (s.queue q).disabling) .notPending <|
  let s := (s.queue q).descs.foldl (fun s d => s.completeNow q d) s
  let s := s.cqFlush q (s.queue q).waiting.length
  .next (s.modQueue q fun x => { x.stop with dropped := bits 16 x.waiting.length })

/-! ### The doorbell record (R381 to R383, R386, R387) -/

/-- The doorbell record read; entries that wait are written as room appears, and a disable may end. -/
def State.watch (s : State) (q : Nat) : State :=
  let s := s.doorbell q
  (s.cqFlush q (s.queue q).waiting.length).disableSettle q

/-- The queue watches its doorbell record. -/
def Queue.watching (x : Queue) : Bool := x.enabled && (x.active || x.disabling || !x.waiting.isEmpty)

/-- DOORBELL_INVALIDATION: in CXL mode a host write invalidates the D1's copy of the doorbell line, and the queue engine reads
it again. `ws`: what the host has written (R386; log 6). -/
def execDoorbellInvalidation (q : Nat) (ws : List Host.Cell) (s : State) : Host.Outcome State Fault Refusal :=
  unit q queueCount <|
  need s.mainlandUp .unavailable <|
  need ((s.queue q).watching && (s.port (s.queuePort q)).cxl) .notPending <|
  let s := s.hostWrites (s.queuePort q) (s.queueSpace q) ws
  .next ((s.modQueue q fun x => { x with dbShared := true }).watch q)

/-- The poll interval after a poll (R387). `found`: the poll found a new descriptor. -/
def Queue.nextPoll (x : Queue) (found : Bool) (now : BitVec 64) : Queue :=
  if found then { x with poll := x.set.pollMin, newAt := now }
  else if (now - x.newAt).toNat ≤ 25 * x.set.pollIdle then { x with poll := x.set.pollMin }
  else { x with poll := min (2 * x.poll) x.set.pollMax }

/-- DOORBELL_POLL: in PCI Express mode a poll interval expires and the doorbell record is read (R387). -/
def execDoorbellPoll (q : Nat) (ws : List Host.Cell) (s : State) : Host.Outcome State Fault Refusal :=
  unit q queueCount <|
  need s.mainlandUp .unavailable <|
  need ((s.queue q).watching && !(s.port (s.queuePort q)).cxl) .notPending <|
  let s := (s.hostWrites (s.queuePort q) (s.queueSpace q) ws).touch
  let old := (s.queue q).prod
  let s := s.watch q
  .next (if (s.queue q).enabled then s.modQueue q fun x => x.nextPoll (x.prod != old) s.ticks else s)

/-! ### Fetching (R381, R547) -/

/-- A descriptor of an index as read from the ring. -/
def State.ringDesc (s : State) (q : Nat) (i : BitVec 32) : Desc :=
  let x := (s.queue q).set
  { index := i, bits := bits 512 (natOf (s.hostRead (s.queuePort q) (s.queueSpace q)
      (x.ringBase + 64 * (i.toNat % 2 ^ x.ringLog2)) 64)) }

/-- A port's translation of a function's page, cached as a ring access uses it, at most 4,096 (Table 11.1; log 42). -/
def Port.useAts (p : Port) (fn page : Nat) : Port := { p with ats := ((fn, page) :: p.ats.erase (fn, page)).take 4096 }

/-- DESCRIPTOR_FETCH: up to eight descriptors from QUE_FETCH on return from the ring; none while the queue is held, halted,
disabled or in error (R361, R381, R384, R547). `ws`: what the host has written (log 6). -/
def execDescriptorFetch (q n : Nat) (ws : List Host.Cell) (s : State) : Host.Outcome State Fault Refusal :=
  unit q queueCount <|
  need s.mainlandUp .unavailable <|
  let x := s.queue q
  need (x.enabled && x.active && !x.disabling && !x.halted && !bitAt (s.func (s.fnOf (q / 2048) (q / 64 % 32))).queHold (q % 64) &&
    decide (1 ≤ n) && decide (n ≤ 8) && decide (n ≤ (x.prod - x.fetch).toNat)) .notPending <|
  let s := s.hostWrites (s.queuePort q) (s.queueSpace q) ws
  let ds := (List.range n).map fun k => s.ringDesc q (x.fetch + bits 32 k)
  let s := s.modPort (s.queuePort q) fun p => p.useAts (q / 64 % 32) (x.set.ringBase / 4096)
  .next (s.modQueue q fun x => { x with descs := x.descs ++ ds, fetch := x.fetch + bits 32 n })

/-! ### Failed host accesses (R378) -/

/-- COMPLETION_TIMEOUT: a host-memory access of queue `q` fails. One for the ring, the completion ring or the doorbell record
puts the queue in its error state with cause 5; one for a descriptor's work, or for the task on a core, ends that work with
ACCESS_VIOLATION (R378, R381). -/
def execCompletionTimeout (q : Nat) (work core : Option Nat) (s : State) : Host.Outcome State Fault Refusal :=
  unit q queueCount <|
  need s.mainlandUp .unavailable <|
  need (s.queue q).enabled .notPending <|
  match work, core with
  | none, none => .next (s.modQueue q fun x => if x.active then { x with active := false, err := 5 } else x)
  | some i, none =>
    match s.live? q i with
    | none => .refused .notPending
    | some d =>
      need (d.phase == .running && (d.opc != 1 || !d.launch.loaded)) .notPending <| .next (s.descStop q i stAccess)
  | _, some l =>
    match (s.core l).task with
    | none => .refused .notPending
    | some t => need (t.queue == q && t.phase == .running) .notPending <| .next (s.trapDesc l 0 stAccess)

end Sys2Proof.Machine
end

