-- ==== Sys2Proof/Machine/Hosts.lean ====
section
/-! DEFINITION. Host ports and functions: links, PERST, function-level reset, BAR2, configuration space, ATS and interrupts
(R369 to R378, R394, R401, R411, file 11; R501, R503, R508, file 14; R545, R549, R557, file 15; R564, file 16). -/

namespace Sys2Proof.Machine

/-! ### Function-level reset (Table 11.23, R557) -/

/-- Another function that exists, of either port, holds an address space in its grant. -/
def State.asidHeld (s : State) (k asid : Nat) : Bool :=
  [0, 1].any fun p => (List.range 32).any fun f =>
    decide (fnKey p f ≠ k) && !(s.multipath && p == 1) && s.fnThere p f && bitAt (s.func (fnKey p f)).fnAsids asid

/-- Every mapping and export of an address space ends. -/
def State.unmapSpace (s : State) (asid : Nat) : State :=
  { s with ptes := s.ptes.filter fun p => decide (p.1 / 2 ^ 38 ≠ asid) }.onFab fun f =>
    { f with exports := f.exports.filter fun e => e.asid != asid }

/-- A function's own registers at reset; its record of the function set-up block stays (R557). -/
def Func.flr (f : Func) : Func :=
  { fnQueues := f.fnQueues, fnUrgent := f.fnUrgent, fnParts := f.fnParts, fnVecBase := f.fnVecBase, fnVecCount := f.fnVecCount,
    fnReject := f.fnReject, fnAsids := f.fnAsids, bar2Asid := f.bar2Asid, bar2En := f.bar2En, bar2Base := f.bar2Base }

/-- One function reset: its queues end without completions, and the address spaces that it alone holds lose their mappings. -/
def State.flrOne (s : State) (k : Nat) : State :=
  let lone := (List.range 256).filter fun a => bitAt (s.func k).fnAsids a && !s.asidHeld k a
  let s := (List.range 64).foldl (fun s q => s.killQueue (k * 64 + q)) s
  (lone.foldl State.unmapSpace s).modFunc k Func.flr

/-- A function-level reset; that of a physical function resets the port's virtual functions, every record of the function
set-up block and the event-log set-up too (R557). A P1 function in multipath mode has only its own shadows and counts
(R545). -/
def State.flr (s : State) (port fn : Nat) : State :=
  if s.multipath && port = 1 then
    s.modFunc fn fun f =>
      { f with errSize := put 0 f.errSize 1 0, errStage := put 0 f.errStage 1 0, errBusy := put 0 f.errBusy 1 0,
               shadow := put {} f.shadow 1 {}, staging := put {} f.staging 1 {} }
  else if fn ≠ 0 then s.flrOne (fnKey port fn)
  else
    let s := (List.range ((s.port port).numVfs + 1)).foldl (fun s f => s.flrOne (fnKey port f)) s
    let s := (List.range 32).foldl (fun s f => s.putFunc (fnKey port f) (Func.atReset (fnKey port f))) s
    s.modPort port fun p =>
      { p with numVfs := 0, evlBase := 0, evlCfg := 0, evlHead := 0, evlWritten := 0, evlErr := false, pkbBusy := false }

/-- A RESET_CAUSE record of a PERST (2) or a function-level reset (3) (Table 14.15). -/
def State.resetCause (s : State) (kind : Nat) : State := s.record 0x80 5 0x10 0 (locOf 0 0) (detailOf [(0, 1, kind)])

/-- FUNCTION_LEVEL_RESET; it has no effect in the trip state (R401, R494). -/
def execFunctionLevelReset (port fn : Nat) (s : State) : Host.Outcome State Fault Refusal :=
  unit port 2 <| unit fn 32 <|
  need (s.skerryUp && s.fnThere port fn) .unavailable <|
  if s.boot.tripLayer ≠ 0 then .next s else .next ((s.flr port fn).resetCause 3)

/-! ### Links and PERST (R373, R374, R401, R503, R508, R564) -/

/-- A HOST_PORT record. -/
def State.portRecord (s : State) (n : Nat) (up : Bool) : State :=
  s.record 0x30 5 0x10 0 (locOf 8 n) (detailOf [(0, 1, bit01 up), (1, 1, s.boot.hostMode.toNat)])

/-- The doorbell lines that a lost port held in Shared: the surviving port requests them again and reads them, or polls from now
on (Table 11.4 step 3). -/
def State.moveDoorbells (s : State) (n : Nat) : State :=
  let moved := (s.queues.filter fun x => decide (x.1 % 2 = n) && x.2.dbShared).map Prod.fst
  moved.foldl (fun s q =>
    if (s.port (1 - n)).up && (s.port (1 - n)).cxl then s.watch q else s.modQueue q fun x => { x with dbShared := false }) s

/-- A port's link is down; in multipath mode its traffic moves to the other port and no work ends, otherwise every function
of the port is reset (R374, R401). -/
def State.portDown (s : State) (n : Nat) : State :=
  let s := s.modPort n fun p => { p with up := false, cxl := false, ats := [] }
  if s.multipath then s.moveDoorbells n
  else s.flr n 0

/-- A port's link trains, as PCI Express or as CXL; Pn_WAKE_N is released (R370, R564). -/
def State.portUp (s : State) (n : Nat) (cxl : Bool) : State :=
  s.modPort n fun p => { p with up := true, cxl := cxl, cxlHost := cxl, wakeLow := false }

/-- PORT_LINK_DOWN (R374, R401). -/
def execPortLinkDown (n : Nat) (s : State) : Host.Outcome State Fault Refusal :=
  unit n 2 <|
  need s.skerryUp .unavailable <|
  need (s.port n).up .notPending <|
  .next ((s.portDown n).portRecord n false)

/-- PORT_LINK_UP: a lost port trains again, as CXL where `cxl` (R370, R374). -/
def execPortLinkUp (n : Nat) (cxl : Bool) (s : State) : Host.Outcome State Fault Refusal :=
  unit n 2 <|
  need (s.skerryUp && s.portThere n) .unavailable <|
  need (!(s.port n).up && (s.port n).perstN && s.boot.state != .reset && s.boot.tripLayer == 0) .notPending <|
  .next ((s.portUp n cxl).portRecord n true)

/-- PERST: Pn_PERST_N falls. While READY it resets the port's functions and queues, in multipath mode only once both ports
are held; before READY it only retrains the port (R503). -/
def execPerst (n : Nat) (s : State) : Host.Outcome State Fault Refusal :=
  unit n 2 <|
  need (s.port n).perstN .notPending <|
  let s := s.modPort n fun p => { p with perstN := false, wakeLow := false, d3 := false }
  if s.boot.state ≠ .ready then .next (s.modPort n fun p => { p with up := false, cxl := false })
  else if s.multipath then
    let s := s.portDown n
    let s := if (s.port (1 - n)).perstN then s else s.flr 0 0
    .next ((s.portRecord n false).resetCause 2)
  else .next (((s.portDown n).portRecord n false).resetCause 2)

/-- PERST_RELEASE: Pn_PERST_N rises; once skerry has enabled the host ports the port trains and answers configuration
(R508, R509 step 1). -/
def execPerstRelease (n : Nat) (cxl : Bool) (s : State) : Host.Outcome State Fault Refusal :=
  unit n 2 <|
  need (!(s.port n).perstN) .notPending <|
  let s := s.modPort n fun p => { p with perstN := true }
  if s.skerryUp && s.portThere n && s.boot.state != .reset && s.boot.tripLayer == 0 then .next (s.portUp n cxl) else .next s

/-! ### BAR2 (R377, R430, R508, R549) -/

/-- The window of a function is open: enabled, in a granted address space, its base a multiple of the BAR's size. -/
def Func.window (f : Func) : Bool := f.bar2En && bitAt f.fnAsids f.bar2Asid && f.bar2Base % 2 ^ f.bar2Log2 == 0

/-- On whose behalf a BAR2 access is made. -/
def State.barCtx (s : State) (port fn : Nat) : GCtx :=
  { who := .bar port fn, m := .host, asid := (s.func (s.fnOf port fn)).bar2Asid, lenient := false, port := port, space := 0 }

/-- The answer that a port gives. -/
def State.portAnswer (s : State) (n : Nat) (d : Option (List Byte)) : State := s.modPort n fun p => { p with answer := d }

/-- An access through BAR2 that fails: a HOST_ACCESS record. -/
def State.barFail (s : State) (port fn off : Nat) : State :=
  (s.fabForget (.bar port fn)).record 0x31 5 0x10 stAccess.toNat (locOf 8 port) (detailOf [(0, 8, off), (8, 1, fn)])

/-- A BAR2 access that the port takes: before READY, or with the window closed, `shut` answers. There is nothing beyond the BAR's
size. -/
def barAccess (port fn off n : Nat) (shut : State → State) (k : GCtx → Nat → State → State) (s : State) :
    Host.Outcome State Fault Refusal :=
  unit port 2 <| unit fn 32 <|
  need (s.skerryUp && s.fnThere port fn && (s.port port).up) .unavailable <|
  let f := s.func (s.fnOf port fn)
  unit (off + n) (2 ^ f.bar2Log2 + 1) <|
  if s.boot.state ≠ .ready then .next (shut s)
  else if !f.window then .next (shut (s.barFail port fn off))
  else .next (k (s.barCtx port fn) (f.bar2Base + off) s)

/-- BAR2_READ: `n` bytes from offset `off`, read at the home slice; a failed read, or one that reaches lost data, completes
with Completer Abort. A read in another package sends its GET, and the same command completes once the answer has come
(R377, R430). -/
def execBar2Read (port fn off n : Nat) (s : State) : Host.Outcome State Fault Refusal :=
  barAccess port fn off n (fun s => s.portAnswer port none) (fun g va s =>
    let x := s.gRead g 0 va n
    if x.lost.isSome then (x.s.fabForgetReads g.who).portAnswer port none
    else if x.bad.isSome then (x.s.barFail port fn off).portAnswer port none
    else if x.wait then x.s
    else (x.s.fabForgetReads g.who).portAnswer port (some x.data)) s

/-- BAR2_WRITE: performed at package scope; a failed write is discarded (R377). -/
def execBar2Write (port fn off : Nat) (data : List Byte) (s : State) : Host.Outcome State Fault Refusal :=
  barAccess port fn off data.length id (fun g va s =>
    let x := s.gWrite g 0 va data
    if x.ok then x.s else x.s.barFail port fn off) s

/-- The operation of an AtomicOp: FetchAdd, Swap, CAS (Table 11.1). -/
def barAop (op : Nat) : Nat := match op with | 0 => 0 | 1 => 6 | _ => 7

/-- The AtomicOp sent to another package, or its answer taken. -/
def State.barRemote (s : State) (g : GCtx) (port fn off pkg a op n x y : Nat) : State :=
  match s.fab.reqs.find? fun r => decide (r.who = g.who) && r.msg.kind.toNat == 2 && r.msg.dst.toNat == pkg && r.msg.addr.toNat == a with
  | none => s.fabRequest (mkAtomic pkg a (barAop op) (n == 8) (bytesOf 8 x ++ bytesOf 8 y) 0 false false false) g.who
  | some r =>
    match r.status, r.answer with
    | some _, _ => (s.barFail port fn off).portAnswer port none
    | none, some d => (s.fabForget g.who).portAnswer port (some (d.take n))
    | none, none => s

/-- BAR2_ATOMICOP: `op` 0 FetchAdd, 1 Swap, 2 CAS on 4 or 8 bytes, performed at the home slice as an atomic of package scope;
the old value is the answer (R377). Any other AtomicOp is none of Table 11.1 and is answered as unsupported (R369). -/
def execBar2Atomicop (port fn off op n x y : Nat) (s : State) : Host.Outcome State Fault Refusal :=
  barAccess port fn off n (fun s => s.portAnswer port none) (fun g va s =>
    if !((n == 4 || n == 8) && off % n == 0 && decide (op < 3)) then s.portAnswer port none
    else match s.gPlace g.asid va .w with
    | some (.dev a) =>
      if (s.atomicLoss (a / 256) (a % 256) n).isSome then s.portAnswer port none
      else
        let r := s.homeAtomic { m := .host, asid := g.asid } (a / 256) true
          (aopLine (barAop op) false (a % 256) n (x % 256 ^ n) (y % 256 ^ n))
        if r.short then (r.s.barFail port fn off).portAnswer port none
        else r.s.portAnswer port (some (lineBytes r.data (a % 256) n))
    | some (.remote k a) => s.barRemote g port fn off k a op n x y
    | _ => (s.barFail port fn off).portAnswer port none) s

/-! ### Configuration space and ATS (R369, R375) -/

/-- Virtual functions that no longer exist are reset. -/
def State.setVfs (s : State) (port n : Nat) : State :=
  let gone := (List.range ((s.port port).numVfs + 1)).filter fun f => decide (n < f)
  (gone.foldl (fun s f => s.flrOne (fnKey port f)) s).modPort port fun p => { p with numVfs := n }

/-- CONFIGURATION_WRITE: the host sets NumVFs (at most 31), the size of BAR2 (1 GiB to 1 TiB), the power state, PASID, or an
MSI-X table entry (R369, R375, R376). A value that the option does not offer, or a function that is not there, changes nothing
(log 104). -/
def execConfigurationWrite (port : Nat) (w : CfgWrite) (s : State) : Host.Outcome State Fault Refusal :=
  unit port 2 <|
  need (s.skerryUp && s.portThere port && (s.port port).up) .unavailable <|
  match w with
  | .numVfs n => .next (if n ≤ 31 && !(s.multipath && port == 1) then s.setVfs port n else s)
  | .bar2 fn l => .next (if s.fnThere port fn && decide (30 ≤ l) && decide (l ≤ 40) then
      s.modFunc (s.fnOf port fn) fun f => { f with bar2Log2 := l } else s)
  | .power d3 => .next (s.modPort port fun p => { p with d3 := d3 })
  | .pasid fn en => .next (if s.fnThere port fn then
      s.modFunc (s.fnOf port fn) fun f => { f with pasidCap := en } else s)
  | .msix fn v addr data masked => unit v 2048 <| .next (if s.fnThere port fn then
      s.modFunc (s.fnOf port fn) fun f =>
        let i := look {} f.irq v
        let i := { i with addr := addr, data := data, masked := masked }
        { f with irq := put {} f.irq v (if i.pend && !masked then { i with pend := false, sent := i.sent + 1 } else i) }
      else s)

/-- ATS_INVALIDATION: the cached translations of a function for `n` pages from `page` are dropped (R369). -/
def execAtsInvalidation (port fn page n : Nat) (s : State) : Host.Outcome State Fault Refusal :=
  unit port 2 <| unit fn 32 <|
  need (s.skerryUp && (s.port port).up) .unavailable <|
  .next (s.modPort port fun p =>
    { p with ats := p.ats.filter fun x => !(x.1 == fn && decide (page ≤ x.2) && decide (x.2 < page + n)) })

/-! ### Interrupts and the event log (R394, R411) -/

/-- IRQ_MOD_TIMEOUT: IRQ_MOD_TIME has passed since the first entry that counts (R394). -/
def execIrqModTimeout (port fn v : Nat) (s : State) : Host.Outcome State Fault Refusal :=
  unit port 2 <| unit fn 32 <| unit v 2048 <|
  let i := look {} (s.func (s.fnOf port fn)).irq v
  need (decide (0 < i.counted) && fld i.mod 8 16 != 0) .notPending <|
  .next (s.irqSend (fnKey port fn) v)

/-- MSIX_UNMASK: the vector is unmasked, and a pending message is sent (R394). -/
def execMsixUnmask (port fn v : Nat) (s : State) : Host.Outcome State Fault Refusal :=
  unit port 2 <| unit fn 32 <| unit v 2048 <|
  need (s.skerryUp && s.fnThere port fn) .unavailable <|
  .next (s.modFunc (s.fnOf port fn) fun f =>
    let i := look {} f.irq v
    { f with irq := put {} f.irq v (if i.pend then { i with masked := false, pend := false, sent := i.sent + 1 } else { i with masked := false }) })

/-- EVENT_LOG_FULL_RECHECK: while the ring of a port is full the consumed-count word is read again every 100 µs. `ws`: what
the host has written (R411; log 6). -/
def execEventLogFullRecheck (n : Nat) (ws : List Host.Cell) (s : State) : Host.Outcome State Fault Refusal :=
  unit n 2 <|
  need s.skerryUp .unavailable <|
  need ((s.port n).evlOn && !s.evlRoom n) .notPending <|
  let s := (s.hostWrites n (s.port n).evlSpace ws).evlReread n
  .next (s.evlFlush n (s.port n).evlBuf.length)

end Sys2Proof.Machine
end

