-- ==== Sys2Proof/Machine/SliceCmds.lean ====
section
/-! DEFINITION. The commands of chapter 07: requests of cluster caches and other masters at a home slice, the messages of
the directory, the ledger purge and the repair of a row. -/

namespace Sys2Proof.Machine

/-- A line has a home that a master reaches: mainland and the D1's own engines reach the firmware range too (R260). -/
def State.lineOk (s : State) (m : Master) (line : Nat) : Bool :=
  if m = .fw || m = .hub then (s.homeRaw (line * 256)).isSome else (s.homeProgram (line * 256)).isSome

/-- A request to the home of a line; at an address that a condition of R260 holds for, the D1 ends it with ACCESS_VIOLATION. -/
def atHome (m : Master) (line : Nat) (s : State) (k : State → State) : Host.Outcome State Fault Refusal :=
  need s.powered .unavailable <|
  .next (if s.lineOk m line then k { s with ended := none } else { s with ended := some (line, stAccess) })

/-- A request that finds the line's transaction open waits for it; any other is taken at once, when its set and its directory set
have room (R218, R224, R239). -/
def State.request (s : State) (line : Nat) (r : CohReq) (err : MemErr) : State :=
  match s.dirEnt line with
  | some e =>
    if e.txn.isSome then s.putDir { e with waiting := e.waiting ++ [r] }
    else ((s.unblock line).meetError line err).serveHome r line
  | none => ((s.unblock line).meetError line err).serveHome r line

/-- READ: a cluster cache's read miss at the home directory (Table 07.6); with LASTUSE it drops every copy (R229). -/
def execRead (cl line hint asid : Nat) (lenient : Bool) (err : MemErr) (s : State) : Host.Outcome State Fault Refusal :=
  unit cl 64 <| atHome .core line s fun s =>
    s.request line { kind := if hint % 4 = 2 then .last else .read, cl := cl, hint := hint % 4, asid := asid, lenient := lenient } err

/-- OWN: a cluster cache's ownership request for a line in P, sent once (Table 07.6, R192). -/
def execOwn (cl line : Nat) (s : State) : Host.Outcome State Fault Refusal :=
  unit cl 64 <|
  match s.cc cl line with
  | some x =>
    need (x.st == .pend && !x.asked) .notPending <|
    atHome .core line s fun s =>
      (s.putCc cl line (some { x with asked := true })).request line { kind := .own, cl := cl, hint := x.hint, asid := x.pinAsid } .none
  | none => .refused .notPending

/-- SLICE_READ: a read at the home slice by another master (Table 07.6); with LASTUSE it is that of LASTUSE_READ. The codeword that
`err` names is that of a narrow read (R269). -/
def execSliceRead (m : Master) (line hint asid : Nat) (lenient narrow : Bool) (err : MemErr) (s : State) :
    Host.Outcome State Fault Refusal :=
  atHome m line s fun s =>
    s.request line { kind := if hint % 4 = 2 then .last else .sread, m := m, hint := hint % 4, asid := asid, lenient := lenient,
                     narrow := narrow } err

/-- SLICE_WRITE: a write at the home slice, with the offsets of its bytes in the line (R238). A shadow that does not fit stops it
(R357). -/
def execSliceWrite (m : Master) (line hint asid : Nat) (data : List (Nat × Byte)) (s : State) :
    Host.Outcome State Fault Refusal :=
  atHome m line s fun s =>
    s.request line { kind := .swrite, m := m, hint := hint % 4, asid := asid, data := data.map fun w => (w.1 % 256, w.2) } .none

/-- LASTUSE_READ: the line is read, dropped without write-back and entered in the ledger (R229). -/
def execLastuseRead (m : Master) (line asid : Nat) (lenient narrow : Bool) (err : MemErr) (s : State) :
    Host.Outcome State Fault Refusal :=
  atHome m line s fun s =>
    s.request line { kind := .last, m := m, hint := 2, asid := asid, lenient := lenient, narrow := narrow } err

/-- E_EVICTION_NOTICE: a cluster cache evicts an E line and says so (R234). -/
def execEEvictionNotice (cl line : Nat) (s : State) : Host.Outcome State Fault Refusal :=
  unit cl 64 <|
  match s.cc cl line with
  | some x => need (x.st == .exclusive && s.powered) .notPending <| .next (s.ccEvict cl line)
  | none => .refused .notPending

/-- M_WRITE_BACK: a cluster cache evicts an M line and writes it back with the hint that last wrote it (R222, R234). -/
def execMWriteBack (cl line : Nat) (s : State) : Host.Outcome State Fault Refusal :=
  unit cl 64 <|
  match s.cc cl line with
  | some x => need (x.st == .modified && s.powered) .notPending <| .next (s.ccEvict cl line)
  | none => .refused .notPending

/-- A message of the directory protocol arrives: it is in flight, and none of its flow is before it (R296). -/
def arrive (m : CohMsg) (s : State) : Host.Outcome State Fault Refusal :=
  need (s.net.coh.contains m && s.firstInFlow m) .notPending <| .next ((s.unblock m.line).deliver m)

/-- INVALIDATION: a cluster cache invalidates its copy and acknowledges at once (R234, R236). -/
def execInvalidation (line cl : Nat) (s : State) : Host.Outcome State Fault Refusal := arrive (.inv line cl) s

/-- RECALL: a cluster cache returns its copy and acknowledges; `keep`: it stays in S (R236). -/
def execRecall (line cl : Nat) (keep : Bool) (s : State) : Host.Outcome State Fault Refusal := arrive (.recall line cl keep) s

/-- ACKNOWLEDGEMENT: the home slice counts it, and sends the grant or the completion when enough have come (R237). -/
def execAcknowledgement (line cl : Nat) (s : State) : Host.Outcome State Fault Refusal := arrive (.ack line cl) s

/-- GRANT: the line passes from P to M (R192). -/
def execGrant (line cl : Nat) (s : State) : Host.Outcome State Fault Refusal := arrive (.grant line cl) s

/-- OWN_COMPLETION: the write is performed at package scope (R237). -/
def execOwnCompletion (line cl : Nat) (s : State) : Host.Outcome State Fault Refusal := arrive (.done line cl) s

/-- Ledger entries of a physical range removed from every slice (R233). -/
def State.purge (s : State) (lo len : Nat) : State :=
  each (List.range 64) (fun k s => s.modSlice k fun sl =>
    { sl with ledger := sl.ledger.filter fun l => !(decide (lo ≤ l * 256) && decide (l * 256 < lo + len)) }) s

/-- LEDGER_PURGE (R233). -/
def execLedgerPurge (lo len : Nat) (s : State) : Host.Outcome State Fault Refusal :=
  need s.mainlandUp .unavailable <| .next (s.purge lo len)

/-! ### Failed rows (R245 to R249) -/

/-- The sub-array set keys of the two sets whose way a data-array row holds, and the way: macro `m` counts
sub-array × 128 + way × 8 + set div 1,024 (R245). -/
def rowSets (m row : Nat) : List Nat × Nat :=
  let t := m % 8 * 1024 + 2 * row
  ([m / 128 * 8192 + t, m / 128 * 8192 + t + 1], m % 128 / 8)

/-- The line of a disabled way leaves it: a program's pin moves to another way where P_CAP allows, else ends and is counted; a
firmware pin ends, and mainland pins that part again when it next writes it; dirty data is written back (R249; log 90). The line
of a moved pin takes the most-recently-used position (DESIGN CHOICE, log 95). -/
def State.leaveWay (s : State) (k key way : Nat) : State :=
  match ((s.slice k).setLines key).find? fun x => x.way == way with
  | none => s
  | some x =>
    let s := s.modSlice k fun sl => sl.remove key x.line
    match x.pin with
    | .program _ =>
      if !(s.slice k).setOff key && decide ((s.slice k).pinned key < (s.slice k).pCap key) then s.allocate { m := .fw } x true
      else (s.writeBack { m := .fw } x).modSlice k fun sl => { sl with pinDemote := bump 48 sl.pinDemote }
    | _ => s.writeBack { m := .fw } x

/-- A way of a set disabled; the transaction of its line closes first. Pins that the set then holds beyond its new P_CAP stay
(DESIGN CHOICE, log 95). -/
def State.wayOff (s : State) (k key way : Nat) : State :=
  let s := match ((s.slice k).setLines key).find? fun x => x.way == way with
    | some x => s.settle x.line
    | none => s
  (s.modSlice k fun sl =>
    { sl with waysOff := put 0 sl.waysOff key (sl.off key ||| BitVec.ofNat 16 (2 ^ way)) }).leaveWay k key way

/-- A way of a set enabled again on a spare row. -/
def State.wayOn (s : State) (k key way : Nat) : State :=
  s.modSlice k fun sl => { sl with waysOff := put 0 sl.waysOff key (sl.off key &&& ~~~ BitVec.ofNat 16 (2 ^ way)) }

/-- A CAPACITY_DISABLED record (R248). -/
def State.capOff (s : State) (k set way arr : Nat) : State :=
  s.record 0x16 4 0x07 0 (locOf 3 k) (detailOf [(0, 4, set), (4, 1, way), (5, 1, arr)])

/-- The lines of a set leave it, dirty ones written back; the pins that end so are counted (R246, R249). -/
def State.emptySet (s : State) (k key : Nat) : State :=
  let s := ((s.slice k).setLines key).foldl (fun s x => s.settle x.line) s
  let ls := (s.slice k).setLines key
  let s := ls.foldl (fun s x => s.writeBack { m := .fw } x) (s.modSlice k fun sl => sl.putSet key [])
  s.modSlice k fun sl => { sl with pinDemote := (sl.pinDemote + (ls.filter fun x => match x.pin with | .program _ => true | _ => false).length) % 2 ^ 48 }

/-- A set taken out of use: its lines leave, and none is allocated in it (R246). -/
def State.setShut (s : State) (k key : Nat) : State :=
  (s.emptySet k key).modSlice k fun sl => { sl with setsOff := if sl.setsOff.contains key then sl.setsOff else sl.setsOff ++ [key] }

/-- A set disabled as a whole for good, with its record (R246, R248). -/
def State.setDisabled (s : State) (k key arr : Nat) : State := (s.setShut k key).capOff k key 0xFF arr

/-- The entry that leaves a directory set with too many for its enabled ones: the least recently used that is not BUSY; where all
are, the first's transaction closes before (R239). -/
def State.dirSqueeze (s : State) (k dset : Nat) : State :=
  let es := look [] (s.slice k).dir dset
  if es.length + look 0 (s.slice k).dirOff dset ≤ 16 then s
  else
    let s := if es.all fun e => e.txn.isSome then (match es with | e :: _ => s.settle e.line | [] => s) else s
    match (look [] (s.slice k).dir dset).find? fun e => e.txn.isNone with
    | none => s
    | some v =>
      let s := v.holders.foldl (fun s c => s.ccYield c v.line true false) s
      s.modSlice k fun sl => { sl.dropDir dset v.line with dirRecall := bump 48 sl.dirRecall }

/-- A directory entry of a set disabled (R247). -/
def State.dirWayOff (s : State) (k dset : Nat) : State :=
  (s.modSlice k fun sl => { sl with dirOff := put 0 sl.dirOff dset (min 16 (look 0 sl.dirOff dset + 1)) }).dirSqueeze k dset

/-- A directory entry of a set enabled again. -/
def State.dirWayOn (s : State) (k dset : Nat) : State :=
  s.modSlice k fun sl => { sl with dirOff := put 0 sl.dirOff dset (look 0 sl.dirOff dset - 1) }

/-- Spare rows of an array kind: 8 for data, 4 for tags and the directory. -/
def rowSpareMax (arr : Nat) : Nat := if arr = 0 then 8 else 4

/-- The sets, or set-ways, of a failed row taken out of use, as step 2 of Table 07.7 says; a data set with fewer than 8 ways left
is empty too. The sets of a tag row that are out already stay out of the list of those to come back. -/
def State.rowShut (s : State) (k arr macro_ row : Nat) (sets : List Nat) : State × List Nat :=
  let (keys, way) := rowSets macro_ row
  match arr with
  | 0 => (keys.foldl (fun s t =>
      let s := s.wayOff k t way
      if (s.slice k).enabled t < 8 then s.emptySet k t else s) s, keys)
  | 1 => (sets.foldl (fun s t => s.setShut k t) s, sets.filter fun t => !(s.slice k).setsOff.contains t)
  | _ => (sets.foldl (fun s t => s.dirWayOff k t) s, sets)

/-- The ways of a set that are enabled, or will be on their spare rows. -/
def Slice.lasting (sl : Slice) (key : Nat) : Nat :=
  sl.enabled key + (sl.repairing.filter fun r => r.1 == 0 && (rowSets r.2.1 r.2.2.1).1.contains key).length

/-- A row without a spare: its capacity stays disabled, and each way or set has its record, a set only once (R246 to R248). -/
def State.rowGone (s : State) (k arr macro_ row : Nat) (sets back : List Nat) : State :=
  let (keys, way) := rowSets macro_ row
  let s := s.journal [(7, journalBody [(4, (locOf 3 k).toNat), (1, arr), (2, macro_), (2, row)])]
  match arr with
  | 0 => keys.foldl (fun s t =>
      let s := s.capOff k t way 0
      if (s.slice k).lasting t < 8 && !(s.slice k).setsOff.contains t then s.setDisabled k t 0 else s) s
  | 1 => back.foldl (fun (s : State) t => s.setDisabled k t 1) s
  | _ => sets.foldl (fun (s : State) t => s.capOff k t 0 2) s

/-- Steps 1 and 2 of Table 07.7: the row is declared failed and its sets, ways or entries leave use. With a spare row left the repair
waits for skerry; else the capacity stays disabled (R245 to R247). -/
def State.rowFails (s : State) (k arr macro_ row : Nat) (sets : List Nat) : State :=
  let key := arr * 1024 + macro_
  let waiting := ((s.slice k).repairing.filter fun r => r.1 == arr && r.2.1 == macro_).length
  let (s, back) := s.rowShut k arr macro_ row sets
  if look 0 (s.slice k).rowSpares key + waiting < rowSpareMax arr then
    s.modSlice k fun sl => { sl with repairing := sl.repairing ++ [(arr, macro_, row, back)] }
  else s.rowGone k arr macro_ row sets back

/-- Steps 3 to 5 of Table 07.7 for one row: skerry commits the journal entry and maps the macro's next spare row, and the ways, sets
or entries are enabled again on it (R245). -/
def State.rowMapped (s : State) (k : Nat) (r : Nat × Nat × Nat × List Nat) : State :=
  let (arr, macro_, row, back) := r
  let key := arr * 1024 + macro_
  let used := look 0 (s.slice k).rowSpares key
  let s := s.modSlice k fun sl => { sl with rowSpares := put 0 sl.rowSpares key (used + 1) }
  let s : State := match arr with
    | 0 => back.foldl (fun (s : State) t => s.wayOn k t (rowSets macro_ row).2) s
    | 1 => s.modSlice k fun sl => { sl with setsOff := sl.setsOff.filter fun t => !back.contains t }
    | _ => back.foldl (fun (s : State) t => s.dirWayOn k t) s
  let s := s.journal [(4, journalBody [(4, (locOf 3 k).toNat), (1, arr), (2, macro_), (2, row), (1, used)])]
  s.record 0x15 4 0x06 0 (locOf 3 k)
    (detailOf [(0, 1, arr), (2, 2, macro_), (4, 2, row), (6, 1, rowSpareMax arr - used - 1)])

/-- Every row that waits for its spare gets it: done at the almanac round after its failure (log 95). -/
def State.rowsMapped (s : State) : State :=
  each (List.range 64) (fun k s =>
    (s.slice k).repairing.foldl (fun s r => s.rowMapped k r) (s.modSlice k fun sl => { sl with repairing := [] })) s

/-- The row of a slice array exists, with the sets that a tag or directory row names. -/
def rowOk (arr macro_ row : Nat) (sets : List Nat) : Bool :=
  if arr = 0 then decide (macro_ < 384) && decide (row < 512)
  else macro_ < 1024 && sets.all fun x => decide (x < if arr = 1 then 24576 else 2048)

/-- The rows of a slice that a command names, as the histories number them. -/
def rowNames (arr macro_ row : Nat) (sets : List Nat) : List Nat :=
  if arr = 0 then [macro_ * 512 + row] else sets.map fun t => arr * 2 ^ 20 + t

/-- ROW_FAILED: a row of a slice's data (`arr` 0), tag (1) or directory (2) array is declared failed, for one of the two causes of
R245. `sets` names the sets that a tag row covers, or the directory sets of a directory row (R245 to R249). -/
def execRowFailed (k arr macro_ row : Nat) (sets : List Nat) (s : State) : Host.Outcome State Fault Refusal :=
  unit k 64 <| unit arr 3 <|
  need s.mainlandUp .unavailable <|
  let names := rowNames arr macro_ row sets
  need (names.any (s.slice k).rowBad.contains) .notPending <|
  let s := s.modSlice k fun sl =>
    { sl with rowBad := sl.rowBad.filter fun r => !names.contains r, rowErrs := sl.rowErrs.filter fun e => !names.contains e.1 }
  .next (s.rowFails k arr macro_ row (sets.filter fun t => decide (t < if arr = 1 then 24576 else 2048)))

end Sys2Proof.Machine
end

