-- ==== Sys2Proof/Machine/Recovery.lean ====
section
/-! DEFINITION. Recovery from faults: the replay of a task, recomputation of lost data, array tests, dual execution, spares of
bonds and TSVs, retired clusters and the loss of the hub (R424 to R428, R432, R437 to R447, R458, R459, file 12). -/

namespace Sys2Proof.Machine

/-! ### Recovery of a task (R424 to R428) -/

/-- Ticks of 24 hours. -/
def dayTicks : Nat := 86400 * 25000000

/-- What the spare slot of a logical core holds: the core's own record, a context frame with what its pre-empted task left in
its own slots, and no earlier task (Table 12.3). -/
def Core.onSpare (c : Core) : Core :=
  let c := { c with faultTicks := [], hasTested := false, lastPass := 0, l1 := [] }
  if c.frame.isSome then c else { c with lm := [], lastAsid := none }

/-- A cluster is woken for a task that starts in it; one that is OFF leaves OFF first (R471). -/
def State.wakeFor (s : State) (cl : Nat) : State :=
  s.modCluster cl fun c => if c.clk = .off then { c with wakeReq := true } else c.wake

/-- The hard path for core `l`: it moves to its spare slot, or is retired and its task waits for another core. A pre-empted task
whose core leaves its cluster is replayed (R426, Table 12.3). The task's log has been rolled back. -/
def State.hardMove (s : State) (l cause : Nat) : State :=
  let old := s.slotOf l
  match s.spareFor old with
  | some new =>
    let s := if clusterOfSlot new = clusterOfSlot old then s else s.dropFrame l
    let s := (s.moveCore l cause Core.onSpare).noteIdle (clusterOfSlot old)
    if (s.core l).task.isSome then s.wakeFor (clusterOfSlot new) else s
  | none => ((((s.dropFrame l).requeueTask l).withdrawUrgent l).moveCore l cause id).noteIdle (clusterOfSlot old)

/-- Step 6 of Table 12.2: the task starts again on its core; what a pre-empted task left there stays. -/
def Core.restart (c : Core) (l : Nat) : Core :=
  match c.task with
  | none => c
  | some t =>
    let t := { t with phase := .running, status := 0, cause := 0, hard := false }
    match c.frame with
    | none => c.startTask l t
    | some _ =>
      let lo := 16 - t.groups
      { c with
        task := some t
        groups := c.groups.filter (fun p => decide (p.1 < lo)) ++ t.startGroups l
        outst := c.outst.filter fun o => decide (o.group < lo)
        arrays := [], tm := [], l1 := [], barriers := [], undo := [], undoSeen := [], watch := {}, still := [] }

/-- The task of core `l`, with its gang, ends with DEVICE_LOST in case 4 or 6 of Table 12.13: it is rolled back as far as its
log can be read, leaves its core, and no further task of its launch is dispatched (R427, Table 12.3). -/
def State.lostEnd (s : State) (l case_ : Nat) (readable : Option Nat) : State :=
  match (s.core l).task with
  | none => s
  | some t =>
    let ls := s.workCores l
    let fs := s.workFrames l
    let cl := s.clusterOf l
    let s := ls.foldl (fun s m => s.modCore m fun c => { c with arrays := c.stopWork.arrays, tm := [], outst := c.outst.filter fun o => !c.slotRuns t o.group }) s
    let s := s.rollbackTo ls fs readable
    let s := s.modDesc t.queue t.desc fun d => { d with launch := { d.launch with stopped := true } }
    let s := fs.foldl (fun s m => s.modCore m fun c => c.trapFrame stLost) s
    let s := match t.gang with
      | some g => s.modCluster cl fun c => { c with gangs := put {} c.gangs g {} }
      | none => s
    let s := ls.foldl (fun s m => match (s.core m).task with
      | some u => ((s.fabForget (.store m)).modCore m Core.release).taskDone { u with status := worse u.status stLost }
      | none => s) s
    s.lostRecord l t.gang.isSome case_ t.queue t.desc

/-- Recoveries that a task has had for its descriptor (R427). -/
def State.replaysOf (s : State) (t : Task) : Nat :=
  match s.desc? t.queue t.desc with | some d => look 0 d.launch.replays t.replayKey | none => 0

/-- Another task of the launch of `t` has trapped and has not ended yet. -/
def State.othersTrapped (s : State) (t : Task) : Bool :=
  let other (u : Task) : Bool := u.phase == .trapped && u.twinOf.isNone && u.queue == t.queue && u.desc == t.desc &&
    u.replayKey != t.replayKey
  s.logicalCores.any fun l =>
    (match (s.core l).task with | some u => other u | none => false) ||
    (match (s.core l).frame with | some f => other f.task | none => false)

/-- A launch that only the trap of a task now replayed had stopped goes on (R144, Table 04.6). -/
def State.untrap (s : State) (t : Task) : State :=
  if t.phase = .trapped && !s.othersTrapped t then
    s.modDesc t.queue t.desc fun d =>
      if d.launch.status = stDone then { d with launch := { d.launch with stopped := false } } else d
  else s

/-- A fault in the work of core `l`'s task recovered: the task is stopped, rolled back and replayed, with its gang; a hard fault
moves its core first; a fifth fault ends it. `fail`: the core self-test failed. `bad`: the log can be read only for so many
entries. `cause` and `move`: those of TASK_RECOVERED and of CORE_REMAPPED or CORE_RETIRED (R423 to R428, Table 12.2). -/
def State.recover (s : State) (l cause move : Nat) (fail : Bool) (bad : Option Nat) : State :=
  match (s.core l).task with
  | none => s
  | some t =>
    let s := s.touch
    let now := s.ticks.toNat
    let near := now :: (s.core l).faultTicks.filter fun x => decide (now - x < dayTicks)
    let s := s.modCore l fun c => { c with faultTicks := near }
    let hard := t.hard || fail || decide (3 ≤ near.length)
    let s := s.endTwins fun u => u.twinOf == some l
    let cl := s.clusterOf l
    if t.twinOf.isSome then
      let s := s.stopReplay l
      let s := if hard then s.hardMove l move else s.noteIdle cl
      s.launchSettle t.queue t.desc
    else if bad.isSome || 4 ≤ s.replaysOf t then
      let s := s.lostEnd l (if bad.isSome then 6 else 4) bad
      if hard then s.hardMove l move else s.noteIdle cl
    else
      let s := s.untrap t
      let s := s.modDesc t.queue t.desc fun d =>
        { d with launch := { d.launch with replays := put 0 d.launch.replays t.replayKey (look 0 d.launch.replays t.replayKey + 1) } }
      if t.gang.isSome then
        let s := s.replayWork (s.workCores l) (s.workFrames l) t.gang
        (if hard then s.hardMove l move else s.noteIdle cl).noteRecovery l t cause
      else
        let s := s.modCore l fun c => { c with arrays := c.stopWork.arrays, tm := [], outst := c.outst.filter fun o => !c.slotRuns t o.group }
        let s := (s.rollback [l] []).fabForget (.store l)
        let s := (if hard then s.hardMove l move else s).noteRecovery l t cause
        (s.modCore l fun c => c.restart l).preemptTry l

/-- A row of local memory (array 3) or of the register file (4) that met a detected error: the second error within 24 hours
brings in a spare row; true where the spare rows are used up (R441, R446, Tables 12.4 and 12.5). -/
def State.coreRow (s : State) (k arr macro_ row : Nat) : State × Bool :=
  let key := arr * 65536 + macro_
  let now := s.ticks.toNat
  let near := (s.slot k).rowErrs.filter fun e => decide (now - e.2 < dayTicks)
  if near.any fun e => e.1 == key * 65536 + row then
    let used := look 0 (s.slot k).rowSpares key
    let s := s.modSlot k fun x => { x with rowErrs := near.filter fun e => e.1 != key * 65536 + row }
    if 4 ≤ used then (s, true)
    else
      let s := s.modSlot k fun x => { x with rowSpares := put 0 x.rowSpares key (used + 1) }
      let s := s.journal [(5, journalBody [(4, (locOf 2 k).toNat), (1, arr), (2, macro_), (2, row), (1, used)])]
      (s.record 0x15 1 0x06 0 (locOf 2 k) (detailOf [(0, 1, arr), (2, 2, macro_), (4, 2, row), (6, 1, 4 - used - 1)]), false)
  else (s.modSlot k fun x => { x with rowErrs := near ++ [(key * 65536 + row, now)] }, false)

/-- A fault that meets the recovery of an earlier one of the same task: the earlier one counts as a recovery of its own, and the
sequence starts again (R427). -/
def State.recoverOld (s : State) (l cause : Nat) : State :=
  match (s.core l).task with
  | some t => if t.phase = .recovering && t.cause ≠ cause then s.recover l t.cause t.cause false none else s
  | none => s

/-- TASK_RECOVERY: a fault detected in the work of a core's task is recovered. `cause` is that of TASK_RECOVERED; a fault that
meets the recovery of an earlier one counts with it. During a map-out pause the task only stops; its recovery waits for the end of
the pause (R427, Table 12.3). Cause 0, which the table does not have, reports an uncorrectable error in the core's context frame
(log 108). `fail`: the core self-test failed; `bad`: the undo log can be read for only so many entries;
`row`: the row that met the error (R424, R441). -/
def execTaskRecovery (core cause : Nat) (fail : Bool) (bad : Option Nat) (row : Option (Nat × Nat × Nat)) (s : State) :
    Host.Outcome State Fault Refusal :=
  unit core 512 <|
  need (s.hasCore core && s.mainlandUp) .unavailable <|
  if cause = 0 then
    need (s.core core).frame.isSome .notPending <|
    .next (s.modCore core fun c => { c with frame := c.frame.map fun f => { f with bad := true } })
  else match (s.core core).task with
  | none => .refused .notPending
  | some t =>
    need (t.phase == .running || t.phase == .trapped || t.phase == .recovering) .notPending <|
    need (!(t.phase == .recovering && (s.part t.part).paused)) .notReady <|
    let (s, spent) := match row with
      | some (arr, m, r) => if arr = 3 || arr = 4 then s.coreRow (s.slotOf core) arr (m % 65536) (r % 65536) else (s, false)
      | none => (s, false)
    .next (if (s.part t.part).paused && t.twinOf.isNone then s.detect core cause (fail || spent)
      else (s.recoverOld core cause).recover core cause (if spent then 9 else cause) (fail || spent) bad)

/-! ### Recomputation (R432) -/

/-- The lost codewords of a frame that recomputation can restore. -/
def State.redoable (s : State) (frame : Nat) : List Lost :=
  (s.lostOf frame).filter fun x => !x.gone && s.lossSource x.addr == 1

/-- The pieces of a COPY or FILL moved again, up to the first that cannot be. Answers what stopped it. -/
def State.moveAgain (s : State) (q i : Nat) (d : Desc) (k : Nat) : Nat → GOut
  | 0 => { s := s }
  | n + 1 =>
    let x := if d.opc = 2 then s.copyPiece q i d k else s.fillPiece q i d k
    if x.ok then x.s.moveAgain q i d (k + 1) n else x

/-- RECOMPUTATION: the producer that a frame's record names runs again: a COPY or FILL at once, the tasks of a LAUNCH through the
dispatcher. `reader`: the descriptor whose own recomputation waits for this frame; nesting deeper than four ends it with
DEVICE_LOST, case 5 (R432, R458). A move that itself reaches lost data waits until that is restored, and is then made again. -/
def execRecomputation (frame : Nat) (reader : Option (Nat × Nat)) (s : State) : Host.Outcome State Fault Refusal :=
  need s.mainlandUp .unavailable <|
  let p : Producer := look {} s.producers frame
  let before := (s.lostOf frame).length
  need (!(s.redoable frame).isEmpty) .notPending <|
  match s.desc? p.queue p.desc with
  | none => .refused .notPending
  | some d =>
    let waits := match reader with
      | none => some 0
      | some (q, i) => (s.desc? q i).bind fun r => if r.launch.recompute && r.launch.waitLost then some (r.launch.depth + 1) else none
    match waits with
    | none => .refused .notPending
    | some depth =>
      if 4 < depth then
        let (q, i) := reader.getD (0, 0)
        let s := s.modDesc q i fun d => { d with launch := { d.launch with again := [], waitLost := false } }
        .next ((s.launchSettle q i).record 0x3F 5 0x0F stLost.toNat (locOf 13 (queueValue q))
          (detailOf [(0, 1, 5), (4, 4, q), (8, 4, i)]))
      else if d.opc = 1 then
        need (!d.launch.recompute) .notPending <|
        .next (s.modDesc p.queue p.desc fun d =>
          { d with launch := { d.launch with recompute := true, depth := depth, frame := frame, lostN := before, waitLost := false,
                                             again := (List.range (p.hi + 1 - p.lo)).map (p.lo + ·) } })
      else
        let again := d.launch.recompute
        let x := s.moveAgain p.queue p.desc d 0 d.movePieces
        match x.lost with
        | some false => need (!again) .notReady <|
            .next (x.s.modDesc p.queue p.desc fun d =>
              { d with launch := { d.launch with recompute := true, depth := depth, frame := frame, lostN := before, waitLost := true,
                                                 again := [0] } })
        | _ => .next ((x.s.modDesc p.queue p.desc fun d =>
            { d with launch := { d.launch with recompute := false, waitLost := false, again := [] } }).restored p.queue p.desc frame before)

/-! ### Array tests (R437, R438) -/

/-- The SUSPECT_WINDOW record of the slot of core `l` (R438). -/
def State.suspect (s : State) (l : Nat) : State :=
  let s := s.touch
  s.record 0x07 1 0x0E 0 (locOf 2 (s.slotOf l)) (detailOf [(0, 8, (s.core l).lastPass), (8, 8, s.ticks.toNat)])

/-- A passing array test noted. -/
def State.passTest (s : State) (l : Nat) : State :=
  let s := s.touch
  s.modCore l fun c => { c with lastPass := s.ticks.toNat, hasTested := true }

/-- IDLE_ARRAY_TEST: a core without a task tests both arrays; a failed test is a hard fault (R437). -/
def execIdleArrayTest (core : Nat) (pass : Bool) (s : State) : Host.Outcome State Fault Refusal :=
  unit core 512 <|
  need (s.hasCore core && s.mainlandUp) .unavailable <|
  need (s.coreFree core && (s.cluster (s.clusterOf core)).clk != .off) .notPending <|
  .next (if pass then s.passTest core else (s.suspect core).hardMove core 8)

/-- Ticks of the 9 minutes without an idle window after which a core is tested during a task. -/
def testTicks : Nat := 9 * 60 * 25000000

/-- TEST_STOP: each array of a core that runs a task is stopped, tested and resumed in turn; a failed test recovers the task on
the hard path (R437). -/
def execTestStop (core : Nat) (pass0 pass1 : Bool) (s : State) : Host.Outcome State Fault Refusal :=
  unit core 512 <|
  need (s.hasCore core && s.mainlandUp) .unavailable <|
  need (s.coreIssues core && decide (testTicks ≤ s.ticks.toNat - (s.core core).lastPass)) .notPending <|
  let test (a : Nat) (s : State) : State := (s.stopArray core a).resumeArray core a
  .next (if !pass0 then (s.suspect core).recover core 8 8 true none
    else
      let s := test 0 s
      if !pass1 then (s.suspect core).recover core 8 8 true none else (test 1 s).passTest core)

/-! ### Dual execution (R439, R440) -/

/-- Ticks of the 10 s within which a logical core has at most one twin. -/
def twinTicks : Nat := 10 * 25000000

/-- DUAL_EXECUTION: a free core runs a twin of the task of core `orig` (R439). The twin sees the original's core number. -/
def execDualExecution (orig twin : Nat) (s : State) : Host.Outcome State Fault Refusal :=
  unit orig 512 <| unit twin 512 <|
  need (s.hasCore orig && s.hasCore twin && s.mainlandUp) .unavailable <|
  match (s.core orig).task with
  | none => .refused .notPending
  | some t =>
    need (t.phase == .running && t.ranges.isEmpty && t.gang.isNone && t.prio != .urgent && t.twinOf.isNone && !t.recompute) .notPending <|
    need (s.partOfCluster (s.clusterOf twin) == t.part && s.coreFree twin && (s.choose t.part).isNone &&
      (s.cluster (s.clusterOf twin)).clk != .off) .notPending <|
    need (match (s.core orig).twinAt with | some x => decide (twinTicks ≤ s.ticks.toNat - x) | none => true) .notPending <|
    let u := { t with twinOf := some orig, held := false, suspended := false, seq := s.dispatchSeq }
    let s := (s.wakeFor (s.clusterOf twin)).modCore twin fun c => c.startTask orig u
    let s := s.modCore orig fun c => { c with twinAt := some s.ticks.toNat }
    .next { s with dispatchSeq := s.dispatchSeq + 1 }

/-- The position of a sign-magnitude number on the line of its format. -/
def ordinal (w n : Nat) : Int := if n / 2 ^ (w - 1) = 1 then -((n % 2 ^ (w - 1) : Nat) : Int) else (n : Int)

/-- Two stored elements agree within the tolerance of R440. -/
def Fmt.agrees (f : Fmt) (a b : Nat) : Bool :=
  if a = b then true
  else if f.isInt then false
  else if (f.decodeElem a).isNan || (f.decodeElem b).isNan then (f.decodeElem a).isNan && (f.decodeElem b).isNan
  else
    let tol := if f == .fp32 || f == .fp19 || f == .fp16 || f == .bf16 then 8 else 1
    decide ((ordinal f.bits a - ordinal f.bits b).natAbs ≤ tol)

/-- The runs of successive addresses of a rising list: first address and length. -/
def runsOf : List Nat → List (Nat × Nat)
  | [] => []
  | a :: r =>
    match runsOf r with
    | (b, n) :: rs => if b = a + 1 then (a, n + 1) :: rs else (a, 1) :: (b, n) :: rs
    | [] => [(a, 1)]

/-- The virtual address of the first element of a twin's writes that differs from memory by more than the tolerance. -/
def State.firstMismatch (s : State) (t : Task) (f : Fmt) : Option Nat :=
  let mine (va : Nat) : Byte := (look none t.captured va).getD 0
  let theirs (va : Nat) : Byte := match s.translate t.asid va .r with
    | some (.dev a) => look 0 (s.lineValue (a / 256)) (a % 256)
    | _ => 0
  (runsOf (t.captured.map Prod.fst)).findSome? fun r =>
    (List.range (r.2 * 8 / f.bits)).findSome? fun k =>
      if f.agrees (packed mine f r.1 k) (packed theirs f r.1 k) then none else some (r.1 + k * f.bits / 8)

/-- The original of a twin has ended. -/
def State.origEnded (s : State) (t : Task) : Bool :=
  let same (u : Task) : Bool := u.queue == t.queue && u.desc == t.desc && u.index == t.index && u.twinOf.isNone
  (s.logicalCores.all fun l =>
    !((s.core l).task.elim false same) && !((s.core l).frame.elim false fun f => same f.task)) &&
  match s.desc? t.queue t.desc with
  | some d => !d.launch.redo.contains t.index
  | none => false

/-- The hard fault of a convicted core: a task that it runs is replayed (R438, R440). -/
def State.convict (s : State) (l : Nat) : State :=
  let s := s.suspect l
  if (s.core l).task.isSome then s.recover l 5 5 true none else s.hardMove l 5

/-- DUAL_COMPARISON: the twin on core `twin` has ended, and its original: its writes are compared with memory as elements of the
format `fmt`. `cover`: they cover the same bytes as the original's. On a mismatch a core that fails its self-test (`failO`,
`failT`) is convicted; with neither, `odd` names the core that the third run disagrees with: 1 the original, 2 the twin,
0 neither. A convicted original's task is replayed (R440). -/
def execDualComparison (twin : Nat) (cover : Bool) (fmt : Nat) (failO failT : Bool) (odd : Nat) (s : State) :
    Host.Outcome State Fault Refusal :=
  unit twin 512 <|
  need (s.hasCore twin && s.mainlandUp) .unavailable <|
  match (s.core twin).task, Fmt.ofCode fmt with
  | some t, some f =>
    match t.twinOf with
    | none => .refused .notPending
    | some o =>
      need ((s.core twin).taskOver t && s.origEnded t) .notPending <|
      let cl := s.clusterOf twin
      let bad := if t.phase = .trapped || !cover then some (s.firstMismatch t f |>.getD 0) else s.firstMismatch t f
      let s := (s.modCore twin fun c => { c.release with groups := [], undo := [], undoSeen := [] }).noteIdle cl
      match bad with
      | none => .next (s.launchSettle t.queue t.desc)
      | some va =>
        let cO := failO || (!failT && odd == 1)
        let cT := failT || (!failO && odd == 2)
        let s := s.record 0x08 1 0x0E 0 (locOf 1 o)
          (detailOf [(0, 2, twin), (2, 1, if cO then 1 else if cT then 2 else 0), (8, 8, va)])
        let s := if cT then s.convict twin else s
        let s := if cO then
            let s := s.modDesc t.queue t.desc fun d =>
              { d with recov := d.recov + 1, launch := { d.launch with ended := d.launch.ended - 1, redo := d.launch.redo ++ [t.index] } }
            if s.hasCore o then s.convict o else s
          else s
        .next (s.launchSettle t.queue t.desc)
  | _, _ => .refused .notPending

/-! ### Lanes and clusters (R443 to R447, Tables 12.4 and 12.5) -/

/-- The bond spare of a lane: one for each 16 lanes of its bundle. -/
def bondSpare (bundle lane : Nat) : Nat := bundle * 4096 + lane / 16

/-- A bond lane of a cluster's vertical port carried on its spare; `wear`: by an eye scan. -/
def State.spareBond (s : State) (c bundle lane wear : Nat) : State :=
  let s := s.modCluster c fun x => { x with bondUsed := x.bondUsed ++ [bondSpare bundle lane] }
  let s := s.journal [(6, journalBody [(4, (locOf 3 c).toNat), (2, bundle), (2, lane)])]
  s.record 0x19 2 0x05 0 (locOf 3 c) (detailOf [(0, 2, bundle), (2, 2, lane), (5, 1, wear)])

/-- A TSV lane of a channel carried on a spare. -/
def State.spareTsv (s : State) (ch lane wear : Nat) : State :=
  let left := (s.channel ch).tsvSpares - 1
  let s := s.modChannel ch fun x => { x with tsvSpares := left }
  let s := s.journal [(6, journalBody [(4, (locOf 6 ch).toNat), (2, lane), (1, 32 - left)])]
  s.record 0x19 1 0x05 0 (locOf 6 ch) (detailOf [(2, 2, lane), (4, 1, left), (5, 1, wear)])

/-- A die-link lane of the direction into an endpoint carried on a spare. -/
def State.spareLink (s : State) (ep lane : Nat) : State :=
  let left := (s.net.link ep).spareLanes - 1
  let s := s.modLink ep fun e => { e with badLanes := e.badLanes ++ [lane], spareLanes := left }
  let s := s.journal [(6, journalBody [(4, (locOf 7 ep).toNat), (2, lane), (1, epSpares ep - left)])]
  s.record 0x20 (epLevel ep) 0x05 0 (locOf 7 ep) (detailOf [(0, 2, lane), (2, 1, left)])

/-- The eye-height threshold of a stack in percent (R443, R444). -/
def Die.eyeMin (d : Die) : Nat := if 20000 < d.cycles then 70 else 60

/-- EYE_SCAN of a lane: `kind` 0 a bond of cluster `u`, 1 a TSV of channel `u`, 2 a die-link lane into endpoint `u`; `height`: the
eye's, in percent of its shipment value; `rate`: the extrapolated error rate exceeds 1e-15. A worn lane is retired onto a
spare where one is left (R443 to R445). -/
def execEyeScan (kind u bundle lane height : Nat) (rate : Bool) (s : State) : Host.Outcome State Fault Refusal :=
  need s.mainlandUp .unavailable <|
  match kind with
  | 0 =>
    unit u 64 <| unit bundle 3 <| need (!(s.cluster u).retired) .unavailable <|
    .next (if (rate || decide (height < (s.die (dieOfCluster u)).eyeMin)) && !(s.cluster u).bondUsed.contains (bondSpare bundle lane)
      then s.spareBond u bundle lane 1 else s)
  | 1 =>
    unit u 576 <|
    .next (if (rate || decide (height < (s.die (u / 144)).eyeMin)) && (s.channel u).tsvSpares != 0 then s.spareTsv u lane 1 else s)
  | 2 =>
    if !isEp u then .fault .noSuchUnit
    else .next (if (rate || decide (height < 60)) && (s.net.link u).spareLanes != 0 && !(s.net.link u).badLanes.contains lane
      then s.spareLink u lane else s)
  | _ => .fault .noSuchUnit

/-- The cluster cache of a cluster that is retired: written back while the port carries its lines; otherwise its dirty data is
lost (R447 step 3). -/
def State.emptyCc (s : State) (cl : Nat) (carries : Bool) : State :=
  let s := if carries then s.drainCluster cl else s
  let s := ((s.cluster cl).cc.map Prod.fst).foldl (fun s line =>
    match s.cc cl line with
    | none => s
    | some x =>
      if carries then (s.settle line).ccEvict cl line
      else
        let s := if x.st = .modified then s.loseLine line 4
          else if x.st = .pend then (List.range 4).foldl (fun s i =>
            if x.dirty.toNat / 2 ^ (64 * i) % 2 ^ 64 = 0 then s else s.loseCode (line * 256 + 64 * i) 4) s
          else s
        if x.st = .pend || x.st = .shared then s else s.ownerGone cl line) s
  s.modCluster cl fun c => { c with cc := [] }

/-- A cluster retired, with its CLUSTER_RETIRED record; `cause` as in Table 12.14 (R447). A TASK_RECOVERED record has no cause for it
but the voltage of a regulator; for a vertical port its cause is free among those of the table (log 107). -/
def State.retireCluster (s : State) (cl cause : Nat) (carries : Bool) : State :=
  let ls := s.coresOfCluster cl
  let (x, s) := s.draw
  let why := if cause = 3 then 6 else 1 + x.toNat % 8
  let s := s.journal [(9, journalBody [(4, (locOf 3 cl).toNat)])]
  let s := s.modCluster cl fun c => { c with retired := true, tileMover := false }
  let s := s.emptyCc cl carries
  let s := ls.foldl (fun s l =>
    let s := if (s.core l).task.isSome then s.recover l why 10 true none else s
    if s.hasCore l && s.clusterOf l == cl then s.hardMove l 10 else s) s
  let s := s.modCluster cl fun c => { c with gangs := [], cc := [] }
  let moved := (ls.filter s.hasCore).length
  s.record 0x1B 2 0x04 0 (locOf 3 cl) (detailOf [(0, 1, cause), (2, 1, moved), (3, 1, ls.length - moved)])

/-- A data bundle of a vertical port (1 toward the spine, 2 toward the cluster) is used up: the port runs at half width in that
direction, or with both the cluster is retired. A control bundle retires it at once (Table 12.5). -/
def State.bundleGone (s : State) (cl bundle : Nat) (carries : Bool) : State :=
  let c := s.cluster cl
  if bundle = 0 then s.retireCluster cl 1 carries
  else if (bundle = 1 && c.portHalfDown) || (bundle = 2 && c.portHalfUp) then s.retireCluster cl 2 carries
  else if c.portHalfUp || c.portHalfDown then s
  else
    let s := s.modCluster cl fun c => if bundle = 1 then { c with portHalfUp := true } else { c with portHalfDown := true }
    let s := s.journal [(6, journalBody [(4, (locOf 3 cl).toNat), (2, bundle), (2, 0xFFFF)])]
    s.record 0x1A 2 0x07 0 (locOf 3 cl) (detailOf [(0, 1, bundle - 1)])

/-- BOND_OR_TSV_LANE_FAILURE: a lane fails in service: `kind` 0 a bond of bundle 0 (control), 1 (data up) or 2 (data down) of
cluster `u`; 1 a TSV of channel `u`. It is carried on a spare; with the spares used up the outcome is that of Table 12.5.
`carries`: the port still carries the cluster's lines (R441, R446, R447). -/
def execBondOrTsvLaneFailure (kind u bundle lane : Nat) (carries : Bool) (s : State) : Host.Outcome State Fault Refusal :=
  need s.mainlandUp .unavailable <|
  match kind with
  | 0 =>
    unit u 64 <| unit bundle 3 <| need (!(s.cluster u).retired) .unavailable <|
    .next (if (s.cluster u).bondUsed.contains (bondSpare bundle lane) then s.bundleGone u bundle carries else s.spareBond u bundle lane 0)
  | 1 =>
    unit u 576 <| need (s.inService u) .notPending <|
    .next (if (s.channel u).tsvSpares ≠ 0 then s.spareTsv u lane 0
      else
        let s := s.record 0x17 1 0x10 0 (locOf 6 u) (detailOf [(0, 1, 1)])
        s.onRegions (s.poolRegions u) fun r => { r with memState := 2, mapOut := some (r.mapOut.getD u) })
  | _ => .fault .noSuchUnit

/-! ### The loss of the hub (R458, R459, R341, R327) -/

/-- HUB_LOSS: forwarding stops, every engine is dark, and the package leaves service; while completions can still be written
(`canWrite`), every queue's work in flight ends with DEVICE_LOST (case 7). -/
def execHubLoss (canWrite : Bool) (s : State) : Host.Outcome State Fault Refusal :=
  need (s.powered && s.boot.state != .halted) .unavailable <|
  let first := s.queues.findSome? fun x => if x.2.enabled then (x.2.descs.head?.map fun d => (x.1, d.index.toNat)) else none
  let s := s.onFab fun f => { f with forwarding := false }
  let s := each (List.range 4) (fun oe s => s.darken oe) s
  let s := if canWrite then
      (s.queues.map Prod.fst).foldl (fun s q =>
        (s.queue q).descs.foldl (fun s d =>
          match d.phase with
          | .finished st r => s.completeDesc q d st r
          | _ => s.completeDesc q d stLost 0) s) s
    else s
  let (q, i) := first.getD (0, 0)
  let s := s.record 0x3F 5 0x0F stLost.toNat (locOf 0 0) (detailOf [(0, 1, 7), (4, 4, q), (8, 4, i)])
  .next (s.onBoot fun b => { b with state := .halted, mainland := false })

end Sys2Proof.Machine
end

