-- ==== Sys2Proof/Machine/Power.lean ====
section
/-! DEFINITION. Power and clocks of a cluster: set points, clock states, power-up waves, the sag throttle, current limiters, stops,
the fallback rail and wear (R460 to R477, R480, R483, file 13; R442, file 12). -/

namespace Sys2Proof.Machine

/-! ### Set points (R466 to R468) -/

/-- Ticks of 1 µs and of 1 ms of the twilight clock (R465). -/
def usTicks : Nat := 25
/-- Ticks of 1 ms. -/
def msTicks : Nat := 25000

/-- The wear ceiling: the last step index of the range in which V(k) + m stays within 0.80 V; 450 MHz at most with both droop
detectors disabled (R467, R473). -/
def State.wearCeil (s : State) (cl : Nat) : Nat :=
  let c := s.cluster cl
  let n := ((List.range 19).takeWhile fun k => decide (Config.setPointMv cl k + c.wearMargin ≤ 800)).length
  min (n - 1) (if c.detOff = 3 then 12 else 18)

/-- The step index of the fallback rail: 500 MHz (R464). -/
def vfbStep : Nat := 14

/-- The least thermal ceiling of a cluster; a critical stack holds its clusters at 150 MHz (R468, R492). -/
def State.thermCeil (s : State) (cl : Nat) : Nat :=
  let c := s.cluster cl
  let d := s.die (dieOfCluster cl)
  if d.critical then 0 else min c.logicCeil (min c.sliceCeil d.dieCeil)

/-- The step index at which an ACTIVE cluster runs (R468); on the fallback rail it is fixed (R464). -/
def State.ceiling (s : State) (cl : Nat) : Nat :=
  if (s.cluster cl).onVfb then vfbStep
  else min s.power.capCeil (min s.power.fmax (min (s.wearCeil cl) (s.thermCeil cl)))

/-- SET_POINT_STEP: a running cluster moves one step toward its set point (R467). -/
def execSetPointStep (cl : Nat) (s : State) : Host.Outcome State Fault Refusal :=
  unit cl 64 <|
  need s.powered .unavailable <|
  let c := s.cluster cl
  need (c.clk == .active && c.step != c.target) .notPending <|
  .next (s.modCluster cl fun c => { c with step := if c.step < c.target then c.step + 1 else c.step - 1 })

/-! ### Clock states (R469 to R471) -/

/-- The L1s of a cluster invalidated, and its cluster cache written back and emptied, before its clocks stop (R470). -/
def State.quietCaches (s : State) (cl : Nat) : State :=
  let s := (s.coresOfCluster cl).foldl (fun s l => s.l1Clear l) s
  s.emptyCc cl true

/-- The time of a sleeping state has passed in ticks of idleness; a time of 0 skips the state. -/
def passed (time unit_ idle : Nat) : Bool := time != 0 && decide (time * unit_ ≤ idle)

/-- The deepest state whose time has passed for an idle cluster (R470, R472). -/
def State.deepest (s : State) (cl : Nat) : Option ClkState :=
  match (s.cluster cl).idleFrom with
  | none => none
  | some t =>
    let idle := s.ticks.toNat - t
    let w := s.power.idle
    if passed (fld w 16 16) msTicks idle then some .off
    else if passed (fld w 8 8) msTicks idle then some .gated
    else if passed (fld w 0 8) usTicks idle then some .clockOff
    else none

/-- The partition of a cluster needs it as its standby cluster: it holds an enabled queue with QUE_STANDBY, and no other of its
clusters with a free logical core is ACTIVE or in CLOCK-OFF (R398). -/
def State.standbyNeed (s : State) (cl : Nat) : Bool :=
  let p := s.partOfCluster cl
  s.standbyPart p && (s.clustersOfPart p).all fun c => decide (c = cl) || !(s.freeIn c .active || s.freeIn c .clockOff)

/-- How deep a clock state is. -/
def ClkState.depth (k : ClkState) : Nat := match k with | .active => 0 | .clockOff => 1 | .gated => 2 | .off => 3

/-- The cores of a cluster lose their local memory and register files, and count as having had no task (R471). -/
def State.clearCores (s : State) (cl : Nat) : State :=
  (s.coresOfCluster cl).foldl (fun s l => s.modCore l fun c => { c with lm := [], lastAsid := none, groups := [], l1 := [] }) s

/-- An idle cluster enters a sleeping state. A standby cluster enters none below CLOCK-OFF. -/
def enterClk (k : ClkState) (cl : Nat) (s : State) : Host.Outcome State Fault Refusal :=
  unit cl 64 <|
  need s.powered .unavailable <|
  let c := s.cluster cl
  need (s.clusterIdle cl && c.stop == .none && !c.waking && decide (c.clk.depth < k.depth)) .notPending <|
  need (match s.deepest cl with | some d => if d = k then true else decide (k.depth = 1 ∧ 1 < d.depth) && s.standbyNeed cl | none => false)
    .notPending <|
  need (k == .clockOff || !s.standbyNeed cl) .notPending <|
  let s := if c.clk = .active then s.quietCaches cl else s
  let s := s.modCluster cl fun c => { c with clk := k }
  .next (if k = .off then s.clearCores cl else s)

/-- CLOCK_OFF_ENTRY. -/
def execClockOffEntry (cl : Nat) (s : State) : Host.Outcome State Fault Refusal := enterClk .clockOff cl s
/-- GATED_ENTRY. -/
def execGatedEntry (cl : Nat) (s : State) : Host.Outcome State Fault Refusal := enterClk .gated cl s
/-- OFF_ENTRY. -/
def execOffEntry (cl : Nat) (s : State) : Host.Outcome State Fault Refusal := enterClk .off cl s

/-! ### Power-up waves (R477) -/

/-- OFF_EXIT_WAVE: a cluster that a dispatch, or its partition's standby, needs begins an OFF exit; a region begins at most one
in any 200 µs. -/
def execOffExitWave (cl : Nat) (s : State) : Host.Outcome State Fault Refusal :=
  unit cl 64 <|
  need s.powered .unavailable <|
  let c := s.cluster cl
  let r := regionOfCluster cl
  need (c.clk == .off && !c.waking && !c.retired && !c.regFailed && !c.inReset && (c.wakeReq || s.standbyNeed cl)) .notPending <|
  need (match (s.region r).waveAt with | some t => decide (200 * usTicks ≤ s.ticks.toNat - t) | none => true) .notPending <|
  let s := s.modRegion r fun x => { x with waveAt := some s.ticks.toNat }
  .next (s.modCluster cl fun c => { c with waking := true, gateSteps := 0 })

/-- A cluster whose gates are open is cleared, raises its step index to its ceiling, and is offered to the dispatcher. -/
def State.clusterOn (s : State) (cl : Nat) : State :=
  let s := s.clearCores cl
  let k := s.ceiling cl
  let s := s.modCluster cl fun c =>
    { c with clk := .active, waking := false, gateSteps := 0, wakeReq := false, step := k, target := k, cc := [], idleFrom := none }
  s.noteIdle cl

/-- GATE_STEP: a gate step of an OFF exit opens, once its die has seen no droop event for 10 µs; after the eighth the cluster
starts. -/
def execGateStep (cl : Nat) (s : State) : Host.Outcome State Fault Refusal :=
  unit cl 64 <|
  need s.powered .unavailable <|
  need (s.cluster cl).waking .notPending <|
  need (match (s.die (dieOfCluster cl)).lastDroop with | some t => decide (10 * usTicks ≤ s.ticks.toNat - t) | none => true) .notPending <|
  let s := s.modCluster cl fun c => { c with gateSteps := c.gateSteps + 1 }
  .next (if 8 ≤ (s.cluster cl).gateSteps then s.clusterOn cl else s)

/-! ### The sag throttle (R473 to R475) -/

/-- A stretch of at least 25 %. -/
def Cluster.sag (c : Cluster) : Cluster := { c with stretch := max c.stretch 25 }

/-- DROOP_TRIP: a detector of a running cluster trips; its clock stretches by 25 % (R473, R474). -/
def execDroopTrip (cl det : Nat) (s : State) : Host.Outcome State Fault Refusal :=
  unit cl 64 <| unit det 2 <|
  need s.powered .unavailable <|
  let c := s.cluster cl
  need (c.clk == .active && !bitAt c.detOff det && !bitAt c.tripped det) .notPending <|
  let s := s.touch
  let s := s.modDie (dieOfCluster cl) fun d => { d with lastDroop := some s.ticks.toNat }
  .next (s.modCluster cl fun c => { c.sag with tripped := c.tripped ||| BitVec.ofNat 3 (2 ^ det), droops := c.droops + 1 })

/-- STRETCH_ESCALATE: a detector is still tripped after 32 stretched cycles (R474). -/
def execStretchEscalate (cl : Nat) (s : State) : Host.Outcome State Fault Refusal :=
  unit cl 64 <|
  need s.powered .unavailable <|
  let c := s.cluster cl
  need (c.tripped != 0 && c.stretch == 25) .notPending <|
  .next (s.modCluster cl fun c => { c with stretch := 50 })

/-- STRETCH_END: the detectors of a cluster, and the VIN monitor, have stayed untripped for 1 µs (R474, R475). -/
def execStretchEnd (cl : Nat) (s : State) : Host.Outcome State Fault Refusal :=
  unit cl 64 <|
  need s.powered .unavailable <|
  need ((s.cluster cl).stretch != 0) .notPending <|
  .next (s.modCluster cl fun c => { c with stretch := 0, tripped := 0 })

/-- DETECTOR_DISABLE: a detector that has been tripped for 10 ms at good voltage is disabled (R473). -/
def execDetectorDisable (cl det : Nat) (s : State) : Host.Outcome State Fault Refusal :=
  unit cl 64 <| unit det 2 <|
  need s.mainlandUp .unavailable <|
  need (bitAt (s.cluster cl).tripped det && !bitAt (s.cluster cl).detOff det) .notPending <|
  let s := s.modCluster cl fun c =>
    { c with detOff := c.detOff ||| BitVec.ofNat 2 (2 ^ det), tripped := c.tripped &&& ~~~ BitVec.ofNat 3 (2 ^ det) }
  let s := s.modCluster cl fun c => { c with target := s.ceiling cl }
  .next (s.record 0x4C 2 0x07 0 (locOf 3 cl) (detailOf [(0, 1, det)]))

/-- VIN_SAG: the VIN monitor trips for `ns` nanoseconds; it acts as a detector of every cluster (R475). -/
def execVinSag (ns : Nat) (s : State) : Host.Outcome State Fault Refusal :=
  need s.powered .unavailable <|
  let s := s.touch
  let s := (List.range 64).foldl (fun s cl =>
    if (s.cluster cl).clk = .active then
      (s.modCluster cl fun c => { c.sag with tripped := c.tripped ||| 4, droops := c.droops + 1 }).modDie (dieOfCluster cl) fun d =>
        { d with lastDroop := some s.ticks.toNat }
    else s) s
  .next (s.onBoot fun b => { b with vinSags := b.vinSags + 1, vinSagLong := max b.vinSagLong ns })

/-- A limiter's stretch after a window: 50 % over the window's own bound; 25 % over the bound of the 50 µs mean, and held until
the mean falls below the release bound (R476). Currents in 0.1 A. -/
def limitStretch (now m50 m10 hold release limit10 : Nat) : Nat :=
  if limit10 < m10 then 50
  else if hold < m50 then 25
  else if m50 < release then 0
  else min now 25

/-- CURRENT_LIMIT_WINDOW: the limiters at the end of a 10 µs window; each pair gives the 50 µs mean and the 10 µs mean in 0.1 A, of
VIN, of the sum of the domains, and of each domain (R476). -/
def execCurrentLimitWindow (vin sum : Nat × Nat) (dom : List (Nat × Nat)) (s : State) : Host.Outcome State Fault Refusal :=
  need s.powered .unavailable <|
  let p := s.power
  let a := limitStretch p.limVin vin.1 vin.2 6450 6200 7800
  let b := limitStretch p.limSum sum.1 sum.2 17350 17000 17450
  let s := (List.range 64).foldl (fun s cl =>
    let m := dom.getD cl (0, 0)
    s.modCluster cl fun c => { c with limStretch := limitStretch c.limStretch m.1 m.2 360 340 460 }) s
  let acted := a != 0 || b != 0 || (List.range 64).any fun cl => (s.cluster cl).limStretch != 0
  .next (s.onPower fun p => { p with limVin := a, limSum := b, limActed := p.limActed || acted })

/-- The stretch of a cluster's clock: the largest that applies (R483). -/
def State.stretchOf (s : State) (cl : Nat) : Nat :=
  let c := s.cluster cl
  max c.stretch (max c.limStretch (max s.power.limVin s.power.limSum))

/-- The rate of a running cluster's core clock in MHz (R466). -/
def State.coreMhz (s : State) (cl : Nat) : Nat :=
  max ((100 - s.stretchOf cl) * (150 + 25 * (s.cluster cl).step) / 100) 150

/-! ### Stops (R480, R489) -/

/-- A core's tasks, the running and the pre-empted one, held or let go. -/
def Core.holdTasks (c : Core) (on : Bool) : Core :=
  { c with task := c.task.map fun t => { t with held := on }
           frame := c.frame.map fun f => { f with task := { f.task with held := on } } }

/-- The tasks of a cluster held with their watchdogs paused, or let go (R145, R480). -/
def State.holdTasks (s : State) (cl : Nat) (on : Bool) : State :=
  let now := s.ticks.toNat
  let ls := s.coresOfCluster cl
  let s := ls.foldl (fun s l => s.modCore l fun c => c.holdTasks on) s
  if on then ls.foldl (fun s l => s.modCore l fun c => { c with watch := if c.watch.hold then c.watch else c.watch.pause now }) s
  else ls.foldl (fun s l => match (s.core l).task with | some t => s.watchOn l t.gang | none => s) s

/-- A stop: the arrays of a cluster stop, its tasks are held in place, and it goes to CLOCK-OFF. -/
def State.stopCluster (s : State) (cl : Nat) (k : StopKind) : State :=
  let s := s.eachArray (s.coresOfCluster cl) fun l a s => s.stopArray l a
  let s := s.holdTasks cl true
  let s := if (s.cluster cl).clk = .active then s.quietCaches cl else s
  s.modCluster cl fun c => { c with stop := k, clk := if c.clk = .active then .clockOff else c.clk }

/-- A stop ends: the cluster runs, and its tasks go on. -/
def State.releaseCluster (s : State) (cl : Nat) : State :=
  let s := s.modCluster cl fun c => { c with stop := .none, clk := if c.clk = .clockOff then .active else c.clk }
  let s := s.holdTasks cl false
  s.eachArray (s.coresOfCluster cl) fun l a s => s.resumeArray l a

/-! ### The fallback rail (R463, R464, R483) -/

/-- Clusters of a region on its fallback rail. -/
def State.onRail (s : State) (r : Nat) : Nat := ((List.range 8).filter fun i => (s.cluster (r * 8 + i)).onVfb).length

/-- A failed regulator's cluster moved to the fallback rail, or retired where the rail is full or low (R463, R446). -/
def State.regulatorFails (s : State) (cl : Nat) (vfbLow carries : Bool) : State :=
  let r := regionOfCluster cl
  let s := s.modCluster cl fun c => { c with regFailed := false, waking := false }
  if 2 ≤ s.onRail r || vfbLow then s.retireCluster cl 3 carries
  else
    let s := (s.coresOfCluster cl).foldl (fun s l => if (s.core l).task.isSome then s.recover l 6 6 false none else s) s
    let s := s.journal [(10, journalBody [(4, (locOf 3 cl).toNat)])]
    let s := s.modCluster cl fun c => { c with onVfb := true, step := vfbStep, target := vfbStep }
    (s.record 0x1C 2 0x0D 0 (locOf 3 cl) (detailOf [(0, 1, s.onRail r)])).dtDue

/-- REGULATOR_FAILURE: a running cluster's regulator fails, or one found failed at its wake; in a GATED or OFF cluster the failure
waits for the wake. `vfbLow`: VFB reads below 0.74 V; `carries`: a retired cluster's port still carries its lines
(R463, R483). -/
def execRegulatorFailure (cl : Nat) (vfbLow carries : Bool) (s : State) : Host.Outcome State Fault Refusal :=
  unit cl 64 <|
  need s.mainlandUp .unavailable <|
  let c := s.cluster cl
  need (!c.retired && !c.onVfb) .notPending <|
  if (c.clk == .gated || c.clk == .off) && !c.waking && !(c.regFailed && c.wakeReq) then
    need (!c.regFailed) .notPending <| .next (s.modCluster cl fun c => { c with regFailed := true })
  else
    let s := s.regulatorFails cl vfbLow carries
    .next (s.modCluster cl fun c => if c.clk = .gated && c.wakeReq then { c.wake with wakeReq := false } else c)

/-! ### Wear (R442, R467) -/

/-- The slot is worn: 4 % lost, or 6 % projected (R442). -/
def Slot.worn (k : Slot) : Bool := decide (40 ≤ k.freqLoss) || decide (60 ≤ k.freqTrend)

/-- WEAR_MOVE: the logical core of a worn slot moves to a spare of its cluster at the end of its task; without one the
cluster's wear margin is raised, at most once in 24 hours (R442, R445, R467). -/
def execWearMove (core : Nat) (s : State) : Host.Outcome State Fault Refusal :=
  unit core 512 <|
  need (s.hasCore core && s.mainlandUp) .unavailable <|
  let old := s.slotOf core
  let cl := clusterOfSlot old
  need (s.slot old).worn .notPending <|
  match ((List.range 9).map (old / 9 * 9 + ·)).find? fun k => (s.slot k).status == .spare with
  | some new =>
    need ((s.core core).task.isNone && (s.core core).frame.isNone) .notPending <|
    let ch := (s.lcore core).channel.getD old
    let s := (s.modSlot old fun k => { k with status := .fenced }).modSlot new fun k => { k with status := .active }
    let s := s.modLcore core fun x => { x with slot := some new }
    let s := s.journal [(1, journalBody [(4, (locOf 2 old).toNat)]),
      (2, journalBody [(4, (locOf 1 core).toNat), (4, (locOf 2 new).toNat)]),
      (3, journalBody [(4, (locOf 2 new).toNat), (4, (locOf 6 ch).toNat)])]
    let s := s.modCore core Core.onSpare
    .next (s.record 0x06 1 0x05 0 (locOf 1 core) (detailOf [(0, 2, old), (2, 2, new), (4, 2, (s.slot old).freqLoss)])).dtDue
  | none =>
    let c := s.cluster cl
    need (decide (c.wearMargin < 25) && match c.wearRaisedAt with
      | some t => decide (dayTicks ≤ s.ticks.toNat - t)
      | none => true) .notPending <|
    let s := s.modCluster cl fun c => { c with wearMargin := c.wearMargin + 5, wearRaisedAt := some s.ticks.toNat }
    let s := s.modCluster cl fun c => { c with target := s.ceiling cl }
    .next (s.record 0x4B 2 0x00 0 (locOf 3 cl) (detailOf [(0, 1, c.wearMargin + 5), (1, 1, s.wearCeil cl)]))

end Sys2Proof.Machine
end

