-- ==== Sys2Proof/Machine/Almanac.lean ====
section
/-! DEFINITION. The almanac round: set-ups taken, sensors, thermal ceilings, the power cap, bandwidth caps, stops, bands, thermal
cycles, energy and telemetry (R478 to R492, R497 to R499, file 13; R279, file 08; R314, file 09; R409, R412, file 11; R551,
file 15). -/

namespace Sys2Proof.Machine

/-! ### Class shares (R313, R314) -/

/-- A requested set of shares taken, or refused as a whole (R314). -/
def State.takeQos (s : State) : State :=
  if !s.net.qosPending then s
  else
    let cs := List.range 7
    let s := s.onNet fun n => { n with qosPending := false }
    if 256 < (cs.map fun c => (s.qosOf c).req.toNat).sum || cs.any fun c => decide ((s.qosOf c).req.toNat < shareLeast c) then
      s.onNet fun n => { n with qosReject := true }
    else cs.foldl (fun s c => s.putQos c { s.qosOf c with applied := (s.qosOf c).req }) s

/-! ### Requests taken at the start of a round (R472, R478, R551) -/

/-- The code of a power-cap source in CAP_CHANGED. -/
def CapSrc.code (c : CapSrc) : Nat := match c with | .p0 => 0 | .p1 => 1 | .sideband => 2

/-- The latest valid cap request takes effect; a change is recorded (R478). -/
def State.takeCap (s : State) : State :=
  match s.power.capPending with
  | none => s
  | some (w, f, src) =>
    let same := s.power.cap == w && s.power.fmax == f
    let s := s.onPower fun p => { p with cap := w, fmax := f, capPending := none }
    if same then s else s.record 0x48 5 0x00 0 (locOf 0 0) (detailOf [(0, 2, w), (2, 1, f), (3, 1, src.code)])

/-- A TEL_CFG write taken or refused (R551). -/
def Func.takeTel (f : Func) (vf : Bool) : Func :=
  if !f.telPending then f
  else
    let x := f.telStored
    let f := { f with telPending := false }
    if x.period = 0 || 1000 < x.period || (x.en && f.telBase.toNat / 4096 = 0) then { f with telReject := true }
    else
      { f with
        tel := { x with mask := if vf then x.mask &&& 1 else x.mask, base := f.telBase.toNat / 4096 * 4096 }
        telErr := f.telErr && !x.en, telRounds := 0, telRecords := if x.en && !f.tel.en then 0 else f.telRecords }

/-- Every waiting set-up taken. -/
def State.takeSetups (s : State) : State :=
  let s := s.takeCap.takeQos
  let s := s.onPower fun p => { p with idle := p.idleStored }
  (s.funcs.map Prod.fst).foldl (fun s k => s.modFunc k fun f => f.takeTel (k % 32 != 0)) s

/-! ### Sensors (R486 to R491) -/

/-- A reading of a list of samples. -/
def at_ (l : List Int) (i : Nat) : Int := l.getD i 0

/-- The greatest of some readings. -/
def hottest (l : List Int) : Int :=
  match l with
  | [] => 0
  | x :: r => r.foldl max x

/-- Degrees in units of 0.125 °C. -/
def deg (n : Int) : Int := 8 * n

/-- Rounds for which a logic sensor has differed by more than 10 °C from the other three of its cluster; from ten on it stays
excluded (R488). -/
def Cluster.strayed (c : Cluster) (t : List Int) (i : Nat) : Nat :=
  let n := look 0 c.logicExcl i
  if 10 ≤ n then n
  else if (List.range 4).all fun j => decide (j = i) || decide (deg 10 < (at_ t i - at_ t j).natAbs) then n + 1
  else 0

/-- The logic reading of a cluster. -/
def State.readLogic (s : State) (x : Samples) (cl : Nat) : State :=
  let t := (List.range 4).map fun i => at_ x.logic (cl * 4 + i)
  s.modCluster cl fun c =>
    let ex := (List.range 4).foldl (fun m i => put 0 m i (c.strayed t i)) c.logicExcl
    let used := (List.range 4).filter fun i => decide (look 0 ex i < 10)
    { c with logicExcl := ex, tLogic := hottest (at_ x.reg cl :: used.map (at_ t)), domMv := x.domMv.getD cl 0, domI := x.domI.getD cl 0 }

/-- θ of a slice within the range of R490. -/
def thetaOf (k : Nat) : Nat := min 450 (max 250 (Config.theta k))

/-- Requests a slice has taken since the reset. -/
def Slice.accesses (sl : Slice) : Nat := (sl.hits.map Prod.snd).sum + (sl.misses.map Prod.snd).sum

/-- The middle-layer model of a slice (R490). -/
def State.modelT (s : State) (x : Samples) (k : Nat) : Int :=
  let tD := at_ x.dense (k / 16 * 64 + k % 16 / 2)
  let mw := x.domI.getD k 0 * x.domMv.getD k 0 / 10 + Config.sliceMw k (s.slice k).accesses
  tD + ((thetaOf k * mw * 8 / 1000000 : Nat) : Int)

/-- The effective SRAM-tier temperature of a slice, and what the model's excess over the sensors brings in (R488, R490, R491). -/
def State.readSlice (s : State) (x : Samples) (k : Nat) : State :=
  let sl := s.slice k
  let tm := s.modelT x k
  let meas := if sl.sensorsOff then at_ x.sram (k * 3 + 2) else max (at_ x.sram (k * 3)) (at_ x.sram (k * 3 + 1))
  let n := if deg 6 < tm - meas then sl.modelRounds + 1 else 0
  let s := s.modSlice k fun sl => { sl with tEff := if sl.modelOnly then tm else max tm meas, modelRounds := n }
  if n < 10 || sl.modelOnly then s
  else if sl.sensorsOff then
    (s.modSlice k fun sl => { sl with modelOnly := true, modelRounds := 0 }).record 0x46 4 0x00 0 (locOf 3 k)
      (detailOf [(0, 2, (tm - meas).toNat)])
  else
    let s := s.modSlice k fun sl => { sl with sensorsOff := true, modelRounds := 0 }
    let s := s.journal [(11, journalBody [(4, (locOf 3 k).toNat), (1, 2)])]
    s.record 0x1D 4 0x05 0 (locOf 3 k) (detailOf [(0, 1, 2)])

/-- The band of a stack after a round (R279). -/
def bandAfter (band : Nat) (t : Int) : Nat :=
  let up := if deg 95 ≤ t then 3 else if deg 85 ≤ t then 2 else if deg 75 ≤ t then 1 else 0
  if band < up then up
  else if 0 < band && t ≤ deg (65 + 10 * band) - deg 3 then band - 1
  else band

/-- The refresh window of a band in ms (Table 08.8). -/
def windowOf (band : Nat) : Nat := match band with | 0 => 64 | 1 => 32 | 2 => 16 | _ => 8

/-- A 16-bit field of a temperature. -/
def tempField (t : Int) : Nat := (t % 65536).toNat

/-- One reading of a stack's thermal-cycle counter (R498). -/
def Die.cycle (d : Die) (t : Int) : Die :=
  match d.cycLo with
  | none => { d with cycLo := some t, cycRising := false }
  | some lo =>
    if d.cycRising then
      let hi := max d.cycHi t
      if deg 20 ≤ hi - t then { d with cycHi := hi, cycles := d.cycles + 1, cycLo := some t, cycRising := false }
      else { d with cycHi := hi }
    else
      let lo := min lo t
      if deg 20 ≤ t - lo then { d with cycLo := some lo, cycHi := t, cycRising := true } else { d with cycLo := some lo }

/-- A stack's dense reading, band and thermal cycles. -/
def State.readDie (s : State) (x : Samples) (d : Nat) : State :=
  let t := hottest ((List.range 64).map fun i => at_ x.dense (d * 64 + i))
  let old := (s.die d).band
  let new := bandAfter old t
  let hot := hottest ((List.range 16).map fun i => (s.cluster (d * 16 + i)).tLogic)
  let s := s.modDie d fun y => ({ y with tDense := t, band := new }).cycle hot
  let s := (List.range 144).foldl (fun s i => s.modChannel (d * 144 + i) fun c =>
    { c with bandTime := put 0 c.bandTime new (bump 48 (look 0 c.bandTime new)) }) s
  if new = old then s else s.record 0x42 4 0x00 0 (locOf 5 d) (detailOf [(0, 1, old), (1, 1, new), (2, 2, tempField t)])

/-! ### Ceilings (R489) -/

/-- A ceiling: its step index, its quiet rounds, and its rounds below step 18. -/
structure Ceil where
  /-- the step index -/
  step : Nat
  /-- quiet rounds in a row -/
  quiet : Nat
  /-- rounds below step 18 -/
  rounds : Nat

/-- A ceiling after one round of a reading against its throttle point (R489). -/
def Ceil.round (c : Ceil) (t point : Int) : Ceil :=
  let c : Ceil :=
    if point ≤ t then { c with step := c.step - (if point + deg 5 ≤ t then 4 else 1), quiet := 0 }
    else if t ≤ point - deg 3 then
      if 9 ≤ c.quiet then { c with step := min 18 (c.step + 1), quiet := 0 } else { c with quiet := c.quiet + 1 }
    else { c with quiet := 0 }
  { c with rounds := if c.step < 18 then c.rounds + 1 else c.rounds }

/-- The record of a ceiling that first falls, or regains step 18. `layer`: as the trip causes 1 to 3. `model`: the reading came
from the model. -/
def State.ceilRecord (s : State) (old new : Ceil) (level layer : Nat) (loc : BitVec 32) (t : Int) (model : Bool) : State :=
  if old.step = 18 && new.step < 18 then
    s.record 0x40 level 0x00 0 loc (detailOf [(0, 1, layer), (2, 2, tempField t), (4, 1, new.step), (5, 1, if model then 1 else 0)])
  else if old.step < 18 && new.step = 18 then
    s.record 0x41 level 0x00 0 loc (detailOf [(0, 1, layer), (4, 4, new.rounds)])
  else s

/-- Rounds start again when a ceiling regains step 18. -/
def Ceil.settle (c : Ceil) : Ceil := if c.step = 18 then { c with rounds := 0 } else c

/-- The logic and slice ceilings of a cluster. -/
def State.clusterCeil (s : State) (x : Samples) (cl : Nat) : State :=
  let c := s.cluster cl
  let a : Ceil := ⟨c.logicCeil, c.logicQuiet, c.logicRounds⟩
  let b : Ceil := ⟨c.sliceCeil, c.sliceQuiet, c.sliceRounds⟩
  let t := (s.slice cl).tEff
  let a' := a.round c.tLogic (deg 100)
  let b' := b.round t (deg 95)
  let s := s.modCluster cl fun c =>
    { c with logicCeil := a'.step, logicQuiet := a'.quiet, logicRounds := a'.settle.rounds,
             sliceCeil := b'.step, sliceQuiet := b'.quiet, sliceRounds := b'.settle.rounds }
  (s.ceilRecord a a' 2 1 (locOf 3 cl) c.tLogic false).ceilRecord b b' 4 2 (locOf 3 cl) t (t == s.modelT x cl)

/-- The die ceiling, the thermal bandwidth cap and the critical state of a stack (R489, R492). -/
def State.dieCeilRound (s : State) (d : Nat) : State :=
  let y := s.die d
  let t := y.tDense
  let a : Ceil := ⟨y.dieCeil, y.dieQuiet, y.dieRounds⟩
  let a' := a.round t (deg 98)
  let bw := if deg 102 ≤ t then (if y.bwTherm = 1000 then 750 else max 250 (y.bwTherm - 125))
    else if t ≤ deg 99 then min 1000 (y.bwTherm + 125) else y.bwTherm
  let s := s.modDie d fun y =>
    { y with dieCeil := a'.step, dieQuiet := a'.quiet, dieRounds := a'.settle.rounds, bwTherm := bw,
             critical := decide (deg 105 < t) || (y.critical && decide (deg 102 < t)) }
  let s := s.ceilRecord a a' 4 3 (locOf 5 d) t false
  if y.bwTherm = 1000 && bw < 1000 then
    s.record 0x43 4 0x00 0 (locOf 5 d) (detailOf [(0, 1, bw / 10), (1, 1, 0), (2, 2, tempField t)])
  else s

/-- The thermal spine clock of a region (R489). -/
def State.spineRound (s : State) (r : Nat) : State :=
  let y := s.region r
  let t := hottest ((List.range 8).map fun i => (s.slice (r * 8 + i)).tEff)
  let (mhz, q) :=
    if deg 100 ≤ t then (max 300 (y.spineTherm - 300), 0)
    else if t ≤ deg 95 then (if 9 ≤ y.spineQuiet then (min 1200 (y.spineTherm + 300), 0) else (y.spineTherm, y.spineQuiet + 1))
    else (y.spineTherm, 0)
  let rounds := if mhz < 1200 then y.spineRounds + 1 else 0
  let s := s.modRegion r fun y =>
    { y with spineTherm := mhz, spineQuiet := q, spineRounds := rounds, spineMhz := if y.spineIdle then 300 else mhz }
  if y.spineTherm = 1200 && mhz < 1200 then
    s.record 0x40 3 0x00 0 (locOf 4 r) (detailOf [(0, 1, 2), (2, 2, tempField t), (4, 1, mhz / 300)])
  else if y.spineTherm < 1200 && mhz = 1200 then
    s.record 0x41 3 0x00 0 (locOf 4 r) (detailOf [(0, 1, 2), (4, 4, y.spineRounds)])
  else s

/-- Thermal stops: a logic reading of 112 °C with the cluster at 150 MHz, until it falls to 100 °C; on the fallback rail, a
thermal ceiling below 500 MHz (R464, R489). -/
def State.thermStop (s : State) (cl : Nat) : State :=
  let c := s.cluster cl
  let note (s : State) (e : Nat) : State := s.record 0x44 2 0x00 0 (locOf 3 cl) (detailOf [(0, 1, e), (2, 2, tempField c.tLogic)])
  let low := c.onVfb && decide (s.thermCeil cl < vfbStep)
  match c.stop with
  | .none =>
    if c.clk = .active && ((deg 112 ≤ c.tLogic && c.step = 0) || low) then note (s.stopCluster cl .thermal) 0 else s
  | .thermal => if c.tLogic ≤ deg 100 && !low then note (s.releaseCluster cl) 1 else s
  | .power => s

/-! ### The power cap (R479, R480) -/

/-- The cap ceiling after a round of package power `p` in mW (R479). -/
def Power.capRound (w : Power) (p : Nat) : Power :=
  let c := w.cap * 1000
  let past := if c < p then w.overRounds + 1 else 0
  let w := { w with overRounds := past }
  if c < p then { w with capCeil := w.capCeil - max 1 ((50 * (p - c) + c - 1) / c), quiet := 0 }
  else if 100 * p ≤ 97 * c then
    if 9 ≤ w.quiet then { w with capCeil := min 18 (w.capCeil + 1), quiet := 0 } else { w with quiet := w.quiet + 1 }
  else { w with quiet := 0 }

/-- The highest class among the tasks of a cluster; none where it runs none. -/
def State.clusterClass (s : State) (cl : Nat) : Option Nat :=
  ((s.coresOfCluster cl).filterMap fun l => (s.core l).task.map fun t => t.prio.ix).min?

/-- The cluster that a power stop takes: of those that run, the one whose tasks are of the lowest class, never with an URGENT
task. -/
def State.stopChoice (s : State) : Option Nat :=
  let cand := (List.range 64).filterMap fun cl =>
    if (s.cluster cl).clk = .active && (s.cluster cl).stop = .none then
      match s.clusterClass cl with
      | some k => if k = 0 then none else some (cl, k)
      | none => none
    else none
  (cand.foldl (fun (b : Option (Nat × Nat)) y => match b with
    | none => some y
    | some z => some (if z.2 < y.2 then y else z)) none).map Prod.fst

/-- The further levers of R480 in a round of package power `p` in mW. -/
def State.levers (s : State) (p : Nat) : State :=
  let w := s.power
  let c := w.cap * 1000
  let watts := min 2047 (p / 1000)
  let stopRec (s : State) (cl e : Nat) : State := s.record 0x45 2 0x00 0 (locOf 3 cl) (detailOf [(0, 1, e), (2, 2, watts)])
  if c < p then
    if !w.bwUsed then
      if w.capCeil = 0 && 10 ≤ w.overRounds then
        let s := s.onPower fun w => { w with bwUsed := true, bwCap := 750 }
        (s.record 0x49 5 0x00 0 (locOf 0 0) (detailOf [(0, 1, 1), (2, 2, watts)])).record 0x43 5 0x00 0 (locOf 0 0)
          (detailOf [(0, 1, 75), (1, 1, 1), (2, 2, watts)])
      else s
    else if 250 < w.bwCap then s.onPower fun w => { w with bwCap := max 250 (w.bwCap - 125) }
    else match s.stopChoice with
      | none => s
      | some cl =>
        let first := w.stops.isEmpty
        let s := (s.stopCluster cl .power).onPower fun w => { w with stops := cl :: w.stops }
        let s := if first then s.record 0x49 5 0x00 0 (locOf 0 0) (detailOf [(0, 1, 2), (2, 2, watts)]) else s
        stopRec s cl 0
  else if 10 * p ≤ 9 * c && w.bwUsed then
    match w.stops with
    | cl :: r => stopRec ((s.releaseCluster cl).onPower fun w => { w with stops := r }) cl 1
    | [] => if w.bwCap < 750 then s.onPower fun w => { w with bwCap := min 750 (w.bwCap + 125) }
            else s.onPower fun w => { w with bwCap := 1000, bwUsed := false }
  else s

/-! ### Energy (R409, R486) -/

/-- Package energy of a round in 0.1 uJ: board-rail voltage by current over 1 ms. -/
def Samples.energy (x : Samples) : Nat := ((List.range 11).map fun i => x.railI.getD i 0 * x.railMv.getD i 0).sum

/-- Energy in 0.000001 uJ given to a queue. -/
def Queue.addEnergy (k : Queue) (e : Nat) : Queue :=
  let n := k.energyFrac + e
  { k with energy := k.energy + bits 64 (n / 1000000), energyFrac := n % 1000000 }

/-- The energy of a round attributed: each queue's direct energy with its part of the overhead, which together are the queue's share
of the whole in proportion to its direct energy; with none direct, to the idle energy (R409). -/
def State.shareEnergy (s : State) (x : Samples) : State :=
  let e6 := x.energy * 100000
  let direct := (x.direct.map Prod.snd).sum
  let s := s.onPower fun w =>
    let n := w.energyFrac + x.energy
    { w with energy := w.energy + bits 64 (n / 10), energyFrac := n % 10, nowMw := x.energy / 10, nowW := min 2047 (x.energy / 10000),
             idleEnergy := if direct = 0 then w.idleEnergy + bits 64 (n / 10) else w.idleEnergy }
  if direct = 0 then s
  else
    let part (d : Nat) : Nat := e6 * d / direct
    let s := x.direct.foldl (fun s d => s.modQueue d.1 fun k => k.addEnergy (part d.2)) s
    x.tasks.foldl (fun s t => s.modDesc t.1 t.2.1 fun d =>
      { d with launch := { d.launch with energy := d.launch.energy + bits 64 (part t.2.2 / 1000000) } }) s

/-! ### PWR_STATUS bits and THERM_N (R482, R497) -/

/-- A thermal ceiling below step 18, a thermal stop, a thermal bandwidth cap or a critical stack. -/
def State.thermActs (s : State) : Bool :=
  ((List.range 64).any fun cl => decide ((s.cluster cl).logicCeil < 18) || decide ((s.cluster cl).sliceCeil < 18) ||
    (s.cluster cl).stop == .thermal) ||
  (List.range 4).any fun d => decide ((s.die d).dieCeil < 18) || decide ((s.die d).bwTherm < 1000) || (s.die d).critical

/-- PWR_LIM_CAP to PWR_LIM_STOP, bits [20:16] of PWR_STATUS. -/
def State.limBits (s : State) : Nat :=
  let w := s.power
  let spine := (List.range 8).any fun r => decide ((s.region r).spineTherm < 1200)
  (if w.capCeil < 18 then 1 else 0) + (if w.limCurrent then 2 else 0) + (if s.thermActs || spine then 4 else 0) +
  (if w.bwUsed then 8 else 0) + (if w.stops.isEmpty then 0 else 16)

/-- Clusters on fallback rails. -/
def State.fallbacks (s : State) : Nat := ((List.range 64).filter fun cl => (s.cluster cl).onVfb).length

/-! ### Telemetry (R412, R487, Tables 11.27, 11.28, 13.10) -/

/-- Counters of 8 bytes each, filled with zeros to an entry's size. -/
def counters (size : Nat) (ns : List Nat) : List Byte := padTo size (ns.flatMap (bytesOf 8))

/-- The code of a clock state in PT_DOM_STATE. -/
def Cluster.domState (c : Cluster) : Nat := c.step + 32 * c.clk.depth + (if c.onVfb then 128 else 0)

/-- The POWER entry (Table 13.10). -/
def State.powerEntry (s : State) : List Byte :=
  let w := s.power
  let per (n : Nat) (f : Cluster → Nat) : List Byte := (List.range 64).flatMap fun cl => bytesOf n (f (s.cluster cl))
  let z (n : Nat) : List Byte := List.replicate n 0
  bytesOf 4 w.nowMw ++ bytesOf 2 w.cap ++ bytesOf 2 s.limBits ++ bytesOf 8 w.energy.toNat ++ bytesOf 8 w.idleEnergy.toNat ++ z 8 ++
  ((List.range 11).flatMap fun i => bytesOf 2 (look 0 w.railI i)) ++ z 10 ++
  per 2 (·.domI) ++ per 2 (·.domMv) ++ per 1 Cluster.domState ++ per 2 (fun c => tempField c.tLogic) ++
  ((List.range 64).flatMap fun k => bytesOf 2 (tempField (s.slice k).tEff)) ++
  ((List.range 4).flatMap fun d => bytesOf 2 (tempField (s.die d).tDense)) ++
  ((List.range 4).flatMap fun d => bytesOf 1 (if (s.die d).critical then 4 else (s.die d).band)) ++
  bytesOf 2 (tempField w.tHub) ++ z 2 ++
  ((List.range 4).flatMap fun o => bytesOf 2 (tempField (s.fab.engine o).tOpt)) ++
  ((List.range 8).flatMap fun r => bytesOf 1 ((s.region r).spineMhz / 300)) ++
  per 2 (·.droops) ++ ((List.range 4).flatMap fun d => bytesOf 4 (s.die d).cycles) ++
  bytesOf 2 s.boot.fuses.trips ++ bytesOf 1 s.fallbacks ++ z 1 ++
  ((List.range 4).flatMap fun d => bytesOf 1 (min (s.die d).bwTherm w.bwCap / 10)) ++ z 200

/-- Lines that a slice holds pinned. -/
def Slice.pinnedNow (sl : Slice) : Nat := (sl.sets.flatMap fun p => p.2.filter fun x => x.pin != .unpinned).length

/-- The fewest spare rows left in any macro of a slice: data macros have eight, the others four. -/
def Slice.sparesLeft (sl : Slice) : Nat :=
  sl.rowSpares.foldl (fun n p => min n ((if p.1 / 1024 = 0 then 8 else 4) - p.2)) 4

/-- The counters of a slice in the order of Table 11.27. -/
def Slice.counters (sl : Slice) : List Nat :=
  ((List.range 24).map fun i => look 0 sl.hits i) ++ ((List.range 24).map fun i => look 0 sl.misses i) ++
  [sl.pinDemote, sl.pinnedNow, sl.ledPoison, sl.ledLenient, sl.ledNoctx, sl.ledOver, sl.dirRecall, sl.ce, sl.sparesLeft,
   (sl.waysOff.map fun p => (maskList 16 p.2.toNat).length).sum, sl.setsOff.length]

/-- The counters of a channel in the order of Table 08.12. -/
def Channel.counters (c : Channel) : List Nat :=
  [c.burstRd, c.burstWr, c.narrowRd, c.chCe, c.chCe4, c.chUe, c.chParity, c.scrubPass, c.retired.length + c.poolRetired] ++
  (List.range 4).map fun b => look 0 c.bandTime b

/-- The regulated points that a sum of NET_BYTES covers, for one direction: of a region its vertical and slice ports, outward being
toward the spine; of a seam its bridges; of a link or a half its end (R315; Table 11.28; log 89). -/
def netPoints (p dir : Nat) : List Nat :=
  if p < 8 then (List.range 8).flatMap fun i => if dir = 0 then [ptUp (p * 8 + i), ptOut (p * 8 + i)] else [ptDown (p * 8 + i), ptIn (p * 8 + i)]
  else if p < 12 then (List.range 4).map fun b => ptSeam (p - 8) b dir
  else if p < 15 then (if dir = 0 then [ptLink ((p - 12) * 16)] else [ptLink ((p - 11) * 16 + 1)])
  else if p = 15 then (if dir = 0 then [ptLink 1] else [ptLink 48])
  else if dir = 0 then [ptLink ((p - 16) / 2 * 16 + 2 + (p - 16) % 2)] else [ptLink (64 + (p - 16))]

/-- NET_BYTES, or NET_SHORT, of sum `p`, class and direction `i` = class × 2 + direction: the messages that the model carries, and
those that an almanac round reports (R315). -/
def State.netTotal (s : State) (p i : Nat) (short : Bool) : Nat :=
  (look 0 (if short then s.net.netShort else s.net.netBytes) (p * 16 + i) + ((netPoints p (i % 2)).map fun k =>
    let x := look {} s.net.points k
    look 0 (if short then x.short else x.bytes) (i / 2)).sum) % 2 ^ 64

/-- The bytes of a telemetry section of function `k`. -/
def State.section_ (s : State) (k b : Nat) : List Byte :=
  match b with
  | 0 => (List.range 64).flatMap fun j => counters 16 [(s.queue (k * 64 + j)).energy.toNat, (s.queue (k * 64 + j)).done.toNat]
  | 1 => s.powerEntry
  | 2 => (List.range s.gradeCores).flatMap fun l => counters 16 [(s.core l).rcHit, (s.core l).rcMiss]
  | 3 => (List.range 64).flatMap fun cl =>
      let c := s.cluster cl
      counters 64 [c.ccRdHit, c.ccRdMiss, c.ccWr, c.ccWb, c.ccAtomic, c.ccRecall]
  | 4 => (List.range 64).flatMap fun j => counters 512 (s.slice j).counters
  | 5 => (List.range 576).flatMap fun c => counters 128 (s.channel c).counters
  | 6 => (List.range 24).flatMap fun p => counters 256 ((List.range 14).flatMap fun i => [s.netTotal p i false, s.netTotal p i true])
  | 7 => ((List.range 72).filter isEp).flatMap fun e => counters 16 [(s.net.link e).crcErr, (s.net.link e).replays]
  | 8 => (List.range 16).flatMap fun i =>
      let x := s.fab.strait i
      counters 64 [x.crcErr, x.replays, x.fecCorr, x.fecUncorr]
  | 9 => counters 32 [s.fab.hopDrop, s.fab.repeats, s.fab.gaps, s.fab.retx]
  | _ => []

/-- The sections of a record that fit a slot, each with its offset, and the record's length (R412). -/
def fitSections (slot : Nat) : List (Nat × List Byte) → Nat → List (Nat × Nat × List Byte) × Nat
  | [], n => ([], n)
  | (b, d) :: r, n =>
    let len := (d.length + 63) / 64 * 64
    if n + len ≤ slot then
      let (l, m) := fitSections slot r (n + len)
      ((b, n, padTo len d) :: l, m)
    else fitSections slot r n

/-- The record of function `k`: header, then sections (Tables 11.27, 11.28), without its generation. -/
def State.telRecord (s : State) (k slot : Nat) (mask : BitVec 10) : List Byte :=
  let (l, n) := fitSections slot (((List.range 10).filter fun b => bitAt mask b).map fun b => (b, s.section_ k b)) 128
  let offs := (List.range 16).flatMap fun b => bytesOf 4 ((l.find? fun x => x.1 == b).elim 0 fun x => x.2.1)
  bytesOf 8 s.rounds.toNat ++ bytesOf 8 s.ticks.toNat ++ bytesOf 4 (maskOf (l.map Prod.fst)) ++ bytesOf 4 n ++
  List.replicate 32 0 ++ offs ++ l.flatMap fun x => x.2.2

/-- A round counted for the telemetry of function `k`; at the end of a period its record is written into the next slot. A write
that fails stops the ring (R412, R551). -/
def State.telRound (s : State) (x : Samples) (k : Nat) : State :=
  let f := s.func k
  if !f.tel.en || f.telErr then s
  else if f.telRounds + 1 < f.tel.period then s.modFunc k fun f => { f with telRounds := f.telRounds + 1 }
  else if x.telFail.contains k then s.modFunc k fun f => { f with telErr := true, telRounds := 0 }
  else
    let size := (f.tel.slotSize + 1) * 4096
    let n := f.telRecords.toNat
    let a := f.tel.base + n % (f.tel.slotsM1 + 1) * size
    let space := pasidSpace f.tel.pasidEn f.tel.pasid
    let port := k / 32
    let s := s.hostWrite port space a (bytesOf 8 (2 * n + 1))
    let s := s.hostWrite port space (a + 8) (s.telRecord k size f.tel.mask)
    let s := s.hostWrite port space a (bytesOf 8 (2 * n + 2))
    s.modFunc k fun f => { f with telRecords := f.telRecords + 1, telRounds := 0 }

/-! ### The round (Table 13.9a) -/

/-- Monitors read into the state. -/
def State.readMonitors (s : State) (x : Samples) : State :=
  let s := each (List.range 64) (fun cl s => s.readLogic x cl) s
  let s := each (List.range 64) (fun k s => s.readSlice x k) s
  let s := each (List.range 4) (fun d s => s.readDie x d) s
  let s := s.onPower fun w =>
    { w with tHub := hottest ((List.range 32).map (at_ x.hub)),
             railI := (List.range 11).foldl (fun m i => put 0 m i (x.railI.getD i 0)) w.railI,
             limCurrent := w.limActed, limActed := false, sampled := true }
  let s := each (List.range 4) (fun o s => s.modEngine o fun e =>
    { e with tOpt := hottest ((List.range 4).map fun i => at_ x.opt (o * 4 + i)) }) s
  let s := x.sources.foldl (fun s y => s.modEngine y.1 fun e => { e with srcPower := y.2.1, srcTemp := y.2.2.1, srcLevel := y.2.2.2 }) s
  let s := x.rings.foldl (fun s y => s.modSlot y.1 fun k => { k with freqLoss := y.2.1, freqTrend := y.2.2 }) s
  s.onNet fun n => x.net.foldl (fun n y =>
    { n with netBytes := put 0 n.netBytes y.1 ((look 0 n.netBytes y.1 + y.2.1) % 2 ^ 64),
             netShort := put 0 n.netShort y.1 ((look 0 n.netShort y.1 + y.2.2) % 2 ^ 64) }) n

/-- Ceilings, the cap, bandwidth caps and stops decided. -/
def State.decide_ (s : State) (x : Samples) : State :=
  let s := each (List.range 64) (fun cl s => s.clusterCeil x cl) s
  let s := each (List.range 4) (fun d s => s.dieCeilRound d) s
  let s := each (List.range 8) (fun r s => s.spineRound r) s
  let s := s.onPower fun w => w.capRound (x.energy / 10)
  let s := s.levers (x.energy / 10)
  each (List.range 64) (fun cl s => s.thermStop cl) s

/-- Set points sent: each cluster's target is its least ceiling; under a critical stack it is at 150 MHz at once (R468, R492). -/
def State.sendSetPoints (s : State) : State :=
  each (List.range 64) (fun cl s =>
    let k := s.ceiling cl
    let now := (s.die (dieOfCluster cl)).critical && !(s.cluster cl).onVfb
    s.modCluster cl fun c => { c with target := k, step := if now then 0 else c.step }) s

/-- The CE_DENSE record of a channel that made corrections in the round: its first, with the number of all (R457). -/
def State.ceRecord (s : State) (ch : Nat) : State :=
  let c := s.channel ch
  if c.ceRound = 0 then s
  else
    (s.modChannel ch fun c => { c with ceRound := 0, ceFirst := (0, 0, 0) }).record 0x10 1 0x0B 0 (locOf 6 ch)
      (detailOf [(0, 4, c.ceFirst.1), (4, 1, c.ceFirst.2.1), (5, 1, c.ceFirst.2.2), (8, 4, c.ceRound)])

/-- What ends with the round: CE_DENSE records, the VIN record, refresh windows, counts of the round, THERM_N and telemetry. -/
def State.endRound (s : State) (x : Samples) : State :=
  let b := s.boot
  let s := (s.channels.map Prod.fst).foldl State.ceRecord s
  let s := if b.vinSags = 0 then s
    else s.record 0x47 5 0x00 0 (locOf 0 0) (detailOf [(0, 4, b.vinSags), (4, 4, b.vinSagLong)])
  let s := s.onBoot fun b => { b with vinSags := 0, vinSagLong := 0, thermLow := s.thermActs }
  let s := each (List.range 4) (fun d s => s.modDie d fun y => { y with refreshWindow := windowOf y.band }) s
  let s := (s.funcs.map Prod.fst).foldl (fun s k => s.telRound x k) s
  let s := each (List.range 64) (fun cl s => s.modCluster cl fun c => { c with droops := 0 }) s
  s.onNet fun n => { n with links := normal {} (n.links.map fun (p : Nat × LinkEnd) => (p.1, { p.2 with corrRate := 0 })) }

/-- The readings of the queues, slots and engines that the package has. -/
def Samples.real (x : Samples) : Samples :=
  { x with direct := x.direct.filter fun d => decide (d.1 < queueCount), tasks := x.tasks.filter fun t => decide (t.1 < queueCount),
           rings := x.rings.filter fun y => decide (y.1 < 576), sources := x.sources.filter fun y => decide (y.1 < 4) }

/-- ALMANAC_ROUND: one round of 25,000 ticks, with what the monitors read (Table 13.9a). -/
def execAlmanacRound (x : Samples) (s : State) : Host.Outcome State Fault Refusal :=
  need (s.powered && s.boot.pkgRstN) .unavailable <|
  let x := x.real
  let s := s.takeSetups
  let s := { s with ticks := s.ticks + 25000, rounds := s.rounds + 1 }
  let s := if s.mainlandUp then s.rowsMapped else s
  let s := s.readMonitors x
  let s := s.shareEnergy x
  let s := s.decide_ x
  .next (s.sendSetPoints.endRound x)

end Sys2Proof.Machine
end

