-- ==== Sys2Proof/Machine/Reset.lean ====
section
/-! DEFINITION. Cold and package reset, power good, REF25, and the trip (R461, R465, R493 to R498, file 13; R500 to R503, R509,
R516, file 14; R341, file 10). -/

namespace Sys2Proof.Machine

/-! ### What a reset keeps (Table 14.2) -/

/-- A slot keeps its repairs; its runtime store is to be loaded again. -/
def Slot.kept (k : Slot) : Slot := { k with rtBitmap := 0, rtGood := false }

/-- A cluster keeps its repairs. -/
def Cluster.kept (c : Cluster) : Cluster :=
  { onVfb := c.onVfb, retired := c.retired, tileMover := c.tileMover, bondUsed := c.bondUsed,
    portHalfUp := c.portHalfUp, portHalfDown := c.portHalfDown }

/-- A slice keeps its repairs. -/
def Slice.kept (k : Slice) : Slice :=
  { waysOff := k.waysOff, setsOff := k.setsOff, dirOff := k.dirOff, rowSpares := k.rowSpares, sensorsOff := k.sensorsOff }

/-- A channel keeps its repairs and its retired pages. -/
def Channel.kept (c : Channel) : Channel :=
  { mappedOut := c.mappedOut, tsvSpares := c.tsvSpares, retired := c.retired, poolRetired := c.poolRetired }

/-- A region keeps the retired pages of its pool. -/
def Region.kept (r : Region) : Region := { poolRetired := r.poolRetired }

/-- A die keeps its thermal-cycle counter, which stands in the always-on domain (R498). -/
def Die.kept (d : Die) : Die := { cycRising := d.cycRising, cycLo := d.cycLo, cycHi := d.cycHi, cycles := d.cycles }

/-- A link end keeps its lane repairs. -/
def LinkEnd.keptLanes (e : LinkEnd) : LinkEnd := { badLanes := e.badLanes, spareLanes := e.spareLanes }

/-- A map of records changed one by one. -/
def remap {α : Type} [DecidableEq α] (d : α) (m : SMap α) (g : α → α) : SMap α :=
  normal d (m.map fun p => (p.1, g p.2))

/-- Device memory whose contents are lost: one undefined span with a number of its own. -/
def Mem.lost_ (tag : Nat) : Mem := { undef := [{ lo := 0, len := 2 ^ 44, tag := tag }] }

/-- What neither reset touches: the queue of commands, the host's memory, pins and the repairs. -/
def State.fresh (s : State) (b : Boot) (fab : Fab) (die : Die → Die) : State :=
  let t : State :=
    { pending := s.pending, free := s.free + 1, boot := b, fab := fab, host := s.host
      slots := s.slots, lcores := s.lcores
      clusters := remap {} s.clusters Cluster.kept
      slices := remap {} s.slices Slice.kept
      channels := remap {} s.channels Channel.kept
      regions := remap {} s.regions Region.kept
      dies := remap {} s.dies die
      net := { links := remap {} s.net.links LinkEnd.keptLanes }
      ports := remap {} s.ports fun p => { perstN := p.perstN, cxlHost := p.cxlHost }
      mem := Mem.lost_ s.free }
  each (s.slots.map Prod.fst) (fun k s => s.modSlot k Slot.kept) t

/-- Skerry's side at a cold reset. The trip state is left; its start is held until the sensor has cooled or REF25 is back
(R496). -/
def Boot.cold (b : Boot) : Boot :=
  { pwrokAon := b.pwrokAon, pwrokMain := b.pwrokMain, pkgRstN := b.pkgRstN, ref25 := b.ref25, strap := b.strap,
    hostMode := b.hostMode, fuses := b.fuses, flash := b.flash, update := { erased := b.update.erased },
    coolHold := b.coolHold || (b.tripLayer != 0 && !(b.tripLayer == 6 && b.ref25)), tripSensor := b.tripSensor,
    tripUnit := b.tripUnit, pwrokLost := b.pwrokLost, lastReset := 0, lastCause := 0 }

/-- Skerry's side at a package reset: the always-on domain goes on (R502). -/
def Boot.warm (b : Boot) (cause : Nat) : Boot :=
  { b.cold with
    coolHold := b.coolHold, debug := b.debug, secretLocked := b.secretLocked, mctpEid := b.mctpEid, pldmQueue := b.pldmQueue,
    alertLow := b.alertLow, lastReset := 1,
    lastCause := cause }

/-- The engines dark, LS_EN_N high, the straits down, and no forwarding (R326, R327, R341, R461). -/
def Fab.stop (f : Fab) : Fab :=
  { f with forwarding := false, straits := [], engines := remap {} f.engines fun e => { e with lit := false, dark := true } }

/-- The fabric side at a package reset: the ID, the switch, its route table, the straits and the engines are kept; the work of
this package and its guard membership are not (Table 14.2, R335, R341). -/
def Fab.warm (f : Fab) : Fab :=
  { f with exports := [], reqs := [], colls := [], early := [], guard := {}, claim := none }

/-- A cold reset. -/
def State.coldReset (s : State) : State :=
  s.fresh s.boot.cold { engines := remap {} s.fab.engines fun e => { good := e.good } } fun _ => {}

/-- A package reset; `cause` 0 PKG_RST_N, 1 PWROK_MAIN, 2 mainland (Table 14.15). It has no effect in the trip state (R494). -/
def State.packageReset (s : State) (cause : Nat) : State :=
  if s.boot.tripLayer ≠ 0 then s
  else s.fresh (s.boot.warm cause) (if cause = 1 then s.fab.warm.stop else s.fab.warm) Die.kept

/-- The reference of a start: power is good and PKG_RST_N is high. STRAP_HOSTMODE is sampled, and the grants take their reset
values (R372, R502, R509, Table 15.10). -/
def State.release (s : State) : State :=
  if s.powered && s.boot.pkgRstN then
    let s := s.onBoot fun b => { b with hostMode := b.strap, startRef := s.ticks.toNat }
    if s.boot.strap = 0 then s
    else (List.range 8).foldl (fun s p => s.modPart p fun x => { x with grant := 1, grantReq := 1 }) s
  else s

/-! ### Power good and PKG_RST_N (R461, R500, R502, R509) -/

/-- PWROK_AON_RISE. -/
def execPwrokAonRise (s : State) : Host.Outcome State Fault Refusal :=
  need (!s.boot.pwrokAon) .notPending <| .next (s.onBoot fun b => { b with pwrokAon := true }).release

/-- PWROK_AON_FALL: a cold reset. -/
def execPwrokAonFall (s : State) : Host.Outcome State Fault Refusal :=
  need s.boot.pwrokAon .notPending <|
  .next ((s.onBoot fun b => { b with pwrokAon := false, pwrokLost := some 1 }).coldReset)

/-- PWROK_MAIN_RISE. -/
def execPwrokMainRise (s : State) : Host.Outcome State Fault Refusal :=
  need (!s.boot.pwrokMain) .notPending <| .next (s.onBoot fun b => { b with pwrokMain := true }).release

/-- PWROK_MAIN_FALL: clocks and regulators stop, the engines go dark and forwarding stops; a package reset while the always-on
domain runs. In the trip state only the pin falls (R461, Table 13.7). -/
def execPwrokMainFall (s : State) : Host.Outcome State Fault Refusal :=
  need s.boot.pwrokMain .notPending <|
  let s := s.onBoot fun b => { b with pwrokMain := false }
  if s.boot.tripLayer ≠ 0 || !s.boot.pwrokAon then .next s
  else .next ((s.onBoot fun b => { b with pwrokLost := some 0 }).packageReset 1)

/-- PKG_RST_N_ASSERT. -/
def execPkgRstNAssert (s : State) : Host.Outcome State Fault Refusal :=
  need s.boot.pkgRstN .notPending <|
  let s := s.onBoot fun b => { b with pkgRstN := false }
  if s.powered then .next (s.packageReset 0) else .next s

/-- PKG_RST_N_RELEASE: skerry restarts from its ROM. -/
def execPkgRstNRelease (s : State) : Host.Outcome State Fault Refusal :=
  need (!s.boot.pkgRstN) .notPending <| .next (s.onBoot fun b => { b with pkgRstN := true }).release

/-! ### Trips (R465, R493 to R498) -/

/-- The 32 bytes of an event record (Table 12.9). -/
def EvRec.bytes (e : EvRec) : List Byte := (evlEntry e 0 0 0).take 32

/-- The thermal-cycle counts saved (R498). -/
def State.saveCycles (s : State) : State :=
  s.onFlash fun f => { f with cycSaved := (List.range 4).foldl (fun m d => put 0 m d (s.die d).cycles) f.cycSaved }

/-- A trip (Table 13.13). The record reaches the flash event log and, through the sideband, the BMC. -/
def State.tripNow (s : State) (cause : Nat) (loc : BitVec 32) (sensor : Nat) (reading : Int) : State :=
  let s := (s.onFuses fun f => { f with trips := min 256 (f.trips + 1), lastTrip := cause }).touch.saveCycles
  let e : EvRec :=
    { typ := 0x4A, level := 5, action := 0x10, status := 0, loc := loc, ticks := s.ticks,
      detail := detailOf [(0, 1, cause), (2, 2, tempField reading), (4, 2, s.boot.fuses.trips), (8, 2, sensor)] }
  let s := (s.flashLog e).onFlash fun f => { f with lastStartTrip := true }
  let s := s.onBoot fun b =>
    { b with state := .tripped, tripLayer := cause, tripSensor := sensor, tripUnit := loc, faultLow := true, thermLow := false,
             alertLow := false, mainland := false, pldmQueue := b.pldmQueue ++ [e] }
  let s := { s with
    fab := s.fab.stop
    clusters := remap {} s.clusters fun c => { c with clk := .off, waking := false, stretch := 0, limStretch := 0, tripped := 0 }
    ports := remap {} s.ports fun p => { p with up := false, cxl := false, wakeLow := false }
    mem := Mem.lost_ s.free }
  { s with free := s.free + 1 }

/-- The trip point of a cause in °C (Table 13.11). -/
def tripPoint (cause : Nat) : Int := match cause with | 1 => 115 | 4 => 115 | 5 => 95 | _ => 110

/-- The location kinds that a sensor of a trip cause has (Table 13.14). -/
def tripKinds (cause : Nat) : List Nat :=
  match cause with | 1 => [2, 3] | 2 => [3] | 3 => [5] | 4 => [0] | 5 => [10] | _ => []

/-- TRIP: the comparator of sensor `sensor` of unit `value` of location kind `kind` fires, for cause 1 to 5 of Table 13.9 (R493,
R494). -/
def execTrip (cause kind value sensor : Nat) (reading : Int) (s : State) : Host.Outcome State Fault Refusal :=
  need (s.boot.pwrokAon && s.boot.tripLayer == 0) .unavailable <|
  if !(tripKinds cause).contains kind then .fault .noSuchUnit else
  need (decide (deg (tripPoint cause) ≤ reading)) .notPending <|
  .next (s.tripNow cause (locOf kind value) sensor reading)

/-- REF25_LOSS: an internal oscillator takes over the always-on domain, and the package trips with cause 6 (R465). -/
def execRef25Loss (s : State) : Host.Outcome State Fault Refusal :=
  need (s.boot.pwrokAon && s.boot.ref25) .notPending <|
  let s := s.onBoot fun b => { b with ref25 := false }
  if s.boot.tripLayer ≠ 0 then .next s else .next (s.tripNow 6 (locOf 0 0) 0 0)

/-- REF25_RETURN: a start held after a trip of cause 6 goes on (R496). -/
def execRef25Return (s : State) : Host.Outcome State Fault Refusal :=
  need (!s.boot.ref25) .notPending <|
  .next (s.onBoot fun b => { b with ref25 := true, coolHold := b.coolHold && b.fuses.lastTrip != 6 })

/-- TRIP_COOLDOWN_CHECK: skerry reads the tripped sensor; the start goes on once it is 20 °C below its trip point (R496). -/
def execTripCooldownCheck (reading : Int) (s : State) : Host.Outcome State Fault Refusal :=
  need (s.boot.pwrokAon && s.boot.coolHold && s.boot.fuses.lastTrip != 6) .notPending <|
  .next (s.onBoot fun b => { b with coolHold := !decide (reading ≤ deg (tripPoint b.fuses.lastTrip - 20)) })

/-- Ticks of an hour. -/
def hourTicks : Nat := 3600 * 25000000

/-- An hour has passed since `at_`. -/
def State.hourSince (s : State) (t : Option Nat) : Bool :=
  match t with | none => true | some x => decide (hourTicks ≤ s.ticks.toNat - x)

/-- CYCLE_COUNT_SAVE: skerry saves the thermal-cycle counts, with the uptime since the last full start, every hour (R498,
R511). -/
def execCycleCountSave (s : State) : Host.Outcome State Fault Refusal :=
  need s.skerryUp .unavailable <|
  need (s.hourSince s.boot.cycSavedAt) .notPending <|
  let s := s.saveCycles.onFlash fun f => { f with uptime := s.boot.upBase + s.ticks.toNat }
  .next (s.onBoot fun b => { b with cycSavedAt := some s.ticks.toNat })

end Sys2Proof.Machine
end

