-- ==== Sys2Proof/Machine/Boot.lean ====
section
/-! DEFINITION. Start-up from ROM to READY: the journal scan, the image, the kind of start, links, clusters with the runtime
stores, the memory test and the link checks (R448 to R451, file 12; R507 to R519, R523, R524, R529, file 14). -/

namespace Sys2Proof.Machine

/-! ### The journal at a start (R449 to R451) -/

/-- A location word of a journal body: kind and value (Table 12.11). -/
def bodyLoc (b : List Byte) (o : Nat) : Nat × Nat :=
  let n := natOf ((b.drop o).take 4)
  (n / 2 ^ 28, n % 2 ^ 28)

/-- A number of a journal body. -/
def bodyNum (b : List Byte) (o n : Nat) : Nat := natOf ((b.drop o).take n)

/-- A lane repair by the kind of its location: a bond, a TSV or a die-link lane (log 30). -/
def State.applyLane (s : State) (b : List Byte) : State :=
  let (k, v) := bodyLoc b 0
  match k with
  | 3 =>
    let bundle := bodyNum b 4 2
    let lane := bodyNum b 6 2
    if lane = 0xFFFF then
      s.modCluster v fun c => if bundle = 1 then { c with portHalfUp := true } else { c with portHalfDown := true }
    else s.modCluster v fun c => { c with bondUsed := addOnce c.bondUsed (bondSpare bundle lane) }
  | 6 => s.modChannel v fun c => { c with tsvSpares := min c.tsvSpares (32 - bodyNum b 6 1) }
  | 7 =>
    if bodyNum b 6 1 = 0 then s
    else s.modLink v fun e =>
      { e with badLanes := addOnce e.badLanes (bodyNum b 4 2), spareLanes := min e.spareLanes (epSpares v - bodyNum b 6 1) }
  | _ => s

/-- A journalled repair applied to the hardware; applying one that is made already changes nothing (R449, R450, Table 12.7). -/
def State.applyRepair (s : State) (kind : Nat) (b : List Byte) : State :=
  let v := (bodyLoc b 0).2
  match kind with
  | 1 => s.modSlot v fun k => { k with status := .fenced }
  | 2 =>
    let (k, new) := bodyLoc b 4
    if k = 2 then
      (s.modLcore v fun x => { x with slot := some new, channel := some (x.channel.getD new), retired := false }).modSlot new fun y =>
        { y with status := .active }
    else s.putLcore v { slot := none, channel := none, retired := true }
  | 3 =>
    (List.range 512).foldl (fun s l =>
      if (s.lcore l).slot = some v then s.modLcore l fun x => { x with channel := some (bodyLoc b 4).2 } else s) s
  | 4 => s.modSlice v fun k =>
      let key := bodyNum b 4 1 * 1024 + bodyNum b 5 2
      { k with rowSpares := put 0 k.rowSpares key (max (look 0 k.rowSpares key) (bodyNum b 9 1 + 1)) }
  | 5 => s.modSlot v fun k =>
      let key := bodyNum b 4 1 * 65536 + bodyNum b 5 2
      { k with rowSpares := put 0 k.rowSpares key (max (look 0 k.rowSpares key) (bodyNum b 9 1 + 1)) }
  | 6 => s.applyLane b
  | 7 =>
    if bodyNum b 4 1 = 0 then
      let (keys, way) := rowSets (bodyNum b 5 2) (bodyNum b 7 2)
      keys.foldl (fun s t => s.modSlice v fun sl =>
        { sl with waysOff := put 0 sl.waysOff t (sl.off t ||| BitVec.ofNat 16 (2 ^ way)) }) s
    else s
  | 8 => s.modChannel v fun c => { c with mappedOut := true }
  | 9 => s.modCluster v fun c => { c with retired := true, tileMover := false }
  | 10 => s.modCluster v fun c => { c with onVfb := true }
  | 11 => s.modSlice v fun k => { k with sensorsOff := true }
  | 12 =>
    let a := v * 65536
    if dpaKind a = 0 || dpaKind a = 3 then s.modChannel (dpaChan a) fun c => { c with retired := addOnce c.retired v }
    else s.modRegion (dpaReg a) fun r => { r with poolRetired := addOnce r.poolRetired v }
  | _ => s.onFab fun f => { f with guard := {} }

/-- A transaction is committed: every entry's CRC is right and its last entry carries the commit mark. -/
def Flash.committed (f : Flash) (txn : Nat) : Bool :=
  let es := f.journal.filter fun j => j.txn == txn
  es.all (fun j => j.crcOk) && es.any fun j => j.commit && j.part + 1 == j.parts

/-- The repair of an entry fused, while repair records are left (R450, R451). -/
def State.fuseEntry (s : State) (j : Journal) : State :=
  if !fusedKind j.kind || j.fused then s
  else if s.boot.fuses.repairs < 4096 then
    (s.onFuses fun f => { f with repairs := f.repairs + 1 }).onFlash fun f =>
      { f with journal := f.journal.map fun i => if i.seq = j.seq then { i with fused := true } else i }
  else if s.boot.fuses.fullWritten then s
  else (s.onFuses fun f => { f with fullWritten := true }).record 0x2C 5 0x00 0 (locOf 0 0) 0

/-- The scan of the journal: committed transactions completed, the others rolled back (R450). -/
def State.scanJournal (s : State) : State :=
  let s := s.onFlash fun f =>
    { f with journal := f.journal.map fun j => if f.committed j.txn then j else { j with void := true } }
  (s.boot.flash.journal.filter fun j => !j.void).foldl (fun s j => (s.applyRepair j.kind j.body).fuseEntry j) s

/-! ### Keys (R528) -/

/-- The label "identity" in ASCII (R528). -/
def identityLabel : List Byte := [0x69, 0x64, 0x65, 0x6E, 0x74, 0x69, 0x74, 0x79]

/-- The measurements in order. -/
def Boot.measList (b : Boot) : List (BitVec 256) := (List.range 8).map fun i => look 0 b.meas i

/-- M0 to M7 as bytes. -/
def Boot.measBytes (b : Boot) : List Byte := b.measList.flatMap fun m => bytesOf 32 m.toNat

/-- The compound device identifier: HMAC-SHA-256 of M0 to M7 keyed by the device secret (R528). -/
def Boot.cdi (b : Boot) : BitVec 256 := Config.hmac b.fuses.deviceSecret b.measBytes

/-- The ROM derives the identity key (R528). -/
def Boot.withIdentity (b : Boot) : Boot := { b with identityKey := Config.hkdf b.fuses.deviceSecret identityLabel }

/-- The ROM derives the alias key over the measurements, the identity key signs the alias certificate, which binds the alias public
key to M0 to M7, and the ROM locks the device secret (R525, R528; log 17). -/
def Boot.withAlias (b : Boot) : Boot :=
  let k := Config.hkdf b.cdi []
  let body := Config.slhPublic k ++ b.measBytes
  { b with aliasKey := k, aliasCert := body ++ Config.slhSign b.identityKey body, aliasReady := true, secretLocked := true }

/-! ### ROM (Table 14.6 steps 1 and 2) -/

/-- Skerry's ROM: the start is numbered and its cause recorded, the thermal-cycle counts are reloaded after a cold reset, and
the journal is scanned (R372, R498, R509, Table 14.15). -/
def State.startRom (s : State) : State :=
  let b := s.boot
  let s := s.onFlash fun f => { f with startNum := f.startNum + 1 }
  let s := s.onBoot fun b => { b with state := .rom, upBase := b.flash.uptime, pwrokLost := none }.withIdentity
  let s := if b.lastReset ≠ 0 then s
    else each (List.range 4) (fun d s => s.modDie d fun y => { y with cycles := look 0 b.flash.cycSaved d }) s
  let s := s.record 0x80 5 0x10 0 (locOf 0 0) (detailOf [(0, 1, b.lastReset), (1, 1, b.lastCause)])
  let s := match b.pwrokLost with
    | some k => s.record 0x4D 5 0x10 0 (locOf 0 0) (detailOf [(0, 1, k)])
    | none => s
  let s := if b.hostMode = 3 then s.record 0x32 5 0x10 0 (locOf 0 0) (detailOf [(0, 1, 3)]) else s
  s.scanJournal

/-! ### The image (R517 to R519, R529) -/

/-- A byte of the image slot; erased flash reads as ones. -/
def Flash.at_ (f : Flash) (a : Nat) : Byte := (look none f.image a).getD 0xFF

/-- A number of an image header. -/
def hdrNum (rd : Nat → Byte) (o n : Nat) : Nat := natOf (bytesAt rd o n)

/-- The component entries of a header, unused ones left out (Tables 14.9 and 14.10). -/
def hdrComps (rd : Nat → Byte) : List Comp :=
  ((List.range 16).map fun i =>
    let o := 0x40 + 64 * i
    ({ kind := hdrNum rd o 2, svn := hdrNum rd (o + 2) 2, offset := hdrNum rd (o + 4) 4, len := hdrNum rd (o + 8) 4,
       hash := bits 256 (hdrNum rd (o + 0x20) 32) } : Comp)).filter fun c => c.kind != 0

/-- Bytes of a header with its signature: 0x0440 and 7,856 (Table 14.9). -/
def hdrBytes : Nat := 0x0440 + 7856

/-- Steps 1 to 4 of R518: the step and the component kind of the first failure. -/
def Fuses.headerFails (f : Fuses) (rd : Nat → Byte) : Option (Nat × Nat) :=
  let slot := hdrNum rd 0x0C 1
  let key := bytesAt rd 0x20 32
  let cs := hdrComps rd
  if hdrNum rd 0 4 ≠ 0x31445244 || hdrNum rd 4 2 ≠ 1 || hdrNum rd 6 2 ≠ 6 then some (1, 0)
  else if 4 ≤ slot || look 0 f.keyHash slot ≠ Config.sha256 key || bitAt f.revoked slot then some (2, 0)
  else if !Config.verify key (bytesAt rd 0 0x440) (bytesAt rd 0x440 7856) then some (3, 0)
  else match (List.range 6).find? fun i => (cs.filter fun c => c.kind == i + 1).length != 1 with
    | some i => some (4, i + 1)
    | none =>
      if cs.length ≠ 6 then some (4, 0)
      else (cs.find? fun c => decide (c.svn < look 0 f.svn c.kind)).map fun c => (4, c.kind)

/-- The component reads back with its hash. -/
def Comp.intact (c : Comp) (rd : Nat → Byte) : Bool := Config.sha256 (bytesAt rd c.offset c.len) == c.hash

/-- R518 over an image: the first failure. -/
def Fuses.imageFails (f : Fuses) (rd : Nat → Byte) : Option (Nat × Nat) :=
  match f.headerFails rd with
  | some x => some x
  | none => ((hdrComps rd).find? fun c => !c.intact rd).map fun c => (5, c.kind)

/-- The measurements: M0 to M5 the components loaded, by kind; M6 the anti-rollback counters, the key slot, the revocation fuses
and the grade; M7 the debug state, bit 0 of its hashed input, and the host mode (R532, Table 14.13a; log 17). -/
def Boot.measure (b : Boot) (loaded : List Comp) (keySlot : Nat) : SMap (BitVec 256) :=
  let m := loaded.foldl (fun m c => put 0 m (c.kind - 1) c.hash) []
  let six := (List.range 6).flatMap fun i => bytesOf 1 (look 0 b.fuses.svn (i + 1))
  let m := put 0 m 6 (Config.sha256 (six ++ bytesOf 1 keySlot ++ bytesOf 1 b.fuses.revoked.toNat ++ bytesOf 1 b.fuses.grade))
  put 0 m 7 (Config.sha256 (bytesOf 1 (2 * b.hostMode.toNat + if b.debug then 1 else 0)))

/-- VERIFY: the image is verified and measured; a failure, or an update not verified since its erase, enters RECOVERY (R518,
R520, R522, R529); the keys follow the measurements (R528). -/
def State.startVerify (s : State) (revoke : BitVec 4) : State :=
  let b := s.boot
  let rd := b.flash.at_
  let fails := match b.fuses.imageFails rd with
    | some x => some x
    | none => if b.update.erased then some (5, 0) else none
  match fails with
  | some (step, kind) =>
    let loaded := if step < 5 then [] else (hdrComps rd).takeWhile fun c => c.intact rd
    let s := s.onBoot fun b => { b with state := .recovery, meas := b.measure loaded 0 }.withAlias
    s.record 0x84 5 0x10 0 (locOf 0 0) (detailOf [(0, 1, step), (1, 1, kind)])
  | none =>
    let slot := hdrNum rd 0x0C 1
    let s := s.onFuses fun f => { f with revoked := f.revoked ||| (revoke &&& BitVec.ofNat 4 (2 ^ slot - 1)) }
    s.onBoot fun b =>
      { b with state := .verify, imgVersion := bits 64 (hdrNum rd 0x10 8), imgKeySlot := slot, comps := hdrComps rd,
               meas := b.measure (hdrComps rd) slot }.withAlias

/-! ### The kind of start (R511) and HALTED (R510) -/

/-- The last JR_SEQ committed in the journal, plus one. -/
def Flash.lastJr (f : Flash) : Nat := ((f.journal.filter fun j => j.commit && !j.void).map fun j => j.seq + 1).foldl max 0

/-- 90 days of uptime, in ticks. -/
def fullTicks : Nat := 90 * 86400 * 25000000

/-- The first condition of R511 that holds; 0 for a quick start. -/
def Boot.fullReason (b : Boot) : Nat :=
  let f := b.flash
  if f.settingsSeq = 0 then 1
  else if f.settingsJr ≠ f.lastJr then 2
  else if f.settingsVer ≠ b.imgVersion.toNat then 3
  else if f.lastStartTrip then 4
  else if fullTicks ≤ b.upBase then 5
  else if f.fullNext then 6
  else 0

/-- HALTED at a step of Table 14.6 (R510). -/
def State.halt (s : State) (step : Nat) : State :=
  (s.onBoot fun b => { b with state := .halted, mainland := false }).record 0x83 5 0x10 0 (locOf 0 0) (detailOf [(0, 1, step)])

/-- A region holds an active cluster with a working vertical port and an in-service channel. -/
def State.usable (s : State) : Bool :=
  (List.range 8).any fun r =>
    !(s.goodRegion r).isEmpty &&
    (List.range 8).any fun i => !(s.cluster (r * 8 + i)).retired && !(s.coresOfCluster (r * 8 + i)).isEmpty

/-- The state after a step, or HALTED where no region is usable. -/
def State.orHalt (s : State) (step : Nat) (st : StartState) : State :=
  if s.usable then s.onBoot fun b => { b with state := st } else s.halt step

/-- MAINLAND: mainland starts and chooses the kind of start. -/
def State.startMainland (s : State) (hubBad : Bool) : State :=
  if hubBad then s.halt 4
  else
    let r := s.boot.fullReason
    let s := s.onBoot fun b => { b with state := .mainland, mainland := true, fullStart := r != 0 }
    s.record 0x81 5 0x10 0 (locOf 0 0) (detailOf [(0, 1, if r = 0 then 0 else 1), (1, 1, r)])

/-! ### Links, clusters and runtime stores (Table 14.6 steps 5 and 6; R513, R523, R524) -/

/-- The journal holds that a link was declared down (R446). -/
def Flash.linkDown (f : Flash) (ep : Nat) : Bool :=
  f.journal.any fun j => !j.void && j.kind == 6 && bodyLoc j.body 0 == (7, ep) && bodyNum j.body 6 1 == 0

/-- The credits of a link end at training: 64 for each of its 21 FIFOs (log 43). -/
def linkCredits : SMap Nat := (List.range 21).map fun k => (k, 64)

/-- A lane of a link that fails: a spare takes it, or the link is down (R308, R446, Table 14.7). -/
def State.linkLane (s : State) (ep lane : Nat) : State :=
  let e := s.net.link ep
  if !isEp ep || !e.up || e.badLanes.contains lane then s
  else if e.spareLanes ≠ 0 then s.spareLink ep lane
  else (s.modLink ep fun e => { e with badLanes := e.badLanes ++ [lane] }).linkOff ep 1

/-- LINKS: every link that is not out of service trains. -/
def State.startLinks (s : State) (x : StartIn) : State :=
  let eps := (List.range 72).filter isEp
  let s := eps.foldl (fun s ep =>
    if s.boot.flash.linkDown ep || s.boot.flash.linkDown (peerEp ep) then s
    else s.modLink ep fun e =>
      { badLanes := e.badLanes, spareLanes := epSpares ep - e.badLanes.length, up := true, credits := linkCredits }) s
  let s := (x.linkLanes.foldl (fun s l => s.linkLane l.1 l.2.1) s).reroute
  s.orHalt 5 .links

/-- Every chunk of a runtime store has been received. -/
def Slot.full (k : Slot) : Bool := k.rtBitmap == BitVec.allOnes 64

/-- CLUSTERS: the clusters leave OFF, and the runtime image is broadcast to all 576 stores (R477, R523, R524). -/
def State.startClusters (s : State) (x : StartIn) : State :=
  let s := each (List.range 64) (fun cl s => if (s.cluster cl).retired then s else s.clusterOn cl) s
  let s := each (List.range 576) (fun k s => s.modSlot k fun y =>
    let m := look 0 x.missing k
    { y with rtBitmap := ~~~ m, rtGood := m == 0 && !x.badStores.contains k }) s
  let gone := (List.range 576).filter fun k => !(s.slot k).full
  let s := s.onBoot fun b => { b with bcGen := b.flash.startNum % 2 ^ 32, repairRounds := 0, bcMissing := gone }
  s.orHalt 6 .clusters

/-- RUNTIME_REPAIR_ROUND: the chunks that the stores report missing are unicast to them; `missing` names those that still do not
read back, `bad` the stores that are now full and fail BC_IMG_CRC. At most four rounds run (R524). -/
def execRuntimeRepairRound (missing : List (Nat × BitVec 64)) (bad : List Nat) (s : State) : Host.Outcome State Fault Refusal :=
  need (s.mainlandUp && s.boot.state == .clusters) .unavailable <|
  let todo := (List.range 576).filter fun k => !(s.slot k).full
  need (decide (s.boot.repairRounds < 4) && !todo.isEmpty) .notPending <|
  let s := todo.foldl (fun s k => s.modSlot k fun y =>
    let z := { y with rtBitmap := y.rtBitmap ||| ~~~ (look 0 missing k) }
    { z with rtGood := z.full && !bad.contains k }) s
  .next (s.onBoot fun b => { b with repairRounds := b.repairRounds + 1 })

/-- The repair rounds are over. -/
def State.storesDone (s : State) : Bool :=
  decide (4 ≤ s.boot.repairRounds) || (List.range 576).all fun k => (s.slot k).full

/-- A slot whose store failed is not activated; its logical core moves to a spare (R426, R524). -/
def State.storeFails (s : State) (k : Nat) : State :=
  match s.logicalCores.find? fun l => s.slotOf l == k with
  | some l => s.moveCore l 2 id
  | none => s.modSlot k fun y => { y with status := .fenced }

/-- The failed stores and their RUNTIME_REPAIR record (R524). -/
def State.endRuntime (s : State) : State :=
  let failed := (List.range 576).filter fun k => !(s.slot k).rtGood && ((s.slot k).status == .active || (s.slot k).status == .spare)
  let mended := s.boot.bcMissing.filter fun k => (s.slot k).rtGood
  let spares := failed.filter fun k => (s.slot k).status == .spare
  let s := spares.foldl State.storeFails s
  let s := (failed.filter fun k => !spares.contains k).foldl State.storeFails s
  if failed.isEmpty && mended.isEmpty then s
  else s.record 0x8A 5 0x06 0 (locOf 0 0) (detailOf [(0, 2, mended.length), (2, 2, failed.length), (4, 2, failed.headD 0)])

/-! ### The memory test (R512) -/

/-- A page with a failed codeword is retired; nothing is mapped yet (R276, R512, Table 12.14). -/
def State.testPage (s : State) (pg : Nat) : State :=
  let a := pg * 65536
  if (s.home a).isNone then s
  else (s.markRetired pg (s.homeOfLine (a / 256)).chan).record 0x14 (addrLevel a) 0x04 0 (pageLoc a) (detailOf [(4, 1, 4)])

/-- A channel with a failed row is mapped out (R280, R512). -/
def State.testChannel (s : State) (ch : Nat) : State :=
  if 576 ≤ ch || !s.inService ch then s
  else (s.record 0x17 1 0x10 0 (locOf 6 ch) (detailOf [(0, 1, 1)])).mapOut ch 0

/-- The rows of slices that fail. -/
def State.testRows (s : State) (rows : List (Nat × Nat × Nat × Nat × List Nat)) : State :=
  (rows.foldl (fun s r =>
    if r.1 < 64 && r.2.1 < 3 && rowOk r.2.1 r.2.2.1 r.2.2.2.1 r.2.2.2.2 then s.rowFails r.1 r.2.1 r.2.2.1 r.2.2.2.1 r.2.2.2.2
    else s) s).rowsMapped

/-- MEMTEST: the runtime repair ends, faults found are repaired, and every frame reads as zeros and is STRONG. -/
def State.startMemtest (s : State) (x : StartIn) : State :=
  let s := s.endRuntime
  let s := { s with mem := {}, light := [] }
  let s := (x.channels.foldl State.testChannel s).testRows x.rows
  let s := x.pages.foldl State.testPage s
  let s := (List.range 4).foldl (fun s d => s.record 0x88 4 0x10 0 (locOf 5 d)
    (detailOf [(0, 4, (x.pages.filter fun p => decide (p / 2 ^ 26 = d)).length),
      (4, 1, (x.channels.filter fun c => decide (c / 144 = d)).length),
      (5, 2, (x.rows.filter fun r => decide (r.1 / 16 = d)).length)])) s
  s.orHalt 7 .memtest

/-! ### Link checks and READY (R513, R519, R564) -/

/-- LINKCHECK: the lasers are enabled and the straits begin to train; bond and TSV lanes that fail take spares (R326, R513). -/
def State.startLinkcheck (s : State) (x : StartIn) : State :=
  let s := each (List.range 4) (fun o s => s.modEngine o fun e => { e with lit := true, dark := e.good == 0, laserB := !bitAt e.good 0 && bitAt e.good 1 }) s
  let s := s.onFab fun f => { f with forwarding := f.forwarding || f.joined }
  let s := x.bonds.foldl (fun s b =>
    if 64 ≤ b.1 || (s.cluster b.1).retired then s
    else if (s.cluster b.1).bondUsed.contains (bondSpare b.2.1 b.2.2) then s.bundleGone b.1 b.2.1 true
    else s.spareBond b.1 b.2.1 b.2.2 0) s
  let s := x.tsvs.foldl (fun s t =>
    if 576 ≤ t.1 || !s.inService t.1 then s
    else if (s.channel t.1).tsvSpares = 0 then s.testChannel t.1 else s.spareTsv t.1 t.2 0) s
  s.onBoot fun b => { b with state := .linkcheck }

/-- Pages retired in the package. -/
def State.retiredCount (s : State) : Nat :=
  (s.channels.map fun p => p.2.retired.length).sum + (s.regions.map fun p => p.2.poolRetired.length).sum

/-- Channels in service. -/
def State.goodChannels (s : State) : Nat := ((List.range 576).filter s.inService).length

/-- The dense capacity in MiB, rounded down (R258). -/
def State.denseMib (s : State) : Nat := (1020 * 16 * s.goodChannels - s.retiredCount) / 16

/-- Lanes of straits and links that fail their check before READY (Table 14.7). -/
def State.checkLanes (s : State) (x : StartIn) : State :=
  let s := x.straitLanes.foldl (fun s l =>
    if l.1 < 16 && (s.fab.strait l.1).up && l.2.1 < 8 && !bitAt (s.fab.strait l.1).rxBad l.2.1 then
      (s.record 0x89 5 0x10 0 (locOf 9 l.1) (detailOf [(0, 2, l.2.1), (2, 2, l.2.2)])).laneFails l.1 l.2.1
    else s) s
  x.linkLanes.foldl (fun s l =>
    if isEp l.1 && (s.net.link l.1).up && !(s.net.link l.1).badLanes.contains l.2.1 then
      (s.record 0x89 5 0x10 0 (locOf 7 l.1) (detailOf [(0, 2, l.2.1), (2, 2, l.2.2)])).linkLane l.1 l.2.1
    else s) s

/-- The anti-rollback counters advance to the image's versions, each with its record (R519). -/
def State.advanceSvn (s : State) : State :=
  s.boot.comps.foldl (fun s c =>
    if look 0 s.boot.fuses.svn c.kind < c.svn then
      (s.onFuses fun f => { f with svn := put 0 f.svn c.kind (min 64 c.svn) }).record 0x87 5 0x10 0 (locOf 0 0)
        (detailOf [(0, 1, c.kind), (1, 1, min 64 c.svn)])
    else s) s

/-- The TRIP record of the start before reaches the event-log rings (R496). -/
def State.lateTrip (s : State) : State :=
  match s.boot.flash.lastStartTrip, s.boot.flash.log.reverse.find? fun e => e.typ == 0x4A with
  | true, some e => s.evlGiveAll e
  | _, _ => s

/-- READY (Table 14.6 step 9). -/
def State.startReady (s : State) (x : StartIn) : State :=
  let s := (s.checkLanes x).touch
  let full := s.boot.fullStart
  let s := s.onBoot fun b => { b with state := .ready, upBase := if full then 0 else b.upBase }
  let s := s.lateTrip.advanceSvn
  let s := s.record 0x82 5 0x10 0 (locOf 0 0) (detailOf [(0, 4, (s.ticks.toNat - s.boot.startRef) / msTicks),
    (4, 2, s.logicalCores.length), (6, 4, s.denseMib)])
  let s := s.onFlash fun f =>
    { f with lastStartTrip := false, fullNext := f.fullNext && !full, uptime := if full then 0 else f.uptime }
  each [0, 1] (fun n s => s.modPort n fun p =>
    { p with wakeLow := p.wakeLow || (s.portThere n && p.perstN && !p.up) }) s

/-- START_UP: the next step of start-up, with what it finds; each command runs one step of Table 14.6, from RESET to READY,
RECOVERY or HALTED (R509; log 44). -/
def execStartUp (x : StartIn) (s : State) : Host.Outcome State Fault Refusal :=
  need (s.powered && s.boot.pkgRstN && !s.boot.coolHold) .unavailable <|
  match s.boot.state with
  | .reset => .next s.startRom
  | .rom => .next (s.startVerify x.revoke)
  | .verify => .next (s.startMainland x.hubBad)
  | .mainland => .next (s.startLinks x)
  | .links => .next (s.startClusters x)
  | .clusters => need s.storesDone .notPending <| .next (s.startMemtest x)
  | .memtest => .next (s.startLinkcheck x)
  | .linkcheck => .next (s.startReady x)
  | _ => .refused .notPending

/-- SETTINGS_SAVE: mainland rewrites the trained values of the links after a start and at most once an hour, into the older copy;
`vals` gives (link × 64 + lane group) × 16 + temperature bin, and the value (R514). -/
def execSettingsSave (vals : List (Nat × Nat)) (s : State) : Host.Outcome State Fault Refusal :=
  need (s.mainlandUp && s.boot.state == .ready) .unavailable <|
  need (s.hourSince s.boot.savedAt) .notPending <|
  let s := s.onFlash fun f =>
    { f with settingsSeq := f.settingsSeq + 1, settingsVer := s.boot.imgVersion.toNat, settingsJr := f.lastJr,
             settings := vals.foldl (fun m v => put 0 m v.1 v.2) f.settings, uptime := s.boot.upBase + s.ticks.toNat }
  .next (s.onBoot fun b => { b with savedAt := some s.ticks.toNat })

end Sys2Proof.Machine
end

