-- ==== Sys2Proof/Machine/Convert.lean ====
section
/-! DEFINITION. The conversions CVT, CVT.FW and CVT.WF (R48 to R51, file 02; R160 to R162, file 05). -/

namespace Sys2Proof.Machine

/-- The registers and checks of a conversion. `src64`, `dst64`: the source or the destination is a 64-bit machine word. A reserved
code in SRCF or DSTF is a reserved encoding in every form (R150, R158, R160, R162). -/
def cNeeds (h : Hdr) (f : FmtC) (src64 dst64 : Bool) : Needs :=
  let sr := f.rmode.toNat == 2
  let va := if src64 then [f.va.toNat, f.va.toNat + 1] else [f.va.toNat]
  let vb := if sr then [f.vb.toNat] else []
  let vc := if sr then [f.vc.toNat] else []
  { reads := [va, vb, vc].filter fun x => !x.isEmpty
    vw := if dst64 then [f.vd.toNat, f.vd.toNat + 1] else [f.vd.toNat]
    ur := if sr then [f.useed.toNat] else []
    enc := f.rmode.toNat != 3 && (Fmt.ofCode f.srcf.toNat).isSome && (Fmt.ofCode f.dstf.toNat).isSome &&
      (!src64 || f.va.toNat % 2 == 0) && (!dst64 || f.vd.toNat % 2 == 0)
    hold := (if bitAt h.hold 0 then va else []) ++ (if bitAt h.hold 1 then vb else []) ++ (if bitAt h.hold 2 then vc else []) }

/-- The rounding of a thread: SR draws from the seed and the thread's coordinates (R46, R162). -/
def FmtC.round (f : FmtC) (g : Group) (k : Nat) : Round :=
  Round.ofCode f.rmode.toNat
    (srRandom ((g.u f.useed.toNat).toNat % 2 ^ 32) (g.v f.vb.toNat k).toNat (g.v f.vc.toNat k).toNat)

/-- The value that a register holds in a format: the element in its low bits, the scale of a block-scaled format in bits
[31:24] (R160, R161). -/
def regValue (f : Fmt) (x : Nat) : Val := f.decode (x % 2 ^ f.bits) (x >>> 24 % 256)

/-- The 32 values and roundings of the group's block: threads that do not act contribute +0 (R161). -/
def blockInputs (act : List Nat) (val : Nat → Val) (rnd : Nat → Round) : List (Val × Round) :=
  (List.range 32).map fun k => if act.contains k then (val k, rnd k) else (Val.zero, .rne)

/-- The result of a thread in a destination format (R160, R161): a block-scaled destination takes its element and the
scale of the group's block. -/
def convertTo (dst : Fmt) (sat : Bool) (act : List Nat) (val : Nat → Val) (rnd : Nat → Round) (k : Nat) : Nat :=
  if dst.scaled then
    let (sc, es) := dst.encodeBlock (blockInputs act val rnd)
    es.getD k 0 % 2 ^ dst.bits + sc * 2 ^ 24
  else dst.encode (rnd k) sat (val k)

/-- The format of a code; FP32 where it is reserved (check 2 has failed then). -/
def fmtCode (c : BitVec 5) : Fmt := (Fmt.ofCode c.toNat).getD .fp32

/-- A conversion from a format to itself copies the element's bits; the container bits [12:0] of FP19 are written as 0 (R34,
R50). -/
def copyElem (f : Fmt) (x : Nat) : Nat := if f = .fp19 then x % 2 ^ 32 / 2 ^ 13 * 2 ^ 13 else x % 2 ^ f.bits

/-- CVT: SRCF to DSTF; equal formats copy the element bits and, block-scaled, the scale byte (R160). -/
def execCvt (site : Site) (h : Hdr) (f : FmtC) (s : State) : Host.Outcome State Fault Refusal :=
  issue site h (cNeeds h f false false) (fun c s =>
    let src := fmtCode f.srcf
    let dst := fmtCode f.dstf
    let x (k : Nat) : Nat := (c.g.v f.va.toNat k).toNat
    let out (k : Nat) : Nat :=
      if src = dst then copyElem src (x k) + (if src.scaled then x k >>> 24 * 2 ^ 24 else 0)
      else convertTo dst (f.sat.toNat == 1) c.act (fun k => regValue src (x k)) (f.round c.g) k
    s.onGroup c (writeThreads .u32 f.vd.toNat c.act out)) s

/-- The machine word is 64 bits wide. -/
def FmtC.word64 (f : FmtC) : Bool := decide (2 ≤ f.word.toNat)

/-- The range of the machine word. -/
def FmtC.wordRange (f : FmtC) : Int × Int :=
  match f.word.toNat with
  | 0 => (0, 2 ^ 32 - 1)
  | 1 => (-2 ^ 31, 2 ^ 31 - 1)
  | 2 => (0, 2 ^ 64 - 1)
  | _ => (-2 ^ 63, 2 ^ 63 - 1)

/-- CVT.FW: SRCF to the machine word WORD (R160). -/
def execCvtFw (site : Site) (h : Hdr) (f : FmtC) (s : State) : Host.Outcome State Fault Refusal :=
  issue site h (cNeeds h f false f.word64) (fun c s =>
    let (lo, hi) := f.wordRange
    let t : Ty := if f.word64 then .u64 else .u32
    s.onGroup c (writeThreads t f.vd.toNat c.act fun k =>
      lowBits t.w ((regValue (fmtCode f.srcf) (c.g.v f.va.toNat k).toNat).toInt (f.round c.g k) lo hi))) s

/-- The integer that a machine word holds. -/
def FmtC.wordValue (f : FmtC) (g : Group) (k : Nat) : Int :=
  match f.word.toNat with
  | 0 => ((g.v f.va.toNat k).toNat : Int)
  | 1 => sext 32 (g.v f.va.toNat k).toNat
  | 2 => (g.v64 f.va.toNat k : Int)
  | _ => sext 64 (g.v64 f.va.toNat k)

/-- CVT.WF: the machine word WORD to DSTF (R160). -/
def execCvtWf (site : Site) (h : Hdr) (f : FmtC) (s : State) : Host.Outcome State Fault Refusal :=
  issue site h (cNeeds h f f.word64 false) (fun c s =>
    s.onGroup c (writeThreads .u32 f.vd.toNat c.act
      (convertTo (fmtCode f.dstf) (f.sat.toNat == 1) c.act (fun k => Val.ofInt (f.wordValue c.g k)) (f.round c.g)))) s

end Sys2Proof.Machine
end

