-- ==== Sys2Proof/Machine/PartReset.lean ====
section
/-! DEFINITION. Partition reset with the layouts that it applies (R146, file 04; R196, file 06; R227, R240, file 07; R262, R263,
R290, file 08; R317, file 09; R401, file 11; R504 to R506, file 14; R553 to R555, file 15). -/

namespace Sys2Proof.Machine

/-! ### Access to the partition registers (R504, R553) -/

/-- The port holds a partition; an ungranted one counts as held by either. -/
def State.holds (s : State) (port p : Nat) : Bool := (s.part p).grant == 0 || s.granted port p

/-- The number of a partition in force: the E number of a merged die names none (R11, R504, R554). -/
def State.partInForce (s : State) (p : Nat) : Bool := s.partOfRegion p == p

/-- The package block answers the physical function of a port: READY, and not the P1 function of multipath mode (R508, R544). -/
def State.pkbThere (s : State) (port : Nat) : Bool :=
  s.boot.state == .ready && s.portThere port && !(s.multipath && port == 1)

/-- A posted write of the package block: discarded and counted while the port's PKB_BUSY is 1, else accepted (R541, R556). -/
def State.pkbPost (s : State) (port : Nat) (k : State → State) : State :=
  if !s.pkbThere port then s
  else if (s.port port).pkbBusy then s.errBusy port 0
  else k (s.modPort port fun p => { p with pkbBusy := true })

/-! ### Work and caches (Table 14.4 steps 1 to 4) -/

/-- The launch has had a task dispatched. -/
def Launch.touched (x : Launch) : Bool := x.next != 0 || x.recompute

/-- A LAUNCH that had a task dispatched dispatches no further one and ends with PARTITION_RESET (R146). -/
def State.resetLaunch (s : State) (q : Nat) (d : Desc) : State :=
  if d.opc = 1 && d.launch.touched then
    s.modDesc q d.index.toNat fun d =>
      { d with launch := { d.launch with stopped := true, redo := [], again := [], waitLost := false, status := worse d.launch.status stReset } }
  else s

/-- The request belongs to work of a core. -/
def ReqWho.ofCore (w : ReqWho) (l : Nat) : Bool :=
  match w with | .load c _ _ _ => c == l | .store c => c == l | .tm c _ => c == l | _ => false

/-- A core at a partition reset: local memory is cleared at its next task; the record of its tests and faults stays. -/
def Core.atPartReset (c : Core) : Core :=
  { lm := c.lm, rcHit := c.rcHit, rcMiss := c.rcMiss, faultTicks := c.faultTicks, lastPass := c.lastPass,
    hasTested := c.hasTested, twinAt := c.twinAt }

/-- The task of a core, its pre-empted task and an URGENT task whose pre-emption is requested end with PARTITION_RESET, their undo logs
discarded; the core is reset (R146, Table 04.6). -/
def State.resetCore (s : State) (l : Nat) : State :=
  let c := s.core l
  let s := s.onFab fun f => { f with reqs := f.reqs.filter fun r => !r.who.ofCore l }
  let s := ((s.undoDrop l).undoUnpin l 0 c.undoBase).putCore l c.atPartReset
  let endOf (s : State) (t : Task) : State :=
    if t.twinOf.isSome then s.launchSettle t.queue t.desc else s.taskDone { t with status := worse t.status stReset }
  let s := match c.task with | some t => endOf s t | none => s
  let s := match c.urgent with | some u => endOf s u | none => s
  match c.frame with | some f => endOf s f.task | none => s

/-- The request comes from a cluster cache. -/
def CohReq.ofCache (r : CohReq) (cl : Nat) : Bool := r.m == .core && r.cl == cl

/-- The state of an entry without a cluster cache; none is state U. -/
def DirSt.without (st : DirSt) (cl : Nat) : Option DirSt :=
  match st with
  | .owned y => if y = cl then none else some st
  | .shared sh =>
    let sh := sh &&& ~~~ BitVec.ofNat 64 (2 ^ cl)
    if sh = 0 then none else some (.shared sh)

/-- A directory entry as a cluster cache is reset. Its own transaction is closed without a grant, and the line keeps the state it had,
without the cache; any other about the line goes on. The cache's waiting requests go, and it leaves the entry (R240). -/
def State.dirReset (s : State) (cl : Nat) (e : DirEnt) : State :=
  let e := { e with waiting := e.waiting.filter fun w => !w.ofCache cl }
  match e.txn with
  | some t =>
    if t.r.ofCache cl then
      let s := s.onNet fun n => { n with msgs := n.msgs.filter fun m => !(m.coh.any fun c => c.line == e.line) }
      s.closeTxn e (e.st.without cl)
    else s.putDir { e with txn := some { t with sharers := t.sharers &&& ~~~ BitVec.ofNat 64 (2 ^ cl) } }
  | none =>
    match e.st.without cl with
    | some st => s.putDir { e with st := st }
    | none => s.dropDir e.line

/-- The directory entries that name a cluster cache, by its copy, its transaction, or a request that waits. -/
def State.entriesOf (s : State) (cl : Nat) : List DirEnt :=
  s.slices.flatMap fun p => p.2.dir.flatMap fun d => d.2.filter fun e =>
    e.holders.contains cl || (e.txn.any fun t => t.r.ofCache cl || bitAt t.sharers cl) || e.waiting.any fun w => w.ofCache cl

/-- A cluster of the partition: its caches are invalidated without write-back, its sync unit is cleared, and the grants on their way
to it are dropped (R196, step 3). The vertical port acknowledges the invalidations and recalls on their way to it (R240, R317). -/
def State.resetCluster (s : State) (cl : Nat) : State :=
  let s := s.modCluster cl fun c => { c with cc := [], gangs := [], inReset := true, wakeReq := false }
  let s := s.onNet fun n => { n with msgs := n.msgs.filter fun m =>
    match m.coh with | some (.grant _ c) => c != cl | some (.done _ c) => c != cl | _ => true }
  let s := (s.entriesOf cl).foldl (fun s e => s.dirReset cl e) s
  let s := s.net.coh.foldl (fun s m =>
    match m with
    | .inv _ c => if c = cl then s.deliver m else s
    | .recall _ c _ => if c = cl then s.deliver m else s
    | _ => s) s
  s.modCluster cl fun c => { c with cc := [] }

/-- The program pins of some address spaces end (R227). -/
def State.releasePins (s : State) (asids : List Nat) : State :=
  (s.slices.flatMap fun p => p.2.sets.flatMap fun t => t.2.filterMap fun x =>
    match x.pin with
    | .program a => if asids.contains a then some x.line else none
    | _ => none).foldl State.endPin s

/-- The merge or split that a die's register asks for at a reset of partition `p` (R555). -/
def State.dieTurn (s : State) (p : Nat) : Bool :=
  p % 2 == 0 && (s.die (p / 2)).dieReq != (s.die (p / 2)).dieApplied

/-- A merge is refused: an enabled queue names partition 2d + 1, or the other port holds it (R555). -/
def State.mergeBad (s : State) (port p : Nat) : Bool :=
  (s.queues.any fun x => x.2.enabled && x.2.set.part == p + 1) || !s.holds port (p + 1) ||
  ((s.part (p + 1)).grant != 0 && (s.part p).grant != 0 && (s.part (p + 1)).grant != (s.part p).grant)

/-- A pending merge applied, or refused, at the start of the reset (R555). -/
def State.mergeDie (s : State) (port p : Nat) : State :=
  if !(s.dieTurn p && (s.die (p / 2)).dieReq) then s
  else if s.mergeBad port p then s.modDie (p / 2) fun d => { d with dieReject := true }
  else s.modDie (p / 2) fun d => { d with dieApplied := true }

/-- The level of a partition: a region, or a whole die. -/
def State.partLevel (s : State) (p : Nat) : Nat := if s.dieMerged (p / 2) then 4 else 3

/-- The reset starts (Table 14.4 steps 1 to 4). -/
def State.resetBegin (s : State) (p port : Nat) : State :=
  let s := (s.mergeDie port p).touch
  let s := s.modPart p fun x => { x with rstActive := true, rstWait := false, rstAt := s.ticks.toNat, rstPort := port }
  let s := s.record 0x8B (s.partLevel p) 0x10 0 (locOf 11 p) (detailOf [(0, 1, port)])
  let mine (q : Nat) : Bool := (s.queue q).enabled && (s.queue q).set.part == p
  let qs := (s.queues.map Prod.fst).filter mine
  let guarded := qs.any fun q => (s.queue q).guarded
  let s := qs.foldl (fun s q => ((s.queue q).descs ++ (s.queue q).past).foldl (fun s d => s.resetLaunch q d) s) s
  let ls := s.coresOfPart p
  let s := ls.foldl State.resetCore s
  let s := qs.foldl (fun s q => ((s.queue q).descs ++ (s.queue q).past).foldl (fun s d =>
    if d.opc = 1 then s.launchSettle q d.index.toNat
    else if (d.opc = 5 || d.opc = 10) && d.phase = .running then s.descStop q d.index.toNat stReset
    else s) s) s
  let s := if guarded then s.guardLeave fun q => if mine q then stReset else stAborted else s
  let s := (s.clustersOfPart p).foldl State.resetCluster s
  let s := s.releasePins (qs.map fun q => (s.queue q).set.asid)
  (s.regionsOf p).foldl (fun s r => each ((List.range 72).map (r * 72 + ·)) (fun ch s =>
    s.modChannel ch fun c => { c with orphaned := false }) s) s

/-! ### Layouts (R261 to R263, step 5) -/

/-- A line no longer held anywhere above its channel, without write-back. -/
def SLine.outside (lo n line : Nat) : Bool := decide (line * 256 < lo) || decide (lo + n ≤ line * 256)

/-- A range of device memory whose contents become undefined: every copy of its lines goes, and its lost marks with it. -/
def State.undefine (s : State) (lo n : Nat) : State :=
  let out (line : Nat) : Bool := SLine.outside lo n line
  { s with
    mem := s.mem.forget lo n s.free
    free := s.free + 1
    lost := s.lost.filter fun x => out (x.addr / 256)
    clusters := s.clusters.map fun (p : Nat × Cluster) => (p.1, { p.2 with
      cc := normal [] (p.2.cc.map fun (t : Nat × List CcLine) => (t.1, t.2.filter fun x => out x.line)) })
    net := { s.net with msgs := s.net.msgs.filter fun m => match m.coh with | some c => out c.line | none => true }
    slices := s.slices.map fun (p : Nat × Slice) => (p.1, { p.2 with
      sets := normal [] (p.2.sets.map fun (t : Nat × List SLine) => (t.1, t.2.filter fun x => out x.line))
      dir := normal [] (p.2.dir.map fun (t : Nat × List DirEnt) => (t.1, t.2.filter fun x => out x.line)) }) }

/-- PART_PRIV_STEPS and PART_DIE_WIDE as requested. -/
def Region.wants (r : Region) : Nat × Bool := (fld r.memReq 0 3, bitAt r.memReq 3)

/-- The pool pages that mainland maps in a region's pool. -/
def State.poolPages (s : State) (r : Nat) : List Nat :=
  s.mapped.filter fun pg =>
    let a := pg * 65536
    (dpaKind a == 1 && dpaReg a == r) || (dpaKind a == 2 && dpaReg a / 2 == r / 2)

/-- The lines of a pool under a layout. -/
def State.poolLinesFor (s : State) (r steps : Nat) (wide : Bool) : Nat :=
  (if wide then s.goodDie (r / 2) else s.goodRegion r).length * sharedLines steps

/-- A region's request is refused at its reset (R262). -/
def State.layoutBad (s : State) (r : Nat) : Bool :=
  let x := s.region r
  let y := s.region (r / 2 * 2 + (1 - r % 2))
  let (steps, wide) := x.wants
  (wide && !s.dieMerged (r / 2)) || ((wide || (y.wants.2 && s.dieMerged (r / 2))) && x.wants != y.wants) ||
  (if wide = x.dieWide then (s.poolPages r).any fun pg => decide (s.poolLinesFor r steps wide < pg * 65536 % 2 ^ 38 / 256 + 256)
   else !(s.poolPages (r / 2 * 2)).isEmpty || !(s.poolPages (r / 2 * 2 + 1)).isEmpty)

/-- The contents of a region's private slices and pool become undefined. -/
def State.relayout (s : State) (r : Nat) : State :=
  (s.undefine (r * 2 ^ 41) (2 ^ 40)).undefine (r / 2 * 2 ^ 42 + 2 ^ 40) (2 ^ 39)

/-- A region takes a layout; its contents become undefined where it changes (R262). -/
def State.setLayout (s : State) (r steps : Nat) (wide : Bool) : State :=
  let x := s.region r
  if x.privSteps = steps && x.dieWide = wide then s
  else (s.relayout r).modRegion r fun x => { x with privSteps := steps, dieWide := wide }

/-- The pending requests of the regions of a partition apply, or are refused; a split takes the die back to region pools, and
nothing applies where the merge was refused (R262, R263, R555, Table 15.12). -/
def State.applyLayouts (s : State) (p : Nat) : State :=
  let rs := s.regionsOf p
  let d := p / 2
  let turned := s.dieTurn p
  let split := turned && !(s.die d).dieReq
  let s := if split then
      let s := s.modDie d fun x => { x with dieApplied := false }
      s.modPart (p + 1) fun x => { x with grant := (s.part p).grant, grantReq := (s.part p).grant }
    else s
  let pend (r : Nat) : Bool := (s.region r).wants != ((s.region r).privSteps, (s.region r).dieWide)
  let bad := rs.filter fun r => pend r && ((turned && !split) || s.layoutBad r)
  let good := rs.filter fun r => pend r && !bad.contains r
  let want := good.map fun r => (r, (s.region r).wants)
  let s := bad.foldl (fun s r => s.modRegion r fun x => { x with memReject := true }) s
  let s := want.foldl (fun s w => s.setLayout w.1 w.2.1 w.2.2) s
  if split then rs.foldl (fun s r => s.setLayout r (s.region r).privSteps false) s else s

/-- The completions of the work that a reset of partition `p` has ended are written (Table 14.4 step 5). -/
def State.resetCompletions (s : State) (p : Nat) : State :=
  let qs := (s.queues.filter fun x => x.2.enabled && x.2.set.part == p).map Prod.fst
  qs.foldl (fun s q => (s.queue q).descs.foldl (fun s d => match d.phase with
    | .finished st r => if st = stReset then s.completeDesc q d st r else s
    | _ => s) s) s

/-- The reset ends (Table 14.4 steps 5 and 6). -/
def State.resetEnd (s : State) (p : Nat) : State :=
  let cls := s.clustersOfPart p
  let s := s.resetCompletions p
  let s := s.touch
  let us := (s.ticks.toNat - (s.part p).rstAt) / usTicks
  let lv := s.partLevel p
  let s := s.applyLayouts p
  let s := each cls (fun cl s => (s.modCluster cl fun c => { c with inReset := false }).noteIdle cl) s
  let s := s.modPart p fun x => { x with rstActive := false, rstCount := x.rstCount + 1 }
  s.record 0x8C lv 0x10 0 (locOf 11 p) (detailOf [(0, 4, us)])

/-- A page migration or the pause of a map-out is open in a region that the reset of `p` concerns; a map-out that waits for space
holds no reset (R283, R290). -/
def State.resetWaits (s : State) (p : Nat) : Bool :=
  (s.regionsOf p).any fun r => (s.region r).memState == 1 || (s.region r).memState == 2

/-- PART_RST_GO written by the physical function of a port; a request while the reset is active merges with it (R504, R506). -/
def State.resetGo (s : State) (p port : Nat) : State :=
  if (s.part p).rstActive then s
  else if s.resetWaits p then s.modPart p fun x => { x with rstActive := true, rstWait := true, rstPort := port }
  else s.resetBegin p port

/-- A write of PART_RESETp (R504, R553). -/
def State.writePartReset (s : State) (port p : Nat) (v : W64) : State :=
  if !s.pkbThere port || !s.partInForce p || !s.holds port p then s
  else s.pkbPost port fun s => if bitAt v 0 then s.resetGo p port else s

/-- PARTITION_RESET of partition `p`: with `go` the write of PART_RST_GO by port `port`; without it the active reset goes on:
out of its wait, or through steps 5 and 6 to its end (R504 to R506, Table 14.4; log 45). -/
def execPartitionReset (p port : Nat) (go : Bool) (s : State) : Host.Outcome State Fault Refusal :=
  unit p 8 <| unit port 2 <|
  if go then .next (s.writePartReset port p 1)
  else
    need (s.mainlandUp && (s.part p).rstActive) .notPending <|
    if (s.part p).rstWait then need (!s.resetWaits p) .notPending <| .next (s.resetBegin p (s.part p).rstPort)
    else .next (s.resetEnd p)

end Sys2Proof.Machine
end

