-- ==== Sys2Proof/Machine/Firmware.lean ====
section
/-! DEFINITION. The mailbox between mainland and skerry, the firmware update, attestation, debug unlock and the sideband services
(R448 to R451, file 12; R478, file 13; R511, R516, R520 to R522, R525 to R534, file 14; R554, file 15). -/

namespace Sys2Proof.Machine

/-! ### The mailbox (R526, Table 14.12) -/

/-- The answer of a mailbox request written into its slot: 0 done, 1 refused, 3 resource exhausted. -/
def State.mailAnswer (s : State) (slot code status : Nat) : State :=
  s.onBoot fun b => { b with mbox := put 0 b.mbox slot code, mboxStatus := put 0 b.mboxStatus slot status }

/-- A request answered: `k` where its verdict is 0; a broken condition is answered with 1 and recorded (R526). -/
def State.mail (s : State) (slot code verdict : Nat) (k : State → State) : State :=
  let t := s.mailAnswer slot code verdict
  if verdict = 0 then k t
  else if verdict = 1 then t.record 0x8D 5 0x10 0 (locOf 0 0) (detailOf [(0, 1, code), (1, 1, code)])
  else t

/-- A request of a running mainland in one of the 16 slots. -/
def mailbox (slot code : Nat) (verdict : State → Nat) (k : State → State) (s : State) : Host.Outcome State Fault Refusal :=
  unit slot 16 <|
  need (s.skerryUp && s.mainlandUp) .unavailable <|
  .next (s.mail slot code (verdict s) k)

/-- A slot that a repair may name: it is not fused off. -/
def State.realSlot (s : State) (k : Nat) : Bool := decide (k < 576) && (s.slot k).status != .fusedOff

/-- The move of a logical number that a REPAIR may ask: from its slot to the one R426 chooses, or to none where R426 finds none; only
a spare slot replaces an active one, and a retired number stays retired (R2, R9). -/
def State.repairMoves (s : State) (l : Nat) (new : Option Nat) : Bool :=
  match (s.lcore l).slot with
  | some old => !(s.lcore l).retired && s.spareFor old == new
  | none => false

/-- The resource that a journal entry names exists, and the entry revives no fenced slot (R526, Table 12.7; log 30). -/
def State.repairNames (s : State) (kind : Nat) (b : List Byte) : Bool :=
  let (k, v) := bodyLoc b 0
  let alive (n : Nat) : Bool := s.realSlot n && (s.slot n).status != .fenced
  match kind with
  | 1 => k == 2 && s.realSlot v
  | 2 =>
    let (k2, n) := bodyLoc b 4
    k == 1 && decide (v < 512) && (k2 == 0 || k2 == 2) && s.repairMoves v (if k2 = 2 then some n else none)
  | 3 => k == 2 && alive v && (bodyLoc b 4).1 == 6 && decide ((bodyLoc b 4).2 < 576)
  | 4 => k == 3 && decide (v < 64)
  | 5 => k == 2 && s.realSlot v
  | 6 => (k == 3 && decide (v < 64)) || (k == 6 && decide (v < 576)) || (k == 7 && isEp v)
  | 7 => k == 3 && decide (v < 64)
  | 8 => k == 6 && decide (v < 576)
  | 9 => k == 3 && decide (v < 64)
  | 10 => k == 3 && decide (v < 64)
  | 11 => k == 3 && decide (v < 64)
  | 12 => k == 14 && (s.homeRaw (v * 65536)).isSome
  | 13 => true
  | _ => false

/-- The condition of REPAIR: 1 to 8 well-formed entries that name what exists. -/
def State.repairOk (s : State) (es : List (Nat × List Byte)) : Bool :=
  decide (1 ≤ es.length) && decide (es.length ≤ 8) && es.all fun e => e.2.length == 32 && s.repairNames e.1 e.2

/-- A repair applied while the package runs: the channel of a number that is retired is orphaned (R426). -/
def State.repairNow (s : State) (kind : Nat) (b : List Byte) : State :=
  let l := (bodyLoc b 0).2
  let t := s.applyRepair kind b
  match kind, (s.lcore l).channel with
  | 2, some ch => if (t.lcore l).retired then t.modChannel ch fun c => { c with orphaned := true } else t
  | _, _ => t

/-- REPAIR: the entries are journalled as one transaction, applied and fused (R449, R526). -/
def execRepair (slot : Nat) (es : List (Nat × List Byte)) (s : State) : Host.Outcome State Fault Refusal :=
  mailbox slot 1 (fun s => bit01 (!s.repairOk es))
    (fun s => (es.foldl (fun s e => s.repairNow e.1 e.2) (s.journal es)).dtDue) s

/-- The condition of PART_GRANT: the partition is ungranted or its own port asked, and it is in reset or holds no enabled queue
(R526). -/
def State.grantOk (s : State) (p port : Nat) : Bool :=
  s.holds port p && ((s.part p).rstActive || !s.queues.any fun x => x.2.enabled && x.2.set.part == p)

/-- PART_GRANT: skerry answers the request of PART_GRANTp that mainland passes on; a refused one sets PART_GRANT_REJECT
(R554). -/
def execPartGrant (slot p : Nat) (s : State) : Host.Outcome State Fault Refusal :=
  unit p 8 <|
  match (s.part p).grantAsk with
  | none => .refused .notPending
  | some port =>
    let ok := s.grantOk p port
    mailbox slot 2 (fun _ => bit01 (!ok)) (fun s => s.modPart p fun x => { x with grant := x.grantReq })
      (s.modPart p fun x => { x with grantAsk := none, grantReject := !ok })

/-- FLASH_LOG: a record of mainland's reaches the flash event log (R516). -/
def execFlashLog (slot : Nat) (e : EvRec) (s : State) : Host.Outcome State Fault Refusal :=
  mailbox slot 4 (fun _ => 0) (fun s => s.flashLog e) s

/-- FULL_NEXT (R511). -/
def execFullNext (slot : Nat) (s : State) : Host.Outcome State Fault Refusal :=
  mailbox slot 5 (fun _ => 0) (fun s => s.onFlash fun f => { f with fullNext := true }) s

/-- RESTART: a package reset asked for by mainland (R500, R526). -/
def execRestart (slot : Nat) (s : State) : Host.Outcome State Fault Refusal :=
  mailbox slot 6 (fun _ => 0) (fun s => (s.packageReset 2).release) s

/-- Active slots of the package. -/
def State.activeSlots (s : State) : Nat := ((List.range 576).filter fun k => (s.slot k).status == .active).length

/-- A logical number of the grade that has never had a slot; retired numbers do not come back (R9, R426). -/
def State.freeNumber (s : State) : Option Nat :=
  (List.range s.gradeCores).find? fun l => (s.lcore l).slot.isNone && !(s.lcore l).retired

/-- The condition of ACTIVATE: the slot is a spare, the active slots after it do not exceed the grade, and a number of the grade is
left for it (R9; log 81). -/
def State.activateOk (s : State) (k : Nat) : Bool :=
  decide (k < 576) && (s.slot k).status == .spare && decide (s.activeSlots + 1 ≤ s.gradeCores) && s.freeNumber.isSome

/-- A spare slot becomes active, and a free logical number takes it with the channel above it (R9, R264). -/
def State.activate (s : State) (k : Nat) : State :=
  let s := s.modSlot k fun x => { x with status := .active }
  match s.freeNumber with
  | none => s
  | some l =>
    let s := s.putLcore l { slot := some k, channel := some k }
    (s.journal [(2, journalBody [(4, (locOf 1 l).toNat), (4, (locOf 2 k).toNat)]),
      (3, journalBody [(4, (locOf 2 k).toNat), (4, (locOf 6 k).toNat)])]).dtDue

/-- ACTIVATE (R525, R526). -/
def execActivate (slot k : Nat) (s : State) : Host.Outcome State Fault Refusal :=
  mailbox slot 7 (fun s => bit01 (!s.activateOk k)) (fun s => s.activate k) s

/-- MAINLAND_RESTART: after 100 ms without a heartbeat mainland starts again, from its loaded copy where `ok`, else from the
flash; the cores, the queue engine and the switch go on meanwhile (R527). -/
def execMainlandRestart (ok : Bool) (s : State) : Host.Outcome State Fault Refusal :=
  need (s.skerryUp && s.mainlandUp) .unavailable <|
  .next (s.record 0x8E 5 0x10 0 (locOf 0 0) (detailOf [(0, 1, bit01 (!ok))]))

/-! ### Attestation (R528 to R532) -/

/-- Skerry has left reset. -/
def State.skerryRuns (s : State) : Bool := s.skerryUp && s.boot.state != .reset

/-- A response header: AT_VERSION, AT_STATUS and AT_LEN (Table 14.14). -/
def atHeader (status len : Nat) : List Byte := bytesOf 2 1 ++ bytesOf 2 status ++ bytesOf 4 len

/-- A response that carries a status alone (log 47). -/
def atShort (status : Nat) : List Byte := atHeader status 0

/-- A certificate response. -/
def atCert (cert : List Byte) : List Byte := atHeader 0 cert.length ++ cert

/-- Bytes of a signature of the alias key (Table 14.14). -/
def sigBytes : Nat := 17088

/-- The bytes of a quote that are signed: offset 0 to the end of the measurements. -/
def Boot.quoteBody (b : Boot) (nonce : List Byte) : List Byte :=
  atHeader 0 (32 + 8 + 256 + sigBytes) ++ nonce ++ bytesOf 8 b.flash.startNum ++ b.measBytes

/-- A whole quote response. -/
def Boot.quote (b : Boot) (nonce : List Byte) : List Byte :=
  b.quoteBody nonce ++ Config.slhSign b.aliasKey (b.quoteBody nonce)

/-- A DOE request that a port takes: served from state ROM on, in RECOVERY too (R508). -/
def doe (port : Nat) (k : State → State) (s : State) : Host.Outcome State Fault Refusal :=
  unit port 2 <|
  need (s.skerryRuns && s.boot.tripLayer == 0 && s.portThere port && (s.port port).up) .unavailable <|
  .next (k s)

/-- GET_IDENTITY_CERT. -/
def execGetIdentityCert (port : Nat) (s : State) : Host.Outcome State Fault Refusal :=
  doe port (fun s => s.portAnswer port (some (atCert s.boot.flash.identity))) s

/-- GET_ALIAS_CERT: busy until the alias key is certified (R528). -/
def execGetAliasCert (port : Nat) (s : State) : Host.Outcome State Fault Refusal :=
  doe port (fun s => s.portAnswer port (some
    (if s.boot.aliasReady then atCert s.boot.aliasCert else atShort 1))) s

/-- GET_QUOTE: a quote begins over a 32-byte nonce; a second one answers busy, and a nonce of another length malformed
(R530, R531). -/
def execGetQuote (port : Nat) (nonce : List Byte) (s : State) : Host.Outcome State Fault Refusal :=
  doe port (fun s =>
    if nonce.length ≠ 32 then s.portAnswer port (some (atShort 2))
    else if s.boot.quoteBusy then s.portAnswer port (some (atShort 1))
    else s.onBoot fun b =>
      { b with quoteBusy := true, quotePort := some port, quoteNonce := bits 256 (natOf nonce) }) s

/-- QUOTE: skerry signs. With a quote of a host port in progress the answer goes to that port; otherwise the request is
mainland's own, over `nonce` (R526, R530). -/
def execQuote (slot : Nat) (nonce : List Byte) (s : State) : Host.Outcome State Fault Refusal :=
  match s.boot.quoteBusy, s.boot.quotePort with
  | true, some port =>
    unit slot 16 <|
    need (s.skerryRuns && s.boot.tripLayer == 0) .unavailable <|
    let out := s.boot.quote (bytesOf 32 s.boot.quoteNonce.toNat)
    let s := s.onBoot fun b => { b with quoteBusy := false, quotePort := none, quoteOut := out }
    .next ((s.mailAnswer slot 3 0).portAnswer port (some out))
  | _, _ =>
    mailbox slot 3 (fun _ => bit01 (nonce.length != 32)) (fun s => s.onBoot fun b => { b with quoteOut := b.quote nonce }) s

/-- DEBUG_UNLOCK: a right token opens debug access until the next cold reset; another changes nothing (R532). -/
def execDebugUnlock (token : List Byte) (s : State) : Host.Outcome State Fault Refusal :=
  need s.skerryRuns .unavailable <|
  .next (if Config.tokenOk (Config.slhPublic s.boot.identityKey) token then (s.onBoot fun b => { b with debug := true }).record 0x8F 5 0x10 0 (locOf 0 0) 0 else s)

/-! ### Firmware update (R520 to R522) -/

/-- Bytes of the image slot (Table 14.8). -/
def imageMax : Nat := 64 * 2 ^ 20

/-- Bytes written into the image slot; what lies outside skerry's window is discarded and counted (R515). -/
def Flash.program (f : Flash) (at_ : Nat) (bs : List Byte) : Flash :=
  match bs with
  | [] => f
  | b :: r =>
    if at_ < imageMax then Flash.program { f with image := put none f.image at_ (some b) } (at_ + 1) r
    else { f with discarded := f.discarded + 1 }

/-- The update and the answer to its last command. -/
def Boot.updated (b : Boot) (u : Update) (answer : Nat) : Boot := { b with update := u, fwAnswer := answer }

/-- The header of the first data is whole: it is checked before anything is erased, and a failure erases nothing
(R521 stages 2 and 3). -/
def State.checkHeader (s : State) : State :=
  let u := s.boot.update
  if u.checked || decide (u.received < hdrBytes) then s
  else if (s.boot.fuses.headerFails (look 0 u.buf)).isSome then s.onBoot fun b => b.updated { erased := b.update.erased } 1
  else
    let data := bytesAt (look 0 u.buf) 0 u.received
    (s.onFlash fun f => Flash.program { f with image := [] } 0 data).onBoot fun b =>
      b.updated { b.update with checked := true, erased := true, buf := [] } 0

/-- Data of the transfer taken. -/
def State.fwData (s : State) (off : Nat) (data : List Byte) : State :=
  let s := if off = 0 then s.onBoot fun b => b.updated { active := true, erased := b.update.erased } 0 else s
  let u := s.boot.update
  let s := s.onBoot fun b => b.updated { u with received := off + data.length } 0
  if u.checked then s.onFlash fun f => f.program off data
  else (s.onBoot fun b => { b with update := { b.update with buf := putBytes u.buf off data } }).checkHeader

/-- FW_UPDATE_DATA: image data from offset `off`; offset 0 begins a transfer, any later piece follows the one before
(R521). -/
def execFwUpdateData (off : Nat) (data : List Byte) (s : State) : Host.Outcome State Fault Refusal :=
  need s.skerryRuns .unavailable <|
  need (off == 0 || (s.boot.update.active && off == s.boot.update.received)) .notPending <|
  .next (s.fwData off data)

/-- VERIFY_COMPLETE: the slot is read back. In RECOVERY an image that passes makes skerry take a package reset itself (R520 to
R522). -/
def execVerifyComplete (s : State) : Host.Outcome State Fault Refusal :=
  need (s.skerryRuns && s.boot.update.active) .notPending <|
  let rd := s.boot.flash.at_
  if !s.boot.update.checked || (s.boot.fuses.imageFails rd).isSome then
    .next (s.onBoot fun b => b.updated { erased := b.update.erased } 1)
  else
    let t := (s.onBoot fun b => b.updated { verified := true } 0).record 0x85 5 0x10 0 (locOf 0 0) (detailOf [(0, 8, hdrNum rd 0x10 8)])
    .next (if s.boot.state = .recovery then (t.packageReset 2).release else t)

/-- ACTIVATE_FIRMWARE: answered with the need of a reset (R521 stage 5). -/
def execActivateFirmware (s : State) : Host.Outcome State Fault Refusal :=
  need (s.skerryRuns && s.boot.update.verified) .notPending <|
  .next (s.onBoot fun b => { b with fwAnswer := 2 })

/-- UPDATE_STALL_TIMEOUT: a transfer that stalls for 60 s is abandoned, and the slot stays as it is (R522). -/
def execUpdateStallTimeout (s : State) : Host.Outcome State Fault Refusal :=
  need (s.skerryRuns && s.boot.update.active) .notPending <|
  let n := s.boot.update.received
  .next ((s.onBoot fun b => { b with update := { erased := b.update.erased } }).record 0x86 5 0x10 0 (locOf 0 0) (detailOf [(0, 4, n)]))

/-! ### Sideband services (R533, R534) -/

/-- MCTP_SET_ENDPOINT_ID: the bus owner's endpoint ID. -/
def execMctpSetEndpointId (eid : Nat) (s : State) : Host.Outcome State Fault Refusal :=
  need s.skerryUp .unavailable <|
  .next (s.onBoot fun b => { b with mctpEid := eid % 256 })

/-- The code of a start-up state (Table 14.5b). -/
def StartState.code (k : StartState) : Nat :=
  match k with
  | .reset => 0 | .rom => 1 | .verify => 2 | .mainland => 3 | .links => 4 | .clusters => 5 | .memtest => 6 | .linkcheck => 7
  | .ready => 8 | .recovery => 9 | .tripped => 10 | .halted => 11

/-- A reading of 0.125 °C in whole degrees, rounded down (log 48). -/
def wholeDeg (t : Int) : Int := t / 8

/-- The reading of a sensor of Table 14.13. -/
def State.pldmReading (s : State) (id : Nat) : Int :=
  match id with
  | 1 => s.power.nowW
  | 2 => (s.power.energy.toNat / 1000000 : Nat)
  | 15 => wholeDeg s.power.tHub
  | 20 => (s.denseMib / 1024 : Nat)
  | 21 => s.logicalCores.length
  | 22 => s.boot.state.code
  | 23 => s.boot.fuses.lastTrip
  | _ =>
    let d := (id - 3) % 4
    let of16 (g : Nat → Int) : Int := wholeDeg (hottest ((List.range 16).map fun i => g (d * 16 + i)))
    match (id - 3) / 4 with
    | 0 => of16 fun cl => (s.cluster cl).tLogic
    | 1 => of16 fun k => (s.slice k).tEff
    | 2 => wholeDeg (s.die d).tDense
    | _ => wholeDeg (s.fab.engine (id - 16)).tOpt

/-- The sensors that skerry answers while mainland does not run: the start-up state, the temperatures, and in the trip state the
trip's cause (R494, R533; log 48). -/
def State.skerryAnswers (s : State) (id : Nat) : Bool :=
  (decide (3 ≤ id) && decide (id ≤ 19)) || id == 22 || (id == 23 && s.boot.tripLayer != 0)

/-- PLDM_SENSOR_READ of sensor `id`. -/
def execPldmSensorRead (id : Nat) (s : State) : Host.Outcome State Fault Refusal :=
  unit (if id = 0 then 23 else id - 1) 23 <|
  need s.skerryUp .unavailable <|
  need (s.mainlandUp || s.skerryAnswers id) .unavailable <|
  .next (s.onBoot fun b => { b with pldmOut := s.pldmReading id })

/-- PLDM_EVENT_READ: the BMC reads the oldest record it has not read; ALERT_N rises once none is left (R533; log 48). -/
def execPldmEventRead (s : State) : Host.Outcome State Fault Refusal :=
  need s.skerryUp .unavailable <|
  .next (s.onBoot fun b =>
    { b with pldmEvent := b.pldmQueue.head?, pldmQueue := b.pldmQueue.tail, alertLow := !b.pldmQueue.tail.isEmpty })

/-- FLASH_EVENT_LOG_READ: `n` bytes of the flash event log from byte `lo`, through the PLDM file service (R516, R533). -/
def execFlashEventLogRead (lo n : Nat) (s : State) : Host.Outcome State Fault Refusal :=
  need s.skerryUp .unavailable <|
  .next (s.onBoot fun b => { b with fileOut := ((b.flash.log.flatMap EvRec.bytes).drop lo).take n })

/-- A request of PWR_CAP from some source: stored, and taken at the next round where it is in range (R478). -/
def State.capRequest (s : State) (w f : Nat) (src : CapSrc) : State :=
  let ok := decide (900 ≤ w) && decide (w ≤ 1800) && decide (f ≤ 18)
  s.onPower fun p =>
    { p with capStored := w % 2 ^ 11, fmaxStored := f % 2 ^ 5, capReject := !ok, capPending := if ok then some (w, f, src) else p.capPending }

/-- The cap and the step-index ceiling that a request replaces: those of the request that waits, else those in force. -/
def Power.wanted (p : Power) : Nat × Nat := match p.capPending with | some (w, f, _) => (w, f) | none => (p.cap, p.fmax)

/-- POWER_CAP_EFFECTER: the BMC's request of a cap of `w` watts (R478, R534). -/
def execPowerCapEffecter (w : Nat) (s : State) : Host.Outcome State Fault Refusal :=
  need s.mainlandUp .unavailable <| .next (s.capRequest w s.power.wanted.2 .sideband)

/-- STEP_INDEX_CEILING_EFFECTER: the BMC's request of a step-index ceiling (R478, R534). -/
def execStepIndexCeilingEffecter (k : Nat) (s : State) : Host.Outcome State Fault Refusal :=
  need s.mainlandUp .unavailable <| .next (s.capRequest s.power.wanted.1 k .sideband)

/-- FULL_START_EFFECTER: a full start at the next start, or none (R511, R534). -/
def execFullStartEffecter (on : Bool) (s : State) : Host.Outcome State Fault Refusal :=
  need s.mainlandUp .unavailable <| .next (s.onFlash fun f => { f with fullNext := on })

end Sys2Proof.Machine
end

