-- ==== Sys2Proof/Machine/Flags.lean ====
section
/-! DEFINITION. The predicate computations: comparisons of integers and of FP32 values, predicate logic and votes (Table
05.9, file 05). -/

namespace Sys2Proof.Machine

/-- FN[2:0] of a comparison is not reserved. -/
def cmpOk (fn : BitVec 9) : Bool := decide (fn.toNat % 8 < 6)

/-- A comparison by FN[2:0] from "less" and "equal": 0 EQ, 1 NE, 2 LT, 3 LE, 4 GT, 5 GE. -/
def cmpBy (code : Nat) (lt eq : Bool) : Bool :=
  match code with
  | 0 => eq | 1 => !eq | 2 => lt | 3 => lt || eq | 4 => !(lt || eq) | _ => !lt

/-- The integer that bits of a type stand for. -/
def Ty.int (t : Ty) (x : Nat) : Int := if t.signed then sext t.w x else (x % 2 ^ t.w : Nat)

/-- ICMP. -/
def icmp (t : Ty) (fn : BitVec 9) (a b : Nat) : Bool :=
  cmpBy (fn.toNat % 8) (decide (t.int a < t.int b)) (decide (t.int a = t.int b))

/-- FCMP: exact, −0 equal to +0; with a NaN operand the result is FN[3]. -/
def fcmp (fn : BitVec 9) (a b : Nat) : Bool :=
  let x := fp32Val a
  let y := fp32Val b
  if x.isNan || y.isNan then bitAt fn 3
  else cmpBy (fn.toNat % 8) (x.lt y) (!x.lt y && !y.lt x)

/-- PLOG: bit 2·pa + pb of FN[3:0]. -/
def plog (fn : BitVec 9) (pa pb : Bool) : Bool := bitAt fn (pa.toNat * 2 + pb.toNat)

/-- The ballot mask of the acting threads. -/
def ballot (act : List Nat) (p : Nat → Bool) : Nat := maskOf (act.filter p)

end Sys2Proof.Machine
end

