-- ==== Sys2Proof/Machine/FloatArith.lean ====
section
/-! DEFINITION. The floating-point instructions and the special functions of the arithmetic port (R52, R53, file 02; Table
05.9, file 05). -/

namespace Sys2Proof.Machine

/-! ### Elements of a type -/

/-- One 16-bit half of a packed value. -/
def halfOf (x i : Nat) : Nat := x >>> (16 * i) % 2 ^ 16

/-- A result of two halves. -/
def packHalves (lo hi : Nat) : Nat := lo % 2 ^ 16 + hi % 2 ^ 16 * 2 ^ 16

/-- An operation on exact values, rounded once into the element format of the type (R52). -/
def floatOp (t : Ty) (rm : Round) (op : Val → Val → Val → Val) (a b c : Nat) : Nat :=
  if t.packed then
    let half (i : Nat) : Nat :=
      t.half.encode rm false
        (op (t.half.decodeElem (halfOf a i)) (t.half.decodeElem (halfOf b i)) (t.half.decodeElem (halfOf c i)))
    packHalves (half 0) (half 1)
  else fp32Of rm (op (fp32Val a) (fp32Val b) (fp32Val c))

/-- Floating types are accepted. -/
def floatSpec : RSpec := { ok := Ty.isFloat }

/-- The rounding that RM names: RNE or RTZ. -/
def FmtR.round (f : FmtR) : Round := if f.rm.toNat = 1 then .rtz else .rne

/-- FADD: d = a + b (R159). -/
def execFadd (site : Site) (h : Hdr) (f : FmtR) (s : State) : Host.Outcome State Fault Refusal :=
  rResult floatSpec (fun t a b c => floatOp t f.round (fun x y _ => x.add y) a b c) site h f s

/-- FSUB: d = a − b (R159). -/
def execFsub (site : Site) (h : Hdr) (f : FmtR) (s : State) : Host.Outcome State Fault Refusal :=
  rResult floatSpec (fun t a b c => floatOp t f.round (fun x y _ => x.add y.negate) a b c) site h f s

/-- FMUL: d = a × b (R159). -/
def execFmul (site : Site) (h : Hdr) (f : FmtR) (s : State) : Host.Outcome State Fault Refusal :=
  rResult floatSpec (fun t a b c => floatOp t f.round (fun x y _ => x.mul y) a b c) site h f s

/-- FFMA: d = a × b + c with one rounding (R159). -/
def execFfma (site : Site) (h : Hdr) (f : FmtR) (s : State) : Host.Outcome State Fault Refusal :=
  rResult { floatSpec with c := true } (fun t a b c => floatOp t f.round (fun x y z => (x.mul y).add z) a b c) site h f s

/-- FMIN: minimum under R52. -/
def execFmin (site : Site) (h : Hdr) (f : FmtR) (s : State) : Host.Outcome State Fault Refusal :=
  rResult floatSpec (fun t a b c => floatOp t f.round (fun x y _ => x.minV y) a b c) site h f s

/-- FMAX: maximum under R52. -/
def execFmax (site : Site) (h : Hdr) (f : FmtR) (s : State) : Host.Outcome State Fault Refusal :=
  rResult floatSpec (fun t a b c => floatOp t f.round (fun x y _ => x.maxV y) a b c) site h f s

/-- FCMP: p[PX] = a cmp b, F32 only (R159). -/
def execFcmp (site : Site) (h : Hdr) (f : FmtR) (s : State) : Host.Outcome State Fault Refusal :=
  rPred { ok := fun t => t == .f32, fnOk := cmpOk f.fn } (fun _ a b => fcmp f.fn a b) site h f s

/-- FSQRT: correctly rounded, F32 only (R159). -/
def execFsqrt (site : Site) (h : Hdr) (f : FmtR) (s : State) : Host.Outcome State Fault Refusal :=
  rResult { ok := fun t => t == .f32, b := false } (fun t a b c => floatOp t f.round (fun x _ _ => x.sqrtV) a b c) site h f s

/-! ### Special functions: an approximation far finer than the bounds of Table 02.5 -/

/-- The special functions. -/
inductive Sfu where
  | rcp | rsq | ex2 | lg2 | sin | cos | tanh
deriving DecidableEq, Repr

/-- The number under which the free result of a function is drawn. -/
def Sfu.ix (o : Sfu) : Nat :=
  match o with | .rcp => 0 | .rsq => 1 | .ex2 => 2 | .lg2 => 3 | .sin => 4 | .cos => 5 | .tanh => 6

/-- Terms of atan (alternating) or atanh of 1/n in fixed point: `p` is 2^P ÷ n^(2k+1). -/
def atanTerms (alt : Bool) (n2 : Nat) : Nat → Nat → Nat → Int
  | 0, _, _ => 0
  | fuel + 1, k, p =>
    let t : Int := (p / (2 * k + 1) : Nat)
    (if alt && k % 2 = 1 then -t else t) + atanTerms alt n2 fuel (k + 1) (p / n2)

/-- ln 2 in fixed point with P fraction bits: 2 atanh(1/3). -/
def ln2Fix (pr : Nat) : Int := 2 * atanTerms false 9 (pr / 3 + 4) 0 (2 ^ pr / 3)

/-- π in fixed point with P fraction bits: 16 atan(1/5) − 4 atan(1/239). -/
def piFix (pr : Nat) : Int :=
  16 * atanTerms true 25 (pr / 4 + 4) 0 (2 ^ pr / 5) - 4 * atanTerms true 57121 (pr / 15 + 4) 0 (2 ^ pr / 239)

/-- Terms of e^y, y in fixed point. -/
def expTerms (pr : Nat) (y : Int) : Nat → Nat → Int → Int
  | 0, _, _ => 0
  | fuel + 1, k, t => t + expTerms pr y fuel (k + 1) (t * y / 2 ^ pr / (k + 1 : Nat))

/-- Terms of sin or cos: each is the one before times −x² ÷ (j (j + 1)). -/
def trigTerms (pr : Nat) (x : Int) : Nat → Nat → Int → Int
  | 0, _, _ => 0
  | fuel + 1, j, t => t + trigTerms pr x fuel (j + 2) (-(t * x / 2 ^ pr * x / 2 ^ pr / (j * (j + 1) : Nat)))

/-- Terms of atanh z: z^(2k+1) ÷ (2k+1). -/
def atanhTerms (pr : Nat) (z2 : Int) : Nat → Nat → Int → Int
  | 0, _, _ => 0
  | fuel + 1, k, p => p / (2 * k + 1 : Nat) + atanhTerms pr z2 fuel (k + 1) (p * z2 / 2 ^ pr)

/-- A value in fixed point, truncated. -/
def fixOf (pr : Nat) (s : Bool) (m : Nat) (e : Int) : Int :=
  let x : Int := (if 0 ≤ e + pr then m * 2 ^ (e + pr).toNat else m >>> (-(e + pr)).toNat : Nat)
  if s then -x else x

/-- The value of a fixed-point number. -/
def ofFix (pr : Nat) (x : Int) : Val := .fin (decide (x < 0)) x.natAbs (-(pr : Int))

/-- 1 ÷ x to 100 bits. -/
def recipV (s : Bool) (m : Nat) (e : Int) : Val :=
  let k := Nat.log2 m + 200
  .fin s (2 ^ k / m) (-(k : Int) - e)

/-- 2^x. -/
def ex2V (s : Bool) (m : Nat) (e : Int) : Val :=
  if magLt 200 0 m e then .fin false 1 (if s then -400 else 400)
  else
    let x := fixOf 200 s m e
    let n := x / 2 ^ 200
    let f := x % 2 ^ 200
    (ofFix 200 (expTerms 200 (f * ln2Fix 200 / 2 ^ 200) 60 0 (2 ^ 200))).scale n

/-- log2 of a positive value. -/
def lg2V (m : Nat) (e : Int) : Val :=
  let l := Nat.log2 m
  let f := fixOf 200 false m (-(l : Int))
  let z := (f - 2 ^ 200) * 2 ^ 200 / (f + 2 ^ 200)
  let ln := 2 * atanhTerms 200 (z * z / 2 ^ 200) 70 0 z
  ofFix 200 (((l : Int) + e) * 2 ^ 200 + ln * 2 ^ 200 / ln2Fix 200)

/-- The angle reduced to one turn, with 320 fraction bits. -/
def angle (s : Bool) (m : Nat) (e : Int) : Int := fixOf 320 s m e % (2 * piFix 320)

/-- sin x. -/
def sinV (s : Bool) (m : Nat) (e : Int) : Val := let x := angle s m e; ofFix 320 (trigTerms 320 x 60 2 x)

/-- cos x. -/
def cosV (s : Bool) (m : Nat) (e : Int) : Val := let x := angle s m e; ofFix 320 (trigTerms 320 x 60 1 (2 ^ 320))

/-- tanh x. -/
def tanhV (s : Bool) (m : Nat) (e : Int) : Val :=
  if magLt 64 0 m e then .fin s (2 ^ 100 - 1) (-100)
  else
    let y := 2 * fixOf 320 false m e
    let n := y / ln2Fix 320
    let ex := expTerms 320 (y % ln2Fix 320) 80 0 (2 ^ 320) * 2 ^ n.toNat
    let r := ofFix 320 ((ex - 2 ^ 320) * 2 ^ 320 / (ex + 2 ^ 320))
    if s then r.negate else r

/-- The result at a special input (Table 02.5): `some` where it is fixed; a NaN gives NaN. -/
def Sfu.special (o : Sfu) (x : Val) : Option Val :=
  match x with
  | .nan => some .nan
  | .inf s =>
    match o with
    | .rcp => some (.fin s 0 0)
    | .rsq => some (if s then .nan else .zero)
    | .ex2 => some (if s then .zero else .inf false)
    | .lg2 => if s then some .nan else none
    | .sin | .cos => some .nan
    | .tanh => some (.fin s 1 0)
  | .fin s m _ =>
    match o with
    | .rcp => if m = 0 then some (.inf s) else none
    | .rsq => if m = 0 then some (.inf s) else if s then some .nan else none
    | .lg2 => if m = 0 then some (.inf true) else if s then some .nan else none
    | _ => none

/-- The approximation at a finite input that is not special. -/
def Sfu.approx (o : Sfu) (s : Bool) (m : Nat) (e : Int) : Val :=
  match o with
  | .rcp => recipV s m e
  | .rsq => match recipV s m e with | .fin t n f => (Val.fin t n f).sqrtV | v => v
  | .ex2 => ex2V s m e
  | .lg2 => lg2V m e
  | .sin => sinV s m e
  | .cos => cosV s m e
  | .tanh => tanhV s m e

/-- The error allowed in FP32 (Table 02.5), as n × 2^q. -/
def Sfu.bound (o : Sfu) (m : Nat) (e : Int) (a : Val) : Nat × Int :=
  let ulp : Int := match a with | .fin _ n f => ulpExp 23 (-126) n f | _ => 0
  match o with
  | .rcp | .rsq => (1, ulp)
  | .ex2 | .tanh => (2, ulp)
  | .lg2 => if magLt m e 1 (-1) || magLt 1 1 m e then (2, ulp) else (1, -22)
  | .sin | .cos => (1, -21)

/-- |a − b| ≤ n × 2^q. -/
def within (a b : Val) (n : Nat) (q : Int) : Bool :=
  match a.add b.negate with
  | .fin _ m e => !magLt n q m e
  | _ => false

/-- A special function in FP32: a special input gives its fixed result; any other input a free value within the bound of
Table 02.5, and its correctly rounded result where the free value lies outside. Base-2 logarithm of +Inf, which the
table leaves out, is free; a NaN among the free values is the canonical one (R39, log 14). -/
def Sfu.fp32 (o : Sfu) (b : Nat) : Nat :=
  let x := fp32Val b
  let v := (Config.sfu o.ix (bits 32 b)).toNat
  match o.special x with
  | some r => fp32Of .rne r
  | none =>
    match x with
    | .fin s m e =>
      let a := o.approx s m e
      let r := fp32Of .rne a
      let (n, q) := o.bound m e a
      if r % 2 ^ 31 < 0x7F800000 && within (fp32Val v) a n q then v else r
    | _ => fp32Of .rne (fp32Val v)

/-- A special function on a packed half: evaluated in FP32, rounded once with RNE, within 1 ulp of the 16-bit format
(R53). -/
def Sfu.onHalf (o : Sfu) (f : Fmt) (b : Nat) : Nat :=
  let x := f.decodeElem b
  let y := f.encode .rne false (fp32Val (o.fp32 (fp32Of .rne x)))
  match o.special x, x with
  | none, .fin s m e =>
    let a := o.approx s m e
    let l := f.layout
    match a with
    | .fin _ n q =>
      if y % 2 ^ (l.eb + l.mb) > l.maxBits || within (l.decode y) a 1 (ulpExp l.mb (1 - l.bias) n q) then y
      else f.encode .rne false a
    | _ => y
  | _, _ => y

/-- A special-function instruction (R53, R159). -/
def sfuOp (o : Sfu) (t : Ty) (a : Nat) : Nat :=
  if t.packed then packHalves (o.onHalf t.half (halfOf a 0)) (o.onHalf t.half (halfOf a 1)) else o.fp32 a

/-- RCP: d = 1 ÷ a (R53). -/
def execRcp (site : Site) (h : Hdr) (f : FmtR) (s : State) : Host.Outcome State Fault Refusal :=
  rResult { floatSpec with b := false } (fun t a _ _ => sfuOp .rcp t a) site h f s

/-- RSQ: d = 1 ÷ √a (R53). -/
def execRsq (site : Site) (h : Hdr) (f : FmtR) (s : State) : Host.Outcome State Fault Refusal :=
  rResult { floatSpec with b := false } (fun t a _ _ => sfuOp .rsq t a) site h f s

/-- EX2: d = 2^a (R53). -/
def execEx2 (site : Site) (h : Hdr) (f : FmtR) (s : State) : Host.Outcome State Fault Refusal :=
  rResult { floatSpec with b := false } (fun t a _ _ => sfuOp .ex2 t a) site h f s

/-- LG2: d = log2 a (R53). -/
def execLg2 (site : Site) (h : Hdr) (f : FmtR) (s : State) : Host.Outcome State Fault Refusal :=
  rResult { floatSpec with b := false } (fun t a _ _ => sfuOp .lg2 t a) site h f s

/-- SIN: d = sin a (R53). -/
def execSin (site : Site) (h : Hdr) (f : FmtR) (s : State) : Host.Outcome State Fault Refusal :=
  rResult { floatSpec with b := false } (fun t a _ _ => sfuOp .sin t a) site h f s

/-- COS: d = cos a (R53). -/
def execCos (site : Site) (h : Hdr) (f : FmtR) (s : State) : Host.Outcome State Fault Refusal :=
  rResult { floatSpec with b := false } (fun t a _ _ => sfuOp .cos t a) site h f s

/-- TANH: d = tanh a (R53). -/
def execTanh (site : Site) (h : Hdr) (f : FmtR) (s : State) : Host.Outcome State Fault Refusal :=
  rResult { floatSpec with b := false } (fun t a _ _ => sfuOp .tanh t a) site h f s

end Sys2Proof.Machine
end

