-- ==== Sys2Proof/Machine/IntArith.lean ====
section
/-! DEFINITION. The integer, bit and select instructions of the arithmetic port (Table 05.9, file 05). -/

namespace Sys2Proof.Machine

/-- Bitwise logic of BLOG and UBLOG: a table of two inputs, then a combination with C or its complement. -/
def blog (w : Nat) (fn : BitVec 9) (a b c : Nat) : Nat :=
  let bitT (k : Nat) : Bool := bitAt fn ((a.testBit k).toNat * 2 + (b.testBit k).toNat)
  let bitC (k : Nat) : Bool := c.testBit k != bitAt fn 6
  let out (k : Nat) : Bool :=
    match fn.toNat / 16 % 4 with
    | 0 => bitT k
    | 1 => bitT k && bitC k
    | 2 => bitT k || bitC k
    | _ => bitT k != bitC k
  (List.range w).foldl (fun x k => x + (out k).toNat * 2 ^ k) 0

/-- Arithmetic or logical shift right by b mod w. -/
def shiftRight (t : Ty) (a b : Nat) : Nat :=
  if t.signed then lowBits t.w (sext t.w a / 2 ^ (b % t.w) : Int) else (a % 2 ^ t.w) >>> (b % t.w)

/-- Bit-field extract: b[15:8] bits of a from bit b[7:0]. -/
def bfe (t : Ty) (a b : Nat) : Nat :=
  let pos := b % 256
  let len := b / 256 % 256
  -- bits beyond w - 1 read as the sign bit (I) or 0 (U)
  let x : Int := t.int a / 2 ^ pos
  let f := (x % 2 ^ len).toNat
  if len = 0 then 0 else lowBits t.w (if t.signed then sext len f else (f : Int))

/-- Bit-field insert: c with b[15:8] bits from bit b[7:0] replaced by the low bits of a. -/
def bfi (t : Ty) (a b c : Nat) : Nat :=
  let pos := b % 256
  let len := b / 256 % 256
  (List.range t.w).foldl (fun x k =>
    x + (if pos ≤ k && k < pos + len then a.testBit (k - pos) else c.testBit k).toNat * 2 ^ k) 0

/-- Number of 1 bits. -/
def popc (w a : Nat) : Nat := ((List.range w).filter a.testBit).length

/-- Number of leading 0 bits of a w-bit value. -/
def clz (w a : Nat) : Nat := if a % 2 ^ w = 0 then w else w - 1 - Nat.log2 (a % 2 ^ w)

/-- Bit order reversed. -/
def brev (w a : Nat) : Nat := (List.range w).foldl (fun x k => x + (a.testBit (w - 1 - k)).toNat * 2 ^ k) 0

/-- Byte select: byte k of the result is 0 when bit 8k + 7 of c is 1, else the byte c[8k+2:8k] of b:a. -/
def byteSel (a b c : Nat) : Nat :=
  let v := a % 2 ^ 32 + b % 2 ^ 32 * 2 ^ 32
  (List.range 4).foldl (fun x k =>
    x + (if c.testBit (8 * k + 7) then 0 else v >>> (8 * (c >>> (8 * k) % 8)) % 256) * 2 ^ (8 * k)) 0

/-- The integer types are accepted. -/
def intSpec : RSpec := { ok := Ty.isInt }

/-- IADD: d = a + b (R159). -/
def execIadd (site : Site) (h : Hdr) (f : FmtR) (s : State) : Host.Outcome State Fault Refusal :=
  rResult intSpec (fun t a b _ => (a + b) % 2 ^ t.w) site h f s

/-- ISUB: d = a − b (R159). -/
def execIsub (site : Site) (h : Hdr) (f : FmtR) (s : State) : Host.Outcome State Fault Refusal :=
  rResult intSpec (fun t a b _ => lowBits t.w ((a : Int) - b)) site h f s

/-- IMUL: low w bits of a × b (R159). -/
def execImul (site : Site) (h : Hdr) (f : FmtR) (s : State) : Host.Outcome State Fault Refusal :=
  rResult intSpec (fun t a b _ => a * b % 2 ^ t.w) site h f s

/-- IMULH: high w bits of the 2w-bit product, signed for I types (R159). -/
def execImulh (site : Site) (h : Hdr) (f : FmtR) (s : State) : Host.Outcome State Fault Refusal :=
  rResult intSpec (fun t a b _ => lowBits t.w (t.int a * t.int b / 2 ^ t.w : Int)) site h f s

/-- IMAD: low w bits of a × b + c (R159). -/
def execImad (site : Site) (h : Hdr) (f : FmtR) (s : State) : Host.Outcome State Fault Refusal :=
  rResult { intSpec with c := true } (fun t a b c => (a * b + c) % 2 ^ t.w) site h f s

/-- IMIN: the lesser of a and b, signed for I types (R159). -/
def execImin (site : Site) (h : Hdr) (f : FmtR) (s : State) : Host.Outcome State Fault Refusal :=
  rResult intSpec (fun t a b _ => if t.int a < t.int b then a else b) site h f s

/-- IMAX: the greater of a and b (R159). -/
def execImax (site : Site) (h : Hdr) (f : FmtR) (s : State) : Host.Outcome State Fault Refusal :=
  rResult intSpec (fun t a b _ => if t.int a < t.int b then b else a) site h f s

/-- IABS: |a|; the most negative value returns itself (R159). -/
def execIabs (site : Site) (h : Hdr) (f : FmtR) (s : State) : Host.Outcome State Fault Refusal :=
  rResult { ok := fun t => t.signed, b := false } (fun t a _ _ => lowBits t.w (t.int a).natAbs) site h f s

/-- BLOG: bitwise logic by FN; C is read when FN[5:4] is not 0 (R159). -/
def execBlog (site : Site) (h : Hdr) (f : FmtR) (s : State) : Host.Outcome State Fault Refusal :=
  rResult { intSpec with c := decide (f.fn.toNat / 16 % 4 ≠ 0) } (fun t a b c => blog t.w f.fn a b c) site h f s

/-- SHL: shift left by b mod w (R159). -/
def execShl (site : Site) (h : Hdr) (f : FmtR) (s : State) : Host.Outcome State Fault Refusal :=
  rResult intSpec (fun t a b _ => a <<< (b % t.w) % 2 ^ t.w) site h f s

/-- SHR: shift right by b mod w; arithmetic for I types (R159). -/
def execShr (site : Site) (h : Hdr) (f : FmtR) (s : State) : Host.Outcome State Fault Refusal :=
  rResult intSpec (fun t a b _ => shiftRight t a b) site h f s

/-- BFE: bit-field extract (R159). -/
def execBfe (site : Site) (h : Hdr) (f : FmtR) (s : State) : Host.Outcome State Fault Refusal :=
  rResult intSpec (fun t a b _ => bfe t a b) site h f s

/-- BFI: bit-field insert (R159). -/
def execBfi (site : Site) (h : Hdr) (f : FmtR) (s : State) : Host.Outcome State Fault Refusal :=
  rResult { intSpec with c := true } (fun t a b c => bfi t a b c) site h f s

/-- POPC: number of 1 bits (R159). -/
def execPopc (site : Site) (h : Hdr) (f : FmtR) (s : State) : Host.Outcome State Fault Refusal :=
  rResult { intSpec with b := false } (fun t a _ _ => popc t.w a) site h f s

/-- CLZ: number of leading 0 bits (R159). -/
def execClz (site : Site) (h : Hdr) (f : FmtR) (s : State) : Host.Outcome State Fault Refusal :=
  rResult { intSpec with b := false } (fun t a _ _ => clz t.w a) site h f s

/-- BREV: bit order reversed (R159). -/
def execBrev (site : Site) (h : Hdr) (f : FmtR) (s : State) : Host.Outcome State Fault Refusal :=
  rResult { intSpec with b := false } (fun t a _ _ => brev t.w a) site h f s

/-- ICMP: p[PX] = a cmp b (R159). -/
def execIcmp (site : Site) (h : Hdr) (f : FmtR) (s : State) : Host.Outcome State Fault Refusal :=
  rPred { intSpec with fnOk := cmpOk f.fn } (fun t a b => icmp t f.fn a b) site h f s

/-- SEL: a if p[PX] is 1, otherwise b; bit copy (R159). -/
def execSel (site : Site) (h : Hdr) (f : FmtR) (s : State) : Host.Outcome State Fault Refusal :=
  issue site h (rNeeds { ok := fun _ => true } h f) (fun c s =>
    let t := f.type
    s.onGroup c (writeThreads t f.vd.toNat c.act fun k =>
      if c.g.p f.px.toNat k then f.srcA c.g t k else f.srcB c.g t k)) s

/-- MOV: bit copy of b (R159). -/
def execMov (site : Site) (h : Hdr) (f : FmtR) (s : State) : Host.Outcome State Fault Refusal :=
  rResult { ok := fun _ => true, a := false } (fun _ _ b _ => b) site h f s

/-- PLOG: p[PX] = bit (2·p[VA[2:0]] + p[VB[2:0]]) of FN[3:0]; TY is ignored (R159). -/
def execPlog (site : Site) (h : Hdr) (f : FmtR) (s : State) : Host.Outcome State Fault Refusal :=
  issue site h (rNeeds { ok := fun _ => true, anyTy := true, a := false, b := false, d := false } h f) (fun c s =>
    s.onGroup c (writePreds f.px.toNat c.act fun k =>
      plog f.fn (c.g.p (f.va.toNat % 8) k) (c.g.p (f.vb.toNat % 8) k))) s

/-- BYTESEL (R159). -/
def execBytesel (site : Site) (h : Hdr) (f : FmtR) (s : State) : Host.Outcome State Fault Refusal :=
  rResult { ok := fun t => t == .u32, c := true } (fun _ a b c => byteSel a b c) site h f s

end Sys2Proof.Machine
end

