-- ==== Sys2Proof/Machine/Lane.lean ====
section
/-! DEFINITION. The lane and uniform instructions (R157, R159, R163, R164, file 05). -/

namespace Sys2Proof.Machine

/-- A 32-bit type. -/
def Ty.is32 (t : Ty) : Bool := !t.wide

/-- The source thread of XLANE for thread `t` (R163). -/
def xlaneSource (mode t b : Nat) : Nat :=
  match mode with
  | 0 => b % 32
  | 1 => (t + b) % 32
  | 2 => let x := (t : Int) + sext 32 b; if 0 ≤ x && x < 32 then x.toNat else t
  | _ => t ^^^ (b % 32)

/-- XLANE: a of the source thread, as it stands (R163). -/
def execXlane (site : Site) (h : Hdr) (f : FmtR) (s : State) : Host.Outcome State Fault Refusal :=
  issue site h (rNeeds { ok := Ty.is32 } h f) (fun c s =>
    s.onGroup c (writeThreads .u32 f.vd.toNat c.act fun k =>
      (c.g.v f.va.toNat (xlaneSource (f.fn.toNat % 4) k (f.srcB c.g f.type k))).toNat)) s

/-- VOTE: ALL, ANY or BALLOT over p[VA[2:0]] of the acting threads (R159, R164). -/
def execVote (site : Site) (h : Hdr) (f : FmtR) (s : State) : Host.Outcome State Fault Refusal :=
  let mode := f.fn.toNat % 4
  issue site h (rNeeds { ok := fun _ => true, anyTy := true, a := false, b := false, d := mode == 2, fnOk := mode != 3 } h f)
    (fun c s =>
      let p (k : Nat) : Bool := c.g.p (f.va.toNat % 8) k
      s.onGroup c (match mode with
        | 0 => writePreds f.px.toNat c.act fun _ => c.act.all p
        | 1 => writePreds f.px.toNat c.act fun _ => c.act.any p
        | _ => writeThreads .u32 f.vd.toNat c.act fun _ => ballot c.act p)) s

/-- One level of the reduction tree: adjacent pairs combined. -/
def pairUp (op : Nat → Nat → Nat) : List Nat → List Nat
  | a :: b :: r => op a b :: pairUp op r
  | l => l

/-- The fixed reduction tree over 32 values: five levels (R164). -/
def tree32 (op : Nat → Nat → Nat) (l : List Nat) : Nat :=
  (pairUp op (pairUp op (pairUp op (pairUp op (pairUp op l))))).headD 0

/-- The reductions of LRED: FN[2:0] and type. -/
def lredOp (t : Ty) (fn : Nat) (a b : Nat) : Nat :=
  if t = .f32 then
    match fn with
    | 0 => fp32Of .rne ((fp32Val a).add (fp32Val b))
    | 1 => fp32Of .rne ((fp32Val a).minV (fp32Val b))
    | _ => fp32Of .rne ((fp32Val a).maxV (fp32Val b))
  else
    match fn with
    | 0 => (a + b) % 2 ^ 32
    | 1 => if t.int a < t.int b then a else b
    | 2 => if t.int a < t.int b then b else a
    | 3 => a &&& b
    | 4 => a ||| b
    | _ => a ^^^ b

/-- The identity of a reduction, which a thread that does not act contributes: −0 for F32 ADD; for MIN and MAX the end of
the type's range, and for F32 a NaN, which R52 makes the other operand's (R164). -/
def lredIdentity (t : Ty) (fn : Nat) : Nat :=
  if t = .f32 then (match fn with | 0 => 0x80000000 | _ => 0x7FC00000)
  else
    match fn with
    | 1 => if t.signed then 0x7FFFFFFF else 0xFFFFFFFF
    | 2 => if t.signed then 0x80000000 else 0
    | 3 => 0xFFFFFFFF
    | _ => 0

/-- LRED: reduction over the acting threads, written to each of them (R164). -/
def execLred (site : Site) (h : Hdr) (f : FmtR) (s : State) : Host.Outcome State Fault Refusal :=
  let fn := f.fn.toNat % 8
  issue site h (rNeeds { ok := fun t => t == .i32 || t == .u32 || (t == .f32 && decide (fn ≤ 2)),
                         b := false, fnOk := decide (fn < 6) } h f) (fun c s =>
    let t := f.type
    let vals := (List.range 32).map fun k =>
      if c.act.contains k then (c.g.v f.va.toNat k).toNat else lredIdentity t fn
    s.onGroup c (writeThreads .u32 f.vd.toNat c.act fun _ => tree32 (lredOp t fn) vals)) s

/-! ### Instructions that execute once per issue (R157) -/

/-- The effect only when some thread acts. -/
def once (c : Ctx) (s s' : State) : State := if c.act.isEmpty then s else s'

/-- READLANE: u[VD] = a of thread b mod 32; a per-thread b is that of the lowest-numbered acting thread (R159). -/
def execReadlane (site : Site) (h : Hdr) (f : FmtR) (s : State) : Host.Outcome State Fault Refusal :=
  let n := rNeeds { ok := Ty.is32, d := false } h f
  issue site h { n with uw := [f.vd.toNat], enc := n.enc && uOk f.vd } (fun c s =>
    once c s (s.onGroup c fun g =>
      let b := f.srcB c.g f.type (c.act.headD 0)
      g.setU f.vd.toNat (bits 64 (c.g.v f.va.toNat (b % 32)).toNat))) s

/-- The registers and checks of a uniform instruction: every field names a u register, BSEL = 0 included (R152, R159). -/
def uNeeds (a b c d : Bool) (ok : Ty → Bool) (fnOk : Bool) (f : FmtR) : Needs :=
  let bu := b && decide (f.bsel.toNat ≤ 1)
  { ur := (if a then [f.va.toNat] else []) ++ (if bu then [f.vb.toNat] else []) ++ (if c then [f.vc.toNat] else [])
    uw := if d then [f.vd.toNat] else []
    enc := (Ty.ofCode f.ty.toNat).isSome && fnOk && (!a || uOk f.va) && (!bu || uOk f.vb) && (!c || uOk f.vc) &&
      (!d || uOk f.vd) && !(c && f.bsel.toNat == 2)
    ty := ok f.type
    len := if f.bsel.toNat = 3 then 16 else 8 }

/-- A uniform register as an operand of a type. -/
def Group.uval (g : Group) (t : Ty) (r : Nat) : Nat := (g.u r).toNat % 2 ^ t.w

/-- Source B of a uniform instruction: BSEL 0 and 1 read u[VB] (R159). -/
def FmtR.usrcB (f : FmtR) (g : Group) (t : Ty) : Nat :=
  match f.bsel.toNat with
  | 0 | 1 => g.uval t f.vb.toNat
  | 2 => immB t f.imm14
  | _ => f.imm.toNat % 2 ^ t.w

/-- A uniform instruction that writes u[VD]; a 32-bit result leaves bits [63:32] at 0 (R157, R159). -/
def uResult (a b c : Bool) (ok : Ty → Bool) (op : Ty → Nat → Nat → Nat → Nat) (site : Site) (h : Hdr) (f : FmtR)
    (s : State) : Host.Outcome State Fault Refusal :=
  issue site h (uNeeds a b c true ok true f) (fun x s =>
    let t := f.type
    once x s (s.onGroup x fun g =>
      g.setU f.vd.toNat (bits 64 (op t (x.g.uval t f.va.toNat) (f.usrcB x.g t) (x.g.uval t f.vc.toNat) % 2 ^ t.w)))) s

/-- UIADD (R159). -/
def execUiadd (site : Site) (h : Hdr) (f : FmtR) (s : State) : Host.Outcome State Fault Refusal :=
  uResult true true false Ty.isInt (fun _ a b _ => a + b) site h f s

/-- UIMUL (R159). -/
def execUimul (site : Site) (h : Hdr) (f : FmtR) (s : State) : Host.Outcome State Fault Refusal :=
  uResult true true false Ty.isInt (fun _ a b _ => a * b) site h f s

/-- UBLOG (R159). -/
def execUblog (site : Site) (h : Hdr) (f : FmtR) (s : State) : Host.Outcome State Fault Refusal :=
  uResult true true (decide (f.fn.toNat / 16 % 4 ≠ 0)) Ty.isInt (fun t a b c => blog t.w f.fn a b c) site h f s

/-- USHL (R159). -/
def execUshl (site : Site) (h : Hdr) (f : FmtR) (s : State) : Host.Outcome State Fault Refusal :=
  uResult true true false Ty.isInt (fun t a b _ => a <<< (b % t.w)) site h f s

/-- USHR (R159). -/
def execUshr (site : Site) (h : Hdr) (f : FmtR) (s : State) : Host.Outcome State Fault Refusal :=
  uResult true true false Ty.isInt (fun t a b _ => shiftRight t a b) site h f s

/-- UMOV (R159). -/
def execUmov (site : Site) (h : Hdr) (f : FmtR) (s : State) : Host.Outcome State Fault Refusal :=
  uResult false true false (fun _ => true) (fun _ _ b _ => b) site h f s

/-- UICMP: p[PX] = a cmp b, written in every acting thread (R157, R159). -/
def execUicmp (site : Site) (h : Hdr) (f : FmtR) (s : State) : Host.Outcome State Fault Refusal :=
  issue site h (uNeeds true true false false Ty.isInt (cmpOk f.fn) f) (fun x s =>
    let t := f.type
    s.onGroup x (writePreds f.px.toNat x.act fun _ => icmp t f.fn (x.g.uval t f.va.toNat) (f.usrcB x.g t))) s

end Sys2Proof.Machine
end

