-- ==== Sys2Proof/Machine/Maps.lean ====
section
/-! DEFINITION. The MAP descriptors, which mainland performs (R389, R580, file 11; R233, file 07; R267, R271, R272, R278, R283,
R287, file 08; R348, file 10). -/

namespace Sys2Proof.Machine

/-! ### Fields (Table 11.18) -/

/-- MP_OP. -/
def Desc.mapOp (d : Desc) : Nat := fld d.bits 32 4
/-- MP_RWX. -/
def Desc.mapRwx (d : Desc) : Nat := fld d.bits 36 3
/-- MP_CODE. -/
def Desc.mapCode (d : Desc) : Bool := bitAt d.bits 39
/-- MP_GUARD. -/
def Desc.mapGuard (d : Desc) : Bool := bitAt d.bits 40
/-- MP_PEER. -/
def Desc.mapPeer (d : Desc) : Nat := fld d.bits 41 12
/-- MP_VA. -/
def Desc.mapVa (d : Desc) : Nat := fld d.bits 64 64
/-- MP_SIZE. -/
def Desc.mapSize (d : Desc) : Nat := fld d.bits 128 64
/-- MP_TARGET. -/
def Desc.mapTarget (d : Desc) : Nat := fld d.bits 192 64
/-- Pages of the range. -/
def Desc.mapPages (d : Desc) : Nat := d.mapSize / 65536
/-- Virtual address of a page of the range. -/
def Desc.mapPage (d : Desc) (k : Nat) : Nat := d.mapVa + k * 65536

/-- A MAP's own fields end it: a reserved operation, alignment, an empty range, a range beyond the 52-bit addresses (log 41), or 2 MiB multiples
missing where R389 asks for them. -/
def Desc.mapBad (d : Desc) : Bool :=
  let op := d.mapOp
  decide (8 ≤ op) || d.mapVa % 65536 ≠ 0 || d.mapSize = 0 || d.mapSize % 65536 ≠ 0 || decide (2 ^ 52 < d.mapVa + d.mapSize) ||
  ((op = 6 || ((op = 0 || op = 1) && d.mapCode)) && (d.mapVa % 2 ^ 21 ≠ 0 || d.mapSize % 2 ^ 21 ≠ 0)) ||
  ((op = 2 || op = 3) && d.mapTarget % 65536 ≠ 0) || (op = 3 && decide (2 ^ 44 ≤ d.mapTarget))

/-! ### Page table entries (Table 08.11) -/

/-- A leaf. -/
def mkLeaf (rwx : Nat) (code guard : Bool) (tgt addr : Nat) : BitVec 64 :=
  bits 64 (3 + rwx * 4 + bit01 code * 32 + bit01 guard * 64 + tgt * 128 + addr / 65536 * 65536)

/-- The entry of an address space for a 64 KiB page. -/
def State.pte (s : State) (asid va : Nat) : BitVec 64 := look 0 s.ptes (pteKey asid 3 va)

/-- The page is mapped in the address space. -/
def State.isMapped (s : State) (asid va : Nat) : Bool := bitAt (s.pte asid va) 0

/-- The table that an entry of a level points to, made where there is none. -/
def State.withTable (s : State) (asid va lv : Nat) : State :=
  if bitAt (look 0 s.ptes (pteKey asid lv va)) 0 then s
  else
    let (x, s) := s.draw
    { s with ptes := put 0 s.ptes (pteKey asid lv va) (tableEntry x.toNat) }

/-- A leaf set, with the tables above it. -/
def State.setPte (s : State) (asid va : Nat) (e : BitVec 64) : State :=
  let s := ((s.withTable asid va 0).withTable asid va 1).withTable asid va 2
  { s with ptes := put 0 s.ptes (pteKey asid 3 va) e }

/-- A page of the range is mapped already. -/
def State.mapTaken (s : State) (asid : Nat) (d : Desc) : Bool := (List.range d.mapPages).any fun k => s.isMapped asid (d.mapPage k)

/-! ### Contents and classes of pages -/

/-- A page written with zeros at its home slices, its ledger entries purged (R233, R272, R389). -/
def State.zeroPage (s : State) (pg : Nat) : State :=
  each (List.range 256) (fun i s =>
    let line := pg * 256 + i
    (((s.dirForWrite line).unledger line).arrayWrite { m := .fw } line (atOffset 0 (List.replicate 256 0))).produce line none)
    (s.purge (pg * 65536) 65536)

/-- A page given to an address space: zeroed first unless that space held it last (R389). -/
def State.handPage (s : State) (asid pg : Nat) : State :=
  let s := if look 0 s.owners pg = asid + 1 then s else s.zeroPage pg
  { s with owners := put 0 s.owners pg (asid + 1) }

/-- No page of a frame is mapped in any address space. -/
def State.frameFree (s : State) (fr : Nat) : Bool := s.mapped.all fun pg => decide (pg / 32 ≠ fr)

/-- A frame put into a class: a change zeroes it, and every leaf that maps into it carries the class (R271, R272). -/
def State.frameClass (s : State) (fr : Nat) (code : Bool) : State :=
  if s.light.contains fr = code then s
  else
    let s := { s with light := if code then s.light ++ [fr] else s.light.filter (· != fr) }
    let s := each ((List.range 32).map (fr * 32 + ·)) (fun pg s => if (s.home (pg * 65536)).isSome then s.zeroPage pg else s) s
    { s with ptes := s.ptes.map fun (p : Nat × BitVec 64) =>
        if leafDev p.2 && leafPage p.2 / 32 == fr then
          (p.1, bits 64 (p.2.toNat - bit01 (bitAt p.2 5) * 32 + bit01 code * 32)) else p }

/-! ### Ends -/

/-- A MAP about to act: its opcode and MP_OP, then its field checks (R391). -/
def mapDesc (op q i : Nat) (k : Desc → State → State) (s : State) : Host.Outcome State Fault Refusal :=
  need ((s.live? q i).elim true (fun d => d.opc != 9 || d.mapOp == op || decide (8 ≤ d.mapOp))) .notPending <|
  onDesc 9 q i (fun _ => true) (fun d s => if d.mapBad then s.descFail q i stBadDesc else k d s) s

/-- A MAP that makes mappings: none of its range may be mapped yet (R389). -/
def mapFresh (op q i : Nat) (k : Desc → State → State) (s : State) : Host.Outcome State Fault Refusal :=
  mapDesc op q i (fun d s => if s.mapTaken (s.queue q).set.asid d then s.descFail q i stBadDesc else k d s) s

/-- Each page of the range handled in turn, then DONE. -/
def State.mapEach (s : State) (q i : Nat) (d : Desc) (g : Nat → State → State) : State :=
  (each (List.range d.mapPages) g s).descEnd q i stDone 0

/-! ### POOL (R580) -/

/-- First page numbers of the pools of a partition, in the order in which an allocation takes from them. -/
def State.poolsOf (s : State) (p : Nat) : List Nat :=
  match s.regionsOf p with
  | [] => []
  | r :: rs => if (s.region r).dieWide then [r / 2 * 2 ^ 26 + 2 ^ 24] else (r :: rs).map fun r => r * 2 ^ 25 + 2 ^ 23

/-- The pages that an allocation of class `code` takes: the lowest free offsets whose frame has the class or no mapped page. -/
def State.poolPick (s : State) (p n : Nat) (code : Bool) : List Nat :=
  let ok (pg : Nat) : Bool := s.pageFree pg && (s.light.contains (pg / 32) == code || s.frameFree (pg / 32))
  (s.poolsOf p).foldl (fun l base => l ++ lowestPages ok (2 ^ 22) base (n - l.length)) []

/-- No pool capacity is given out: the retirement of a pool page waits for space, or a map-out does (R278, R283). -/
def State.poolHeld (s : State) (p : Nat) : Bool :=
  (s.regionsOf p).any fun r =>
    (s.region r).retireWait.any (fun pg => dpaKind (pg * 65536) == 1 || dpaKind (pg * 65536) == 2) || (s.region r).memState == 3

/-- MAP_POOL: pages of the partition's pools allocated, zeroed and mapped (R389, R580). -/
def execMapPool (q i : Nat) (s : State) : Host.Outcome State Fault Refusal :=
  mapFresh 0 q i (fun d s =>
    let x := (s.queue q).set
    let pgs := s.poolPick x.part d.mapPages d.mapCode
    if s.poolHeld x.part || pgs.length < d.mapPages then s.descFail q i stCapacity
    else s.mapEach q i d fun k s =>
      let pg := pgs.getD k 0
      let s := (s.frameClass (pg / 32) d.mapCode).zeroPage pg
      { s.setPte x.asid (d.mapPage k) (mkLeaf d.mapRwx d.mapCode d.mapGuard 0 (pg * 65536)) with
        owners := put 0 s.owners pg (x.asid + 1) }) s

/-! ### PRIVATE, HOST, REMOTE -/

/-- Bytes of a private slice of a region. -/
def State.sliceBytes (s : State) (r : Nat) : Nat := s.privSteps r * 2 ^ 27

/-- One page of a private slice mapped; a retired page stays unmapped, and a frame that is mapped already keeps its class
(log 41). -/
def State.mapPrivatePage (s : State) (asid : Nat) (d : Desc) (va pg : Nat) : State :=
  if (s.home (pg * 65536)).isNone then s
  else
    let s := if s.frameFree (pg / 32) then s.frameClass (pg / 32) d.mapCode else s
    (s.handPage asid pg).setPte asid va (mkLeaf d.mapRwx (s.light.contains (pg / 32)) false 0 (pg * 65536))

/-- The private slice of a logical core mapped, where it lies whole in the range. -/
def State.mapPrivate (s : State) (asid : Nat) (d : Desc) (l : Nat) : State :=
  let n := s.sliceBytes (regionOfCluster (s.clusterOf l))
  let va := d.mapVa + l * n
  match (s.lcore l).channel with
  | none => s
  | some ch =>
    if n = 0 || d.mapVa + d.mapSize < va + n then s
    else each (List.range (n / 65536)) (fun k s =>
      s.mapPrivatePage asid d (va + k * 65536) (regionOfChan ch * 2 ^ 25 + ch % 72 * 2 ^ 14 + k)) s

/-- MAP_PRIVATE: the private slices of the partition's logical cores (R267, R389). -/
def execMapPrivate (q i : Nat) (s : State) : Host.Outcome State Fault Refusal :=
  mapFresh 1 q i (fun d s =>
    let x := (s.queue q).set
    if (s.regionsOf x.part).any fun r => s.sliceBytes r != 0 && d.mapVa % s.sliceBytes r != 0 then s.descFail q i stBadDesc
    else (each (s.coresOfPart x.part) (fun l s => s.mapPrivate x.asid d l) s).descEnd q i stDone 0) s

/-- MAP_HOST: host memory at MP_TARGET (R389). -/
def execMapHost (q i : Nat) (s : State) : Host.Outcome State Fault Refusal :=
  mapFresh 2 q i (fun d s => s.mapEach q i d fun k s =>
    s.setPte (s.queue q).set.asid (d.mapPage k) (mkLeaf d.mapRwx false false 2 ((d.mapTarget + k * 65536) % 2 ^ 64))) s

/-- MAP_REMOTE: memory of package MP_PEER at device physical MP_TARGET; PTE_X is ignored (R389). -/
def execMapRemote (q i : Nat) (s : State) : Host.Outcome State Fault Refusal :=
  mapFresh 3 q i (fun d s => s.mapEach q i d fun k s =>
    s.setPte (s.queue q).set.asid (d.mapPage k)
      (mkLeaf (d.mapRwx % 4) false false 1 (d.mapPeer * 2 ^ 44 + (d.mapTarget + k * 65536) % 2 ^ 44))) s

/-! ### EXPORT, UNMAP, CLASS, PROTECT -/

/-- The device physical page behind a page of the range, where it is device memory of this package. -/
def State.devPage (s : State) (asid va : Nat) : Option Nat :=
  match s.translate asid va .none with | some (.dev a) => some (a / 65536) | _ => none

/-- MAP_EXPORT: the device memory of the range exported to MP_PEER; the result is the address of its first byte (R348, R389). -/
def execMapExport (q i : Nat) (s : State) : Host.Outcome State Fault Refusal :=
  mapDesc 4 q i (fun d s =>
    let asid := (s.queue q).set.asid
    let pgs := (List.range d.mapPages).map fun k => s.devPage asid (d.mapPage k)
    if pgs.any Option.isNone then s.descFail q i stAccess
    else
      let es : List Export := (List.range d.mapPages).map fun k =>
        { peer := d.mapPeer, base := ((pgs.getD k none).getD 0) * 65536, len := 65536, asid := asid, va := d.mapPage k }
      (s.onFab fun f => { f with exports := f.exports ++ es.filter fun e => !f.exports.contains e }).descEnd q i stDone
        (bits 64 (((pgs.headD none).getD 0) * 65536))) s

/-- The pins of the lines of a page end (R227). -/
def State.unpinPage (s : State) (pg : Nat) : State := each ((List.range 256).map (pg * 256 + ·)) (fun line s => s.endPin line) s

/-- MAP_UNMAP: the mappings and the exports of the range end, with the pins of its lines; pool pages return to their pool, where a
retirement that waits for a page takes one (R227, R278, R389). -/
def execMapUnmap (q i : Nat) (s : State) : Host.Outcome State Fault Refusal :=
  mapDesc 5 q i (fun d s =>
    let asid := (s.queue q).set.asid
    let s := s.onFab fun f => { f with exports := f.exports.filter fun e =>
      !(e.asid == asid && decide (d.mapVa ≤ e.va) && decide (e.va < d.mapVa + d.mapSize)) }
    let old := (List.range d.mapPages).filterMap fun k =>
      let e := s.pte asid (d.mapPage k)
      if leafDev e then some (leafPage e) else none
    let s := each (List.range d.mapPages) (fun k s => { s with ptes := put 0 s.ptes (pteKey asid 3 (d.mapPage k)) 0 }) s
    let s := old.foldl State.unpinPage s
    (s.retireWaiting).descEnd q i stDone 0) s

/-- The frames of device memory that a range maps. -/
def State.framesOf (s : State) (asid : Nat) (d : Desc) : List Nat :=
  ((List.range d.mapPages).filterMap fun k => (s.devPage asid (d.mapPage k)).map (· / 32)).eraseDups

/-- The guarded pages of some frames shadowed before they change; none where the shadow pool is full (R357). -/
def State.shadowFrames (s : State) (frs : List Nat) : Option State :=
  (frs.flatMap fun fr => (List.range 32).map (fr * 32 + ·)).foldl (fun o pg => o.bind fun s => s.shadowTouch (pg * 256)) (some s)

/-- A frame in the top of a pool that a map-out is emptying: its pages go to the lowest frame of the pool below the limit that holds
no mapped page (R281, R290). None where there is no such frame. -/
def State.clearTop (s : State) (fr : Nat) : Option State :=
  let r := dpaReg (fr * 2 ^ 21)
  match (s.region r).mapOut with
  | none => some s
  | some ch =>
    let top := (s.beyond ch).filter fun pg => pg / 32 == fr
    if top.isEmpty then some s
    else
      let base := fr / 2 ^ 18 * 2 ^ 18
      let ok (f : Nat) : Bool := decide (f % 2 ^ 18 * 32 + 32 ≤ s.poolLimit ch) && s.frameFree f &&
        (List.range 32).all fun k => s.pageFree (f * 32 + k)
      match lowestPages ok (2 ^ 17) base 1 with
      | f :: _ =>
        let s := { s with light := if s.light.contains fr && !s.light.contains f then s.light ++ [f]
                                   else if s.light.contains fr then s.light else s.light.filter (· != f) }
        some (((List.range 32).map fun k => (fr * 32 + k, f * 32 + k)).foldl (fun s m =>
          if s.mapped.contains m.1 then s.movePage m.1 m.2 else s) s)
      | [] => none

/-- The same for the frames of a list. -/
def State.clearTops (s : State) (frs : List Nat) : Option State :=
  frs.foldl (fun o fr => o.bind fun s => s.clearTop fr) (some s)

/-- MAP_CLASS: MP_CODE set on every frame of the range; a frame that changes class reads as zeros. An address of the range that
is no device memory of this package fails translation; a frame in the top of a pool being emptied is migrated first (R272, R290,
R389, R391; log 41). -/
def execMapClass (q i : Nat) (s : State) : Host.Outcome State Fault Refusal :=
  mapDesc 6 q i (fun d s =>
    let asid := (s.queue q).set.asid
    let frs := (s.framesOf asid d).filter fun fr => s.light.contains fr != d.mapCode
    if (List.range d.mapPages).any fun k => (s.devPage asid (d.mapPage k)).isNone then s.descFail q i stAccess
    else match s.shadowFrames frs with
    | none => s.descFail q i stCapacity
    | some s =>
      match s.clearTops frs with
      | none => s.descFail q i stCapacity
      | some s => (each (s.framesOf asid d) (fun fr s => s.frameClass fr d.mapCode) s).descEnd q i stDone 0) s

/-- A leaf with MP_RWX and MP_GUARD. -/
def reprotect (e : BitVec 64) (rwx : Nat) (guard : Bool) : BitVec 64 :=
  bits 64 (e.toNat - fld e 2 3 * 4 - bit01 (bitAt e 6) * 64 + rwx * 4 + bit01 guard * 64)

/-- MAP_PROTECT: MP_RWX and MP_GUARD set in every leaf of the range (R389). -/
def execMapProtect (q i : Nat) (s : State) : Host.Outcome State Fault Refusal :=
  mapDesc 7 q i (fun d s => s.mapEach q i d fun k s =>
    let asid := (s.queue q).set.asid
    if s.isMapped asid (d.mapPage k) then s.setPte asid (d.mapPage k) (reprotect (s.pte asid (d.mapPage k)) d.mapRwx d.mapGuard)
    else s) s

end Sys2Proof.Machine
end

