-- ==== Sys2Proof/Machine/Regs.lean ====
section
/-! DEFINITION. BAR0: the registers with their blocks, the read shadow and the write staging word, the alias window and posted
writes (R261, file 08; R313, R318, file 09; R333 to R335, file 10; R379, R394, file 11; R472, R478, R482, file 13; R504, R508,
file 14; R536 to R558, file 15). -/

namespace Sys2Proof.Machine

/-! ### Reading (Tables 15.2 to 15.11) -/

/-- A bit at a place. -/
def bitTo (b : Bool) (n : Nat) : Nat := if b then 2 ^ n else 0

/-- The P1 function of multipath mode, which has the ID block and its alias only (R544, R545). -/
def State.p1Only (s : State) (port : Nat) : Bool := s.multipath && port == 1

/-- Slots of a cluster that is in service. -/
def State.clusterIn (s : State) (k : Nat) : Bool := !(s.cluster (clusterOfSlot k)).retired

/-- ID_CORES. -/
def State.idCores (s : State) : Nat :=
  let spares := ((List.range 576).filter fun k => (s.slot k).status == .spare && s.clusterIn k).length
  let fenced := ((List.range 576).filter fun k =>
    (s.slot k).status == .fenced || ((s.slot k).status != .fusedOff && !s.clusterIn k)).length
  let clusters := ((List.range 64).filter fun c => !(s.cluster c).retired).length
  s.logicalCores.length + s.gradeCores * 2 ^ 10 + spares * 2 ^ 20 + fenced * 2 ^ 30 + clusters * 2 ^ 40

/-- ID_CAP. -/
def idCap : Nat := 0x3F + 17 * 2 ^ 8 + 31 * 2 ^ 16 + 64 * 2 ^ 24 + 2048 * 2 ^ 32 + 256 * 2 ^ 44 + 8 * 2 ^ 53 + 16 * 2 ^ 57

/-- A mask of the low bits that a function's queues fill. -/
def Func.queMask (f : Func) : W64 := bits 64 (2 ^ f.fnQueues - 1)

/-- A register of the ID and capability block (Tables 15.3 and 15.4). -/
def State.readId (s : State) (port fn off : Nat) : Nat :=
  let b := s.boot
  let f := s.func (s.fnOf port fn)
  match off with
  | 0x0000 => 0x1F4D + 0xD100 * 2 ^ 16 + b.fuses.stepping * 2 ^ 32 + b.fuses.grade * 2 ^ 36 + 2 ^ 40
  | 0x0008 => b.state.code + bitTo (b.state == .ready) 4 + b.hostMode.toNat * 2 ^ 5 + bitTo (s.port 0).cxl 7 +
      bitTo (s.port 1).cxl 8 + bitTo (s.port 0).up 9 + bitTo (s.port 1).up 10 + bitTo b.fullStart 11 + bitTo b.debug 12 +
      b.flash.startNum % 2 ^ 32 * 2 ^ 32
  | 0x0010 => port + fn * 2 + f.fnQueues * 2 ^ 6 + bitTo f.fnUrgent 13 + f.fnParts.toNat * 2 ^ 14 + f.fnVecCount * 2 ^ 22
  | 0x0018 => s.idCores
  | 0x0020 => s.denseMib + s.goodChannels * 2 ^ 24 + s.retiredCount * 2 ^ 40
  | 0x0028 => b.imgVersion.toNat
  | 0x0030 => s.ticks.toNat
  | 0x0038 => (look 0 f.errSize port).toNat + (look 0 f.errStage port).toNat * 2 ^ 16 + (look 0 f.errBusy port).toNat * 2 ^ 32
  | 0x0040 => idCap
  | 0x0200 => (f.queHold &&& f.queMask).toNat
  | _ => if 0x100 ≤ off && off < 0x140 then (look 0 f.scratch ((off - 0x100) / 8)).toNat else 0

/-- A register of function record `f` of a port (Tables 15.5 and 15.6). -/
def State.readRecord (s : State) (port f off : Nat) : Nat :=
  let k := fnKey port f
  let x := s.func k
  match off with
  | 0x00 => x.fnQueues + bitTo x.fnUrgent 7 + x.fnParts.toNat * 2 ^ 8 + x.fnVecBase * 2 ^ 16 + x.fnVecCount * 2 ^ 27 + bitTo x.fnReject 39
  | 0x28 => x.bar2Asid + bitTo x.bar2En 8 + x.bar2Base
  | 0x30 => ((List.range 64).filter fun q => (s.queue (k * 64 + q)).active).length
  | _ => if 0x08 ≤ off && off < 0x28 then fld x.fnAsids ((off - 0x08) * 8) 64 else 0

/-- A register of the event-log set-up (Table 15.7). -/
def Port.readEvl (p : Port) (off : Nat) : Nat :=
  match off with
  | 0x800 => p.evlBase.toNat
  | 0x808 => p.evlCfg.toNat
  | 0x810 => p.evlHead.toNat
  | 0x818 => p.evlWritten.toNat + p.evlBuf.length * 2 ^ 32 + bitTo p.evlErr 48
  | _ => 0

/-- A register of the function set-up block: every record and the event log in the physical function, its own record in a
virtual one (R548, R550). -/
def State.readSetup (s : State) (port fn off : Nat) : Nat :=
  if fn ≠ 0 then if off < 64 then s.readRecord port fn off else 0
  else if off < 0x800 then s.readRecord port (off / 64) (off % 64)
  else (s.port port).readEvl off

/-- A register of a queue (Tables 11.6 and 11.10). -/
def Queue.readReg (x : Queue) (off : Nat) : Nat :=
  match off with
  | 0x00 => x.rRing.toNat
  | 0x08 => x.rCq.toNat
  | 0x10 => x.rDb.toNat
  | 0x18 => x.rCfg.toNat
  | 0x20 => x.rTiming.toNat
  | 0x28 => x.rCtrl.toNat
  | 0x30 => bitTo x.active 0 + bitTo x.busy 1 + bitTo x.guarded 2 + bitTo x.halted 3 + x.err.toNat * 2 ^ 8 + x.dropped.toNat * 2 ^ 16
  | 0x38 => x.fetch.toNat + x.retire.toNat * 2 ^ 32
  | 0x40 => x.energy.toNat
  | 0x48 => x.done.toNat
  | _ => 0

/-- Bytes of the lines of retired pool pages that are homed on a region's channels in service: lines beyond the pool's present end
have no home (R261). -/
def State.poolRetiredBytes (s : State) (r : Nat) : Nat :=
  let pages := ((s.region (r / 2 * 2)).poolRetired ++ (s.region (r / 2 * 2 + 1)).poolRetired).eraseDups
  (pages.map fun pg => ((List.range 256).filter fun i =>
    (s.homeRaw ((pg * 256 + i) * 256)).any fun h => regionOfChan h.chan == r).length * 256).sum

/-- PART_POOL_MIB (R261). -/
def State.poolMib (s : State) (r : Nat) : Nat :=
  ((s.goodRegion r).length * sharedLines (s.region r).privSteps * 256 - s.poolRetiredBytes r) / 2 ^ 20

/-- PART_MEM_CFG (Table 08.5). -/
def State.memCfg (s : State) (r : Nat) : Nat :=
  let x := s.region r
  x.memReq.toNat + bitTo x.memReject 4 + x.privSteps * 2 ^ 8 + bitTo x.dieWide 11 + (s.goodRegion r).length * 2 ^ 16 +
  s.poolMib r * 2 ^ 32 + x.memState * 2 ^ 62

/-- FAB_ID (Table 10.5). -/
def Fab.idReg (f : Fab) : Nat :=
  f.idReq.toNat + bitTo f.enReq 12 + f.idApplied.toNat * 2 ^ 16 + bitTo f.joined 28 + bitTo f.adopted 29 + bitTo f.reject 30

/-- PWR_CAP (Table 13.5). -/
def Power.capReg (p : Power) : Nat :=
  p.capStored + p.fmaxStored * 2 ^ 16 + bitTo p.capReject 24 + p.cap * 2 ^ 32 + p.fmax * 2 ^ 48

/-- PWR_STATUS (Table 13.6). -/
def State.pwrStatus (s : State) : Nat :=
  s.power.nowW % 2 ^ 11 + s.limBits * 2 ^ 16 + s.fallbacks * 2 ^ 24 + s.boot.fuses.trips * 2 ^ 32 + s.boot.fuses.lastTrip * 2 ^ 48

/-- A register of the package block as a port reads it (Tables 15.9 to 15.11). -/
def State.readPackage (s : State) (port off : Nat) : Nat :=
  let n (base : Nat) : Nat := (off - base) / 8
  if off < 0x40 then
    let x := s.part (n 0)
    if s.partInForce (n 0) then x.grantReq.toNat + bitTo x.grantReject 2 + x.grant.toNat * 2 ^ 8 else 0
  else if off < 0x80 then
    let x := s.part (n 0x40)
    if s.partInForce (n 0x40) then bitTo x.rstActive 1 + bitTo x.rstWait 2 + x.rstCount.toNat * 2 ^ 16 else 0
  else if off < 0xA0 then
    let x := s.die (n 0x80)
    bitTo x.dieReq 0 + bitTo x.dieApplied 8 + bitTo x.dieReject 16
  else if 0x100 ≤ off && off < 0x140 then s.memCfg (n 0x100)
  else if 0x200 ≤ off && off < 0x238 then
    let x := s.qosOf (n 0x200)
    x.req.toNat + x.applied.toNat * 2 ^ 8 + bitTo s.net.qosReject 16
  else if 0x480 ≤ off && off < 0x500 then s.fab.strState (n 0x480)
  else match off with
    | 0x240 => s.net.dtCfg.toNat
    | 0x400 => s.fab.idReg
    | 0x600 => s.power.capReg
    | 0x608 => s.power.idleStored.toNat
    | 0x610 => s.pwrStatus
    | 0x618 => s.power.energy.toNat
    | 0xFF8 => bitTo (s.port port).pkbBusy 0 + bitTo (s.port (1 - port)).pkbBusy 1
    | _ => 0

/-- TEL_CFG as last stored. -/
def TelCfg.reg (t : TelCfg) : Nat :=
  t.slotsM1 + t.slotSize * 2 ^ 16 + t.period * 2 ^ 21 + t.mask.toNat * 2 ^ 31 + bitTo t.en 41 + bitTo t.pasidEn 42 + t.pasid * 2 ^ 43

/-- A register of the telemetry set-up (Table 15.8). -/
def Func.readTel (f : Func) (off : Nat) : Nat :=
  match off with
  | 0x00 => f.telBase.toNat
  | 0x08 => f.telStored.reg
  | 0x10 => bitTo f.telBusy 0 + bitTo f.telReject 1 + bitTo f.telErr 2 + f.telRecords.toNat * 2 ^ 32
  | _ => 0

/-- A BAR0 register as function `fn` of a port reads it; before READY every block but the first reads 0 (R508, R544). -/
def State.regRead (s : State) (port fn off : Nat) : W64 :=
  bits 64 <|
  if off < 0x10000 then s.readId port fn off
  else if s.boot.state ≠ .ready || s.p1Only port then 0
  else if off < 0x11000 then s.readSetup port fn (off - 0x10000)
  else if 0x100000 ≤ off && off < 0x104000 then
    let q := fnKey port fn * 64 + (off - 0x100000) / 256
    if s.queueThere q then (s.queue q).readReg (off % 256) else 0
  else if 0x200000 ≤ off && off < 0x204000 then
    let v := (off - 0x200000) / 8
    let f := s.func (fnKey port fn)
    if v < f.fnVecCount then (look {} f.irq v).mod.toNat else 0
  else if 0x300000 ≤ off && off < 0x301000 then if fn = 0 then s.readPackage port (off - 0x300000) else 0
  else if 0x400000 ≤ off && off < 0x401000 then (s.func (fnKey port fn)).readTel (off - 0x400000)
  else 0

/-! ### Writing -/

/-- A write of the ID and capability block: only ID_SCRATCHn and ID_QUE_HOLD have RW fields (Table 15.4, R547). -/
def State.writeId (s : State) (port fn off : Nat) (v : W64) : State :=
  if off = 0x200 then s.modFunc (s.fnOf port fn) fun f => { f with queHold := v &&& f.queMask }
  else if 0x100 ≤ off && off < 0x140 then
    s.modFunc (s.fnOf port fn) fun f => { f with scratch := put 0 f.scratch ((off - 0x100) / 8) v }
  else s

/-- A queue of the function is enabled, or a write of QUE_EN = 1 to one is being applied (R549). -/
def State.fnBusy (s : State) (k : Nat) : Bool :=
  (List.range 64).any fun q =>
    let x := s.queue (k * 64 + q)
    x.enabled || (x.busy && bitAt x.rCtrl 0)

/-- The fields of FN_QCFG taken from a written value. -/
def Func.withQcfg (f : Func) (v : W64) : Func :=
  { f with fnQueues := fld v 0 7, fnUrgent := bitAt v 7, fnParts := bits 8 (fld v 8 8), fnVecBase := fld v 16 11,
           fnVecCount := fld v 27 12, fnReject := false }

/-- The vector ranges of a port's records overlap, or leave the port's 2,048 vectors (R549). -/
def vectorsClash (fs : List Func) : Bool :=
  let r := fs.filter fun f => f.fnVecCount != 0
  decide (2048 < (r.map Func.fnVecCount).sum) || r.any (fun f => decide (2048 < f.fnVecBase + f.fnVecCount)) ||
  !decide (r.Pairwise fun a b => a.fnVecBase + a.fnVecCount ≤ b.fnVecBase ∨ b.fnVecBase + b.fnVecCount ≤ a.fnVecBase)

/-- A write of FN_QCFG of a record, taken or refused (R549). -/
def State.writeQcfg (s : State) (port f : Nat) (v : W64) : State :=
  let k := fnKey port f
  let x := (s.func k).withQcfg v
  let all := (List.range 32).map fun i => if i = f then x else s.func (fnKey port i)
  if s.fnBusy k || 64 < x.fnQueues || 2048 < x.fnVecCount || vectorsClash all then s.modFunc k fun f => { f with fnReject := true }
  else s.putFunc k x

/-- A write of FN_ASIDn of a record, taken or refused (R549). -/
def State.writeAsid (s : State) (port f n : Nat) (v : W64) : State :=
  let k := fnKey port f
  if s.fnBusy k then s.modFunc k fun f => { f with fnReject := true }
  else s.modFunc k fun f =>
    { f with fnReject := false,
             fnAsids := (f.fnAsids &&& ~~~ BitVec.ofNat 256 ((2 ^ 64 - 1) * 2 ^ (64 * n))) ||| BitVec.ofNat 256 (v.toNat * 2 ^ (64 * n)) }

/-- A write of a function record (R548, R549). -/
def State.writeRecord (s : State) (port f off : Nat) (v : W64) : State :=
  if off = 0 then s.writeQcfg port f v
  else if off < 0x28 then s.writeAsid port f (off / 8 - 1) v
  else if off = 0x28 then s.modFunc (fnKey port f) fun f =>
    { f with bar2Asid := fld v 0 8, bar2En := bitAt v 8, bar2Base := fld v 30 22 * 2 ^ 30 }
  else s

/-- The event log enabled: its set-up is read, the count of entries and the error are cleared, and buffered records are written
(R550). -/
def State.evlEnable (s : State) (n : Nat) : State :=
  let s := s.modPort n fun p =>
    { p with evlSetBase := p.evlBase.toNat, evlSetLog2 := fld p.evlCfg 0 5, evlSetVec := fld p.evlCfg 16 11,
             evlSetHead := p.evlHead.toNat, evlSpace := pasidSpace (bitAt p.evlCfg 27) (fld p.evlCfg 28 20), evlWritten := 0,
             evlRead := 0, evlErr := false }
  s.evlFlush n (s.port n).evlBuf.length

/-- A write of EVL_CFG; an EVL_LOG2 outside 4 to 16 leaves EVL_EN at 0 (R550). -/
def State.writeEvlCfg (s : State) (n : Nat) (v : W64) : State :=
  let v := v &&& 0x8000FFFFFFFF001F#64
  let was := bitAt (s.port n).evlCfg 63
  let l := fld v 0 5
  if bitAt v 63 && !was then
    if l < 4 || 16 < l then s.modPort n fun p => { p with evlCfg := v &&& 0x7FFFFFFFFFFFFFFF#64 }
    else (s.modPort n fun p => { p with evlCfg := v }).evlEnable n
  else s.modPort n fun p => { p with evlCfg := v }

/-- A write of the function set-up block of a physical function. -/
def State.writeSetup (s : State) (port off : Nat) (v : W64) : State :=
  if off < 0x800 then s.writeRecord port (off / 64) (off % 64) v
  else match off with
    | 0x800 => s.modPort port fun p => { p with evlBase := v &&& ~~~ 0xFFF#64 }
    | 0x808 => s.writeEvlCfg port v
    | 0x810 => s.modPort port fun p => { p with evlHead := v &&& ~~~ 7#64 }
    | _ => s

/-- A write of a queue register (Tables 11.6 to 11.9). -/
def State.writeQueue (s : State) (port q off : Nat) (v : W64) : State :=
  if !s.queueThere q then s
  else match off with
    | 0x00 => s.modQueue q fun x => { x with rRing := v &&& ~~~ 0xFFF#64 }
    | 0x08 => s.modQueue q fun x => { x with rCq := v &&& ~~~ 0xFFF#64 }
    | 0x10 => s.modQueue q fun x => { x with rDb := v &&& ~~~ 0x3F#64 }
    | 0x18 => s.modQueue q fun x => { x with rCfg := v &&& 0x7FFFFFFFFFFF1F1F#64 }
    | 0x20 => s.modQueue q fun x => { x with rTiming := v &&& 0xFFFF0FFF03FFFFFF#64 }
    | 0x28 => s.writeQueCtrl port q v
    | _ => s

/-- A write of IRQ_MODv, for a vector below FN_VEC_COUNT (Table 11.22a). -/
def State.writeIrqMod (s : State) (k vec : Nat) (v : W64) : State :=
  s.modFunc k fun f =>
    if vec < f.fnVecCount then { f with irq := put {} f.irq vec { look {} f.irq vec with mod := v &&& 0xFFFFFF#64 } } else f

/-- A request of PART_GRANTp: a reserved value, or P1 where P1 holds nothing, is refused at once; any other goes to skerry
(R554). -/
def State.writeGrant (s : State) (port p : Nat) (v : W64) : State :=
  if !s.partInForce p then s
  else s.pkbPost port fun s => s.modPart p fun x =>
    let req := bits 2 (fld v 0 2)
    let bad := req == 3 || (req == 2 && s.boot.hostMode != 0)
    { x with grantReq := req, grantReject := bad, grantAsk := if bad then none else some port }

/-- The port holds every partition of a die. -/
def State.holdsDie (s : State) (port d : Nat) : Bool :=
  s.holds port (2 * d) && (s.dieMerged d || s.holds port (2 * d + 1))

/-- A request of PART_DIEd (R553, R555). -/
def State.writeDie (s : State) (port d : Nat) (v : W64) : State :=
  if !s.holdsDie port d then s
  else s.pkbPost port fun s => s.modDie d fun x => { x with dieReq := bitAt v 0, dieReject := false }

/-- A request of PART_MEM_CFG (R261, R553). -/
def State.writeMemCfg (s : State) (port r : Nat) (v : W64) : State :=
  if !s.holds port (s.partOfRegion r) then s
  else s.pkbPost port fun s => s.modRegion r fun x => { x with memReq := bits 4 (fld v 0 4), memReject := false }

/-- A request of LINK_QOS_CLASSc (R313). -/
def State.writeQos (s : State) (port c : Nat) (v : W64) : State :=
  s.pkbPost port fun s =>
    (s.putQos c { s.qosOf c with req := bits 8 (fld v 0 8) }).onNet fun n => { n with qosPending := true, qosReject := false }

/-- A write of LINK_DT_CFG: with LINK_DT_EN the table is written to the buffer (R318). -/
def State.writeDtCfg (s : State) (port : Nat) (v : W64) : State :=
  s.pkbPost port fun s => s.onNet fun n =>
    { n with dtCfg := v &&& ~~~ 0xFFE#64, dtPort := port, dtDue := n.dtDue || bitAt v 0 }

/-- A write of FAB_ID (R334, R335). -/
def State.writeFabId (s : State) (port : Nat) (v : W64) : State :=
  s.pkbPost port fun s => if bitAt v 12 then s.fabJoin (fld v 0 12) else s.fabLeave (fld v 0 12)

/-- A write of PWR_CAP (R478). -/
def State.writeCap (s : State) (port : Nat) (v : W64) : State :=
  s.pkbPost port fun s => s.capRequest (fld v 0 11) (fld v 16 5) (if port = 0 then .p0 else .p1)

/-- A write of PWR_IDLE_CFG (R472). -/
def State.writeIdle (s : State) (port : Nat) (v : W64) : State :=
  s.pkbPost port fun s => s.onPower fun p => { p with idleStored := bits 32 (fld v 0 32) }

/-- A write of the package block through the physical function of a port (R552, R553). -/
def State.writePackage (s : State) (port off : Nat) (v : W64) : State :=
  let n (base : Nat) : Nat := (off - base) / 8
  if off < 0x40 then s.writeGrant port (n 0) v
  else if off < 0x80 then s.writePartReset port (n 0x40) v
  else if off < 0xA0 then s.writeDie port (n 0x80) v
  else if 0x100 ≤ off && off < 0x140 then s.writeMemCfg port (n 0x100) v
  else if 0x200 ≤ off && off < 0x238 then s.writeQos port (n 0x200) v
  else match off with
    | 0x240 => s.writeDtCfg port v
    | 0x400 => s.writeFabId port v
    | 0x600 => s.writeCap port v
    | 0x608 => s.writeIdle port v
    | _ => s

/-- The fields of TEL_CFG in a written value. -/
def TelCfg.ofWord (v : W64) : TelCfg :=
  { slotsM1 := fld v 0 16, slotSize := fld v 16 5, period := fld v 21 10, mask := bits 10 (fld v 31 10), en := bitAt v 41,
    pasidEn := bitAt v 42, pasid := fld v 43 20 }

/-- A write of the telemetry set-up; TEL_CFG is a posted write (R541, R551). -/
def State.writeTel (s : State) (port fn off : Nat) (v : W64) : State :=
  match off with
  | 0x00 => s.modFunc (fnKey port fn) fun f => { f with telBase := v &&& ~~~ 0xFFF#64 }
  | 0x08 =>
    if (s.func (fnKey port fn)).telBusy then s.errBusy port fn
    else s.modFunc (fnKey port fn) fun f => { f with telStored := .ofWord v, telBusy := true, telPending := true, telReject := false }
  | _ => s

/-- A BAR0 register written with both words by function `fn` of a port. Before READY only the ID block takes writes; what is
not an RW or WP field is ignored (R508, R540, R544). -/
def State.regWrite (s : State) (port fn off : Nat) (v : W64) : State :=
  if off < 0x10000 then s.writeId port fn off v
  else if s.boot.state ≠ .ready || s.p1Only port then s
  else if off < 0x11000 then if fn = 0 then s.writeSetup port (off - 0x10000) v else s
  else if 0x100000 ≤ off && off < 0x104000 then s.writeQueue port (fnKey port fn * 64 + (off - 0x100000) / 256) (off % 256) v
  else if 0x200000 ≤ off && off < 0x204000 then s.writeIrqMod (fnKey port fn) ((off - 0x200000) / 8) v
  else if 0x300000 ≤ off && off < 0x301000 then if fn = 0 then s.writePackage port (off - 0x300000) v else s
  else if 0x400000 ≤ off && off < 0x401000 then s.writeTel port fn (off - 0x400000) v
  else s

/-! ### Accesses (R536 to R543) -/

/-- The alias window of the ID block (R542). -/
def inAlias (off : Nat) : Bool := decide (0x1000000 ≤ off) && decide (off < 0x1200000)

/-- The register and the bit that an alias word stands for. -/
def aliasOf (off : Nat) : Nat × Nat :=
  let n := (off - 0x1000000) / 4
  (n / 64 * 8, n % 64)

/-- A BAR0 access that a port takes. -/
def bar0 (port fn : Nat) (k : State → State) (s : State) : Host.Outcome State Fault Refusal :=
  unit port 2 <| unit fn 32 <|
  need (s.skerryRuns && s.boot.tripLayer == 0 && s.fnThere port fn && (s.port port).up) .unavailable <|
  .next (k s)

/-- An access rejected for its size or alignment is counted (R536). -/
def State.errSize (s : State) (port fn : Nat) : State :=
  s.modFunc (s.fnOf port fn) fun f => { f with errSize := put 0 f.errSize port (look 0 f.errSize port + 1) }

/-- The shadow of a function for a port. -/
def State.setShadow (s : State) (port fn : Nat) (x : Shadow) : State :=
  s.modFunc (s.fnOf port fn) fun f => { f with shadow := put {} f.shadow port x }

/-- The staging word of a function for a port. -/
def State.setStaging (s : State) (port fn : Nat) (x : Shadow) : State :=
  s.modFunc (s.fnOf port fn) fun f => { f with staging := put {} f.staging port x }

/-- The low word of a register. -/
def lowWord (v : W64) : BitVec 32 := bits 32 (fld v 0 32)
/-- The high word of a register. -/
def highWord (v : W64) : BitVec 32 := bits 32 (fld v 32 32)
/-- A register of two words. -/
def bothWords (hi lo : BitVec 32) : W64 := bits 64 (lo.toNat + hi.toNat * 2 ^ 32)

/-- An alias word as read: the bit in bit 0 (R542). -/
def State.aliasRead (s : State) (port fn off : Nat) : State :=
  let (r, b) := aliasOf off
  s.portAnswer port (some (bytesOf 4 (bit01 (bitAt (s.regRead port fn r) b))))

/-- A 4-byte read of a low word, which fills and tags the shadow (R538). -/
def State.lowRead (s : State) (port fn off : Nat) : State :=
  let v := s.regRead port fn off
  (s.setShadow port fn { tag := some off, word := highWord v }).portAnswer port (some (bytesOf 4 (lowWord v).toNat))

/-- A 4-byte read of a high word: the shadow of the tagged register, else the live word (R538). -/
def State.highRead (s : State) (port fn off : Nat) : State :=
  let r := off - 4
  let x := look {} (s.func (s.fnOf port fn)).shadow port
  if x.tag = some r then (s.setShadow port fn { x with tag := none }).portAnswer port (some (bytesOf 4 x.word.toNat))
  else s.portAnswer port (some (bytesOf 4 (highWord (s.regRead port fn r)).toNat))

/-- A 4-byte write of a low word: the staging word takes it; one that held another register's is discarded and counted (R539). -/
def State.lowWrite (s : State) (port fn off : Nat) (v : BitVec 32) : State :=
  let x := look {} (s.func (s.fnOf port fn)).staging port
  let s := if x.tag.isSome && x.tag ≠ some off then
      s.modFunc (s.fnOf port fn) fun f => { f with errStage := put 0 f.errStage port (look 0 f.errStage port + 1) }
    else s
  s.setStaging port fn { tag := some off, word := v }

/-- A 4-byte write of a high word: with the staged low word of the same register, else with its current low word (R539). -/
def State.highWrite (s : State) (port fn off : Nat) (v : BitVec 32) : State :=
  let r := off - 4
  let x := look {} (s.func (s.fnOf port fn)).staging port
  if x.tag = some r then (s.setStaging port fn { x with tag := none }).regWrite port fn r (bothWords v x.word)
  else s.regWrite port fn r (bothWords v (lowWord (s.regRead port fn r)))

/-- A register with one bit changed (R543). -/
def withBit (v : W64) (b : Nat) (on : Bool) : W64 :=
  if on then v ||| BitVec.ofNat 64 (2 ^ b) else v &&& ~~~ BitVec.ofNat 64 (2 ^ b)

/-- An alias word written: one bit of its register, indivisibly (R542, R543). -/
def State.aliasWrite (s : State) (port fn off : Nat) (on : Bool) : State :=
  let (r, b) := aliasOf off
  s.regWrite port fn r (withBit (s.regRead port fn r) b on)

/-- An access that BAR0 rejects: not an aligned one of 4 or 8 bytes, or in the alias window not of 4 (R536, R542). -/
def rejected (off n : Nat) : Bool := !((n == 4 && off % 4 == 0) || (n == 8 && off % 8 == 0 && !inAlias off))

/-- A read of `n` bytes at an offset: rejected, or of an alias word, of a whole register, of a low word or of a high word (R536,
R538, R542). -/
def State.barRead (s : State) (port fn off n : Nat) : State :=
  if rejected off n then (s.errSize port fn).portAnswer port none
  else if inAlias off then s.aliasRead port fn off
  else if n = 8 then s.portAnswer port (some (bytesOf 8 (s.regRead port fn off).toNat))
  else if off % 8 = 0 then s.lowRead port fn off
  else s.highRead port fn off

/-- A write of `n` bytes at an offset: 8 write the register, 4 one of its words or an alias word; a rejected one is discarded and
counted (R536, R539, R542). -/
def State.barWrite (s : State) (port fn off n : Nat) (v : BitVec 64) : State :=
  if rejected off n then s.errSize port fn
  else if inAlias off then s.aliasWrite port fn off (bitAt v 0)
  else if n = 8 then s.regWrite port fn off v
  else if off % 8 = 0 then s.lowWrite port fn off (lowWord v)
  else s.highWrite port fn off (lowWord v)

/-- LOW_WORD_READ of the register at `off`: with `wide` both words at one instant, else the low word. In the alias window a
4-byte read gives a bit, and a wide one is rejected (R536, R538, R542). -/
def execLowWordRead (port fn off : Nat) (wide : Bool) (s : State) : Host.Outcome State Fault Refusal :=
  bar0 port fn (fun s => s.barRead port fn off (if wide then 8 else 4)) s

/-- HIGH_WORD_READ at `off`, a register's offset plus 4. -/
def execHighWordRead (port fn off : Nat) (s : State) : Host.Outcome State Fault Refusal :=
  bar0 port fn (fun s => s.barRead port fn off 4) s

/-- LOW_WORD_WRITE. -/
def execLowWordWrite (port fn off : Nat) (v : BitVec 32) (s : State) : Host.Outcome State Fault Refusal :=
  bar0 port fn (fun s => s.barWrite port fn off 4 (bits 64 v.toNat)) s

/-- HIGH_WORD_WRITE. -/
def execHighWordWrite (port fn off : Nat) (v : BitVec 32) (s : State) : Host.Outcome State Fault Refusal :=
  bar0 port fn (fun s => s.barWrite port fn off 4 (bits 64 v.toNat)) s

/-- ALIAS_WRITE of `n` bytes: in the alias window any access but an aligned one of 4 bytes is rejected (R542, R543). -/
def execAliasWrite (port fn off n : Nat) (v : BitVec 32) (s : State) : Host.Outcome State Fault Refusal :=
  bar0 port fn (fun s => s.barWrite port fn off n (bits 64 v.toNat)) s

/-- REJECTED_READ: a rejected read completes with Completer Abort (R536). -/
def execRejectedRead (port fn off n : Nat) (s : State) : Host.Outcome State Fault Refusal :=
  bar0 port fn (fun s => s.barRead port fn off n) s

/-- REGISTER_WRITE of `n` bytes (R536, R539). -/
def execRegisterWrite (port fn off n : Nat) (v : BitVec 64) (s : State) : Host.Outcome State Fault Refusal :=
  bar0 port fn (fun s => s.barWrite port fn off n v) s

/-! ### Registers with a row of their own, written with 8 bytes -/

/-- ID_QUE_HOLD_WRITE (R547). -/
def execIdQueHoldWrite (port fn : Nat) (v : BitVec 64) (s : State) : Host.Outcome State Fault Refusal :=
  bar0 port fn (fun s => s.regWrite port fn 0x200 v) s

/-- FN_RECORD_WRITE: the physical function of a port writes FN_QCFG (`n` 0) or FN_ASID0 to FN_ASID3 (`n` 1 to 4) of record `f`
(R549). -/
def execFnRecordWrite (port f n : Nat) (v : BitVec 64) (s : State) : Host.Outcome State Fault Refusal :=
  unit f 32 <| unit n 5 <| bar0 port 0 (fun s => s.regWrite port 0 (0x10000 + 64 * f + 8 * n) v) s

/-- FN_BAR2_WRITE: the physical function of a port sets the BAR2 window of function `f` (R549). -/
def execFnBar2Write (port f : Nat) (v : BitVec 64) (s : State) : Host.Outcome State Fault Refusal :=
  unit f 32 <| bar0 port 0 (fun s => s.regWrite port 0 (0x10028 + 64 * f) v) s

/-- EVENT_LOG_ENABLE: EVL_CFG written with EVL_EN = 1 (R550). -/
def execEventLogEnable (port : Nat) (v : BitVec 64) (s : State) : Host.Outcome State Fault Refusal :=
  bar0 port 0 (fun s => s.regWrite port 0 0x10808 (withBit v 63 true)) s

/-- TELEMETRY_CONFIG_WRITE: TEL_CFG of a function (R551). -/
def execTelemetryConfigWrite (port fn : Nat) (v : BitVec 64) (s : State) : Host.Outcome State Fault Refusal :=
  bar0 port fn (fun s => s.regWrite port fn 0x400008 v) s

/-- PART_GRANT_WRITE (R554). -/
def execPartGrantWrite (port p : Nat) (v : BitVec 64) (s : State) : Host.Outcome State Fault Refusal :=
  unit p 8 <| bar0 port 0 (fun s => s.regWrite port 0 (0x300000 + 8 * p) v) s

/-- PART_DIE_WRITE (R555). -/
def execPartDieWrite (port d : Nat) (v : BitVec 64) (s : State) : Host.Outcome State Fault Refusal :=
  unit d 4 <| bar0 port 0 (fun s => s.regWrite port 0 (0x300080 + 8 * d) v) s

/-- PART_MEM_CFG_WRITE of region `r` (R261). -/
def execPartMemCfgWrite (port r : Nat) (v : BitVec 64) (s : State) : Host.Outcome State Fault Refusal :=
  unit r 8 <| bar0 port 0 (fun s => s.regWrite port 0 (0x300100 + 8 * r) v) s

/-- LINK_QOS_CLASS_WRITE (R313). -/
def execLinkQosClassWrite (port c : Nat) (v : BitVec 64) (s : State) : Host.Outcome State Fault Refusal :=
  unit c 7 <| bar0 port 0 (fun s => s.regWrite port 0 (0x300200 + 8 * c) v) s

/-- LINK_DT_CFG_WRITE (R318). -/
def execLinkDtCfgWrite (port : Nat) (v : BitVec 64) (s : State) : Host.Outcome State Fault Refusal :=
  bar0 port 0 (fun s => s.regWrite port 0 0x300240 v) s

/-- FAB_JOIN: FAB_ID written with FAB_EN = 1 (R335). -/
def execFabJoin (port id : Nat) (s : State) : Host.Outcome State Fault Refusal :=
  unit id 4096 <| bar0 port 0 (fun s => s.regWrite port 0 0x300400 (bits 64 (id + 4096))) s

/-- FAB_LEAVE: FAB_ID written with FAB_EN = 0 (R335). -/
def execFabLeave (port id : Nat) (s : State) : Host.Outcome State Fault Refusal :=
  unit id 4096 <| bar0 port 0 (fun s => s.regWrite port 0 0x300400 (bits 64 id)) s

/-- PWR_CAP_WRITE (R478). -/
def execPwrCapWrite (port : Nat) (v : BitVec 64) (s : State) : Host.Outcome State Fault Refusal :=
  bar0 port 0 (fun s => s.regWrite port 0 0x300600 v) s

/-- PWR_IDLE_CFG_WRITE (R472). -/
def execPwrIdleCfgWrite (port : Nat) (v : BitVec 64) (s : State) : Host.Outcome State Fault Refusal :=
  bar0 port 0 (fun s => s.regWrite port 0 0x300608 v) s

/-- POSTED_WRITE_APPLIED: BUSY of a block clears: `block` 0 the package block of port `k`, 1 the telemetry set-up of function `k`,
2 queue `k`, where after a disable the queue has ended (R541, Table 15.1). -/
def execPostedWriteApplied (block k : Nat) (s : State) : Host.Outcome State Fault Refusal :=
  match block with
  | 0 => unit k 2 <| need (s.port k).pkbBusy .notPending <| .next (s.modPort k fun p => { p with pkbBusy := false })
  | 1 => unit k 64 <| need (s.func k).telBusy .notPending <| .next (s.modFunc k fun f => { f with telBusy := false })
  | 2 => unit k queueCount <| need ((s.queue k).busy && !(s.queue k).disabling) .notPending <|
      .next (s.modQueue k fun x => { x with busy := false })
  | _ => .fault .noSuchUnit

end Sys2Proof.Machine
end

