-- ==== Sys2Proof/Machine/Dispatch.lean ====
section
/-! DEFINITION. One arm for each command. -/

namespace Sys2Proof.Machine

/-- The effect of a command on everything but the queue of waiting commands. -/
def exec (i : Instr) (s : State) : Host.Outcome State Fault Refusal :=
  match i with
  | .iadd site h f => Sys2Proof.Machine.execIadd site h f s
  | .isub site h f => Sys2Proof.Machine.execIsub site h f s
  | .imul site h f => Sys2Proof.Machine.execImul site h f s
  | .imulh site h f => Sys2Proof.Machine.execImulh site h f s
  | .imad site h f => Sys2Proof.Machine.execImad site h f s
  | .imin site h f => Sys2Proof.Machine.execImin site h f s
  | .imax site h f => Sys2Proof.Machine.execImax site h f s
  | .iabs site h f => Sys2Proof.Machine.execIabs site h f s
  | .blog site h f => Sys2Proof.Machine.execBlog site h f s
  | .shl site h f => Sys2Proof.Machine.execShl site h f s
  | .shr site h f => Sys2Proof.Machine.execShr site h f s
  | .bfe site h f => Sys2Proof.Machine.execBfe site h f s
  | .bfi site h f => Sys2Proof.Machine.execBfi site h f s
  | .popc site h f => Sys2Proof.Machine.execPopc site h f s
  | .clz site h f => Sys2Proof.Machine.execClz site h f s
  | .brev site h f => Sys2Proof.Machine.execBrev site h f s
  | .icmp site h f => Sys2Proof.Machine.execIcmp site h f s
  | .sel site h f => Sys2Proof.Machine.execSel site h f s
  | .mov site h f => Sys2Proof.Machine.execMov site h f s
  | .plog site h f => Sys2Proof.Machine.execPlog site h f s
  | .bytesel site h f => Sys2Proof.Machine.execBytesel site h f s
  | .fadd site h f => Sys2Proof.Machine.execFadd site h f s
  | .fsub site h f => Sys2Proof.Machine.execFsub site h f s
  | .fmul site h f => Sys2Proof.Machine.execFmul site h f s
  | .ffma site h f => Sys2Proof.Machine.execFfma site h f s
  | .fmin site h f => Sys2Proof.Machine.execFmin site h f s
  | .fmax site h f => Sys2Proof.Machine.execFmax site h f s
  | .fcmp site h f => Sys2Proof.Machine.execFcmp site h f s
  | .fsqrt site h f => Sys2Proof.Machine.execFsqrt site h f s
  | .rcp site h f => Sys2Proof.Machine.execRcp site h f s
  | .rsq site h f => Sys2Proof.Machine.execRsq site h f s
  | .ex2 site h f => Sys2Proof.Machine.execEx2 site h f s
  | .lg2 site h f => Sys2Proof.Machine.execLg2 site h f s
  | .sin site h f => Sys2Proof.Machine.execSin site h f s
  | .cos site h f => Sys2Proof.Machine.execCos site h f s
  | .tanh site h f => Sys2Proof.Machine.execTanh site h f s
  | .cvt site h f => Sys2Proof.Machine.execCvt site h f s
  | .cvtFw site h f => Sys2Proof.Machine.execCvtFw site h f s
  | .cvtWf site h f => Sys2Proof.Machine.execCvtWf site h f s
  | .xlane site h f => Sys2Proof.Machine.execXlane site h f s
  | .vote site h f => Sys2Proof.Machine.execVote site h f s
  | .lred site h f => Sys2Proof.Machine.execLred site h f s
  | .readlane site h f => Sys2Proof.Machine.execReadlane site h f s
  | .uiadd site h f => Sys2Proof.Machine.execUiadd site h f s
  | .uimul site h f => Sys2Proof.Machine.execUimul site h f s
  | .ublog site h f => Sys2Proof.Machine.execUblog site h f s
  | .ushl site h f => Sys2Proof.Machine.execUshl site h f s
  | .ushr site h f => Sys2Proof.Machine.execUshr site h f s
  | .umov site h f => Sys2Proof.Machine.execUmov site h f s
  | .uicmp site h f => Sys2Proof.Machine.execUicmp site h f s
  | .ld site h f => Sys2Proof.Machine.execLd site h f s
  | .st site h f => Sys2Proof.Machine.execSt site h f s
  | .uld site h f => Sys2Proof.Machine.execUld site h f s
  | .atom site h f => Sys2Proof.Machine.execAtom site h f s
  | .red site h f => Sys2Proof.Machine.execRed site h f s
  | .pref site h f => Sys2Proof.Machine.execPref site h f s
  | .unpin site h f => Sys2Proof.Machine.execUnpin site h f s
  | .invL1 site h f => Sys2Proof.Machine.execInvL1 site h f s
  | .fence site h f => Sys2Proof.Machine.execFence site h f s
  | .bra site h f => Sys2Proof.Machine.execBra site h f s
  | .brx site h f => Sys2Proof.Machine.execBrx site h f s
  | .call site h f => Sys2Proof.Machine.execCall site h f s
  | .ret site h f => Sys2Proof.Machine.execRet site h f s
  | .exit site h f => Sys2Proof.Machine.execExit site h f s
  | .nop site h f => Sys2Proof.Machine.execNop site h f s
  | .trap site h f => Sys2Proof.Machine.execTrap site h f s
  | .barG site h f => Sys2Proof.Machine.execBarG site h f s
  | .barCSync site h f => Sys2Proof.Machine.execBarCSync site h f s
  | .barCArrive site h f => Sys2Proof.Machine.execBarCArrive site h f s
  | .barClSync site h f => Sys2Proof.Machine.execBarClSync site h f s
  | .barClArrive site h f => Sys2Proof.Machine.execBarClArrive site h f s
  | .mma site h f => Sys2Proof.Machine.execMma site h f s
  | .tm site h f => Sys2Proof.Machine.execTm site h f s
  | .waitt site h f => Sys2Proof.Machine.execWaitt site h f s
  | .testt site h f => Sys2Proof.Machine.execTestt site h f s
  | .sysr site h f => Sys2Proof.Machine.execSysr site h f s
  | .dataReturn core index => Sys2Proof.Machine.execDataReturn core index s
  | .loadb core arr => Sys2Proof.Machine.execLoadb core arr s
  | .run core arr rows => Sys2Proof.Machine.execRun core arr rows s
  | .loadbRun core arr rows => Sys2Proof.Machine.execLoadbRun core arr rows s
  | .matrixCompletion core arr => Sys2Proof.Machine.execMatrixCompletion core arr s
  | .arrayStopDone core arr => Sys2Proof.Machine.execArrayStopDone core arr s
  | .arrayParityMismatch core arr => Sys2Proof.Machine.execArrayParityMismatch core arr s
  | .taskDispatch p => Sys2Proof.Machine.execTaskDispatch p s
  | .taskEnd core => Sys2Proof.Machine.execTaskEnd core s
  | .watchdogExpiry core => Sys2Proof.Machine.execWatchdogExpiry core s
  | .l1LineExpiry core line => Sys2Proof.Machine.execL1LineExpiry core line s
  | .load core entry rows => Sys2Proof.Machine.execLoad core entry rows s
  | .store core entry rows => Sys2Proof.Machine.execStore core entry rows s
  | .lcopy core entry rows => Sys2Proof.Machine.execLcopy core entry rows s
  | .loadt core entry => Sys2Proof.Machine.execLoadt core entry s
  | .prefetch core entry rows => Sys2Proof.Machine.execPrefetch core entry rows s
  | .lfill core entry rows => Sys2Proof.Machine.execLfill core entry rows s
  | .tmCompletion core entry => Sys2Proof.Machine.execTmCompletion core entry s
  | .loadtBlock core entry => Sys2Proof.Machine.execLoadtBlock core entry s
  | .read cl line hint asid lenient err => Sys2Proof.Machine.execRead cl line hint asid lenient err s
  | .own cl line => Sys2Proof.Machine.execOwn cl line s
  | .sliceRead m line hint asid lenient narrow err => Sys2Proof.Machine.execSliceRead m line hint asid lenient narrow err s
  | .sliceWrite m line hint asid data => Sys2Proof.Machine.execSliceWrite m line hint asid data s
  | .lastuseRead m line asid lenient narrow err => Sys2Proof.Machine.execLastuseRead m line asid lenient narrow err s
  | .eEvictionNotice cl line => Sys2Proof.Machine.execEEvictionNotice cl line s
  | .mWriteBack cl line => Sys2Proof.Machine.execMWriteBack cl line s
  | .invalidation line cl => Sys2Proof.Machine.execInvalidation line cl s
  | .recallLine line cl keep => Sys2Proof.Machine.execRecall line cl keep s
  | .acknowledgement line cl => Sys2Proof.Machine.execAcknowledgement line cl s
  | .grant line cl => Sys2Proof.Machine.execGrant line cl s
  | .ownCompletion line cl => Sys2Proof.Machine.execOwnCompletion line cl s
  | .ledgerPurge lo len => Sys2Proof.Machine.execLedgerPurge lo len s
  | .rowFailed k arr macro_ row sets => Sys2Proof.Machine.execRowFailed k arr macro_ row sets s
  | .refresh ch => Sys2Proof.Machine.execRefresh ch s
  | .scrub ch err => Sys2Proof.Machine.execScrub ch err s
  | .pageRetirement addr new cause => Sys2Proof.Machine.execPageRetirement addr new cause s
  | .channelLost ch => Sys2Proof.Machine.execChannelLost ch s
  | .channelMapOut ch moves pause => Sys2Proof.Machine.execChannelMapOut ch moves pause s
  | .partMemCfgWrite port r v => Sys2Proof.Machine.execPartMemCfgWrite port r v s
  | .linkIdleFlit ep f => Sys2Proof.Machine.execLinkIdleFlit ep f s
  | .linkMessageFlit ep f => Sys2Proof.Machine.execLinkMessageFlit ep f s
  | .linkReplayRequest ep f => Sys2Proof.Machine.execLinkReplayRequest ep f s
  | .linkRetrainMarker ep f => Sys2Proof.Machine.execLinkRetrainMarker ep f s
  | .linkRetrain ep lane => Sys2Proof.Machine.execLinkRetrain ep lane s
  | .linkDown ep cause => Sys2Proof.Machine.execLinkDown ep cause s
  | .spineClockIdle r => Sys2Proof.Machine.execSpineClockIdle r s
  | .linkQosClassWrite port c v => Sys2Proof.Machine.execLinkQosClassWrite port c v s
  | .linkDtCfgWrite port v => Sys2Proof.Machine.execLinkDtCfgWrite port v s
  | .distanceTableRewrite => Sys2Proof.Machine.execDistanceTableRewrite s
  | .targetResettingRetry cl => Sys2Proof.Machine.execTargetResettingRetry cl s
  | .laserSample oe good low => Sys2Proof.Machine.execLaserSample oe good low s
  | .straitIdleFlit sn f fec unc replay => Sys2Proof.Machine.execStraitIdleFlit sn f fec unc replay s
  | .straitBodyFlit sn f fec unc replay => Sys2Proof.Machine.execStraitBodyFlit sn f fec unc replay s
  | .straitReplayRequest sn f => Sys2Proof.Machine.execStraitReplayRequest sn f s
  | .straitRetrainMarker sn f => Sys2Proof.Machine.execStraitRetrainMarker sn f s
  | .laneMapChange sn f => Sys2Proof.Machine.execLaneMapChange sn f s
  | .laneFailure sn lane => Sys2Proof.Machine.execLaneFailure sn lane s
  | .straitRetrain sn => Sys2Proof.Machine.execStraitRetrain sn s
  | .straitDown sn => Sys2Proof.Machine.execStraitDown sn s
  | .straitTrained sn peerId peerPort peerValid => Sys2Proof.Machine.execStraitTrained sn peerId peerPort peerValid s
  | .fabJoin port id => Sys2Proof.Machine.execFabJoin port id s
  | .fabLeave port id => Sys2Proof.Machine.execFabLeave port id s
  | .claimTimeout => Sys2Proof.Machine.execClaimTimeout s
  | .linkstateFlood => Sys2Proof.Machine.execLinkstateFlood s
  | .throughTraffic sn m => Sys2Proof.Machine.execThroughTraffic sn m s
  | .put m => Sys2Proof.Machine.execPut m s
  | .get m => Sys2Proof.Machine.execGet m s
  | .atomic m => Sys2Proof.Machine.execAtomic m s
  | .notify m => Sys2Proof.Machine.execNotify m s
  | .getData m => Sys2Proof.Machine.execGetData m s
  | .atomicRet m => Sys2Proof.Machine.execAtomicRet m s
  | .resp m => Sys2Proof.Machine.execResp m s
  | .coll m => Sys2Proof.Machine.execColl m s
  | .heartbeat m => Sys2Proof.Machine.execHeartbeat m s
  | .linkstate m => Sys2Proof.Machine.execLinkstate m s
  | .sync sn m => Sys2Proof.Machine.execSync sn m s
  | .ack m => Sys2Proof.Machine.execAck m s
  | .nak m => Sys2Proof.Machine.execNak m s
  | .ackTimer peer tc => Sys2Proof.Machine.execAckTimer peer tc s
  | .retransmitTimeout peer tc => Sys2Proof.Machine.execRetransmitTimeout peer tc s
  | .fabricRetry tag => Sys2Proof.Machine.execFabricRetry tag s
  | .noAnswerTimeout tag => Sys2Proof.Machine.execNoAnswerTimeout tag s
  | .releaseMarkExpiry id => Sys2Proof.Machine.execReleaseMarkExpiry id s
  | .collectiveAbort m => Sys2Proof.Machine.execCollectiveAbort m s
  | .arrive m => Sys2Proof.Machine.execArrive m s
  | .point m => Sys2Proof.Machine.execPoint m s
  | .commitP m => Sys2Proof.Machine.execCommitP m s
  | .commitQ m => Sys2Proof.Machine.execCommitQ m s
  | .halt m => Sys2Proof.Machine.execHalt m s
  | .resume m => Sys2Proof.Machine.execResume m s
  | .guardLeave m => Sys2Proof.Machine.execGuardLeave m s
  | .takeover m => Sys2Proof.Machine.execTakeover m s
  | .heartbeatTimer => Sys2Proof.Machine.execHeartbeatTimer s
  | .selfFence => Sys2Proof.Machine.execSelfFence s
  | .lossDeclared id => Sys2Proof.Machine.execLossDeclared id s
  | .noSpareTimeout => Sys2Proof.Machine.execNoSpareTimeout s
  | .pageRebuild lo n => Sys2Proof.Machine.execPageRebuild lo n s
  | .guardSetup q ix => Sys2Proof.Machine.execGuardSetup q ix s
  | .guardPoint q ix => Sys2Proof.Machine.execGuardPoint q ix s
  | .guardAdopt q ix => Sys2Proof.Machine.execGuardAdopt q ix s
  | .portLinkDown n => Sys2Proof.Machine.execPortLinkDown n s
  | .portLinkUp n cxl => Sys2Proof.Machine.execPortLinkUp n cxl s
  | .perst n => Sys2Proof.Machine.execPerst n s
  | .perstRelease n cxl => Sys2Proof.Machine.execPerstRelease n cxl s
  | .functionLevelReset port fn => Sys2Proof.Machine.execFunctionLevelReset port fn s
  | .bar2Read port fn off n => Sys2Proof.Machine.execBar2Read port fn off n s
  | .bar2Write port fn off data => Sys2Proof.Machine.execBar2Write port fn off data s
  | .bar2Atomicop port fn off op n x y => Sys2Proof.Machine.execBar2Atomicop port fn off op n x y s
  | .queueEnable q epoch ws => Sys2Proof.Machine.execQueueEnable q epoch ws s
  | .queueDisable q => Sys2Proof.Machine.execQueueDisable q s
  | .disableTimeout q => Sys2Proof.Machine.execDisableTimeout q s
  | .doorbellInvalidation q ws => Sys2Proof.Machine.execDoorbellInvalidation q ws s
  | .doorbellPoll q ws => Sys2Proof.Machine.execDoorbellPoll q ws s
  | .descriptorFetch q n ws => Sys2Proof.Machine.execDescriptorFetch q n ws s
  | .nopDescriptor q ix => Sys2Proof.Machine.execNopDescriptor q ix s
  | .launch q ix => Sys2Proof.Machine.execLaunch q ix s
  | .copy q ix n => Sys2Proof.Machine.execCopy q ix n s
  | .fill q ix n => Sys2Proof.Machine.execFill q ix n s
  | .check q ix n => Sys2Proof.Machine.execCheck q ix n s
  | .collective q ix => Sys2Proof.Machine.execCollective q ix s
  | .fenceDescriptor q ix => Sys2Proof.Machine.execFenceDescriptor q ix s
  | .signal q ix => Sys2Proof.Machine.execSignal q ix s
  | .wait q ix => Sys2Proof.Machine.execWait q ix s
  | .waitRecheck q ix => Sys2Proof.Machine.execWaitRecheck q ix s
  | .mapPool q ix => Sys2Proof.Machine.execMapPool q ix s
  | .mapPrivate q ix => Sys2Proof.Machine.execMapPrivate q ix s
  | .mapHost q ix => Sys2Proof.Machine.execMapHost q ix s
  | .mapRemote q ix => Sys2Proof.Machine.execMapRemote q ix s
  | .mapExport q ix => Sys2Proof.Machine.execMapExport q ix s
  | .mapUnmap q ix => Sys2Proof.Machine.execMapUnmap q ix s
  | .mapClass q ix => Sys2Proof.Machine.execMapClass q ix s
  | .mapProtect q ix => Sys2Proof.Machine.execMapProtect q ix s
  | .descriptorWatchdog q ix => Sys2Proof.Machine.execDescriptorWatchdog q ix s
  | .descriptorCompletion q ix energy => Sys2Proof.Machine.execDescriptorCompletion q ix energy s
  | .checkSwitch q ix => Sys2Proof.Machine.execCheckSwitch q ix s
  | .irqModTimeout port fn v => Sys2Proof.Machine.execIrqModTimeout port fn v s
  | .msixUnmask port fn v => Sys2Proof.Machine.execMsixUnmask port fn v s
  | .eventLogFullRecheck n ws => Sys2Proof.Machine.execEventLogFullRecheck n ws s
  | .taskRecovery core cause fail bad row => Sys2Proof.Machine.execTaskRecovery core cause fail bad row s
  | .recomputation frame reader => Sys2Proof.Machine.execRecomputation frame reader s
  | .idleArrayTest core pass => Sys2Proof.Machine.execIdleArrayTest core pass s
  | .testStop core pass0 pass1 => Sys2Proof.Machine.execTestStop core pass0 pass1 s
  | .dualExecution orig twin => Sys2Proof.Machine.execDualExecution orig twin s
  | .dualComparison twin cover fmt failO failT odd => Sys2Proof.Machine.execDualComparison twin cover fmt failO failT odd s
  | .wearMove core => Sys2Proof.Machine.execWearMove core s
  | .eyeScan kind u bundle lane height rate => Sys2Proof.Machine.execEyeScan kind u bundle lane height rate s
  | .pwrokAonRise => Sys2Proof.Machine.execPwrokAonRise s
  | .pwrokAonFall => Sys2Proof.Machine.execPwrokAonFall s
  | .pwrokMainRise => Sys2Proof.Machine.execPwrokMainRise s
  | .pwrokMainFall => Sys2Proof.Machine.execPwrokMainFall s
  | .pkgRstNAssert => Sys2Proof.Machine.execPkgRstNAssert s
  | .pkgRstNRelease => Sys2Proof.Machine.execPkgRstNRelease s
  | .ref25Loss => Sys2Proof.Machine.execRef25Loss s
  | .regulatorFailure cl vfbLow carries => Sys2Proof.Machine.execRegulatorFailure cl vfbLow carries s
  | .setPointStep cl => Sys2Proof.Machine.execSetPointStep cl s
  | .clockOffEntry cl => Sys2Proof.Machine.execClockOffEntry cl s
  | .gatedEntry cl => Sys2Proof.Machine.execGatedEntry cl s
  | .offEntry cl => Sys2Proof.Machine.execOffEntry cl s
  | .offExitWave cl => Sys2Proof.Machine.execOffExitWave cl s
  | .gateStep cl => Sys2Proof.Machine.execGateStep cl s
  | .droopTrip cl det => Sys2Proof.Machine.execDroopTrip cl det s
  | .stretchEscalate cl => Sys2Proof.Machine.execStretchEscalate cl s
  | .stretchEnd cl => Sys2Proof.Machine.execStretchEnd cl s
  | .detectorDisable cl det => Sys2Proof.Machine.execDetectorDisable cl det s
  | .vinSag ns => Sys2Proof.Machine.execVinSag ns s
  | .currentLimitWindow vin sum dom => Sys2Proof.Machine.execCurrentLimitWindow vin sum dom s
  | .almanacRound x => Sys2Proof.Machine.execAlmanacRound x s
  | .pwrCapWrite port v => Sys2Proof.Machine.execPwrCapWrite port v s
  | .pwrIdleCfgWrite port v => Sys2Proof.Machine.execPwrIdleCfgWrite port v s
  | .trip cause kind value sensor reading => Sys2Proof.Machine.execTrip cause kind value sensor reading s
  | .tripCooldownCheck reading => Sys2Proof.Machine.execTripCooldownCheck reading s
  | .cycleCountSave => Sys2Proof.Machine.execCycleCountSave s
  | .startUp x => Sys2Proof.Machine.execStartUp x s
  | .partitionReset p port go => Sys2Proof.Machine.execPartitionReset p port go s
  | .settingsSave vals => Sys2Proof.Machine.execSettingsSave vals s
  | .runtimeRepairRound missing bad => Sys2Proof.Machine.execRuntimeRepairRound missing bad s
  | .fwUpdateData off data => Sys2Proof.Machine.execFwUpdateData off data s
  | .verifyComplete => Sys2Proof.Machine.execVerifyComplete s
  | .activateFirmware => Sys2Proof.Machine.execActivateFirmware s
  | .updateStallTimeout => Sys2Proof.Machine.execUpdateStallTimeout s
  | .repair slot es => Sys2Proof.Machine.execRepair slot es s
  | .partGrant slot p => Sys2Proof.Machine.execPartGrant slot p s
  | .quote slot nonce => Sys2Proof.Machine.execQuote slot nonce s
  | .flashLog slot e => Sys2Proof.Machine.execFlashLog slot e s
  | .fullNext slot => Sys2Proof.Machine.execFullNext slot s
  | .restart slot => Sys2Proof.Machine.execRestart slot s
  | .activate slot k => Sys2Proof.Machine.execActivate slot k s
  | .mainlandRestart ok => Sys2Proof.Machine.execMainlandRestart ok s
  | .getIdentityCert port => Sys2Proof.Machine.execGetIdentityCert port s
  | .getAliasCert port => Sys2Proof.Machine.execGetAliasCert port s
  | .getQuote port nonce => Sys2Proof.Machine.execGetQuote port nonce s
  | .debugUnlock token => Sys2Proof.Machine.execDebugUnlock token s
  | .mctpSetEndpointId eid => Sys2Proof.Machine.execMctpSetEndpointId eid s
  | .pldmSensorRead id => Sys2Proof.Machine.execPldmSensorRead id s
  | .pldmEventRead => Sys2Proof.Machine.execPldmEventRead s
  | .flashEventLogRead lo n => Sys2Proof.Machine.execFlashEventLogRead lo n s
  | .powerCapEffecter w => Sys2Proof.Machine.execPowerCapEffecter w s
  | .stepIndexCeilingEffecter k => Sys2Proof.Machine.execStepIndexCeilingEffecter k s
  | .fullStartEffecter on => Sys2Proof.Machine.execFullStartEffecter on s
  | .lowWordRead port fn off wide => Sys2Proof.Machine.execLowWordRead port fn off wide s
  | .highWordRead port fn off => Sys2Proof.Machine.execHighWordRead port fn off s
  | .lowWordWrite port fn off v => Sys2Proof.Machine.execLowWordWrite port fn off v s
  | .highWordWrite port fn off v => Sys2Proof.Machine.execHighWordWrite port fn off v s
  | .aliasWrite port fn off n v => Sys2Proof.Machine.execAliasWrite port fn off n v s
  | .postedWriteApplied block k => Sys2Proof.Machine.execPostedWriteApplied block k s
  | .idQueHoldWrite port fn v => Sys2Proof.Machine.execIdQueHoldWrite port fn v s
  | .fnRecordWrite port f n v => Sys2Proof.Machine.execFnRecordWrite port f n v s
  | .fnBar2Write port f v => Sys2Proof.Machine.execFnBar2Write port f v s
  | .eventLogEnable port v => Sys2Proof.Machine.execEventLogEnable port v s
  | .telemetryConfigWrite port fn v => Sys2Proof.Machine.execTelemetryConfigWrite port fn v s
  | .partGrantWrite port p v => Sys2Proof.Machine.execPartGrantWrite port p v s
  | .partDieWrite port d v => Sys2Proof.Machine.execPartDieWrite port d v s
  | .registerWrite port fn off n v => Sys2Proof.Machine.execRegisterWrite port fn off n v s
  | .completionTimeout q work core => Sys2Proof.Machine.execCompletionTimeout q work core s
  | .hubLoss canWrite => Sys2Proof.Machine.execHubLoss canWrite s
  | .bondOrTsvLaneFailure kind u bundle lane carries => Sys2Proof.Machine.execBondOrTsvLaneFailure kind u bundle lane carries s
  | .ref25Return => Sys2Proof.Machine.execRef25Return s
  | .configurationWrite port w => Sys2Proof.Machine.execConfigurationWrite port w s
  | .atsInvalidation port fn page n => Sys2Proof.Machine.execAtsInvalidation port fn page n s
  | .rejectedRead port fn off n => Sys2Proof.Machine.execRejectedRead port fn off n s

end Sys2Proof.Machine
end

