-- ==== Sys2Proof/Machine/Pins.lean ====
section
/-! DEFINITION. The lands of the package, the signals on them, and the state that every pin group takes: what the board sees of
the state (R560, R562, R563, R569, R570, R574, R575, file 16). Nothing here changes the state. -/

namespace Sys2Proof.Machine

/-! ### Lands (R560, R562, R563) -/

/-- L[1] to L[19]. -/
def landLetters : List Char := ['A', 'B', 'C', 'D', 'E', 'F', 'G', 'H', 'J', 'K', 'L', 'M', 'N', 'P', 'T', 'U', 'V', 'W', 'Y']

/-- L[k + 1]. -/
def landLetter (k : Nat) : Char := landLetters.getD k ' '

/-- The name of the row of an index from 1 to 96 (R560). -/
def landRow (i : Nat) : List Char :=
  if i ≤ 19 then [landLetter (i - 1)] else [landLetter ((i - 20) / 19), landLetter ((i - 20) % 19)]

/-- A land: its row index and its column. -/
structure Land where
  /-- row index, 1 to 96 -/
  row : Nat
  /-- column, 1 to 96 -/
  col : Nat
deriving DecidableEq, Repr

/-- The position exists: 96 rows of 96 columns, each of which holds a land (R559). -/
def Land.there (l : Land) : Bool := decide (1 ≤ l.row) && decide (l.row ≤ 96) && decide (1 ≤ l.col) && decide (l.col ≤ 96)

/-- The four legs of a lane of a host port. -/
inductive LaneLeg where
  /-- Pn_TXP -/
  | txp
  /-- Pn_TXN -/
  | txn
  /-- Pn_RXP -/
  | rxp
  /-- Pn_RXN -/
  | rxn
deriving DecidableEq, Repr

/-- The column of a leg: P1 mirrors P0 (R562). -/
def legCol (port : Nat) (x : LaneLeg) : Nat :=
  let c := match x with | .txp => 2 | .txn => 3 | .rxp => 5 | .rxn => 6
  if port = 0 then c else 97 - c

/-- The land of a leg of lane `n` of a port. -/
def laneLand (port n : Nat) (x : LaneLeg) : Land := { row := 36 + 2 * n, col := legCol port x }

/-- The signals of row CL of a host port. -/
inductive PortSignal where
  /-- Pn_REFCLK_P -/
  | refclkP
  /-- Pn_REFCLK_N -/
  | refclkN
  /-- Pn_PERST_N -/
  | perstN
  /-- Pn_WAKE_N -/
  | wakeN
deriving DecidableEq, Repr

/-- The land of a port's clock, reset or wake signal (R562). -/
def portLand (port : Nat) (x : PortSignal) : Land :=
  { row := 68, col := legCol port (match x with | .refclkP => .txp | .refclkN => .txn | .perstN => .rxp | .wakeN => .rxn) }

/-- Table 16.2: the signals of row EA from column 33 on. -/
def sidebandSignals : List String :=
  ["REF25", "PWROK_AON", "PWROK_MAIN", "PKG_RST_N", "I3C_SCL", "I3C_SDA", "I3C_ADDR[0]", "I3C_ADDR[1]", "I3C_ADDR[2]", "ALERT_N",
   "THERM_N", "FAULT_N", "PMB_SCL", "PMB_SDA", "AVS_CLK", "AVS_MDATA", "AVS_SDATA", "LS_SCL", "LS_SDA", "LS_EN_N[0]", "LS_EN_N[1]",
   "LS_EN_N[2]", "LS_EN_N[3]", "TCK", "TMS", "TDI", "TDO", "TRST_N", "DBG_TX", "DBG_RX", "STRAP_HOSTMODE[0]", "STRAP_HOSTMODE[1]"]

/-- The signal of column `c` of row EA. -/
def sidebandSignal (c : Nat) : Option String := if c < 33 then none else sidebandSignals[c - 33]?

/-- The sense pair of rail `k` in the order of Table 13.1, on row DY; the second land where `n` (R563). -/
def senseLand (k : Nat) (n : Bool) : Land := { row := 95, col := 33 + 2 * k + bit01 n }

/-- The fields of Table 16.1. -/
inductive LandField where
  /-- west host -/
  | westHost
  /-- east host -/
  | eastHost
  /-- sideband -/
  | sideband
  /-- centre -/
  | centre
  /-- the quadrant of a die -/
  | quadrant (die : Nat)
deriving DecidableEq, Repr

/-- The field of a land; the north-west quadrant serves die 0, north-east 1, south-east 2, south-west 3 (R561). -/
def Land.field (l : Land) : LandField :=
  let rowsIn (a b : Nat) := decide (a ≤ l.row) && decide (l.row ≤ b)
  let colsIn (a b : Nat) := decide (a ≤ l.col) && decide (l.col ≤ b)
  if rowsIn 34 70 && colsIn 1 8 then .westHost
  else if rowsIn 34 70 && colsIn 89 96 then .eastHost
  else if rowsIn 93 96 && colsIn 33 64 then .sideband
  else if rowsIn 37 60 && colsIn 37 60 then .centre
  else if l.row ≤ 48 then .quadrant (if l.col ≤ 48 then 0 else 1)
  else .quadrant (if l.col ≤ 48 then 3 else 2)

/-! ### Pin states (R569, R570; Table 16.6) -/

/-- A condition of Table 16.6. State holds no rail voltage (log 19): a package whose VAON or VIO is out of its window reads as
held, which Table 16.6 gives the same outputs. -/
inductive PinCond where
  /-- PWROK_AON is low -/
  | held
  /-- reset or start -/
  | start
  /-- READY -/
  | ready
  /-- the trip state -/
  | trip
deriving DecidableEq, Repr

/-- The condition in force. -/
def State.pinCond (s : State) : PinCond :=
  if !s.boot.pwrokAon then .held
  else if s.boot.tripLayer ≠ 0 then .trip
  else if s.boot.state = .ready then .ready
  else .start

/-- What the D1 does on an output. -/
inductive PinOut where
  /-- high impedance -/
  | float
  /-- an open-drain output driven low -/
  | low
  /-- driven by its controller -/
  | driven
deriving DecidableEq, Repr

/-- An open-drain output. -/
def openDrain (b : Bool) : PinOut := if b then .low else .float

/-- P0-only mode presents no function on P1. -/
def State.portIdle (s : State) (p : Nat) : Bool :=
  match s.pinCond with
  | .held | .trip => true
  | .start => !s.boot.pwrokMain || !s.boot.pkgRstN || !(s.port p).perstN || !s.portThere p
  | .ready => !s.portThere p

/-- Host transmitters of a port. -/
def State.hostTx (s : State) (p : Nat) : PinOut := if s.portIdle p then .float else .driven

/-- The host receiver termination of a port is present. -/
def State.hostTermination (s : State) (p : Nat) : Bool := !s.portIdle p

/-- Pn_WAKE_N (R564). -/
def State.wakeN (s : State) (p : Nat) : PinOut :=
  match s.pinCond with | .ready => openDrain (s.port p).wakeLow | _ => .float

/-- ALERT_N (R533). -/
def State.alertN (s : State) : PinOut :=
  match s.pinCond with | .start | .ready => openDrain s.boot.alertLow | _ => .float

/-- THERM_N (R497). -/
def State.thermN (s : State) : PinOut :=
  match s.pinCond with | .start | .ready => openDrain s.boot.thermLow | _ => .float

/-- FAULT_N (R497). -/
def State.faultN (s : State) : PinOut :=
  match s.pinCond with | .trip => .low | _ => .float

/-- The PMBus, AVSBus and laser-source buses: step 1 of Table 14.6 drives them, and a trip leaves them driven. -/
def State.regulatorBuses (s : State) : PinOut :=
  match s.pinCond with
  | .held => .float
  | .start => if s.boot.state = .reset then .float else .driven
  | .ready | .trip => .driven

/-- The I3C pins are served; while the start-up state is RESET a request finds no server. -/
def State.i3cServed (s : State) : Bool := s.boot.pwrokAon && decide (s.boot.state ≠ .reset)

/-- LS_EN_N of an engine (R326, R341). -/
def State.lsEnN (s : State) (oe : Nat) : PinOut :=
  match s.pinCond with
  | .start | .ready => openDrain (s.boot.pwrokMain && (s.fab.engine oe).lit)
  | _ => .float

/-- The strait transmitters of an engine carry light. -/
def State.straitLit (s : State) (oe : Nat) : Bool := s.lsEnN oe == .low && !(s.fab.engine oe).dark

/-- DBG_TX. -/
def State.dbgTx (s : State) : PinOut := if s.boot.pwrokAon then .driven else .float

/-! ### Fibre and laser attach (R574, R575) -/

/-- The strait whose pair `j` an engine's receptacle holds: transmit in position `j` + 1 of row 1, receive in position `j` + 1
of row 2; pairs 4 to 7 carry no light. -/
def pairStrait (oe j : Nat) : Option Nat := if j < 4 then some (4 * oe + j) else none

/-- The 7-bit address of a laser source: LASER_A, or LASER_B where `b` (R575). -/
def laserAddr (oe : Nat) (b : Bool) : Nat := 0x40 + 2 * oe + bit01 b

end Sys2Proof.Machine
end

