-- ==== Sys2Proof/WellFormed.lean ====
section
/-! DEFINITION. Well-formed commands: the units that a command names exist, and its operands lie in the ranges that the spec
gives them. The encoding checks of an instruction are no part of this: an instruction that fails them issues, and traps (Table
05.14, file 05). -/

namespace Sys2Proof

open Machine

/-- A logical core number below 512 and a group slot below 16 (R9, file 00; R104, file 04). -/
def Machine.Site.ok (x : Site) : Bool := decide (x.core < 512) && decide (x.group < 16)

/-- A second word only where BSEL is 3 (R151, file 05). -/
def Machine.FmtR.ok (f : FmtR) : Bool := f.bsel == 3 || f.imm == 0

/-- A payload of at most 256 bytes, and none where FL_DATA is 0 (R305, file 09). -/
def Machine.Flit.ok (f : Flit) : Bool := if f.data then decide (f.payload.length ≤ 256) else f.payload.isEmpty

/-- A body of at most 224 bytes: 7 units of 32 (R329, file 10). -/
def Machine.SFlit.ok (f : SFlit) : Bool := decide (f.body.length ≤ 224)

/-- At most 256 bytes of data (R343, file 10). -/
def Machine.FMsg.ok (m : FMsg) : Bool := decide (m.data.length ≤ 256)

/-- Four codewords of 64 bytes to a line, and one to four corrected bytes in one; bytes delivered wrong lie in their codeword
(R254, file 08). -/
def Machine.MemErr.ok (e : MemErr) : Bool :=
  match e with
  | .none | .sliceCorrected | .sliceUncorrectable | .tagCorrected | .tagUncorrectable | .dirCorrected | .dirUncorrectable
  | .ledgerCorrected => true
  | .channelCorrected w n => decide (w < 4) && decide (1 ≤ n) && decide (n ≤ 4)
  | .channelUncorrectable w => decide (w < 4)
  | .channelMissed w n d => decide (w < 4) && decide (n ≤ 4) && d.all fun x => x.1 / 64 == w
  | .both a b => ok a && ok b

/-- The function, vector and value of a configuration write lie in their ranges (R369, R375, R376, file 11). -/
def Machine.CfgWrite.ok (w : CfgWrite) : Bool :=
  match w with
  | .numVfs n => decide (n ≤ 31)
  | .bar2 fn l => decide (fn < 32) && decide (30 ≤ l) && decide (l ≤ 40)
  | .power _ => true
  | .pasid fn _ => decide (fn < 32)
  | .msix fn v _ _ _ => decide (fn < 32) && decide (v < 2048)

/-- The unit of a lane: 0 a bond bundle of a cluster, 1 a TSV of a channel, 2 a link endpoint (R441, R443, file 12). -/
def laneOk (kind u bundle : Nat) : Bool :=
  match kind with
  | 0 => decide (u < 64) && decide (bundle < 3)
  | 1 => decide (u < 576)
  | 2 => isEp u
  | _ => false

/-- The command is well formed. -/
def Instr.wf (i : Instr) : Bool :=
  match i with
  | .iadd site _ f => site.ok && f.ok
  | .isub site _ f => site.ok && f.ok
  | .imul site _ f => site.ok && f.ok
  | .imulh site _ f => site.ok && f.ok
  | .imad site _ f => site.ok && f.ok
  | .imin site _ f => site.ok && f.ok
  | .imax site _ f => site.ok && f.ok
  | .iabs site _ f => site.ok && f.ok
  | .blog site _ f => site.ok && f.ok
  | .shl site _ f => site.ok && f.ok
  | .shr site _ f => site.ok && f.ok
  | .bfe site _ f => site.ok && f.ok
  | .bfi site _ f => site.ok && f.ok
  | .popc site _ f => site.ok && f.ok
  | .clz site _ f => site.ok && f.ok
  | .brev site _ f => site.ok && f.ok
  | .icmp site _ f => site.ok && f.ok
  | .sel site _ f => site.ok && f.ok
  | .mov site _ f => site.ok && f.ok
  | .plog site _ f => site.ok && f.ok
  | .bytesel site _ f => site.ok && f.ok
  | .fadd site _ f => site.ok && f.ok
  | .fsub site _ f => site.ok && f.ok
  | .fmul site _ f => site.ok && f.ok
  | .ffma site _ f => site.ok && f.ok
  | .fmin site _ f => site.ok && f.ok
  | .fmax site _ f => site.ok && f.ok
  | .fcmp site _ f => site.ok && f.ok
  | .fsqrt site _ f => site.ok && f.ok
  | .rcp site _ f => site.ok && f.ok
  | .rsq site _ f => site.ok && f.ok
  | .ex2 site _ f => site.ok && f.ok
  | .lg2 site _ f => site.ok && f.ok
  | .sin site _ f => site.ok && f.ok
  | .cos site _ f => site.ok && f.ok
  | .tanh site _ f => site.ok && f.ok
  | .cvt site _ _ => site.ok
  | .cvtFw site _ _ => site.ok
  | .cvtWf site _ _ => site.ok
  | .xlane site _ f => site.ok && f.ok
  | .vote site _ f => site.ok && f.ok
  | .lred site _ f => site.ok && f.ok
  | .readlane site _ f => site.ok && f.ok
  | .uiadd site _ f => site.ok && f.ok
  | .uimul site _ f => site.ok && f.ok
  | .ublog site _ f => site.ok && f.ok
  | .ushl site _ f => site.ok && f.ok
  | .ushr site _ f => site.ok && f.ok
  | .umov site _ f => site.ok && f.ok
  | .uicmp site _ f => site.ok && f.ok
  | .ld site _ _ => site.ok
  | .st site _ _ => site.ok
  | .uld site _ _ => site.ok
  | .atom site _ _ => site.ok
  | .red site _ _ => site.ok
  | .pref site _ _ => site.ok
  | .unpin site _ _ => site.ok
  | .invL1 site _ _ => site.ok
  | .fence site _ _ => site.ok
  | .bra site _ _ => site.ok
  | .brx site _ _ => site.ok
  | .call site _ _ => site.ok
  | .ret site _ _ => site.ok
  | .exit site _ _ => site.ok
  | .nop site _ _ => site.ok
  | .trap site _ _ => site.ok
  | .barG site _ _ => site.ok
  | .barCSync site _ _ => site.ok
  | .barCArrive site _ _ => site.ok
  | .barClSync site _ _ => site.ok
  | .barClArrive site _ _ => site.ok
  | .mma site _ _ => site.ok
  | .tm site _ _ => site.ok
  | .waitt site _ _ => site.ok
  | .testt site _ _ => site.ok
  | .sysr site _ _ => site.ok
  | .dataReturn core _ => decide (core < 512)
  | .loadb core arr => decide (core < 512) && decide (arr < 2)
  | .run core arr _ => decide (core < 512) && decide (arr < 2)
  | .loadbRun core arr _ => decide (core < 512) && decide (arr < 2)
  | .matrixCompletion core arr => decide (core < 512) && decide (arr < 2)
  | .arrayStopDone core arr => decide (core < 512) && decide (arr < 2)
  | .arrayParityMismatch core arr => decide (core < 512) && decide (arr < 2)
  | .taskDispatch p => decide (p < 8)
  | .taskEnd core => decide (core < 512)
  | .watchdogExpiry core => decide (core < 512)
  | .l1LineExpiry core _ => decide (core < 512)
  | .load core _ _ => decide (core < 512)
  | .store core _ _ => decide (core < 512)
  | .lcopy core _ _ => decide (core < 512)
  | .loadt core _ => decide (core < 512)
  | .prefetch core _ _ => decide (core < 512)
  | .lfill core _ _ => decide (core < 512)
  | .tmCompletion core _ => decide (core < 512)
  | .loadtBlock core _ => decide (core < 512)
  | .read cl _ hint asid _ err => decide (cl < 64) && decide (hint < 4) && decide (asid < 256) && err.ok
  | .own cl _ => decide (cl < 64)
  | .sliceRead _ _ hint asid _ _ err => decide (hint < 4) && decide (asid < 256) && err.ok
  | .sliceWrite _ _ hint asid _ => decide (hint < 4) && decide (asid < 256)
  | .lastuseRead _ _ asid _ _ err => decide (asid < 256) && err.ok
  | .eEvictionNotice cl _ => decide (cl < 64)
  | .mWriteBack cl _ => decide (cl < 64)
  | .invalidation _ cl => decide (cl < 64)
  | .recallLine _ cl _ => decide (cl < 64)
  | .acknowledgement _ cl => decide (cl < 64)
  | .grant _ cl => decide (cl < 64)
  | .ownCompletion _ cl => decide (cl < 64)
  | .ledgerPurge _ _ => true
  | .rowFailed k arr _ _ _ => decide (k < 64) && decide (arr < 3)
  | .refresh ch => decide (ch < 576)
  | .scrub ch err => decide (ch < 576) && err.ok
  | .pageRetirement _ _ cause => decide (1 ≤ cause && cause ≤ 3)
  | .channelLost ch => decide (ch < 576)
  | .channelMapOut ch _ pause => decide (ch < 576) && decide (pause ≤ 25000)
  | .partMemCfgWrite port r _ => decide (port < 2) && decide (r < 8)
  | .linkIdleFlit ep f => isEp ep && f.ok
  | .linkMessageFlit ep f => isEp ep && f.ok
  | .linkReplayRequest ep f => isEp ep && f.ok
  | .linkRetrainMarker ep f => isEp ep && f.ok
  | .linkRetrain ep _ => isEp ep
  | .linkDown ep cause => isEp ep && (cause == 1 || cause == 2)
  | .spineClockIdle r => decide (r < 8)
  | .linkQosClassWrite port c _ => decide (port < 2) && decide (c < 7)
  | .linkDtCfgWrite port _ => decide (port < 2)
  | .distanceTableRewrite => true
  | .targetResettingRetry cl => decide (cl < 64)
  | .laserSample oe good low => decide (oe < 4) && decide (good < 4) && decide (low < 4)
  | .straitIdleFlit sn f _ _ _ => decide (sn < 16) && f.ok
  | .straitBodyFlit sn f _ _ _ => decide (sn < 16) && f.ok
  | .straitReplayRequest sn f => decide (sn < 16) && f.ok
  | .straitRetrainMarker sn f => decide (sn < 16) && f.ok
  | .laneMapChange sn f => decide (sn < 16) && f.ok
  | .laneFailure sn lane => decide (sn < 16) && decide (lane < 9)
  | .straitRetrain sn => decide (sn < 16)
  | .straitDown sn => decide (sn < 16)
  | .straitTrained sn peerId peerPort _ => decide (sn < 16) && decide (peerId < 4096) && decide (peerPort < 16)
  | .fabJoin port id => decide (port < 2) && decide (id < 4096)
  | .fabLeave port id => decide (port < 2) && decide (id < 4096)
  | .claimTimeout => true
  | .linkstateFlood => true
  | .throughTraffic sn m => decide (sn < 16) && m.ok
  | .put m => m.ok
  | .get m => m.ok
  | .atomic m => m.ok
  | .notify m => m.ok
  | .getData m => m.ok
  | .atomicRet m => m.ok
  | .resp m => m.ok
  | .coll m => m.ok
  | .heartbeat m => m.ok
  | .linkstate m => m.ok
  | .sync sn m => decide (sn < 16) && m.ok
  | .ack m => m.ok
  | .nak m => m.ok
  | .ackTimer peer tc => decide (peer < 4096) && decide (tc < 4)
  | .retransmitTimeout peer tc => decide (peer < 4096) && decide (tc < 4)
  | .fabricRetry _ => true
  | .noAnswerTimeout _ => true
  | .releaseMarkExpiry id => decide (id < 4096)
  | .collectiveAbort m => m.ok
  | .arrive m => m.ok
  | .point m => m.ok
  | .commitP m => m.ok
  | .commitQ m => m.ok
  | .halt m => m.ok
  | .resume m => m.ok
  | .guardLeave m => m.ok
  | .takeover m => m.ok
  | .heartbeatTimer => true
  | .selfFence => true
  | .lossDeclared id => decide (id < 4096)
  | .noSpareTimeout => true
  | .pageRebuild _ _ => true
  | .guardSetup q ix => decide (q < queueCount) && decide (ix < 2 ^ 32)
  | .guardPoint q ix => decide (q < queueCount) && decide (ix < 2 ^ 32)
  | .guardAdopt q ix => decide (q < queueCount) && decide (ix < 2 ^ 32)
  | .portLinkDown n => decide (n < 2)
  | .portLinkUp n _ => decide (n < 2)
  | .perst n => decide (n < 2)
  | .perstRelease n _ => decide (n < 2)
  | .functionLevelReset port fn => decide (port < 2) && decide (fn < 32)
  | .bar2Read port fn _ _ => decide (port < 2) && decide (fn < 32)
  | .bar2Write port fn _ _ => decide (port < 2) && decide (fn < 32)
  | .bar2Atomicop port fn _ op n _ _ => decide (port < 2) && decide (fn < 32) && decide (op < 3) && (n == 4 || n == 8)
  | .queueEnable q _ _ => decide (q < queueCount)
  | .queueDisable q => decide (q < queueCount)
  | .disableTimeout q => decide (q < queueCount)
  | .doorbellInvalidation q _ => decide (q < queueCount)
  | .doorbellPoll q _ => decide (q < queueCount)
  | .descriptorFetch q n _ => decide (q < queueCount) && decide (1 ≤ n && n ≤ 8)
  | .nopDescriptor q ix => decide (q < queueCount) && decide (ix < 2 ^ 32)
  | .launch q ix => decide (q < queueCount) && decide (ix < 2 ^ 32)
  | .copy q ix _ => decide (q < queueCount) && decide (ix < 2 ^ 32)
  | .fill q ix _ => decide (q < queueCount) && decide (ix < 2 ^ 32)
  | .check q ix _ => decide (q < queueCount) && decide (ix < 2 ^ 32)
  | .collective q ix => decide (q < queueCount) && decide (ix < 2 ^ 32)
  | .fenceDescriptor q ix => decide (q < queueCount) && decide (ix < 2 ^ 32)
  | .signal q ix => decide (q < queueCount) && decide (ix < 2 ^ 32)
  | .wait q ix => decide (q < queueCount) && decide (ix < 2 ^ 32)
  | .waitRecheck q ix => decide (q < queueCount) && decide (ix < 2 ^ 32)
  | .mapPool q ix => decide (q < queueCount) && decide (ix < 2 ^ 32)
  | .mapPrivate q ix => decide (q < queueCount) && decide (ix < 2 ^ 32)
  | .mapHost q ix => decide (q < queueCount) && decide (ix < 2 ^ 32)
  | .mapRemote q ix => decide (q < queueCount) && decide (ix < 2 ^ 32)
  | .mapExport q ix => decide (q < queueCount) && decide (ix < 2 ^ 32)
  | .mapUnmap q ix => decide (q < queueCount) && decide (ix < 2 ^ 32)
  | .mapClass q ix => decide (q < queueCount) && decide (ix < 2 ^ 32)
  | .mapProtect q ix => decide (q < queueCount) && decide (ix < 2 ^ 32)
  | .descriptorWatchdog q ix => decide (q < queueCount) && decide (ix < 2 ^ 32)
  | .descriptorCompletion q ix _ => decide (q < queueCount) && decide (ix < 2 ^ 32)
  | .checkSwitch q ix => decide (q < queueCount) && decide (ix < 2 ^ 32)
  | .irqModTimeout port fn v => decide (port < 2) && decide (fn < 32) && decide (v < 2048)
  | .msixUnmask port fn v => decide (port < 2) && decide (fn < 32) && decide (v < 2048)
  | .eventLogFullRecheck n _ => decide (n < 2)
  | .taskRecovery core cause _ _ _ => decide (core < 512) && decide (1 ≤ cause && cause < 256)
  | .recomputation _ _ => true
  | .idleArrayTest core _ => decide (core < 512)
  | .testStop core _ _ => decide (core < 512)
  | .dualExecution orig twin => decide (orig < 512) && decide (twin < 512)
  | .dualComparison twin _ fmt _ _ odd => decide (twin < 512) && decide (fmt < 32) && decide (odd < 3)
  | .wearMove core => decide (core < 512)
  | .eyeScan kind u bundle lane _ _ => laneOk kind u bundle && decide (lane < 256)
  | .pwrokAonRise => true
  | .pwrokAonFall => true
  | .pwrokMainRise => true
  | .pwrokMainFall => true
  | .pkgRstNAssert => true
  | .pkgRstNRelease => true
  | .ref25Loss => true
  | .regulatorFailure cl _ _ => decide (cl < 64)
  | .setPointStep cl => decide (cl < 64)
  | .clockOffEntry cl => decide (cl < 64)
  | .gatedEntry cl => decide (cl < 64)
  | .offEntry cl => decide (cl < 64)
  | .offExitWave cl => decide (cl < 64)
  | .gateStep cl => decide (cl < 64)
  | .droopTrip cl det => decide (cl < 64) && decide (det < 2)
  | .stretchEscalate cl => decide (cl < 64)
  | .stretchEnd cl => decide (cl < 64)
  | .detectorDisable cl det => decide (cl < 64) && decide (det < 2)
  | .vinSag _ => true
  | .currentLimitWindow _ _ _ => true
  | .almanacRound _ => true
  | .pwrCapWrite port _ => decide (port < 2)
  | .pwrIdleCfgWrite port _ => decide (port < 2)
  | .trip cause kind _ _ _ => decide (1 ≤ cause && cause ≤ 5) && decide (kind < 16)
  | .tripCooldownCheck _ => true
  | .cycleCountSave => true
  | .startUp _ => true
  | .partitionReset p port _ => decide (p < 8) && decide (port < 2)
  | .settingsSave _ => true
  | .runtimeRepairRound _ _ => true
  | .fwUpdateData _ _ => true
  | .verifyComplete => true
  | .activateFirmware => true
  | .updateStallTimeout => true
  | .repair slot _ => decide (slot < 16)
  | .partGrant slot p => decide (slot < 16) && decide (p < 8)
  | .quote slot _ => decide (slot < 16)
  | .flashLog slot _ => decide (slot < 16)
  | .fullNext slot => decide (slot < 16)
  | .restart slot => decide (slot < 16)
  | .activate slot _ => decide (slot < 16)
  | .mainlandRestart _ => true
  | .getIdentityCert port => decide (port < 2)
  | .getAliasCert port => decide (port < 2)
  | .getQuote port _ => decide (port < 2)
  | .debugUnlock _ => true
  | .mctpSetEndpointId eid => decide (eid < 256)
  | .pldmSensorRead id => decide (1 ≤ id && id ≤ 23)
  | .pldmEventRead => true
  | .flashEventLogRead _ _ => true
  | .powerCapEffecter _ => true
  | .stepIndexCeilingEffecter _ => true
  | .fullStartEffecter _ => true
  | .lowWordRead port fn _ _ => decide (port < 2) && decide (fn < 32)
  | .highWordRead port fn _ => decide (port < 2) && decide (fn < 32)
  | .lowWordWrite port fn _ _ => decide (port < 2) && decide (fn < 32)
  | .highWordWrite port fn _ _ => decide (port < 2) && decide (fn < 32)
  | .aliasWrite port fn _ _ _ => decide (port < 2) && decide (fn < 32)
  | .postedWriteApplied block _ => decide (block < 3)
  | .idQueHoldWrite port fn _ => decide (port < 2) && decide (fn < 32)
  | .fnRecordWrite port f n _ => decide (port < 2) && decide (f < 32) && decide (n < 5)
  | .fnBar2Write port f _ => decide (port < 2) && decide (f < 32)
  | .eventLogEnable port _ => decide (port < 2)
  | .telemetryConfigWrite port fn _ => decide (port < 2) && decide (fn < 32)
  | .partGrantWrite port p _ => decide (port < 2) && decide (p < 8)
  | .partDieWrite port d _ => decide (port < 2) && decide (d < 4)
  | .registerWrite port fn _ _ _ => decide (port < 2) && decide (fn < 32)
  | .completionTimeout q _ _ => decide (q < queueCount)
  | .hubLoss _ => true
  | .bondOrTsvLaneFailure kind u bundle lane _ => decide (kind < 2) && laneOk kind u bundle && decide (lane < 256)
  | .ref25Return => true
  | .configurationWrite port w => decide (port < 2) && w.ok
  | .atsInvalidation port fn _ _ => decide (port < 2) && decide (fn < 32)
  | .rejectedRead port fn _ _ => decide (port < 2) && decide (fn < 32)

end Sys2Proof
end

