-- ==== Sys2Proof/Safety.lean ====
section
/-! DEFINITION. The words that statements about the package are made of: when an instruction issues, what an instruction that
writes only registers leaves alone, and when a command runs safely. -/

namespace Sys2Proof.Machine

/-- A command runs safely in a state: it answers a next state. -/
def Runs (i : Instr) (s : State) : Prop := ∃ t, exec i s = .next t

/-- The next issue of `site` under the header `h` is `c`, and nothing holds up or fails an instruction that needs `n`: no
register it names is awaited (R155), its port is free (R107), and checks 1 to 4 of Table 05.14 pass. -/
structure Issues (s : State) (site : Site) (h : Hdr) (n : Needs) (c : Ctx) : Prop where
  /-- the set that R112 selects, and its acting threads -/
  ctx : s.ctx? site h = some c
  /-- no register awaits an earlier result, and the port is free -/
  free : c.blocked n = false
  /-- no check of every issue fails -/
  checks : s.issueCheck c h n = none

/-- The group of a context in a state. -/
def State.ctxGroup (s : State) (c : Ctx) : Group := (s.core c.l).group c.gi

/-- The program counter of thread `k` after an issue whose instruction is `len` bytes long and does not branch. -/
def Ctx.after (c : Ctx) (len k : Nat) : W64 := if k ∈ c.set then c.pc + BitVec.ofNat 64 len else c.g.pc k

/-- `t` differs from `s` only in what an instruction of the group of `c` that writes registers may change: the named
registers, the program counters, which become `pc`, the ages, the register cache with its counters,
the orders and use of the issue ports, the instruction cache, and the watchdog that the first instruction of a task starts. Memory, the other groups, the other cores and every other unit are as they were. -/
structure OnlyRegs (s t : State) (c : Ctx) (pc : Nat → W64) (vw : Nat → Nat → Prop) (uw : Nat → Prop) (pw : Nat → Nat → Prop) :
    Prop where
  /-- everything outside the cores -/
  package : { t with cores := s.cores } = s
  /-- the other cores -/
  cores : ∀ l, l ≠ c.l → t.core l = s.core l
  /-- the rest of this core: local memory, accumulators, queues, barriers and the task -/
  core : { t.core c.l with groups := (s.core c.l).groups, rcHit := (s.core c.l).rcHit, rcMiss := (s.core c.l).rcMiss,
                           arithOrder := (s.core c.l).arithOrder, memOrder := (s.core c.l).memOrder,
                           lastPort := (s.core c.l).lastPort, still := (s.core c.l).still, watch := (s.core c.l).watch,
                           icache := (s.core c.l).icache } = s.core c.l
  /-- the other groups of this core -/
  groups : ∀ j, j ≠ c.gi → (t.core c.l).group j = (s.core c.l).group j
  /-- registers that the instruction does not write -/
  vregs : ∀ r k, k < 32 → ¬vw r k → (t.ctxGroup c).v r k = c.g.v r k
  /-- uniform registers that it does not write -/
  uregs : ∀ r, ¬uw r → (t.ctxGroup c).u r = c.g.u r
  /-- predicates that it does not write -/
  preds : ∀ i k, ¬pw i k → (t.ctxGroup c).p i k = c.g.p i k
  /-- the program counters -/
  pcs : ∀ k, (t.ctxGroup c).pc k = pc k
  /-- the rest of the group: waits, tokens, barriers, exited threads -/
  group : { t.ctxGroup c with vregs := c.g.vregs, uregs := c.g.uregs, preds := c.g.preds, pcs := c.g.pcs, ages := c.g.ages,
                              regCache := c.g.regCache } = c.g

/-! ### What an instruction gives -/

/-- Where a result of a type goes: the register `d`, and for a 64-bit type the next one too (R152, file 05). -/
def inPair (ty : Ty) (d r : Nat) : Prop := r = d ∨ (ty.wide = true ∧ r = d + 1)

/-- Bytes of a format R instruction: 16 where BSEL is 3 (R151, file 05). -/
def FmtR.len (f : FmtR) : Nat := if f.bsel.toNat = 3 then 16 else 8

/-- Sources A, B and C of a thread as bit vectors of the instruction's width (R150, R154, file 05). -/
def FmtR.bitsA (f : FmtR) (c : Ctx) (k : Nat) : BitVec f.type.w := BitVec.ofNat _ (f.srcA c.g f.type k)
@[inherit_doc FmtR.bitsA]
def FmtR.bitsB (f : FmtR) (c : Ctx) (k : Nat) : BitVec f.type.w := BitVec.ofNat _ (f.srcB c.g f.type k)
@[inherit_doc FmtR.bitsA]
def FmtR.bitsC (f : FmtR) (c : Ctx) (k : Nat) : BitVec f.type.w := BitVec.ofNat _ (f.srcC c.g f.type k)

/-- The register `d`, as an operand of type `ty`, holds `val k` in each acting thread `k`, and nothing else changed but what an
issue changes. -/
def Gives (s t : State) (c : Ctx) (ty : Ty) (d len : Nat) (val : Nat → BitVec ty.w) : Prop :=
  (∀ k ∈ c.act, BitVec.ofNat ty.w ((t.ctxGroup c).operand ty d k) = val k) ∧
  OnlyRegs s t c (c.after len) (fun r k => k ∈ c.act ∧ inPair ty d r) (fun _ => False) (fun _ _ => False)

/-- The predicate `i` holds `val k` in each acting thread `k`, and nothing else changed but what an issue changes. -/
def GivesPred (s t : State) (c : Ctx) (i len : Nat) (val : Nat → Bool) : Prop :=
  (∀ k ∈ c.act, (t.ctxGroup c).p i k = val k) ∧
  OnlyRegs s t c (c.after len) (fun _ _ => False) (fun _ => False) (fun j k => k ∈ c.act ∧ j = i)

/-- The uniform register `d` holds `x`, and nothing else changed but what an issue changes. -/
def GivesU (s t : State) (c : Ctx) (d len : Nat) (x : BitVec 64) : Prop :=
  (t.ctxGroup c).u d = x ∧ OnlyRegs s t c (c.after len) (fun _ _ => False) (fun r => r = d) (fun _ _ => False)

/-- Nothing changed but what an issue changes: the instruction writes no register. -/
def GivesNone (s t : State) (c : Ctx) (len : Nat) : Prop :=
  OnlyRegs s t c (c.after len) (fun _ _ => False) (fun _ => False) (fun _ _ => False)

/-- Wherever an instruction of format R issues, it answers a next state, in which each acting thread's destination holds `val` of
its sources and nothing else changed. `sp` says which operands it reads and which types it takes. -/
def Computes (mk : Site → Hdr → FmtR → Instr) (sp : FmtR → RSpec)
    (val : (f : FmtR) → BitVec f.type.w → BitVec f.type.w → BitVec f.type.w → BitVec f.type.w) : Prop :=
  ∀ s site h f c, Issues s site h (rNeeds (sp f) h f) c → ∃ t, exec (mk site h f) s = .next t ∧
    Gives s t c f.type f.vd.toNat f.len fun k => val f (f.bitsA c k) (f.bitsB c k) (f.bitsC c k)

/-- As `Computes`, the result given bit by bit. -/
def ComputesBits (mk : Site → Hdr → FmtR → Instr) (sp : FmtR → RSpec)
    (val : (f : FmtR) → BitVec f.type.w → BitVec f.type.w → BitVec f.type.w → Nat → Bool) : Prop :=
  ∀ s site h f c, Issues s site h (rNeeds (sp f) h f) c → ∃ t r, exec (mk site h f) s = .next t ∧
    Gives s t c f.type f.vd.toNat f.len r ∧
    ∀ k ∈ c.act, ∀ i, i < f.type.w → (r k).getLsbD i = val f (f.bitsA c k) (f.bitsB c k) (f.bitsC c k) i

/-- As `Computes`, for an instruction that writes p[PX]. -/
def ComputesPred (mk : Site → Hdr → FmtR → Instr) (sp : FmtR → RSpec)
    (val : (f : FmtR) → BitVec f.type.w → BitVec f.type.w → Bool) : Prop :=
  ∀ s site h f c, Issues s site h (rNeeds { sp f with d := false } h f) c → ∃ t, exec (mk site h f) s = .next t ∧
    GivesPred s t c f.px.toNat f.len fun k => val f (f.bitsA c k) (f.bitsB c k)

/-- Sources of a uniform instruction as bit vectors of its width (R157, R159, file 05). -/
def FmtR.ubitsA (f : FmtR) (c : Ctx) : BitVec f.type.w := BitVec.ofNat _ (c.g.uval f.type f.va.toNat)
@[inherit_doc FmtR.ubitsA]
def FmtR.ubitsB (f : FmtR) (c : Ctx) : BitVec f.type.w := BitVec.ofNat _ (f.usrcB c.g f.type)
@[inherit_doc FmtR.ubitsA]
def FmtR.ubitsC (f : FmtR) (c : Ctx) : BitVec f.type.w := BitVec.ofNat _ (c.g.uval f.type f.vc.toNat)

/-- Wherever a uniform instruction issues, it answers a next state; with some acting thread u[VD] holds `val` of its sources,
zero-extended to 64 bits; with none, nothing is written (R157, file 05). `a`, `b` and `c` say which operands it reads. -/
def ComputesU (mk : Site → Hdr → FmtR → Instr) (a b : Bool) (c : FmtR → Bool) (ok : Ty → Bool)
    (val : (f : FmtR) → BitVec f.type.w → BitVec f.type.w → BitVec f.type.w → BitVec f.type.w) : Prop :=
  ∀ s site h f x, Issues s site h (uNeeds a b (c f) true ok true f) x → ∃ t, exec (mk site h f) s = .next t ∧
    if x.act = [] then GivesNone s t x f.len
    else GivesU s t x f.vd.toNat f.len ((val f (f.ubitsA x) (f.ubitsB x) (f.ubitsC x)).zeroExtend 64)

/-- `t` differs from `s` by a trap of the task of `c` with status `st`: the task is trapped with the worse of its causes, its
launch dispatches no more tasks, its arrays and tile mover hold no work, and no register, local memory or device memory has
changed (R143, R144, file 04). -/
structure Traps (s t : State) (c : Ctx) (st : BitVec 8) : Prop where
  /-- the task -/
  task : (t.core c.l).task = some { c.task with phase := .trapped, status := worse c.task.status st }
  /-- the launch of a task that is no twin -/
  launch : c.task.twinOf = none → ∀ d, t.desc? c.task.queue c.task.desc = some d → d.launch.stopped = true
  /-- array queues -/
  arrays : ∀ a, ((t.core c.l).arr a).queue = []
  /-- tile-mover entries -/
  tm : (t.core c.l).tm = []
  /-- registers of every group -/
  regs : ∀ l j, ((t.core l).group j).vregs = ((s.core l).group j).vregs ∧ ((t.core l).group j).uregs = ((s.core l).group j).uregs ∧
    ((t.core l).group j).preds = ((s.core l).group j).preds
  /-- local memory -/
  lm : ∀ l, (t.core l).lm = (s.core l).lm
  /-- device memory and its caches -/
  memory : t.mem = s.mem ∧ t.slices = s.slices ∧ t.clusters = s.clusters

/-- Wherever a check of every issue fails, an instruction that needs `n` traps with that check's status (Table 05.14, file 05). -/
def ChecksTrap (i : Site → Hdr → Instr) (n : Site → Hdr → Needs) : Prop :=
  ∀ s site h c st, s.ctx? site h = some c → c.blocked (n site h) = false → s.issueCheck c h (n site h) = some st →
    ∃ t, exec (i site h) s = .next t ∧ Traps s t c st

/-! ### Accesses of a host -/

/-- BAR0 of function `fn` of a port takes accesses: skerry runs, the package is not tripped, the function exists and the port is up
(R494, R508, R544). -/
def Bar0Open (s : State) (port fn : Nat) : Prop :=
  port < 2 ∧ fn < 32 ∧ s.skerryRuns = true ∧ s.boot.tripLayer = 0 ∧ s.fnThere port fn = true ∧ (s.port port).up = true

/-- The package block takes a posted write through the physical function of a port: READY, present there, and not busy (R541,
R552). -/
def PkbOpen (s : State) (port : Nat) : Prop :=
  Bar0Open s port 0 ∧ s.boot.state = .ready ∧ s.p1Only port = false ∧ (s.port port).pkbBusy = false

/-- Descriptor `d` of a queue, of opcode `opc`, is in progress with nothing lost to wait for. -/
def InProgress (s : State) (q : Nat) (d : Desc) (opc : Nat) : Prop :=
  q < queueCount ∧ s.mainlandUp = true ∧ s.live? q d.index.toNat = some d ∧ d.opc = opc ∧ d.phase = .running ∧ d.lostWait = false

/-- Descriptor `d` of a queue has ended with a status and a result; its completion entry is to be made. -/
def Ended (t : State) (q i : Nat) (st : BitVec 8) (r : BitVec 64) : Prop :=
  ∀ d, t.desc? q i = some d → d.phase = .finished st r

/-! ### Canonical forms -/

/-- The register files of every group are in canonical form: register numbers rise, and no listed value is 0. -/
def State.regsWf (s : State) : Prop := ∀ l j, let g := (s.core l).group j
  SMap.wf 0 g.vregs = true ∧ SMap.wf 0 g.uregs = true ∧ SMap.wf 0 g.preds = true ∧ SMap.wf 0 g.pcs = true

end Sys2Proof.Machine
end

