-- ==== Sys2Proof/Certificates/Slice0/Obligations.lean ====
section
/-! DEFINITION. The statements about the package that are to be proved. -/

open Sys2Proof Sys2Proof.Machine

/-- Integer instructions write the arithmetic result modulo 2^w and change nothing else. (R159, R150, R152, R154, 05_core_instruction_set.md Table 05.9) -/
def Obligations.IntegerArithmeticResults : Prop :=
  Computes .iadd (fun _ => intSpec) (fun _ a b _ => a + b) ∧
  Computes .isub (fun _ => intSpec) (fun _ a b _ => a - b) ∧
  Computes .imul (fun _ => intSpec) (fun _ a b _ => a * b) ∧
  Computes .imulh (fun _ => intSpec) (fun f a b _ =>
    if f.type.signed then (a.signExtend (2 * f.type.w) * b.signExtend (2 * f.type.w)).extractLsb' f.type.w f.type.w
    else (a.zeroExtend (2 * f.type.w) * b.zeroExtend (2 * f.type.w)).extractLsb' f.type.w f.type.w) ∧
  Computes .imad (fun _ => { intSpec with c := true }) (fun _ a b c => a * b + c) ∧
  Computes .imin (fun _ => intSpec) (fun f a b _ => if (if f.type.signed then a.slt b else a.ult b) then a else b) ∧
  Computes .imax (fun _ => intSpec) (fun f a b _ => if (if f.type.signed then a.slt b else a.ult b) then b else a) ∧
  Computes .iabs (fun _ => { ok := fun t => t.signed, b := false }) (fun _ a _ _ => a.abs)

/-- Shifts, bit fields and bit logic give the bits that Table 05.9 names. (R159, 05_core_instruction_set.md Table 05.9) -/
def Obligations.ShiftAndBitFieldResults : Prop :=
  Computes .shl (fun _ => intSpec) (fun f a b _ => a <<< (b.toNat % f.type.w)) ∧
  Computes .shr (fun _ => intSpec) (fun f a b _ =>
    if f.type.signed then a.sshiftRight (b.toNat % f.type.w) else a >>> (b.toNat % f.type.w)) ∧
  ComputesBits .bfe (fun _ => intSpec) (fun f a b _ i =>
    let pos := b.toNat % 256
    let len := b.toNat / 256 % 256
    let src (j : Nat) : Bool := if j < f.type.w then a.getLsbD j else f.type.signed && a.msb
    if i < len then src (pos + i) else f.type.signed && len != 0 && src (pos + len - 1)) ∧
  ComputesBits .bfi (fun _ => { intSpec with c := true }) (fun _ a b c i =>
    let pos := b.toNat % 256
    let len := b.toNat / 256 % 256
    if pos ≤ i ∧ i < pos + len then a.getLsbD (i - pos) else c.getLsbD i) ∧
  ComputesBits .blog (fun f => { intSpec with c := decide (f.fn.toNat / 16 % 4 ≠ 0) }) (fun f a b c i =>
    let x := f.fn.getLsbD (2 * (a.getLsbD i).toNat + (b.getLsbD i).toNat)
    let y := c.getLsbD i ^^ f.fn.getLsbD 6
    match f.fn.toNat / 16 % 4 with
    | 0 => x
    | 1 => x && y
    | 2 => x || y
    | _ => x ^^ y) ∧
  Computes .popc (fun _ => { intSpec with b := false }) (fun f a _ _ =>
    BitVec.ofNat _ ((List.range f.type.w).countP fun i => a.getLsbD i)) ∧
  Computes .clz (fun _ => { intSpec with b := false }) (fun f a _ _ =>
    BitVec.ofNat _ (((List.range f.type.w).takeWhile fun i => !a.getLsbD (f.type.w - 1 - i)).length)) ∧
  ComputesBits .brev (fun _ => { intSpec with b := false }) (fun f a _ _ i =>
    a.getLsbD (f.type.w - 1 - i)) ∧
  ComputesBits .bytesel (fun _ => { ok := fun t => t == .u32, c := true }) (fun _ a b c i =>
    let sel := c.toNat / 2 ^ (8 * (i / 8)) % 8
    !c.getLsbD (8 * (i / 8) + 7) &&
      (if sel < 4 then a.getLsbD (8 * sel + i % 8) else b.getLsbD (8 * (sel - 4) + i % 8)))

/-- ICMP, FCMP, PLOG, SEL and MOV write the predicate or the value of Table 05.9. (R52, R159, 05_core_instruction_set.md Table 05.9) -/
def Obligations.SelectAndCompareResults : Prop :=
  ComputesPred .icmp (fun f => { intSpec with fnOk := cmpOk f.fn }) (fun f a b =>
    let lt (x y : BitVec f.type.w) : Bool := if f.type.signed then x.slt y else x.ult y
    match f.fn.toNat % 8 with
    | 0 => a == b | 1 => a != b | 2 => lt a b | 3 => !lt b a | 4 => lt b a | _ => !lt a b) ∧
  ComputesPred .fcmp (fun f => { ok := fun t => t == .f32, fnOk := cmpOk f.fn }) (fun f a b =>
    let x := fp32Val a.toNat
    let y := fp32Val b.toNat
    if x.isNan || y.isNan then f.fn.getLsbD 3
    else match f.fn.toNat % 8 with
      | 0 => !x.lt y && !y.lt x | 1 => x.lt y || y.lt x | 2 => x.lt y | 3 => !y.lt x | 4 => y.lt x | _ => !x.lt y) ∧
  (∀ s site h f c, Issues s site h (rNeeds { ok := fun _ => true, anyTy := true, a := false, b := false, d := false } h f) c →
    ∃ t, exec (.plog site h f) s = .next t ∧ GivesPred s t c f.px.toNat f.len fun k =>
      f.fn.getLsbD (2 * (c.g.p (f.va.toNat % 8) k).toNat + (c.g.p (f.vb.toNat % 8) k).toNat)) ∧
  (∀ s site h f c, Issues s site h (rNeeds { ok := fun _ => true } h f) c → ∃ t, exec (.sel site h f) s = .next t ∧
    Gives s t c f.type f.vd.toNat f.len fun k => if c.g.p f.px.toNat k then f.bitsA c k else f.bitsB c k) ∧
  Computes .mov (fun _ => { ok := fun _ => true, a := false }) (fun _ _ b _ => b)

/-- Floating-point instructions give the exact result rounded once into the element format. (R52, R159) -/
def Obligations.FloatArithmeticResults : Prop :=
  Computes .fadd (fun _ => floatSpec) (fun f a b c =>
    BitVec.ofNat _ (floatOp f.type f.round (fun x y _ => x.add y) a.toNat b.toNat c.toNat)) ∧
  Computes .fsub (fun _ => floatSpec) (fun f a b c =>
    BitVec.ofNat _ (floatOp f.type f.round (fun x y _ => x.add y.negate) a.toNat b.toNat c.toNat)) ∧
  Computes .fmul (fun _ => floatSpec) (fun f a b c =>
    BitVec.ofNat _ (floatOp f.type f.round (fun x y _ => x.mul y) a.toNat b.toNat c.toNat)) ∧
  Computes .ffma (fun _ => { floatSpec with c := true }) (fun f a b c =>
    BitVec.ofNat _ (floatOp f.type f.round (fun x y z => (x.mul y).add z) a.toNat b.toNat c.toNat)) ∧
  Computes .fmin (fun _ => floatSpec) (fun f a b c =>
    BitVec.ofNat _ (floatOp f.type f.round (fun x y _ => x.minV y) a.toNat b.toNat c.toNat)) ∧
  Computes .fmax (fun _ => floatSpec) (fun f a b c =>
    BitVec.ofNat _ (floatOp f.type f.round (fun x y _ => x.maxV y) a.toNat b.toNat c.toNat)) ∧
  Computes .fsqrt (fun _ => { ok := fun t => t == .f32, b := false }) (fun f a b c =>
    BitVec.ofNat _ (floatOp f.type f.round (fun x _ _ => x.sqrtV) a.toNat b.toNat c.toNat))

/-- Special functions complete, and give Table 02.5's results at its special inputs. Where it meets a choice of the model: log 14. (R53, R159, 02_number_formats.md Table 02.5) -/
def Obligations.SpecialFunctionResults : Prop :=
  (∀ o : Sfu, Computes (match o with
      | .rcp => .rcp | .rsq => .rsq | .ex2 => .ex2 | .lg2 => .lg2 | .sin => .sin | .cos => .cos | .tanh => .tanh)
    (fun _ => { floatSpec with b := false }) (fun f a _ _ => BitVec.ofNat _ (sfuOp o f.type a.toNat))) ∧
  (∀ o : Sfu, sfuOp o .f32 0x7FC00000 = 0x7FC00000) ∧
  sfuOp .rcp .f32 0 = 0x7F800000 ∧ sfuOp .rcp .f32 0x80000000 = 0xFF800000 ∧
  sfuOp .rcp .f32 0x7F800000 = 0 ∧ sfuOp .rcp .f32 0xFF800000 = 0x80000000 ∧
  sfuOp .rsq .f32 0 = 0x7F800000 ∧ sfuOp .rsq .f32 0x80000000 = 0xFF800000 ∧ sfuOp .rsq .f32 0x7F800000 = 0 ∧
  (∀ a, 0x80000000 < a → a ≤ 0xFF800000 → sfuOp .rsq .f32 a = 0x7FC00000) ∧
  sfuOp .ex2 .f32 0xFF800000 = 0 ∧ sfuOp .ex2 .f32 0x7F800000 = 0x7F800000 ∧
  sfuOp .lg2 .f32 0 = 0xFF800000 ∧ sfuOp .lg2 .f32 0x80000000 = 0xFF800000 ∧
  (∀ a, 0x80000000 < a → a ≤ 0xFF800000 → sfuOp .lg2 .f32 a = 0x7FC00000) ∧
  sfuOp .sin .f32 0x7F800000 = 0x7FC00000 ∧ sfuOp .sin .f32 0xFF800000 = 0x7FC00000 ∧
  sfuOp .cos .f32 0x7F800000 = 0x7FC00000 ∧ sfuOp .cos .f32 0xFF800000 = 0x7FC00000 ∧
  sfuOp .tanh .f32 0x7F800000 = 0x3F800000 ∧ sfuOp .tanh .f32 0xFF800000 = 0xBF800000

/-- CVT, CVT.FW and CVT.WF write the converted value of each acting thread and nothing else. (R48, R50, R51, R160, R161, R162) -/
def Obligations.ConversionResults : Prop :=
  (∀ s site h f c, Issues s site h (cNeeds h f false false) c → ∃ t, exec (.cvt site h f) s = .next t ∧
    Gives s t c .u32 f.vd.toNat 8 fun k =>
      let x (j : Nat) : Nat := (c.g.v f.va.toNat j).toNat
      if fmtCode f.srcf = fmtCode f.dstf then
        BitVec.ofNat 32 (copyElem (fmtCode f.srcf) (x k) + if (fmtCode f.srcf).scaled then x k / 2 ^ 24 * 2 ^ 24 else 0)
      else BitVec.ofNat 32 (convertTo (fmtCode f.dstf) (f.sat.toNat == 1) c.act
        (fun j => regValue (fmtCode f.srcf) (x j)) (f.round c.g) k)) ∧
  (∀ s site h f c, Issues s site h (cNeeds h f false f.word64) c → ∃ t, exec (.cvtFw site h f) s = .next t ∧
    Gives s t c (if f.word64 then .u64 else .u32) f.vd.toNat 8 fun k =>
      BitVec.ofInt _ ((regValue (fmtCode f.srcf) (c.g.v f.va.toNat k).toNat).toInt (f.round c.g k) f.wordRange.1 f.wordRange.2)) ∧
  (∀ s site h f c, Issues s site h (cNeeds h f f.word64 false) c → ∃ t, exec (.cvtWf site h f) s = .next t ∧
    Gives s t c .u32 f.vd.toNat 8 fun k =>
      BitVec.ofNat 32 (convertTo (fmtCode f.dstf) (f.sat.toNat == 1) c.act (fun j => Val.ofInt (f.wordValue c.g j))
        (f.round c.g) k))

/-- XLANE gives each acting thread the register of the source thread that R163 names. (R163) -/
def Obligations.XlaneReadsSourceThread : Prop :=
  ∀ s site h f c, Issues s site h (rNeeds { ok := Ty.is32 } h f) c → ∃ t, exec (.xlane site h f) s = .next t ∧
    Gives s t c .u32 f.vd.toNat f.len fun k =>
      let b := BitVec.ofNat 32 (f.srcB c.g f.type k)
      let src : Nat := match f.fn.toNat % 4 with
        | 0 => b.toNat % 32
        | 1 => (k + b.toNat) % 32
        | 2 => if 0 ≤ (k : Int) + b.toInt ∧ (k : Int) + b.toInt < 32 then ((k : Int) + b.toInt).toNat else k
        | _ => k ^^^ (b.toNat % 32)
      c.g.v f.va.toNat src

/-- VOTE, LRED and READLANE combine the acting threads only. (R157, R159, R164) -/
def Obligations.VoteAndReductionResults : Prop :=
  (∀ s site h f c, f.fn.toNat % 4 ≤ 1 →
    Issues s site h (rNeeds { ok := fun _ => true, anyTy := true, a := false, b := false, d := false } h f) c →
    ∃ t, exec (.vote site h f) s = .next t ∧ GivesPred s t c f.px.toNat f.len fun _ =>
      if f.fn.toNat % 4 = 0 then c.act.all (c.g.p (f.va.toNat % 8)) else c.act.any (c.g.p (f.va.toNat % 8))) ∧
  (∀ s site h f c, f.fn.toNat % 4 = 2 →
    Issues s site h (rNeeds { ok := fun _ => true, anyTy := true, a := false, b := false } h f) c →
    ∃ t r, exec (.vote site h f) s = .next t ∧ Gives s t c .u32 f.vd.toNat f.len (fun _ => r) ∧
      ∀ k, k < 32 → r.getLsbD k = (decide (k ∈ c.act) && c.g.p (f.va.toNat % 8) k)) ∧
  (∀ s site h f c, Issues s site h (rNeeds { ok := fun t => t == .i32 || t == .u32 || (t == .f32 && decide (f.fn.toNat % 8 ≤ 2)),
                                             b := false, fnOk := decide (f.fn.toNat % 8 < 6) } h f) c →
    ∃ t r, exec (.lred site h f) s = .next t ∧ Gives s t c .u32 f.vd.toNat f.len (fun _ => r) ∧
      (f.type.isInt = true → c.act ≠ [] →
        let v := c.g.v f.va.toNat
        match f.fn.toNat % 8 with
        | 0 => r = c.act.foldl (fun x k => x + v k) 0
        | 1 => (∃ k ∈ c.act, r = v k) ∧ ∀ k ∈ c.act, f.type.int r.toNat ≤ f.type.int (v k).toNat
        | 2 => (∃ k ∈ c.act, r = v k) ∧ ∀ k ∈ c.act, f.type.int (v k).toNat ≤ f.type.int r.toNat
        | 3 => r = c.act.foldl (fun x k => x &&& v k) (BitVec.allOnes 32)
        | 4 => r = c.act.foldl (fun x k => x ||| v k) 0
        | _ => r = c.act.foldl (fun x k => x ^^^ v k) 0)) ∧
  (∀ s site h f c, Issues s site h { rNeeds { ok := Ty.is32, d := false } h f with
      uw := [f.vd.toNat], enc := (rNeeds { ok := Ty.is32, d := false } h f).enc && uOk f.vd } c →
    ∃ t, exec (.readlane site h f) s = .next t ∧
      if c.act = [] then GivesNone s t c f.len
      else GivesU s t c f.vd.toNat f.len ((c.g.v f.va.toNat (f.srcB c.g f.type (c.act.headD 0) % 32)).zeroExtend 64))

/-- Uniform instructions execute once per issue and write one u register or the acting threads' predicate. (R157, R159) -/
def Obligations.UniformInstructionResults : Prop :=
  ComputesU .uiadd true true (fun _ => false) Ty.isInt (fun _ a b _ => a + b) ∧
  ComputesU .uimul true true (fun _ => false) Ty.isInt (fun _ a b _ => a * b) ∧
  ComputesU .ublog true true (fun f => decide (f.fn.toNat / 16 % 4 ≠ 0)) Ty.isInt (fun f a b c =>
    BitVec.ofNat _ (blog f.type.w f.fn a.toNat b.toNat c.toNat)) ∧
  ComputesU .ushl true true (fun _ => false) Ty.isInt (fun f a b _ => a <<< (b.toNat % f.type.w)) ∧
  ComputesU .ushr true true (fun _ => false) Ty.isInt (fun f a b _ =>
    if f.type.signed then a.sshiftRight (b.toNat % f.type.w) else a >>> (b.toNat % f.type.w)) ∧
  ComputesU .umov false true (fun _ => false) (fun _ => true) (fun _ _ b _ => b) ∧
  (∀ s site h f x, Issues s site h (uNeeds true true false false Ty.isInt (cmpOk f.fn) f) x →
    ∃ t, exec (.uicmp site h f) s = .next t ∧ GivesPred s t x f.px.toNat f.len fun _ =>
      let lt (a b : BitVec f.type.w) : Bool := if f.type.signed then a.slt b else a.ult b
      let a := f.ubitsA x
      let b := f.ubitsB x
      match f.fn.toNat % 8 with
      | 0 => a == b | 1 => a != b | 2 => lt a b | 3 => !lt b a | 4 => lt b a | _ => !lt a b)

/-- LD and ULD whose accesses pass their checks become outstanding and keep their registers waiting. Where it meets a choice of the model: log 13. (R155, R156, R157, R165, R168, R170) -/
def Obligations.LoadsBecomeOutstanding : Prop :=
  let first (s : State) (c : Ctx) : Prop := ∀ o ∈ (s.core c.l).outst, o.group ≠ c.gi
  (∀ s site h f c, Issues s site h (f.needs h false [] [] (dataRegs f.bytes f.vd.toNat) [] (dataOk f.bytes f.vd.toNat && !f.releases)) c →
    (c.act = [] → ∃ t, exec (.ld site h f) s = .next t ∧ GivesNone s t c 8) ∧
    (c.act ≠ [] → (∀ k ∈ c.act, ∃ p, s.access c.task.asid f.isLocal (f.addr c.g false k) f.bytes .r false = .ok p) →
      ∃ t, exec (.ld site h f) s = .next t ∧ (first s c → ∃ o, (t.core c.l).outst = (s.core c.l).outst ++ [o] ∧
        o.group = c.gi ∧ o.dest = f.vd.toNat ∧ o.size = f.bytes ∧ o.uniform = false ∧
        o.pieces.map (fun p => p.thread) = c.act ∧
        (∀ r ∈ dataRegs f.bytes f.vd.toNat, r ∈ (t.ctxGroup c).pendV) ∧
        (∀ r k, (t.ctxGroup c).v r k = c.g.v r k) ∧ (∀ a, look 0 (t.core c.l).lm a = look 0 (s.core c.l).lm a) ∧ t.mem = s.mem ∧
        (f.isLocal = true → ∀ p ∈ o.pieces, p.value = some ((s.core c.l).lmRead (f.addr c.g false p.thread) f.bytes))))) ∧
  (∀ s site h f c, Issues s site h (f.needs h true [] [] [] [f.vd.toNat]
      (uOk f.vd && (f.size.toNat == 2 || f.size.toNat == 3) && !f.releases)) c →
    (c.act = [] → ∃ t, exec (.uld site h f) s = .next t ∧ GivesNone s t c 8) ∧
    (c.act ≠ [] → (∃ p, s.access c.task.asid f.isLocal (f.addr c.g true 0) f.bytes .r false = .ok p) →
      ∃ t, exec (.uld site h f) s = .next t ∧ (first s c → ∃ o, (t.core c.l).outst = (s.core c.l).outst ++ [o] ∧
        o.group = c.gi ∧ o.dest = f.vd.toNat ∧ o.size = f.bytes ∧ o.uniform = true ∧ o.pieces.length = 1 ∧
        f.vd.toNat ∈ (t.ctxGroup c).pendU ∧ (∀ r, (t.ctxGroup c).u r = c.g.u r) ∧ t.mem = s.mem)))

/-- DATA_RETURN completes an outstanding access and writes the words it read to their registers. Where it meets a choice of the model: log 13, 25. (R12, R155, R186, R190) -/
def Obligations.ReturnedDataEndsTheAccess : Prop :=
  (∀ s l i o τ, l < 512 → (s.core l).outst[i]? = some o → (s.core l).task = some τ → (∀ p ∈ o.pieces, s.pieceReady l o p = true) →
    (∃ t, exec (.dataReturn l i) s = .next t) ∧
    ((s.core l).frame = none → (s.core l).urgent = none → (∀ g, ((s.core l).group g).fenceWaiters = []) →
      (∀ p ∈ o.pieces, p.bad = none ∧ p.lost = none ∧ p.value ≠ none) →
      ∃ t, exec (.dataReturn l i) s = .next t ∧ (t.core l).outst = (s.core l).outst.eraseIdx i ∧
        (o.uniform = false → o.size = 4 → (∀ p ∈ o.pieces, p.thread < 32) → (o.pieces.map (fun p => p.thread)).Nodup →
          ∀ p ∈ o.pieces, ∀ bs, p.value = some bs →
            ((t.core l).group o.group).v o.dest p.thread = BitVec.ofNat 32 (natOf (bs.take 4))))) ∧
  (∀ s l n, l < 512 → (s.core l).l1At n ≠ none → ∃ t, exec (.l1LineExpiry l n) s = .next t ∧
    { t with cores := s.cores } = s ∧ (∀ j, j ≠ l → t.core j = s.core j) ∧
    { t.core l with l1 := (s.core l).l1 } = s.core l ∧
    ∀ j, (t.core l).l1At j = if j = n then none else (s.core l).l1At j)

/-- ST to local memory writes exactly the acting threads' bytes, the highest thread last, and nothing else. (R165, R166, R168, R187) -/
def Obligations.StoresToLocalMemory : Prop :=
  ∀ s site h f c, f.isLocal = true →
    Issues s site h (f.needs h false [] (dataRegs f.bytes f.vd.toNat) [] [] (dataOk f.bytes f.vd.toNat && !f.acquires)) c →
    (∀ k ∈ c.act, ∃ p, s.access c.task.asid true (f.addr c.g false k) f.bytes .w false = .ok p) → c.task.twinVoid = false →
    ∃ t, exec (.st site h f) s = .next t ∧
      let at_ (k : Nat) : Nat := f.addr c.g false k
      let covers (k a : Nat) : Prop := at_ k ≤ a ∧ a < at_ k + f.bytes
      (∀ a, (∀ k ∈ c.act, ¬covers k a) → look 0 (t.core c.l).lm a = look 0 (s.core c.l).lm a) ∧
      (∀ k ∈ c.act, ∀ a, covers k a → (∀ j ∈ c.act, covers j a → j ≤ k) →
        look 0 (t.core c.l).lm a = (c.g.dataBytes f.vd.toNat f.bytes k).getD (a - at_ k) 0) ∧
      { t with cores := s.cores } = s ∧ (∀ l, l ≠ c.l → t.core l = s.core l) ∧
      (∀ j r k, ((t.core c.l).group j).v r k = ((s.core c.l).group j).v r k)

/-- A thread's plain ST to device memory merges its bytes into its line of the cluster cache and touches no other byte. Where it meets a choice of the model: log 11, 12. (R165, R168, R189, R192) -/
def Obligations.StoreToDeviceMemoryMerges : Prop :=
  (∀ s site h f c u, Issues s site h (f.needs h false [] (dataRegs f.bytes f.vd.toNat) [] [] (dataOk f.bytes f.vd.toNat && !f.acquires)) c →
    f.ready c s = true → failures (f.accesses c s .w false) = [] →
    (let n := f.needs h false [] (dataRegs f.bytes f.vd.toNat) [] [] (dataOk f.bytes f.vd.toNat && !f.acquires)
     let v := s.retire c n
     (if f.releases && !f.isLocal && !c.act.isEmpty then v.releaseDrain c.l f.scope.toNat else v).storeAll c f
       (passes (f.accesses c s .w false)) = some u) →
    ∃ t, exec (.st site h f) s = .next t) ∧
  (∀ s site h f c k a, Issues s site h (f.needs h false [] (dataRegs f.bytes f.vd.toNat) [] [] (dataOk f.bytes f.vd.toNat && !f.acquires)) c →
    f.releases = false → c.act = [k] → (∀ o ∈ (s.core c.l).outst, o.group ≠ c.gi) → s.access c.task.asid f.isLocal (f.addr c.g false k) f.bytes .w false = .ok (.loc (.dev a)) →
    c.task.twinOf = none → c.task.twinVoid = false → s.uncacheable (a / 256) = false →
    s.needsUndo c.l (a / 256) (f.addr c.g false k) = false → (s.shadowTouch (a / 256)).isSome = true →
    s.ccFull (s.clusterOf c.l) (a / 256) = false →
    ∃ t x, exec (.st site h f) s = .next t ∧ t.cc (s.clusterOf c.l) (a / 256) = some x ∧
      (∀ i, i < f.bytes → look 0 x.bytes (a % 256 + i) = (c.g.dataBytes f.vd.toNat f.bytes k).getD i 0) ∧
      (∀ o, o < a % 256 ∨ a % 256 + f.bytes ≤ o → look 0 x.bytes o = match s.cc (s.clusterOf c.l) (a / 256) with
        | some y => look 0 y.bytes o
        | none => 0) ∧
      (∀ cl line, ¬(cl = s.clusterOf c.l ∧ line = a / 256) → t.cc cl line = s.cc cl line) ∧
      t.slices = s.slices ∧ t.mem = s.mem ∧ t.channels = s.channels ∧
      (∀ l j r m, ((t.core l).group j).v r m = ((s.core l).group j).v r m) ∧
      (∀ l a, look 0 (t.core l).lm a = look 0 (s.core l).lm a))

/-- ATOM and RED on local memory combine each thread's operand into its location in thread order. Where it meets a choice of the model: log 29. (R165, R168, R169, 05_core_instruction_set.md Table 05.11) -/
def Obligations.AtomicsComplete : Prop :=
  (∀ s site h f c, Issues s site h (f.needs h false f.atomRegs [] (dataRegs f.bytes f.vd.toNat) [] (f.atomEnc && dataOk f.bytes f.vd.toNat)) c →
    f.ready c s = true → failures (f.accesses c s .w true) = [] → c.task.twinOf = none →
    (let v := s.retire c (f.needs h false f.atomRegs [] (dataRegs f.bytes f.vd.toNat) [] (f.atomEnc && dataOk f.bytes f.vd.toNat))
     let o := (if f.releases && !f.isLocal then v.releaseDrain c.l f.scope.toNat else v).atomAll c f true
       (passes (f.accesses c s .w true))
     o.short = false ∧ o.lost = none) →
    ∃ t, exec (.atom site h f) s = .next t ∧
      (c.act ≠ [] → ∃ o, (t.core c.l).outst.getLast? = some o ∧ o.group = c.gi ∧ o.dest = f.vd.toNat ∧ o.aop = some f.aop.toNat) ∧
      (∀ k p, f.isLocal = true → c.act = [k] → p = f.addr c.g false k →
        let old := natOf ((s.core c.l).lmRead p f.bytes)
        let new := aopNew f.aop.toNat (8 * f.bytes) (f.sx.toNat == 1) old (c.g.value f.vb.toNat f.bytes k) (f.atomC c k)
        (∀ a, look 0 (t.core c.l).lm a =
          if p ≤ a ∧ a < p + f.bytes then (bytesOf f.bytes new).getD (a - p) 0 else look 0 (s.core c.l).lm a) ∧
        ∃ o, (t.core c.l).outst.getLast? = some o ∧ o.pieces.map (fun x => (x.thread, x.value)) =
          [(k, some ((s.core c.l).lmRead p f.bytes))])) ∧
  (∀ s site h f c, Issues s site h (f.needs h false f.atomRegs [] [] [] f.atomEnc) c →
    f.ready c s = true → failures (f.accesses c s .w true) = [] → c.task.twinOf = none →
    (let v := s.retire c (f.needs h false f.atomRegs [] [] [] f.atomEnc)
     let o := (if f.releases && !f.isLocal then v.releaseDrain c.l f.scope.toNat else v).atomAll c f false
       (passes (f.accesses c s .w true))
     o.short = false ∧ o.lost = none) →
    ∃ t, exec (.red site h f) s = .next t ∧
      (∀ k p, f.isLocal = true → c.act = [k] → p = f.addr c.g false k →
        let old := natOf ((s.core c.l).lmRead p f.bytes)
        let new := aopNew f.aop.toNat (8 * f.bytes) (f.sx.toNat == 1) old (c.g.value f.vb.toNat f.bytes k) (f.atomC c k)
        ∀ a, look 0 (t.core c.l).lm a =
          if p ≤ a ∧ a < p + f.bytes then (bytesOf f.bytes new).getD (a - p) 0 else look 0 (s.core c.l).lm a))

/-- PREF, UNPIN, INV.L1 and FENCE complete with their effect on the caches and on the threads that wait. Where it meets a choice of the model: log 59. (R157, R170, R177, R178) -/
def Obligations.CacheInstructionsComplete : Prop :=
  let none_ (l : List (Nat × Except (BitVec 8) Place)) : Prop := ∀ p ∈ passes l, ∀ a, p.2 ≠ .loc (.dev a)
  (∀ s site h f c, Issues s site h (f.needs h false [] [] [] [] true) c → ∃ t, exec (.pref site h f) s = .next t ∧
    (none_ (f.accesses c s .r false) → GivesNone s t c 8) ∧
    ∀ k a x, c.act = [k] → s.access c.task.asid f.isLocal (f.addr c.g false k) f.bytes .r false = .ok (.loc (.dev a)) →
      (s.core c.l).l1Line a = none → s.cc (s.clusterOf c.l) (a / 256) = some x → x.st ≠ .pend → s.lostIn (a / 256) = false →
      (∃ y, (t.core c.l).l1Line a = some y ∧ ∀ i, i < 128 → look 0 y.bytes i = look 0 x.bytes (a % 256 / 128 * 128 + i)) ∧
      (t.core c.l).task = (s.core c.l).task ∧ (t.core c.l).lm = (s.core c.l).lm ∧ (∀ r k, (t.ctxGroup c).v r k = c.g.v r k) ∧
      t.slices = s.slices ∧ t.mem = s.mem) ∧
  (∀ s site h f c, Issues s site h (f.needs h false [] [] [] [] true) c → ∃ t, exec (.unpin site h f) s = .next t ∧
    let l := c.act.map fun k => (k, s.access c.task.asid f.isLocal (f.addr c.g false k) 1 .none false)
    (failures l = [] → none_ l → GivesNone s t c 8) ∧ (∀ st, worstOf (failures l) = some st → Traps s t c st)) ∧
  (∀ s site h f c, Issues s site h { arith := false } c → ∃ t, exec (.invL1 site h f) s = .next t ∧
    (t.core c.l).l1 = (if c.act = [] then (s.core c.l).l1 else []) ∧ { t with cores := s.cores } = s ∧
    ∀ r k, (t.ctxGroup c).v r k = c.g.v r k) ∧
  (∀ s site h f c, Issues s site h { arith := false } c → ∃ t, exec (.fence site h f) s = .next t ∧
    (c.act = [] → GivesNone s t c 8) ∧
    (c.gi < 16 → (∀ j, ((s.core c.l).group j).fenceWaiters = []) → c.act ≠ [] →
      ((s.core c.l).readsOut c.gi c.act = true → (∀ k ∈ c.act, (t.ctxGroup c).wait k = .fence f.scope.toNat) ∧
        ∀ r k, (t.ctxGroup c).v r k = c.g.v r k) ∧
      ((s.core c.l).outst = [] → s.fabWaits (.store c.l) = false → f.scope = 0 → (∀ k ∈ c.act, (t.ctxGroup c).wait k = .none) ∧
        (t.core c.l).l1 = [] ∧ ∀ r k, (t.ctxGroup c).v r k = c.g.v r k)))

/-- BRA, BRX, CALL and RET set the acting threads' program counters and leave the others at the next instruction. (R148, R170, R171, 05_core_instruction_set.md Table 05.10) -/
def Obligations.BranchesSetProgramCounters : Prop :=
  let goes (f : FmtB) (c : Ctx) (k : Nat) : W64 :=
    if k ∈ c.act then c.pc + BitVec.ofInt 64 (f.off.toInt * 8) else c.after 8 k
  let back (f : FmtB) (c : Ctx) (k : Nat) : W64 :=
    if k ∈ c.act then BitVec.ofNat 64 (c.g.v64 f.va.toNat k) else c.after 8 k
  let reads (h : Hdr) (f : FmtB) : Needs :=
    { reads := [[f.va.toNat, f.va.toNat + 1]], enc := f.va.toNat % 2 == 0, arith := false,
      hold := (if bitAt h.hold 0 then [f.va.toNat, f.va.toNat + 1] else []) }
  let returns (mk : Site → Hdr → FmtB → Instr) : Prop := ∀ s site h f c, Issues s site h (reads h f) c →
    ((∀ k ∈ c.act, c.g.v64 f.va.toNat k % 8 = 0) → ∃ t, exec (mk site h f) s = .next t ∧
      OnlyRegs s t c (back f c) (fun _ _ => False) (fun _ => False) (fun _ _ => False)) ∧
    (∀ k ∈ c.act, c.g.v64 f.va.toNat k % 8 ≠ 0 → ∃ t, exec (mk site h f) s = .next t ∧ Traps s t c stProgram)
  (∀ s site h f c, Issues s site h { arith := false } c → ∃ t, exec (.bra site h f) s = .next t ∧
    OnlyRegs s t c (goes f c) (fun _ _ => False) (fun _ => False) (fun _ _ => False)) ∧
  (∀ s site h f c, Issues s site h { vw := [f.vd.toNat, f.vd.toNat + 1], enc := f.vd.toNat % 2 == 0, arith := false } c →
    ∃ t, exec (.call site h f) s = .next t ∧
      (∀ k ∈ c.act, (t.ctxGroup c).v64 f.vd.toNat k = (c.pc + 8).toNat) ∧
      OnlyRegs s t c (goes f c) (fun r k => k ∈ c.act ∧ (r = f.vd.toNat ∨ r = f.vd.toNat + 1)) (fun _ => False) (fun _ _ => False)) ∧
  returns .brx ∧ returns .ret

/-- NOP only advances, EXIT ends exactly the acting threads, and TRAP traps the task with PROGRAM_FAULT. (R135, R143, R170, 05_core_instruction_set.md Table 05.10) -/
def Obligations.NopExitAndTrap : Prop :=
  (∀ s site h f c, Issues s site h { arith := false } c → ∃ t, exec (.nop site h f) s = .next t ∧ GivesNone s t c 8) ∧
  (∀ s site h f c, Issues s site h { arith := false } c → ∃ t, exec (.exit site h f) s = .next t ∧
    (∀ k, k < 32 → ((t.ctxGroup c).gone k = true ↔ c.g.gone k = true ∨ k ∈ c.act)) ∧
    (∀ k, (t.ctxGroup c).pc k = c.after 8 k) ∧
    (∀ l j, ((t.core l).group j).vregs = ((s.core l).group j).vregs ∧ ((t.core l).group j).uregs = ((s.core l).group j).uregs ∧
      ((t.core l).group j).preds = ((s.core l).group j).preds ∧ (t.core l).lm = (s.core l).lm ∧ (t.core l).task = (s.core l).task) ∧
    t.mem = s.mem ∧ t.slices = s.slices) ∧
  (∀ s site h f c, Issues s site h { arith := false } c → ∃ t, exec (.trap site h f) s = .next t ∧
    (c.act ≠ [] → Traps s t c stProgram) ∧ (c.act = [] → GivesNone s t c 8))

/-- BAR.G, BAR.C and BAR.CL count arrivals, hold the threads that wait, and release them when every arrival is in. (R122, R123, R126, R127, R130, R131) -/
def Obligations.BarriersReleaseWhenFull : Prop :=
  let gNeeds (f : FmtS) : Needs :=
    { ur := if f.msrc.toNat = 1 ∧ f.momit.toNat ≠ 1 then [f.ux.toNat] else [],
      enc := decide (¬(f.momit.toNat = 1 ∧ f.msrc.toNat = 1)), arith := false }
  let cNeeds (f : FmtS) : Needs := { enc := f.count != 0, arith := false }
  let clNeeds (f : FmtS) : Needs := { enc := f.count != 0 && decide (f.bn.toNat < 4), arith := false }
  let coreBar (mk : Site → Hdr → FmtS → Instr) (sync : Bool) : Prop := ∀ s site h f c, Issues s site h (cNeeds f) c → c.gi < 16 →
    c.act ≠ [] →
    let k := s.core c.l
    let b := k.runSlots.foldl (fun b gi => b.countGroup gi (k.group gi)) ((k.bar f.bn.toNat).arrive c.gi f.count c.act)
    if f.count ≤ c.task.groups ∧ ((k.bar f.bn.toNat).g = 0 ∨ (k.bar f.bn.toNat).g = f.count) then
      ∃ t, exec (mk site h f) s = .next t ∧ (t.core c.l).bar f.bn.toNat = (if b.full then {} else b) ∧
        (∀ n, n ≠ f.bn.toNat → (t.core c.l).bar n = k.bar n) ∧
        (∀ x ∈ c.act, (t.ctxGroup c).wait x = if sync = true ∧ b.full = false then .barC f.bn.toNat else .none)
    else ∃ t, exec (mk site h f) s = .next t ∧ Traps s t c stProgram
  let clusterBar (mk : Site → Hdr → FmtS → Instr) (sync : Bool) : Prop := ∀ s site h f c, Issues s site h (clNeeds f) c →
    s.releaseReady c.l c.gi (List.range 32) = true → c.act ≠ [] → match c.task.gang with
    | none => ∃ t, exec (mk site h f) s = .next t ∧ Traps s t c stProgram
    | some g =>
      let x := (s.cluster (s.clusterOf c.l)).gang g
      let o : NBar := look {} x.barriers f.bn.toNat
      let b := x.members.foldl (fun b l => ((s.core l).memberGroups g).foldl
        (fun b p => b.countGroup (x.rankOf l * 16 + p.1) p.2) b) (o.arrive (x.rankOf c.l * 16 + c.gi) f.count c.act)
      f.count ≤ c.task.members * c.task.groups → (o.g = 0 ∨ o.g = f.count) →
      ∃ t, exec (mk site h f) s = .next t ∧ (t.core c.l).l1 = [] ∧
        look {} ((t.cluster (s.clusterOf c.l)).gang g).barriers f.bn.toNat = (if b.full then {} else b) ∧
        (b.full = false → ∀ k ∈ c.act, (t.ctxGroup c).wait k = if sync then .barCl f.bn.toNat else .none)
  (∀ s site h f c, Issues s site h (gNeeds f) c → c.act ≠ [] →
    let m := f.mask c.g
    let p := c.g.phaseMask m
    let done (k : Nat) : Prop := c.g.gone k = true ∨ k ∈ c.act ∨ ∃ b, c.g.barG = some b ∧ bitAt b.arrived k = true
    ((m = none ∨ m = some p ∧ ∀ k ∈ c.act, p.testBit k = true) → ∃ t, exec (.barG site h f) s = .next t ∧
      ((∀ k, k < 32 → p.testBit k = true → done k) → (t.ctxGroup c).barG = none ∧ ∀ k ∈ c.act, (t.ctxGroup c).wait k = .none) ∧
      (∀ k, k < 32 → p.testBit k = true → ¬done k → (∃ b, (t.ctxGroup c).barG = some b ∧ b.mask.toNat = p % 2 ^ 32) ∧
        ∀ k ∈ c.act, (t.ctxGroup c).wait k = .barG) ∧
      (∀ r k, (t.ctxGroup c).v r k = c.g.v r k) ∧ { t with cores := s.cores } = s) ∧
    (∀ x, m = some x → (x ≠ p ∨ ∃ k ∈ c.act, p.testBit k = false) → ∃ t, exec (.barG site h f) s = .next t ∧ Traps s t c stProgram)) ∧
  coreBar .barCSync true ∧ coreBar .barCArrive false ∧ clusterBar .barClSync true ∧ clusterBar .barClArrive false

/-- MMA and TM put a copy of their descriptor into their queue and count its token; a full queue holds the group. (R76, R77, R157, R173, R174, R206) -/
def Obligations.AsynchronousIssues : Prop :=
  let n (f : FmtA) : Needs := { ur := [f.ua.toNat], arith := false }
  let regs (s t : State) (c : Ctx) : Prop := (∀ r k, (t.ctxGroup c).v r k = c.g.v r k) ∧ (t.core c.l).lm = (s.core c.l).lm ∧ t.mem = s.mem
  let held (s t : State) (c : Ctx) : Prop :=
    (t.ctxGroup c).active = [] ∧ (∀ k, (t.ctxGroup c).wait k = c.g.wait k) ∧
    (∀ k, (t.ctxGroup c).pc k = c.g.pc k) ∧ (t.core c.l).arrays = (s.core c.l).arrays ∧ (t.core c.l).tm = (s.core c.l).tm ∧ regs s t c
  (∀ s site h f c, Issues s site h (n f) c → c.act ≠ [] →
    let k := s.core c.l
    let d := k.descAt (f.addr c.g)
    let tok := (d.extractLsb' 40 4).toNat
    (f.addr c.g + 64 ≤ lmBytes → f.addr c.g % 64 = 0 → (k.arr f.arr.toNat).queue.length < 4 → c.g.tok tok < 63 →
      ∃ t e, exec (.mma site h f) s = .next t ∧ ((t.core c.l).arr f.arr.toNat).queue = (k.arr f.arr.toNat).queue ++ [e] ∧
        e.desc = d ∧ e.group = c.gi ∧ e.hasCopy = true ∧ (∀ a, a ≠ f.arr.toNat → (t.core c.l).arr a = k.arr a) ∧
        (∀ j, (t.ctxGroup c).tok j = c.g.tok j + if j = tok then 1 else 0) ∧ regs s t c) ∧
    (f.addr c.g + 64 ≤ lmBytes → 4 ≤ (k.arr f.arr.toNat).queue.length → ∃ t, exec (.mma site h f) s = .next t ∧ held s t c) ∧
    (lmBytes < f.addr c.g + 64 → ∃ t, exec (.mma site h f) s = .next t ∧ Traps s t c stAccess)) ∧
  (∀ s site h f c, Issues s site h (n f) c → c.act ≠ [] →
    let k := s.core c.l
    (f.addr c.g + 64 ≤ lmBytes → k.tm.length < k.tmRoom → c.g.tok f.tok.toNat < 63 →
      ∃ t e, exec (.tm site h f) s = .next t ∧ (t.core c.l).tm = k.tm ++ [e] ∧ e.desc = k.descAt (f.addr c.g) ∧ e.group = c.gi ∧
        e.tok = f.tok.toNat ∧ (∀ j, (t.ctxGroup c).tok j = c.g.tok j + if j = f.tok.toNat then 1 else 0) ∧ regs s t c) ∧
    (f.addr c.g + 64 ≤ lmBytes → k.tmRoom ≤ k.tm.length → ∃ t, exec (.tm site h f) s = .next t ∧ held s t c) ∧
    (lmBytes < f.addr c.g + 64 → ∃ t, exec (.tm site h f) s = .next t ∧ Traps s t c stAccess))

/-- WAITT waits for the tokens of its mask, TESTT tests them, and SYSR reads a system value once per issue. Where it meets a choice of the model: log 7. (R157, R175, R179, 05_core_instruction_set.md Table 05.12) -/
def Obligations.TokensAndSystemValues : Prop :=
  let allClear (g : Group) (f : FmtS) : Prop := ∀ i, i < 16 → f.imm.getLsbD i = true → g.tok i = 0
  (∀ s site h f c, Issues s site h { arith := false } c → ∃ t, exec (.waitt site h f) s = .next t ∧
    (allClear c.g f → ∀ k, (t.ctxGroup c).wait k = c.g.wait k) ∧
    (¬allClear c.g f → ∀ k, (t.ctxGroup c).wait k = if k ∈ c.act then .tokens (f.imm.extractLsb' 0 16) else c.g.wait k) ∧
    (∀ r k, (t.ctxGroup c).v r k = c.g.v r k) ∧ (∀ k, (t.ctxGroup c).pc k = c.after 8 k) ∧ { t with cores := s.cores } = s) ∧
  (∀ s site h f c, Issues s site h { arith := false } c → ∃ t, exec (.testt site h f) s = .next t ∧
    (∀ k ∈ c.act, ((t.ctxGroup c).p f.px.toNat k = true ↔ allClear c.g f)) ∧
    (∀ i k, ¬(k ∈ c.act ∧ i = f.px.toNat) → (t.ctxGroup c).p i k = c.g.p i k) ∧
    (∀ r k, (t.ctxGroup c).v r k = c.g.v r k) ∧ { t with cores := s.cores } = s) ∧
  (∀ s site h f c, Issues s site h { uw := [f.ux.toNat], arith := false } c → ∃ t, exec (.sysr site h f) s = .next t ∧
    (c.act = [] → GivesNone s t c 8) ∧
    (c.act ≠ [] →
      (f.imm = 3 → GivesU s t c f.ux.toNat 8 (BitVec.ofNat 64 c.task.part)) ∧
      (f.imm = 4 → GivesU s t c f.ux.toNat 8 (BitVec.ofNat 64 c.gi)) ∧
      (f.imm = 1 → (t.ctxGroup c).u f.ux.toNat = t.ticks) ∧
      (f.imm = 2 → (t.ctxGroup c).u f.ux.toNat = BitVec.ofNat 64 ((t.core c.l).watch.count t.ticks.toNat)) ∧
      (f.imm.toNat < 5 → (∀ r, r ≠ f.ux.toNat → (t.ctxGroup c).u r = c.g.u r) ∧ (∀ r k, (t.ctxGroup c).v r k = c.g.v r k) ∧
        (∀ i k, (t.ctxGroup c).p i k = c.g.p i k) ∧ t.mem = s.mem ∧ (t.core c.l).lm = (s.core c.l).lm) ∧
      (5 ≤ f.imm.toNat → Traps s t c stProgram)))

/-- The checks of every issue are made in the order of Table 05.14, and the first that fails traps the task. Where it meets a choice of the model: log 2, 57. (R143, R144, R156, R180, 05_core_instruction_set.md Table 05.14) -/
def Obligations.EveryIssueIsChecked : Prop :=
  (∀ (s : State) (c : Ctx) (h : Hdr) (n : Needs), n.len = 8 →
    (s.fetchOk c.task.asid c.pc.toNat = false → s.issueCheck c h n = some stAccess) ∧
    (s.fetchOk c.task.asid c.pc.toNat = true →
      (h.gm = 3 ∨ n.enc = false → s.issueCheck c h n = some stProgram) ∧
      (h.gm ≠ 3 → n.enc = true →
        ((∃ r ∈ n.vr ++ n.vw, c.task.vregs ≤ r) → s.issueCheck c h n = some stProgram) ∧
        ((∀ r ∈ n.vr ++ n.vw, r < c.task.vregs) → s.issueCheck c h n = if n.ty then none else some stFormat)))) ∧
  (∀ f, ChecksTrap (fun site h => .iadd site h f) (fun _ h => rNeeds { ok := Ty.isInt } h f)) ∧
  (∀ f, ChecksTrap (fun site h => .uiadd site h f) (fun _ _ => uNeeds true true false true Ty.isInt true f)) ∧
  (∀ f, ChecksTrap (fun site h => .ld site h f) (fun _ h => f.needs h false [] [] (dataRegs f.bytes f.vd.toNat) []
    (dataOk f.bytes f.vd.toNat && !f.releases))) ∧
  (∀ f, ChecksTrap (fun site h => .bra site h f) (fun _ _ => { arith := false })) ∧
  (∀ f, ChecksTrap (fun site h => .sysr site h f) (fun _ _ => { uw := [f.ux.toNat], arith := false })) ∧
  (∀ f, ChecksTrap (fun site h => .mma site h f) (fun _ _ => { ur := [f.ua.toNat], arith := false }))

/-- The random value of stochastic rounding is the sr_random of R46 on 32-bit words. (R46) -/
def Obligations.StochasticRoundingValue : Prop :=
  ∀ seed i j : BitVec 32,
    let a := seed ^^^ (i * 0x9E3779B1#32) ^^^ (j * 0x85EBCA77#32)
    let b := (a ^^^ (a >>> 16)) * 0x7FEB352D#32
    let c := (b ^^^ (b >>> 15)) * 0x846CA68B#32
    srRandom seed.toNat i.toNat j.toNat = ((c ^^^ (c >>> 16)) >>> 16).toNat

/-- The words of the encoded loop of Table 05.15 decode to the instructions that the table names. Where it meets a choice of the model: log 8. (R148, R149, R150, 05_core_instruction_set.md Table 05.15) -/
def Obligations.WordsOfTheEncodedLoop : Prop :=
  ∀ site : Site, (∃ h f, decodeCore site 0x0001410201040080 0 = some (.ld site h f) ∧ f.vd = 4 ∧ f.va = 2 ∧ f.ubase = 1 ∧ h.gm = 0) ∧
  (∃ h f, decodeCore site 0x0118000002050040 0 = some (.cvt site h f) ∧ f.vd = 5 ∧ f.va = 4 ∧ f.sat = 1 ∧ f.rmode = 0 ∧ h.gm = 0) ∧
  (∃ h f, decodeCore site 0x0001000283860181 0 = some (.st site h f) ∧ f.vd = 6 ∧ f.va = 7 ∧ f.vb = 10 ∧ f.ubase = 1 ∧ h.gm = 1 ∧ h.gp = 0) ∧
  (∃ h f, decodeCore site 0x000060060286000A 0 = some (.shr site h f) ∧ f.vd = 6 ∧ f.va = 5 ∧ f.type = .u32 ∧ f.imm14 = 24) ∧
  (∃ h f, decodeCore site 0x0000E02004080060 0 = some (.uiadd site h f) ∧ f.vd = 8 ∧ f.va = 8 ∧ f.type = .u64 ∧ f.imm14 = 128) ∧
  (∃ h f, decodeCore site 0x0110C00346000066 0 = some (.uicmp site h f) ∧ f.px = 1 ∧ f.va = 12 ∧ f.vb = 13 ∧ f.type = .u64) ∧
  (∃ h f, decodeCore site 0xFFFFFFF600000590 0 = some (.bra site h f) ∧ f.off.toInt = -10 ∧ h.gm = 1 ∧ h.gp = 1)

/-- Every well-formed core instruction's words decode to that instruction: no bit of an encoding is dropped. Where it meets a choice of the model: log 8. (R148, R149, R150, R151) -/
def Obligations.DecodeOfEncodeIsIdentity : Prop :=
  ∀ i w x, i.wf = true → encodeCore i = some (w, x) → ∃ site : Site, site.ok = true ∧ decodeCore site w x = some i

/-- A word of formats R, C, M and S is the word of the instruction that it decodes to; formats A and B lose only reserved bits. Where it meets a choice of the model: log 8. (R149, R150, R151) -/
def Obligations.EncodeOfDecodeKeepsEveryWord : Prop :=
  (∀ (site : Site) w x i, decodeCore site w x = some i →
    let o := (w.extractLsb' 0 8).toNat
    i.wf = site.ok ∧ encodeCore i = some (
      if 0x90 ≤ o ∧ o ≤ 0x96 then w &&& 0xFFFFFFFF3FFFFFFF else if o = 0xB0 ∨ o = 0xB1 then w &&& 0x000001FFFFFFFFFF else w,
      if (o < 0x40 ∨ 0x50 ≤ o ∧ o < 0x80) ∧ w.extractLsb' 44 2 = 3 then x else 0)) ∧
  (∀ (site : Site) w x w' x', w.extractLsb' 0 8 = w'.extractLsb' 0 8 →
    (decodeCore site w x).isSome = (decodeCore site w' x').isSome)

/-- LOADB latches the tile its record names, RUN writes the D rows that leave the columns, and a failing head traps. Where it meets a choice of the model: log 10. (R63, R67, R68, R71, R72, R73, R74, R80, R81, R82) -/
def Obligations.MatrixArrayOperations : Prop :=
  let ready (s : State) (l a op : Nat) (e : MEntry) : Prop := l < 512 ∧ a < 2 ∧ s.arraysRun l = true ∧
    ((s.core l).arr a).stop = .running ∧ ((s.core l).arr a).current = some e ∧ e.named op = true
  let due (e : MEntry) (n : Nat) : Nat := if n = e.rows then n else n - 64
  let row (e : MEntry) (m : Nat) : Nat := e.f 160 21 + m * e.f 240 16
  let frame (s t : State) (l : Nat) : Prop := { t with cores := s.cores, free := s.free } = s ∧
    (∀ j, j ≠ l → t.core j = s.core j) ∧ (t.core l).groups = (s.core l).groups ∧ (t.core l).task = (s.core l).task
  let entersTo (s t : State) (l a : Nat) (e : MEntry) (n : Nat) : Prop :=
    (n < e.rows → ∃ x, ((t.core l).arr a).current = some x ∧ x.desc = e.desc ∧ x.entered = n) ∧
    (n = e.rows → ∃ x ∈ ((t.core l).arr a).queue, x.desc = e.desc ∧ x.finished = true) ∧ frame s t l
  (∀ s l a e, ready s l a 0 e → e.started = true → ∃ t, exec (.loadb l a) s = .next t ∧
    ((t.core l).arr a).tile = some ((s.core l).tileFrom e.desc e.group) ∧ (t.core l).lm = (s.core l).lm ∧ frame s t l ∧
    (∃ x ∈ ((t.core l).arr a).queue, x.desc = e.desc ∧ x.finished = true) ∧ ∀ b, b ≠ a → (t.core l).arr b = (s.core l).arr b) ∧
  (∀ s l a e rows, ready s l a 1 e → e.started = true → ∃ t, exec (.run l a rows) s = .next t ∧
    let n := min e.rows (e.entered + rows)
    entersTo s t l a e n ∧
    ∀ τ, ((s.core l).arr a).tile = some τ →
      (∀ p, (∀ m, e.written ≤ m → m < due e n → ¬(row e m ≤ p ∧ p < row e m + (fmtOf (e.f 23 5)).rowBytes (tileN τ.record))) →
        look 0 (t.core l).lm p = look 0 (s.core l).lm p) ∧
      (e.written ∉ e.broken → due e n = e.written + 1 → ∀ i, i < ((s.core l).dRow e τ e.written).length →
        look 0 (t.core l).lm (row e e.written + i) = ((s.core l).dRow e τ e.written).getD i 0)) ∧
  (∀ s l a e rows, ready s l a 2 e → e.started = true → e.loaded = false → ∃ t, exec (.loadbRun l a rows) s = .next t ∧
    ((t.core l).arr a).tile = some ((s.core l).tileFrom e.desc e.group) ∧ entersTo s t l a e (min e.rows (e.entered + rows))) ∧
  (∀ (i : Instr) s l a e rows, (i = .loadb l a ∧ ready s l a 0 e ∨ i = .run l a rows ∧ ready s l a 1 e ∨
      i = .loadbRun l a rows ∧ ready s l a 2 e) → e.started = false →
    (worstOf (e.checks ((s.core l).arr a).tile) = none → exec i s = exec i (s.onEntry l a fun x => { x with started := true })) ∧
    (∀ st τ, worstOf (e.checks ((s.core l).arr a).tile) = some st → (s.core l).task = some τ →
      ∃ t, exec i s = .next t ∧ (t.core l).task = some { τ with phase := .trapped, status := worse τ.status st } ∧
        ((t.core l).arr a).queue = [] ∧ (t.core l).lm = (s.core l).lm ∧ t.mem = s.mem))

/-- A finished matrix descriptor completes its token; a stop empties the array; a first parity mismatch restarts the descriptor. (R82, R90, R91, R92, R95, R96, R97, R174) -/
def Obligations.MatrixCompletionStopAndParity : Prop :=
  (∀ s l a e q, l < 512 → a < 2 → ((s.core l).arr a).queue = e :: q → e.finished = true → e.group < 16 →
    ∃ t, exec (.matrixCompletion l a) s = .next t ∧ ((t.core l).arr a).queue = q ∧
      (∀ j, ((t.core l).group e.group).tok j = ((s.core l).group e.group).tok j - if j = e.f 40 4 then 1 else 0) ∧
      (∀ j r k, ((t.core l).group j).v r k = ((s.core l).group j).v r k) ∧ (t.core l).lm = (s.core l).lm ∧
      { t with cores := s.cores } = s) ∧
  (∀ s l a, l < 512 → a < 2 → s.arraysRun l = true → ((s.core l).arr a).stop = .stopping →
    ∃ t, exec (.arrayStopDone l a) s = .next t ∧ ((s.core l).urgent = none → ((t.core l).arr a).stop = .stopped ∧
      (∀ e ∈ ((t.core l).arr a).queue, e.saved = true) ∧ (∀ e ∈ ((t.core l).arr a).returned, e.saved = false) ∧
      t.mem = s.mem ∧ t.clusters = s.clusters ∧ ∀ j, j ≠ l → t.core j = s.core j)) ∧
  (∀ s l a τ, l < 512 → a < 2 → s.arraysRun l = true → ((s.core l).arr a).tile = some τ →
    (∃ t, exec (.arrayParityMismatch l a) s = .next t) ∧
    ∀ e, ((s.core l).arr a).current = some e → e.started = true → e.parity = 0 → (e.overlaps τ = false ∨ e.op = 0) →
      ((s.core l).arr a).stop = .running →
      ∃ t x, exec (.arrayParityMismatch l a) s = .next t ∧ ((t.core l).arr a).current = some x ∧ x.parity = 1 ∧ x.desc = e.desc ∧
        x.entered = (if e.inPlace then e.written else 0) ∧ x.written = x.entered ∧
        ((t.core l).arr a).tile = some ((s.core l).tileFrom τ.record τ.group) ∧ (t.core l).lm = (s.core l).lm ∧ (t.core l).task = (s.core l).task)

/-- The tile mover's operations run the entry whose turn it is; LFILL and LCOPY write exactly their row; failing checks trap. Where it meets a choice of the model: log 61. (R174, R205, R206, R208, R211, R212, R213, 06_local_memory_and_cluster_cache.md Table 06.7) -/
def Obligations.TileMoverOperations : Prop :=
  let ready (s : State) (l i op : Nat) (e : TmEntry) (τ : Task) : Prop := l < 512 ∧ s.arraysRun l = true ∧
    (s.cluster (s.clusterOf l)).tileMover = true ∧ (s.core l).tm[i]? = some e ∧ (s.core l).task = some τ ∧
    (s.core l).tmTurn i = true ∧ (s.core l).urgent = none ∧ tmOp e.desc = op
  let completes (op : Nat) (mk : Nat → Nat → Nat → Instr) : Prop := ∀ s l i n e τ, ready s l i op e τ →
    (∃ t, exec (mk l i n) s = .next t) ∧
    ∀ st, e.started = false → worstOf (tmChecks e.desc (if τ.gang.isSome then τ.members else 1)) = some st →
      ∃ t, exec (mk l i n) s = .next t ∧ (t.core l).task = some { τ with phase := .trapped, status := worse τ.status st } ∧
        (t.core l).lm = (s.core l).lm ∧ t.mem = s.mem
  let moves (s : State) (l i op : Nat) (e : TmEntry) (τ : Task) : Prop := ready s l i op e τ ∧ e.started = true ∧
    (s.core l).tm.find? (fun x => x.id == e.id) = some e ∧ τ.twinVoid = false
  completes 0 .load ∧ completes 1 .store ∧ completes 2 .lcopy ∧ completes 3 (fun l i _ => .loadt l i) ∧
  completes 3 (fun l i _ => .loadtBlock l i) ∧ completes 4 .prefetch ∧ completes 5 .lfill ∧
  (∀ s l i e τ, moves s l i 5 e τ →
    let a := tmL e.desc e.byte
    let n := 4 * tmInner e.desc
    (∀ p, a ≤ p → p < a + n → tmUndefined e.desc true p = false) →
    ∃ t, exec (.lfill l i 1) s = .next t ∧
      (∀ p, look 0 (t.core l).lm p = if a ≤ p ∧ p < a + n then (bytesOf 4 (fld e.desc 480 32)).getD ((p - a) % 4) 0
        else look 0 (s.core l).lm p) ∧
      { t with cores := s.cores, free := s.free } = s ∧ ∀ j, j ≠ l → t.core j = s.core j) ∧
  (∀ s l i e τ, moves s l i 2 e τ → tmConv e.desc = false → (tmSrc e.desc).scaled = false →
    let m := s.tmDest l τ e.desc
    let a := tmL2 e.desc e.byte
    let n := (tmSrc e.desc).rowBytes (tmInner e.desc)
    (s.core m).frame = none → (∀ p, a ≤ p → p < a + n → tmUndefined e.desc (m == l) p = false) →
    ∃ t, exec (.lcopy l i 1) s = .next t ∧
      (∀ p, look 0 (t.core m).lm p = if a ≤ p ∧ p < a + n then look 0 (s.core l).lm (tmL e.desc e.byte + (p - a))
        else look 0 (s.core m).lm p) ∧
      { t with cores := s.cores, free := s.free } = s ∧ ∀ j, j ≠ m → (t.core j).lm = (s.core j).lm) ∧
  (∀ s l i e, l < 512 → (s.core l).tm[i]? = some e → e.finished = true → s.fabWaits (.tm l e.id) = false → e.group < 16 →
    ∃ t, exec (.tmCompletion l i) s = .next t ∧ (t.core l).tm = (s.core l).tm.eraseIdx i ∧
      (∀ j, ((t.core l).group e.group).tok j = ((s.core l).group e.group).tok j - if j = e.tok then 1 else 0) ∧
      (t.core l).lm = (s.core l).lm ∧ t.mem = s.mem)

/-- A dispatched task starts as Table 04.3 says, an ended task leaves its core, and a watchdog expiry traps it. Where it meets a choice of the model: log 23. (R133, R134, R135, R143, R145, R396, 04_cores_and_thread_groups.md Table 04.3) -/
def Obligations.TasksStartEndAndExpire : Prop :=
  (∀ s p q d s' i l, p < 8 → s.powered = true → s.boot.state = .ready → (s.part p).paused = false → (s.part p).resetting = false →
    s.gangsShort p = none → s.choose p = some (q, d, s') → d.launch.checked = true → d.nextTasks = [i] → d.gang < 2 →
    let u := s'.modDesc q d.index.toNat fun d => { d with launch := { d.launch with checked := true } }
    u.place p 1 ((s.queue q).set.prio != .urgent || d.launch.recompute) = some [l] →
    (u.cluster (u.clusterOf l)).clk ≠ .off → (u.cluster (u.clusterOf l)).regFailed = false →
    ∃ t τ, exec (.taskDispatch p) s = .next t ∧ (t.core l).task = some τ ∧ τ.index = i ∧ τ.queue = q ∧ τ.desc = d.index.toNat ∧
      τ.phase = .running ∧ τ.groups = d.groups ∧
      (∀ g k, g < d.groups → k < 32 →
        let x := (t.core l).group (τ.base + g)
        x.used = true ∧ x.pc k = BitVec.ofNat 64 (fld d.bits 64 64) ∧ x.u 0 = BitVec.ofNat 64 (fld d.bits 128 64) ∧
        x.u 1 = BitVec.ofNat 64 i ∧ x.u 2 = BitVec.ofNat 64 d.grid ∧ x.u 3 = BitVec.ofNat 64 l ∧ x.u 5 = BitVec.ofNat 64 g ∧
        x.u 6 = BitVec.ofNat 64 d.groups ∧ x.v 0 k = BitVec.ofNat 32 k ∧ x.v 1 k = BitVec.ofNat 32 (32 * g + k) ∧
        (∀ r, 2 ≤ r → x.v r k = 0) ∧ (∀ j, j < 8 → x.p j k = false)) ∧
      (∀ a, look 0 (t.core l).lm a = if (s'.core l).lastAsid = some τ.asid then look 0 (s'.core l).lm a else 0)) ∧
  (∀ s l τ, l < 512 → s.hasCore l = true → s.powered = true → (s.core l).task = some τ → (s.core l).taskOver τ = true →
    τ.twinOf = none → τ.gang = none → s.fabWaits (.store l) = false →
    ∃ t, exec (.taskEnd l) s = .next t ∧
      ((s.core l).frame = none → (s.core l).urgent = none → (s.cluster (s.clusterOf l)).unperformed = [] →
        (t.core l).task = none ∧ (t.core l).lastAsid = some τ.asid ∧ (t.core l).groups = [] ∧ (t.core l).lm = (s.core l).lm)) ∧
  (∀ s l τ, l < 512 → s.hasCore l = true → s.powered = true → (s.core l).task = some τ → τ.phase = .running → τ.wdMs ≠ 0 →
    (s.core l).watch.on = true → (s.core l).watch.hold = false → τ.twinOf = none → τ.gang = none →
    ∃ t, exec (.watchdogExpiry l) s = .next t ∧ (t.core l).lm = (s.core l).lm ∧
      (t.core l).task = some { τ with phase := .trapped
                                      status := worse τ.status (if (s.core l).atBarrier then stBarrier else stWatchdog) })

/-- READ, OWN, SLICE_READ, SLICE_WRITE and LASTUSE_READ complete at the home slice with their value and their bookkeeping. Where it meets a choice of the model: log 88. (R218, R223, R229, R231, R234, R236, R237, R238, R260, 07_sram_tier.md Table 07.6) -/
def Obligations.HomeSliceRequests : Prop :=
  let cut (s t : State) (m : Master) (line : Nat) : Prop := s.lineOk m line = false → t = { s with ended := some (line, stAccess) }
  let still (s : State) (m : Master) (line : Nat) : Prop := s.powered = true ∧ s.lineOk m line = true ∧ s.dirEnt line = none ∧
    s.lostIn line = false ∧ s.inLedger line = false ∧ s.uncacheable line = false ∧ (s.held line).isSome = true ∧
    (let h := s.homeOfLine line
     (look [] (s.slice h.slice).dir h.dirSet).length < (s.slice h.slice).dirWays h.dirSet)
  (∀ s cl line hint asid len err, cl < 64 → s.powered = true → ∃ t, exec (.read cl line hint asid len err) s = .next t ∧
    cut s t .core line ∧
    (still s .core line → err = .none → hint % 4 ≠ 2 → s.cc cl line = none → s.ccFull cl line = false →
      ∃ x, t.cc cl line = some x ∧ x.st = .exclusive ∧ x.bytes = s.homeData line ∧ ∃ e, t.dirEnt line = some e ∧ e.st = .owned cl)) ∧
  (∀ s cl line x, cl < 64 → s.powered = true → s.cc cl line = some x → x.st = .pend → x.asked = false →
    ∃ t, exec (.own cl line) s = .next t ∧ cut s t .core line ∧
    (still s .core line → (∃ e, t.dirEnt line = some e ∧ e.st = .owned cl) ∧
      CohMsg.grant line cl ∈ t.net.coh ∧ CohMsg.done line cl ∈ t.net.coh)) ∧
  (∀ s m line hint asid len nar err, s.powered = true → ∃ t, exec (.sliceRead m line hint asid len nar err) s = .next t ∧
    cut s t m line ∧ (still s m line → err = .none → hint % 4 ≠ 2 → ∀ o, look 0 (t.homeData line) o = look 0 (s.homeData line) o)) ∧
  (∀ s m line hint asid data, s.powered = true → ∃ t, exec (.sliceWrite m line hint asid data) s = .next t ∧ cut s t m line ∧
    (still s m line → (∀ w ∈ data, w.1 < 256) → s.guardedPage (line * 256) = none → t.inLedger line = false ∧
      ∀ o, look 0 (t.homeData line) o = look 0 (mergeBytes (s.homeData line) data) o)) ∧
  (∀ s m line asid len nar err, s.powered = true → ∃ t, exec (.lastuseRead m line asid len nar err) s = .next t ∧ cut s t m line ∧
    (still s m line → err = .none → t.inLedger line = true ∧ t.held line = none))

/-- The messages of the directory protocol do what they say to the copy they name, and every one in flight can arrive. Where it meets a choice of the model: log 88. (R192, R222, R234, R236, R237, R238, R296) -/
def Obligations.CoherenceMessages : Prop :=
  let flies (s : State) (m : CohMsg) : Prop := m ∈ s.net.coh ∧ s.firstInFlow m = true
  (∀ s line cl, flies s (.inv line cl) → ∃ t, exec (.invalidation line cl) s = .next t ∧ (s.blocker line = none →
    CohMsg.ack line cl ∈ t.net.coh ∧ ∀ x, s.cc cl line = some x → x.st = .shared → t.cc cl line = none)) ∧
  (∀ s line cl keep, flies s (.recall line cl keep) → ∃ t, exec (.recallLine line cl keep) s = .next t ∧ (s.blocker line = none →
    CohMsg.ack line cl ∈ t.net.coh ∧ ∀ x, s.cc cl line = some x → x.st = .exclusive ∨ x.st = .shared →
      if keep then ∃ y, t.cc cl line = some y ∧ y.st = .shared ∧ y.bytes = x.bytes ∧ y.dirty = 0 else t.cc cl line = none)) ∧
  (∀ s line cl, flies s (.grant line cl) → ∃ t, exec (.grant line cl) s = .next t ∧ (s.blocker line = none →
    ∀ x, s.cc cl line = some x → x.st = .pend → x.loggers = [] → ∃ y, t.cc cl line = some y ∧ y.st = .modified ∧ y.dirty = x.dirty ∧
      ∀ o, o < 256 → look 0 y.bytes o = if x.dirty.getLsbD o then look 0 x.bytes o else look 0 (s.homeData line) o)) ∧
  (∀ s line cl, flies s (.done line cl) → ∃ t, exec (.ownCompletion line cl) s = .next t ∧ (s.blocker line = none →
    ∀ x, s.cc cl line = some x → t.cc cl line = some { x with atPkg := true })) ∧
  (∀ s line cl, flies s (.ack line cl) → ∃ t, exec (.acknowledgement line cl) s = .next t ∧ (s.blocker line = none →
    ∀ e w, s.dirEnt line = some e → e.txn = some w → w.waiting.erase cl ≠ [] →
      ∃ f v, t.dirEnt line = some f ∧ f.txn = some v ∧ v.waiting = w.waiting.erase cl ∧ f.st = e.st)) ∧
  (∀ s cl line x, cl < 64 → s.powered = true → s.cc cl line = some x → x.st = .exclusive →
    ∃ t, exec (.eEvictionNotice cl line) s = .next t ∧ t.cc cl line = none ∧ t.mem = s.mem ∧
      ∀ c j, ¬(c = cl ∧ j = line) → t.cc c j = s.cc c j) ∧
  (∀ s cl line x, cl < 64 → s.powered = true → s.cc cl line = some x → x.st = .modified →
    ∃ t, exec (.mWriteBack cl line) s = .next t ∧ t.cc cl line = none ∧
      (s.lostIn line = false → (s.held line).isSome = true → ∀ o, o < 256 → look 0 (t.homeData line) o = look 0 x.bytes o))

/-- LEDGER_PURGE removes exactly the entries of its range from every slice, and ROW_FAILED takes its row's sets out of use. (R233, R245, R246) -/
def Obligations.LedgerPurgeAndFailedRows : Prop :=
  (∀ s lo len, s.mainlandUp = true → ∃ t, exec (.ledgerPurge lo len) s = .next t ∧ { t with slices := s.slices } = s ∧
    ∀ k, k < 64 → (t.slice k).ledger = (s.slice k).ledger.filter (fun l => !(decide (lo ≤ l * 256) && decide (l * 256 < lo + len))) ∧
      { t.slice k with ledger := (s.slice k).ledger } = s.slice k) ∧
  (∀ s k arr m row sets, k < 64 → arr < 3 → s.mainlandUp = true →
    (∃ n ∈ rowNames arr m row sets, n ∈ (s.slice k).rowBad) → ∃ t, exec (.rowFailed k arr m row sets) s = .next t ∧
      (arr = 1 → (∀ x ∈ sets, x < 24576 ∧ (s.slice k).setLines x = []) →
        let used := look 0 (s.slice k).rowSpares (1024 + m) + ((s.slice k).repairing.filter fun r => r.1 == 1 && r.2.1 == m).length
        (∀ x ∈ sets, (t.slice k).setOff x = true) ∧
        (t.slice k).repairing = (s.slice k).repairing ++
          if used < rowSpareMax 1 then [(1, m, row, sets.filter fun x => !(s.slice k).setsOff.contains x)] else []))

/-- REFRESH and SCRUB take their next row or line, PAGE_RETIREMENT retires the page, and a lost channel is mapped out. Where it meets a choice of the model: log 27. (R273, R276, R277, R278, R279, R280, R281) -/
def Obligations.DenseChannelCommands : Prop :=
  (∀ s ch, ch < 576 → s.powered = true → s.inService ch = true → ∃ t, exec (.refresh ch) s = .next t ∧
    (t.channel ch).refreshRow = ((s.channel ch).refreshRow + 1) % 2 ^ 20 ∧
    { t.channel ch with refreshRow := (s.channel ch).refreshRow } = s.channel ch ∧
    (∀ k, k ≠ ch → t.channel k = s.channel k) ∧ { t with channels := s.channels } = s) ∧
  (∀ s ch err, ch < 576 → s.powered = true → s.inService ch = true → ∃ t, exec (.scrub ch err) s = .next t ∧
    (t.channel ch).scrubAt = ((s.channel ch).scrubAt + 1) % 2 ^ 22 ∧
    (err = .none → t.mem = s.mem ∧ t.slices = s.slices ∧ t.clusters = s.clusters ∧ ∀ k, k ≠ ch → t.channel k = s.channel k)) ∧
  (∀ s addr new cause, s.mainlandUp = true → (s.home addr).isSome = true →
    (s.channel (s.homeOfLine (addr / 256)).chan).retireCause (addr / 64) cause = true → s.lostPage (addr / 65536) = false →
    ∃ t, exec (.pageRetirement addr new cause) s = .next t ∧
      (∀ n, new = some n → s.mayMove (addr / 65536) n = true → t.retiredPage (addr / 65536 * 65536) = true) ∧
      ((∀ n, new = some n → s.mayMove (addr / 65536) n = false) → s.lowestFree (addr / 65536) = none →
        addr / 65536 ∈ (t.region (dpaReg addr)).retireWait ∧ { t with regions := s.regions } = s)) ∧
  (∀ s ch, ch < 576 → s.mainlandUp = true → s.inService ch = true → (s.channel ch).lost = false →
    ∃ t, exec (.channelLost ch) s = .next t ∧ (t.channel ch).lost = true ∧
      ∀ r ∈ s.poolRegions ch, (t.region r).memState = 2 ∧ (t.region r).mapOut = some ((s.region r).mapOut.getD ch)) ∧
  (∀ s ch moves pause, ch < 576 → s.mainlandUp = true → s.inService ch = true → s.mapOutDue ch = true →
    (s.region (regionOfChan ch)).mapOut.getD ch = ch → ∃ t, exec (.channelMapOut ch moves pause) s = .next t ∧
      (s.beyond ch = [] → (∀ r ∈ s.poolRegions ch, (t.region r).memState = 0 ∧ (t.region r).mapOut = none) ∧
        (s.slices = [] → s.clusters = [] → s.cores = [] → s.ownerOf ch = none → (s.channel ch).lost = false →
          (t.channel ch).mappedOut = true)))

/-- A link takes flits in order with their check word, asks for a replay on a failure, and retrains and fails as the spec says. Where it meets a choice of the model: log 43, 49. (R303, R304, R305, R306, R307, R308, R446) -/
def Obligations.LinkFlitsArriveInOrder : Prop :=
  let sends (s : State) (ep : Nat) (f : Flit) (n : BitVec 16) : Prop :=
    let p := s.net.link (peerEp ep)
    s.powered = true ∧ isEp ep = true ∧ s.linkRuns ep = true ∧
    (p.resend = [] ∧ p.kept.length < 1024 ∧ (f.kind = 1 → look 0 p.credits f.fifo ≠ 0) ∧ n = p.txSeq ∨
      ∃ g r, p.resend = (n, g) :: r ∧ { f with crc := g.crc } = g)
  let taken (s t : State) (ep : Nat) (f : Flit) (n : BitVec 16) : Prop :=
    let e := s.net.link ep
    let p := s.net.link (peerEp ep)
    (t.net.link (peerEp ep)).txSeq = (if p.resend = [] then n + 1 else p.txSeq) ∧
    (t.net.link (peerEp ep)).resend = p.resend.drop 1 ∧ (∀ k, k ≠ ep → k ≠ peerEp ep → t.net.link k = s.net.link k) ∧
    { t with net := s.net } = s ∧
    if e.discarding then t.net.link ep = e
    else if f.crc = linkCrc ep n f ∧ n = e.rxSeq then (t.net.link ep).rxSeq = e.rxSeq + 1 ∧ (t.net.link ep).failRun = 0 ∧
      (t.net.link ep).inbox = e.inbox ++ if f.kind = 1 then [f] else []
    else (t.net.link ep).discarding = true ∧ (t.net.link ep).rxSeq = e.rxSeq ∧ (t.net.link ep).inbox = e.inbox ∧
      (t.net.link ep).failRun = e.failRun + 1 ∧ (t.net.link ep).crcErr = bump 48 e.crcErr
  (∀ s ep g n, let f := { g with kind := 0 }
    sends s ep f n → ∃ t, exec (.linkIdleFlit ep g) s = .next t ∧ taken s t ep f n) ∧
  (∀ s ep g n, let f := { g with kind := 1 }
    sends s ep f n → ∃ t, exec (.linkMessageFlit ep g) s = .next t ∧ taken s t ep f n) ∧
  (∀ s ep f, s.powered = true → isEp ep = true → s.linkRuns ep = true → (s.net.link (peerEp ep)).replayReq = some f.ack →
    ∃ t, exec (.linkReplayRequest ep f) s = .next t ∧
      if f.crc = linkCrc ep (s.net.link ep).rxSeq { f with kind := 2 } then
        (t.net.link ep).resend = afterAck f.ack (s.net.link ep).kept ∧
        (t.net.link (peerEp ep)).discarding = false ∧ (t.net.link (peerEp ep)).replayReq = none
      else (t.net.link ep).crcErr = bump 48 (s.net.link ep).crcErr ∧ (t.net.link ep).resend = (s.net.link ep).resend) ∧
  (∀ s ep lane, s.powered = true → isEp ep = true → s.linkRuns ep = true →
    (16 ≤ (s.net.link ep).failRun ∨ 0 < (s.net.link ep).corrRate) →
    ∃ t, exec (.linkRetrain ep lane) s = .next t ∧ (t.net.link ep).retraining = true ∧ (t.net.link (peerEp ep)).retraining = true ∧
      ∀ l, lane = some l → l ∈ (t.net.link ep).badLanes) ∧
  (∀ s ep f, s.powered = true → isEp ep = true → (s.net.link ep).up = true → (s.net.link ep).retraining = true →
    ∃ t, exec (.linkRetrainMarker ep f) s = .next t ∧ (t.net.link ep).rxSeq = (s.net.link ep).rxSeq ∧
      if f.crc = linkCrc ep (s.net.link ep).rxSeq { f with kind := 3 } then
        (t.net.link ep).retraining = false ∧ (t.net.link ep).discarding = false ∧ (t.net.link ep).failRun = 0
      else (t.net.link ep).retraining = true ∧ (t.net.link ep).crcErr = bump 48 (s.net.link ep).crcErr) ∧
  (∀ s ep cause, s.mainlandUp = true → isEp ep = true → (s.net.link ep).up = true →
    (cause ≠ 1 ∨ (s.net.link ep).spareLanes = 0 ∧ epSpares ep < (s.net.link ep).badLanes.length) →
    ∃ t, exec (.linkDown ep cause) s = .next t ∧
    (t.net.link ep).up = false ∧ (t.net.link (peerEp ep)).up = false ∧ ∀ k, k ≠ ep → k ≠ peerEp ep → t.net.link k = s.net.link k)

/-- The idle spine clock, the rewritten distance table and the retry of a resetting target change exactly what they say. Where it meets a choice of the model: log 28. (R300, R317, R321) -/
def Obligations.SpineAndDistanceTable : Prop :=
  (∀ s r, r < 8 → s.powered = true → (s.region r).spineIdle = false →
    (∀ i, i < 8 → (s.cluster (r * 8 + i)).clk = .gated ∨ (s.cluster (r * 8 + i)).clk = .off) →
    ∃ t, exec (.spineClockIdle r) s = .next t ∧ (t.region r).spineIdle = true ∧ (t.region r).spineMhz = 300 ∧
      { t.region r with spineIdle := (s.region r).spineIdle, spineMhz := (s.region r).spineMhz } = s.region r ∧
      (∀ q, q ≠ r → t.region q = s.region q) ∧ { t with regions := s.regions } = s) ∧
  (∀ s, s.mainlandUp = true → s.net.dtDue = true → s.net.dtCfg.getLsbD 0 = true → ∃ t, exec .distanceTableRewrite s = .next t ∧
    t.net.dtGen = s.net.dtGen + 2 ∧ t.net.dtDue = false ∧ t.mem = s.mem ∧ t.cores = s.cores ∧ t.lcores = s.lcores) ∧
  (∀ s cl, cl < 64 → s.powered = true → cl ∈ s.net.retries → ∃ t, exec (.targetResettingRetry cl) s = .next t ∧
    t.net.retries = (if (s.cluster cl).inReset then s.net.retries else s.net.retries.erase cl) ∧
    { t with net := s.net } = s)

/-- Straits take flits in order, replay, train, retrain, move failed lanes, go down, and follow their laser inputs. Where it meets a choice of the model: log 32, 33. (R307, R325, R326, R327, R329, R330, R331, R332, R333) -/
def Obligations.StraitCommands : Prop :=
  let up (s : State) (i : Nat) : Prop := i < 16 ∧ s.powered = true ∧ (s.fab.strait i).up = true
  let good (s : State) (i : Nat) (f : SFlit) : Prop := f.crc = straitCrc s.fab.foldId i (s.fab.strait i).rxSeq f
  let arrives (mk : Nat → SFlit → Nat → Bool → Bool → Instr) (kind : BitVec 4) : Prop :=
    ∀ s i g fec unc rep, up s i → ∃ t, exec (mk i g fec unc rep) s = .next t ∧
      let f := { g with kind := kind }
      let x := s.fab.strait i
      let y := t.fab.strait i
      if unc then y.discarding = true ∧ y.rxSeq = x.rxSeq ∧ y.fecUncorr = bump 48 x.fecUncorr
      else if x.discarding ∧ rep = false then y.discarding = true ∧ y.rxSeq = x.rxSeq ∧ t.fab.inbox = s.fab.inbox
      else if good s i f then y.rxSeq = x.rxSeq + 1 ∧ y.failRun = 0 ∧ y.discarding = false
      else y.discarding = true ∧ y.rxSeq = x.rxSeq ∧ y.failRun = x.failRun + 1 ∧ y.crcErr = bump 48 x.crcErr ∧ t.fab.inbox = s.fab.inbox
  arrives .straitIdleFlit 0 ∧ arrives .straitBodyFlit 1 ∧
  (∀ s i f, up s i → ∃ t, exec (.straitReplayRequest i f) s = .next t ∧
    if good s i { f with kind := 2 } then (t.fab.strait i).resend = afterAck f.ack (s.fab.strait i).kept
    else (t.fab.strait i).crcErr = bump 48 (s.fab.strait i).crcErr ∧ (t.fab.strait i).resend = (s.fab.strait i).resend) ∧
  (∀ s i, up s i → ∃ t, exec (.straitDown i) s = .next t ∧ (t.fab.strait i).up = false ∧ (t.fab.strait i).kept = []) ∧
  (∀ s i id port v, i < 16 → s.powered = true → (s.fab.engine (i / 4)).lit = true → (s.fab.engine (i / 4)).dark = false →
    (s.fab.strait i).up = false → id < 4096 → port < 16 → ∃ t, exec (.straitTrained i id port v) s = .next t ∧
      let y := t.fab.strait i
      y.up = true ∧ y.peerId.toNat = id ∧ y.peerPort.toNat = port ∧ y.peerValid = v ∧ y.txSeq = 0 ∧ y.rxSeq = 0 ∧ y.kept = []) ∧
  (∀ s i, up s i → 16 ≤ (s.fab.strait i).failRun → ∃ t, exec (.straitRetrain i) s = .next t ∧
    t = s.modStrait i fun x => { x with holding := true }) ∧
  (∀ s i f, up s i → ∃ t, exec (.straitRetrainMarker i f) s = .next t ∧
    if good s i { f with kind := 3 } then
      (t.fab.strait i).holding = false ∧ (t.fab.strait i).discarding = false ∧ (t.fab.strait i).swapLane = none ∧
      (t.fab.strait i).resend = afterAck f.ack (s.fab.strait i).kept
    else (t.fab.strait i).crcErr = bump 48 (s.fab.strait i).crcErr ∧ (t.fab.strait i).holding = (s.fab.strait i).holding) ∧
  (∀ s i lane, up s i → (lane < 8 ∧ (s.fab.strait i).rxBad.getLsbD lane = false ∨ lane = 8 ∧ (s.fab.strait i).spareUsed = true) →
    ∃ t, exec (.laneFailure i lane) s = .next t ∧
      (lane < 8 → (s.fab.strait i).spareUsed = false → (s.fab.strait i).swapLane = none → (s.fab.strait i).half = false →
        (t.fab.strait i).rxBad.getLsbD lane = true ∧ (t.fab.strait i).swapLane = some (BitVec.ofNat 3 lane) ∧
        (t.fab.strait i).holding = true)) ∧
  (∀ s i f, up s i → ∃ t, exec (.laneMapChange i f) s = .next t ∧
    let lane := fld f.ctrl 0 8
    (good s i { f with kind := 4 } → lane < 8 → fld f.ctrl 8 8 = 8 → (t.fab.strait i).txSpareUsed = true ∧
      (t.fab.strait i).holding = true ∧ (t.fab.strait i).txBad.getLsbD lane = true) ∧
    (¬good s i { f with kind := 4 } → t = s.modStrait i fun x => { x with crcErr := bump 48 x.crcErr })) ∧
  (∀ s oe g low, oe < 4 → s.powered = true → (s.fab.engine oe).lit = true → g < 4 → low < 4 →
    ∃ t, exec (.laserSample oe g low) s = .next t ∧
      (g = 0 → (t.fab.engine oe).dark = true ∧
        ((s.fab.engine oe).dark = false → ∀ k, k < 4 → (t.fab.strait (4 * oe + k)).up = false)) ∧
      (let a := if (s.fab.engine oe).laserB then 1 else 0
       low.testBit a = true → (s.fab.engine oe).low.getLsbD a = true → g.testBit (1 - a) = true →
        (t.fab.engine oe).laserB = !(s.fab.engine oe).laserB ∧ (t.fab.engine oe).dark = false))

/-- FAB_ID claims, takes and gives back an ID, and the switch floods, marks and forwards as the link state says. Where it meets a choice of the model: log 31, 34, 36, 51. (R334, R335, R336, R337, R345, R364) -/
def Obligations.FabricIdentityAndRoutes : Prop :=
  (∀ s port id, PkbOpen s port → id < 4096 → ∃ t, exec (.fabJoin port id) s = .next t ∧ (t.port port).pkbBusy = true ∧
    (s.fab.joined = false → s.fab.claim = none → t.fab.claim = some (BitVec.ofNat 12 id) ∧ t.fab.reject = false ∧ t.fab.joined = false) ∧
    (s.fab.joined = true ∨ s.fab.claim ≠ none → t.fab.reject = true ∧ t.fab.claim = s.fab.claim ∧ t.fab.idApplied = s.fab.idApplied)) ∧
  (∀ s port id, PkbOpen s port → id < 4096 → ∃ t, exec (.fabLeave port id) s = .next t ∧ (t.port port).pkbBusy = true ∧
    (s.fab.claim ≠ none → t.fab.claim = none) ∧
    (s.fab.claim = none → s.fab.joined = true →
      (s.fabWork = true → t.fab.reject = true ∧ t.fab.joined = true ∧ t.fab.idApplied = s.fab.idApplied) ∧
      (s.fabWork = false → t.fab.joined = false ∧ s.fab.idApplied.toNat ∈ t.fab.marks))) ∧
  (∀ s id, s.mainlandUp = true → s.fab.claim = some id → ∃ t, exec .claimTimeout s = .next t ∧ t.fab.joined = true ∧
    t.fab.idApplied = id ∧ t.fab.claim = none ∧ id.toNat ∉ t.fab.marks) ∧
  (∀ s, s.mainlandUp = true → s.fab.joined = true → ∃ t, exec .linkstateFlood s = .next t ∧ t.mem = s.mem ∧ t.cores = s.cores) ∧
  (∀ s i m, i < 16 → s.powered = true → (m.aux = 0 → s.addressed m = true) → ∃ t, exec (.sync i m) s = .next t ∧
    (m.aux ≠ 0 → m.aux ≠ 1 → s.fab.claim = some (BitVec.ofNat 12 (m.chunk.toNat % 4096)) →
      t.fab.claim = none ∧ t.fab.reject = true)) ∧
  (∀ s i m, i < 16 → s.powered = true → s.fab.forwarding = true → ∃ t, exec (.throughTraffic i m) s = .next t ∧
    let mine : Prop := s.fab.joined = true ∧ m.dst = s.fab.idApplied
    (mine → m ∈ t.fab.inbox ∧ t.fab.hopDrop = s.fab.hopDrop ∧ t.fab.straits = s.fab.straits) ∧
    (¬mine → 8 ≤ m.hops.toNat → t.fab.hopDrop = s.fab.hopDrop + 1 ∧ t.fab.straits = s.fab.straits)) ∧
  (∀ s id, id < 4096 → s.powered = true → id ∈ s.fab.marks → ∃ t, exec (.releaseMarkExpiry id) s = .next t ∧
    t.fab.marks = s.fab.marks.filter (· != id) ∧ { t with fab := { t.fab with marks := s.fab.marks } } = s)

/-- A numbered message is performed exactly if its counter is the expected one; a repeat and a gap are counted and answered. Where it meets a choice of the model: log 34, 50. (R336, R342, R343, R345, R351, R353, R360) -/
def Obligations.FabricMessagesOnTheirFlow : Prop :=
  let arrives (mk : FMsg → Instr) (kind : BitVec 4) (edit : FMsg → FMsg) (act : FMsg → State → State) : Prop :=
    ∀ s m, s.addressed m = true → ∃ t, exec (mk m) s = .next t ∧
      let k := flowKey m.src.toNat (tcOfKind kind.toNat)
      let x := (s.fab.flow k).rxNext
      if m.alive = x then ∃ u, t = act { edit m with kind := kind, tc := BitVec.ofNat 2 (tcOfKind kind.toNat) } u ∧
        (u.fab.flow k).rxNext = x + 1 ∧ (u.fab.reqs = s.fab.reqs ∧ u.fab.colls = s.fab.colls ∧ u.fab.linkState = s.fab.linkState) ∧
        u.mem = s.mem ∧ u.slices = s.slices ∧ u.clusters = s.clusters ∧ u.cores = s.cores ∧ u.queues = s.queues
      else (t.fab.flow k).rxNext = x ∧ t.mem = s.mem ∧ t.slices = s.slices ∧ t.clusters = s.clusters ∧ t.cores = s.cores ∧
        if (x - m.alive).toNat ≤ 32768 then t.fab.repeats = s.fab.repeats + 1 ∧ t.fab.gaps = s.fab.gaps
        else t.fab.gaps = s.fab.gaps + 1 ∧ t.fab.repeats = s.fab.repeats
  let own := fun m : FMsg => m
  arrives .put 0 own (fun m s => s.answer m) ∧ arrives .get 1 own (fun m s => s.answer m) ∧
  arrives .atomic 2 own (fun m s => s.answer m) ∧ arrives .notify 3 own (fun m s => s.answer m) ∧
  arrives .getData 4 own (fun m s => s.takeAnswer m) ∧ arrives .atomicRet 5 own (fun m s => s.takeAnswer m) ∧
  arrives .resp 6 own (fun m s => s.takeStatus m) ∧
  arrives .coll 7 own (fun m s => if m.rop = 3 then s.guardChunk m else if m.stage = 3 then s.collAborted m.collId.toNat
    else s.collArrive m) ∧
  arrives .collectiveAbort 7 (fun m => { m with stage := 3, rop := if m.rop = 3 then 0 else m.rop })
    (fun m s => s.collAborted m.collId.toNat) ∧
  arrives .heartbeat 8 own (fun m s => s.onGuard fun g => { g with beats := put 0 g.beats m.src.toNat 0 }) ∧
  arrives .linkstate 9 own (fun m s => s.takeLinkState m) ∧
  (∀ s m, s.addressed m = true → m.alive = (s.fab.flow (flowKey m.src.toNat 3)).rxNext →
    ∃ t, exec (.heartbeat m) s = .next t ∧ look 0 t.fab.guard.heard m.src.toNat = 0 ∧ look 0 t.fab.guard.beats m.src.toNat = 0) ∧
  (∀ s m, s.addressed m = true → m.alive = (s.fab.flow (flowKey m.src.toNat 3)).rxNext →
    m.aux = 0 → look [] s.fab.linkState (m.chunk.toNat % 4096) ≠ m.peerList →
    ∃ t, exec (.linkstate m) s = .next t ∧ look [] t.fab.linkState (m.chunk.toNat % 4096) = m.peerList)

/-- ACK frees kept messages, NAK and the retransmit timeout send them again, and requests are retried or end. Where it meets a choice of the model: log 34. (R342, R344, R345) -/
def Obligations.FlowControlAndRetries : Prop :=
  (∀ s m, s.addressed m = true →
    let k := flowKey m.src.toNat (m.aux.toNat % 4)
    ∃ t, exec (.ack m) s = .next t ∧ ((s.fab.flow k).held = [] →
      (t.fab.flow k).kept = (if ∃ y ∈ (s.fab.flow k).kept, y.alive = m.alive
        then ((s.fab.flow k).kept.dropWhile fun y => y.alive != m.alive).drop 1 else (s.fab.flow k).kept) ∧
      (t.fab.flow k).rxNext = (s.fab.flow k).rxNext ∧ (t.fab.flow k).txNext = (s.fab.flow k).txNext ∧ t.fab.retx = s.fab.retx)) ∧
  (∀ s m, s.addressed m = true →
    let k := flowKey m.src.toNat (m.aux.toNat % 4)
    ∃ t, exec (.nak m) s = .next t ∧ ((s.fab.flow k).held = [] →
      let rest := if ∃ y ∈ (s.fab.flow k).kept, y.alive = m.alive
        then (s.fab.flow k).kept.dropWhile fun y => y.alive != m.alive else (s.fab.flow k).kept
      (t.fab.flow k).kept = rest ∧ t.fab.retx = s.fab.retx + rest.length)) ∧
  (∀ s peer tc, peer < 4096 → tc < 4 → s.powered = true → s.fab.joined = true → 0 < (s.fab.flow (flowKey peer tc)).unacked →
    ∃ t, exec (.ackTimer peer tc) s = .next t ∧ (t.fab.flow (flowKey peer tc)).unacked = 0 ∧
      (t.fab.flow (flowKey peer tc)).rxNext = (s.fab.flow (flowKey peer tc)).rxNext) ∧
  (∀ s peer tc, peer < 4096 → tc < 4 → s.powered = true → s.fab.joined = true → (s.fab.flow (flowKey peer tc)).kept ≠ [] →
    ∃ t, exec (.retransmitTimeout peer tc) s = .next t ∧ t.fab.flows = s.fab.flows ∧
      t.fab.retx = s.fab.retx + (s.fab.flow (flowKey peer tc)).kept.length) ∧
  (∀ s tag r, s.powered = true → s.fab.joined = true →
    s.fab.reqs.find? (fun r => r.tag == tag && r.retry.isSome) = some r → ∃ t, exec (.fabricRetry tag) s = .next t ∧
      (∀ x ∈ t.fab.reqs, x.tag = tag → x.retry = none) ∧ t.fab.reqs.length = s.fab.reqs.length) ∧
  (∀ s tag r, s.powered = true → s.fab.reqs.find? (fun r => r.tag == tag && r.answer.isNone && r.status.isNone) = some r →
    ∃ t, exec (.noAnswerTimeout tag) s = .next t ∧
      ∀ q i, r.who = .desc q i → (∀ x ∈ t.fab.reqs, x.who ≠ .desc q i) ∧
        ∀ d, s.desc? q i = some d → d.phase = .running → Ended t q i stLost 0)

/-- A guard message of this package's domain, taken in order, has the effect of its command; any other is only taken. Where it meets a choice of the model: log 34, 39, 52. (R356, R358, R359, R360, R361, R366) -/
def Obligations.GuardMessages : Prop :=
  let acts (s : State) (m : FMsg) : Prop := s.addressed m = true ∧ m.alive = (s.fab.flow (flowKey m.src.toNat 3)).rxNext ∧
    s.fab.guard.inForce = true ∧ s.fab.guard.domain = m.collId.toNat
  let taken (mk : FMsg → Instr) : Prop := ∀ s m, s.addressed m = true → ∃ t, exec (mk m) s = .next t ∧
    (s.fab.guard.inForce = false ∨ s.fab.guard.domain ≠ m.collId.toNat ∨ m.alive ≠ (s.fab.flow (flowKey m.src.toNat 3)).rxNext →
      t.mem = s.mem ∧ t.queues = s.queues ∧ t.cores = s.cores)
  taken .arrive ∧ taken .point ∧ taken .commitP ∧ taken .commitQ ∧ taken .halt ∧ taken .resume ∧
  taken .guardLeave ∧ taken .takeover ∧
  (∀ s m, acts s m → s.fab.guard.setup = false → ∃ t, exec (.point m) s = .next t ∧ t.fab.guard.gen = m.aux.toNat / 16 ∧
    t.fab.guard.arrived = []) ∧
  (∀ s m, acts s m → s.fab.guard.setup = false → ∃ t, exec (.commitP m) s = .next t ∧ t.fab.guard.target = s.fab.guard.gen) ∧
  (∀ s m, acts s m → (∀ q op, s.guardDesc q op = none) → ∃ t, exec (.commitQ m) s = .next t ∧ t.fab.guard.joined = true ∧
    t.fab.guard.setup = false ∧ t.fab.guard.phase = .idle) ∧
  (∀ s m, acts s m → m.stage ≠ 2 → ∃ t, exec (.halt m) s = .next t ∧ t.fab.guard.halted = true ∧
    t.fab.guard.target = m.aux.toNat / 16) ∧
  (∀ s m, acts s m → m.stage = 2 → ∃ t, exec (.halt m) s = .next t ∧ t.fab.guard.joined = false ∧ t.fab.guard.halted = false) ∧
  (∀ s m, acts s m → m.rop = 0 → ∃ t, exec (.resume m) s = .next t ∧
    if m.stage = 1 then t.fab.guard.redoing = false ∧ t.fab.guard.halted = s.fab.guard.halted
    else t.fab.guard.halted = false ∧ t.fab.guard.lostIds = [])

/-- The guard's timers fire on their conditions, and GUARD descriptors end where the group cannot serve them. Where it meets a choice of the model: log 40. (R335, R358, R360, R361, R363, R366, R391, R434) -/
def Obligations.GuardTimersAndDescriptors : Prop :=
  (∀ s, s.mainlandUp = true → s.fab.joined = true → s.fab.guard.inForce = true → ∃ t, exec .heartbeatTimer s = .next t ∧
    ∀ p, look 0 t.fab.guard.heard p = look 0 s.fab.guard.heard p + (if p ∈ s.groupPeers then 1 else 0) ∧
      look 0 t.fab.guard.beats p = look 0 s.fab.guard.beats p + (if p ∈ s.groupPeers then 1 else 0)) ∧
  (∀ s, s.mainlandUp = true → s.fab.joined = true → s.fab.guard.inForce = true →
    (∀ p ∈ s.groupPeers, 3 ≤ look 0 s.fab.guard.beats p) → ∃ t, exec .selfFence s = .next t ∧ t.fab.joined = false ∧
      t.fab.guard.joined = false) ∧
  (∀ s id, id < 4096 → s.mainlandUp = true → s.fab.joined = true → s.fab.guard.inForce = true →
    s.fab.guard.groupCoord = some s.myId → id ∈ s.groupPeers → 5 ≤ look 0 s.fab.guard.heard id →
    ∃ t, exec (.lossDeclared id) s = .next t) ∧
  (∀ s, s.mainlandUp = true → s.fab.joined = true → s.fab.guard.inForce = true → s.fab.guard.unspared = true → ∃ t, exec .noSpareTimeout s = .next t ∧ t.fab.guard.joined = false) ∧
  (∀ s lo n x j, s.mainlandUp = true → s.fab.joined = true → s.fab.guard.joined = true → x ∈ s.lost →
    s.guardedPage x.addr = some j → lo ≤ j → j < lo + n → s.lossSource x.addr ≠ 0 →
    (s.fab.guard.role < s.fab.guard.k ∨ s.fab.guard.role = 16 ∨ s.fab.guard.role = 17) →
    ∃ t, exec (.pageRebuild lo n) s = .next t ∧ (s.fab.guard.role < s.fab.guard.k → 16384 < n → t.fab.joined = false)) ∧
  (∀ (i : Instr) s q (d : Desc) op, InProgress s q d 10 → (i = .guardSetup q d.index.toNat ∧ op = 0 ∨ i = .guardPoint q d.index.toNat ∧ op = 1 ∨
      i = .guardAdopt q d.index.toNat ∧ op = 2) →
    (fld d.bits 32 2 = op → ∃ t, exec i s = .next t ∧
      (fld d.bits 64 64 % 64 ≠ 0 → Ended t q d.index.toNat stBadDesc 0) ∧
      (fld d.bits 64 64 % 64 = 0 → s.fab.joined = false → Ended t q d.index.toNat stAccess 0) ∧
      (fld d.bits 64 64 % 64 = 0 → s.fab.joined = true → op = 1 → (s.queue q).guarded = false → Ended t q d.index.toNat stBadDesc 0)) ∧
    (fld d.bits 32 2 = 3 → op = 0 → ∃ t, exec i s = .next t ∧ Ended t q d.index.toNat stBadDesc 0))

/-- A port goes down and up with its link and PERST, a function-level reset ends its queues, and BAR2 answers as its window says. Where it meets a choice of the model: log 63, 69, 72. (R370, R374, R377, R401, R494, R503, R508) -/
def Obligations.HostPortsAndResets : Prop :=
  (∀ s n, n < 2 → s.skerryUp = true → (s.port n).up = true →
    ∃ t, exec (.portLinkDown n) s = .next t ∧ (s.queues = [] → (t.port n).up = false)) ∧
  (∀ s n cxl, n < 2 → s.skerryUp = true → s.portThere n = true → (s.port n).up = false → (s.port n).perstN = true →
    s.boot.state ≠ .reset → s.boot.tripLayer = 0 → ∃ t, exec (.portLinkUp n cxl) s = .next t ∧ (t.port n).up = true ∧
      (t.port n).cxl = cxl) ∧
  (∀ s n, n < 2 → (s.port n).perstN = true → ∃ t, exec (.perst n) s = .next t ∧
    (s.boot.state ≠ .ready ∨ s.queues = [] → (t.port n).perstN = false ∧ (t.port n).up = false)) ∧
  (∀ s n cxl, n < 2 → (s.port n).perstN = false → ∃ t, exec (.perstRelease n cxl) s = .next t ∧ (t.port n).perstN = true ∧
    (s.skerryUp = true → s.portThere n = true → s.boot.state ≠ .reset → s.boot.tripLayer = 0 →
      (t.port n).up = true ∧ (t.port n).cxl = cxl) ∧ (∀ k, k ≠ n → t.port k = s.port k)) ∧
  (∀ s port fn, port < 2 → fn < 32 → s.skerryUp = true → s.fnThere port fn = true →
    ∃ t, exec (.functionLevelReset port fn) s = .next t ∧ (s.boot.tripLayer ≠ 0 → t = s) ∧
      ((∀ q, (s.queue q).descs = [] ∧ (s.queue q).guarded = false) → s.boot.tripLayer = 0 → s.multipath = false → fn ≠ 0 →
        ∀ q, q < 64 → (t.queue (fnKey port fn * 64 + q)).enabled = false)) ∧
  (∀ s port fn off, port < 2 → fn < 32 → s.skerryUp = true → s.fnThere port fn = true → (s.port port).up = true →
    let fits (n : Nat) : Prop := off + n ≤ 2 ^ (s.func (s.fnOf port fn)).bar2Log2
    let open_ : Prop := s.boot.state = .ready ∧ (s.func (s.fnOf port fn)).window = true
    (∀ n, fits n → ∃ t, exec (.bar2Read port fn off n) s = .next t ∧ (¬open_ → (t.port port).answer = none) ∧
      (open_ → let x := s.gRead (s.barCtx port fn) 0 ((s.func (s.fnOf port fn)).bar2Base + off) n
        x.lost = none → x.bad = none → x.wait = false → (t.port port).answer = some x.data)) ∧
    (∀ d, fits d.length → ∃ t, exec (.bar2Write port fn off d) s = .next t ∧ (¬open_ → t.mem = s.mem ∧ t.slices = s.slices)) ∧
    (∀ op n x y, fits n → ∃ t, exec (.bar2Atomicop port fn off op n x y) s = .next t ∧
      (¬open_ → (t.port port).answer = none ∧ t.mem = s.mem ∧ t.slices = s.slices)))

/-- A queue starts only if no cause of Table 11.11 holds, fetches in order, and stops with a disable or its timeout. Where it meets a choice of the model: log 6. (R378, R380, R381, R384, R386, R387, R547) -/
def Obligations.QueuesEnableFetchAndDisable : Prop :=
  (∀ s q e ws, q < queueCount → ∃ t, exec (.queueEnable q e ws) s = .next t ∧
    (ws = [] → s.queueThere q = true → (s.queue q).busy = false → (s.queue q).enabled = false →
      (t.queue q).busy = true ∧
      (∀ c r, s.enableCauses q = c :: r → (t.queue q).err = BitVec.ofNat 8 c ∧ (t.queue q).enabled = false) ∧
      (s.enableCauses q = [] → (t.queue q).enabled = true ∧ (t.queue q).set.epoch = BitVec.ofNat 16 e))) ∧
  (∀ s q, q < queueCount → ∃ t, exec (.queueDisable q) s = .next t ∧
    (s.queueThere q = true → (s.queue q).busy = false → (s.queue q).enabled = true →
      (s.queue q).guarded = false → (s.queue q).descs = [] →
      ((s.queue q).waiting = [] → (t.queue q).enabled = false ∧ (t.queue q).busy = false) ∧
      ((s.queue q).waiting ≠ [] → (t.queue q).disabling = true ∧ (t.queue q).busy = true))) ∧
  (∀ s q, q < queueCount → (s.queue q).enabled = true → (s.queue q).disabling = true → ∃ t, exec (.disableTimeout q) s = .next t ∧
    (t.queue q).enabled = false ∧ (t.queue q).busy = false ∧ (t.queue q).descs = [] ∧ (t.queue q).waiting = [] ∧
    ((s.queue q).descs = [] → (s.queue q).waiting = [] → (t.queue q).dropped = 0 ∧ ∀ k, k ≠ q → t.queue k = s.queue k)) ∧
  (∀ (i : Instr) s q ws, q < queueCount → s.mainlandUp = true → (s.queue q).watching = true →
    (i = .doorbellInvalidation q ws ∧ (s.port (s.queuePort q)).cxl = true ∨
      i = .doorbellPoll q ws ∧ (s.port (s.queuePort q)).cxl = false) →
    ∃ t, exec i s = .next t ∧ t.mem = s.mem ∧ t.cores = s.cores ∧ (t.queue q).fetch = (s.queue q).fetch) ∧
  (∀ s q n ws, q < queueCount → s.mainlandUp = true → (s.queue q).enabled = true → (s.queue q).active = true →
    (s.queue q).disabling = false → (s.queue q).halted = false →
    (s.func (s.fnOf (q / 2048) (q / 64 % 32))).queHold.getLsbD (q % 64) = false → 1 ≤ n → n ≤ 8 →
    n ≤ ((s.queue q).prod - (s.queue q).fetch).toNat → ∃ t ds, exec (.descriptorFetch q n ws) s = .next t ∧
      (t.queue q).descs = (s.queue q).descs ++ ds ∧ ds.length = n ∧
      (∀ k, k < n → ∃ d, ds[k]? = some d ∧ d.index = (s.queue q).fetch + BitVec.ofNat 32 k ∧ d.phase = .fetched) ∧
      (t.queue q).fetch = (s.queue q).fetch + BitVec.ofNat 32 n ∧ ∀ k, k ≠ q → t.queue k = s.queue k) ∧
  (∀ s q, q < queueCount → s.mainlandUp = true → (s.queue q).enabled = true → ∃ t, exec (.completionTimeout q none none) s = .next t ∧
    ((s.queue q).active = true → (t.queue q).active = false ∧ (t.queue q).err = 5) ∧
    ((s.queue q).active = false → t.queue q = s.queue q) ∧ ∀ k, k ≠ q → t.queue k = s.queue k) ∧
  (∀ s q d opc, InProgress s q d opc → (s.queue q).enabled = true → opc ≠ 1 ∨ d.launch.loaded = false →
    ∃ t, exec (.completionTimeout q (some d.index.toNat) none) s = .next t ∧
      (s.collOfDesc q d.index.toNat = none → Ended t q d.index.toNat stAccess 0)) ∧
  (∀ s q i l k, q < queueCount → s.mainlandUp = true → (s.queue q).enabled = true → (s.core l).task = some k → k.queue = q →
    k.phase = .running → ∃ t, exec (.completionTimeout q i (some l)) s = .next t)

/-- Descriptors in progress run their step, and end with the status that their fields, their order or their work gives. Where it meets a choice of the model: log 62, 65, 66. (R16, R388, R390, R391, R402, R418, R424) -/
def Obligations.DescriptorsRunAndEnd : Prop :=
  let ends (opc : Nat) (mk : Nat → Nat → Instr) (bad : Desc → Prop) : Prop := ∀ s q d, InProgress s q d opc →
    ∃ t, exec (mk q d.index.toNat) s = .next t ∧ (bad d → Ended t q d.index.toNat stBadDesc 0)
  (∀ s q d, InProgress s q d 0 → ∃ t, exec (.nopDescriptor q d.index.toNat) s = .next t ∧
    Ended t q d.index.toNat (if d.recov = 0 then stDone else stRecovered) 0 ∧ { t with queues := s.queues } = s) ∧
  (∀ s q d, InProgress s q d 1 → d.launch.loaded = false → ∃ t, exec (.launch q d.index.toNat) s = .next t ∧
    ∀ st, worstOf (s.launchBad q d) = some st → Ended t q d.index.toNat st 0) ∧
  (∀ n, ends 2 (fun q i => .copy q i n) fun d => d.copySrc.len = 0 ∨ d.notifyAt % 8 ≠ 0) ∧
  (∀ n, ends 3 (fun q i => .fill q i n) fun d => d.fillBytes = 0 ∨ d.fillBytes % d.patSize ≠ 0 ∨ fld d.bits 64 64 % d.patSize ≠ 0) ∧
  (∀ s q d n, InProgress s q d 4 → d.check.onUnit = true → ∃ t, exec (.check q d.index.toNat n) s = .next t ∧
    (4 ≤ d.chkAlg ∨ d.chkBytes = 0 ∨ 2 ^ 48 < d.chkBytes → Ended t q d.index.toNat stBadDesc 0)) ∧
  (∀ s s' q i d n, s.mainlandUp = true → q < queueCount → s.live? q i = some d → d.phase = .fetched → d.lostWait = false →
    s.mayStart q d = true →
    (s.hubChoose 0 = some (q, i, s') → s.copyFree = true → (d.opc = 2 → ∃ t, exec (.copy q i n) s = .next t) ∧
      (d.opc = 3 → ∃ t, exec (.fill q i n) s = .next t)) ∧
    (s.hubChoose 1 = some (q, i, s') → s.unitFree = true → d.check.onUnit = false → d.opc = 4 →
      ∃ t, exec (.check q i n) s = .next t)) ∧
  ends 5 .collective (fun _ => False) ∧
  (∀ s q d, InProgress s q d 6 → ∃ t, exec (.fenceDescriptor q d.index.toNat) s = .next t ∧
    (fld d.bits 32 2 < 2 → Ended t q d.index.toNat stBadDesc 0) ∧
    (2 ≤ fld d.bits 32 2 → s.allBefore q d.index.toNat = true →
      Ended t q d.index.toNat (if d.recov = 0 then stDone else stRecovered) 0) ∧
    (2 ≤ fld d.bits 32 2 → s.allBefore q d.index.toNat = false → t = s)) ∧
  (∀ s q d, InProgress s q d 7 → ∃ t, exec (.signal q d.index.toNat) s = .next t ∧
    (d.wordAt % 8 ≠ 0 → Ended t q d.index.toNat stBadDesc 0) ∧
    (d.wordAt % 8 = 0 → s.allBefore q d.index.toNat = false → t = s)) ∧
  ends 8 .wait (fun d => d.wordAt % 8 ≠ 0 ∨ fld d.bits 32 2 = 3) ∧ ends 8 .waitRecheck (fun _ => False)

/-- MAP descriptors map, export, protect and unmap exactly the pages of their range, or end with the status that refuses them. Where it meets a choice of the model: log 15, 41. (R348, R389, R391, R580, 11_host_ports_queues_and_engines.md Table 11.18) -/
def Obligations.MapDescriptors : Prop :=
  let asid (s : State) (q : Nat) : Nat := (s.queue q).set.asid
  let good (s : State) (q : Nat) (d : Desc) (op : Nat) : Prop := InProgress s q d 9 ∧ d.mapOp = op ∧ d.mapBad = false ∧ d.recov = 0
  let fresh (s : State) (q : Nat) (d : Desc) (op : Nat) : Prop := good s q d op ∧ s.mapTaken (asid s q) d = false
  let others (s t : State) (q : Nat) (d : Desc) : Prop := ∀ a va, va < 2 ^ 52 → va % 65536 = 0 →
    (a ≠ asid s q ∨ va < d.mapVa ∨ d.mapVa + d.mapSize ≤ va) → t.pte a va = s.pte a va
  let done (t : State) (q : Nat) (d : Desc) : Prop := Ended t q d.index.toNat stDone 0
  (∀ (op : Nat) (mk : Nat → Nat → Instr), (op, mk) ∈ [(0, Instr.mapPool), (1, .mapPrivate), (2, .mapHost), (3, .mapRemote),
      (4, .mapExport), (5, .mapUnmap), (6, .mapClass), (7, .mapProtect)] → ∀ s q d, InProgress s q d 9 → d.mapOp = op →
    ∃ t, exec (mk q d.index.toNat) s = .next t ∧ (d.mapBad = true ∨ op < 4 ∧ s.mapTaken (asid s q) d = true →
      Ended t q d.index.toNat stBadDesc 0 ∧ t.ptes = s.ptes)) ∧
  (∀ s q d, fresh s q d 0 → ∃ t, exec (.mapPool q d.index.toNat) s = .next t ∧
    if s.poolHeld (s.queue q).set.part = true ∨ (s.poolPick (s.queue q).set.part d.mapPages d.mapCode).length < d.mapPages then
      Ended t q d.index.toNat stCapacity 0 ∧ t.ptes = s.ptes
    else done t q d ∧ ∀ k, k < d.mapPages → t.isMapped (asid s q) (d.mapPage k) = true) ∧
  (∀ s q d, fresh s q d 2 → ∃ t, exec (.mapHost q d.index.toNat) s = .next t ∧ done t q d ∧ others s t q d ∧
    ∀ k, k < d.mapPages → t.pte (asid s q) (d.mapPage k) = mkLeaf d.mapRwx false false 2 ((d.mapTarget + k * 65536) % 2 ^ 64)) ∧
  (∀ s q d, fresh s q d 3 → ∃ t, exec (.mapRemote q d.index.toNat) s = .next t ∧ done t q d ∧ others s t q d ∧
    ∀ k, k < d.mapPages → t.pte (asid s q) (d.mapPage k) =
      mkLeaf (d.mapRwx % 4) false false 1 (d.mapPeer * 2 ^ 44 + (d.mapTarget + k * 65536) % 2 ^ 44)) ∧
  (∀ s q d, good s q d 4 → ∃ t, exec (.mapExport q d.index.toNat) s = .next t ∧
    ((∃ k, k < d.mapPages ∧ s.devPage (asid s q) (d.mapPage k) = none) → Ended t q d.index.toNat stAccess 0) ∧
    (∀ p, (∀ k, k < d.mapPages → (s.devPage (asid s q) (d.mapPage k)).isSome = true) →
      s.devPage (asid s q) (d.mapPage 0) = some p →
      Ended t q d.index.toNat stDone (BitVec.ofNat 64 (p * 65536)) ∧ ∃ e ∈ t.fab.exports, e.peer = d.mapPeer ∧ e.base = p * 65536)) ∧
  (∀ s q d, good s q d 5 → ∃ t, exec (.mapUnmap q d.index.toNat) s = .next t ∧
    ((∀ r, r < 8 → (s.region r).retireWait = []) → done t q d ∧ others s t q d ∧
      (∀ k, k < d.mapPages → t.isMapped (asid s q) (d.mapPage k) = false) ∧
      ∀ e ∈ t.fab.exports, ¬(e.asid = asid s q ∧ d.mapVa ≤ e.va ∧ e.va < d.mapVa + d.mapSize))) ∧
  (∀ s q d k, good s q d 6 → k < d.mapPages → s.devPage (asid s q) (d.mapPage k) = none →
    ∃ t, exec (.mapClass q d.index.toNat) s = .next t ∧ Ended t q d.index.toNat stAccess 0) ∧
  (∀ s q d, good s q d 7 → ∃ t, exec (.mapProtect q d.index.toNat) s = .next t ∧ done t q d ∧ others s t q d ∧
    ∀ k, k < d.mapPages → s.isMapped (asid s q) (d.mapPage k) = true →
      let e := t.pte (asid s q) (d.mapPage k)
      let o := s.pte (asid s q) (d.mapPage k)
      e.extractLsb' 2 3 = BitVec.ofNat 3 d.mapRwx ∧ e.getLsbD 6 = d.mapGuard ∧ e.extractLsb' 7 57 = o.extractLsb' 7 57 ∧
      e.getLsbD 0 = true)

/-- A descriptor's watchdog, its completion, a unit switch and the interrupt, configuration and translation commands. Where it meets a choice of the model: log 20, 42, 68. (R369, R375, R376, R391, R393, R394, R408, R411) -/
def Obligations.CompletionsAndInterrupts : Prop :=
  (∀ s q d opc, InProgress s q d opc → opc ≠ 1 → (s.queue q).set.wdMs ≠ 0 → ∃ t, exec (.descriptorWatchdog q d.index.toNat) s = .next t ∧
    (s.collOfDesc q d.index.toNat = none → Ended t q d.index.toNat stWatchdog 0)) ∧
  (∀ s q d st r e, q < queueCount → s.mainlandUp = true → s.live? q d.index.toNat = some d → d.phase = .finished st r →
    (s.queue q).disabling = false → ∃ t, exec (.descriptorCompletion q d.index.toNat e) s = .next t ∧
      (t.queue q).descs = (s.queue q).descs.filter (fun x => x.index != d.index) ∧ (t.queue q).done = (s.queue q).done + 1) ∧
  (∀ s q d e, q < queueCount → s.mainlandUp = true → s.live? q d.index.toNat = some d → d.phase = .fetched → d.reserved = true →
    s.mayStart q d = true → ∃ t, exec (.descriptorCompletion q d.index.toNat e) s = .next t) ∧
  (∀ s q d, q < queueCount → s.mainlandUp = true → s.live? q d.index.toNat = some d → d.phase = .running → d.check.onUnit = true →
    d.check.offset % 65536 = 0 → s.unitFree = false → (∀ k ∈ s.chkClasses, k ≤ s.queueClass q) → s.chkWaits (s.queueClass q) = true →
    ∃ t, exec (.checkSwitch q d.index.toNat) s = .next t ∧ ∀ x, t.desc? q d.index.toNat = some x →
      x.check.onUnit = false ∧ x.check.value = d.check.value ∧ x.check.offset = d.check.offset) ∧
  (∀ s port fn v, port < 2 → fn < 32 → v < 2048 → s.multipath = false →
    let i : IrqSt := look {} (s.func (fnKey port fn)).irq v
    0 < i.counted → fld i.mod 8 16 ≠ 0 → ∃ t, exec (.irqModTimeout port fn v) s = .next t ∧
      let j : IrqSt := look {} (t.func (fnKey port fn)).irq v
      j.counted = 0 ∧ (i.masked = true → j.pend = true ∧ j.sent = i.sent) ∧
      (i.masked = false → (s.port port).up = true → j.sent = i.sent + 1) ∧ { t with funcs := s.funcs } = s) ∧
  (∀ s port fn v, port < 2 → fn < 32 → v < 2048 → s.skerryUp = true → s.fnThere port fn = true →
    ∃ t, exec (.msixUnmask port fn v) s = .next t ∧
      let i : IrqSt := look {} (s.func (s.fnOf port fn)).irq v
      let j : IrqSt := look {} (t.func (s.fnOf port fn)).irq v
      j.masked = false ∧ j.pend = false ∧ (j.sent = if i.pend then i.sent + 1 else i.sent) ∧ { t with funcs := s.funcs } = s) ∧
  (∀ s n ws, n < 2 → s.skerryUp = true → (s.port n).evlOn = true → s.evlRoom n = false →
    ∃ t, exec (.eventLogFullRecheck n ws) s = .next t ∧ t.mem = s.mem ∧ t.queues = s.queues) ∧
  (∀ s port, port < 2 → s.skerryUp = true → s.portThere port = true → (s.port port).up = true →
    (∀ n, ∃ t, exec (.configurationWrite port (.numVfs n)) s = .next t ∧
      (n ≤ 31 → (s.multipath = true → port = 0) → (t.port port).numVfs = n)) ∧
    (∀ fn l, s.fnThere port fn = true → 30 ≤ l → l ≤ 40 → ∃ t, exec (.configurationWrite port (.bar2 fn l)) s = .next t ∧
      (t.func (s.fnOf port fn)).bar2Log2 = l) ∧
    (∀ d, ∃ t, exec (.configurationWrite port (.power d)) s = .next t ∧ (t.port port).d3 = d ∧ { t with ports := s.ports } = s) ∧
    (∀ fn e, s.fnThere port fn = true → ∃ t, exec (.configurationWrite port (.pasid fn e)) s = .next t ∧
      (t.func (s.fnOf port fn)).pasidCap = e) ∧
    (∀ fn v a d m, s.fnThere port fn = true → v < 2048 → ∃ t, exec (.configurationWrite port (.msix fn v a d m)) s = .next t ∧
      let j : IrqSt := look {} (t.func (s.fnOf port fn)).irq v
      j.addr = a ∧ j.data = d ∧ j.masked = m)) ∧
  (∀ s port fn page n, port < 2 → fn < 32 → s.skerryUp = true → (s.port port).up = true →
    ∃ t, exec (.atsInvalidation port fn page n) s = .next t ∧
      (∀ x, x ∈ (t.port port).ats ↔ x ∈ (s.port port).ats ∧ ¬(x.1 = fn ∧ page ≤ x.2 ∧ x.2 < page + n)) ∧ { t with ports := s.ports } = s)

/-- A recovered task restarts, recomputation sends a producer's tasks again, tests and twins change what they name. Where it meets a choice of the model: log 26, 64, 67. (R421, R424, R426, R432, R437, R439, R440, R442, R467) -/
def Obligations.RecoveryAndArrayTests : Prop :=
  (∀ s core cause fail bad k, core < 512 → s.hasCore core = true → s.mainlandUp = true → (s.core core).task = some k →
    (k.phase = .running ∨ k.phase = .trapped) → cause ≠ 0 →
    (∀ row, ∃ t, exec (.taskRecovery core cause fail bad row) s = .next t) ∧
    ∃ t, exec (.taskRecovery core cause fail bad none) s = .next t ∧
      (bad = none → k.twinOf = none → k.gang = none → (s.part k.part).paused = false → (s.core core).urgent = none →
        s.replaysOf k < 4 → ∀ u, (t.core core).task = some u →
        u.phase = .running ∧ u.status = 0 ∧ u.cause = 0 ∧ u.hard = false ∧ (t.core core).undo = [] ∧ (t.core core).tm = [])) ∧
  (∀ s core fail bad row f, core < 512 → s.hasCore core = true → s.mainlandUp = true → (s.core core).frame = some f →
    ∃ t, exec (.taskRecovery core 0 fail bad row) s = .next t ∧ (t.core core).frame = some { f with bad := true } ∧
      { t with cores := s.cores } = s) ∧
  (∀ s frame d, s.mainlandUp = true → s.redoable frame ≠ [] →
    let p : Producer := look {} s.producers frame
    s.desc? p.queue p.desc = some d →
    (d.opc = 1 → d.launch.recompute = false → ∃ t, exec (.recomputation frame none) s = .next t ∧ t.mem = s.mem ∧ t.cores = s.cores ∧
      ∀ x, t.desc? p.queue p.desc = some x → x.launch.recompute = true ∧ x.launch.frame = frame ∧
        x.launch.again.length = p.hi + 1 - p.lo ∧ (∀ i, i ∈ x.launch.again ↔ p.lo ≤ i ∧ i ≤ p.hi)) ∧
    (d.opc ≠ 1 → (s.moveAgain p.queue p.desc d 0 d.movePieces).lost ≠ some false ∨ d.launch.recompute = false →
      ∃ t, exec (.recomputation frame none) s = .next t)) ∧
  (∀ s core pass, core < 512 → s.hasCore core = true → s.mainlandUp = true → s.coreFree core = true →
    (s.cluster (s.clusterOf core)).clk ≠ .off → ∃ t, exec (.idleArrayTest core pass) s = .next t ∧
      (pass = true → (t.core core).hasTested = true ∧ (t.core core).lastPass = t.ticks.toNat ∧ ∀ l, l ≠ core → t.core l = s.core l) ∧
      (pass = false → (t.slot (s.slotOf core)).status = .fenced)) ∧
  (∀ s core a b, core < 512 → s.hasCore core = true → s.mainlandUp = true → s.coreIssues core = true →
    testTicks ≤ s.ticks.toNat - (s.core core).lastPass → ∃ t, exec (.testStop core a b) s = .next t ∧
      (a = true → b = true → (t.core core).hasTested = true ∧ (t.core core).lastPass = t.ticks.toNat)) ∧
  (∀ s o w k, o < 512 → w < 512 → s.hasCore o = true → s.hasCore w = true → s.mainlandUp = true → (s.core o).task = some k →
    k.phase = .running → k.ranges = [] → k.gang = none → k.prio ≠ .urgent → k.twinOf = none → k.recompute = false →
    s.partOfCluster (s.clusterOf w) = k.part → s.coreFree w = true → (s.choose k.part).isNone = true →
    (s.cluster (s.clusterOf w)).clk ≠ .off → (s.core o).twinAt = none → ∃ t u, exec (.dualExecution o w) s = .next t ∧
      (t.core w).task = some u ∧ u.twinOf = some o ∧ u.index = k.index ∧ u.entry = k.entry ∧ u.args = k.args ∧
      (t.core o).task = some k ∧ t.mem = s.mem ∧ t.slices = s.slices) ∧
  (∀ s w k f cover fmt a b odd, w < 512 → s.hasCore w = true → s.mainlandUp = true → (s.core w).task = some k → Fmt.ofCode fmt = some f →
    k.twinOf.isSome = true → (s.core w).taskOver k = true → s.origEnded k = true →
    ∃ t, exec (.dualComparison w cover fmt a b odd) s = .next t ∧
      (cover = true → k.phase ≠ .trapped → s.firstMismatch k f = none → (t.core w).task = none)) ∧
  (∀ s core, core < 512 → s.hasCore core = true → s.mainlandUp = true → (s.slot (s.slotOf core)).worn = true →
    (s.slot (s.slotOf core)).status = .active →
    let spare := ((List.range 9).map (s.slotOf core / 9 * 9 + ·)).find? fun k => (s.slot k).status == .spare
    (∀ new, spare = some new → (s.core core).task = none → (s.core core).frame = none → ∃ t, exec (.wearMove core) s = .next t ∧
      (t.lcore core).slot = some new ∧ (t.slot new).status = .active ∧ (t.slot (s.slotOf core)).status = .fenced) ∧
    (spare = none → (s.cluster (s.clusterOf core)).wearMargin < 25 → 
      (∀ x, (s.cluster (s.clusterOf core)).wearRaisedAt = some x → dayTicks ≤ s.ticks.toNat - x) →
      ∃ t, exec (.wearMove core) s = .next t ∧
        (t.cluster (s.clusterOf core)).wearMargin = (s.cluster (s.clusterOf core)).wearMargin + 5 ∧ t.lcores = s.lcores))

/-- Eye scans and lane failures use a spare where one is left, and the loss of the hub takes the package out of service. (R327, R341, R441, R443, R445, R446, R447, 12_fault_containment_replay_and_sparing.md Table 12.13) -/
def Obligations.LaneRepairsAndLossOfTheHub : Prop :=
  (∀ s u bundle lane height rate, s.mainlandUp = true →
    (u < 64 → bundle < 3 → (s.cluster u).retired = false → ∃ t, exec (.eyeScan 0 u bundle lane height rate) s = .next t ∧
      (rate = false → (s.die (dieOfCluster u)).eyeMin ≤ height → t = s) ∧
      ((rate = true ∨ height < (s.die (dieOfCluster u)).eyeMin) → bondSpare bundle lane ∈ (t.cluster u).bondUsed)) ∧
    (u < 576 → ∃ t, exec (.eyeScan 1 u bundle lane height rate) s = .next t ∧
      (rate = false → (s.die (u / 144)).eyeMin ≤ height → t = s) ∧
      ((rate = true ∨ height < (s.die (u / 144)).eyeMin) → (t.channel u).tsvSpares = (s.channel u).tsvSpares - 1)) ∧
    (isEp u = true → ∃ t, exec (.eyeScan 2 u bundle lane height rate) s = .next t ∧ (rate = false → 60 ≤ height → t = s) ∧
      ((rate = true ∨ height < 60) → (s.net.link u).spareLanes ≠ 0 → lane ∈ (t.net.link u).badLanes))) ∧
  (∀ s u bundle lane carries, s.mainlandUp = true →
    (u < 64 → bundle < 3 → (s.cluster u).retired = false → ∃ t, exec (.bondOrTsvLaneFailure 0 u bundle lane carries) s = .next t ∧
      (bondSpare bundle lane ∉ (s.cluster u).bondUsed → (t.cluster u).bondUsed = (s.cluster u).bondUsed ++ [bondSpare bundle lane] ∧
        t.cores = s.cores ∧ t.mem = s.mem)) ∧
    (u < 576 → s.inService u = true → ∃ t, exec (.bondOrTsvLaneFailure 1 u bundle lane carries) s = .next t ∧
      ((s.channel u).tsvSpares ≠ 0 → (t.channel u).tsvSpares = (s.channel u).tsvSpares - 1) ∧
      ((s.channel u).tsvSpares = 0 → ∀ r ∈ s.poolRegions u, (t.region r).memState = 2 ∧ (t.region r).mapOut.isSome = true))) ∧
  (∀ s canWrite, s.powered = true → s.boot.state ≠ .halted → ∃ t, exec (.hubLoss canWrite) s = .next t ∧
    t.boot.state = .halted ∧ t.boot.mainland = false ∧
    (canWrite = false → (∀ i, i < 16 → (s.fab.strait i).up = false) → t.fab.forwarding = false ∧ ∀ o, o < 4 → (t.fab.engine o).dark = true))

/-- Power-good and reset pins start and stop the package as R461, R500 and R502 say, and a reset keeps the repairs and fuses. Where it meets a choice of the model: log 19, 73. (R372, R449, R461, R465, R494, R496, R500, R502) -/
def Obligations.ResetsAndPowerGood : Prop :=
  let reset (s t : State) : Prop := t.boot.state = .reset ∧ t.boot.mainland = false ∧ t.queues = [] ∧ t.cores = [] ∧
    t.boot.fuses = s.boot.fuses ∧ t.lcores = s.lcores ∧ t.host = s.host ∧ (∀ k, (t.slot k).status = (s.slot k).status) ∧
    t.mem.cells = [] ∧ ∃ g, t.mem.undef = [{ lo := 0, len := 2 ^ 44, tag := g }]
  let on (t : State) : Prop := t.powered = true → t.boot.pkgRstN = true → t.boot.hostMode = t.boot.strap
  (∀ s, s.boot.pwrokAon = false → ∃ t, exec .pwrokAonRise s = .next t ∧ t.boot.pwrokAon = true ∧ on t ∧ t.mem = s.mem) ∧
  (∀ s, s.boot.pwrokMain = false → ∃ t, exec .pwrokMainRise s = .next t ∧ t.boot.pwrokMain = true ∧ on t ∧ t.mem = s.mem) ∧
  (∀ s, s.boot.pkgRstN = false → ∃ t, exec .pkgRstNRelease s = .next t ∧ t.boot.pkgRstN = true ∧ on t ∧ t.mem = s.mem) ∧
  (∀ s, s.boot.pwrokAon = true → ∃ t, exec .pwrokAonFall s = .next t ∧ t.boot.pwrokAon = false ∧ t.boot.tripLayer = 0 ∧ reset s t) ∧
  (∀ s, s.boot.pwrokMain = true → ∃ t, exec .pwrokMainFall s = .next t ∧ t.boot.pwrokMain = false ∧
    (s.boot.tripLayer = 0 → s.boot.pwrokAon = true → reset s t ∧ t.fab.forwarding = false ∧ t.boot.debug = s.boot.debug) ∧
    (s.boot.tripLayer ≠ 0 → { t with boot := { t.boot with pwrokMain := true } } = s)) ∧
  (∀ s, s.boot.pkgRstN = true → ∃ t, exec .pkgRstNAssert s = .next t ∧ t.boot.pkgRstN = false ∧
    (s.powered = true → reset s t ∧ t.fab.forwarding = s.fab.forwarding ∧ t.boot.debug = s.boot.debug) ∧
    (s.boot.tripLayer ≠ 0 → { t with boot := { t.boot with pkgRstN := true } } = s)) ∧
  (∀ s, s.boot.pwrokAon = true → s.boot.ref25 = true → ∃ t, exec .ref25Loss s = .next t ∧ t.boot.ref25 = false ∧
    (s.boot.tripLayer = 0 → t.boot.tripLayer = 6 ∧ t.boot.state = .tripped ∧ t.boot.fuses.lastTrip = 6) ∧
    (s.boot.tripLayer ≠ 0 → { t with boot := { t.boot with ref25 := true } } = s)) ∧
  (∀ s, s.boot.ref25 = false → ∃ t, exec .ref25Return s = .next t ∧ t.boot.ref25 = true ∧
    (s.boot.fuses.lastTrip = 6 → t.boot.coolHold = false) ∧ (s.boot.fuses.lastTrip ≠ 6 → t.boot.coolHold = s.boot.coolHold))

/-- A comparator at its trip point trips the package, and the next start waits until its sensor has cooled by 20 °C. Where it meets a choice of the model: log 75, 76. (R341, R493, R494, R495, R496, R498, R569, 13_power_clocks_and_heat.md Table 13.11) -/
def Obligations.TripsAndCooling : Prop :=
  (∀ s cause kind value sensor reading, s.boot.pwrokAon = true → s.boot.tripLayer = 0 → kind ∈ tripKinds cause →
    deg (tripPoint cause) ≤ reading → ∃ t, exec (.trip cause kind value sensor reading) s = .next t ∧
      t.boot.state = .tripped ∧ t.boot.tripLayer = cause ∧ t.boot.mainland = false ∧ t.boot.faultLow = true ∧
      t.boot.fuses.trips = min 256 (s.boot.fuses.trips + 1) ∧ t.boot.fuses.lastTrip = cause ∧ t.fab.forwarding = false ∧
      (∀ cl, (t.cluster cl).clk = .off) ∧ (∀ n, (t.port n).up = false) ∧ t.faultN = .low ∧ t.alertN = .float ∧
      (∀ p, t.hostTx p = .float) ∧ (∀ oe, t.lsEnN oe = .float) ∧ (∃ e, t.boot.flash.log.getLast? = some e ∧ e.typ = 0x4A ∧ e.level = 5 ∧ e.loc = locOf kind value) ∧
      t.queues = s.queues ∧ t.lcores = s.lcores ∧ t.host = s.host) ∧
  (∀ s cause kind value sensor reading, s.boot.pwrokAon = true → s.boot.tripLayer = 0 → kind ∈ tripKinds cause → reading < deg (tripPoint cause) →
    exec (.trip cause kind value sensor reading) s = .refused .notPending) ∧
  (∀ s reading, s.boot.pwrokAon = true → s.boot.coolHold = true → s.boot.fuses.lastTrip ≠ 6 →
    ∃ t, exec (.tripCooldownCheck reading) s = .next t ∧
      (t.boot.coolHold = false ↔ reading + 160 ≤ deg (tripPoint s.boot.fuses.lastTrip)) ∧
      { t with boot := { t.boot with coolHold := s.boot.coolHold } } = s) ∧
  (∀ s, s.skerryUp = true → s.hourSince s.boot.cycSavedAt = true → ∃ t, exec .cycleCountSave s = .next t ∧
    (∀ d, d < 4 → look 0 t.boot.flash.cycSaved d = (s.die d).cycles) ∧ t.boot.cycSavedAt = some s.ticks.toNat ∧
    { t with boot := s.boot } = s)

/-- Each START_UP runs the next step of Table 14.6, to READY, RECOVERY or HALTED; settings are saved, stores repaired, partitions reset. Where it meets a choice of the model: log 44, 45. (R504, R505, R506, R509, R510, R511, R514, R518, R522, R524, 14_start_up_firmware_and_trust.md Table 14.6) -/
def Obligations.StartUpRunsTable14_6 : Prop :=
  let startable (s : State) (k : StartState) : Prop :=
    s.powered = true ∧ s.boot.pkgRstN = true ∧ s.boot.coolHold = false ∧ s.boot.state = k
  (∀ s x, startable s .reset → ∃ t, exec (.startUp x) s = .next t ∧ t.boot.state = .rom ∧
    t.boot.flash.startNum = s.boot.flash.startNum + 1) ∧
  (∀ s x, startable s .rom → ∃ t, exec (.startUp x) s = .next t ∧
    (s.boot.fuses.imageFails s.boot.flash.at_ = none → s.boot.update.erased = false → t.boot.state = .verify ∧
      t.boot.comps = hdrComps s.boot.flash.at_) ∧
    ((s.boot.fuses.imageFails s.boot.flash.at_).isSome = true ∨ s.boot.update.erased = true → t.boot.state = .recovery)) ∧
  (∀ s x, startable s .verify → ∃ t, exec (.startUp x) s = .next t ∧ (x.hubBad = true → t.boot.state = .halted) ∧
    (x.hubBad = false → t.boot.state = .mainland ∧ t.boot.mainland = true ∧ (t.boot.fullStart = true ↔ s.boot.fullReason ≠ 0))) ∧
  (∀ (a b : StartState), (a, b) ∈ [(.mainland, .links), (.links, .clusters), (.clusters, .memtest), (.memtest, .linkcheck)] →
    ∀ s x, startable s a → (a = .clusters → s.storesDone = true) → ∃ t, exec (.startUp x) s = .next t ∧
      (t.boot.state = b ∨ t.boot.state = .halted ∧ t.boot.mainland = false)) ∧
  (∀ s x, startable s .linkcheck → ∃ t, exec (.startUp x) s = .next t ∧ t.boot.state = .ready) ∧
  (∀ s missing bad, s.mainlandUp = true → s.boot.state = .clusters → s.boot.repairRounds < 4 →
    (∃ k, k < 576 ∧ (s.slot k).full = false) → ∃ t, exec (.runtimeRepairRound missing bad) s = .next t ∧
      t.boot.repairRounds = s.boot.repairRounds + 1 ∧ ∀ k, k < 576 → (s.slot k).full = false →
        (t.slot k).rtBitmap = (s.slot k).rtBitmap ||| ~~~ (look 0 missing k)) ∧
  (∀ s vals, s.mainlandUp = true → s.boot.state = .ready → s.hourSince s.boot.savedAt = true → ∃ t, exec (.settingsSave vals) s = .next t ∧
    t.boot.flash.settingsSeq = s.boot.flash.settingsSeq + 1 ∧ t.boot.flash.settingsVer = s.boot.imgVersion.toNat ∧
    t.boot.flash.image = s.boot.flash.image ∧ { t with boot := s.boot } = s) ∧
  (∀ s p port, p < 8 → port < 2 → ∃ t, exec (.partitionReset p port true) s = .next t ∧
    (PkbOpen s port → s.partInForce p = true → s.holds port p = true → (s.part p).rstActive = false → s.resetWaits p = true →
      (t.part p).rstActive = true ∧ (t.part p).rstWait = true ∧ t.cores = s.cores)) ∧
  (∀ s p port, p < 8 → port < 2 → s.mainlandUp = true → (s.part p).rstActive = true →
    ((s.part p).rstWait = true → s.resetWaits p = false) → ∃ t, exec (.partitionReset p port false) s = .next t ∧
      ((s.part p).rstWait = false → (t.part p).rstActive = false ∧ (t.part p).rstCount = (s.part p).rstCount + 1))

/-- Clusters step to their set points, sleep when idle, wake in waves, and move to the fallback rail when a regulator fails. Where it meets a choice of the model: log 16, 71, 86. (R463, R464, R466, R467, R468, R470, R471, R477, R483) -/
def Obligations.ClusterClocksAndRails : Prop :=
  let rate (s t : State) (cl : Nat) : Prop := ∀ k, k ≠ cl → (t.cluster k).step = (s.cluster k).step ∧ (t.cluster k).clk = (s.cluster k).clk
  (∀ s cl, cl < 64 → s.powered = true → (s.cluster cl).clk = .active → (s.cluster cl).step ≠ (s.cluster cl).target →
    ∃ t, exec (.setPointStep cl) s = .next t ∧ rate s t cl ∧ (t.cluster cl).target = (s.cluster cl).target ∧
      ((s.cluster cl).step < (s.cluster cl).target → (t.cluster cl).step = (s.cluster cl).step + 1) ∧
      ((s.cluster cl).target < (s.cluster cl).step → (t.cluster cl).step + 1 = (s.cluster cl).step)) ∧
  (∀ (k : ClkState) (mk : Nat → Instr), (k, mk) ∈ [(.clockOff, Instr.clockOffEntry), (.gated, .gatedEntry), (.off, .offEntry)] →
    ∀ s cl, cl < 64 → s.powered = true → s.clusterIdle cl = true → (s.cluster cl).stop = .none → (s.cluster cl).waking = false →
      (s.cluster cl).clk.depth < k.depth → s.deepest cl = some k → s.standbyNeed cl = false →
      ∃ t, exec (mk cl) s = .next t ∧ (t.cluster cl).clk = k ∧
        (k = .off → ∀ l ∈ t.coresOfCluster cl, (t.core l).lm = [] ∧ (t.core l).groups = [] ∧ (t.core l).lastAsid = none)) ∧
  (∀ s cl, cl < 64 → s.powered = true → (s.cluster cl).clk = .off → (s.cluster cl).waking = false → (s.cluster cl).retired = false →
    (s.cluster cl).regFailed = false → (s.cluster cl).inReset = false → (s.cluster cl).wakeReq = true →
    (∀ x, (s.region (regionOfCluster cl)).waveAt = some x → 200 * usTicks ≤ s.ticks.toNat - x) →
    ∃ t, exec (.offExitWave cl) s = .next t ∧ (t.cluster cl).waking = true ∧ (t.cluster cl).gateSteps = 0 ∧
      (t.cluster cl).clk = .off ∧ (t.region (regionOfCluster cl)).waveAt = some s.ticks.toNat ∧ rate s t cl) ∧
  (∀ s cl, cl < 64 → s.powered = true → (s.cluster cl).waking = true → (s.die (dieOfCluster cl)).lastDroop = none →
    ∃ t, exec (.gateStep cl) s = .next t ∧ rate s t cl ∧
      ((s.cluster cl).gateSteps < 7 → (t.cluster cl).gateSteps = (s.cluster cl).gateSteps + 1 ∧ (t.cluster cl).waking = true) ∧
      (7 ≤ (s.cluster cl).gateSteps → (t.cluster cl).clk = .active ∧ (t.cluster cl).waking = false ∧
        (t.cluster cl).step = t.ceiling cl ∧ (t.cluster cl).target = t.ceiling cl)) ∧
  (∀ s cl vfbLow carries, cl < 64 → s.mainlandUp = true → (s.cluster cl).retired = false → (s.cluster cl).onVfb = false →
    (s.cluster cl).waking = false → (s.cluster cl).regFailed = false →
    ((s.cluster cl).clk = .gated ∨ (s.cluster cl).clk = .off → ∃ t, exec (.regulatorFailure cl vfbLow carries) s = .next t ∧
      (t.cluster cl).regFailed = true ∧ (t.cluster cl).onVfb = false ∧ t.cores = s.cores) ∧
    ((s.cluster cl).clk = .active ∨ (s.cluster cl).clk = .clockOff → ∃ t, exec (.regulatorFailure cl vfbLow carries) s = .next t ∧
      ((∀ l ∈ s.coresOfCluster cl, (s.core l).task = none) → s.onRail (regionOfCluster cl) < 2 → vfbLow = false →
        (t.cluster cl).onVfb = true ∧ (t.cluster cl).step = 14 ∧ (t.cluster cl).target = 14 ∧ t.ceiling cl = 14 ∧ rate s t cl)))

/-- Droops and current limits stretch clocks as R473 to R476 say, and an almanac round takes set-ups, adds energy and sets points. Where it meets a choice of the model: log 20, 71. (R468, R472, R473, R474, R475, R476, R478, R486) -/
def Obligations.StretchesLimitsAndRounds : Prop :=
  let alone (s t : State) (cl : Nat) : Prop := (∀ k, k ≠ cl → t.cluster k = s.cluster k) ∧ t.cores = s.cores ∧ t.mem = s.mem
  (∀ s cl det, cl < 64 → det < 2 → s.powered = true → (s.cluster cl).clk = .active → bitAt (s.cluster cl).detOff det = false →
    bitAt (s.cluster cl).tripped det = false → ∃ t, exec (.droopTrip cl det) s = .next t ∧ alone s t cl ∧
      25 ≤ (t.cluster cl).stretch ∧ (s.cluster cl).stretch ≤ (t.cluster cl).stretch ∧ bitAt (t.cluster cl).tripped det = true ∧
      (t.cluster cl).droops = (s.cluster cl).droops + 1 ∧ (t.die (dieOfCluster cl)).lastDroop = some t.ticks.toNat) ∧
  (∀ s cl, cl < 64 → s.powered = true → (s.cluster cl).tripped ≠ 0 → (s.cluster cl).stretch = 25 →
    ∃ t, exec (.stretchEscalate cl) s = .next t ∧ alone s t cl ∧ t.cluster cl = { s.cluster cl with stretch := 50 }) ∧
  (∀ s cl, cl < 64 → s.powered = true → (s.cluster cl).stretch ≠ 0 → ∃ t, exec (.stretchEnd cl) s = .next t ∧ alone s t cl ∧
    t.cluster cl = { s.cluster cl with stretch := 0, tripped := 0 }) ∧
  (∀ s cl det, cl < 64 → det < 2 → s.mainlandUp = true → bitAt (s.cluster cl).tripped det = true →
    bitAt (s.cluster cl).detOff det = false → ∃ t, exec (.detectorDisable cl det) s = .next t ∧ alone s t cl ∧
      bitAt (t.cluster cl).detOff det = true ∧ bitAt (t.cluster cl).tripped det = false ∧ (t.cluster cl).target = t.ceiling cl) ∧
  (∀ s ns, s.powered = true → ∃ t, exec (.vinSag ns) s = .next t ∧ t.boot.vinSags = s.boot.vinSags + 1 ∧
    ns ≤ t.boot.vinSagLong ∧ (∀ cl, cl < 64 → (s.cluster cl).clk = .active → 25 ≤ (t.cluster cl).stretch ∧
      bitAt (t.cluster cl).tripped 2 = true ∧ (t.cluster cl).droops = (s.cluster cl).droops + 1) ∧
    ∀ cl, (s.cluster cl).clk ≠ .active → t.cluster cl = s.cluster cl) ∧
  (∀ s vin sum dom, s.powered = true → ∃ t, exec (.currentLimitWindow vin sum dom) s = .next t ∧
    (7800 < vin.2 → t.power.limVin = 50) ∧ (vin.2 ≤ 7800 → 6450 < vin.1 → t.power.limVin = 25) ∧
    (vin.2 ≤ 7800 → vin.1 < 6200 → t.power.limVin = 0) ∧ (17450 < sum.2 → t.power.limSum = 50) ∧
    (sum.2 ≤ 17450 → 17350 < sum.1 → t.power.limSum = 25) ∧ (sum.2 ≤ 17450 → sum.1 < 17000 → t.power.limSum = 0) ∧
    ∀ cl, cl < 64 → let m := dom.getD cl (0, 0)
      (460 < m.2 → (t.cluster cl).limStretch = 50) ∧ (m.2 ≤ 460 → 360 < m.1 → (t.cluster cl).limStretch = 25) ∧
      (m.2 ≤ 460 → m.1 < 340 → (t.cluster cl).limStretch = 0)) ∧
  (∀ s x, s.powered = true → s.boot.pkgRstN = true → x.direct = [] →
    ∃ t, exec (.almanacRound x) s = .next t ∧ t.rounds = s.rounds + 1 ∧ t.power.idle = s.power.idleStored ∧
      t.power.energy = s.power.energy + BitVec.ofNat 64 ((s.power.energyFrac + x.energy) / 10) ∧
      t.power.nowMw = x.energy / 10 ∧ (∀ w f src, s.power.capPending = some (w, f, src) →
        t.power.cap = w ∧ t.power.fmax = f ∧ t.power.capPending = none) ∧
      (s.power.capPending = none → t.power.cap = s.power.cap ∧ t.power.fmax = s.power.fmax) ∧
      ∀ cl, cl < 64 → (t.cluster cl).target = t.ceiling cl)

/-- An update erases nothing before its header passes, and mailbox requests are answered 0 where their condition holds, else 1. Where it meets a choice of the model: log 46, 81, 82. (R449, R500, R511, R516, R520, R521, R522, R525, R526, R527, R554) -/
def Obligations.FirmwareUpdateAndMailbox : Prop :=
  let answered (t : State) (slot code st : Nat) : Prop := look 0 t.boot.mbox slot = code ∧ look 0 t.boot.mboxStatus slot = st
  let up (s : State) (slot : Nat) : Prop := slot < 16 ∧ s.skerryUp = true ∧ s.mainlandUp = true
  (∀ s off data, s.skerryRuns = true → (off = 0 ∨ s.boot.update.active = true ∧ off = s.boot.update.received) →
    ∃ t, exec (.fwUpdateData off data) s = .next t ∧
      ((off = 0 ∨ s.boot.update.checked = false) → off + data.length < hdrBytes →
        t.boot.flash = s.boot.flash ∧ t.boot.update.received = off + data.length) ∧
      ((off = 0 ∨ s.boot.update.checked = false) → t.boot.flash = s.boot.flash ∨ t.boot.update.checked = true ∧ t.boot.update.erased = true) ∧
      (off ≠ 0 → s.boot.update.checked = true → t.boot.flash = s.boot.flash.program off data ∧
        t.boot.update.received = off + data.length) ∧ { t with boot := s.boot } = s) ∧
  (∀ s, s.skerryRuns = true → s.boot.update.active = true → ∃ t, exec .verifyComplete s = .next t ∧
    ((s.boot.update.checked = false ∨ (s.boot.fuses.imageFails s.boot.flash.at_).isSome = true) →
      t.boot.fwAnswer = 1 ∧ t.boot.flash = s.boot.flash ∧ t.boot.update.erased = s.boot.update.erased ∧ t.boot.update.active = false) ∧
    (s.boot.update.checked = true → s.boot.fuses.imageFails s.boot.flash.at_ = none → s.boot.state ≠ .recovery →
      t.boot.update.verified = true ∧ t.boot.update.erased = false ∧ t.boot.fwAnswer = 0 ∧ t.boot.flash.image = s.boot.flash.image)) ∧
  (∀ s, s.skerryRuns = true → s.boot.update.verified = true → ∃ t, exec .activateFirmware s = .next t ∧ t.boot.fwAnswer = 2 ∧
    t.boot.update = s.boot.update ∧ t.boot.flash = s.boot.flash ∧ t.boot.state = s.boot.state) ∧
  (∀ s, s.skerryRuns = true → s.boot.update.active = true → ∃ t, exec .updateStallTimeout s = .next t ∧
    t.boot.update = { erased := s.boot.update.erased } ∧ t.boot.flash.image = s.boot.flash.image ∧ t.cores = s.cores) ∧
  (∀ s slot es, up s slot → ∃ t, exec (.repair slot es) s = .next t ∧ answered t slot 1 (if s.repairOk es then 0 else 1) ∧
    (s.repairOk es = false → t.slots = s.slots ∧ t.lcores = s.lcores ∧ t.boot.flash.journal = s.boot.flash.journal) ∧
    (s.repairOk es = true → t.net.dtDue = true)) ∧
  (∀ s slot p port, up s slot → p < 8 → (s.part p).grantAsk = some port → ∃ t, exec (.partGrant slot p) s = .next t ∧
    (t.part p).grantAsk = none ∧
    (s.grantOk p port = true → answered t slot 2 0 ∧ (t.part p).grant = (s.part p).grantReq ∧ (t.part p).grantReject = false) ∧
    (s.grantOk p port = false → answered t slot 2 1 ∧ (t.part p).grant = (s.part p).grant ∧ (t.part p).grantReject = true)) ∧
  (∀ s slot e, up s slot → ∃ t, exec (.flashLog slot e) s = .next t ∧ answered t slot 4 0 ∧ t.boot.flash.log.getLast? = some e ∧
    { t with boot := s.boot } = s) ∧
  (∀ s slot, up s slot → ∃ t, exec (.fullNext slot) s = .next t ∧ answered t slot 5 0 ∧ t.boot.flash.fullNext = true ∧
    { t with boot := s.boot } = s) ∧
  (∀ s slot, up s slot → ∃ t, exec (.restart slot) s = .next t ∧ t.boot.state = .reset ∧ t.boot.mainland = false ∧
    t.boot.lastReset = 1 ∧ t.boot.lastCause = 2 ∧ t.queues = [] ∧ t.cores = [] ∧ t.boot.fuses = s.boot.fuses ∧
    t.boot.hostMode = s.boot.strap ∧ t.fab.forwarding = s.fab.forwarding) ∧
  (∀ s slot k, up s slot → ∃ t, exec (.activate slot k) s = .next t ∧ answered t slot 7 (if s.activateOk k then 0 else 1) ∧
    (s.activateOk k = true → (t.slot k).status = .active) ∧ (s.activateOk k = false → t.slots = s.slots ∧ t.lcores = s.lcores)) ∧
  (∀ s ok, s.skerryUp = true → s.mainlandUp = true → ∃ t, exec (.mainlandRestart ok) s = .next t ∧ t.cores = s.cores ∧
    t.queues = s.queues ∧ t.fab = s.fab ∧ t.mem = s.mem ∧ t.boot.mainland = true)

/-- DOE requests, the debug token and the sideband's services answer and change exactly what R528 to R534 give them. Where it meets a choice of the model: log 17, 47, 48, 79, 83. (R478, R511, R516, R528, R530, R531, R532, R533, R534) -/
def Obligations.AttestationAndSideband : Prop :=
  let doeOpen (s : State) (port : Nat) : Prop :=
    port < 2 ∧ s.skerryRuns = true ∧ s.boot.tripLayer = 0 ∧ s.portThere port = true ∧ (s.port port).up = true
  let onlyBoot (s t : State) : Prop := { t with boot := s.boot } = s
  let onlyPort (s t : State) : Prop := { t with ports := s.ports } = s
  (∀ s port, doeOpen s port → ∃ t, exec (.getIdentityCert port) s = .next t ∧ onlyPort s t ∧
    (t.port port).answer = some (atCert s.boot.flash.identity)) ∧
  (∀ s port, doeOpen s port → ∃ t, exec (.getAliasCert port) s = .next t ∧ onlyPort s t ∧
    (s.boot.aliasReady = false → (t.port port).answer = some [1, 0, 1, 0, 0, 0, 0, 0]) ∧
    (s.boot.aliasReady = true → (t.port port).answer = some (atCert s.boot.aliasCert))) ∧
  (∀ s port nonce, doeOpen s port → ∃ t, exec (.getQuote port nonce) s = .next t ∧
    (nonce.length ≠ 32 → onlyPort s t ∧ (t.port port).answer = some [1, 0, 2, 0, 0, 0, 0, 0]) ∧
    (nonce.length = 32 → s.boot.quoteBusy = true → onlyPort s t ∧ (t.port port).answer = some [1, 0, 1, 0, 0, 0, 0, 0]) ∧
    (nonce.length = 32 → s.boot.quoteBusy = false → onlyBoot s t ∧ t.boot.quoteBusy = true ∧ t.boot.quotePort = some port ∧
      bytesOf 32 t.boot.quoteNonce.toNat = nonce)) ∧
  (∀ s slot nonce, slot < 16 → s.skerryRuns = true → s.boot.tripLayer = 0 →
    (∀ port, s.boot.quoteBusy = true → s.boot.quotePort = some port → ∃ t, exec (.quote slot nonce) s = .next t ∧
      t.boot.quoteBusy = false ∧ (t.port port).answer = some (s.boot.quote (bytesOf 32 s.boot.quoteNonce.toNat)) ∧
      ∃ sig, s.boot.quote (bytesOf 32 s.boot.quoteNonce.toNat) = s.boot.quoteBody (bytesOf 32 s.boot.quoteNonce.toNat) ++ sig) ∧
    (s.boot.quoteBusy = false → s.mainlandUp = true → nonce.length = 32 → ∃ t, exec (.quote slot nonce) s = .next t ∧
      onlyBoot s t ∧ t.boot.quoteOut = s.boot.quote nonce)) ∧
  (∀ s token, s.skerryRuns = true → ∃ t, exec (.debugUnlock token) s = .next t ∧
    (Config.tokenOk (Config.slhPublic s.boot.identityKey) token = true → t.boot.debug = true ∧ t.cores = s.cores ∧ t.mem = s.mem) ∧ (Config.tokenOk (Config.slhPublic s.boot.identityKey) token = false → t = s)) ∧
  (∀ s eid, s.skerryUp = true → eid < 256 → ∃ t, exec (.mctpSetEndpointId eid) s = .next t ∧ t.boot.mctpEid = eid ∧ onlyBoot s t) ∧
  (∀ s id, s.skerryUp = true → 1 ≤ id → id ≤ 23 → (s.mainlandUp = true ∨ s.skerryAnswers id = true) →
    ∃ t, exec (.pldmSensorRead id) s = .next t ∧ t.boot.pldmOut = s.pldmReading id ∧ onlyBoot s t) ∧
  (∀ s, s.skerryUp = true → ∃ t, exec .pldmEventRead s = .next t ∧ onlyBoot s t ∧
    (s.boot.pldmQueue = [] → t.boot.pldmEvent = none) ∧
    (∀ e r, s.boot.pldmQueue = e :: r → t.boot.pldmEvent = some e ∧ t.boot.pldmQueue = r) ∧
    (t.boot.alertLow = true ↔ t.boot.pldmQueue ≠ [])) ∧
  (∀ s lo n, s.skerryUp = true → ∃ t, exec (.flashEventLogRead lo n) s = .next t ∧ onlyBoot s t ∧
    t.boot.flash = s.boot.flash ∧ t.boot.fileOut = ((s.boot.flash.log.flatMap EvRec.bytes).drop lo).take n) ∧
  (∀ s w, s.mainlandUp = true → ∃ t, exec (.powerCapEffecter w) s = .next t ∧ t.power.cap = s.power.cap ∧
    (900 ≤ w → w ≤ 1800 → s.power.wanted.2 ≤ 18 → t.power.capPending = some (w, s.power.wanted.2, .sideband) ∧ t.power.capReject = false) ∧
    (w < 900 ∨ 1800 < w → t.power.capPending = s.power.capPending ∧ t.power.capReject = true)) ∧
  (∀ s k, s.mainlandUp = true → ∃ t, exec (.stepIndexCeilingEffecter k) s = .next t ∧ t.power.fmax = s.power.fmax ∧
    (k ≤ 18 → 900 ≤ s.power.wanted.1 → s.power.wanted.1 ≤ 1800 →
      t.power.capPending = some (s.power.wanted.1, k, .sideband) ∧ t.power.capReject = false) ∧
    (18 < k → t.power.capPending = s.power.capPending ∧ t.power.capReject = true)) ∧
  (∀ s on, s.mainlandUp = true → ∃ t, exec (.fullStartEffecter on) s = .next t ∧ t.boot.flash.fullNext = on ∧ onlyBoot s t)

/-- BAR0 accesses read and write registers through the shadow, the staging word and the alias bits, and reject what R536 says. Where it meets a choice of the model: log 84. (R536, R538, R539, R542, R543, R547, R549, R550, R551, R541) -/
def Obligations.RegisterReadsAndWrites : Prop :=
  let shadow (s : State) (port fn : Nat) : Shadow := look {} (s.func (s.fnOf port fn)).shadow port
  let staging (s : State) (port fn : Nat) : Shadow := look {} (s.func (s.fnOf port fn)).staging port
  let sizeErr (s : State) (port fn : Nat) : BitVec 16 := look 0 (s.func (s.fnOf port fn)).errSize port
  let lost (s : State) (port fn : Nat) : BitVec 16 := look 0 (s.func (s.fnOf port fn)).errStage port
  let scratch (r : Nat) : Prop := 0x100 ≤ r ∧ r < 0x140 ∧ r % 8 = 0
  (∀ s port fn off wide n v w, Bar0Open s port fn → ∀ i ∈ [Instr.lowWordRead port fn off wide, .highWordRead port fn off,
      .lowWordWrite port fn off w, .highWordWrite port fn off w, .aliasWrite port fn off n w, .rejectedRead port fn off n,
      .registerWrite port fn off n v, .idQueHoldWrite port fn v, .telemetryConfigWrite port fn v], ∃ t, exec i s = .next t) ∧
  (∀ s port fn off, Bar0Open s port fn → off % 8 = 0 → inAlias off = false →
    (∃ t, exec (.lowWordRead port fn off true) s = .next t ∧ (t.port port).answer = some (bytesOf 8 (s.regRead port fn off).toNat) ∧
      { t with ports := s.ports } = s) ∧
    (∃ t, exec (.lowWordRead port fn off false) s = .next t ∧
      (t.port port).answer = some (bytesOf 4 ((s.regRead port fn off).toNat % 2 ^ 32)) ∧
      (shadow t port fn).tag = some off ∧ (shadow t port fn).word.toNat = (s.regRead port fn off).toNat / 2 ^ 32 ∧
      ∀ u, Bar0Open u port fn → shadow u port fn = shadow t port fn → ∃ v, exec (.highWordRead port fn (off + 4)) u = .next v ∧
        (v.port port).answer = some (bytesOf 4 ((s.regRead port fn off).toNat / 2 ^ 32)) ∧ (shadow v port fn).tag = none)) ∧
  (∀ s port fn off, Bar0Open s port fn → off % 8 = 4 → inAlias off = false → (shadow s port fn).tag ≠ some (off - 4) →
    ∃ t, exec (.highWordRead port fn off) s = .next t ∧
      (t.port port).answer = some (bytesOf 4 ((s.regRead port fn (off - 4)).toNat / 2 ^ 32)) ∧ { t with ports := s.ports } = s) ∧
  (∀ s port fn off v, Bar0Open s port fn → off % 8 = 0 → inAlias off = false → ∃ t, exec (.lowWordWrite port fn off v) s = .next t ∧
    staging t port fn = { tag := some off, word := v } ∧ lost t port fn = lost s port fn +
      (if (staging s port fn).tag.isSome = true ∧ (staging s port fn).tag ≠ some off then 1 else 0) ∧ { t with funcs := s.funcs } = s ∧ shadow t port fn = shadow s port fn) ∧
  (∀ s port fn r v, Bar0Open s port fn → scratch r → ∃ t, exec (.highWordWrite port fn (r + 4) v) s = .next t ∧
    ((staging s port fn).tag = some r → t.regRead port fn r = v ++ (staging s port fn).word ∧ (staging t port fn).tag = none) ∧
    ((staging s port fn).tag ≠ some r → t.regRead port fn r = v ++ (s.regRead port fn r).extractLsb' 0 32)) ∧
  (∀ s port fn r b v, Bar0Open s port fn → scratch r → b < 64 →
    ∃ t, exec (.aliasWrite port fn (0x1000000 + (r / 8 * 64 + b) * 4) 4 v) s = .next t ∧
      (∀ i, i < 64 → (t.regRead port fn r).getLsbD i = if i = b then v.getLsbD 0 else (s.regRead port fn r).getLsbD i) ∧
      shadow t port fn = shadow s port fn ∧ staging t port fn = staging s port fn) ∧
  (∀ s port fn off n v, Bar0Open s port fn → rejected off n = true →
    (∃ t, exec (.registerWrite port fn off n v) s = .next t ∧ sizeErr t port fn = sizeErr s port fn + 1 ∧ { t with funcs := s.funcs } = s) ∧
    (∃ t, exec (.rejectedRead port fn off n) s = .next t ∧ sizeErr t port fn = sizeErr s port fn + 1 ∧ (t.port port).answer = none ∧
      t.mem = s.mem)) ∧
  (∀ s port fn r v, Bar0Open s port fn → scratch r → ∃ t, exec (.registerWrite port fn r 8 v) s = .next t ∧
    t.regRead port fn r = v ∧ ∀ k, scratch k → k ≠ r → t.regRead port fn k = s.regRead port fn k) ∧
  (∀ s port fn v, Bar0Open s port fn → ∃ t, exec (.idQueHoldWrite port fn v) s = .next t ∧
    t.regRead port fn 0x200 = v &&& (s.func (s.fnOf port fn)).queMask) ∧
  (∀ s port f v, Bar0Open s port 0 → s.boot.state = .ready → s.p1Only port = false → f < 32 →
    let k := fnKey port f
    (∃ t, exec (.fnRecordWrite port f 0 v) s = .next t ∧ (s.fnBusy k = true ∨ 64 < v.toNat % 128 →
      (t.func k).fnReject = true ∧ (t.func k).fnQueues = (s.func k).fnQueues ∧ (t.func k).fnParts = (s.func k).fnParts)) ∧
    (∀ n, 1 ≤ n → n ≤ 4 → ∃ t, exec (.fnRecordWrite port f n v) s = .next t ∧
      (s.fnBusy k = true → (t.func k).fnReject = true ∧ (t.func k).fnAsids = (s.func k).fnAsids) ∧
      (s.fnBusy k = false → (t.func k).fnReject = false ∧ (t.func k).fnAsids.extractLsb' ((n - 1) * 64) 64 = v)) ∧
    (∃ t, exec (.fnBar2Write port f v) s = .next t ∧ (t.func k).bar2Asid = v.toNat % 256 ∧ (t.func k).bar2En = v.getLsbD 8 ∧
      (t.func k).bar2Base = v.toNat / 2 ^ 30 % 2 ^ 22 * 2 ^ 30)) ∧
  (∀ s port v, Bar0Open s port 0 → s.boot.state = .ready → s.p1Only port = false → (s.port port).evlCfg.getLsbD 63 = false →
    ∃ t, exec (.eventLogEnable port v) s = .next t ∧
      (v.toNat % 32 < 4 ∨ 16 < v.toNat % 32 → (t.port port).evlCfg.getLsbD 63 = false) ∧
      (4 ≤ v.toNat % 32 → v.toNat % 32 ≤ 16 → (s.port port).evlBuf = [] → (t.port port).evlCfg.getLsbD 63 = true ∧
        (t.port port).evlSetLog2 = v.toNat % 32 ∧ (t.port port).evlSetBase = (s.port port).evlBase.toNat ∧
        (t.port port).evlWritten = 0 ∧ (t.port port).evlErr = false)) ∧
  (∀ s port fn v, Bar0Open s port fn → s.boot.state = .ready → s.p1Only port = false → ∃ t, exec (.telemetryConfigWrite port fn v) s = .next t ∧
    ((s.func (fnKey port fn)).telBusy = true → (t.func (fnKey port fn)).telStored = (s.func (fnKey port fn)).telStored) ∧
    ((s.func (fnKey port fn)).telBusy = false → (t.func (fnKey port fn)).telBusy = true ∧
      (t.func (fnKey port fn)).telStored.period = v.toNat / 2 ^ 21 % 2 ^ 10 ∧
      (t.func (fnKey port fn)).telStored.en = v.getLsbD 41))

/-- A posted write of the package block sets its request and its BUSY bit, is dropped and counted while BUSY, and BUSY clears when applied. Where it meets a choice of the model: log 78. (R261, R313, R318, R472, R478, R541, R552, R553, R554, R555) -/
def Obligations.PostedWritesOfThePackageBlock : Prop :=
  let taken (s t : State) (port : Nat) : Prop := (t.port port).pkbBusy = true ∧ t.mem = s.mem ∧ t.cores = s.cores ∧ t.queues = s.queues
  (∀ s port p v, PkbOpen s port → p < 8 → s.partInForce p = true → ∃ t, exec (.partGrantWrite port p v) s = .next t ∧ taken s t port ∧
    (t.part p).grantReq.toNat = v.toNat % 4 ∧ (t.part p).grant = (s.part p).grant ∧
    ((t.part p).grantReject = true ↔ v.toNat % 4 = 3 ∨ v.toNat % 4 = 2 ∧ s.boot.hostMode ≠ 0) ∧
    ((t.part p).grantAsk = if (t.part p).grantReject then none else some port)) ∧
  (∀ s port d v, PkbOpen s port → d < 4 → s.holdsDie port d = true → ∃ t, exec (.partDieWrite port d v) s = .next t ∧ taken s t port ∧
    (t.die d).dieReq = v.getLsbD 0 ∧ (t.die d).dieApplied = (s.die d).dieApplied ∧ (t.die d).dieReject = false) ∧
  (∀ s port r v, PkbOpen s port → r < 8 → s.holds port (s.partOfRegion r) = true → ∃ t, exec (.partMemCfgWrite port r v) s = .next t ∧
    taken s t port ∧ (t.region r).memReq.toNat = v.toNat % 16 ∧ (t.region r).privSteps = (s.region r).privSteps ∧
    (t.region r).dieWide = (s.region r).dieWide ∧ (t.region r).memReject = false) ∧
  (∀ s port c v, PkbOpen s port → c < 7 → ∃ t, exec (.linkQosClassWrite port c v) s = .next t ∧ taken s t port ∧
    (t.qosOf c).req.toNat = v.toNat % 256 ∧ (t.qosOf c).applied = (s.qosOf c).applied ∧ t.net.qosPending = true ∧
    ∀ k, k ≠ c → t.qosOf k = s.qosOf k) ∧
  (∀ s port v, PkbOpen s port → ∃ t, exec (.linkDtCfgWrite port v) s = .next t ∧ taken s t port ∧
    t.net.dtCfg = v &&& 0xFFFFFFFFFFFFF001#64 ∧ t.net.dtPort = port ∧ (v.getLsbD 0 = true → t.net.dtDue = true)) ∧
  (∀ s port v, PkbOpen s port → ∃ t, exec (.pwrCapWrite port v) s = .next t ∧ taken s t port ∧
    let w := v.toNat % 2 ^ 11
    let f := v.toNat / 2 ^ 16 % 2 ^ 5
    t.power.capStored = w ∧ t.power.fmaxStored = f ∧ t.power.cap = s.power.cap ∧ t.power.fmax = s.power.fmax ∧
    (900 ≤ w ∧ w ≤ 1800 ∧ f ≤ 18 → t.power.capReject = false ∧ ∃ src, t.power.capPending = some (w, f, src)) ∧
    (¬(900 ≤ w ∧ w ≤ 1800 ∧ f ≤ 18) → t.power.capReject = true ∧ t.power.capPending = s.power.capPending)) ∧
  (∀ s port v, PkbOpen s port → ∃ t, exec (.pwrIdleCfgWrite port v) s = .next t ∧ taken s t port ∧
    t.power.idleStored = v.extractLsb' 0 32 ∧ t.power.idle = s.power.idle) ∧
  (∀ (i : Instr) s port v, Bar0Open s port 0 → s.boot.state = .ready → s.p1Only port = false → (s.port port).pkbBusy = true →
    (i = .pwrCapWrite port v ∨ i = .pwrIdleCfgWrite port v ∨ i = .linkDtCfgWrite port v ∨ ∃ c, c < 7 ∧ i = .linkQosClassWrite port c v) →
    ∃ t, exec i s = .next t ∧ { t with funcs := s.funcs } = s ∧
      (look 0 (t.func (s.fnOf port 0)).errBusy port : BitVec 16) = look 0 (s.func (s.fnOf port 0)).errBusy port + 1) ∧
  (∀ s k, k < 2 → (s.port k).pkbBusy = true → ∃ t, exec (.postedWriteApplied 0 k) s = .next t ∧ (t.port k).pkbBusy = false ∧
    { t with ports := s.ports } = s) ∧
  (∀ s k, k < 64 → (s.func k).telBusy = true → ∃ t, exec (.postedWriteApplied 1 k) s = .next t ∧ (t.func k).telBusy = false ∧
    { t with funcs := s.funcs } = s) ∧
  (∀ s k, k < queueCount → (s.queue k).busy = true → (s.queue k).disabling = false → ∃ t, exec (.postedWriteApplied 2 k) s = .next t ∧
    (t.queue k).busy = false ∧ (t.queue k).enabled = (s.queue k).enabled ∧ { t with queues := s.queues } = s)

/-- A step runs the command at the front of the queue on the state with the rest of the queue, and one round of the network on an empty one. Where it meets a choice of the model: log 3. (95_what_each_step_holds.md) -/
def Obligations.StepTakesFrontCommand : Prop :=
  (∀ (c : Instr) (s : State) (q : List Instr), step { s with pending := c :: q } = exec c { s with pending := q }) ∧
  ∀ s : State, s.pending = [] → step s = .next s.netTick

/-- After reset the registers read the reset values of their tables, the package is in RESET and unpowered, and every canonical form holds. Where it meets a choice of the model: log 1, 5. (R261, R313, R472, R478, R500, R507) -/
def Obligations.ResetLeavesWhatTheSpecGives : Prop :=
  let s := State.reset
  s.pending = [] ∧ s.ticks = 0 ∧ s.boot.state = .reset ∧ s.powered = false ∧ s.mainlandUp = false ∧
  s.power.capStored = 1800 ∧ s.power.fmaxStored = 18 ∧ s.power.cap = 1800 ∧ s.power.fmax = 18 ∧ s.power.idle = 0x03E80A0A#32 ∧
  (List.range 7).map (fun c => (s.qosOf c).req.toNat) = [76, 80, 56, 8, 16, 16, 2] ∧
  (∀ q, (s.queue q).enabled = false ∧ (s.queue q).active = false) ∧ (∀ n, (s.port n).up = false ∧ s.hostTx n = .float) ∧
  (∀ cl, (s.cluster cl).clk = .off) ∧ (∀ l, (s.core l).task = none ∧ (s.core l).groups = []) ∧
  s.fab.joined = false ∧ s.fab.forwarding = false ∧ s.mem.wf = true ∧ s.regsWf

/-- An instruction of the arithmetic port keeps the register files of every group in canonical form, whatever state it steps from. (R104, R148, R150, R157, 05_core_instruction_set.md Table 05.9) -/
def Obligations.RegisterFilesStayCanonical : Prop :=
  ∀ s t i r w x, s.pending = i :: r → encodeCore i = some (w, x) → (w.extractLsb' 0 8).toNat < 0x70 → s.regsWf → step s = .next t → t.regsWf
end

