-- ==== Sys2Proof/Laws/Maps.lean ====
section
/-! SUPPORT. The laws of numbered maps: a read after a write, and the canonical form that every write keeps. -/

namespace Sys2Proof.Machine

variable {α : Type}

@[simp] theorem look_nil (d : α) (k : Nat) : look d [] k = d := rfl

theorem look_drop (d : α) (m : SMap α) (k j : Nat) : look d (drop m k) j = if j = k then d else look d m j := by
  induction m with
  | nil => simp [drop]
  | cons p r ih =>
    obtain ⟨i, v⟩ := p
    by_cases h : i = k
    · subst h
      simp only [drop, if_true, ih, look]
      by_cases h2 : j = i
      · simp [h2]
      · simp [h2, Ne.symm h2]
    · simp only [drop, if_neg h, look, ih]
      by_cases h2 : i = j
      · subst h2; simp [h]
      · simp [h2]

theorem look_place (d : α) (m : SMap α) (k j : Nat) (v : α) :
    look d (place (drop m k) k v) j = if j = k then v else look d m j := by
  induction m with
  | nil => simp only [drop, place, look, eq_comm]
  | cons p r ih =>
    obtain ⟨i, w⟩ := p
    by_cases h : i = k
    · subst h
      simp only [drop, if_true, ih, look]
      by_cases h2 : j = i
      · simp [h2]
      · simp [h2, Ne.symm h2]
    · simp only [drop, if_neg h, place]
      split
      · simp only [look, look_drop]
        by_cases h2 : j = k
        · simp [h2]
        · simp [h2, Ne.symm h2]
      · simp only [look, ih]
        by_cases h2 : i = j
        · subst h2; simp [h]
        · simp [h2]

/-- A read after a write of a map. -/
theorem look_put [DecidableEq α] (d : α) (m : SMap α) (k j : Nat) (v : α) :
    look d (put d m k v) j = if j = k then v else look d m j := by
  unfold put
  split <;> rename_i h
  · rw [look_drop, h]
  · rw [look_place]

@[simp] theorem look_put_same [DecidableEq α] (d : α) (m : SMap α) (k : Nat) (v : α) :
    look d (put d m k v) k = v := by simp [look_put]

/-- A write leaves every other key as it was, whatever defaults the two sides read with. -/
theorem look_put_ne [DecidableEq α] (d e : α) (m : SMap α) {k j : Nat} (v : α) (h : j ≠ k) :
    look e (put d m k v) j = look e m j := by
  unfold put
  split
  · simp [look_drop, h]
  · simp [look_place, h]

/-! ### The canonical form -/

theorem drop_mem (m : SMap α) (k : Nat) (p : Nat × α) (h : p ∈ drop m k) : p ∈ m ∧ p.1 ≠ k := by
  induction m with
  | nil => simp [drop] at h
  | cons q r ih =>
    obtain ⟨i, v⟩ := q
    simp only [drop] at h
    split at h
    · exact ⟨List.mem_cons_of_mem _ (ih h).1, (ih h).2⟩
    · rcases List.mem_cons.1 h with rfl | h
      · exact ⟨List.mem_cons_self, by assumption⟩
      · exact ⟨List.mem_cons_of_mem _ (ih h).1, (ih h).2⟩

theorem drop_wf [DecidableEq α] (d : α) (m : SMap α) (k : Nat) (h : SMap.wf d m = true) : SMap.wf d (drop m k) = true := by
  induction m with
  | nil => exact h
  | cons q r ih =>
    obtain ⟨i, v⟩ := q
    simp only [SMap.wf, Bool.and_eq_true, List.all_eq_true] at h
    simp only [drop]
    split
    · exact ih h.2
    · simp only [SMap.wf, Bool.and_eq_true, List.all_eq_true]
      exact ⟨⟨h.1.1, fun p hp => h.1.2 p (drop_mem r k p hp).1⟩, ih h.2⟩

theorem place_mem (m : SMap α) (k : Nat) (v : α) (p : Nat × α) (h : p ∈ place m k v) : p = (k, v) ∨ p ∈ m := by
  induction m with
  | nil => simpa [place] using h
  | cons q r ih =>
    obtain ⟨i, w⟩ := q
    simp only [place] at h
    split at h
    · simpa using h
    · rcases List.mem_cons.1 h with rfl | h
      · exact .inr List.mem_cons_self
      · rcases ih h with h | h
        · exact .inl h
        · exact .inr (List.mem_cons_of_mem _ h)

theorem place_wf [DecidableEq α] (d : α) (m : SMap α) (k : Nat) (v : α) (hv : v ≠ d) (hk : ∀ p ∈ m, p.1 ≠ k)
    (h : SMap.wf d m = true) : SMap.wf d (place m k v) = true := by
  induction m with
  | nil => simp [place, SMap.wf, hv]
  | cons q r ih =>
    obtain ⟨i, w⟩ := q
    have h0 := h
    simp only [SMap.wf, Bool.and_eq_true, List.all_eq_true, decide_eq_true_eq] at h
    simp only [place]
    split <;> rename_i hlt
    · simp only [SMap.wf, Bool.and_eq_true, List.all_eq_true, decide_eq_true_eq]
      refine ⟨⟨hv, fun p hp => ?_⟩, by simpa [SMap.wf] using h⟩
      rcases List.mem_cons.1 hp with rfl | hp
      · exact hlt
      · exact Nat.lt_trans hlt (h.1.2 p hp)
    · have hne : i ≠ k := hk (i, w) List.mem_cons_self
      simp only [SMap.wf, Bool.and_eq_true, List.all_eq_true, decide_eq_true_eq]
      refine ⟨⟨h.1.1, fun p hp => ?_⟩, ih (fun p hp => hk p (List.mem_cons_of_mem _ hp)) h.2⟩
      rcases place_mem r k v p hp with rfl | hp
      · simp only; omega
      · exact h.1.2 p hp

/-- Every write keeps the canonical form. -/
theorem put_wf [DecidableEq α] (d : α) (m : SMap α) (k : Nat) (v : α) (h : SMap.wf d m = true) :
    SMap.wf d (put d m k v) = true := by
  unfold put
  split <;> rename_i hv
  · exact drop_wf d m k h
  · exact place_wf d _ k v hv (fun p hp => (drop_mem m k p hp).2) (drop_wf d m k h)

/-- Two maps in canonical form that read alike are equal. -/
theorem look_of_lt [DecidableEq α] (d : α) (m : SMap α) (k : Nat) (h : ∀ p ∈ m, k < p.1) : look d m k = d := by
  induction m with
  | nil => rfl
  | cons q r ih =>
    obtain ⟨i, v⟩ := q
    have := h (i, v) List.mem_cons_self
    simp only [look]
    rw [if_neg (by simp only at this; omega)]
    exact ih fun p hp => h p (List.mem_cons_of_mem _ hp)

/-- The byte map written from `a` on keeps its canonical form. -/
theorem putBytes_wf (m : SMap Byte) (a : Nat) (bs : List Byte) (h : SMap.wf 0 m = true) :
    SMap.wf 0 (putBytes m a bs) = true := by
  induction bs generalizing m a with
  | nil => exact h
  | cons b r ih => exact ih _ _ (put_wf 0 m a b h)

/-- A read after a write of bytes. -/
theorem look_putBytes (m : SMap Byte) (a : Nat) (bs : List Byte) (j : Nat) :
    look 0 (putBytes m a bs) j = if a ≤ j ∧ j < a + bs.length then bs.getD (j - a) 0 else look 0 m j := by
  induction bs generalizing m a with
  | nil => simp only [putBytes, List.length_nil, Nat.add_zero]; rw [if_neg (by omega)]
  | cons b r ih =>
    simp only [putBytes, ih, List.length_cons, look_put]
    by_cases h1 : a + 1 ≤ j ∧ j < a + 1 + r.length
    · rw [if_pos h1, if_pos (by omega)]
      obtain ⟨n, rfl⟩ : ∃ n, j = a + 1 + n := ⟨j - (a + 1), by omega⟩
      rw [show a + 1 + n - (a + 1) = n by omega, show a + 1 + n - a = n + 1 by omega]; rfl
    · rw [if_neg h1]
      by_cases h2 : j = a
      · subst h2; rw [if_pos rfl, if_pos (by omega)]; simp
      · rw [if_neg h2, if_neg (by omega)]

end Sys2Proof.Machine
end

