-- ==== Sys2Proof/Laws/State.lean ====
section
/-! SUPPORT. What each named update of the state leaves: the entry it writes, and every other field and entry. -/

namespace Sys2Proof.Machine

@[simp] theorem State.putSlot_slot (s : State) (k j : Nat) (x : Slot) :
    (s.putSlot k x).slot j = if j = k then x else s.slot j := by
  unfold State.putSlot State.slot
  by_cases h : j = k
  · subst h; simp
  · simp [look_put_ne _ _ _ _ h, h]

@[simp] theorem State.modSlot_slot (s : State) (k j : Nat) (g : Slot → Slot) :
    (s.modSlot k g).slot j = if j = k then g (s.slot k) else s.slot j := by
  simp [State.modSlot]

@[simp] theorem State.putSlot_frame (s : State) (k : Nat) (x : Slot) :
    (s.putSlot k x).pending = s.pending ∧ (s.putSlot k x).free = s.free ∧ (s.putSlot k x).ticks = s.ticks ∧
    (s.putSlot k x).rounds = s.rounds ∧ (s.putSlot k x).stamp = s.stamp ∧ (s.putSlot k x).dispatchSeq = s.dispatchSeq ∧
    (s.putSlot k x).hubTurns = s.hubTurns ∧ (s.putSlot k x).gangSeq = s.gangSeq ∧ (s.putSlot k x).workSeq = s.workSeq ∧
    (s.putSlot k x).evlSeq = s.evlSeq ∧ (s.putSlot k x).boot = s.boot ∧ (s.putSlot k x).power = s.power ∧
    (s.putSlot k x).lcores = s.lcores ∧ (s.putSlot k x).cores = s.cores ∧ (s.putSlot k x).clusters = s.clusters ∧
    (s.putSlot k x).slices = s.slices ∧ (s.putSlot k x).channels = s.channels ∧ (s.putSlot k x).regions = s.regions ∧
    (s.putSlot k x).dies = s.dies ∧ (s.putSlot k x).parts = s.parts ∧ (s.putSlot k x).mem = s.mem ∧
    (s.putSlot k x).light = s.light ∧ (s.putSlot k x).producers = s.producers ∧ (s.putSlot k x).lost = s.lost ∧
    (s.putSlot k x).ptes = s.ptes ∧ (s.putSlot k x).owners = s.owners ∧ (s.putSlot k x).ended = s.ended ∧
    (s.putSlot k x).net = s.net ∧ (s.putSlot k x).fab = s.fab ∧ (s.putSlot k x).ports = s.ports ∧
    (s.putSlot k x).funcs = s.funcs ∧ (s.putSlot k x).queues = s.queues ∧ (s.putSlot k x).host = s.host ∧
    (∀ j, (s.putSlot k x).lcore j = s.lcore j) ∧ (∀ j, (s.putSlot k x).core j = s.core j) ∧
    (∀ j, (s.putSlot k x).cluster j = s.cluster j) ∧ (∀ j, (s.putSlot k x).slice j = s.slice j) ∧
    (∀ j, (s.putSlot k x).channel j = s.channel j) ∧ (∀ j, (s.putSlot k x).region j = s.region j) ∧
    (∀ j, (s.putSlot k x).die j = s.die j) ∧ (∀ j, (s.putSlot k x).part j = s.part j) ∧
    (∀ j, (s.putSlot k x).port j = s.port j) ∧ (∀ j, (s.putSlot k x).func j = s.func j) ∧
    (∀ j, (s.putSlot k x).queue j = s.queue j) :=
  ⟨rfl, rfl, rfl, rfl, rfl, rfl, rfl, rfl, rfl, rfl, rfl, rfl, rfl, rfl, rfl, rfl, rfl, rfl, rfl, rfl, rfl, rfl, rfl,
   rfl, rfl, rfl, rfl, rfl, rfl, rfl, rfl, rfl, rfl, fun _ => rfl, fun _ => rfl, fun _ => rfl, fun _ => rfl,
   fun _ => rfl, fun _ => rfl, fun _ => rfl, fun _ => rfl, fun _ => rfl, fun _ => rfl, fun _ => rfl⟩

@[simp] theorem State.modSlot_frame (s : State) (k : Nat) (g : Slot → Slot) :
    (s.modSlot k g).pending = s.pending ∧ (s.modSlot k g).free = s.free ∧ (s.modSlot k g).ticks = s.ticks ∧
    (s.modSlot k g).rounds = s.rounds ∧ (s.modSlot k g).stamp = s.stamp ∧ (s.modSlot k g).dispatchSeq = s.dispatchSeq ∧
    (s.modSlot k g).hubTurns = s.hubTurns ∧ (s.modSlot k g).gangSeq = s.gangSeq ∧ (s.modSlot k g).workSeq = s.workSeq ∧
    (s.modSlot k g).evlSeq = s.evlSeq ∧ (s.modSlot k g).boot = s.boot ∧ (s.modSlot k g).power = s.power ∧
    (s.modSlot k g).lcores = s.lcores ∧ (s.modSlot k g).cores = s.cores ∧ (s.modSlot k g).clusters = s.clusters ∧
    (s.modSlot k g).slices = s.slices ∧ (s.modSlot k g).channels = s.channels ∧ (s.modSlot k g).regions = s.regions ∧
    (s.modSlot k g).dies = s.dies ∧ (s.modSlot k g).parts = s.parts ∧ (s.modSlot k g).mem = s.mem ∧
    (s.modSlot k g).light = s.light ∧ (s.modSlot k g).producers = s.producers ∧ (s.modSlot k g).lost = s.lost ∧
    (s.modSlot k g).ptes = s.ptes ∧ (s.modSlot k g).owners = s.owners ∧ (s.modSlot k g).ended = s.ended ∧
    (s.modSlot k g).net = s.net ∧ (s.modSlot k g).fab = s.fab ∧ (s.modSlot k g).ports = s.ports ∧
    (s.modSlot k g).funcs = s.funcs ∧ (s.modSlot k g).queues = s.queues ∧ (s.modSlot k g).host = s.host ∧
    (∀ j, (s.modSlot k g).lcore j = s.lcore j) ∧ (∀ j, (s.modSlot k g).core j = s.core j) ∧
    (∀ j, (s.modSlot k g).cluster j = s.cluster j) ∧ (∀ j, (s.modSlot k g).slice j = s.slice j) ∧
    (∀ j, (s.modSlot k g).channel j = s.channel j) ∧ (∀ j, (s.modSlot k g).region j = s.region j) ∧
    (∀ j, (s.modSlot k g).die j = s.die j) ∧ (∀ j, (s.modSlot k g).part j = s.part j) ∧
    (∀ j, (s.modSlot k g).port j = s.port j) ∧ (∀ j, (s.modSlot k g).func j = s.func j) ∧
    (∀ j, (s.modSlot k g).queue j = s.queue j) :=
  ⟨rfl, rfl, rfl, rfl, rfl, rfl, rfl, rfl, rfl, rfl, rfl, rfl, rfl, rfl, rfl, rfl, rfl, rfl, rfl, rfl, rfl, rfl, rfl,
   rfl, rfl, rfl, rfl, rfl, rfl, rfl, rfl, rfl, rfl, fun _ => rfl, fun _ => rfl, fun _ => rfl, fun _ => rfl,
   fun _ => rfl, fun _ => rfl, fun _ => rfl, fun _ => rfl, fun _ => rfl, fun _ => rfl, fun _ => rfl⟩

@[simp] theorem State.putLcore_lcore (s : State) (k j : Nat) (x : LCore) :
    (s.putLcore k x).lcore j = if j = k then x else s.lcore j := by
  unfold State.putLcore State.lcore
  by_cases h : j = k
  · subst h; simp
  · simp [look_put_ne _ _ _ _ h, h]

@[simp] theorem State.modLcore_lcore (s : State) (k j : Nat) (g : LCore → LCore) :
    (s.modLcore k g).lcore j = if j = k then g (s.lcore k) else s.lcore j := by
  simp [State.modLcore]

@[simp] theorem State.putLcore_frame (s : State) (k : Nat) (x : LCore) :
    (s.putLcore k x).pending = s.pending ∧ (s.putLcore k x).free = s.free ∧ (s.putLcore k x).ticks = s.ticks ∧
    (s.putLcore k x).rounds = s.rounds ∧ (s.putLcore k x).stamp = s.stamp ∧ (s.putLcore k x).dispatchSeq = s.dispatchSeq ∧
    (s.putLcore k x).hubTurns = s.hubTurns ∧ (s.putLcore k x).gangSeq = s.gangSeq ∧ (s.putLcore k x).workSeq = s.workSeq ∧
    (s.putLcore k x).evlSeq = s.evlSeq ∧ (s.putLcore k x).boot = s.boot ∧ (s.putLcore k x).power = s.power ∧
    (s.putLcore k x).slots = s.slots ∧ (s.putLcore k x).cores = s.cores ∧ (s.putLcore k x).clusters = s.clusters ∧
    (s.putLcore k x).slices = s.slices ∧ (s.putLcore k x).channels = s.channels ∧ (s.putLcore k x).regions = s.regions ∧
    (s.putLcore k x).dies = s.dies ∧ (s.putLcore k x).parts = s.parts ∧ (s.putLcore k x).mem = s.mem ∧
    (s.putLcore k x).light = s.light ∧ (s.putLcore k x).producers = s.producers ∧ (s.putLcore k x).lost = s.lost ∧
    (s.putLcore k x).ptes = s.ptes ∧ (s.putLcore k x).owners = s.owners ∧ (s.putLcore k x).ended = s.ended ∧
    (s.putLcore k x).net = s.net ∧ (s.putLcore k x).fab = s.fab ∧ (s.putLcore k x).ports = s.ports ∧
    (s.putLcore k x).funcs = s.funcs ∧ (s.putLcore k x).queues = s.queues ∧ (s.putLcore k x).host = s.host ∧
    (∀ j, (s.putLcore k x).slot j = s.slot j) ∧ (∀ j, (s.putLcore k x).core j = s.core j) ∧
    (∀ j, (s.putLcore k x).cluster j = s.cluster j) ∧ (∀ j, (s.putLcore k x).slice j = s.slice j) ∧
    (∀ j, (s.putLcore k x).channel j = s.channel j) ∧ (∀ j, (s.putLcore k x).region j = s.region j) ∧
    (∀ j, (s.putLcore k x).die j = s.die j) ∧ (∀ j, (s.putLcore k x).part j = s.part j) ∧
    (∀ j, (s.putLcore k x).port j = s.port j) ∧ (∀ j, (s.putLcore k x).func j = s.func j) ∧
    (∀ j, (s.putLcore k x).queue j = s.queue j) :=
  ⟨rfl, rfl, rfl, rfl, rfl, rfl, rfl, rfl, rfl, rfl, rfl, rfl, rfl, rfl, rfl, rfl, rfl, rfl, rfl, rfl, rfl, rfl, rfl,
   rfl, rfl, rfl, rfl, rfl, rfl, rfl, rfl, rfl, rfl, fun _ => rfl, fun _ => rfl, fun _ => rfl, fun _ => rfl,
   fun _ => rfl, fun _ => rfl, fun _ => rfl, fun _ => rfl, fun _ => rfl, fun _ => rfl, fun _ => rfl⟩

@[simp] theorem State.modLcore_frame (s : State) (k : Nat) (g : LCore → LCore) :
    (s.modLcore k g).pending = s.pending ∧ (s.modLcore k g).free = s.free ∧ (s.modLcore k g).ticks = s.ticks ∧
    (s.modLcore k g).rounds = s.rounds ∧ (s.modLcore k g).stamp = s.stamp ∧ (s.modLcore k g).dispatchSeq = s.dispatchSeq ∧
    (s.modLcore k g).hubTurns = s.hubTurns ∧ (s.modLcore k g).gangSeq = s.gangSeq ∧ (s.modLcore k g).workSeq = s.workSeq ∧
    (s.modLcore k g).evlSeq = s.evlSeq ∧ (s.modLcore k g).boot = s.boot ∧ (s.modLcore k g).power = s.power ∧
    (s.modLcore k g).slots = s.slots ∧ (s.modLcore k g).cores = s.cores ∧ (s.modLcore k g).clusters = s.clusters ∧
    (s.modLcore k g).slices = s.slices ∧ (s.modLcore k g).channels = s.channels ∧ (s.modLcore k g).regions = s.regions ∧
    (s.modLcore k g).dies = s.dies ∧ (s.modLcore k g).parts = s.parts ∧ (s.modLcore k g).mem = s.mem ∧
    (s.modLcore k g).light = s.light ∧ (s.modLcore k g).producers = s.producers ∧ (s.modLcore k g).lost = s.lost ∧
    (s.modLcore k g).ptes = s.ptes ∧ (s.modLcore k g).owners = s.owners ∧ (s.modLcore k g).ended = s.ended ∧
    (s.modLcore k g).net = s.net ∧ (s.modLcore k g).fab = s.fab ∧ (s.modLcore k g).ports = s.ports ∧
    (s.modLcore k g).funcs = s.funcs ∧ (s.modLcore k g).queues = s.queues ∧ (s.modLcore k g).host = s.host ∧
    (∀ j, (s.modLcore k g).slot j = s.slot j) ∧ (∀ j, (s.modLcore k g).core j = s.core j) ∧
    (∀ j, (s.modLcore k g).cluster j = s.cluster j) ∧ (∀ j, (s.modLcore k g).slice j = s.slice j) ∧
    (∀ j, (s.modLcore k g).channel j = s.channel j) ∧ (∀ j, (s.modLcore k g).region j = s.region j) ∧
    (∀ j, (s.modLcore k g).die j = s.die j) ∧ (∀ j, (s.modLcore k g).part j = s.part j) ∧
    (∀ j, (s.modLcore k g).port j = s.port j) ∧ (∀ j, (s.modLcore k g).func j = s.func j) ∧
    (∀ j, (s.modLcore k g).queue j = s.queue j) :=
  ⟨rfl, rfl, rfl, rfl, rfl, rfl, rfl, rfl, rfl, rfl, rfl, rfl, rfl, rfl, rfl, rfl, rfl, rfl, rfl, rfl, rfl, rfl, rfl,
   rfl, rfl, rfl, rfl, rfl, rfl, rfl, rfl, rfl, rfl, fun _ => rfl, fun _ => rfl, fun _ => rfl, fun _ => rfl,
   fun _ => rfl, fun _ => rfl, fun _ => rfl, fun _ => rfl, fun _ => rfl, fun _ => rfl, fun _ => rfl⟩

@[simp] theorem State.putCore_core (s : State) (k j : Nat) (x : Core) :
    (s.putCore k x).core j = if j = k then x else s.core j := by
  unfold State.putCore State.core
  by_cases h : j = k
  · subst h; simp
  · simp [look_put_ne _ _ _ _ h, h]

@[simp] theorem State.modCore_core (s : State) (k j : Nat) (g : Core → Core) :
    (s.modCore k g).core j = if j = k then g (s.core k) else s.core j := by
  simp [State.modCore]

@[simp] theorem State.putCore_frame (s : State) (k : Nat) (x : Core) :
    (s.putCore k x).pending = s.pending ∧ (s.putCore k x).free = s.free ∧ (s.putCore k x).ticks = s.ticks ∧
    (s.putCore k x).rounds = s.rounds ∧ (s.putCore k x).stamp = s.stamp ∧ (s.putCore k x).dispatchSeq = s.dispatchSeq ∧
    (s.putCore k x).hubTurns = s.hubTurns ∧ (s.putCore k x).gangSeq = s.gangSeq ∧ (s.putCore k x).workSeq = s.workSeq ∧
    (s.putCore k x).evlSeq = s.evlSeq ∧ (s.putCore k x).boot = s.boot ∧ (s.putCore k x).power = s.power ∧
    (s.putCore k x).slots = s.slots ∧ (s.putCore k x).lcores = s.lcores ∧ (s.putCore k x).clusters = s.clusters ∧
    (s.putCore k x).slices = s.slices ∧ (s.putCore k x).channels = s.channels ∧ (s.putCore k x).regions = s.regions ∧
    (s.putCore k x).dies = s.dies ∧ (s.putCore k x).parts = s.parts ∧ (s.putCore k x).mem = s.mem ∧
    (s.putCore k x).light = s.light ∧ (s.putCore k x).producers = s.producers ∧ (s.putCore k x).lost = s.lost ∧
    (s.putCore k x).ptes = s.ptes ∧ (s.putCore k x).owners = s.owners ∧ (s.putCore k x).ended = s.ended ∧
    (s.putCore k x).net = s.net ∧ (s.putCore k x).fab = s.fab ∧ (s.putCore k x).ports = s.ports ∧
    (s.putCore k x).funcs = s.funcs ∧ (s.putCore k x).queues = s.queues ∧ (s.putCore k x).host = s.host ∧
    (∀ j, (s.putCore k x).slot j = s.slot j) ∧ (∀ j, (s.putCore k x).lcore j = s.lcore j) ∧
    (∀ j, (s.putCore k x).cluster j = s.cluster j) ∧ (∀ j, (s.putCore k x).slice j = s.slice j) ∧
    (∀ j, (s.putCore k x).channel j = s.channel j) ∧ (∀ j, (s.putCore k x).region j = s.region j) ∧
    (∀ j, (s.putCore k x).die j = s.die j) ∧ (∀ j, (s.putCore k x).part j = s.part j) ∧
    (∀ j, (s.putCore k x).port j = s.port j) ∧ (∀ j, (s.putCore k x).func j = s.func j) ∧
    (∀ j, (s.putCore k x).queue j = s.queue j) :=
  ⟨rfl, rfl, rfl, rfl, rfl, rfl, rfl, rfl, rfl, rfl, rfl, rfl, rfl, rfl, rfl, rfl, rfl, rfl, rfl, rfl, rfl, rfl, rfl,
   rfl, rfl, rfl, rfl, rfl, rfl, rfl, rfl, rfl, rfl, fun _ => rfl, fun _ => rfl, fun _ => rfl, fun _ => rfl,
   fun _ => rfl, fun _ => rfl, fun _ => rfl, fun _ => rfl, fun _ => rfl, fun _ => rfl, fun _ => rfl⟩

@[simp] theorem State.modCore_frame (s : State) (k : Nat) (g : Core → Core) :
    (s.modCore k g).pending = s.pending ∧ (s.modCore k g).free = s.free ∧ (s.modCore k g).ticks = s.ticks ∧
    (s.modCore k g).rounds = s.rounds ∧ (s.modCore k g).stamp = s.stamp ∧ (s.modCore k g).dispatchSeq = s.dispatchSeq ∧
    (s.modCore k g).hubTurns = s.hubTurns ∧ (s.modCore k g).gangSeq = s.gangSeq ∧ (s.modCore k g).workSeq = s.workSeq ∧
    (s.modCore k g).evlSeq = s.evlSeq ∧ (s.modCore k g).boot = s.boot ∧ (s.modCore k g).power = s.power ∧
    (s.modCore k g).slots = s.slots ∧ (s.modCore k g).lcores = s.lcores ∧ (s.modCore k g).clusters = s.clusters ∧
    (s.modCore k g).slices = s.slices ∧ (s.modCore k g).channels = s.channels ∧ (s.modCore k g).regions = s.regions ∧
    (s.modCore k g).dies = s.dies ∧ (s.modCore k g).parts = s.parts ∧ (s.modCore k g).mem = s.mem ∧
    (s.modCore k g).light = s.light ∧ (s.modCore k g).producers = s.producers ∧ (s.modCore k g).lost = s.lost ∧
    (s.modCore k g).ptes = s.ptes ∧ (s.modCore k g).owners = s.owners ∧ (s.modCore k g).ended = s.ended ∧
    (s.modCore k g).net = s.net ∧ (s.modCore k g).fab = s.fab ∧ (s.modCore k g).ports = s.ports ∧
    (s.modCore k g).funcs = s.funcs ∧ (s.modCore k g).queues = s.queues ∧ (s.modCore k g).host = s.host ∧
    (∀ j, (s.modCore k g).slot j = s.slot j) ∧ (∀ j, (s.modCore k g).lcore j = s.lcore j) ∧
    (∀ j, (s.modCore k g).cluster j = s.cluster j) ∧ (∀ j, (s.modCore k g).slice j = s.slice j) ∧
    (∀ j, (s.modCore k g).channel j = s.channel j) ∧ (∀ j, (s.modCore k g).region j = s.region j) ∧
    (∀ j, (s.modCore k g).die j = s.die j) ∧ (∀ j, (s.modCore k g).part j = s.part j) ∧
    (∀ j, (s.modCore k g).port j = s.port j) ∧ (∀ j, (s.modCore k g).func j = s.func j) ∧
    (∀ j, (s.modCore k g).queue j = s.queue j) :=
  ⟨rfl, rfl, rfl, rfl, rfl, rfl, rfl, rfl, rfl, rfl, rfl, rfl, rfl, rfl, rfl, rfl, rfl, rfl, rfl, rfl, rfl, rfl, rfl,
   rfl, rfl, rfl, rfl, rfl, rfl, rfl, rfl, rfl, rfl, fun _ => rfl, fun _ => rfl, fun _ => rfl, fun _ => rfl,
   fun _ => rfl, fun _ => rfl, fun _ => rfl, fun _ => rfl, fun _ => rfl, fun _ => rfl, fun _ => rfl⟩

@[simp] theorem State.putCluster_cluster (s : State) (k j : Nat) (x : Cluster) :
    (s.putCluster k x).cluster j = if j = k then x else s.cluster j := by
  unfold State.putCluster State.cluster
  by_cases h : j = k
  · subst h; simp
  · simp [look_put_ne _ _ _ _ h, h]

@[simp] theorem State.modCluster_cluster (s : State) (k j : Nat) (g : Cluster → Cluster) :
    (s.modCluster k g).cluster j = if j = k then g (s.cluster k) else s.cluster j := by
  simp [State.modCluster]

@[simp] theorem State.putCluster_frame (s : State) (k : Nat) (x : Cluster) :
    (s.putCluster k x).pending = s.pending ∧ (s.putCluster k x).free = s.free ∧ (s.putCluster k x).ticks = s.ticks ∧
    (s.putCluster k x).rounds = s.rounds ∧ (s.putCluster k x).stamp = s.stamp ∧
    (s.putCluster k x).dispatchSeq = s.dispatchSeq ∧ (s.putCluster k x).hubTurns = s.hubTurns ∧
    (s.putCluster k x).gangSeq = s.gangSeq ∧ (s.putCluster k x).workSeq = s.workSeq ∧ (s.putCluster k x).evlSeq = s.evlSeq ∧
    (s.putCluster k x).boot = s.boot ∧ (s.putCluster k x).power = s.power ∧ (s.putCluster k x).slots = s.slots ∧
    (s.putCluster k x).lcores = s.lcores ∧ (s.putCluster k x).cores = s.cores ∧ (s.putCluster k x).slices = s.slices ∧
    (s.putCluster k x).channels = s.channels ∧ (s.putCluster k x).regions = s.regions ∧ (s.putCluster k x).dies = s.dies ∧
    (s.putCluster k x).parts = s.parts ∧ (s.putCluster k x).mem = s.mem ∧ (s.putCluster k x).light = s.light ∧
    (s.putCluster k x).producers = s.producers ∧ (s.putCluster k x).lost = s.lost ∧ (s.putCluster k x).ptes = s.ptes ∧
    (s.putCluster k x).owners = s.owners ∧ (s.putCluster k x).ended = s.ended ∧ (s.putCluster k x).net = s.net ∧
    (s.putCluster k x).fab = s.fab ∧ (s.putCluster k x).ports = s.ports ∧ (s.putCluster k x).funcs = s.funcs ∧
    (s.putCluster k x).queues = s.queues ∧ (s.putCluster k x).host = s.host ∧ (∀ j, (s.putCluster k x).slot j = s.slot j) ∧
    (∀ j, (s.putCluster k x).lcore j = s.lcore j) ∧ (∀ j, (s.putCluster k x).core j = s.core j) ∧
    (∀ j, (s.putCluster k x).slice j = s.slice j) ∧ (∀ j, (s.putCluster k x).channel j = s.channel j) ∧
    (∀ j, (s.putCluster k x).region j = s.region j) ∧ (∀ j, (s.putCluster k x).die j = s.die j) ∧
    (∀ j, (s.putCluster k x).part j = s.part j) ∧ (∀ j, (s.putCluster k x).port j = s.port j) ∧
    (∀ j, (s.putCluster k x).func j = s.func j) ∧ (∀ j, (s.putCluster k x).queue j = s.queue j) :=
  ⟨rfl, rfl, rfl, rfl, rfl, rfl, rfl, rfl, rfl, rfl, rfl, rfl, rfl, rfl, rfl, rfl, rfl, rfl, rfl, rfl, rfl, rfl, rfl,
   rfl, rfl, rfl, rfl, rfl, rfl, rfl, rfl, rfl, rfl, fun _ => rfl, fun _ => rfl, fun _ => rfl, fun _ => rfl,
   fun _ => rfl, fun _ => rfl, fun _ => rfl, fun _ => rfl, fun _ => rfl, fun _ => rfl, fun _ => rfl⟩

@[simp] theorem State.modCluster_frame (s : State) (k : Nat) (g : Cluster → Cluster) :
    (s.modCluster k g).pending = s.pending ∧ (s.modCluster k g).free = s.free ∧ (s.modCluster k g).ticks = s.ticks ∧
    (s.modCluster k g).rounds = s.rounds ∧ (s.modCluster k g).stamp = s.stamp ∧
    (s.modCluster k g).dispatchSeq = s.dispatchSeq ∧ (s.modCluster k g).hubTurns = s.hubTurns ∧
    (s.modCluster k g).gangSeq = s.gangSeq ∧ (s.modCluster k g).workSeq = s.workSeq ∧ (s.modCluster k g).evlSeq = s.evlSeq ∧
    (s.modCluster k g).boot = s.boot ∧ (s.modCluster k g).power = s.power ∧ (s.modCluster k g).slots = s.slots ∧
    (s.modCluster k g).lcores = s.lcores ∧ (s.modCluster k g).cores = s.cores ∧ (s.modCluster k g).slices = s.slices ∧
    (s.modCluster k g).channels = s.channels ∧ (s.modCluster k g).regions = s.regions ∧ (s.modCluster k g).dies = s.dies ∧
    (s.modCluster k g).parts = s.parts ∧ (s.modCluster k g).mem = s.mem ∧ (s.modCluster k g).light = s.light ∧
    (s.modCluster k g).producers = s.producers ∧ (s.modCluster k g).lost = s.lost ∧ (s.modCluster k g).ptes = s.ptes ∧
    (s.modCluster k g).owners = s.owners ∧ (s.modCluster k g).ended = s.ended ∧ (s.modCluster k g).net = s.net ∧
    (s.modCluster k g).fab = s.fab ∧ (s.modCluster k g).ports = s.ports ∧ (s.modCluster k g).funcs = s.funcs ∧
    (s.modCluster k g).queues = s.queues ∧ (s.modCluster k g).host = s.host ∧ (∀ j, (s.modCluster k g).slot j = s.slot j) ∧
    (∀ j, (s.modCluster k g).lcore j = s.lcore j) ∧ (∀ j, (s.modCluster k g).core j = s.core j) ∧
    (∀ j, (s.modCluster k g).slice j = s.slice j) ∧ (∀ j, (s.modCluster k g).channel j = s.channel j) ∧
    (∀ j, (s.modCluster k g).region j = s.region j) ∧ (∀ j, (s.modCluster k g).die j = s.die j) ∧
    (∀ j, (s.modCluster k g).part j = s.part j) ∧ (∀ j, (s.modCluster k g).port j = s.port j) ∧
    (∀ j, (s.modCluster k g).func j = s.func j) ∧ (∀ j, (s.modCluster k g).queue j = s.queue j) :=
  ⟨rfl, rfl, rfl, rfl, rfl, rfl, rfl, rfl, rfl, rfl, rfl, rfl, rfl, rfl, rfl, rfl, rfl, rfl, rfl, rfl, rfl, rfl, rfl,
   rfl, rfl, rfl, rfl, rfl, rfl, rfl, rfl, rfl, rfl, fun _ => rfl, fun _ => rfl, fun _ => rfl, fun _ => rfl,
   fun _ => rfl, fun _ => rfl, fun _ => rfl, fun _ => rfl, fun _ => rfl, fun _ => rfl, fun _ => rfl⟩

@[simp] theorem State.putSlice_slice (s : State) (k j : Nat) (x : Slice) :
    (s.putSlice k x).slice j = if j = k then x else s.slice j := by
  unfold State.putSlice State.slice
  by_cases h : j = k
  · subst h; simp
  · simp [look_put_ne _ _ _ _ h, h]

@[simp] theorem State.modSlice_slice (s : State) (k j : Nat) (g : Slice → Slice) :
    (s.modSlice k g).slice j = if j = k then g (s.slice k) else s.slice j := by
  simp [State.modSlice]

@[simp] theorem State.putSlice_frame (s : State) (k : Nat) (x : Slice) :
    (s.putSlice k x).pending = s.pending ∧ (s.putSlice k x).free = s.free ∧ (s.putSlice k x).ticks = s.ticks ∧
    (s.putSlice k x).rounds = s.rounds ∧ (s.putSlice k x).stamp = s.stamp ∧ (s.putSlice k x).dispatchSeq = s.dispatchSeq ∧
    (s.putSlice k x).hubTurns = s.hubTurns ∧ (s.putSlice k x).gangSeq = s.gangSeq ∧ (s.putSlice k x).workSeq = s.workSeq ∧
    (s.putSlice k x).evlSeq = s.evlSeq ∧ (s.putSlice k x).boot = s.boot ∧ (s.putSlice k x).power = s.power ∧
    (s.putSlice k x).slots = s.slots ∧ (s.putSlice k x).lcores = s.lcores ∧ (s.putSlice k x).cores = s.cores ∧
    (s.putSlice k x).clusters = s.clusters ∧ (s.putSlice k x).channels = s.channels ∧ (s.putSlice k x).regions = s.regions ∧
    (s.putSlice k x).dies = s.dies ∧ (s.putSlice k x).parts = s.parts ∧ (s.putSlice k x).mem = s.mem ∧
    (s.putSlice k x).light = s.light ∧ (s.putSlice k x).producers = s.producers ∧ (s.putSlice k x).lost = s.lost ∧
    (s.putSlice k x).ptes = s.ptes ∧ (s.putSlice k x).owners = s.owners ∧ (s.putSlice k x).ended = s.ended ∧
    (s.putSlice k x).net = s.net ∧ (s.putSlice k x).fab = s.fab ∧ (s.putSlice k x).ports = s.ports ∧
    (s.putSlice k x).funcs = s.funcs ∧ (s.putSlice k x).queues = s.queues ∧ (s.putSlice k x).host = s.host ∧
    (∀ j, (s.putSlice k x).slot j = s.slot j) ∧ (∀ j, (s.putSlice k x).lcore j = s.lcore j) ∧
    (∀ j, (s.putSlice k x).core j = s.core j) ∧ (∀ j, (s.putSlice k x).cluster j = s.cluster j) ∧
    (∀ j, (s.putSlice k x).channel j = s.channel j) ∧ (∀ j, (s.putSlice k x).region j = s.region j) ∧
    (∀ j, (s.putSlice k x).die j = s.die j) ∧ (∀ j, (s.putSlice k x).part j = s.part j) ∧
    (∀ j, (s.putSlice k x).port j = s.port j) ∧ (∀ j, (s.putSlice k x).func j = s.func j) ∧
    (∀ j, (s.putSlice k x).queue j = s.queue j) :=
  ⟨rfl, rfl, rfl, rfl, rfl, rfl, rfl, rfl, rfl, rfl, rfl, rfl, rfl, rfl, rfl, rfl, rfl, rfl, rfl, rfl, rfl, rfl, rfl,
   rfl, rfl, rfl, rfl, rfl, rfl, rfl, rfl, rfl, rfl, fun _ => rfl, fun _ => rfl, fun _ => rfl, fun _ => rfl,
   fun _ => rfl, fun _ => rfl, fun _ => rfl, fun _ => rfl, fun _ => rfl, fun _ => rfl, fun _ => rfl⟩

@[simp] theorem State.modSlice_frame (s : State) (k : Nat) (g : Slice → Slice) :
    (s.modSlice k g).pending = s.pending ∧ (s.modSlice k g).free = s.free ∧ (s.modSlice k g).ticks = s.ticks ∧
    (s.modSlice k g).rounds = s.rounds ∧ (s.modSlice k g).stamp = s.stamp ∧ (s.modSlice k g).dispatchSeq = s.dispatchSeq ∧
    (s.modSlice k g).hubTurns = s.hubTurns ∧ (s.modSlice k g).gangSeq = s.gangSeq ∧ (s.modSlice k g).workSeq = s.workSeq ∧
    (s.modSlice k g).evlSeq = s.evlSeq ∧ (s.modSlice k g).boot = s.boot ∧ (s.modSlice k g).power = s.power ∧
    (s.modSlice k g).slots = s.slots ∧ (s.modSlice k g).lcores = s.lcores ∧ (s.modSlice k g).cores = s.cores ∧
    (s.modSlice k g).clusters = s.clusters ∧ (s.modSlice k g).channels = s.channels ∧ (s.modSlice k g).regions = s.regions ∧
    (s.modSlice k g).dies = s.dies ∧ (s.modSlice k g).parts = s.parts ∧ (s.modSlice k g).mem = s.mem ∧
    (s.modSlice k g).light = s.light ∧ (s.modSlice k g).producers = s.producers ∧ (s.modSlice k g).lost = s.lost ∧
    (s.modSlice k g).ptes = s.ptes ∧ (s.modSlice k g).owners = s.owners ∧ (s.modSlice k g).ended = s.ended ∧
    (s.modSlice k g).net = s.net ∧ (s.modSlice k g).fab = s.fab ∧ (s.modSlice k g).ports = s.ports ∧
    (s.modSlice k g).funcs = s.funcs ∧ (s.modSlice k g).queues = s.queues ∧ (s.modSlice k g).host = s.host ∧
    (∀ j, (s.modSlice k g).slot j = s.slot j) ∧ (∀ j, (s.modSlice k g).lcore j = s.lcore j) ∧
    (∀ j, (s.modSlice k g).core j = s.core j) ∧ (∀ j, (s.modSlice k g).cluster j = s.cluster j) ∧
    (∀ j, (s.modSlice k g).channel j = s.channel j) ∧ (∀ j, (s.modSlice k g).region j = s.region j) ∧
    (∀ j, (s.modSlice k g).die j = s.die j) ∧ (∀ j, (s.modSlice k g).part j = s.part j) ∧
    (∀ j, (s.modSlice k g).port j = s.port j) ∧ (∀ j, (s.modSlice k g).func j = s.func j) ∧
    (∀ j, (s.modSlice k g).queue j = s.queue j) :=
  ⟨rfl, rfl, rfl, rfl, rfl, rfl, rfl, rfl, rfl, rfl, rfl, rfl, rfl, rfl, rfl, rfl, rfl, rfl, rfl, rfl, rfl, rfl, rfl,
   rfl, rfl, rfl, rfl, rfl, rfl, rfl, rfl, rfl, rfl, fun _ => rfl, fun _ => rfl, fun _ => rfl, fun _ => rfl,
   fun _ => rfl, fun _ => rfl, fun _ => rfl, fun _ => rfl, fun _ => rfl, fun _ => rfl, fun _ => rfl⟩

@[simp] theorem State.putChannel_channel (s : State) (k j : Nat) (x : Channel) :
    (s.putChannel k x).channel j = if j = k then x else s.channel j := by
  unfold State.putChannel State.channel
  by_cases h : j = k
  · subst h; simp
  · simp [look_put_ne _ _ _ _ h, h]

@[simp] theorem State.modChannel_channel (s : State) (k j : Nat) (g : Channel → Channel) :
    (s.modChannel k g).channel j = if j = k then g (s.channel k) else s.channel j := by
  simp [State.modChannel]

@[simp] theorem State.putChannel_frame (s : State) (k : Nat) (x : Channel) :
    (s.putChannel k x).pending = s.pending ∧ (s.putChannel k x).free = s.free ∧ (s.putChannel k x).ticks = s.ticks ∧
    (s.putChannel k x).rounds = s.rounds ∧ (s.putChannel k x).stamp = s.stamp ∧
    (s.putChannel k x).dispatchSeq = s.dispatchSeq ∧ (s.putChannel k x).hubTurns = s.hubTurns ∧
    (s.putChannel k x).gangSeq = s.gangSeq ∧ (s.putChannel k x).workSeq = s.workSeq ∧ (s.putChannel k x).evlSeq = s.evlSeq ∧
    (s.putChannel k x).boot = s.boot ∧ (s.putChannel k x).power = s.power ∧ (s.putChannel k x).slots = s.slots ∧
    (s.putChannel k x).lcores = s.lcores ∧ (s.putChannel k x).cores = s.cores ∧ (s.putChannel k x).clusters = s.clusters ∧
    (s.putChannel k x).slices = s.slices ∧ (s.putChannel k x).regions = s.regions ∧ (s.putChannel k x).dies = s.dies ∧
    (s.putChannel k x).parts = s.parts ∧ (s.putChannel k x).mem = s.mem ∧ (s.putChannel k x).light = s.light ∧
    (s.putChannel k x).producers = s.producers ∧ (s.putChannel k x).lost = s.lost ∧ (s.putChannel k x).ptes = s.ptes ∧
    (s.putChannel k x).owners = s.owners ∧ (s.putChannel k x).ended = s.ended ∧ (s.putChannel k x).net = s.net ∧
    (s.putChannel k x).fab = s.fab ∧ (s.putChannel k x).ports = s.ports ∧ (s.putChannel k x).funcs = s.funcs ∧
    (s.putChannel k x).queues = s.queues ∧ (s.putChannel k x).host = s.host ∧ (∀ j, (s.putChannel k x).slot j = s.slot j) ∧
    (∀ j, (s.putChannel k x).lcore j = s.lcore j) ∧ (∀ j, (s.putChannel k x).core j = s.core j) ∧
    (∀ j, (s.putChannel k x).cluster j = s.cluster j) ∧ (∀ j, (s.putChannel k x).slice j = s.slice j) ∧
    (∀ j, (s.putChannel k x).region j = s.region j) ∧ (∀ j, (s.putChannel k x).die j = s.die j) ∧
    (∀ j, (s.putChannel k x).part j = s.part j) ∧ (∀ j, (s.putChannel k x).port j = s.port j) ∧
    (∀ j, (s.putChannel k x).func j = s.func j) ∧ (∀ j, (s.putChannel k x).queue j = s.queue j) :=
  ⟨rfl, rfl, rfl, rfl, rfl, rfl, rfl, rfl, rfl, rfl, rfl, rfl, rfl, rfl, rfl, rfl, rfl, rfl, rfl, rfl, rfl, rfl, rfl,
   rfl, rfl, rfl, rfl, rfl, rfl, rfl, rfl, rfl, rfl, fun _ => rfl, fun _ => rfl, fun _ => rfl, fun _ => rfl,
   fun _ => rfl, fun _ => rfl, fun _ => rfl, fun _ => rfl, fun _ => rfl, fun _ => rfl, fun _ => rfl⟩

@[simp] theorem State.modChannel_frame (s : State) (k : Nat) (g : Channel → Channel) :
    (s.modChannel k g).pending = s.pending ∧ (s.modChannel k g).free = s.free ∧ (s.modChannel k g).ticks = s.ticks ∧
    (s.modChannel k g).rounds = s.rounds ∧ (s.modChannel k g).stamp = s.stamp ∧
    (s.modChannel k g).dispatchSeq = s.dispatchSeq ∧ (s.modChannel k g).hubTurns = s.hubTurns ∧
    (s.modChannel k g).gangSeq = s.gangSeq ∧ (s.modChannel k g).workSeq = s.workSeq ∧ (s.modChannel k g).evlSeq = s.evlSeq ∧
    (s.modChannel k g).boot = s.boot ∧ (s.modChannel k g).power = s.power ∧ (s.modChannel k g).slots = s.slots ∧
    (s.modChannel k g).lcores = s.lcores ∧ (s.modChannel k g).cores = s.cores ∧ (s.modChannel k g).clusters = s.clusters ∧
    (s.modChannel k g).slices = s.slices ∧ (s.modChannel k g).regions = s.regions ∧ (s.modChannel k g).dies = s.dies ∧
    (s.modChannel k g).parts = s.parts ∧ (s.modChannel k g).mem = s.mem ∧ (s.modChannel k g).light = s.light ∧
    (s.modChannel k g).producers = s.producers ∧ (s.modChannel k g).lost = s.lost ∧ (s.modChannel k g).ptes = s.ptes ∧
    (s.modChannel k g).owners = s.owners ∧ (s.modChannel k g).ended = s.ended ∧ (s.modChannel k g).net = s.net ∧
    (s.modChannel k g).fab = s.fab ∧ (s.modChannel k g).ports = s.ports ∧ (s.modChannel k g).funcs = s.funcs ∧
    (s.modChannel k g).queues = s.queues ∧ (s.modChannel k g).host = s.host ∧ (∀ j, (s.modChannel k g).slot j = s.slot j) ∧
    (∀ j, (s.modChannel k g).lcore j = s.lcore j) ∧ (∀ j, (s.modChannel k g).core j = s.core j) ∧
    (∀ j, (s.modChannel k g).cluster j = s.cluster j) ∧ (∀ j, (s.modChannel k g).slice j = s.slice j) ∧
    (∀ j, (s.modChannel k g).region j = s.region j) ∧ (∀ j, (s.modChannel k g).die j = s.die j) ∧
    (∀ j, (s.modChannel k g).part j = s.part j) ∧ (∀ j, (s.modChannel k g).port j = s.port j) ∧
    (∀ j, (s.modChannel k g).func j = s.func j) ∧ (∀ j, (s.modChannel k g).queue j = s.queue j) :=
  ⟨rfl, rfl, rfl, rfl, rfl, rfl, rfl, rfl, rfl, rfl, rfl, rfl, rfl, rfl, rfl, rfl, rfl, rfl, rfl, rfl, rfl, rfl, rfl,
   rfl, rfl, rfl, rfl, rfl, rfl, rfl, rfl, rfl, rfl, fun _ => rfl, fun _ => rfl, fun _ => rfl, fun _ => rfl,
   fun _ => rfl, fun _ => rfl, fun _ => rfl, fun _ => rfl, fun _ => rfl, fun _ => rfl, fun _ => rfl⟩

@[simp] theorem State.putRegion_region (s : State) (k j : Nat) (x : Region) :
    (s.putRegion k x).region j = if j = k then x else s.region j := by
  unfold State.putRegion State.region
  by_cases h : j = k
  · subst h; simp
  · simp [look_put_ne _ _ _ _ h, h]

@[simp] theorem State.modRegion_region (s : State) (k j : Nat) (g : Region → Region) :
    (s.modRegion k g).region j = if j = k then g (s.region k) else s.region j := by
  simp [State.modRegion]

@[simp] theorem State.putRegion_frame (s : State) (k : Nat) (x : Region) :
    (s.putRegion k x).pending = s.pending ∧ (s.putRegion k x).free = s.free ∧ (s.putRegion k x).ticks = s.ticks ∧
    (s.putRegion k x).rounds = s.rounds ∧ (s.putRegion k x).stamp = s.stamp ∧
    (s.putRegion k x).dispatchSeq = s.dispatchSeq ∧ (s.putRegion k x).hubTurns = s.hubTurns ∧
    (s.putRegion k x).gangSeq = s.gangSeq ∧ (s.putRegion k x).workSeq = s.workSeq ∧ (s.putRegion k x).evlSeq = s.evlSeq ∧
    (s.putRegion k x).boot = s.boot ∧ (s.putRegion k x).power = s.power ∧ (s.putRegion k x).slots = s.slots ∧
    (s.putRegion k x).lcores = s.lcores ∧ (s.putRegion k x).cores = s.cores ∧ (s.putRegion k x).clusters = s.clusters ∧
    (s.putRegion k x).slices = s.slices ∧ (s.putRegion k x).channels = s.channels ∧ (s.putRegion k x).dies = s.dies ∧
    (s.putRegion k x).parts = s.parts ∧ (s.putRegion k x).mem = s.mem ∧ (s.putRegion k x).light = s.light ∧
    (s.putRegion k x).producers = s.producers ∧ (s.putRegion k x).lost = s.lost ∧ (s.putRegion k x).ptes = s.ptes ∧
    (s.putRegion k x).owners = s.owners ∧ (s.putRegion k x).ended = s.ended ∧ (s.putRegion k x).net = s.net ∧
    (s.putRegion k x).fab = s.fab ∧ (s.putRegion k x).ports = s.ports ∧ (s.putRegion k x).funcs = s.funcs ∧
    (s.putRegion k x).queues = s.queues ∧ (s.putRegion k x).host = s.host ∧ (∀ j, (s.putRegion k x).slot j = s.slot j) ∧
    (∀ j, (s.putRegion k x).lcore j = s.lcore j) ∧ (∀ j, (s.putRegion k x).core j = s.core j) ∧
    (∀ j, (s.putRegion k x).cluster j = s.cluster j) ∧ (∀ j, (s.putRegion k x).slice j = s.slice j) ∧
    (∀ j, (s.putRegion k x).channel j = s.channel j) ∧ (∀ j, (s.putRegion k x).die j = s.die j) ∧
    (∀ j, (s.putRegion k x).part j = s.part j) ∧ (∀ j, (s.putRegion k x).port j = s.port j) ∧
    (∀ j, (s.putRegion k x).func j = s.func j) ∧ (∀ j, (s.putRegion k x).queue j = s.queue j) :=
  ⟨rfl, rfl, rfl, rfl, rfl, rfl, rfl, rfl, rfl, rfl, rfl, rfl, rfl, rfl, rfl, rfl, rfl, rfl, rfl, rfl, rfl, rfl, rfl,
   rfl, rfl, rfl, rfl, rfl, rfl, rfl, rfl, rfl, rfl, fun _ => rfl, fun _ => rfl, fun _ => rfl, fun _ => rfl,
   fun _ => rfl, fun _ => rfl, fun _ => rfl, fun _ => rfl, fun _ => rfl, fun _ => rfl, fun _ => rfl⟩

@[simp] theorem State.modRegion_frame (s : State) (k : Nat) (g : Region → Region) :
    (s.modRegion k g).pending = s.pending ∧ (s.modRegion k g).free = s.free ∧ (s.modRegion k g).ticks = s.ticks ∧
    (s.modRegion k g).rounds = s.rounds ∧ (s.modRegion k g).stamp = s.stamp ∧
    (s.modRegion k g).dispatchSeq = s.dispatchSeq ∧ (s.modRegion k g).hubTurns = s.hubTurns ∧
    (s.modRegion k g).gangSeq = s.gangSeq ∧ (s.modRegion k g).workSeq = s.workSeq ∧ (s.modRegion k g).evlSeq = s.evlSeq ∧
    (s.modRegion k g).boot = s.boot ∧ (s.modRegion k g).power = s.power ∧ (s.modRegion k g).slots = s.slots ∧
    (s.modRegion k g).lcores = s.lcores ∧ (s.modRegion k g).cores = s.cores ∧ (s.modRegion k g).clusters = s.clusters ∧
    (s.modRegion k g).slices = s.slices ∧ (s.modRegion k g).channels = s.channels ∧ (s.modRegion k g).dies = s.dies ∧
    (s.modRegion k g).parts = s.parts ∧ (s.modRegion k g).mem = s.mem ∧ (s.modRegion k g).light = s.light ∧
    (s.modRegion k g).producers = s.producers ∧ (s.modRegion k g).lost = s.lost ∧ (s.modRegion k g).ptes = s.ptes ∧
    (s.modRegion k g).owners = s.owners ∧ (s.modRegion k g).ended = s.ended ∧ (s.modRegion k g).net = s.net ∧
    (s.modRegion k g).fab = s.fab ∧ (s.modRegion k g).ports = s.ports ∧ (s.modRegion k g).funcs = s.funcs ∧
    (s.modRegion k g).queues = s.queues ∧ (s.modRegion k g).host = s.host ∧ (∀ j, (s.modRegion k g).slot j = s.slot j) ∧
    (∀ j, (s.modRegion k g).lcore j = s.lcore j) ∧ (∀ j, (s.modRegion k g).core j = s.core j) ∧
    (∀ j, (s.modRegion k g).cluster j = s.cluster j) ∧ (∀ j, (s.modRegion k g).slice j = s.slice j) ∧
    (∀ j, (s.modRegion k g).channel j = s.channel j) ∧ (∀ j, (s.modRegion k g).die j = s.die j) ∧
    (∀ j, (s.modRegion k g).part j = s.part j) ∧ (∀ j, (s.modRegion k g).port j = s.port j) ∧
    (∀ j, (s.modRegion k g).func j = s.func j) ∧ (∀ j, (s.modRegion k g).queue j = s.queue j) :=
  ⟨rfl, rfl, rfl, rfl, rfl, rfl, rfl, rfl, rfl, rfl, rfl, rfl, rfl, rfl, rfl, rfl, rfl, rfl, rfl, rfl, rfl, rfl, rfl,
   rfl, rfl, rfl, rfl, rfl, rfl, rfl, rfl, rfl, rfl, fun _ => rfl, fun _ => rfl, fun _ => rfl, fun _ => rfl,
   fun _ => rfl, fun _ => rfl, fun _ => rfl, fun _ => rfl, fun _ => rfl, fun _ => rfl, fun _ => rfl⟩

@[simp] theorem State.putDie_die (s : State) (k j : Nat) (x : Die) :
    (s.putDie k x).die j = if j = k then x else s.die j := by
  unfold State.putDie State.die
  by_cases h : j = k
  · subst h; simp
  · simp [look_put_ne _ _ _ _ h, h]

@[simp] theorem State.modDie_die (s : State) (k j : Nat) (g : Die → Die) :
    (s.modDie k g).die j = if j = k then g (s.die k) else s.die j := by
  simp [State.modDie]

@[simp] theorem State.putDie_frame (s : State) (k : Nat) (x : Die) :
    (s.putDie k x).pending = s.pending ∧ (s.putDie k x).free = s.free ∧ (s.putDie k x).ticks = s.ticks ∧
    (s.putDie k x).rounds = s.rounds ∧ (s.putDie k x).stamp = s.stamp ∧ (s.putDie k x).dispatchSeq = s.dispatchSeq ∧
    (s.putDie k x).hubTurns = s.hubTurns ∧ (s.putDie k x).gangSeq = s.gangSeq ∧ (s.putDie k x).workSeq = s.workSeq ∧
    (s.putDie k x).evlSeq = s.evlSeq ∧ (s.putDie k x).boot = s.boot ∧ (s.putDie k x).power = s.power ∧
    (s.putDie k x).slots = s.slots ∧ (s.putDie k x).lcores = s.lcores ∧ (s.putDie k x).cores = s.cores ∧
    (s.putDie k x).clusters = s.clusters ∧ (s.putDie k x).slices = s.slices ∧ (s.putDie k x).channels = s.channels ∧
    (s.putDie k x).regions = s.regions ∧ (s.putDie k x).parts = s.parts ∧ (s.putDie k x).mem = s.mem ∧
    (s.putDie k x).light = s.light ∧ (s.putDie k x).producers = s.producers ∧ (s.putDie k x).lost = s.lost ∧
    (s.putDie k x).ptes = s.ptes ∧ (s.putDie k x).owners = s.owners ∧ (s.putDie k x).ended = s.ended ∧
    (s.putDie k x).net = s.net ∧ (s.putDie k x).fab = s.fab ∧ (s.putDie k x).ports = s.ports ∧
    (s.putDie k x).funcs = s.funcs ∧ (s.putDie k x).queues = s.queues ∧ (s.putDie k x).host = s.host ∧
    (∀ j, (s.putDie k x).slot j = s.slot j) ∧ (∀ j, (s.putDie k x).lcore j = s.lcore j) ∧
    (∀ j, (s.putDie k x).core j = s.core j) ∧ (∀ j, (s.putDie k x).cluster j = s.cluster j) ∧
    (∀ j, (s.putDie k x).slice j = s.slice j) ∧ (∀ j, (s.putDie k x).channel j = s.channel j) ∧
    (∀ j, (s.putDie k x).region j = s.region j) ∧ (∀ j, (s.putDie k x).part j = s.part j) ∧
    (∀ j, (s.putDie k x).port j = s.port j) ∧ (∀ j, (s.putDie k x).func j = s.func j) ∧
    (∀ j, (s.putDie k x).queue j = s.queue j) :=
  ⟨rfl, rfl, rfl, rfl, rfl, rfl, rfl, rfl, rfl, rfl, rfl, rfl, rfl, rfl, rfl, rfl, rfl, rfl, rfl, rfl, rfl, rfl, rfl,
   rfl, rfl, rfl, rfl, rfl, rfl, rfl, rfl, rfl, rfl, fun _ => rfl, fun _ => rfl, fun _ => rfl, fun _ => rfl,
   fun _ => rfl, fun _ => rfl, fun _ => rfl, fun _ => rfl, fun _ => rfl, fun _ => rfl, fun _ => rfl⟩

@[simp] theorem State.modDie_frame (s : State) (k : Nat) (g : Die → Die) :
    (s.modDie k g).pending = s.pending ∧ (s.modDie k g).free = s.free ∧ (s.modDie k g).ticks = s.ticks ∧
    (s.modDie k g).rounds = s.rounds ∧ (s.modDie k g).stamp = s.stamp ∧ (s.modDie k g).dispatchSeq = s.dispatchSeq ∧
    (s.modDie k g).hubTurns = s.hubTurns ∧ (s.modDie k g).gangSeq = s.gangSeq ∧ (s.modDie k g).workSeq = s.workSeq ∧
    (s.modDie k g).evlSeq = s.evlSeq ∧ (s.modDie k g).boot = s.boot ∧ (s.modDie k g).power = s.power ∧
    (s.modDie k g).slots = s.slots ∧ (s.modDie k g).lcores = s.lcores ∧ (s.modDie k g).cores = s.cores ∧
    (s.modDie k g).clusters = s.clusters ∧ (s.modDie k g).slices = s.slices ∧ (s.modDie k g).channels = s.channels ∧
    (s.modDie k g).regions = s.regions ∧ (s.modDie k g).parts = s.parts ∧ (s.modDie k g).mem = s.mem ∧
    (s.modDie k g).light = s.light ∧ (s.modDie k g).producers = s.producers ∧ (s.modDie k g).lost = s.lost ∧
    (s.modDie k g).ptes = s.ptes ∧ (s.modDie k g).owners = s.owners ∧ (s.modDie k g).ended = s.ended ∧
    (s.modDie k g).net = s.net ∧ (s.modDie k g).fab = s.fab ∧ (s.modDie k g).ports = s.ports ∧
    (s.modDie k g).funcs = s.funcs ∧ (s.modDie k g).queues = s.queues ∧ (s.modDie k g).host = s.host ∧
    (∀ j, (s.modDie k g).slot j = s.slot j) ∧ (∀ j, (s.modDie k g).lcore j = s.lcore j) ∧
    (∀ j, (s.modDie k g).core j = s.core j) ∧ (∀ j, (s.modDie k g).cluster j = s.cluster j) ∧
    (∀ j, (s.modDie k g).slice j = s.slice j) ∧ (∀ j, (s.modDie k g).channel j = s.channel j) ∧
    (∀ j, (s.modDie k g).region j = s.region j) ∧ (∀ j, (s.modDie k g).part j = s.part j) ∧
    (∀ j, (s.modDie k g).port j = s.port j) ∧ (∀ j, (s.modDie k g).func j = s.func j) ∧
    (∀ j, (s.modDie k g).queue j = s.queue j) :=
  ⟨rfl, rfl, rfl, rfl, rfl, rfl, rfl, rfl, rfl, rfl, rfl, rfl, rfl, rfl, rfl, rfl, rfl, rfl, rfl, rfl, rfl, rfl, rfl,
   rfl, rfl, rfl, rfl, rfl, rfl, rfl, rfl, rfl, rfl, fun _ => rfl, fun _ => rfl, fun _ => rfl, fun _ => rfl,
   fun _ => rfl, fun _ => rfl, fun _ => rfl, fun _ => rfl, fun _ => rfl, fun _ => rfl, fun _ => rfl⟩

@[simp] theorem State.putPart_part (s : State) (k j : Nat) (x : Part) :
    (s.putPart k x).part j = if j = k then x else s.part j := by
  unfold State.putPart State.part
  by_cases h : j = k
  · subst h; simp
  · simp [look_put_ne _ _ _ _ h, h]

@[simp] theorem State.modPart_part (s : State) (k j : Nat) (g : Part → Part) :
    (s.modPart k g).part j = if j = k then g (s.part k) else s.part j := by
  simp [State.modPart]

@[simp] theorem State.putPart_frame (s : State) (k : Nat) (x : Part) :
    (s.putPart k x).pending = s.pending ∧ (s.putPart k x).free = s.free ∧ (s.putPart k x).ticks = s.ticks ∧
    (s.putPart k x).rounds = s.rounds ∧ (s.putPart k x).stamp = s.stamp ∧ (s.putPart k x).dispatchSeq = s.dispatchSeq ∧
    (s.putPart k x).hubTurns = s.hubTurns ∧ (s.putPart k x).gangSeq = s.gangSeq ∧ (s.putPart k x).workSeq = s.workSeq ∧
    (s.putPart k x).evlSeq = s.evlSeq ∧ (s.putPart k x).boot = s.boot ∧ (s.putPart k x).power = s.power ∧
    (s.putPart k x).slots = s.slots ∧ (s.putPart k x).lcores = s.lcores ∧ (s.putPart k x).cores = s.cores ∧
    (s.putPart k x).clusters = s.clusters ∧ (s.putPart k x).slices = s.slices ∧ (s.putPart k x).channels = s.channels ∧
    (s.putPart k x).regions = s.regions ∧ (s.putPart k x).dies = s.dies ∧ (s.putPart k x).mem = s.mem ∧
    (s.putPart k x).light = s.light ∧ (s.putPart k x).producers = s.producers ∧ (s.putPart k x).lost = s.lost ∧
    (s.putPart k x).ptes = s.ptes ∧ (s.putPart k x).owners = s.owners ∧ (s.putPart k x).ended = s.ended ∧
    (s.putPart k x).net = s.net ∧ (s.putPart k x).fab = s.fab ∧ (s.putPart k x).ports = s.ports ∧
    (s.putPart k x).funcs = s.funcs ∧ (s.putPart k x).queues = s.queues ∧ (s.putPart k x).host = s.host ∧
    (∀ j, (s.putPart k x).slot j = s.slot j) ∧ (∀ j, (s.putPart k x).lcore j = s.lcore j) ∧
    (∀ j, (s.putPart k x).core j = s.core j) ∧ (∀ j, (s.putPart k x).cluster j = s.cluster j) ∧
    (∀ j, (s.putPart k x).slice j = s.slice j) ∧ (∀ j, (s.putPart k x).channel j = s.channel j) ∧
    (∀ j, (s.putPart k x).region j = s.region j) ∧ (∀ j, (s.putPart k x).die j = s.die j) ∧
    (∀ j, (s.putPart k x).port j = s.port j) ∧ (∀ j, (s.putPart k x).func j = s.func j) ∧
    (∀ j, (s.putPart k x).queue j = s.queue j) :=
  ⟨rfl, rfl, rfl, rfl, rfl, rfl, rfl, rfl, rfl, rfl, rfl, rfl, rfl, rfl, rfl, rfl, rfl, rfl, rfl, rfl, rfl, rfl, rfl,
   rfl, rfl, rfl, rfl, rfl, rfl, rfl, rfl, rfl, rfl, fun _ => rfl, fun _ => rfl, fun _ => rfl, fun _ => rfl,
   fun _ => rfl, fun _ => rfl, fun _ => rfl, fun _ => rfl, fun _ => rfl, fun _ => rfl, fun _ => rfl⟩

@[simp] theorem State.modPart_frame (s : State) (k : Nat) (g : Part → Part) :
    (s.modPart k g).pending = s.pending ∧ (s.modPart k g).free = s.free ∧ (s.modPart k g).ticks = s.ticks ∧
    (s.modPart k g).rounds = s.rounds ∧ (s.modPart k g).stamp = s.stamp ∧ (s.modPart k g).dispatchSeq = s.dispatchSeq ∧
    (s.modPart k g).hubTurns = s.hubTurns ∧ (s.modPart k g).gangSeq = s.gangSeq ∧ (s.modPart k g).workSeq = s.workSeq ∧
    (s.modPart k g).evlSeq = s.evlSeq ∧ (s.modPart k g).boot = s.boot ∧ (s.modPart k g).power = s.power ∧
    (s.modPart k g).slots = s.slots ∧ (s.modPart k g).lcores = s.lcores ∧ (s.modPart k g).cores = s.cores ∧
    (s.modPart k g).clusters = s.clusters ∧ (s.modPart k g).slices = s.slices ∧ (s.modPart k g).channels = s.channels ∧
    (s.modPart k g).regions = s.regions ∧ (s.modPart k g).dies = s.dies ∧ (s.modPart k g).mem = s.mem ∧
    (s.modPart k g).light = s.light ∧ (s.modPart k g).producers = s.producers ∧ (s.modPart k g).lost = s.lost ∧
    (s.modPart k g).ptes = s.ptes ∧ (s.modPart k g).owners = s.owners ∧ (s.modPart k g).ended = s.ended ∧
    (s.modPart k g).net = s.net ∧ (s.modPart k g).fab = s.fab ∧ (s.modPart k g).ports = s.ports ∧
    (s.modPart k g).funcs = s.funcs ∧ (s.modPart k g).queues = s.queues ∧ (s.modPart k g).host = s.host ∧
    (∀ j, (s.modPart k g).slot j = s.slot j) ∧ (∀ j, (s.modPart k g).lcore j = s.lcore j) ∧
    (∀ j, (s.modPart k g).core j = s.core j) ∧ (∀ j, (s.modPart k g).cluster j = s.cluster j) ∧
    (∀ j, (s.modPart k g).slice j = s.slice j) ∧ (∀ j, (s.modPart k g).channel j = s.channel j) ∧
    (∀ j, (s.modPart k g).region j = s.region j) ∧ (∀ j, (s.modPart k g).die j = s.die j) ∧
    (∀ j, (s.modPart k g).port j = s.port j) ∧ (∀ j, (s.modPart k g).func j = s.func j) ∧
    (∀ j, (s.modPart k g).queue j = s.queue j) :=
  ⟨rfl, rfl, rfl, rfl, rfl, rfl, rfl, rfl, rfl, rfl, rfl, rfl, rfl, rfl, rfl, rfl, rfl, rfl, rfl, rfl, rfl, rfl, rfl,
   rfl, rfl, rfl, rfl, rfl, rfl, rfl, rfl, rfl, rfl, fun _ => rfl, fun _ => rfl, fun _ => rfl, fun _ => rfl,
   fun _ => rfl, fun _ => rfl, fun _ => rfl, fun _ => rfl, fun _ => rfl, fun _ => rfl, fun _ => rfl⟩

@[simp] theorem State.putPort_port (s : State) (k j : Nat) (x : Port) :
    (s.putPort k x).port j = if j = k then x else s.port j := by
  unfold State.putPort State.port
  by_cases h : j = k
  · subst h; simp
  · simp [look_put_ne _ _ _ _ h, h]

@[simp] theorem State.modPort_port (s : State) (k j : Nat) (g : Port → Port) :
    (s.modPort k g).port j = if j = k then g (s.port k) else s.port j := by
  simp [State.modPort]

@[simp] theorem State.putPort_frame (s : State) (k : Nat) (x : Port) :
    (s.putPort k x).pending = s.pending ∧ (s.putPort k x).free = s.free ∧ (s.putPort k x).ticks = s.ticks ∧
    (s.putPort k x).rounds = s.rounds ∧ (s.putPort k x).stamp = s.stamp ∧ (s.putPort k x).dispatchSeq = s.dispatchSeq ∧
    (s.putPort k x).hubTurns = s.hubTurns ∧ (s.putPort k x).gangSeq = s.gangSeq ∧ (s.putPort k x).workSeq = s.workSeq ∧
    (s.putPort k x).evlSeq = s.evlSeq ∧ (s.putPort k x).boot = s.boot ∧ (s.putPort k x).power = s.power ∧
    (s.putPort k x).slots = s.slots ∧ (s.putPort k x).lcores = s.lcores ∧ (s.putPort k x).cores = s.cores ∧
    (s.putPort k x).clusters = s.clusters ∧ (s.putPort k x).slices = s.slices ∧ (s.putPort k x).channels = s.channels ∧
    (s.putPort k x).regions = s.regions ∧ (s.putPort k x).dies = s.dies ∧ (s.putPort k x).parts = s.parts ∧
    (s.putPort k x).mem = s.mem ∧ (s.putPort k x).light = s.light ∧ (s.putPort k x).producers = s.producers ∧
    (s.putPort k x).lost = s.lost ∧ (s.putPort k x).ptes = s.ptes ∧ (s.putPort k x).owners = s.owners ∧
    (s.putPort k x).ended = s.ended ∧ (s.putPort k x).net = s.net ∧ (s.putPort k x).fab = s.fab ∧
    (s.putPort k x).funcs = s.funcs ∧ (s.putPort k x).queues = s.queues ∧ (s.putPort k x).host = s.host ∧
    (∀ j, (s.putPort k x).slot j = s.slot j) ∧ (∀ j, (s.putPort k x).lcore j = s.lcore j) ∧
    (∀ j, (s.putPort k x).core j = s.core j) ∧ (∀ j, (s.putPort k x).cluster j = s.cluster j) ∧
    (∀ j, (s.putPort k x).slice j = s.slice j) ∧ (∀ j, (s.putPort k x).channel j = s.channel j) ∧
    (∀ j, (s.putPort k x).region j = s.region j) ∧ (∀ j, (s.putPort k x).die j = s.die j) ∧
    (∀ j, (s.putPort k x).part j = s.part j) ∧ (∀ j, (s.putPort k x).func j = s.func j) ∧
    (∀ j, (s.putPort k x).queue j = s.queue j) :=
  ⟨rfl, rfl, rfl, rfl, rfl, rfl, rfl, rfl, rfl, rfl, rfl, rfl, rfl, rfl, rfl, rfl, rfl, rfl, rfl, rfl, rfl, rfl, rfl,
   rfl, rfl, rfl, rfl, rfl, rfl, rfl, rfl, rfl, rfl, fun _ => rfl, fun _ => rfl, fun _ => rfl, fun _ => rfl,
   fun _ => rfl, fun _ => rfl, fun _ => rfl, fun _ => rfl, fun _ => rfl, fun _ => rfl, fun _ => rfl⟩

@[simp] theorem State.modPort_frame (s : State) (k : Nat) (g : Port → Port) :
    (s.modPort k g).pending = s.pending ∧ (s.modPort k g).free = s.free ∧ (s.modPort k g).ticks = s.ticks ∧
    (s.modPort k g).rounds = s.rounds ∧ (s.modPort k g).stamp = s.stamp ∧ (s.modPort k g).dispatchSeq = s.dispatchSeq ∧
    (s.modPort k g).hubTurns = s.hubTurns ∧ (s.modPort k g).gangSeq = s.gangSeq ∧ (s.modPort k g).workSeq = s.workSeq ∧
    (s.modPort k g).evlSeq = s.evlSeq ∧ (s.modPort k g).boot = s.boot ∧ (s.modPort k g).power = s.power ∧
    (s.modPort k g).slots = s.slots ∧ (s.modPort k g).lcores = s.lcores ∧ (s.modPort k g).cores = s.cores ∧
    (s.modPort k g).clusters = s.clusters ∧ (s.modPort k g).slices = s.slices ∧ (s.modPort k g).channels = s.channels ∧
    (s.modPort k g).regions = s.regions ∧ (s.modPort k g).dies = s.dies ∧ (s.modPort k g).parts = s.parts ∧
    (s.modPort k g).mem = s.mem ∧ (s.modPort k g).light = s.light ∧ (s.modPort k g).producers = s.producers ∧
    (s.modPort k g).lost = s.lost ∧ (s.modPort k g).ptes = s.ptes ∧ (s.modPort k g).owners = s.owners ∧
    (s.modPort k g).ended = s.ended ∧ (s.modPort k g).net = s.net ∧ (s.modPort k g).fab = s.fab ∧
    (s.modPort k g).funcs = s.funcs ∧ (s.modPort k g).queues = s.queues ∧ (s.modPort k g).host = s.host ∧
    (∀ j, (s.modPort k g).slot j = s.slot j) ∧ (∀ j, (s.modPort k g).lcore j = s.lcore j) ∧
    (∀ j, (s.modPort k g).core j = s.core j) ∧ (∀ j, (s.modPort k g).cluster j = s.cluster j) ∧
    (∀ j, (s.modPort k g).slice j = s.slice j) ∧ (∀ j, (s.modPort k g).channel j = s.channel j) ∧
    (∀ j, (s.modPort k g).region j = s.region j) ∧ (∀ j, (s.modPort k g).die j = s.die j) ∧
    (∀ j, (s.modPort k g).part j = s.part j) ∧ (∀ j, (s.modPort k g).func j = s.func j) ∧
    (∀ j, (s.modPort k g).queue j = s.queue j) :=
  ⟨rfl, rfl, rfl, rfl, rfl, rfl, rfl, rfl, rfl, rfl, rfl, rfl, rfl, rfl, rfl, rfl, rfl, rfl, rfl, rfl, rfl, rfl, rfl,
   rfl, rfl, rfl, rfl, rfl, rfl, rfl, rfl, rfl, rfl, fun _ => rfl, fun _ => rfl, fun _ => rfl, fun _ => rfl,
   fun _ => rfl, fun _ => rfl, fun _ => rfl, fun _ => rfl, fun _ => rfl, fun _ => rfl, fun _ => rfl⟩

@[simp] theorem State.putFunc_func (s : State) (k j : Nat) (x : Func) :
    (s.putFunc k x).func j = if j = k then x else s.func j := by
  unfold State.putFunc State.func
  by_cases h : j = k
  · subst h; simp
  · simp [look_put_ne _ _ _ _ h, h]

@[simp] theorem State.modFunc_func (s : State) (k j : Nat) (g : Func → Func) :
    (s.modFunc k g).func j = if j = k then g (s.func k) else s.func j := by
  simp [State.modFunc]

@[simp] theorem State.putFunc_frame (s : State) (k : Nat) (x : Func) :
    (s.putFunc k x).pending = s.pending ∧ (s.putFunc k x).free = s.free ∧ (s.putFunc k x).ticks = s.ticks ∧
    (s.putFunc k x).rounds = s.rounds ∧ (s.putFunc k x).stamp = s.stamp ∧ (s.putFunc k x).dispatchSeq = s.dispatchSeq ∧
    (s.putFunc k x).hubTurns = s.hubTurns ∧ (s.putFunc k x).gangSeq = s.gangSeq ∧ (s.putFunc k x).workSeq = s.workSeq ∧
    (s.putFunc k x).evlSeq = s.evlSeq ∧ (s.putFunc k x).boot = s.boot ∧ (s.putFunc k x).power = s.power ∧
    (s.putFunc k x).slots = s.slots ∧ (s.putFunc k x).lcores = s.lcores ∧ (s.putFunc k x).cores = s.cores ∧
    (s.putFunc k x).clusters = s.clusters ∧ (s.putFunc k x).slices = s.slices ∧ (s.putFunc k x).channels = s.channels ∧
    (s.putFunc k x).regions = s.regions ∧ (s.putFunc k x).dies = s.dies ∧ (s.putFunc k x).parts = s.parts ∧
    (s.putFunc k x).mem = s.mem ∧ (s.putFunc k x).light = s.light ∧ (s.putFunc k x).producers = s.producers ∧
    (s.putFunc k x).lost = s.lost ∧ (s.putFunc k x).ptes = s.ptes ∧ (s.putFunc k x).owners = s.owners ∧
    (s.putFunc k x).ended = s.ended ∧ (s.putFunc k x).net = s.net ∧ (s.putFunc k x).fab = s.fab ∧
    (s.putFunc k x).ports = s.ports ∧ (s.putFunc k x).queues = s.queues ∧ (s.putFunc k x).host = s.host ∧
    (∀ j, (s.putFunc k x).slot j = s.slot j) ∧ (∀ j, (s.putFunc k x).lcore j = s.lcore j) ∧
    (∀ j, (s.putFunc k x).core j = s.core j) ∧ (∀ j, (s.putFunc k x).cluster j = s.cluster j) ∧
    (∀ j, (s.putFunc k x).slice j = s.slice j) ∧ (∀ j, (s.putFunc k x).channel j = s.channel j) ∧
    (∀ j, (s.putFunc k x).region j = s.region j) ∧ (∀ j, (s.putFunc k x).die j = s.die j) ∧
    (∀ j, (s.putFunc k x).part j = s.part j) ∧ (∀ j, (s.putFunc k x).port j = s.port j) ∧
    (∀ j, (s.putFunc k x).queue j = s.queue j) :=
  ⟨rfl, rfl, rfl, rfl, rfl, rfl, rfl, rfl, rfl, rfl, rfl, rfl, rfl, rfl, rfl, rfl, rfl, rfl, rfl, rfl, rfl, rfl, rfl,
   rfl, rfl, rfl, rfl, rfl, rfl, rfl, rfl, rfl, rfl, fun _ => rfl, fun _ => rfl, fun _ => rfl, fun _ => rfl,
   fun _ => rfl, fun _ => rfl, fun _ => rfl, fun _ => rfl, fun _ => rfl, fun _ => rfl, fun _ => rfl⟩

@[simp] theorem State.modFunc_frame (s : State) (k : Nat) (g : Func → Func) :
    (s.modFunc k g).pending = s.pending ∧ (s.modFunc k g).free = s.free ∧ (s.modFunc k g).ticks = s.ticks ∧
    (s.modFunc k g).rounds = s.rounds ∧ (s.modFunc k g).stamp = s.stamp ∧ (s.modFunc k g).dispatchSeq = s.dispatchSeq ∧
    (s.modFunc k g).hubTurns = s.hubTurns ∧ (s.modFunc k g).gangSeq = s.gangSeq ∧ (s.modFunc k g).workSeq = s.workSeq ∧
    (s.modFunc k g).evlSeq = s.evlSeq ∧ (s.modFunc k g).boot = s.boot ∧ (s.modFunc k g).power = s.power ∧
    (s.modFunc k g).slots = s.slots ∧ (s.modFunc k g).lcores = s.lcores ∧ (s.modFunc k g).cores = s.cores ∧
    (s.modFunc k g).clusters = s.clusters ∧ (s.modFunc k g).slices = s.slices ∧ (s.modFunc k g).channels = s.channels ∧
    (s.modFunc k g).regions = s.regions ∧ (s.modFunc k g).dies = s.dies ∧ (s.modFunc k g).parts = s.parts ∧
    (s.modFunc k g).mem = s.mem ∧ (s.modFunc k g).light = s.light ∧ (s.modFunc k g).producers = s.producers ∧
    (s.modFunc k g).lost = s.lost ∧ (s.modFunc k g).ptes = s.ptes ∧ (s.modFunc k g).owners = s.owners ∧
    (s.modFunc k g).ended = s.ended ∧ (s.modFunc k g).net = s.net ∧ (s.modFunc k g).fab = s.fab ∧
    (s.modFunc k g).ports = s.ports ∧ (s.modFunc k g).queues = s.queues ∧ (s.modFunc k g).host = s.host ∧
    (∀ j, (s.modFunc k g).slot j = s.slot j) ∧ (∀ j, (s.modFunc k g).lcore j = s.lcore j) ∧
    (∀ j, (s.modFunc k g).core j = s.core j) ∧ (∀ j, (s.modFunc k g).cluster j = s.cluster j) ∧
    (∀ j, (s.modFunc k g).slice j = s.slice j) ∧ (∀ j, (s.modFunc k g).channel j = s.channel j) ∧
    (∀ j, (s.modFunc k g).region j = s.region j) ∧ (∀ j, (s.modFunc k g).die j = s.die j) ∧
    (∀ j, (s.modFunc k g).part j = s.part j) ∧ (∀ j, (s.modFunc k g).port j = s.port j) ∧
    (∀ j, (s.modFunc k g).queue j = s.queue j) :=
  ⟨rfl, rfl, rfl, rfl, rfl, rfl, rfl, rfl, rfl, rfl, rfl, rfl, rfl, rfl, rfl, rfl, rfl, rfl, rfl, rfl, rfl, rfl, rfl,
   rfl, rfl, rfl, rfl, rfl, rfl, rfl, rfl, rfl, rfl, fun _ => rfl, fun _ => rfl, fun _ => rfl, fun _ => rfl,
   fun _ => rfl, fun _ => rfl, fun _ => rfl, fun _ => rfl, fun _ => rfl, fun _ => rfl, fun _ => rfl⟩

@[simp] theorem State.putQueue_queue (s : State) (k j : Nat) (x : Queue) :
    (s.putQueue k x).queue j = if j = k then x else s.queue j := by
  unfold State.putQueue State.queue
  by_cases h : j = k
  · subst h; simp
  · simp [look_put_ne _ _ _ _ h, h]

@[simp] theorem State.modQueue_queue (s : State) (k j : Nat) (g : Queue → Queue) :
    (s.modQueue k g).queue j = if j = k then g (s.queue k) else s.queue j := by
  simp [State.modQueue]

@[simp] theorem State.putQueue_frame (s : State) (k : Nat) (x : Queue) :
    (s.putQueue k x).pending = s.pending ∧ (s.putQueue k x).free = s.free ∧ (s.putQueue k x).ticks = s.ticks ∧
    (s.putQueue k x).rounds = s.rounds ∧ (s.putQueue k x).stamp = s.stamp ∧ (s.putQueue k x).dispatchSeq = s.dispatchSeq ∧
    (s.putQueue k x).hubTurns = s.hubTurns ∧ (s.putQueue k x).gangSeq = s.gangSeq ∧ (s.putQueue k x).workSeq = s.workSeq ∧
    (s.putQueue k x).evlSeq = s.evlSeq ∧ (s.putQueue k x).boot = s.boot ∧ (s.putQueue k x).power = s.power ∧
    (s.putQueue k x).slots = s.slots ∧ (s.putQueue k x).lcores = s.lcores ∧ (s.putQueue k x).cores = s.cores ∧
    (s.putQueue k x).clusters = s.clusters ∧ (s.putQueue k x).slices = s.slices ∧ (s.putQueue k x).channels = s.channels ∧
    (s.putQueue k x).regions = s.regions ∧ (s.putQueue k x).dies = s.dies ∧ (s.putQueue k x).parts = s.parts ∧
    (s.putQueue k x).mem = s.mem ∧ (s.putQueue k x).light = s.light ∧ (s.putQueue k x).producers = s.producers ∧
    (s.putQueue k x).lost = s.lost ∧ (s.putQueue k x).ptes = s.ptes ∧ (s.putQueue k x).owners = s.owners ∧
    (s.putQueue k x).ended = s.ended ∧ (s.putQueue k x).net = s.net ∧ (s.putQueue k x).fab = s.fab ∧
    (s.putQueue k x).ports = s.ports ∧ (s.putQueue k x).funcs = s.funcs ∧ (s.putQueue k x).host = s.host ∧
    (∀ j, (s.putQueue k x).slot j = s.slot j) ∧ (∀ j, (s.putQueue k x).lcore j = s.lcore j) ∧
    (∀ j, (s.putQueue k x).core j = s.core j) ∧ (∀ j, (s.putQueue k x).cluster j = s.cluster j) ∧
    (∀ j, (s.putQueue k x).slice j = s.slice j) ∧ (∀ j, (s.putQueue k x).channel j = s.channel j) ∧
    (∀ j, (s.putQueue k x).region j = s.region j) ∧ (∀ j, (s.putQueue k x).die j = s.die j) ∧
    (∀ j, (s.putQueue k x).part j = s.part j) ∧ (∀ j, (s.putQueue k x).port j = s.port j) ∧
    (∀ j, (s.putQueue k x).func j = s.func j) :=
  ⟨rfl, rfl, rfl, rfl, rfl, rfl, rfl, rfl, rfl, rfl, rfl, rfl, rfl, rfl, rfl, rfl, rfl, rfl, rfl, rfl, rfl, rfl, rfl,
   rfl, rfl, rfl, rfl, rfl, rfl, rfl, rfl, rfl, rfl, fun _ => rfl, fun _ => rfl, fun _ => rfl, fun _ => rfl,
   fun _ => rfl, fun _ => rfl, fun _ => rfl, fun _ => rfl, fun _ => rfl, fun _ => rfl, fun _ => rfl⟩

@[simp] theorem State.modQueue_frame (s : State) (k : Nat) (g : Queue → Queue) :
    (s.modQueue k g).pending = s.pending ∧ (s.modQueue k g).free = s.free ∧ (s.modQueue k g).ticks = s.ticks ∧
    (s.modQueue k g).rounds = s.rounds ∧ (s.modQueue k g).stamp = s.stamp ∧ (s.modQueue k g).dispatchSeq = s.dispatchSeq ∧
    (s.modQueue k g).hubTurns = s.hubTurns ∧ (s.modQueue k g).gangSeq = s.gangSeq ∧ (s.modQueue k g).workSeq = s.workSeq ∧
    (s.modQueue k g).evlSeq = s.evlSeq ∧ (s.modQueue k g).boot = s.boot ∧ (s.modQueue k g).power = s.power ∧
    (s.modQueue k g).slots = s.slots ∧ (s.modQueue k g).lcores = s.lcores ∧ (s.modQueue k g).cores = s.cores ∧
    (s.modQueue k g).clusters = s.clusters ∧ (s.modQueue k g).slices = s.slices ∧ (s.modQueue k g).channels = s.channels ∧
    (s.modQueue k g).regions = s.regions ∧ (s.modQueue k g).dies = s.dies ∧ (s.modQueue k g).parts = s.parts ∧
    (s.modQueue k g).mem = s.mem ∧ (s.modQueue k g).light = s.light ∧ (s.modQueue k g).producers = s.producers ∧
    (s.modQueue k g).lost = s.lost ∧ (s.modQueue k g).ptes = s.ptes ∧ (s.modQueue k g).owners = s.owners ∧
    (s.modQueue k g).ended = s.ended ∧ (s.modQueue k g).net = s.net ∧ (s.modQueue k g).fab = s.fab ∧
    (s.modQueue k g).ports = s.ports ∧ (s.modQueue k g).funcs = s.funcs ∧ (s.modQueue k g).host = s.host ∧
    (∀ j, (s.modQueue k g).slot j = s.slot j) ∧ (∀ j, (s.modQueue k g).lcore j = s.lcore j) ∧
    (∀ j, (s.modQueue k g).core j = s.core j) ∧ (∀ j, (s.modQueue k g).cluster j = s.cluster j) ∧
    (∀ j, (s.modQueue k g).slice j = s.slice j) ∧ (∀ j, (s.modQueue k g).channel j = s.channel j) ∧
    (∀ j, (s.modQueue k g).region j = s.region j) ∧ (∀ j, (s.modQueue k g).die j = s.die j) ∧
    (∀ j, (s.modQueue k g).part j = s.part j) ∧ (∀ j, (s.modQueue k g).port j = s.port j) ∧
    (∀ j, (s.modQueue k g).func j = s.func j) :=
  ⟨rfl, rfl, rfl, rfl, rfl, rfl, rfl, rfl, rfl, rfl, rfl, rfl, rfl, rfl, rfl, rfl, rfl, rfl, rfl, rfl, rfl, rfl, rfl,
   rfl, rfl, rfl, rfl, rfl, rfl, rfl, rfl, rfl, rfl, fun _ => rfl, fun _ => rfl, fun _ => rfl, fun _ => rfl,
   fun _ => rfl, fun _ => rfl, fun _ => rfl, fun _ => rfl, fun _ => rfl, fun _ => rfl, fun _ => rfl⟩

@[simp] theorem Core.putGroup_group (c : Core) (k j : Nat) (x : Group) :
    (c.putGroup k x).group j = if j = k then x else c.group j := by
  unfold Core.putGroup Core.group
  by_cases h : j = k
  · subst h; simp
  · simp [look_put_ne _ _ _ _ h, h]

@[simp] theorem Core.modGroup_group (c : Core) (k j : Nat) (g : Group → Group) :
    (c.modGroup k g).group j = if j = k then g (c.group k) else c.group j := by
  simp [Core.modGroup]

@[simp] theorem Core.putGroup_frame (c : Core) (k : Nat) (x : Group) :
    (c.putGroup k x).task = c.task ∧ (c.putGroup k x).frame = c.frame ∧ (c.putGroup k x).arrays = c.arrays ∧
    (c.putGroup k x).lm = c.lm ∧ (c.putGroup k x).l1 = c.l1 ∧ (c.putGroup k x).barriers = c.barriers ∧
    (c.putGroup k x).outst = c.outst ∧ (c.putGroup k x).tm = c.tm ∧ (c.putGroup k x).lastAsid = c.lastAsid ∧
    (c.putGroup k x).rcHit = c.rcHit ∧ (c.putGroup k x).rcMiss = c.rcMiss ∧ (c.putGroup k x).arithOrder = c.arithOrder ∧
    (c.putGroup k x).memOrder = c.memOrder ∧ (c.putGroup k x).undo = c.undo ∧ (c.putGroup k x).undoSeen = c.undoSeen ∧
    (c.putGroup k x).faultTicks = c.faultTicks ∧ (c.putGroup k x).lastPass = c.lastPass ∧
    (c.putGroup k x).hasTested = c.hasTested ∧ (c.putGroup k x).twinAt = c.twinAt ∧ (c.putGroup k x).watch = c.watch ∧
    (c.putGroup k x).urgent = c.urgent ∧ (c.putGroup k x).lastPort = c.lastPort ∧ (c.putGroup k x).still = c.still ∧
    (c.putGroup k x).icache = c.icache ∧ (c.putGroup k x).cycles = c.cycles ∧ (∀ j, (c.putGroup k x).arr j = c.arr j) ∧
    (∀ j, (c.putGroup k x).bar j = c.bar j) :=
  ⟨rfl, rfl, rfl, rfl, rfl, rfl, rfl, rfl, rfl, rfl, rfl, rfl, rfl, rfl, rfl, rfl, rfl, rfl, rfl, rfl, rfl, rfl, rfl,
   rfl, rfl, fun _ => rfl, fun _ => rfl⟩

@[simp] theorem Core.modGroup_frame (c : Core) (k : Nat) (g : Group → Group) :
    (c.modGroup k g).task = c.task ∧ (c.modGroup k g).frame = c.frame ∧ (c.modGroup k g).arrays = c.arrays ∧
    (c.modGroup k g).lm = c.lm ∧ (c.modGroup k g).l1 = c.l1 ∧ (c.modGroup k g).barriers = c.barriers ∧
    (c.modGroup k g).outst = c.outst ∧ (c.modGroup k g).tm = c.tm ∧ (c.modGroup k g).lastAsid = c.lastAsid ∧
    (c.modGroup k g).rcHit = c.rcHit ∧ (c.modGroup k g).rcMiss = c.rcMiss ∧ (c.modGroup k g).arithOrder = c.arithOrder ∧
    (c.modGroup k g).memOrder = c.memOrder ∧ (c.modGroup k g).undo = c.undo ∧ (c.modGroup k g).undoSeen = c.undoSeen ∧
    (c.modGroup k g).faultTicks = c.faultTicks ∧ (c.modGroup k g).lastPass = c.lastPass ∧
    (c.modGroup k g).hasTested = c.hasTested ∧ (c.modGroup k g).twinAt = c.twinAt ∧ (c.modGroup k g).watch = c.watch ∧
    (c.modGroup k g).urgent = c.urgent ∧ (c.modGroup k g).lastPort = c.lastPort ∧ (c.modGroup k g).still = c.still ∧
    (c.modGroup k g).icache = c.icache ∧ (c.modGroup k g).cycles = c.cycles ∧ (∀ j, (c.modGroup k g).arr j = c.arr j) ∧
    (∀ j, (c.modGroup k g).bar j = c.bar j) :=
  ⟨rfl, rfl, rfl, rfl, rfl, rfl, rfl, rfl, rfl, rfl, rfl, rfl, rfl, rfl, rfl, rfl, rfl, rfl, rfl, rfl, rfl, rfl, rfl,
   rfl, rfl, fun _ => rfl, fun _ => rfl⟩

@[simp] theorem Core.putArr_arr (c : Core) (k j : Nat) (x : MatArray) :
    (c.putArr k x).arr j = if j = k then x else c.arr j := by
  unfold Core.putArr Core.arr
  by_cases h : j = k
  · subst h; simp
  · simp [look_put_ne _ _ _ _ h, h]

@[simp] theorem Core.modArr_arr (c : Core) (k j : Nat) (g : MatArray → MatArray) :
    (c.modArr k g).arr j = if j = k then g (c.arr k) else c.arr j := by
  simp [Core.modArr]

@[simp] theorem Core.putArr_frame (c : Core) (k : Nat) (x : MatArray) :
    (c.putArr k x).task = c.task ∧ (c.putArr k x).frame = c.frame ∧ (c.putArr k x).groups = c.groups ∧
    (c.putArr k x).lm = c.lm ∧ (c.putArr k x).l1 = c.l1 ∧ (c.putArr k x).barriers = c.barriers ∧
    (c.putArr k x).outst = c.outst ∧ (c.putArr k x).tm = c.tm ∧ (c.putArr k x).lastAsid = c.lastAsid ∧
    (c.putArr k x).rcHit = c.rcHit ∧ (c.putArr k x).rcMiss = c.rcMiss ∧ (c.putArr k x).arithOrder = c.arithOrder ∧
    (c.putArr k x).memOrder = c.memOrder ∧ (c.putArr k x).undo = c.undo ∧ (c.putArr k x).undoSeen = c.undoSeen ∧
    (c.putArr k x).faultTicks = c.faultTicks ∧ (c.putArr k x).lastPass = c.lastPass ∧
    (c.putArr k x).hasTested = c.hasTested ∧ (c.putArr k x).twinAt = c.twinAt ∧ (c.putArr k x).watch = c.watch ∧
    (c.putArr k x).urgent = c.urgent ∧ (c.putArr k x).lastPort = c.lastPort ∧ (c.putArr k x).still = c.still ∧
    (c.putArr k x).icache = c.icache ∧ (c.putArr k x).cycles = c.cycles ∧ (∀ j, (c.putArr k x).group j = c.group j) ∧
    (∀ j, (c.putArr k x).bar j = c.bar j) :=
  ⟨rfl, rfl, rfl, rfl, rfl, rfl, rfl, rfl, rfl, rfl, rfl, rfl, rfl, rfl, rfl, rfl, rfl, rfl, rfl, rfl, rfl, rfl, rfl,
   rfl, rfl, fun _ => rfl, fun _ => rfl⟩

@[simp] theorem Core.modArr_frame (c : Core) (k : Nat) (g : MatArray → MatArray) :
    (c.modArr k g).task = c.task ∧ (c.modArr k g).frame = c.frame ∧ (c.modArr k g).groups = c.groups ∧
    (c.modArr k g).lm = c.lm ∧ (c.modArr k g).l1 = c.l1 ∧ (c.modArr k g).barriers = c.barriers ∧
    (c.modArr k g).outst = c.outst ∧ (c.modArr k g).tm = c.tm ∧ (c.modArr k g).lastAsid = c.lastAsid ∧
    (c.modArr k g).rcHit = c.rcHit ∧ (c.modArr k g).rcMiss = c.rcMiss ∧ (c.modArr k g).arithOrder = c.arithOrder ∧
    (c.modArr k g).memOrder = c.memOrder ∧ (c.modArr k g).undo = c.undo ∧ (c.modArr k g).undoSeen = c.undoSeen ∧
    (c.modArr k g).faultTicks = c.faultTicks ∧ (c.modArr k g).lastPass = c.lastPass ∧
    (c.modArr k g).hasTested = c.hasTested ∧ (c.modArr k g).twinAt = c.twinAt ∧ (c.modArr k g).watch = c.watch ∧
    (c.modArr k g).urgent = c.urgent ∧ (c.modArr k g).lastPort = c.lastPort ∧ (c.modArr k g).still = c.still ∧
    (c.modArr k g).icache = c.icache ∧ (c.modArr k g).cycles = c.cycles ∧ (∀ j, (c.modArr k g).group j = c.group j) ∧
    (∀ j, (c.modArr k g).bar j = c.bar j) :=
  ⟨rfl, rfl, rfl, rfl, rfl, rfl, rfl, rfl, rfl, rfl, rfl, rfl, rfl, rfl, rfl, rfl, rfl, rfl, rfl, rfl, rfl, rfl, rfl,
   rfl, rfl, fun _ => rfl, fun _ => rfl⟩

@[simp] theorem Core.putBar_bar (c : Core) (k j : Nat) (x : NBar) :
    (c.putBar k x).bar j = if j = k then x else c.bar j := by
  unfold Core.putBar Core.bar
  by_cases h : j = k
  · subst h; simp
  · simp [look_put_ne _ _ _ _ h, h]

@[simp] theorem Core.modBar_bar (c : Core) (k j : Nat) (g : NBar → NBar) :
    (c.modBar k g).bar j = if j = k then g (c.bar k) else c.bar j := by
  simp [Core.modBar]

@[simp] theorem Core.putBar_frame (c : Core) (k : Nat) (x : NBar) :
    (c.putBar k x).task = c.task ∧ (c.putBar k x).frame = c.frame ∧ (c.putBar k x).groups = c.groups ∧
    (c.putBar k x).arrays = c.arrays ∧ (c.putBar k x).lm = c.lm ∧ (c.putBar k x).l1 = c.l1 ∧
    (c.putBar k x).outst = c.outst ∧ (c.putBar k x).tm = c.tm ∧ (c.putBar k x).lastAsid = c.lastAsid ∧
    (c.putBar k x).rcHit = c.rcHit ∧ (c.putBar k x).rcMiss = c.rcMiss ∧ (c.putBar k x).arithOrder = c.arithOrder ∧
    (c.putBar k x).memOrder = c.memOrder ∧ (c.putBar k x).undo = c.undo ∧ (c.putBar k x).undoSeen = c.undoSeen ∧
    (c.putBar k x).faultTicks = c.faultTicks ∧ (c.putBar k x).lastPass = c.lastPass ∧
    (c.putBar k x).hasTested = c.hasTested ∧ (c.putBar k x).twinAt = c.twinAt ∧ (c.putBar k x).watch = c.watch ∧
    (c.putBar k x).urgent = c.urgent ∧ (c.putBar k x).lastPort = c.lastPort ∧ (c.putBar k x).still = c.still ∧
    (c.putBar k x).icache = c.icache ∧ (c.putBar k x).cycles = c.cycles ∧ (∀ j, (c.putBar k x).group j = c.group j) ∧
    (∀ j, (c.putBar k x).arr j = c.arr j) :=
  ⟨rfl, rfl, rfl, rfl, rfl, rfl, rfl, rfl, rfl, rfl, rfl, rfl, rfl, rfl, rfl, rfl, rfl, rfl, rfl, rfl, rfl, rfl, rfl,
   rfl, rfl, fun _ => rfl, fun _ => rfl⟩

@[simp] theorem Core.modBar_frame (c : Core) (k : Nat) (g : NBar → NBar) :
    (c.modBar k g).task = c.task ∧ (c.modBar k g).frame = c.frame ∧ (c.modBar k g).groups = c.groups ∧
    (c.modBar k g).arrays = c.arrays ∧ (c.modBar k g).lm = c.lm ∧ (c.modBar k g).l1 = c.l1 ∧
    (c.modBar k g).outst = c.outst ∧ (c.modBar k g).tm = c.tm ∧ (c.modBar k g).lastAsid = c.lastAsid ∧
    (c.modBar k g).rcHit = c.rcHit ∧ (c.modBar k g).rcMiss = c.rcMiss ∧ (c.modBar k g).arithOrder = c.arithOrder ∧
    (c.modBar k g).memOrder = c.memOrder ∧ (c.modBar k g).undo = c.undo ∧ (c.modBar k g).undoSeen = c.undoSeen ∧
    (c.modBar k g).faultTicks = c.faultTicks ∧ (c.modBar k g).lastPass = c.lastPass ∧
    (c.modBar k g).hasTested = c.hasTested ∧ (c.modBar k g).twinAt = c.twinAt ∧ (c.modBar k g).watch = c.watch ∧
    (c.modBar k g).urgent = c.urgent ∧ (c.modBar k g).lastPort = c.lastPort ∧ (c.modBar k g).still = c.still ∧
    (c.modBar k g).icache = c.icache ∧ (c.modBar k g).cycles = c.cycles ∧ (∀ j, (c.modBar k g).group j = c.group j) ∧
    (∀ j, (c.modBar k g).arr j = c.arr j) :=
  ⟨rfl, rfl, rfl, rfl, rfl, rfl, rfl, rfl, rfl, rfl, rfl, rfl, rfl, rfl, rfl, rfl, rfl, rfl, rfl, rfl, rfl, rfl, rfl,
   rfl, rfl, fun _ => rfl, fun _ => rfl⟩

@[simp] theorem Net.putLink_link (n : Net) (k j : Nat) (x : LinkEnd) :
    (n.putLink k x).link j = if j = k then x else n.link j := by
  unfold Net.putLink Net.link
  by_cases h : j = k
  · subst h; simp
  · simp [look_put_ne _ _ _ _ h, h]

@[simp] theorem Net.modLink_link (n : Net) (k j : Nat) (g : LinkEnd → LinkEnd) :
    (n.modLink k g).link j = if j = k then g (n.link k) else n.link j := by
  simp [Net.modLink]

@[simp] theorem Net.putLink_frame (n : Net) (k : Nat) (x : LinkEnd) :
    (n.putLink k x).msgs = n.msgs ∧ (n.putLink k x).seq = n.seq ∧ (n.putLink k x).points = n.points ∧
    (n.putLink k x).routes = n.routes ∧ (n.putLink k x).qos = n.qos ∧ (n.putLink k x).qosPending = n.qosPending ∧
    (n.putLink k x).qosReject = n.qosReject ∧ (n.putLink k x).dtCfg = n.dtCfg ∧ (n.putLink k x).dtPort = n.dtPort ∧
    (n.putLink k x).dtGen = n.dtGen ∧ (n.putLink k x).dtDue = n.dtDue ∧ (n.putLink k x).netBytes = n.netBytes ∧
    (n.putLink k x).netShort = n.netShort ∧ (n.putLink k x).retries = n.retries :=
  ⟨rfl, rfl, rfl, rfl, rfl, rfl, rfl, rfl, rfl, rfl, rfl, rfl, rfl, rfl⟩

@[simp] theorem Net.modLink_frame (n : Net) (k : Nat) (g : LinkEnd → LinkEnd) :
    (n.modLink k g).msgs = n.msgs ∧ (n.modLink k g).seq = n.seq ∧ (n.modLink k g).points = n.points ∧
    (n.modLink k g).routes = n.routes ∧ (n.modLink k g).qos = n.qos ∧ (n.modLink k g).qosPending = n.qosPending ∧
    (n.modLink k g).qosReject = n.qosReject ∧ (n.modLink k g).dtCfg = n.dtCfg ∧ (n.modLink k g).dtPort = n.dtPort ∧
    (n.modLink k g).dtGen = n.dtGen ∧ (n.modLink k g).dtDue = n.dtDue ∧ (n.modLink k g).netBytes = n.netBytes ∧
    (n.modLink k g).netShort = n.netShort ∧ (n.modLink k g).retries = n.retries :=
  ⟨rfl, rfl, rfl, rfl, rfl, rfl, rfl, rfl, rfl, rfl, rfl, rfl, rfl, rfl⟩

@[simp] theorem Fab.putStrait_strait (f : Fab) (k j : Nat) (x : Strait) :
    (f.putStrait k x).strait j = if j = k then x else f.strait j := by
  unfold Fab.putStrait Fab.strait
  by_cases h : j = k
  · subst h; simp
  · simp [look_put_ne _ _ _ _ h, h]

@[simp] theorem Fab.modStrait_strait (f : Fab) (k j : Nat) (g : Strait → Strait) :
    (f.modStrait k g).strait j = if j = k then g (f.strait k) else f.strait j := by
  simp [Fab.modStrait]

@[simp] theorem Fab.putStrait_frame (f : Fab) (k : Nat) (x : Strait) :
    (f.putStrait k x).engines = f.engines ∧ (f.putStrait k x).idReq = f.idReq ∧ (f.putStrait k x).enReq = f.enReq ∧
    (f.putStrait k x).idApplied = f.idApplied ∧ (f.putStrait k x).joined = f.joined ∧
    (f.putStrait k x).adopted = f.adopted ∧ (f.putStrait k x).reject = f.reject ∧ (f.putStrait k x).claim = f.claim ∧
    (f.putStrait k x).routes = f.routes ∧ (f.putStrait k x).linkState = f.linkState ∧ (f.putStrait k x).marks = f.marks ∧
    (f.putStrait k x).flows = f.flows ∧ (f.putStrait k x).exports = f.exports ∧ (f.putStrait k x).reqs = f.reqs ∧
    (f.putStrait k x).nextTag = f.nextTag ∧ (f.putStrait k x).hopDrop = f.hopDrop ∧ (f.putStrait k x).repeats = f.repeats ∧
    (f.putStrait k x).gaps = f.gaps ∧ (f.putStrait k x).retx = f.retx ∧ (f.putStrait k x).forwarding = f.forwarding ∧
    (f.putStrait k x).inbox = f.inbox ∧ (f.putStrait k x).flowlets = f.flowlets ∧ (f.putStrait k x).noId = f.noId ∧
    (f.putStrait k x).colls = f.colls ∧ (f.putStrait k x).early = f.early ∧ (f.putStrait k x).guard = f.guard ∧
    (∀ j, (f.putStrait k x).engine j = f.engine j) ∧ (∀ j, (f.putStrait k x).flow j = f.flow j) :=
  ⟨rfl, rfl, rfl, rfl, rfl, rfl, rfl, rfl, rfl, rfl, rfl, rfl, rfl, rfl, rfl, rfl, rfl, rfl, rfl, rfl, rfl, rfl, rfl,
   rfl, rfl, rfl, fun _ => rfl, fun _ => rfl⟩

@[simp] theorem Fab.modStrait_frame (f : Fab) (k : Nat) (g : Strait → Strait) :
    (f.modStrait k g).engines = f.engines ∧ (f.modStrait k g).idReq = f.idReq ∧ (f.modStrait k g).enReq = f.enReq ∧
    (f.modStrait k g).idApplied = f.idApplied ∧ (f.modStrait k g).joined = f.joined ∧
    (f.modStrait k g).adopted = f.adopted ∧ (f.modStrait k g).reject = f.reject ∧ (f.modStrait k g).claim = f.claim ∧
    (f.modStrait k g).routes = f.routes ∧ (f.modStrait k g).linkState = f.linkState ∧ (f.modStrait k g).marks = f.marks ∧
    (f.modStrait k g).flows = f.flows ∧ (f.modStrait k g).exports = f.exports ∧ (f.modStrait k g).reqs = f.reqs ∧
    (f.modStrait k g).nextTag = f.nextTag ∧ (f.modStrait k g).hopDrop = f.hopDrop ∧ (f.modStrait k g).repeats = f.repeats ∧
    (f.modStrait k g).gaps = f.gaps ∧ (f.modStrait k g).retx = f.retx ∧ (f.modStrait k g).forwarding = f.forwarding ∧
    (f.modStrait k g).inbox = f.inbox ∧ (f.modStrait k g).flowlets = f.flowlets ∧ (f.modStrait k g).noId = f.noId ∧
    (f.modStrait k g).colls = f.colls ∧ (f.modStrait k g).early = f.early ∧ (f.modStrait k g).guard = f.guard ∧
    (∀ j, (f.modStrait k g).engine j = f.engine j) ∧ (∀ j, (f.modStrait k g).flow j = f.flow j) :=
  ⟨rfl, rfl, rfl, rfl, rfl, rfl, rfl, rfl, rfl, rfl, rfl, rfl, rfl, rfl, rfl, rfl, rfl, rfl, rfl, rfl, rfl, rfl, rfl,
   rfl, rfl, rfl, fun _ => rfl, fun _ => rfl⟩

@[simp] theorem Fab.putEngine_engine (f : Fab) (k j : Nat) (x : Engine) :
    (f.putEngine k x).engine j = if j = k then x else f.engine j := by
  unfold Fab.putEngine Fab.engine
  by_cases h : j = k
  · subst h; simp
  · simp [look_put_ne _ _ _ _ h, h]

@[simp] theorem Fab.modEngine_engine (f : Fab) (k j : Nat) (g : Engine → Engine) :
    (f.modEngine k g).engine j = if j = k then g (f.engine k) else f.engine j := by
  simp [Fab.modEngine]

@[simp] theorem Fab.putEngine_frame (f : Fab) (k : Nat) (x : Engine) :
    (f.putEngine k x).straits = f.straits ∧ (f.putEngine k x).idReq = f.idReq ∧ (f.putEngine k x).enReq = f.enReq ∧
    (f.putEngine k x).idApplied = f.idApplied ∧ (f.putEngine k x).joined = f.joined ∧
    (f.putEngine k x).adopted = f.adopted ∧ (f.putEngine k x).reject = f.reject ∧ (f.putEngine k x).claim = f.claim ∧
    (f.putEngine k x).routes = f.routes ∧ (f.putEngine k x).linkState = f.linkState ∧ (f.putEngine k x).marks = f.marks ∧
    (f.putEngine k x).flows = f.flows ∧ (f.putEngine k x).exports = f.exports ∧ (f.putEngine k x).reqs = f.reqs ∧
    (f.putEngine k x).nextTag = f.nextTag ∧ (f.putEngine k x).hopDrop = f.hopDrop ∧ (f.putEngine k x).repeats = f.repeats ∧
    (f.putEngine k x).gaps = f.gaps ∧ (f.putEngine k x).retx = f.retx ∧ (f.putEngine k x).forwarding = f.forwarding ∧
    (f.putEngine k x).inbox = f.inbox ∧ (f.putEngine k x).flowlets = f.flowlets ∧ (f.putEngine k x).noId = f.noId ∧
    (f.putEngine k x).colls = f.colls ∧ (f.putEngine k x).early = f.early ∧ (f.putEngine k x).guard = f.guard ∧
    (∀ j, (f.putEngine k x).strait j = f.strait j) ∧ (∀ j, (f.putEngine k x).flow j = f.flow j) :=
  ⟨rfl, rfl, rfl, rfl, rfl, rfl, rfl, rfl, rfl, rfl, rfl, rfl, rfl, rfl, rfl, rfl, rfl, rfl, rfl, rfl, rfl, rfl, rfl,
   rfl, rfl, rfl, fun _ => rfl, fun _ => rfl⟩

@[simp] theorem Fab.modEngine_frame (f : Fab) (k : Nat) (g : Engine → Engine) :
    (f.modEngine k g).straits = f.straits ∧ (f.modEngine k g).idReq = f.idReq ∧ (f.modEngine k g).enReq = f.enReq ∧
    (f.modEngine k g).idApplied = f.idApplied ∧ (f.modEngine k g).joined = f.joined ∧
    (f.modEngine k g).adopted = f.adopted ∧ (f.modEngine k g).reject = f.reject ∧ (f.modEngine k g).claim = f.claim ∧
    (f.modEngine k g).routes = f.routes ∧ (f.modEngine k g).linkState = f.linkState ∧ (f.modEngine k g).marks = f.marks ∧
    (f.modEngine k g).flows = f.flows ∧ (f.modEngine k g).exports = f.exports ∧ (f.modEngine k g).reqs = f.reqs ∧
    (f.modEngine k g).nextTag = f.nextTag ∧ (f.modEngine k g).hopDrop = f.hopDrop ∧ (f.modEngine k g).repeats = f.repeats ∧
    (f.modEngine k g).gaps = f.gaps ∧ (f.modEngine k g).retx = f.retx ∧ (f.modEngine k g).forwarding = f.forwarding ∧
    (f.modEngine k g).inbox = f.inbox ∧ (f.modEngine k g).flowlets = f.flowlets ∧ (f.modEngine k g).noId = f.noId ∧
    (f.modEngine k g).colls = f.colls ∧ (f.modEngine k g).early = f.early ∧ (f.modEngine k g).guard = f.guard ∧
    (∀ j, (f.modEngine k g).strait j = f.strait j) ∧ (∀ j, (f.modEngine k g).flow j = f.flow j) :=
  ⟨rfl, rfl, rfl, rfl, rfl, rfl, rfl, rfl, rfl, rfl, rfl, rfl, rfl, rfl, rfl, rfl, rfl, rfl, rfl, rfl, rfl, rfl, rfl,
   rfl, rfl, rfl, fun _ => rfl, fun _ => rfl⟩

@[simp] theorem Fab.putFlow_flow (f : Fab) (k j : Nat) (x : Flow) :
    (f.putFlow k x).flow j = if j = k then x else f.flow j := by
  unfold Fab.putFlow Fab.flow
  by_cases h : j = k
  · subst h; simp
  · simp [look_put_ne _ _ _ _ h, h]

@[simp] theorem Fab.modFlow_flow (f : Fab) (k j : Nat) (g : Flow → Flow) :
    (f.modFlow k g).flow j = if j = k then g (f.flow k) else f.flow j := by
  simp [Fab.modFlow]

@[simp] theorem Fab.putFlow_frame (f : Fab) (k : Nat) (x : Flow) :
    (f.putFlow k x).engines = f.engines ∧ (f.putFlow k x).straits = f.straits ∧ (f.putFlow k x).idReq = f.idReq ∧
    (f.putFlow k x).enReq = f.enReq ∧ (f.putFlow k x).idApplied = f.idApplied ∧ (f.putFlow k x).joined = f.joined ∧
    (f.putFlow k x).adopted = f.adopted ∧ (f.putFlow k x).reject = f.reject ∧ (f.putFlow k x).claim = f.claim ∧
    (f.putFlow k x).routes = f.routes ∧ (f.putFlow k x).linkState = f.linkState ∧ (f.putFlow k x).marks = f.marks ∧
    (f.putFlow k x).exports = f.exports ∧ (f.putFlow k x).reqs = f.reqs ∧ (f.putFlow k x).nextTag = f.nextTag ∧
    (f.putFlow k x).hopDrop = f.hopDrop ∧ (f.putFlow k x).repeats = f.repeats ∧ (f.putFlow k x).gaps = f.gaps ∧
    (f.putFlow k x).retx = f.retx ∧ (f.putFlow k x).forwarding = f.forwarding ∧ (f.putFlow k x).inbox = f.inbox ∧
    (f.putFlow k x).flowlets = f.flowlets ∧ (f.putFlow k x).noId = f.noId ∧ (f.putFlow k x).colls = f.colls ∧
    (f.putFlow k x).early = f.early ∧ (f.putFlow k x).guard = f.guard ∧ (∀ j, (f.putFlow k x).strait j = f.strait j) ∧
    (∀ j, (f.putFlow k x).engine j = f.engine j) :=
  ⟨rfl, rfl, rfl, rfl, rfl, rfl, rfl, rfl, rfl, rfl, rfl, rfl, rfl, rfl, rfl, rfl, rfl, rfl, rfl, rfl, rfl, rfl, rfl,
   rfl, rfl, rfl, fun _ => rfl, fun _ => rfl⟩

@[simp] theorem Fab.modFlow_frame (f : Fab) (k : Nat) (g : Flow → Flow) :
    (f.modFlow k g).engines = f.engines ∧ (f.modFlow k g).straits = f.straits ∧ (f.modFlow k g).idReq = f.idReq ∧
    (f.modFlow k g).enReq = f.enReq ∧ (f.modFlow k g).idApplied = f.idApplied ∧ (f.modFlow k g).joined = f.joined ∧
    (f.modFlow k g).adopted = f.adopted ∧ (f.modFlow k g).reject = f.reject ∧ (f.modFlow k g).claim = f.claim ∧
    (f.modFlow k g).routes = f.routes ∧ (f.modFlow k g).linkState = f.linkState ∧ (f.modFlow k g).marks = f.marks ∧
    (f.modFlow k g).exports = f.exports ∧ (f.modFlow k g).reqs = f.reqs ∧ (f.modFlow k g).nextTag = f.nextTag ∧
    (f.modFlow k g).hopDrop = f.hopDrop ∧ (f.modFlow k g).repeats = f.repeats ∧ (f.modFlow k g).gaps = f.gaps ∧
    (f.modFlow k g).retx = f.retx ∧ (f.modFlow k g).forwarding = f.forwarding ∧ (f.modFlow k g).inbox = f.inbox ∧
    (f.modFlow k g).flowlets = f.flowlets ∧ (f.modFlow k g).noId = f.noId ∧ (f.modFlow k g).colls = f.colls ∧
    (f.modFlow k g).early = f.early ∧ (f.modFlow k g).guard = f.guard ∧ (∀ j, (f.modFlow k g).strait j = f.strait j) ∧
    (∀ j, (f.modFlow k g).engine j = f.engine j) :=
  ⟨rfl, rfl, rfl, rfl, rfl, rfl, rfl, rfl, rfl, rfl, rfl, rfl, rfl, rfl, rfl, rfl, rfl, rfl, rfl, rfl, rfl, rfl, rfl,
   rfl, rfl, rfl, fun _ => rfl, fun _ => rfl⟩

@[simp] theorem State.onBoot_frame (s : State) (g : Boot → Boot) :
    (s.onBoot g).boot = g s.boot ∧ (s.onBoot g).pending = s.pending ∧ (s.onBoot g).free = s.free ∧
    (s.onBoot g).ticks = s.ticks ∧ (s.onBoot g).rounds = s.rounds ∧ (s.onBoot g).stamp = s.stamp ∧
    (s.onBoot g).dispatchSeq = s.dispatchSeq ∧ (s.onBoot g).hubTurns = s.hubTurns ∧ (s.onBoot g).gangSeq = s.gangSeq ∧
    (s.onBoot g).workSeq = s.workSeq ∧ (s.onBoot g).evlSeq = s.evlSeq ∧ (s.onBoot g).power = s.power ∧
    (s.onBoot g).slots = s.slots ∧ (s.onBoot g).lcores = s.lcores ∧ (s.onBoot g).cores = s.cores ∧
    (s.onBoot g).clusters = s.clusters ∧ (s.onBoot g).slices = s.slices ∧ (s.onBoot g).channels = s.channels ∧
    (s.onBoot g).regions = s.regions ∧ (s.onBoot g).dies = s.dies ∧ (s.onBoot g).parts = s.parts ∧
    (s.onBoot g).mem = s.mem ∧ (s.onBoot g).light = s.light ∧ (s.onBoot g).producers = s.producers ∧
    (s.onBoot g).lost = s.lost ∧ (s.onBoot g).ptes = s.ptes ∧ (s.onBoot g).owners = s.owners ∧
    (s.onBoot g).ended = s.ended ∧ (s.onBoot g).net = s.net ∧ (s.onBoot g).fab = s.fab ∧ (s.onBoot g).ports = s.ports ∧
    (s.onBoot g).funcs = s.funcs ∧ (s.onBoot g).queues = s.queues ∧ (s.onBoot g).host = s.host ∧
    (∀ j, (s.onBoot g).slot j = s.slot j) ∧ (∀ j, (s.onBoot g).lcore j = s.lcore j) ∧
    (∀ j, (s.onBoot g).core j = s.core j) ∧ (∀ j, (s.onBoot g).cluster j = s.cluster j) ∧
    (∀ j, (s.onBoot g).slice j = s.slice j) ∧ (∀ j, (s.onBoot g).channel j = s.channel j) ∧
    (∀ j, (s.onBoot g).region j = s.region j) ∧ (∀ j, (s.onBoot g).die j = s.die j) ∧
    (∀ j, (s.onBoot g).part j = s.part j) ∧ (∀ j, (s.onBoot g).port j = s.port j) ∧ (∀ j, (s.onBoot g).func j = s.func j) ∧
    (∀ j, (s.onBoot g).queue j = s.queue j) :=
  ⟨rfl, rfl, rfl, rfl, rfl, rfl, rfl, rfl, rfl, rfl, rfl, rfl, rfl, rfl, rfl, rfl, rfl, rfl, rfl, rfl, rfl, rfl, rfl,
   rfl, rfl, rfl, rfl, rfl, rfl, rfl, rfl, rfl, rfl, rfl, fun _ => rfl, fun _ => rfl, fun _ => rfl, fun _ => rfl,
   fun _ => rfl, fun _ => rfl, fun _ => rfl, fun _ => rfl, fun _ => rfl, fun _ => rfl, fun _ => rfl, fun _ => rfl⟩

@[simp] theorem State.onPower_frame (s : State) (g : Power → Power) :
    (s.onPower g).power = g s.power ∧ (s.onPower g).pending = s.pending ∧ (s.onPower g).free = s.free ∧
    (s.onPower g).ticks = s.ticks ∧ (s.onPower g).rounds = s.rounds ∧ (s.onPower g).stamp = s.stamp ∧
    (s.onPower g).dispatchSeq = s.dispatchSeq ∧ (s.onPower g).hubTurns = s.hubTurns ∧ (s.onPower g).gangSeq = s.gangSeq ∧
    (s.onPower g).workSeq = s.workSeq ∧ (s.onPower g).evlSeq = s.evlSeq ∧ (s.onPower g).boot = s.boot ∧
    (s.onPower g).slots = s.slots ∧ (s.onPower g).lcores = s.lcores ∧ (s.onPower g).cores = s.cores ∧
    (s.onPower g).clusters = s.clusters ∧ (s.onPower g).slices = s.slices ∧ (s.onPower g).channels = s.channels ∧
    (s.onPower g).regions = s.regions ∧ (s.onPower g).dies = s.dies ∧ (s.onPower g).parts = s.parts ∧
    (s.onPower g).mem = s.mem ∧ (s.onPower g).light = s.light ∧ (s.onPower g).producers = s.producers ∧
    (s.onPower g).lost = s.lost ∧ (s.onPower g).ptes = s.ptes ∧ (s.onPower g).owners = s.owners ∧
    (s.onPower g).ended = s.ended ∧ (s.onPower g).net = s.net ∧ (s.onPower g).fab = s.fab ∧ (s.onPower g).ports = s.ports ∧
    (s.onPower g).funcs = s.funcs ∧ (s.onPower g).queues = s.queues ∧ (s.onPower g).host = s.host ∧
    (∀ j, (s.onPower g).slot j = s.slot j) ∧ (∀ j, (s.onPower g).lcore j = s.lcore j) ∧
    (∀ j, (s.onPower g).core j = s.core j) ∧ (∀ j, (s.onPower g).cluster j = s.cluster j) ∧
    (∀ j, (s.onPower g).slice j = s.slice j) ∧ (∀ j, (s.onPower g).channel j = s.channel j) ∧
    (∀ j, (s.onPower g).region j = s.region j) ∧ (∀ j, (s.onPower g).die j = s.die j) ∧
    (∀ j, (s.onPower g).part j = s.part j) ∧ (∀ j, (s.onPower g).port j = s.port j) ∧
    (∀ j, (s.onPower g).func j = s.func j) ∧ (∀ j, (s.onPower g).queue j = s.queue j) :=
  ⟨rfl, rfl, rfl, rfl, rfl, rfl, rfl, rfl, rfl, rfl, rfl, rfl, rfl, rfl, rfl, rfl, rfl, rfl, rfl, rfl, rfl, rfl, rfl,
   rfl, rfl, rfl, rfl, rfl, rfl, rfl, rfl, rfl, rfl, rfl, fun _ => rfl, fun _ => rfl, fun _ => rfl, fun _ => rfl,
   fun _ => rfl, fun _ => rfl, fun _ => rfl, fun _ => rfl, fun _ => rfl, fun _ => rfl, fun _ => rfl, fun _ => rfl⟩

@[simp] theorem State.onNet_frame (s : State) (g : Net → Net) :
    (s.onNet g).net = g s.net ∧ (s.onNet g).pending = s.pending ∧ (s.onNet g).free = s.free ∧ (s.onNet g).ticks = s.ticks ∧
    (s.onNet g).rounds = s.rounds ∧ (s.onNet g).stamp = s.stamp ∧ (s.onNet g).dispatchSeq = s.dispatchSeq ∧
    (s.onNet g).hubTurns = s.hubTurns ∧ (s.onNet g).gangSeq = s.gangSeq ∧ (s.onNet g).workSeq = s.workSeq ∧
    (s.onNet g).evlSeq = s.evlSeq ∧ (s.onNet g).boot = s.boot ∧ (s.onNet g).power = s.power ∧ (s.onNet g).slots = s.slots ∧
    (s.onNet g).lcores = s.lcores ∧ (s.onNet g).cores = s.cores ∧ (s.onNet g).clusters = s.clusters ∧
    (s.onNet g).slices = s.slices ∧ (s.onNet g).channels = s.channels ∧ (s.onNet g).regions = s.regions ∧
    (s.onNet g).dies = s.dies ∧ (s.onNet g).parts = s.parts ∧ (s.onNet g).mem = s.mem ∧ (s.onNet g).light = s.light ∧
    (s.onNet g).producers = s.producers ∧ (s.onNet g).lost = s.lost ∧ (s.onNet g).ptes = s.ptes ∧
    (s.onNet g).owners = s.owners ∧ (s.onNet g).ended = s.ended ∧ (s.onNet g).fab = s.fab ∧ (s.onNet g).ports = s.ports ∧
    (s.onNet g).funcs = s.funcs ∧ (s.onNet g).queues = s.queues ∧ (s.onNet g).host = s.host ∧
    (∀ j, (s.onNet g).slot j = s.slot j) ∧ (∀ j, (s.onNet g).lcore j = s.lcore j) ∧ (∀ j, (s.onNet g).core j = s.core j) ∧
    (∀ j, (s.onNet g).cluster j = s.cluster j) ∧ (∀ j, (s.onNet g).slice j = s.slice j) ∧
    (∀ j, (s.onNet g).channel j = s.channel j) ∧ (∀ j, (s.onNet g).region j = s.region j) ∧
    (∀ j, (s.onNet g).die j = s.die j) ∧ (∀ j, (s.onNet g).part j = s.part j) ∧ (∀ j, (s.onNet g).port j = s.port j) ∧
    (∀ j, (s.onNet g).func j = s.func j) ∧ (∀ j, (s.onNet g).queue j = s.queue j) :=
  ⟨rfl, rfl, rfl, rfl, rfl, rfl, rfl, rfl, rfl, rfl, rfl, rfl, rfl, rfl, rfl, rfl, rfl, rfl, rfl, rfl, rfl, rfl, rfl,
   rfl, rfl, rfl, rfl, rfl, rfl, rfl, rfl, rfl, rfl, rfl, fun _ => rfl, fun _ => rfl, fun _ => rfl, fun _ => rfl,
   fun _ => rfl, fun _ => rfl, fun _ => rfl, fun _ => rfl, fun _ => rfl, fun _ => rfl, fun _ => rfl, fun _ => rfl⟩

@[simp] theorem State.onFab_frame (s : State) (g : Fab → Fab) :
    (s.onFab g).fab = g s.fab ∧ (s.onFab g).pending = s.pending ∧ (s.onFab g).free = s.free ∧ (s.onFab g).ticks = s.ticks ∧
    (s.onFab g).rounds = s.rounds ∧ (s.onFab g).stamp = s.stamp ∧ (s.onFab g).dispatchSeq = s.dispatchSeq ∧
    (s.onFab g).hubTurns = s.hubTurns ∧ (s.onFab g).gangSeq = s.gangSeq ∧ (s.onFab g).workSeq = s.workSeq ∧
    (s.onFab g).evlSeq = s.evlSeq ∧ (s.onFab g).boot = s.boot ∧ (s.onFab g).power = s.power ∧ (s.onFab g).slots = s.slots ∧
    (s.onFab g).lcores = s.lcores ∧ (s.onFab g).cores = s.cores ∧ (s.onFab g).clusters = s.clusters ∧
    (s.onFab g).slices = s.slices ∧ (s.onFab g).channels = s.channels ∧ (s.onFab g).regions = s.regions ∧
    (s.onFab g).dies = s.dies ∧ (s.onFab g).parts = s.parts ∧ (s.onFab g).mem = s.mem ∧ (s.onFab g).light = s.light ∧
    (s.onFab g).producers = s.producers ∧ (s.onFab g).lost = s.lost ∧ (s.onFab g).ptes = s.ptes ∧
    (s.onFab g).owners = s.owners ∧ (s.onFab g).ended = s.ended ∧ (s.onFab g).net = s.net ∧ (s.onFab g).ports = s.ports ∧
    (s.onFab g).funcs = s.funcs ∧ (s.onFab g).queues = s.queues ∧ (s.onFab g).host = s.host ∧
    (∀ j, (s.onFab g).slot j = s.slot j) ∧ (∀ j, (s.onFab g).lcore j = s.lcore j) ∧ (∀ j, (s.onFab g).core j = s.core j) ∧
    (∀ j, (s.onFab g).cluster j = s.cluster j) ∧ (∀ j, (s.onFab g).slice j = s.slice j) ∧
    (∀ j, (s.onFab g).channel j = s.channel j) ∧ (∀ j, (s.onFab g).region j = s.region j) ∧
    (∀ j, (s.onFab g).die j = s.die j) ∧ (∀ j, (s.onFab g).part j = s.part j) ∧ (∀ j, (s.onFab g).port j = s.port j) ∧
    (∀ j, (s.onFab g).func j = s.func j) ∧ (∀ j, (s.onFab g).queue j = s.queue j) :=
  ⟨rfl, rfl, rfl, rfl, rfl, rfl, rfl, rfl, rfl, rfl, rfl, rfl, rfl, rfl, rfl, rfl, rfl, rfl, rfl, rfl, rfl, rfl, rfl,
   rfl, rfl, rfl, rfl, rfl, rfl, rfl, rfl, rfl, rfl, rfl, fun _ => rfl, fun _ => rfl, fun _ => rfl, fun _ => rfl,
   fun _ => rfl, fun _ => rfl, fun _ => rfl, fun _ => rfl, fun _ => rfl, fun _ => rfl, fun _ => rfl, fun _ => rfl⟩

end Sys2Proof.Machine
end

