-- ==== Sys2Proof/Laws/Issue.lean ====
section
/-! SUPPORT. What issue, retirement and the writing of registers do, once for every instruction. -/

namespace Sys2Proof.Machine

/-! ### The context of an issue -/

/-- What a context says of the state it was taken from. -/
theorem ctx?_spec {s : State} {site : Site} {h : Hdr} {c : Ctx} (hc : s.ctx? site h = some c) :
    c.l = site.core ∧ c.gi = site.group ∧ c.g = (s.core c.l).group c.gi ∧ (s.core c.l).task = some c.task ∧
    c.g.selectPc = some c.pc ∧ c.set = c.g.setAt c.pc ∧
    (c.act = c.set.filter fun t =>
      if h.gm.toNat = 0 then true else if h.gm.toNat = 1 then c.g.p h.gp.toNat t else !c.g.p h.gp.toNat t) := by
  unfold State.ctx? at hc
  split at hc
  · cases hc
  · split at hc
    · cases hc
    · rename_i t ht
      simp only at hc
      split at hc
      · cases hc
      · split at hc
        · cases hc
        · rename_i pc hpc
          cases hc
          refine ⟨rfl, rfl, rfl, ht, ?_, rfl, rfl⟩
          split at hpc
          · exact hpc
          · cases hpc

theorem ctx?_set_lt {s : State} {site : Site} {h : Hdr} {c : Ctx} (hc : s.ctx? site h = some c) {k : Nat}
    (hk : k ∈ c.set) : k < 32 := by
  obtain ⟨-, -, -, -, -, hs, -⟩ := ctx?_spec hc
  rw [hs] at hk
  simp only [Group.setAt, Group.active, List.mem_filter, List.mem_range] at hk
  exact hk.1.1

theorem ctx?_act_set {s : State} {site : Site} {h : Hdr} {c : Ctx} (hc : s.ctx? site h = some c) {k : Nat}
    (hk : k ∈ c.act) : k ∈ c.set := by
  obtain ⟨-, -, -, -, -, -, ha⟩ := ctx?_spec hc
  rw [ha] at hk
  exact (List.mem_filter.1 hk).1

theorem ctx?_act_lt {s : State} {site : Site} {h : Hdr} {c : Ctx} (hc : s.ctx? site h = some c) {k : Nat}
    (hk : k ∈ c.act) : k < 32 := ctx?_set_lt hc (ctx?_act_set hc hk)

/-- An instruction that issues retires and has its effect. -/
theorem Issues.issue_eq {s : State} {site : Site} {h : Hdr} {n : Needs} {c : Ctx} (hi : Issues s site h n c)
    (k : Ctx → State → State) : issue site h n k s = .next (k c (s.retire c n)) := by
  simp [issue, hi.ctx, hi.free, hi.checks]

/-- An instruction that fails a check of every issue traps with that check's status. -/
theorem issue_trap {s : State} {site : Site} {h : Hdr} {n : Needs} {c : Ctx} {st : BitVec 8} (hc : s.ctx? site h = some c)
    (hf : c.blocked n = false) (hs : s.issueCheck c h n = some st) (k : Ctx → State → State) :
    issue site h n k s = .next
      ((s.modCore c.l fun k => k.usePort s.ticks.toNat c.pc.toNat n).trap c.l c.gi st c.pc.toNat (maskOf c.set) 0) := by
  simp [issue, hc, hf, hs]

/-! ### Registers of a group -/

@[simp] theorem Group.setV_frame (g : Group) (r t : Nat) (x : W32) :
    (g.setV r t x).uregs = g.uregs ∧ (g.setV r t x).preds = g.preds ∧ (g.setV r t x).pcs = g.pcs ∧
    (∀ u, (g.setV r t x).u u = g.u u) ∧ (∀ i k, (g.setV r t x).p i k = g.p i k) ∧ (∀ k, (g.setV r t x).pc k = g.pc k) :=
  ⟨rfl, rfl, rfl, fun _ => rfl, fun _ _ => rfl, fun _ => rfl⟩

theorem Group.setV_v (g : Group) {r t r' t' : Nat} (x : W32) (ht : t < 32) (ht' : t' < 32) :
    (g.setV r t x).v r' t' = if r' = r ∧ t' = t then x else g.v r' t' := by
  unfold Group.setV Group.v
  by_cases h : r' * 32 + t' = r * 32 + t
  · have : r' = r ∧ t' = t := by omega
    simp [this]
  · have : ¬(r' = r ∧ t' = t) := by rintro ⟨rfl, rfl⟩; exact h rfl
    simp [look_put_ne _ _ _ _ h, this]

theorem Group.result_other (g : Group) (t : Ty) {d r k j : Nat} (x : Nat) (hk : k < 32) (hj : j < 32)
    (h : ¬(j = k ∧ inPair t d r)) : (g.result t d k x).v r j = g.v r j := by
  unfold inPair at h
  unfold Group.result Group.setV64
  split <;> rename_i hw
  · rw [Group.setV_v _ _ hk hj, Group.setV_v _ _ hk hj, if_neg, if_neg]
    · rintro ⟨rfl, rfl⟩; exact h ⟨rfl, .inl rfl⟩
    · rintro ⟨rfl, rfl⟩; exact h ⟨rfl, .inr ⟨hw, rfl⟩⟩
  · rw [Group.setV_v _ _ hk hj, if_neg]
    rintro ⟨rfl, rfl⟩; exact h ⟨rfl, .inl rfl⟩

theorem Group.result_operand (g : Group) (t : Ty) {d k : Nat} (x : Nat) (hk : k < 32) :
    (g.result t d k x).operand t d k = x % 2 ^ t.w := by
  unfold Group.result Group.operand Ty.w
  split <;> rename_i hw
  · unfold Group.setV64 Group.v64
    rw [Group.setV_v _ _ hk hk, Group.setV_v _ _ hk hk, Group.setV_v _ _ hk hk]
    rw [if_neg (by omega), if_pos ⟨rfl, rfl⟩, if_pos ⟨rfl, rfl⟩]
    simp only [bits, BitVec.toNat_ofNat, Nat.shiftRight_eq_div_pow]
    omega
  · rw [Group.setV_v _ _ hk hk, if_pos ⟨rfl, rfl⟩]
    simp only [bits, BitVec.toNat_ofNat]

theorem Group.operand_congr {g g' : Group} (t : Ty) {d k : Nat} (h : ∀ r, inPair t d r → g'.v r k = g.v r k) :
    g'.operand t d k = g.operand t d k := by
  unfold Group.operand Group.v64
  split <;> rename_i hw
  · rw [h d (.inl rfl), h (d + 1) (.inr ⟨hw, rfl⟩)]
  · rw [h d (.inl rfl)]

/-- The registers of a group apart from the per-thread ones are those of another. -/
def sameButV (g g' : Group) : Prop := { g' with vregs := g.vregs } = g

theorem Group.result_sameButV (g : Group) (t : Ty) (d k x : Nat) : sameButV g (g.result t d k x) := by
  unfold sameButV Group.result Group.setV64 Group.setV
  split <;> rfl

theorem writeThreads_sameButV (t : Ty) (d : Nat) (act : List Nat) (val : Nat → Nat) (g : Group) :
    sameButV g (writeThreads t d act val g) := by
  unfold writeThreads
  induction act generalizing g with
  | nil => rfl
  | cons a l ih =>
    have h1 := g.result_sameButV t d a (val a)
    have h2 := ih (g.result t d a (val a))
    unfold sameButV at h1 h2 ⊢
    simp only [List.foldl_cons]
    generalize (List.foldl (fun g k => g.result t d k (val k)) (g.result t d a (val a)) l) = g2 at h2 ⊢
    rw [← h2] at h1
    exact h1

theorem writeThreads_other (t : Ty) (d : Nat) (act : List Nat) (val : Nat → Nat) (g : Group) {r j : Nat}
    (ha : ∀ k ∈ act, k < 32) (hj : j < 32) (h : ¬(j ∈ act ∧ inPair t d r)) :
    (writeThreads t d act val g).v r j = g.v r j := by
  unfold writeThreads
  induction act generalizing g with
  | nil => rfl
  | cons a l ih =>
    simp only [List.foldl_cons]
    rw [ih _ (fun k hk => ha k (List.mem_cons_of_mem _ hk)) (fun hm => h ⟨List.mem_cons_of_mem _ hm.1, hm.2⟩)]
    exact g.result_other t _ (ha a List.mem_cons_self) hj (fun hm => h ⟨hm.1 ▸ List.mem_cons_self, hm.2⟩)

theorem writeThreads_operand (t : Ty) (d : Nat) (act : List Nat) (val : Nat → Nat) (g : Group) {j : Nat}
    (ha : ∀ k ∈ act, k < 32) (hj : j ∈ act) : (writeThreads t d act val g).operand t d j = val j % 2 ^ t.w := by
  induction act generalizing g with
  | nil => cases hj
  | cons a l ih =>
    have hl : ∀ k ∈ l, k < 32 := fun k hk => ha k (List.mem_cons_of_mem _ hk)
    by_cases hm : j ∈ l
    · exact ih _ hl hm
    · have ha' : j = a := by simpa [hm] using hj
      subst ha'
      have this (r : Nat) := writeThreads_other t d l val (g.result t d j (val j)) (r := r) hl (ha j hj) (fun h => hm h.1)
      show (writeThreads t d l val (g.result t d j (val j))).operand t d j = _
      rw [Group.operand_congr t fun r _ => this r, Group.result_operand _ _ _ (ha j hj)]

/-! ### Predicates -/

theorem bitAt_set (x : BitVec 8) (b : Bool) {i j : Nat} (hi : i < 8) :
    bitAt (if b then x ||| BitVec.ofNat 8 (2 ^ i) else x &&& ~~~(BitVec.ofNat 8 (2 ^ i))) j =
      if j = i then b else bitAt x j := by
  have h2 : ∀ j, (BitVec.ofNat 8 (2 ^ i)).getLsbD j = decide (j = i) := by
    intro j
    have : i = 0 ∨ i = 1 ∨ i = 2 ∨ i = 3 ∨ i = 4 ∨ i = 5 ∨ i = 6 ∨ i = 7 := by omega
    rw [BitVec.getLsbD_ofNat, Nat.testBit_two_pow]
    by_cases h : j = i
    · subst h; simp [hi]
    · simp [h, Ne.symm h]
  show BitVec.getLsbD _ j = if j = i then b else BitVec.getLsbD x j
  cases b
  · rw [if_neg (by decide), BitVec.getLsbD_and, BitVec.getLsbD_not, h2]
    by_cases h : j = i
    · simp [h]
    · by_cases h8 : j < 8
      · simp [h, h8]
      · simp [h, h8, BitVec.getLsbD_of_ge x j (by omega)]
  · rw [if_pos rfl, BitVec.getLsbD_or, h2]
    by_cases h : j = i <;> simp [h]

theorem Group.setP_p (g : Group) {i k : Nat} (b : Bool) (j m : Nat) (hi : i < 8) :
    (g.setP i k b).p j m = if j = i ∧ m = k then b else g.p j m := by
  unfold Group.setP Group.p
  by_cases h : m = k
  · subst h
    simp only [look_put_same, and_true]
    exact bitAt_set _ b hi
  · simp [look_put_ne _ _ _ _ h, h]

theorem writePreds_p (i : Nat) (act : List Nat) (val : Nat → Bool) (g : Group) (j m : Nat) (hi : i < 8) :
    (writePreds i act val g).p j m = if j = i ∧ m ∈ act then val m else g.p j m := by
  unfold writePreds
  induction act generalizing g with
  | nil => simp
  | cons a l ih =>
    simp only [List.foldl_cons]
    rw [ih, Group.setP_p _ _ _ _ hi]
    by_cases h : m ∈ l <;> by_cases h2 : m = a <;> by_cases h3 : j = i <;> simp [h, h2, h3]

theorem writePreds_same (i : Nat) (act : List Nat) (val : Nat → Bool) (g : Group) :
    { writePreds i act val g with preds := g.preds } = g := by
  unfold writePreds
  induction act generalizing g with
  | nil => rfl
  | cons a l ih =>
    have h2 := ih (g.setP i a (val a))
    simp only [List.foldl_cons]
    generalize (List.foldl (fun g k => g.setP i k (val k)) (g.setP i a (val a)) l) = g2 at h2 ⊢
    have h1 : { g.setP i a (val a) with preds := g.preds } = g := rfl
    rw [← h2] at h1
    exact h1

/-! ### Retirement -/

/-- A group with what an instruction that writes registers may change put back. -/
def Ctx.restoreRegs (c : Ctx) (g : Group) : Group :=
  { g with vregs := c.g.vregs, uregs := c.g.uregs, preds := c.g.preds, pcs := c.g.pcs, ages := c.g.ages, regCache := c.g.regCache }

theorem foldl_setPc (l : List Nat) (pc : W64) (g : Group) (k : Nat) :
    (l.foldl (fun g t => g.setPc t pc) g).pc k = if k ∈ l then pc else g.pc k := by
  induction l generalizing g with
  | nil => simp
  | cons a l ih =>
    simp only [List.foldl_cons, ih]
    by_cases h : k ∈ l
    · simp [h]
    · by_cases h2 : k = a
      · subst h2; simp [h, Group.setPc, Group.pc]
      · simp [h, h2, Group.setPc, Group.pc, look_put_ne _ _ _ _ h2]

theorem foldl_setPc_same (l : List Nat) (pc : W64) (g : Group) :
    { l.foldl (fun g t => g.setPc t pc) g with pcs := g.pcs } = g := by
  induction l generalizing g with
  | nil => rfl
  | cons a l ih =>
    have h2 := ih (g.setPc a pc)
    simp only [List.foldl_cons]
    generalize (List.foldl (fun g t => g.setPc t pc) (g.setPc a pc) l) = g2 at h2 ⊢
    have h1 : { g.setPc a pc with pcs := g.pcs } = g := rfl
    rw [← h2] at h1
    exact h1

theorem Core.cacheStep_same (k : Core) (gi : Nat) (n : Needs) :
    { k.cacheStep gi n with groups := k.groups, rcHit := k.rcHit, rcMiss := k.rcMiss } = k := rfl

theorem Core.cacheStep_group (k : Core) (gi : Nat) (n : Needs) :
    ∃ rc, ∀ j, (k.cacheStep gi n).group j = if j = gi then { k.group gi with regCache := rc } else k.group j :=
  ⟨_, fun j => Core.modGroup_group k gi j (fun g => { g with regCache := _ })⟩

theorem Core.usePort_same (k : Core) (now pc : Nat) (n : Needs) :
    { k.usePort now pc n with lastPort := k.lastPort, still := k.still, watch := k.watch, icache := k.icache } = k := rfl

@[simp] theorem Core.usePort_group (k : Core) (now pc : Nat) (n : Needs) (j : Nat) : (k.usePort now pc n).group j = k.group j := rfl

/-- Retirement alone is an instruction that writes no register. -/
theorem retire_only {s : State} {site : Site} {h : Hdr} {c : Ctx} (hc : s.ctx? site h = some c) (n : Needs) :
    OnlyRegs s (s.retire c n) c (c.after n.len) (fun _ _ => False) (fun _ => False) (fun _ _ => False) := by
  obtain ⟨-, -, hg, -⟩ := ctx?_spec hc
  have hcore : ∀ l, l ≠ c.l → (s.retire c n).core l = s.core l := fun l hl => by simp [State.retire, hl]
  obtain ⟨rc, hrc⟩ := Core.cacheStep_group (s.core c.l) c.gi n
  have hgrp : ∀ j, ((s.retire c n).core c.l).group j = if j = c.gi then
      { c.set.foldl (fun g t => g.setPc t (c.pc + BitVec.ofNat 64 n.len)) { c.g with regCache := rc } with
        ages := ({ c.g with regCache := rc } : Group).ageAfter c.set } else (s.core c.l).group j := by
    intro j
    unfold State.retire
    simp only [State.modCore_core, if_true]
    have hj : ∀ k : Core, ∀ b : Bool, (if b = true then { k with arithOrder := c.gi :: k.arithOrder.filter (· != c.gi) }
        else { k with memOrder := c.gi :: k.memOrder.filter (· != c.gi) }).group j = k.group j := by
      intro k b; cases b <;> rfl
    rw [hj, Core.modGroup_group, Core.usePort_group, Core.usePort_group, hrc, hrc, if_pos rfl, ← hg]
    by_cases h1 : j = c.gi <;> simp [h1]
  have hx : (s.retire c n).ctxGroup c = { c.set.foldl (fun g t => g.setPc t (c.pc + BitVec.ofNat 64 n.len))
      { c.g with regCache := rc } with ages := ({ c.g with regCache := rc } : Group).ageAfter c.set } := by
    unfold State.ctxGroup; rw [hgrp, if_pos rfl]
  have hs := foldl_setPc_same c.set (c.pc + BitVec.ofNat 64 n.len) { c.g with regCache := rc }
  have hp := foldl_setPc c.set (c.pc + BitVec.ofNat 64 n.len) { c.g with regCache := rc }
  generalize c.set.foldl (fun g t => g.setPc t (c.pc + BitVec.ofNat 64 n.len)) { c.g with regCache := rc } = g' at hx hs hp
  refine ⟨rfl, hcore, ?_, fun j hj => ?_, fun r k _ _ => ?_, fun r _ => ?_, fun i k _ => ?_, fun k => ?_, ?_⟩
  · unfold State.retire
    simp only [State.modCore_core, if_true]
    cases n.arith <;> rfl
  · rw [hgrp, if_neg hj]
  · rw [hx]; have := congrArg (fun g : Group => g.v r k) hs; exact this
  · rw [hx]; have := congrArg (fun g : Group => g.u r) hs; exact this
  · rw [hx]; have := congrArg (fun g : Group => g.p i k) hs; exact this
  · rw [hx]; exact hp k
  · rw [hx]
    have := congrArg c.restoreRegs hs
    exact this

/-- A change of the registers of the issuing group after its retirement. -/
theorem OnlyRegs.onGroup {s t : State} {c : Ctx} {pc : Nat → W64} (ho : OnlyRegs s t c pc (fun _ _ => False) (fun _ => False)
    (fun _ _ => False)) (f : Group → Group) {vw : Nat → Nat → Prop} {uw : Nat → Prop} {pw : Nat → Nat → Prop}
    (hsame : ∀ g : Group, { f g with vregs := g.vregs, uregs := g.uregs, preds := g.preds } = g)
    (hv : ∀ g r k, k < 32 → ¬vw r k → (f g).v r k = g.v r k) (hu : ∀ g r, ¬uw r → (f g).u r = g.u r)
    (hp : ∀ g i k, ¬pw i k → (f g).p i k = g.p i k) : OnlyRegs s (t.onGroup c f) c pc vw uw pw := by
  have hx : (t.onGroup c f).ctxGroup c = f (t.ctxGroup c) := by simp [State.onGroup, State.ctxGroup]
  refine ⟨?_, fun l hl => ?_, ?_, fun j hj => ?_, fun r k hk hn => ?_, fun r hn => ?_, fun i k hn => ?_, fun k => ?_, ?_⟩
  · exact ho.package
  · rw [← ho.cores l hl]; simp [State.onGroup, hl]
  · rw [← ho.core]
    simp only [State.onGroup, State.modCore_core, if_true]
    rfl
  · rw [← ho.groups j hj]; simp [State.onGroup, hj]
  · rw [hx, hv _ _ _ hk hn, ho.vregs r k hk (by simp)]
  · rw [hx, hu _ _ hn, ho.uregs r (by simp)]
  · rw [hx, hp _ _ _ hn, ho.preds i k (by simp)]
  · rw [hx, ← ho.pcs k]; have := congrArg (fun g : Group => g.pc k) (hsame (t.ctxGroup c)); exact this
  · rw [hx, ← ho.group]
    have := congrArg c.restoreRegs (hsame (t.ctxGroup c))
    exact this

/-! ### The shapes of a register instruction -/

/-- An instruction that writes a value to a register, or pair, of each acting thread. -/
theorem writeThreads_spec {s : State} {site : Site} {h : Hdr} {c : Ctx} (hc : s.ctx? site h = some c) (n : Needs) (ty : Ty)
    (d : Nat) (val : Nat → Nat) :
    (∀ k ∈ c.act, (((s.retire c n).onGroup c (writeThreads ty d c.act val)).ctxGroup c).operand ty d k = val k % 2 ^ ty.w) ∧
    OnlyRegs s ((s.retire c n).onGroup c (writeThreads ty d c.act val)) c (c.after n.len) (fun r k => k ∈ c.act ∧ inPair ty d r)
      (fun _ => False) (fun _ _ => False) := by
  have ha : ∀ k ∈ c.act, k < 32 := fun k hk => ctx?_act_lt hc hk
  have hsame := writeThreads_sameButV ty d c.act val
  refine ⟨fun k hk => ?_, (retire_only hc n).onGroup _ (fun g => ?_) (fun g r k hk hn => ?_) (fun g r _ => ?_) (fun g i k _ => ?_)⟩
  · have hx : ((s.retire c n).onGroup c (writeThreads ty d c.act val)).ctxGroup c =
        writeThreads ty d c.act val ((s.retire c n).ctxGroup c) := by simp [State.onGroup, State.ctxGroup]
    rw [hx, writeThreads_operand ty d c.act val _ ha hk]
  · have := congrArg (fun x : Group => { x with uregs := g.uregs, preds := g.preds }) (hsame g); exact this
  · exact writeThreads_other ty d c.act val g ha hk hn
  · have := congrArg (fun x : Group => x.u r) (hsame g); exact this
  · have := congrArg (fun x : Group => x.p i k) (hsame g); exact this

/-- An instruction that writes a predicate of each acting thread. -/
theorem writePreds_spec {s : State} {site : Site} {h : Hdr} {c : Ctx} (hc : s.ctx? site h = some c) (n : Needs) (i : BitVec 3)
    (val : Nat → Bool) :
    (∀ k ∈ c.act, (((s.retire c n).onGroup c (writePreds i.toNat c.act val)).ctxGroup c).p i.toNat k = val k) ∧
    OnlyRegs s ((s.retire c n).onGroup c (writePreds i.toNat c.act val)) c (c.after n.len) (fun _ _ => False) (fun _ => False)
      (fun j k => k ∈ c.act ∧ j = i.toNat) := by
  have hi : i.toNat < 8 := i.isLt
  have hsame := writePreds_same i.toNat c.act val
  refine ⟨fun k hk => ?_, (retire_only hc n).onGroup _ (fun g => ?_) (fun g r k _ _ => ?_) (fun g r _ => ?_) (fun g j k hn => ?_)⟩
  · have hx : ((s.retire c n).onGroup c (writePreds i.toNat c.act val)).ctxGroup c =
        writePreds i.toNat c.act val ((s.retire c n).ctxGroup c) := by simp [State.onGroup, State.ctxGroup]
    rw [hx, writePreds_p _ _ _ _ _ _ hi, if_pos ⟨rfl, hk⟩]
  · have := congrArg (fun x : Group => { x with vregs := g.vregs, uregs := g.uregs }) (hsame g); exact this
  · have := congrArg (fun x : Group => x.v r k) (hsame g); exact this
  · have := congrArg (fun x : Group => x.u r) (hsame g); exact this
  · rw [writePreds_p _ _ _ _ _ _ hi, if_neg (fun h => hn ⟨h.2, h.1⟩)]

/-- An instruction that writes one uniform register. -/
theorem setU_spec {s : State} {site : Site} {h : Hdr} {c : Ctx} (hc : s.ctx? site h = some c) (n : Needs) (d : Nat) (x : W64) :
    (((s.retire c n).onGroup c fun g => g.setU d x).ctxGroup c).u d = x ∧
    OnlyRegs s ((s.retire c n).onGroup c fun g => g.setU d x) c (c.after n.len) (fun _ _ => False) (fun r => r = d)
      (fun _ _ => False) := by
  refine ⟨?_, (retire_only hc n).onGroup _ (fun g => rfl) (fun _ _ _ _ _ => rfl) (fun g r hn => ?_) (fun _ _ _ _ => rfl)⟩
  · simp [State.onGroup, State.ctxGroup, Group.setU, Group.u]
  · simp [Group.setU, Group.u, look_put_ne _ _ _ _ hn]

/-- What a format R instruction with a result does when it issues. -/
theorem rResult_spec {s : State} {site : Site} {h : Hdr} {f : FmtR} {c : Ctx} {sp : RSpec} (hi : Issues s site h (rNeeds sp h f) c)
    (op : Ty → Nat → Nat → Nat → Nat) :
    ∃ t, rResult sp op site h f s = .next t ∧
      (∀ k ∈ c.act, (t.ctxGroup c).operand f.type f.vd.toNat k =
        op f.type (f.srcA c.g f.type k) (f.srcB c.g f.type k) (f.srcC c.g f.type k) % 2 ^ f.type.w) ∧
      OnlyRegs s t c (c.after (rNeeds sp h f).len) (fun r k => k ∈ c.act ∧ inPair f.type f.vd.toNat r) (fun _ => False) (fun _ _ => False) :=
  ⟨_, hi.issue_eq _, writeThreads_spec hi.ctx _ _ _ _⟩

/-- What a format R instruction that writes a predicate does when it issues. -/
theorem rPred_spec {s : State} {site : Site} {h : Hdr} {f : FmtR} {c : Ctx} {sp : RSpec}
    (hi : Issues s site h (rNeeds { sp with d := false } h f) c) (op : Ty → Nat → Nat → Bool) :
    ∃ t, rPred sp op site h f s = .next t ∧
      (∀ k ∈ c.act, (t.ctxGroup c).p f.px.toNat k = op f.type (f.srcA c.g f.type k) (f.srcB c.g f.type k)) ∧
      OnlyRegs s t c (c.after (rNeeds { sp with d := false } h f).len) (fun _ _ => False) (fun _ => False)
        (fun j k => k ∈ c.act ∧ j = f.px.toNat) :=
  ⟨_, hi.issue_eq _, writePreds_spec hi.ctx _ _ _⟩

/-- What a uniform instruction with a result does when it issues with an acting thread. -/
theorem uResult_spec {s : State} {site : Site} {h : Hdr} {f : FmtR} {x : Ctx} {a b c : Bool} {ok : Ty → Bool}
    (hi : Issues s site h (uNeeds a b c true ok true f) x) (ha : x.act ≠ []) (op : Ty → Nat → Nat → Nat → Nat) :
    ∃ t, uResult a b c ok op site h f s = .next t ∧
      (t.ctxGroup x).u f.vd.toNat =
        bits 64 (op f.type (x.g.uval f.type f.va.toNat) (f.usrcB x.g f.type) (x.g.uval f.type f.vc.toNat) % 2 ^ f.type.w) ∧
      OnlyRegs s t x (x.after (uNeeds a b c true ok true f).len) (fun _ _ => False) (fun r => r = f.vd.toNat) (fun _ _ => False) := by
  refine ⟨_, hi.issue_eq _, ?_⟩
  have : x.act.isEmpty = false := by simpa using ha
  simp only [once, this, Bool.false_eq_true, if_false]
  exact setU_spec hi.ctx _ _ _

/-- With no acting thread a uniform instruction only retires (R157). -/
theorem uResult_idle {s : State} {site : Site} {h : Hdr} {f : FmtR} {x : Ctx} {a b c : Bool} {ok : Ty → Bool}
    (hi : Issues s site h (uNeeds a b c true ok true f) x) (ha : x.act = []) (op : Ty → Nat → Nat → Nat → Nat) :
    ∃ t, uResult a b c ok op site h f s = .next t ∧
      OnlyRegs s t x (x.after (uNeeds a b c true ok true f).len) (fun _ _ => False) (fun _ => False) (fun _ _ => False) := by
  refine ⟨_, hi.issue_eq _, ?_⟩
  simp only [once, ha, List.isEmpty_nil, if_true]
  exact retire_only hi.ctx _

end Sys2Proof.Machine
end

