-- ==== Sys2Proof/Laws/Memory.lean ====
section
/-! SUPPORT. Device memory: a read after a write, and the canonical form that every memory operation keeps. -/

set_option Elab.async false

namespace Sys2Proof.Machine

/-! ### Listed cells -/

theorem cellAt_append (l r : List Host.Cell) (x : Nat) : cellAt (l ++ r) x = (cellAt l x).or (cellAt r x) := by
  induction l with
  | nil => simp [cellAt]
  | cons c l ih =>
    obtain ⟨k, b⟩ := c
    by_cases h : k = x <;> simp [cellAt, h, ih]

theorem cellAt_filter (q : Nat → Bool) (l : List Host.Cell) (x : Nat) :
    cellAt (l.filter fun c => q c.1) x = if q x then cellAt l x else none := by
  induction l with
  | nil => simp [cellAt]
  | cons c l ih =>
    obtain ⟨k, b⟩ := c
    by_cases h : k = x
    · subst h
      by_cases hq : q k <;> simp [cellAt, hq, ih]
    · by_cases hq : q k <;> simp [cellAt, hq, h, ih]

theorem cellAt_none (l : List Host.Cell) (x : Nat) (h : ∀ c ∈ l, c.1 ≠ x) : cellAt l x = none := by
  induction l with
  | nil => rfl
  | cons c l ih =>
    obtain ⟨k, b⟩ := c
    have hk : k ≠ x := h (k, b) (by simp)
    simp only [cellAt, hk, if_false]
    exact ih fun c hc => h c (by simp [hc])

theorem mem_cellsOf (f : Nat → Byte) (a n : Nat) (c : Host.Cell) :
    c ∈ cellsOf f a n ↔ a ≤ c.1 ∧ c.1 < a + n ∧ c.2 ≠ 0 ∧ c.2 = f (c.1 - a) := by
  obtain ⟨k, b⟩ := c
  simp only [cellsOf, List.mem_filterMap, List.mem_range]
  constructor
  · rintro ⟨i, hi, h⟩
    split at h
    · cases h
    · rename_i hz
      cases h
      refine ⟨by omega, by omega, hz, ?_⟩
      show f i = f (a + i - a)
      rw [Nat.add_sub_cancel_left]
  · rintro ⟨h1, h2, h3, h4⟩
    have h1 : a ≤ k := h1
    have h2 : k < a + n := h2
    have h4 : b = f (k - a) := h4
    refine ⟨k - a, by omega, ?_⟩
    have h5 : a + (k - a) = k := by omega
    rw [if_neg (h4 ▸ h3), h5, ← h4]

theorem cellAt_range (f : Nat → Byte) (a x : Nat) (l : List Nat) (hx : a ≤ x) :
    cellAt (l.filterMap fun i => if f i = 0 then none else some (a + i, f i)) x =
      if x - a ∈ l ∧ f (x - a) ≠ 0 then some (f (x - a)) else none := by
  induction l with
  | nil => simp [cellAt]
  | cons i l ih =>
    by_cases hz : f i = 0
    · rw [List.filterMap_cons_none (by simp [hz]), ih]
      by_cases hi : x - a = i
      · simp [hi, hz]
      · simp [hi]
    · simp only [List.filterMap_cons, if_neg hz]
      by_cases hi : a + i = x
      · have h2 : x - a = i := by omega
        rw [cellAt, if_pos hi, h2, if_pos ⟨List.mem_cons_self .., hz⟩]
      · have h2 : x - a ≠ i := by omega
        rw [cellAt, if_neg hi, ih]
        simp only [List.mem_cons, h2, false_or]

theorem cellAt_cellsOf (f : Nat → Byte) (a n x : Nat) (h1 : a ≤ x) (h2 : x < a + n) :
    (cellAt (cellsOf f a n) x).getD 0 = f (x - a) := by
  rw [cellsOf, cellAt_range f a x _ h1]
  have h3 : x - a ∈ List.range n := List.mem_range.2 (by omega)
  by_cases hz : f (x - a) = 0
  · rw [if_neg fun h => h.2 hz, hz]; rfl
  · rw [if_pos ⟨h3, hz⟩]; rfl

/-! ### Undefined spans -/

theorem undefAt_append (l r : List Undef) (x : Nat) : undefAt (l ++ r) x = (undefAt l x).or (undefAt r x) := by
  simp [undefAt, List.find?_append]

/-- Cutting a range out of a span: nothing inside the range, the same span number outside. -/
theorem undefAt_cut (u : Undef) (lo hi x : Nat) :
    (undefAt (u.cut lo hi) x).map Undef.tag =
      if u.lo ≤ x ∧ x < u.lo + u.len ∧ (x < lo ∨ hi ≤ x) then some u.tag else none := by
  unfold Undef.cut undefAt
  by_cases h0 : u.lo + u.len ≤ lo ∨ hi ≤ u.lo
  · have hc : (decide (u.lo + u.len ≤ lo) || decide (hi ≤ u.lo)) = true := by simpa using h0
    simp only [hc, if_true, List.find?_cons, List.find?_nil]
    by_cases hx : u.lo ≤ x ∧ x < u.lo + u.len
    · have : x < lo ∨ hi ≤ x := by omega
      simp [hx.1, hx.2, this]
    · have : ¬(u.lo ≤ x ∧ x < u.lo + u.len ∧ (x < lo ∨ hi ≤ x)) := by omega
      have hb : (decide (u.lo ≤ x) && decide (x < u.lo + u.len)) = false := by simpa using hx
      simp [this, hb]
  · have hc : (decide (u.lo + u.len ≤ lo) || decide (hi ≤ u.lo)) = false := by
      simp only [Bool.or_eq_false_iff, decide_eq_false_iff_not]; omega
    simp only [hc, Bool.false_eq_true, if_false, List.find?_append]
    have l1 : (List.find? (fun v : Undef => decide (v.lo ≤ x) && decide (x < v.lo + v.len))
        (if u.lo < lo then [{ u with len := lo - u.lo }] else [])).map Undef.tag =
        if u.lo ≤ x ∧ x < lo then some u.tag else none := by
      by_cases h : u.lo < lo
      · by_cases hx : u.lo ≤ x ∧ x < lo
        · have : x < u.lo + (lo - u.lo) := by omega
          simp [h, hx.1, hx.2, this]
        · have : (decide (u.lo ≤ x) && decide (x < u.lo + (lo - u.lo))) = false := by
            simp only [Bool.and_eq_false_iff, decide_eq_false_iff_not]; omega
          simp [h, this, hx]
      · have : ¬(u.lo ≤ x ∧ x < lo) := by omega
        simp [h, this]
    have l2 : (List.find? (fun v : Undef => decide (v.lo ≤ x) && decide (x < v.lo + v.len))
        (if hi < u.lo + u.len then [{ u with lo := hi, len := u.lo + u.len - hi }] else [])).map Undef.tag =
        if hi ≤ x ∧ x < u.lo + u.len then some u.tag else none := by
      by_cases h : hi < u.lo + u.len
      · by_cases hx : hi ≤ x ∧ x < u.lo + u.len
        · have : x < hi + (u.lo + u.len - hi) := by omega
          simp [h, hx.1, hx.2, this]
        · have : (decide (hi ≤ x) && decide (x < hi + (u.lo + u.len - hi))) = false := by
            simp only [Bool.and_eq_false_iff, decide_eq_false_iff_not]; omega
          simp [h, this, hx]
      · have : ¬(hi ≤ x ∧ x < u.lo + u.len) := by omega
        simp [h, this]
    rw [Option.map_or, l1, l2]
    by_cases ha : u.lo ≤ x ∧ x < lo
    · have : u.lo ≤ x ∧ x < u.lo + u.len ∧ (x < lo ∨ hi ≤ x) := by omega
      rw [if_pos ha, if_pos this, Option.some_or]
    · by_cases hb : hi ≤ x ∧ x < u.lo + u.len
      · have : u.lo ≤ x ∧ x < u.lo + u.len ∧ (x < lo ∨ hi ≤ x) := by omega
        rw [if_neg ha, if_pos hb, if_pos this, Option.none_or]
      · have : ¬(u.lo ≤ x ∧ x < u.lo + u.len ∧ (x < lo ∨ hi ≤ x)) := by omega
        rw [if_neg ha, if_neg hb, if_neg this, Option.none_or]

theorem undefAt_flatMap_cut (us : List Undef) (lo hi x : Nat) :
    (undefAt (us.flatMap fun u => u.cut lo hi) x).map Undef.tag =
      if x < lo ∨ hi ≤ x then (undefAt us x).map Undef.tag else none := by
  induction us with
  | nil => simp [undefAt]
  | cons u us ih =>
    rw [List.flatMap_cons, undefAt_append, Option.map_or, undefAt_cut, ih]
    have hs : undefAt (u :: us) x = if u.lo ≤ x ∧ x < u.lo + u.len then some u else undefAt us x := by
      unfold undefAt
      rw [List.find?_cons]
      by_cases h : u.lo ≤ x ∧ x < u.lo + u.len
      · simp [h.1, h.2]
      · have : (decide (u.lo ≤ x) && decide (x < u.lo + u.len)) = false := by
          simp only [Bool.and_eq_false_iff, decide_eq_false_iff_not]; omega
        rw [this, if_neg h]
    rw [hs]
    by_cases ho : x < lo ∨ hi ≤ x
    · by_cases h : u.lo ≤ x ∧ x < u.lo + u.len
      · simp [ho, h.1, h.2]
      · simp [ho, h]
    · simp [ho]

theorem unlisted_tag (m : Mem) (x : Nat) :
    m.unlisted x = match (undefAt m.undef x).map Undef.tag with | some g => Config.freeByte g x | none => 0 := by
  unfold Mem.unlisted
  cases undefAt m.undef x <;> rfl

/-! ### Reading what was written -/

/-- A byte after a write: the byte written inside the range, the old one outside. -/
theorem Mem.byte_write (m : Mem) (a n : Nat) (f : Nat → Byte) (x : Nat) :
    (m.write a n f).byte x = if a ≤ x ∧ x < a + n then f (x - a) else m.byte x := by
  have hb : (m.write a n f).byte x =
      (((if x < a then cellAt m.cells x else none).or (cellAt (cellsOf f a n) x)).or
        (if a + n ≤ x then cellAt m.cells x else none)).getD
      (match (if x < a ∨ a + n ≤ x then (undefAt m.undef x).map Undef.tag else none) with
        | some g => Config.freeByte g x
        | none => 0) := by
    rw [Mem.byte, unlisted_tag]
    simp only [Mem.write]
    rw [cellAt_append, cellAt_append, cellAt_filter (fun k => decide (k < a)), cellAt_filter (fun k => decide (a + n ≤ k)),
      undefAt_flatMap_cut]
    simp only [decide_eq_true_eq]
  rw [hb]
  by_cases h1 : x < a
  · have h2 : ¬(a + n ≤ x) := by omega
    have hc : cellAt (cellsOf f a n) x = none := cellAt_none _ _ fun c hc => by
      have := (mem_cellsOf f a n c).1 hc; omega
    have h3 : ¬(a ≤ x ∧ x < a + n) := by omega
    simp only [h1, h2, hc, h3, if_true, if_false, true_or, Option.or_none, ← unlisted_tag, Mem.byte]
  · by_cases h2 : a + n ≤ x
    · have hc : cellAt (cellsOf f a n) x = none := cellAt_none _ _ fun c hc => by
        have := (mem_cellsOf f a n c).1 hc; omega
      have h3 : ¬(a ≤ x ∧ x < a + n) := by omega
      simp only [h1, h2, hc, h3, if_true, if_false, or_true, Option.none_or, ← unlisted_tag, Mem.byte]
    · have h3 : a ≤ x ∧ x < a + n := by omega
      simp only [h1, h2, h3, and_self, if_true, if_false, or_self, Option.none_or, Option.or_none]
      exact cellAt_cellsOf f a n x h3.1 h3.2

/-- A line read back after it was written whole. -/
theorem Mem.byte_putLine (m : Mem) (line : Nat) (d : SMap Byte) (x : Nat) :
    (m.putLine line d).byte x = if x / 256 = line then look 0 d (x % 256) else m.byte x := by
  rw [Mem.putLine, Mem.byte_write]
  by_cases h : x / 256 = line
  · have h1 : line * 256 ≤ x ∧ x < line * 256 + 256 := by omega
    have h2 : x - line * 256 = x % 256 := by omega
    rw [if_pos h1, if_pos h, h2]
  · have h1 : ¬(line * 256 ≤ x ∧ x < line * 256 + 256) := by omega
    rw [if_neg h1, if_neg h]

/-! ### The canonical form -/

theorem cellsRising_append (l r : List Host.Cell) (hl : cellsRising l = true) (hr : cellsRising r = true)
    (h : ∀ c ∈ l, ∀ d ∈ r, c.1 < d.1) : cellsRising (l ++ r) = true := by
  induction l with
  | nil => exact hr
  | cons c l ih =>
    simp only [cellsRising, Bool.and_eq_true, List.all_eq_true, decide_eq_true_eq] at hl
    simp only [List.cons_append, cellsRising, Bool.and_eq_true, List.all_eq_true, decide_eq_true_eq, List.mem_append]
    refine ⟨fun d hd => ?_, ih hl.2 fun e he d hd => h e (by simp [he]) d hd⟩
    rcases hd with hd | hd
    · exact hl.1 d hd
    · exact h c (by simp) d hd

theorem cellsRising_filter (p : Host.Cell → Bool) (l : List Host.Cell) (hl : cellsRising l = true) :
    cellsRising (l.filter p) = true := by
  induction l with
  | nil => rfl
  | cons c l ih =>
    simp only [cellsRising, Bool.and_eq_true, List.all_eq_true, decide_eq_true_eq] at hl
    rw [List.filter_cons]
    split
    · simp only [cellsRising, Bool.and_eq_true, List.all_eq_true, decide_eq_true_eq]
      exact ⟨fun d hd => hl.1 d (List.mem_filter.1 hd).1, ih hl.2⟩
    · exact ih hl.2

theorem cellsRising_cellsOf (f : Nat → Byte) (a n : Nat) : cellsRising (cellsOf f a n) = true := by
  induction n with
  | zero => rfl
  | succ n ih =>
    have hs : cellsOf f a (n + 1) = cellsOf f a n ++ if f n = 0 then [] else [(a + n, f n)] := by
      simp only [cellsOf, List.range_succ, List.filterMap_append, List.filterMap_cons, List.filterMap_nil]
      by_cases hz : f n = 0
      · simp only [if_pos hz]
      · simp only [if_neg hz]
    rw [hs]
    refine cellsRising_append _ _ ih ?_ fun c hc d hd => ?_
    · split <;> rfl
    · have h1 := (mem_cellsOf _ _ _ _).1 hc
      split at hd
      · cases hd
      · rw [List.mem_singleton.1 hd]
        exact h1.2.1

theorem undefAt_isNone_tag (us : List Undef) (x : Nat) :
    (undefAt us x).isNone = ((undefAt us x).map Undef.tag).isNone := by
  cases undefAt us x <;> rfl

/-- A write keeps the canonical form. -/
theorem Mem.write_wf (m : Mem) (a n : Nat) (f : Nat → Byte) (h : m.wf = true) : (m.write a n f).wf = true := by
  simp only [Mem.wf, Bool.and_eq_true, List.all_eq_true, decide_eq_true_eq] at h
  obtain ⟨hr, hc⟩ := h
  simp only [Mem.wf, Mem.write, Bool.and_eq_true, List.all_eq_true, decide_eq_true_eq]
  refine ⟨?_, fun c hm => ?_⟩
  · refine cellsRising_append _ _ (cellsRising_append _ _ (cellsRising_filter _ _ hr) (cellsRising_cellsOf f a n) ?_)
      (cellsRising_filter _ _ hr) ?_
    · intro c hc d hd
      have h1 := (List.mem_filter.1 hc).2
      have h2 := (mem_cellsOf f a n d).1 hd
      simp only [decide_eq_true_eq] at h1
      omega
    · intro c hc d hd
      have h2 := (List.mem_filter.1 hd).2
      simp only [decide_eq_true_eq] at h2
      rcases List.mem_append.1 hc with hc | hc
      · have h1 := (List.mem_filter.1 hc).2
        simp only [decide_eq_true_eq] at h1
        omega
      · have h1 := (mem_cellsOf f a n c).1 hc
        omega
  · rw [undefAt_isNone_tag, undefAt_flatMap_cut]
    rcases List.mem_append.1 hm with hm | hm
    · rcases List.mem_append.1 hm with hm | hm
      · have h1 := List.mem_filter.1 hm
        refine ⟨(hc c h1.1).1, ?_⟩
        split
        · rw [← undefAt_isNone_tag]; exact (hc c h1.1).2
        · rfl
      · have h1 := (mem_cellsOf f a n c).1 hm
        have h2 : ¬(c.1 < a ∨ a + n ≤ c.1) := by omega
        exact ⟨h1.2.2.1, by rw [if_neg h2]; rfl⟩
    · have h1 := List.mem_filter.1 hm
      refine ⟨(hc c h1.1).1, ?_⟩
      split
      · rw [← undefAt_isNone_tag]; exact (hc c h1.1).2
      · rfl

theorem Mem.putLine_wf (m : Mem) (line : Nat) (d : SMap Byte) (h : m.wf = true) : (m.putLine line d).wf = true :=
  m.write_wf _ _ _ h

/-- Making a range undefined keeps the canonical form. -/
theorem Mem.forget_wf (m : Mem) (a n tag : Nat) (h : m.wf = true) : (m.forget a n tag).wf = true := by
  simp only [Mem.wf, Bool.and_eq_true, List.all_eq_true, decide_eq_true_eq] at h
  obtain ⟨hr, hc⟩ := h
  simp only [Mem.wf, Mem.forget, Bool.and_eq_true, List.all_eq_true, decide_eq_true_eq]
  refine ⟨cellsRising_filter _ _ hr, fun c hm => ?_⟩
  have h1 := List.mem_filter.1 hm
  have h2 : c.1 < a ∨ a + n ≤ c.1 := by simpa using h1.2
  refine ⟨(hc c h1.1).1, ?_⟩
  rw [undefAt_append, Option.isNone_or, Bool.and_eq_true]
  constructor
  · rw [undefAt_isNone_tag, undefAt_flatMap_cut, if_pos h2, ← undefAt_isNone_tag]
    exact (hc c h1.1).2
  · have : (decide (a ≤ c.1) && decide (c.1 < a + n)) = false := by
      simp only [Bool.and_eq_false_iff, decide_eq_false_iff_not]; omega
    simp [undefAt, this]

/-- Memory after reset is in canonical form. -/
theorem Mem.reset_wf : State.reset.mem.wf = true := rfl

end Sys2Proof.Machine
end

