-- ==== Sys2Proof/Laws/PerInstr.lean ====
section
/-! SUPPORT. For each command: an instruction's words carry a defined opcode, so that they decode to some instruction; an event
has no words. -/

namespace Sys2Proof.Laws.Words

open Machine

set_option Elab.async false

/-- The words of a command, if it has any, decode. -/
def Statement (i : Instr) : Prop := ∀ ws site, encodeCore i = some ws → (decodeCore site ws.1 ws.2).isSome = true

/-- The opcode of a word is what it was built with (R149, file 05). -/
theorem coreWord_opcode (opc : BitVec 8) (h : Hdr) (b : BitVec 48) : (coreWord opc h b).extractLsb' 0 8 = opc := by
  simp only [coreWord, Hdr.bits]
  ext i hi
  simp only [BitVec.getElem_extractLsb', Nat.zero_add]
  rw [BitVec.getLsbD_append, if_pos (by omega), BitVec.getLsbD_append, if_pos hi, BitVec.getLsbD_eq_getElem]

theorem iadd (site : Site) (h : Hdr) (f : FmtR) : Statement (.iadd site h f) := by
  intro ws x hw; cases hw; simp [decodeCore, coreWord_opcode]

theorem isub (site : Site) (h : Hdr) (f : FmtR) : Statement (.isub site h f) := by
  intro ws x hw; cases hw; simp [decodeCore, coreWord_opcode]

theorem imul (site : Site) (h : Hdr) (f : FmtR) : Statement (.imul site h f) := by
  intro ws x hw; cases hw; simp [decodeCore, coreWord_opcode]

theorem imulh (site : Site) (h : Hdr) (f : FmtR) : Statement (.imulh site h f) := by
  intro ws x hw; cases hw; simp [decodeCore, coreWord_opcode]

theorem imad (site : Site) (h : Hdr) (f : FmtR) : Statement (.imad site h f) := by
  intro ws x hw; cases hw; simp [decodeCore, coreWord_opcode]

theorem imin (site : Site) (h : Hdr) (f : FmtR) : Statement (.imin site h f) := by
  intro ws x hw; cases hw; simp [decodeCore, coreWord_opcode]

theorem imax (site : Site) (h : Hdr) (f : FmtR) : Statement (.imax site h f) := by
  intro ws x hw; cases hw; simp [decodeCore, coreWord_opcode]

theorem iabs (site : Site) (h : Hdr) (f : FmtR) : Statement (.iabs site h f) := by
  intro ws x hw; cases hw; simp [decodeCore, coreWord_opcode]

theorem blog (site : Site) (h : Hdr) (f : FmtR) : Statement (.blog site h f) := by
  intro ws x hw; cases hw; simp [decodeCore, coreWord_opcode]

theorem shl (site : Site) (h : Hdr) (f : FmtR) : Statement (.shl site h f) := by
  intro ws x hw; cases hw; simp [decodeCore, coreWord_opcode]

theorem shr (site : Site) (h : Hdr) (f : FmtR) : Statement (.shr site h f) := by
  intro ws x hw; cases hw; simp [decodeCore, coreWord_opcode]

theorem bfe (site : Site) (h : Hdr) (f : FmtR) : Statement (.bfe site h f) := by
  intro ws x hw; cases hw; simp [decodeCore, coreWord_opcode]

theorem bfi (site : Site) (h : Hdr) (f : FmtR) : Statement (.bfi site h f) := by
  intro ws x hw; cases hw; simp [decodeCore, coreWord_opcode]

theorem popc (site : Site) (h : Hdr) (f : FmtR) : Statement (.popc site h f) := by
  intro ws x hw; cases hw; simp [decodeCore, coreWord_opcode]

theorem clz (site : Site) (h : Hdr) (f : FmtR) : Statement (.clz site h f) := by
  intro ws x hw; cases hw; simp [decodeCore, coreWord_opcode]

theorem brev (site : Site) (h : Hdr) (f : FmtR) : Statement (.brev site h f) := by
  intro ws x hw; cases hw; simp [decodeCore, coreWord_opcode]

theorem icmp (site : Site) (h : Hdr) (f : FmtR) : Statement (.icmp site h f) := by
  intro ws x hw; cases hw; simp [decodeCore, coreWord_opcode]

theorem sel (site : Site) (h : Hdr) (f : FmtR) : Statement (.sel site h f) := by
  intro ws x hw; cases hw; simp [decodeCore, coreWord_opcode]

theorem mov (site : Site) (h : Hdr) (f : FmtR) : Statement (.mov site h f) := by
  intro ws x hw; cases hw; simp [decodeCore, coreWord_opcode]

theorem plog (site : Site) (h : Hdr) (f : FmtR) : Statement (.plog site h f) := by
  intro ws x hw; cases hw; simp [decodeCore, coreWord_opcode]

theorem bytesel (site : Site) (h : Hdr) (f : FmtR) : Statement (.bytesel site h f) := by
  intro ws x hw; cases hw; simp [decodeCore, coreWord_opcode]

theorem fadd (site : Site) (h : Hdr) (f : FmtR) : Statement (.fadd site h f) := by
  intro ws x hw; cases hw; simp [decodeCore, coreWord_opcode]

theorem fsub (site : Site) (h : Hdr) (f : FmtR) : Statement (.fsub site h f) := by
  intro ws x hw; cases hw; simp [decodeCore, coreWord_opcode]

theorem fmul (site : Site) (h : Hdr) (f : FmtR) : Statement (.fmul site h f) := by
  intro ws x hw; cases hw; simp [decodeCore, coreWord_opcode]

theorem ffma (site : Site) (h : Hdr) (f : FmtR) : Statement (.ffma site h f) := by
  intro ws x hw; cases hw; simp [decodeCore, coreWord_opcode]

theorem fmin (site : Site) (h : Hdr) (f : FmtR) : Statement (.fmin site h f) := by
  intro ws x hw; cases hw; simp [decodeCore, coreWord_opcode]

theorem fmax (site : Site) (h : Hdr) (f : FmtR) : Statement (.fmax site h f) := by
  intro ws x hw; cases hw; simp [decodeCore, coreWord_opcode]

theorem fcmp (site : Site) (h : Hdr) (f : FmtR) : Statement (.fcmp site h f) := by
  intro ws x hw; cases hw; simp [decodeCore, coreWord_opcode]

theorem fsqrt (site : Site) (h : Hdr) (f : FmtR) : Statement (.fsqrt site h f) := by
  intro ws x hw; cases hw; simp [decodeCore, coreWord_opcode]

theorem rcp (site : Site) (h : Hdr) (f : FmtR) : Statement (.rcp site h f) := by
  intro ws x hw; cases hw; simp [decodeCore, coreWord_opcode]

theorem rsq (site : Site) (h : Hdr) (f : FmtR) : Statement (.rsq site h f) := by
  intro ws x hw; cases hw; simp [decodeCore, coreWord_opcode]

theorem ex2 (site : Site) (h : Hdr) (f : FmtR) : Statement (.ex2 site h f) := by
  intro ws x hw; cases hw; simp [decodeCore, coreWord_opcode]

theorem lg2 (site : Site) (h : Hdr) (f : FmtR) : Statement (.lg2 site h f) := by
  intro ws x hw; cases hw; simp [decodeCore, coreWord_opcode]

theorem sin (site : Site) (h : Hdr) (f : FmtR) : Statement (.sin site h f) := by
  intro ws x hw; cases hw; simp [decodeCore, coreWord_opcode]

theorem cos (site : Site) (h : Hdr) (f : FmtR) : Statement (.cos site h f) := by
  intro ws x hw; cases hw; simp [decodeCore, coreWord_opcode]

theorem tanh (site : Site) (h : Hdr) (f : FmtR) : Statement (.tanh site h f) := by
  intro ws x hw; cases hw; simp [decodeCore, coreWord_opcode]

theorem cvt (site : Site) (h : Hdr) (f : FmtC) : Statement (.cvt site h f) := by
  intro ws x hw; cases hw; simp [decodeCore, coreWord_opcode]

theorem cvtFw (site : Site) (h : Hdr) (f : FmtC) : Statement (.cvtFw site h f) := by
  intro ws x hw; cases hw; simp [decodeCore, coreWord_opcode]

theorem cvtWf (site : Site) (h : Hdr) (f : FmtC) : Statement (.cvtWf site h f) := by
  intro ws x hw; cases hw; simp [decodeCore, coreWord_opcode]

theorem xlane (site : Site) (h : Hdr) (f : FmtR) : Statement (.xlane site h f) := by
  intro ws x hw; cases hw; simp [decodeCore, coreWord_opcode]

theorem vote (site : Site) (h : Hdr) (f : FmtR) : Statement (.vote site h f) := by
  intro ws x hw; cases hw; simp [decodeCore, coreWord_opcode]

theorem lred (site : Site) (h : Hdr) (f : FmtR) : Statement (.lred site h f) := by
  intro ws x hw; cases hw; simp [decodeCore, coreWord_opcode]

theorem readlane (site : Site) (h : Hdr) (f : FmtR) : Statement (.readlane site h f) := by
  intro ws x hw; cases hw; simp [decodeCore, coreWord_opcode]

theorem uiadd (site : Site) (h : Hdr) (f : FmtR) : Statement (.uiadd site h f) := by
  intro ws x hw; cases hw; simp [decodeCore, coreWord_opcode]

theorem uimul (site : Site) (h : Hdr) (f : FmtR) : Statement (.uimul site h f) := by
  intro ws x hw; cases hw; simp [decodeCore, coreWord_opcode]

theorem ublog (site : Site) (h : Hdr) (f : FmtR) : Statement (.ublog site h f) := by
  intro ws x hw; cases hw; simp [decodeCore, coreWord_opcode]

theorem ushl (site : Site) (h : Hdr) (f : FmtR) : Statement (.ushl site h f) := by
  intro ws x hw; cases hw; simp [decodeCore, coreWord_opcode]

theorem ushr (site : Site) (h : Hdr) (f : FmtR) : Statement (.ushr site h f) := by
  intro ws x hw; cases hw; simp [decodeCore, coreWord_opcode]

theorem umov (site : Site) (h : Hdr) (f : FmtR) : Statement (.umov site h f) := by
  intro ws x hw; cases hw; simp [decodeCore, coreWord_opcode]

theorem uicmp (site : Site) (h : Hdr) (f : FmtR) : Statement (.uicmp site h f) := by
  intro ws x hw; cases hw; simp [decodeCore, coreWord_opcode]

theorem ld (site : Site) (h : Hdr) (f : FmtM) : Statement (.ld site h f) := by
  intro ws x hw; cases hw; simp [decodeCore, coreWord_opcode]

theorem st (site : Site) (h : Hdr) (f : FmtM) : Statement (.st site h f) := by
  intro ws x hw; cases hw; simp [decodeCore, coreWord_opcode]

theorem uld (site : Site) (h : Hdr) (f : FmtM) : Statement (.uld site h f) := by
  intro ws x hw; cases hw; simp [decodeCore, coreWord_opcode]

theorem atom (site : Site) (h : Hdr) (f : FmtM) : Statement (.atom site h f) := by
  intro ws x hw; cases hw; simp [decodeCore, coreWord_opcode]

theorem red (site : Site) (h : Hdr) (f : FmtM) : Statement (.red site h f) := by
  intro ws x hw; cases hw; simp [decodeCore, coreWord_opcode]

theorem pref (site : Site) (h : Hdr) (f : FmtM) : Statement (.pref site h f) := by
  intro ws x hw; cases hw; simp [decodeCore, coreWord_opcode]

theorem unpin (site : Site) (h : Hdr) (f : FmtM) : Statement (.unpin site h f) := by
  intro ws x hw; cases hw; simp [decodeCore, coreWord_opcode]

theorem invL1 (site : Site) (h : Hdr) (f : FmtS) : Statement (.invL1 site h f) := by
  intro ws x hw; cases hw; simp [decodeCore, coreWord_opcode]

theorem fence (site : Site) (h : Hdr) (f : FmtS) : Statement (.fence site h f) := by
  intro ws x hw; cases hw; simp [decodeCore, coreWord_opcode]

theorem bra (site : Site) (h : Hdr) (f : FmtB) : Statement (.bra site h f) := by
  intro ws x hw; cases hw; simp [decodeCore, coreWord_opcode]

theorem brx (site : Site) (h : Hdr) (f : FmtB) : Statement (.brx site h f) := by
  intro ws x hw; cases hw; simp [decodeCore, coreWord_opcode]

theorem call (site : Site) (h : Hdr) (f : FmtB) : Statement (.call site h f) := by
  intro ws x hw; cases hw; simp [decodeCore, coreWord_opcode]

theorem ret (site : Site) (h : Hdr) (f : FmtB) : Statement (.ret site h f) := by
  intro ws x hw; cases hw; simp [decodeCore, coreWord_opcode]

theorem exit (site : Site) (h : Hdr) (f : FmtB) : Statement (.exit site h f) := by
  intro ws x hw; cases hw; simp [decodeCore, coreWord_opcode]

theorem nop (site : Site) (h : Hdr) (f : FmtB) : Statement (.nop site h f) := by
  intro ws x hw; cases hw; simp [decodeCore, coreWord_opcode]

theorem trap (site : Site) (h : Hdr) (f : FmtB) : Statement (.trap site h f) := by
  intro ws x hw; cases hw; simp [decodeCore, coreWord_opcode]

theorem barG (site : Site) (h : Hdr) (f : FmtS) : Statement (.barG site h f) := by
  intro ws x hw; cases hw; simp [decodeCore, coreWord_opcode]

theorem barCSync (site : Site) (h : Hdr) (f : FmtS) : Statement (.barCSync site h f) := by
  intro ws x hw; cases hw; simp [decodeCore, coreWord_opcode]

theorem barCArrive (site : Site) (h : Hdr) (f : FmtS) : Statement (.barCArrive site h f) := by
  intro ws x hw; cases hw; simp [decodeCore, coreWord_opcode]

theorem barClSync (site : Site) (h : Hdr) (f : FmtS) : Statement (.barClSync site h f) := by
  intro ws x hw; cases hw; simp [decodeCore, coreWord_opcode]

theorem barClArrive (site : Site) (h : Hdr) (f : FmtS) : Statement (.barClArrive site h f) := by
  intro ws x hw; cases hw; simp [decodeCore, coreWord_opcode]

theorem mma (site : Site) (h : Hdr) (f : FmtA) : Statement (.mma site h f) := by
  intro ws x hw; cases hw; simp [decodeCore, coreWord_opcode]

theorem tm (site : Site) (h : Hdr) (f : FmtA) : Statement (.tm site h f) := by
  intro ws x hw; cases hw; simp [decodeCore, coreWord_opcode]

theorem waitt (site : Site) (h : Hdr) (f : FmtS) : Statement (.waitt site h f) := by
  intro ws x hw; cases hw; simp [decodeCore, coreWord_opcode]

theorem testt (site : Site) (h : Hdr) (f : FmtS) : Statement (.testt site h f) := by
  intro ws x hw; cases hw; simp [decodeCore, coreWord_opcode]

theorem sysr (site : Site) (h : Hdr) (f : FmtS) : Statement (.sysr site h f) := by
  intro ws x hw; cases hw; simp [decodeCore, coreWord_opcode]

theorem dataReturn (core index : Nat) : Statement (.dataReturn core index) := fun _ _ h => nomatch h

theorem loadb (core arr : Nat) : Statement (.loadb core arr) := fun _ _ h => nomatch h

theorem run (core arr rows : Nat) : Statement (.run core arr rows) := fun _ _ h => nomatch h

theorem loadbRun (core arr rows : Nat) : Statement (.loadbRun core arr rows) := fun _ _ h => nomatch h

theorem matrixCompletion (core arr : Nat) : Statement (.matrixCompletion core arr) := fun _ _ h => nomatch h

theorem arrayStopDone (core arr : Nat) : Statement (.arrayStopDone core arr) := fun _ _ h => nomatch h

theorem arrayParityMismatch (core arr : Nat) : Statement (.arrayParityMismatch core arr) := fun _ _ h => nomatch h

theorem taskDispatch (p : Nat) : Statement (.taskDispatch p) := fun _ _ h => nomatch h

theorem taskEnd (core : Nat) : Statement (.taskEnd core) := fun _ _ h => nomatch h

theorem watchdogExpiry (core : Nat) : Statement (.watchdogExpiry core) := fun _ _ h => nomatch h

theorem l1LineExpiry (core line : Nat) : Statement (.l1LineExpiry core line) := fun _ _ h => nomatch h

theorem load (core entry rows : Nat) : Statement (.load core entry rows) := fun _ _ h => nomatch h

theorem store (core entry rows : Nat) : Statement (.store core entry rows) := fun _ _ h => nomatch h

theorem lcopy (core entry rows : Nat) : Statement (.lcopy core entry rows) := fun _ _ h => nomatch h

theorem loadt (core entry : Nat) : Statement (.loadt core entry) := fun _ _ h => nomatch h

theorem prefetch (core entry rows : Nat) : Statement (.prefetch core entry rows) := fun _ _ h => nomatch h

theorem lfill (core entry rows : Nat) : Statement (.lfill core entry rows) := fun _ _ h => nomatch h

theorem tmCompletion (core entry : Nat) : Statement (.tmCompletion core entry) := fun _ _ h => nomatch h

theorem loadtBlock (core entry : Nat) : Statement (.loadtBlock core entry) := fun _ _ h => nomatch h

theorem read (cl line hint asid : Nat) (lenient : Bool) (err : MemErr) : Statement (.read cl line hint asid lenient err) := fun _ _ h => nomatch h

theorem own (cl line : Nat) : Statement (.own cl line) := fun _ _ h => nomatch h

theorem sliceRead (m : Master) (line hint asid : Nat) (lenient narrow : Bool) (err : MemErr) : Statement (.sliceRead m line hint asid lenient narrow err) := fun _ _ h => nomatch h

theorem sliceWrite (m : Master) (line hint asid : Nat) (data : List (Nat × Byte)) : Statement (.sliceWrite m line hint asid data) := fun _ _ h => nomatch h

theorem lastuseRead (m : Master) (line asid : Nat) (lenient narrow : Bool) (err : MemErr) : Statement (.lastuseRead m line asid lenient narrow err) := fun _ _ h => nomatch h

theorem eEvictionNotice (cl line : Nat) : Statement (.eEvictionNotice cl line) := fun _ _ h => nomatch h

theorem mWriteBack (cl line : Nat) : Statement (.mWriteBack cl line) := fun _ _ h => nomatch h

theorem invalidation (line cl : Nat) : Statement (.invalidation line cl) := fun _ _ h => nomatch h

theorem recallLine (line cl : Nat) (keep : Bool) : Statement (.recallLine line cl keep) := fun _ _ h => nomatch h

theorem acknowledgement (line cl : Nat) : Statement (.acknowledgement line cl) := fun _ _ h => nomatch h

theorem grant (line cl : Nat) : Statement (.grant line cl) := fun _ _ h => nomatch h

theorem ownCompletion (line cl : Nat) : Statement (.ownCompletion line cl) := fun _ _ h => nomatch h

theorem ledgerPurge (lo len : Nat) : Statement (.ledgerPurge lo len) := fun _ _ h => nomatch h

theorem rowFailed (k arr macro_ row : Nat) (sets : List Nat) : Statement (.rowFailed k arr macro_ row sets) := fun _ _ h => nomatch h

theorem refresh (ch : Nat) : Statement (.refresh ch) := fun _ _ h => nomatch h

theorem scrub (ch : Nat) (err : MemErr) : Statement (.scrub ch err) := fun _ _ h => nomatch h

theorem pageRetirement (addr : Nat) (new : Option Nat) (cause : Nat) : Statement (.pageRetirement addr new cause) := fun _ _ h => nomatch h

theorem channelLost (ch : Nat) : Statement (.channelLost ch) := fun _ _ h => nomatch h

theorem channelMapOut (ch : Nat) (moves : List (Nat × Nat)) (pause : Nat) : Statement (.channelMapOut ch moves pause) := fun _ _ h => nomatch h

theorem partMemCfgWrite (port r : Nat) (v : BitVec 64) : Statement (.partMemCfgWrite port r v) := fun _ _ h => nomatch h

theorem linkIdleFlit (ep : Nat) (f : Flit) : Statement (.linkIdleFlit ep f) := fun _ _ h => nomatch h

theorem linkMessageFlit (ep : Nat) (f : Flit) : Statement (.linkMessageFlit ep f) := fun _ _ h => nomatch h

theorem linkReplayRequest (ep : Nat) (f : Flit) : Statement (.linkReplayRequest ep f) := fun _ _ h => nomatch h

theorem linkRetrainMarker (ep : Nat) (f : Flit) : Statement (.linkRetrainMarker ep f) := fun _ _ h => nomatch h

theorem linkRetrain (ep : Nat) (lane : Option Nat) : Statement (.linkRetrain ep lane) := fun _ _ h => nomatch h

theorem linkDown (ep cause : Nat) : Statement (.linkDown ep cause) := fun _ _ h => nomatch h

theorem spineClockIdle (r : Nat) : Statement (.spineClockIdle r) := fun _ _ h => nomatch h

theorem linkQosClassWrite (port c : Nat) (v : BitVec 64) : Statement (.linkQosClassWrite port c v) := fun _ _ h => nomatch h

theorem linkDtCfgWrite (port : Nat) (v : BitVec 64) : Statement (.linkDtCfgWrite port v) := fun _ _ h => nomatch h

theorem distanceTableRewrite : Statement (.distanceTableRewrite) := fun _ _ h => nomatch h

theorem targetResettingRetry (cl : Nat) : Statement (.targetResettingRetry cl) := fun _ _ h => nomatch h

theorem laserSample (oe good low : Nat) : Statement (.laserSample oe good low) := fun _ _ h => nomatch h

theorem straitIdleFlit (sn : Nat) (f : SFlit) (fec : Nat) (unc replay : Bool) : Statement (.straitIdleFlit sn f fec unc replay) := fun _ _ h => nomatch h

theorem straitBodyFlit (sn : Nat) (f : SFlit) (fec : Nat) (unc replay : Bool) : Statement (.straitBodyFlit sn f fec unc replay) := fun _ _ h => nomatch h

theorem straitReplayRequest (sn : Nat) (f : SFlit) : Statement (.straitReplayRequest sn f) := fun _ _ h => nomatch h

theorem straitRetrainMarker (sn : Nat) (f : SFlit) : Statement (.straitRetrainMarker sn f) := fun _ _ h => nomatch h

theorem laneMapChange (sn : Nat) (f : SFlit) : Statement (.laneMapChange sn f) := fun _ _ h => nomatch h

theorem laneFailure (sn lane : Nat) : Statement (.laneFailure sn lane) := fun _ _ h => nomatch h

theorem straitRetrain (sn : Nat) : Statement (.straitRetrain sn) := fun _ _ h => nomatch h

theorem straitDown (sn : Nat) : Statement (.straitDown sn) := fun _ _ h => nomatch h

theorem straitTrained (sn peerId peerPort : Nat) (peerValid : Bool) : Statement (.straitTrained sn peerId peerPort peerValid) := fun _ _ h => nomatch h

theorem fabJoin (port id : Nat) : Statement (.fabJoin port id) := fun _ _ h => nomatch h

theorem fabLeave (port id : Nat) : Statement (.fabLeave port id) := fun _ _ h => nomatch h

theorem claimTimeout : Statement (.claimTimeout) := fun _ _ h => nomatch h

theorem linkstateFlood : Statement (.linkstateFlood) := fun _ _ h => nomatch h

theorem throughTraffic (sn : Nat) (m : FMsg) : Statement (.throughTraffic sn m) := fun _ _ h => nomatch h

theorem put (m : FMsg) : Statement (.put m) := fun _ _ h => nomatch h

theorem get (m : FMsg) : Statement (.get m) := fun _ _ h => nomatch h

theorem atomic (m : FMsg) : Statement (.atomic m) := fun _ _ h => nomatch h

theorem notify (m : FMsg) : Statement (.notify m) := fun _ _ h => nomatch h

theorem getData (m : FMsg) : Statement (.getData m) := fun _ _ h => nomatch h

theorem atomicRet (m : FMsg) : Statement (.atomicRet m) := fun _ _ h => nomatch h

theorem resp (m : FMsg) : Statement (.resp m) := fun _ _ h => nomatch h

theorem coll (m : FMsg) : Statement (.coll m) := fun _ _ h => nomatch h

theorem heartbeat (m : FMsg) : Statement (.heartbeat m) := fun _ _ h => nomatch h

theorem linkstate (m : FMsg) : Statement (.linkstate m) := fun _ _ h => nomatch h

theorem sync (sn : Nat) (m : FMsg) : Statement (.sync sn m) := fun _ _ h => nomatch h

theorem ack (m : FMsg) : Statement (.ack m) := fun _ _ h => nomatch h

theorem nak (m : FMsg) : Statement (.nak m) := fun _ _ h => nomatch h

theorem ackTimer (peer tc : Nat) : Statement (.ackTimer peer tc) := fun _ _ h => nomatch h

theorem retransmitTimeout (peer tc : Nat) : Statement (.retransmitTimeout peer tc) := fun _ _ h => nomatch h

theorem fabricRetry (tag : Nat) : Statement (.fabricRetry tag) := fun _ _ h => nomatch h

theorem noAnswerTimeout (tag : Nat) : Statement (.noAnswerTimeout tag) := fun _ _ h => nomatch h

theorem releaseMarkExpiry (id : Nat) : Statement (.releaseMarkExpiry id) := fun _ _ h => nomatch h

theorem collectiveAbort (m : FMsg) : Statement (.collectiveAbort m) := fun _ _ h => nomatch h

theorem arrive (m : FMsg) : Statement (.arrive m) := fun _ _ h => nomatch h

theorem point (m : FMsg) : Statement (.point m) := fun _ _ h => nomatch h

theorem commitP (m : FMsg) : Statement (.commitP m) := fun _ _ h => nomatch h

theorem commitQ (m : FMsg) : Statement (.commitQ m) := fun _ _ h => nomatch h

theorem halt (m : FMsg) : Statement (.halt m) := fun _ _ h => nomatch h

theorem resume (m : FMsg) : Statement (.resume m) := fun _ _ h => nomatch h

theorem guardLeave (m : FMsg) : Statement (.guardLeave m) := fun _ _ h => nomatch h

theorem takeover (m : FMsg) : Statement (.takeover m) := fun _ _ h => nomatch h

theorem heartbeatTimer : Statement (.heartbeatTimer) := fun _ _ h => nomatch h

theorem selfFence : Statement (.selfFence) := fun _ _ h => nomatch h

theorem lossDeclared (id : Nat) : Statement (.lossDeclared id) := fun _ _ h => nomatch h

theorem noSpareTimeout : Statement (.noSpareTimeout) := fun _ _ h => nomatch h

theorem pageRebuild (lo n : Nat) : Statement (.pageRebuild lo n) := fun _ _ h => nomatch h

theorem guardSetup (q ix : Nat) : Statement (.guardSetup q ix) := fun _ _ h => nomatch h

theorem guardPoint (q ix : Nat) : Statement (.guardPoint q ix) := fun _ _ h => nomatch h

theorem guardAdopt (q ix : Nat) : Statement (.guardAdopt q ix) := fun _ _ h => nomatch h

theorem portLinkDown (n : Nat) : Statement (.portLinkDown n) := fun _ _ h => nomatch h

theorem portLinkUp (n : Nat) (cxl : Bool) : Statement (.portLinkUp n cxl) := fun _ _ h => nomatch h

theorem perst (n : Nat) : Statement (.perst n) := fun _ _ h => nomatch h

theorem perstRelease (n : Nat) (cxl : Bool) : Statement (.perstRelease n cxl) := fun _ _ h => nomatch h

theorem functionLevelReset (port fn : Nat) : Statement (.functionLevelReset port fn) := fun _ _ h => nomatch h

theorem bar2Read (port fn off n : Nat) : Statement (.bar2Read port fn off n) := fun _ _ h => nomatch h

theorem bar2Write (port fn off : Nat) (data : List (BitVec 8)) : Statement (.bar2Write port fn off data) := fun _ _ h => nomatch h

theorem bar2Atomicop (port fn off op n x y : Nat) : Statement (.bar2Atomicop port fn off op n x y) := fun _ _ h => nomatch h

theorem queueEnable (q epoch : Nat) (ws : List Host.Cell) : Statement (.queueEnable q epoch ws) := fun _ _ h => nomatch h

theorem queueDisable (q : Nat) : Statement (.queueDisable q) := fun _ _ h => nomatch h

theorem disableTimeout (q : Nat) : Statement (.disableTimeout q) := fun _ _ h => nomatch h

theorem doorbellInvalidation (q : Nat) (ws : List Host.Cell) : Statement (.doorbellInvalidation q ws) := fun _ _ h => nomatch h

theorem doorbellPoll (q : Nat) (ws : List Host.Cell) : Statement (.doorbellPoll q ws) := fun _ _ h => nomatch h

theorem descriptorFetch (q n : Nat) (ws : List Host.Cell) : Statement (.descriptorFetch q n ws) := fun _ _ h => nomatch h

theorem nopDescriptor (q ix : Nat) : Statement (.nopDescriptor q ix) := fun _ _ h => nomatch h

theorem launch (q ix : Nat) : Statement (.launch q ix) := fun _ _ h => nomatch h

theorem copy (q ix n : Nat) : Statement (.copy q ix n) := fun _ _ h => nomatch h

theorem fill (q ix n : Nat) : Statement (.fill q ix n) := fun _ _ h => nomatch h

theorem check (q ix n : Nat) : Statement (.check q ix n) := fun _ _ h => nomatch h

theorem collective (q ix : Nat) : Statement (.collective q ix) := fun _ _ h => nomatch h

theorem fenceDescriptor (q ix : Nat) : Statement (.fenceDescriptor q ix) := fun _ _ h => nomatch h

theorem signal (q ix : Nat) : Statement (.signal q ix) := fun _ _ h => nomatch h

theorem wait (q ix : Nat) : Statement (.wait q ix) := fun _ _ h => nomatch h

theorem waitRecheck (q ix : Nat) : Statement (.waitRecheck q ix) := fun _ _ h => nomatch h

theorem mapPool (q ix : Nat) : Statement (.mapPool q ix) := fun _ _ h => nomatch h

theorem mapPrivate (q ix : Nat) : Statement (.mapPrivate q ix) := fun _ _ h => nomatch h

theorem mapHost (q ix : Nat) : Statement (.mapHost q ix) := fun _ _ h => nomatch h

theorem mapRemote (q ix : Nat) : Statement (.mapRemote q ix) := fun _ _ h => nomatch h

theorem mapExport (q ix : Nat) : Statement (.mapExport q ix) := fun _ _ h => nomatch h

theorem mapUnmap (q ix : Nat) : Statement (.mapUnmap q ix) := fun _ _ h => nomatch h

theorem mapClass (q ix : Nat) : Statement (.mapClass q ix) := fun _ _ h => nomatch h

theorem mapProtect (q ix : Nat) : Statement (.mapProtect q ix) := fun _ _ h => nomatch h

theorem descriptorWatchdog (q ix : Nat) : Statement (.descriptorWatchdog q ix) := fun _ _ h => nomatch h

theorem descriptorCompletion (q ix energy : Nat) : Statement (.descriptorCompletion q ix energy) := fun _ _ h => nomatch h

theorem checkSwitch (q ix : Nat) : Statement (.checkSwitch q ix) := fun _ _ h => nomatch h

theorem irqModTimeout (port fn v : Nat) : Statement (.irqModTimeout port fn v) := fun _ _ h => nomatch h

theorem msixUnmask (port fn v : Nat) : Statement (.msixUnmask port fn v) := fun _ _ h => nomatch h

theorem eventLogFullRecheck (n : Nat) (ws : List Host.Cell) : Statement (.eventLogFullRecheck n ws) := fun _ _ h => nomatch h

theorem taskRecovery (core cause : Nat) (fail : Bool) (bad : Option Nat) (row : Option (Nat × Nat × Nat)) : Statement (.taskRecovery core cause fail bad row) := fun _ _ h => nomatch h

theorem recomputation (frame : Nat) (reader : Option (Nat × Nat)) : Statement (.recomputation frame reader) := fun _ _ h => nomatch h

theorem idleArrayTest (core : Nat) (pass : Bool) : Statement (.idleArrayTest core pass) := fun _ _ h => nomatch h

theorem testStop (core : Nat) (pass0 pass1 : Bool) : Statement (.testStop core pass0 pass1) := fun _ _ h => nomatch h

theorem dualExecution (orig twin : Nat) : Statement (.dualExecution orig twin) := fun _ _ h => nomatch h

theorem dualComparison (twin : Nat) (cover : Bool) (fmt : Nat) (failO failT : Bool) (odd : Nat) : Statement (.dualComparison twin cover fmt failO failT odd) := fun _ _ h => nomatch h

theorem wearMove (core : Nat) : Statement (.wearMove core) := fun _ _ h => nomatch h

theorem eyeScan (kind u bundle lane height : Nat) (rate : Bool) : Statement (.eyeScan kind u bundle lane height rate) := fun _ _ h => nomatch h

theorem pwrokAonRise : Statement (.pwrokAonRise) := fun _ _ h => nomatch h

theorem pwrokAonFall : Statement (.pwrokAonFall) := fun _ _ h => nomatch h

theorem pwrokMainRise : Statement (.pwrokMainRise) := fun _ _ h => nomatch h

theorem pwrokMainFall : Statement (.pwrokMainFall) := fun _ _ h => nomatch h

theorem pkgRstNAssert : Statement (.pkgRstNAssert) := fun _ _ h => nomatch h

theorem pkgRstNRelease : Statement (.pkgRstNRelease) := fun _ _ h => nomatch h

theorem ref25Loss : Statement (.ref25Loss) := fun _ _ h => nomatch h

theorem regulatorFailure (cl : Nat) (vfbLow carries : Bool) : Statement (.regulatorFailure cl vfbLow carries) := fun _ _ h => nomatch h

theorem setPointStep (cl : Nat) : Statement (.setPointStep cl) := fun _ _ h => nomatch h

theorem clockOffEntry (cl : Nat) : Statement (.clockOffEntry cl) := fun _ _ h => nomatch h

theorem gatedEntry (cl : Nat) : Statement (.gatedEntry cl) := fun _ _ h => nomatch h

theorem offEntry (cl : Nat) : Statement (.offEntry cl) := fun _ _ h => nomatch h

theorem offExitWave (cl : Nat) : Statement (.offExitWave cl) := fun _ _ h => nomatch h

theorem gateStep (cl : Nat) : Statement (.gateStep cl) := fun _ _ h => nomatch h

theorem droopTrip (cl det : Nat) : Statement (.droopTrip cl det) := fun _ _ h => nomatch h

theorem stretchEscalate (cl : Nat) : Statement (.stretchEscalate cl) := fun _ _ h => nomatch h

theorem stretchEnd (cl : Nat) : Statement (.stretchEnd cl) := fun _ _ h => nomatch h

theorem detectorDisable (cl det : Nat) : Statement (.detectorDisable cl det) := fun _ _ h => nomatch h

theorem vinSag (ns : Nat) : Statement (.vinSag ns) := fun _ _ h => nomatch h

theorem currentLimitWindow (vin sum : Nat × Nat) (dom : List (Nat × Nat)) : Statement (.currentLimitWindow vin sum dom) := fun _ _ h => nomatch h

theorem almanacRound (x : Samples) : Statement (.almanacRound x) := fun _ _ h => nomatch h

theorem pwrCapWrite (port : Nat) (v : BitVec 64) : Statement (.pwrCapWrite port v) := fun _ _ h => nomatch h

theorem pwrIdleCfgWrite (port : Nat) (v : BitVec 64) : Statement (.pwrIdleCfgWrite port v) := fun _ _ h => nomatch h

theorem trip (cause kind value sensor : Nat) (reading : Int) : Statement (.trip cause kind value sensor reading) := fun _ _ h => nomatch h

theorem tripCooldownCheck (reading : Int) : Statement (.tripCooldownCheck reading) := fun _ _ h => nomatch h

theorem cycleCountSave : Statement (.cycleCountSave) := fun _ _ h => nomatch h

theorem startUp (x : StartIn) : Statement (.startUp x) := fun _ _ h => nomatch h

theorem partitionReset (p port : Nat) (go : Bool) : Statement (.partitionReset p port go) := fun _ _ h => nomatch h

theorem settingsSave (vals : List (Nat × Nat)) : Statement (.settingsSave vals) := fun _ _ h => nomatch h

theorem runtimeRepairRound (missing : List (Nat × BitVec 64)) (bad : List Nat) : Statement (.runtimeRepairRound missing bad) := fun _ _ h => nomatch h

theorem fwUpdateData (off : Nat) (data : List (BitVec 8)) : Statement (.fwUpdateData off data) := fun _ _ h => nomatch h

theorem verifyComplete : Statement (.verifyComplete) := fun _ _ h => nomatch h

theorem activateFirmware : Statement (.activateFirmware) := fun _ _ h => nomatch h

theorem updateStallTimeout : Statement (.updateStallTimeout) := fun _ _ h => nomatch h

theorem repair (slot : Nat) (es : List (Nat × List (BitVec 8))) : Statement (.repair slot es) := fun _ _ h => nomatch h

theorem partGrant (slot p : Nat) : Statement (.partGrant slot p) := fun _ _ h => nomatch h

theorem quote (slot : Nat) (nonce : List (BitVec 8)) : Statement (.quote slot nonce) := fun _ _ h => nomatch h

theorem flashLog (slot : Nat) (e : EvRec) : Statement (.flashLog slot e) := fun _ _ h => nomatch h

theorem fullNext (slot : Nat) : Statement (.fullNext slot) := fun _ _ h => nomatch h

theorem restart (slot : Nat) : Statement (.restart slot) := fun _ _ h => nomatch h

theorem activate (slot k : Nat) : Statement (.activate slot k) := fun _ _ h => nomatch h

theorem mainlandRestart (ok : Bool) : Statement (.mainlandRestart ok) := fun _ _ h => nomatch h

theorem getIdentityCert (port : Nat) : Statement (.getIdentityCert port) := fun _ _ h => nomatch h

theorem getAliasCert (port : Nat) : Statement (.getAliasCert port) := fun _ _ h => nomatch h

theorem getQuote (port : Nat) (nonce : List (BitVec 8)) : Statement (.getQuote port nonce) := fun _ _ h => nomatch h

theorem debugUnlock (token : List (BitVec 8)) : Statement (.debugUnlock token) := fun _ _ h => nomatch h

theorem mctpSetEndpointId (eid : Nat) : Statement (.mctpSetEndpointId eid) := fun _ _ h => nomatch h

theorem pldmSensorRead (id : Nat) : Statement (.pldmSensorRead id) := fun _ _ h => nomatch h

theorem pldmEventRead : Statement (.pldmEventRead) := fun _ _ h => nomatch h

theorem flashEventLogRead (lo n : Nat) : Statement (.flashEventLogRead lo n) := fun _ _ h => nomatch h

theorem powerCapEffecter (w : Nat) : Statement (.powerCapEffecter w) := fun _ _ h => nomatch h

theorem stepIndexCeilingEffecter (k : Nat) : Statement (.stepIndexCeilingEffecter k) := fun _ _ h => nomatch h

theorem fullStartEffecter (on : Bool) : Statement (.fullStartEffecter on) := fun _ _ h => nomatch h

theorem lowWordRead (port fn off : Nat) (wide : Bool) : Statement (.lowWordRead port fn off wide) := fun _ _ h => nomatch h

theorem highWordRead (port fn off : Nat) : Statement (.highWordRead port fn off) := fun _ _ h => nomatch h

theorem lowWordWrite (port fn off : Nat) (v : BitVec 32) : Statement (.lowWordWrite port fn off v) := fun _ _ h => nomatch h

theorem highWordWrite (port fn off : Nat) (v : BitVec 32) : Statement (.highWordWrite port fn off v) := fun _ _ h => nomatch h

theorem aliasWrite (port fn off n : Nat) (v : BitVec 32) : Statement (.aliasWrite port fn off n v) := fun _ _ h => nomatch h

theorem postedWriteApplied (block k : Nat) : Statement (.postedWriteApplied block k) := fun _ _ h => nomatch h

theorem idQueHoldWrite (port fn : Nat) (v : BitVec 64) : Statement (.idQueHoldWrite port fn v) := fun _ _ h => nomatch h

theorem fnRecordWrite (port f n : Nat) (v : BitVec 64) : Statement (.fnRecordWrite port f n v) := fun _ _ h => nomatch h

theorem fnBar2Write (port f : Nat) (v : BitVec 64) : Statement (.fnBar2Write port f v) := fun _ _ h => nomatch h

theorem eventLogEnable (port : Nat) (v : BitVec 64) : Statement (.eventLogEnable port v) := fun _ _ h => nomatch h

theorem telemetryConfigWrite (port fn : Nat) (v : BitVec 64) : Statement (.telemetryConfigWrite port fn v) := fun _ _ h => nomatch h

theorem partGrantWrite (port p : Nat) (v : BitVec 64) : Statement (.partGrantWrite port p v) := fun _ _ h => nomatch h

theorem partDieWrite (port d : Nat) (v : BitVec 64) : Statement (.partDieWrite port d v) := fun _ _ h => nomatch h

theorem registerWrite (port fn off n : Nat) (v : BitVec 64) : Statement (.registerWrite port fn off n v) := fun _ _ h => nomatch h

theorem completionTimeout (q : Nat) (work core : Option Nat) : Statement (.completionTimeout q work core) := fun _ _ h => nomatch h

theorem hubLoss (canWrite : Bool) : Statement (.hubLoss canWrite) := fun _ _ h => nomatch h

theorem bondOrTsvLaneFailure (kind u bundle lane : Nat) (carries : Bool) : Statement (.bondOrTsvLaneFailure kind u bundle lane carries) := fun _ _ h => nomatch h

theorem ref25Return : Statement (.ref25Return) := fun _ _ h => nomatch h

theorem configurationWrite (port : Nat) (w : CfgWrite) : Statement (.configurationWrite port w) := fun _ _ h => nomatch h

theorem atsInvalidation (port fn page n : Nat) : Statement (.atsInvalidation port fn page n) := fun _ _ h => nomatch h

theorem rejectedRead (port fn off n : Nat) : Statement (.rejectedRead port fn off n) := fun _ _ h => nomatch h

end Sys2Proof.Laws.Words
end

