-- ==== Sys2Proof/Laws/Record.lean ====
section
/-! SUPPORT. What an event record changes (R411, file 11; R454, file 12), once for every command that writes one. -/

set_option Elab.async false

namespace Sys2Proof.Machine

/-- `t` differs from `s` only in host memory, the ports, the functions and the counters that a record moves. -/
def RecordOnly (s t : State) : Prop :=
  { t with free := s.free, ticks := s.ticks, evlSeq := s.evlSeq, ports := s.ports, funcs := s.funcs, host := s.host, boot := s.boot } = s ∧
  { t.boot with flash := s.boot.flash, pldmQueue := s.boot.pldmQueue, alertLow := s.boot.alertLow } = s.boot ∧
  { t.boot.flash with log := s.boot.flash.log } = s.boot.flash

theorem RecordOnly.refl (s : State) : RecordOnly s s := ⟨rfl, rfl, rfl⟩

theorem RecordOnly.trans {s t u : State} (h : RecordOnly s t) (k : RecordOnly t u) : RecordOnly s u := by
  obtain ⟨a, b, c⟩ := h
  obtain ⟨x, y, z⟩ := k
  refine ⟨?_, ?_, ?_⟩
  · rw [← x] at a; exact a
  · rw [← y] at b; exact b
  · rw [← z] at c; exact c

theorem touch_only (s : State) : RecordOnly s s.touch := ⟨rfl, rfl, rfl⟩
theorem modPort_only (s : State) (n : Nat) (g : Port → Port) : RecordOnly s (s.modPort n g) := ⟨rfl, rfl, rfl⟩
theorem putPort_only (s : State) (n : Nat) (p : Port) : RecordOnly s (s.putPort n p) := ⟨rfl, rfl, rfl⟩

theorem hostWrite_only (s : State) (p sp a : Nat) (bs : List Byte) : RecordOnly s (s.hostWrite p sp a bs) := by
  induction bs generalizing s a with
  | nil => exact .refl s
  | cons b r ih => exact RecordOnly.trans (t := { s with host := put none s.host (s.hostKey p sp a) (some b) }) ⟨rfl, rfl, rfl⟩ (ih _ _)

theorem irqCount_only (s : State) (k v : Nat) : RecordOnly s (s.irqCount k v) := by
  unfold State.irqCount
  dsimp only
  split <;> exact ⟨rfl, rfl, rfl⟩

theorem evlWriteOne_only (s : State) (n : Nat) : RecordOnly s (s.evlWriteOne n) := by
  unfold State.evlWriteOne
  dsimp only
  split
  · exact .refl s
  · exact ((hostWrite_only s _ _ _ _).trans (modPort_only _ _ _)).trans (irqCount_only _ _ _)

theorem evlFlush_only (s : State) (n fuel : Nat) : RecordOnly s (s.evlFlush n fuel) := by
  induction fuel generalizing s with
  | zero => exact .refl s
  | succ k ih =>
    have h : RecordOnly s (if s.evlRoom n then s else s.evlReread n) := by
      split
      · exact .refl s
      · exact modPort_only _ _ _
    rw [State.evlFlush]
    split
    · exact .refl s
    · generalize (if s.evlRoom n then s else s.evlReread n) = y at h
      dsimp only
      split
      · exact (h.trans (evlWriteOne_only _ n)).trans (ih _)
      · exact h

theorem evlGive_only (s : State) (n seq : Nat) (e : EvRec) : RecordOnly s (s.evlGive n seq e) := by
  unfold State.evlGive
  dsimp only
  split
  · exact putPort_only _ _ _
  · exact (putPort_only _ _ _).trans (evlFlush_only _ _ _)

theorem evlGiveAll_only (s : State) (e : EvRec) : RecordOnly s (s.evlGiveAll e) := by
  have h : RecordOnly s (({ s with evlSeq := s.evlSeq + 1 } : State).evlGive 0 (s.evlSeq + 1) e) :=
    RecordOnly.trans (t := { s with evlSeq := s.evlSeq + 1 }) ⟨rfl, rfl, rfl⟩ (evlGive_only _ _ _ _)
  unfold State.evlGiveAll
  dsimp only
  split
  · exact h.trans (evlGive_only _ _ _ _)
  · exact h

theorem flashLog_only (s : State) (e : EvRec) : RecordOnly s (s.flashLog e) := ⟨rfl, rfl, rfl⟩

/-- Everything a record can change. -/
theorem record_only (s : State) (typ level action status : Nat) (loc : BitVec 32) (detail : BitVec 128) :
    RecordOnly s (s.record typ level action status loc detail) := by
  unfold State.record
  dsimp only
  generalize hx : State.evlGiveAll _ _ = x
  have h : RecordOnly s x := hx ▸ (touch_only s).trans (evlGiveAll_only _ _)
  have k : ∀ (e : EvRec), RecordOnly s (if e.toFlash then x.flashLog e else x) := fun e => by
    split
    · exact h.trans (flashLog_only _ _)
    · exact h
  split
  · exact (k _).trans ⟨rfl, rfl, rfl⟩
  · exact k _

variable (s : State) (typ level action status : Nat) (loc : BitVec 32) (detail : BitVec 128)

@[simp] theorem record_pending : (s.record typ level action status loc detail).pending = s.pending := by
  have h := congrArg State.pending (record_only s typ level action status loc detail).1
  exact h
@[simp] theorem record_rounds : (s.record typ level action status loc detail).rounds = s.rounds := by
  have h := congrArg State.rounds (record_only s typ level action status loc detail).1
  exact h
@[simp] theorem record_stamp : (s.record typ level action status loc detail).stamp = s.stamp := by
  have h := congrArg State.stamp (record_only s typ level action status loc detail).1
  exact h
@[simp] theorem record_dispatchSeq : (s.record typ level action status loc detail).dispatchSeq = s.dispatchSeq := by
  have h := congrArg State.dispatchSeq (record_only s typ level action status loc detail).1
  exact h
@[simp] theorem record_gangSeq : (s.record typ level action status loc detail).gangSeq = s.gangSeq := by
  have h := congrArg State.gangSeq (record_only s typ level action status loc detail).1
  exact h
@[simp] theorem record_workSeq : (s.record typ level action status loc detail).workSeq = s.workSeq := by
  have h := congrArg State.workSeq (record_only s typ level action status loc detail).1
  exact h
@[simp] theorem record_power : (s.record typ level action status loc detail).power = s.power := by
  have h := congrArg State.power (record_only s typ level action status loc detail).1
  exact h
@[simp] theorem record_slots : (s.record typ level action status loc detail).slots = s.slots := by
  have h := congrArg State.slots (record_only s typ level action status loc detail).1
  exact h
@[simp] theorem record_lcores : (s.record typ level action status loc detail).lcores = s.lcores := by
  have h := congrArg State.lcores (record_only s typ level action status loc detail).1
  exact h
@[simp] theorem record_cores : (s.record typ level action status loc detail).cores = s.cores := by
  have h := congrArg State.cores (record_only s typ level action status loc detail).1
  exact h
@[simp] theorem record_clusters : (s.record typ level action status loc detail).clusters = s.clusters := by
  have h := congrArg State.clusters (record_only s typ level action status loc detail).1
  exact h
@[simp] theorem record_slices : (s.record typ level action status loc detail).slices = s.slices := by
  have h := congrArg State.slices (record_only s typ level action status loc detail).1
  exact h
@[simp] theorem record_channels : (s.record typ level action status loc detail).channels = s.channels := by
  have h := congrArg State.channels (record_only s typ level action status loc detail).1
  exact h
@[simp] theorem record_regions : (s.record typ level action status loc detail).regions = s.regions := by
  have h := congrArg State.regions (record_only s typ level action status loc detail).1
  exact h
@[simp] theorem record_dies : (s.record typ level action status loc detail).dies = s.dies := by
  have h := congrArg State.dies (record_only s typ level action status loc detail).1
  exact h
@[simp] theorem record_parts : (s.record typ level action status loc detail).parts = s.parts := by
  have h := congrArg State.parts (record_only s typ level action status loc detail).1
  exact h
@[simp] theorem record_mem : (s.record typ level action status loc detail).mem = s.mem := by
  have h := congrArg State.mem (record_only s typ level action status loc detail).1
  exact h
@[simp] theorem record_light : (s.record typ level action status loc detail).light = s.light := by
  have h := congrArg State.light (record_only s typ level action status loc detail).1
  exact h
@[simp] theorem record_producers : (s.record typ level action status loc detail).producers = s.producers := by
  have h := congrArg State.producers (record_only s typ level action status loc detail).1
  exact h
@[simp] theorem record_lost : (s.record typ level action status loc detail).lost = s.lost := by
  have h := congrArg State.lost (record_only s typ level action status loc detail).1
  exact h
@[simp] theorem record_ptes : (s.record typ level action status loc detail).ptes = s.ptes := by
  have h := congrArg State.ptes (record_only s typ level action status loc detail).1
  exact h
@[simp] theorem record_owners : (s.record typ level action status loc detail).owners = s.owners := by
  have h := congrArg State.owners (record_only s typ level action status loc detail).1
  exact h
@[simp] theorem record_net : (s.record typ level action status loc detail).net = s.net := by
  have h := congrArg State.net (record_only s typ level action status loc detail).1
  exact h
@[simp] theorem record_fab : (s.record typ level action status loc detail).fab = s.fab := by
  have h := congrArg State.fab (record_only s typ level action status loc detail).1
  exact h
@[simp] theorem record_queues : (s.record typ level action status loc detail).queues = s.queues := by
  have h := congrArg State.queues (record_only s typ level action status loc detail).1
  exact h
@[simp] theorem record_boot_state : (s.record typ level action status loc detail).boot.state = s.boot.state := by
  have h := congrArg Boot.state (record_only s typ level action status loc detail).2.1
  exact h
@[simp] theorem record_boot_pwrokAon : (s.record typ level action status loc detail).boot.pwrokAon = s.boot.pwrokAon := by
  have h := congrArg Boot.pwrokAon (record_only s typ level action status loc detail).2.1
  exact h
@[simp] theorem record_boot_pwrokMain : (s.record typ level action status loc detail).boot.pwrokMain = s.boot.pwrokMain := by
  have h := congrArg Boot.pwrokMain (record_only s typ level action status loc detail).2.1
  exact h
@[simp] theorem record_boot_pkgRstN : (s.record typ level action status loc detail).boot.pkgRstN = s.boot.pkgRstN := by
  have h := congrArg Boot.pkgRstN (record_only s typ level action status loc detail).2.1
  exact h
@[simp] theorem record_boot_ref25 : (s.record typ level action status loc detail).boot.ref25 = s.boot.ref25 := by
  have h := congrArg Boot.ref25 (record_only s typ level action status loc detail).2.1
  exact h
@[simp] theorem record_boot_strap : (s.record typ level action status loc detail).boot.strap = s.boot.strap := by
  have h := congrArg Boot.strap (record_only s typ level action status loc detail).2.1
  exact h
@[simp] theorem record_boot_hostMode : (s.record typ level action status loc detail).boot.hostMode = s.boot.hostMode := by
  have h := congrArg Boot.hostMode (record_only s typ level action status loc detail).2.1
  exact h
@[simp] theorem record_boot_fullStart : (s.record typ level action status loc detail).boot.fullStart = s.boot.fullStart := by
  have h := congrArg Boot.fullStart (record_only s typ level action status loc detail).2.1
  exact h
@[simp] theorem record_boot_debug : (s.record typ level action status loc detail).boot.debug = s.boot.debug := by
  have h := congrArg Boot.debug (record_only s typ level action status loc detail).2.1
  exact h
@[simp] theorem record_boot_startRef : (s.record typ level action status loc detail).boot.startRef = s.boot.startRef := by
  have h := congrArg Boot.startRef (record_only s typ level action status loc detail).2.1
  exact h
@[simp] theorem record_boot_lastReset : (s.record typ level action status loc detail).boot.lastReset = s.boot.lastReset := by
  have h := congrArg Boot.lastReset (record_only s typ level action status loc detail).2.1
  exact h
@[simp] theorem record_boot_lastCause : (s.record typ level action status loc detail).boot.lastCause = s.boot.lastCause := by
  have h := congrArg Boot.lastCause (record_only s typ level action status loc detail).2.1
  exact h
@[simp] theorem record_boot_fuses : (s.record typ level action status loc detail).boot.fuses = s.boot.fuses := by
  have h := congrArg Boot.fuses (record_only s typ level action status loc detail).2.1
  exact h
@[simp] theorem record_boot_tripLayer : (s.record typ level action status loc detail).boot.tripLayer = s.boot.tripLayer := by
  have h := congrArg Boot.tripLayer (record_only s typ level action status loc detail).2.1
  exact h
@[simp] theorem record_boot_tripSensor : (s.record typ level action status loc detail).boot.tripSensor = s.boot.tripSensor := by
  have h := congrArg Boot.tripSensor (record_only s typ level action status loc detail).2.1
  exact h
@[simp] theorem record_boot_tripUnit : (s.record typ level action status loc detail).boot.tripUnit = s.boot.tripUnit := by
  have h := congrArg Boot.tripUnit (record_only s typ level action status loc detail).2.1
  exact h
@[simp] theorem record_boot_coolHold : (s.record typ level action status loc detail).boot.coolHold = s.boot.coolHold := by
  have h := congrArg Boot.coolHold (record_only s typ level action status loc detail).2.1
  exact h
@[simp] theorem record_boot_mainland : (s.record typ level action status loc detail).boot.mainland = s.boot.mainland := by
  have h := congrArg Boot.mainland (record_only s typ level action status loc detail).2.1
  exact h
@[simp] theorem record_boot_imgVersion : (s.record typ level action status loc detail).boot.imgVersion = s.boot.imgVersion := by
  have h := congrArg Boot.imgVersion (record_only s typ level action status loc detail).2.1
  exact h
@[simp] theorem record_boot_imgKeySlot : (s.record typ level action status loc detail).boot.imgKeySlot = s.boot.imgKeySlot := by
  have h := congrArg Boot.imgKeySlot (record_only s typ level action status loc detail).2.1
  exact h
@[simp] theorem record_boot_comps : (s.record typ level action status loc detail).boot.comps = s.boot.comps := by
  have h := congrArg Boot.comps (record_only s typ level action status loc detail).2.1
  exact h
@[simp] theorem record_boot_meas : (s.record typ level action status loc detail).boot.meas = s.boot.meas := by
  have h := congrArg Boot.meas (record_only s typ level action status loc detail).2.1
  exact h
@[simp] theorem record_boot_aliasReady : (s.record typ level action status loc detail).boot.aliasReady = s.boot.aliasReady := by
  have h := congrArg Boot.aliasReady (record_only s typ level action status loc detail).2.1
  exact h
@[simp] theorem record_boot_quoteBusy : (s.record typ level action status loc detail).boot.quoteBusy = s.boot.quoteBusy := by
  have h := congrArg Boot.quoteBusy (record_only s typ level action status loc detail).2.1
  exact h
@[simp] theorem record_boot_quotePort : (s.record typ level action status loc detail).boot.quotePort = s.boot.quotePort := by
  have h := congrArg Boot.quotePort (record_only s typ level action status loc detail).2.1
  exact h
@[simp] theorem record_boot_quoteNonce : (s.record typ level action status loc detail).boot.quoteNonce = s.boot.quoteNonce := by
  have h := congrArg Boot.quoteNonce (record_only s typ level action status loc detail).2.1
  exact h
@[simp] theorem record_boot_quoteOut : (s.record typ level action status loc detail).boot.quoteOut = s.boot.quoteOut := by
  have h := congrArg Boot.quoteOut (record_only s typ level action status loc detail).2.1
  exact h
@[simp] theorem record_boot_bcGen : (s.record typ level action status loc detail).boot.bcGen = s.boot.bcGen := by
  have h := congrArg Boot.bcGen (record_only s typ level action status loc detail).2.1
  exact h
@[simp] theorem record_boot_bcMissing : (s.record typ level action status loc detail).boot.bcMissing = s.boot.bcMissing := by
  have h := congrArg Boot.bcMissing (record_only s typ level action status loc detail).2.1
  exact h
@[simp] theorem record_boot_repairRounds : (s.record typ level action status loc detail).boot.repairRounds = s.boot.repairRounds := by
  have h := congrArg Boot.repairRounds (record_only s typ level action status loc detail).2.1
  exact h
@[simp] theorem record_boot_update : (s.record typ level action status loc detail).boot.update = s.boot.update := by
  have h := congrArg Boot.update (record_only s typ level action status loc detail).2.1
  exact h
@[simp] theorem record_boot_mctpEid : (s.record typ level action status loc detail).boot.mctpEid = s.boot.mctpEid := by
  have h := congrArg Boot.mctpEid (record_only s typ level action status loc detail).2.1
  exact h
@[simp] theorem record_boot_faultLow : (s.record typ level action status loc detail).boot.faultLow = s.boot.faultLow := by
  have h := congrArg Boot.faultLow (record_only s typ level action status loc detail).2.1
  exact h
@[simp] theorem record_boot_thermLow : (s.record typ level action status loc detail).boot.thermLow = s.boot.thermLow := by
  have h := congrArg Boot.thermLow (record_only s typ level action status loc detail).2.1
  exact h
@[simp] theorem record_boot_pldmOut : (s.record typ level action status loc detail).boot.pldmOut = s.boot.pldmOut := by
  have h := congrArg Boot.pldmOut (record_only s typ level action status loc detail).2.1
  exact h
@[simp] theorem record_boot_mbox : (s.record typ level action status loc detail).boot.mbox = s.boot.mbox := by
  have h := congrArg Boot.mbox (record_only s typ level action status loc detail).2.1
  exact h
@[simp] theorem record_boot_mboxStatus : (s.record typ level action status loc detail).boot.mboxStatus = s.boot.mboxStatus := by
  have h := congrArg Boot.mboxStatus (record_only s typ level action status loc detail).2.1
  exact h
@[simp] theorem record_boot_savedAt : (s.record typ level action status loc detail).boot.savedAt = s.boot.savedAt := by
  have h := congrArg Boot.savedAt (record_only s typ level action status loc detail).2.1
  exact h
@[simp] theorem record_boot_cycSavedAt : (s.record typ level action status loc detail).boot.cycSavedAt = s.boot.cycSavedAt := by
  have h := congrArg Boot.cycSavedAt (record_only s typ level action status loc detail).2.1
  exact h
@[simp] theorem record_boot_upBase : (s.record typ level action status loc detail).boot.upBase = s.boot.upBase := by
  have h := congrArg Boot.upBase (record_only s typ level action status loc detail).2.1
  exact h
@[simp] theorem record_boot_fileOut : (s.record typ level action status loc detail).boot.fileOut = s.boot.fileOut := by
  have h := congrArg Boot.fileOut (record_only s typ level action status loc detail).2.1
  exact h
@[simp] theorem record_boot_fwAnswer : (s.record typ level action status loc detail).boot.fwAnswer = s.boot.fwAnswer := by
  have h := congrArg Boot.fwAnswer (record_only s typ level action status loc detail).2.1
  exact h
@[simp] theorem record_boot_pldmEvent : (s.record typ level action status loc detail).boot.pldmEvent = s.boot.pldmEvent := by
  have h := congrArg Boot.pldmEvent (record_only s typ level action status loc detail).2.1
  exact h
@[simp] theorem record_boot_pwrokLost : (s.record typ level action status loc detail).boot.pwrokLost = s.boot.pwrokLost := by
  have h := congrArg Boot.pwrokLost (record_only s typ level action status loc detail).2.1
  exact h
@[simp] theorem record_boot_vinSags : (s.record typ level action status loc detail).boot.vinSags = s.boot.vinSags := by
  have h := congrArg Boot.vinSags (record_only s typ level action status loc detail).2.1
  exact h
@[simp] theorem record_boot_vinSagLong : (s.record typ level action status loc detail).boot.vinSagLong = s.boot.vinSagLong := by
  have h := congrArg Boot.vinSagLong (record_only s typ level action status loc detail).2.1
  exact h
@[simp] theorem record_flash_image : (s.record typ level action status loc detail).boot.flash.image = s.boot.flash.image := by
  have h := congrArg Flash.image (record_only s typ level action status loc detail).2.2
  exact h
@[simp] theorem record_flash_journal : (s.record typ level action status loc detail).boot.flash.journal = s.boot.flash.journal := by
  have h := congrArg Flash.journal (record_only s typ level action status loc detail).2.2
  exact h
@[simp] theorem record_flash_journalSeq : (s.record typ level action status loc detail).boot.flash.journalSeq = s.boot.flash.journalSeq := by
  have h := congrArg Flash.journalSeq (record_only s typ level action status loc detail).2.2
  exact h
@[simp] theorem record_flash_journalTxn : (s.record typ level action status loc detail).boot.flash.journalTxn = s.boot.flash.journalTxn := by
  have h := congrArg Flash.journalTxn (record_only s typ level action status loc detail).2.2
  exact h
@[simp] theorem record_flash_areaB : (s.record typ level action status loc detail).boot.flash.areaB = s.boot.flash.areaB := by
  have h := congrArg Flash.areaB (record_only s typ level action status loc detail).2.2
  exact h
@[simp] theorem record_flash_settingsSeq : (s.record typ level action status loc detail).boot.flash.settingsSeq = s.boot.flash.settingsSeq := by
  have h := congrArg Flash.settingsSeq (record_only s typ level action status loc detail).2.2
  exact h
@[simp] theorem record_flash_settingsVer : (s.record typ level action status loc detail).boot.flash.settingsVer = s.boot.flash.settingsVer := by
  have h := congrArg Flash.settingsVer (record_only s typ level action status loc detail).2.2
  exact h
@[simp] theorem record_flash_settingsJr : (s.record typ level action status loc detail).boot.flash.settingsJr = s.boot.flash.settingsJr := by
  have h := congrArg Flash.settingsJr (record_only s typ level action status loc detail).2.2
  exact h
@[simp] theorem record_flash_settings : (s.record typ level action status loc detail).boot.flash.settings = s.boot.flash.settings := by
  have h := congrArg Flash.settings (record_only s typ level action status loc detail).2.2
  exact h
@[simp] theorem record_flash_uptime : (s.record typ level action status loc detail).boot.flash.uptime = s.boot.flash.uptime := by
  have h := congrArg Flash.uptime (record_only s typ level action status loc detail).2.2
  exact h
@[simp] theorem record_flash_cycSaved : (s.record typ level action status loc detail).boot.flash.cycSaved = s.boot.flash.cycSaved := by
  have h := congrArg Flash.cycSaved (record_only s typ level action status loc detail).2.2
  exact h
@[simp] theorem record_flash_startNum : (s.record typ level action status loc detail).boot.flash.startNum = s.boot.flash.startNum := by
  have h := congrArg Flash.startNum (record_only s typ level action status loc detail).2.2
  exact h
@[simp] theorem record_flash_lastStartTrip : (s.record typ level action status loc detail).boot.flash.lastStartTrip = s.boot.flash.lastStartTrip := by
  have h := congrArg Flash.lastStartTrip (record_only s typ level action status loc detail).2.2
  exact h
@[simp] theorem record_flash_fullNext : (s.record typ level action status loc detail).boot.flash.fullNext = s.boot.flash.fullNext := by
  have h := congrArg Flash.fullNext (record_only s typ level action status loc detail).2.2
  exact h
@[simp] theorem record_flash_discarded : (s.record typ level action status loc detail).boot.flash.discarded = s.boot.flash.discarded := by
  have h := congrArg Flash.discarded (record_only s typ level action status loc detail).2.2
  exact h
@[simp] theorem record_flash_retiredPages : (s.record typ level action status loc detail).boot.flash.retiredPages = s.boot.flash.retiredPages := by
  have h := congrArg Flash.retiredPages (record_only s typ level action status loc detail).2.2
  exact h

end Sys2Proof.Machine
end

