-- ==== Sys2Proof/Tests/Slice0.lean ====
section
/-! SUPPORT. Tests of the model: words of the spec decode to the instructions they stand for, each check of well-formedness
refuses an ill-formed term, single commands give the values of the spec, and every statement that has hypotheses has states and
operands that meet them together (test_w_...). -/

set_option Elab.async false
set_option maxRecDepth 20000

namespace Sys2Proof.Tests

open Sys2Proof.Machine

/-! ### A package in service, one task on core 0 -/

/-- Core slot 0, group 0. -/
def at0 : Site := { core := 0, group := 0 }

/-- No guard, nothing held. -/
def h0 : Hdr := { gm := 0, gp := 0, hold := 0 }

/-- The guard p0, which is false everywhere: no thread acts. -/
def hNone : Hdr := { gm := 1, gp := 0, hold := 0 }

/-- The task of core 0: one group, 128 registers. -/
def task0 : Task := { groups := 1, vregs := 128 }

/-- Its group: thread 0 is left. -/
def group0 : Group := { used := true, exited := 0xFFFFFFFE }

/-- READY and powered; logical core 0 in slot 0 runs `task0`, whose page 0 is mapped read, write and execute onto page 0 of device
memory. Core 1 of the same cluster and cores of the others are free. -/
def tst : State :=
  { boot := { pwrokAon := true, pwrokMain := true, pkgRstN := true, state := .ready, mainland := true }
    lcores := [(0, { slot := some 0, channel := some 0 }), (1, { slot := some 1, channel := some 1 })]
    slots := [(0, { status := .active }), (1, { status := .active })]
    clusters := [(0, { clk := .active })]
    cores := [(0, { task := some task0, groups := [(0, group0)] })]
    ptes := [(0, 1), (2 ^ 36, 1), (2 * 2 ^ 36, 1), (3 * 2 ^ 36, 0x1F)]
    ports := [(0, { up := true, perstN := true })] }

/-- `tst` with core 0 changed. -/
def tstCore (f : Core → Core) : State := tst.modCore 0 f

/-- `tst` with the group changed. -/
def tstGroup (f : Group → Group) : State := tstCore fun c => c.modGroup 0 f

/-- An instruction that needs `n` issues, and its context satisfies `p`. -/
def issuable (s : State) (h : Hdr) (n : Needs) (p : Ctx → Prop) [DecidablePred p] : Bool :=
  match s.ctx? at0 h with
  | some c => !c.blocked n && (s.issueCheck c h n).isNone && decide (p c)
  | none => false

/-- What `issuable` computes is the premise of the statements about instructions. -/
theorem issues_of {s : State} {h : Hdr} {n : Needs} {p : Ctx → Prop} [DecidablePred p] (e : issuable s h n p = true) :
    ∃ c, Issues s at0 h n c ∧ p c := by
  unfold issuable at e
  split at e
  · rename_i c hc
    simp only [Bool.and_eq_true, Bool.not_eq_true', Option.isNone_iff_eq_none, decide_eq_true_eq] at e
    exact ⟨c, ⟨hc, e.1.1, e.1.2⟩, e.2⟩
  · cases e

/-- As `issues_of`, for several instructions. -/
theorem issues_all {s : State} {h : Hdr} {l : List Needs} {p : Ctx → Prop} [DecidablePred p]
    (e : l.all (fun n => issuable s h n p) = true) : ∀ n ∈ l, ∃ c, Issues s at0 h n c ∧ p c :=
  fun n hn => issues_of (List.all_eq_true.mp e n hn)

/-- Format R of a type and a function code: d is register 4, the sources are 0, 2 and 6. -/
def fR (ty fn : Nat) : FmtR :=
  { vd := 4, va := 0, vb := 2, vc := 6, bsel := 0, ty := BitVec.ofNat 5 ty, rm := 0, px := 1, fn := BitVec.ofNat 9 fn, imm := 0 }

/-- Format C from BF16 to FP32 with a rounding mode. -/
def fC (mode word : Nat) : FmtC :=
  { vd := 4, va := 0, vb := 2, vc := 6, srcf := 3, dstf := 0, rmode := BitVec.ofNat 2 mode, sat := 0, useed := 1,
    word := BitVec.ofNat 2 word }

/-- Format M: SPACE, SIZE, ORD and the operation of an atomic; data in register 4, address in register 0. -/
def fM (space size ord aop : Nat) : FmtM :=
  { vd := 4, va := 0, vb := 2, space := BitVec.ofNat 2 space, size := BitVec.ofNat 3 size, ord := BitVec.ofNat 2 ord, scope := 0,
    hint := 0, ubase := 0, sx := 0, aop := BitVec.ofNat 4 aop, off := 0 }

/-- Format S with an immediate. -/
def fS (imm : Nat) : FmtS := { ux := 1, msrc := 0, momit := 0, bn := 0, px := 1, scope := 0, imm := BitVec.ofNat 32 imm }

/-- Format B with an offset; the link in registers 4 and 5. -/
def fB (off : Nat) : FmtB := { vd := 4, va := 0, off := BitVec.ofNat 32 off }

/-- Format A: the descriptor at u1. -/
def fA : FmtA := { ua := 1, off := 0, arr := 0, tok := 2 }

theorem test_w_IntegerArithmeticResults :
    ∀ n ∈ [rNeeds intSpec h0 (fR 0 0), rNeeds intSpec h0 (fR 3 0), rNeeds { intSpec with c := true } h0 (fR 1 0),
        rNeeds { ok := fun t => t.signed, b := false } h0 (fR 2 0)], ∃ c, Issues tst at0 h0 n c ∧ c.act = [0] :=
  issues_all (by decide +kernel)

theorem test_w_ShiftAndBitFieldResults :
    ∀ n ∈ [rNeeds intSpec h0 (fR 2 0), rNeeds { intSpec with c := true } h0 (fR 3 0), rNeeds { intSpec with c := true } h0 (fR 0 16),
        rNeeds { intSpec with b := false } h0 (fR 0 0), rNeeds { ok := fun t => t == .u32, c := true } h0 (fR 1 0)],
      ∃ c, Issues tst at0 h0 n c ∧ c.act = [0] :=
  issues_all (by decide +kernel)

theorem test_w_SelectAndCompareResults :
    ∀ n ∈ [rNeeds { intSpec with fnOk := cmpOk 5, d := false } h0 (fR 3 5),
        rNeeds { ok := fun t => t == .f32, fnOk := cmpOk 9, d := false } h0 (fR 8 9),
        rNeeds { ok := fun _ => true, anyTy := true, a := false, b := false, d := false } h0 (fR 4 7),
        rNeeds { ok := fun _ => true } h0 (fR 3 0), rNeeds { ok := fun _ => true, a := false } h0 (fR 10 0)],
      ∃ c, Issues tst at0 h0 n c ∧ c.act = [0] :=
  issues_all (by decide +kernel)

theorem test_w_FloatArithmeticResults :
    ∀ n ∈ [rNeeds floatSpec h0 (fR 8 0), rNeeds floatSpec h0 (fR 9 0), rNeeds { floatSpec with c := true } h0 (fR 10 0),
        rNeeds { ok := fun t => t == .f32, b := false } h0 (fR 8 0)], ∃ c, Issues tst at0 h0 n c ∧ c.act = [0] :=
  issues_all (by decide +kernel)

theorem test_w_SpecialFunctionResults :
    (∀ n ∈ [rNeeds { floatSpec with b := false } h0 (fR 8 0), rNeeds { floatSpec with b := false } h0 (fR 10 0)],
      ∃ c, Issues tst at0 h0 n c ∧ c.act = [0]) ∧ 0x80000000 < 0xFF800000 :=
  ⟨issues_all (by decide +kernel), by decide⟩

theorem test_w_ConversionResults :
    ∀ n ∈ [cNeeds h0 (fC 2 0) false false, cNeeds h0 (fC 1 2) false true, cNeeds h0 (fC 0 2) true false], ∃ c, Issues tst at0 h0 n c ∧ c.act = [0] :=
  issues_all (by decide +kernel)

theorem test_w_XlaneReadsSourceThread :
    ∀ n ∈ [rNeeds { ok := Ty.is32 } h0 (fR 1 0), rNeeds { ok := Ty.is32 } h0 (fR 8 3)],
      ∃ c, Issues tst at0 h0 n c ∧ c.act = [0] :=
  issues_all (by decide +kernel)

theorem test_w_VoteAndReductionResults :
    (∀ n ∈ [rNeeds { ok := fun _ => true, anyTy := true, a := false, b := false, d := false } h0 (fR 0 1),
        rNeeds { ok := fun _ => true, anyTy := true, a := false, b := false } h0 (fR 0 2),
        rNeeds { ok := fun t => t == .i32 || t == .u32 || (t == .f32 && decide (2 ≤ 2)), b := false, fnOk := true } h0 (fR 8 2),
        { rNeeds { ok := Ty.is32, d := false } h0 (fR 1 0) with uw := [4] }], ∃ c, Issues tst at0 h0 n c ∧ c.act = [0]) ∧
    (fR 0 1).fn.toNat % 4 ≤ 1 ∧ (fR 0 2).fn.toNat % 4 = 2 ∧
    ∃ c, Issues tst at0 hNone { rNeeds { ok := Ty.is32, d := false } hNone (fR 1 0) with uw := [4] } c ∧ c.act = [] :=
  ⟨issues_all (by decide +kernel), by decide, by decide, issues_of (by decide +kernel)⟩

theorem test_w_UniformInstructionResults :
    (∀ n ∈ [uNeeds true true false true Ty.isInt true (fR 3 0), uNeeds true true true true Ty.isInt true (fR 0 16),
        uNeeds false true false true (fun _ => true) true (fR 8 0), uNeeds true true false false Ty.isInt (cmpOk 4) (fR 3 4)],
      ∃ c, Issues tst at0 h0 n c ∧ c.act = [0]) ∧
    ∃ c, Issues tst at0 hNone (uNeeds true true false true Ty.isInt true (fR 3 0)) c ∧ c.act = [] :=
  ⟨issues_all (by decide +kernel), issues_of (by decide +kernel)⟩

/-- What LD, ULD and ST of four bytes need. -/
def ldNeeds (h : Hdr) (space : Nat) : Needs :=
  (fM space 2 0 0).needs h false [] [] (dataRegs 4 4) [] (dataOk 4 4 && !(fM space 2 0 0).releases)
@[inherit_doc ldNeeds]
def uldNeeds (h : Hdr) (space : Nat) : Needs := (fM space 2 0 0).needs h true [] [] [] [4] (uOk 4 && !(fM space 2 0 0).releases)
@[inherit_doc ldNeeds]
def stNeeds (space : Nat) : Needs :=
  (fM space 2 0 0).needs h0 false [] (dataRegs 4 4) [] [] (dataOk 4 4 && !(fM space 2 0 0).acquires)

/-- A place that an access reaches. -/
def reaches (s : State) (asid addr n : Nat) (loc : Bool) (p : Perm) : Option Place := (s.access asid loc addr n p false).toOption

theorem test_w_LoadsBecomeOutstanding :
    (∃ c, Issues tst at0 h0 (ldNeeds h0 0) c ∧ c.act = [0] ∧
      reaches tst c.task.asid ((fM 0 2 0 0).addr c.g false 0) 4 false .r = some (.loc (.dev 0)) ∧ (tst.core c.l).outst = []) ∧
    (∃ c, Issues tst at0 h0 (ldNeeds h0 1) c ∧ c.act = [0] ∧
      reaches tst c.task.asid ((fM 1 2 0 0).addr c.g false 0) 4 true .r = some (.lm 0)) ∧
    (∃ c, Issues tst at0 hNone (ldNeeds hNone 1) c ∧ c.act = []) ∧
    (∃ c, Issues tst at0 h0 (uldNeeds h0 0) c ∧ c.act = [0] ∧
      reaches tst c.task.asid ((fM 0 2 0 0).addr c.g true 0) 4 false .r = some (.loc (.dev 0)) ∧ (tst.core c.l).outst = []) ∧
    (∃ c, Issues tst at0 hNone (uldNeeds hNone 0) c ∧ c.act = []) :=
  ⟨issues_of (by decide +kernel), issues_of (by decide +kernel), issues_of (by decide +kernel), issues_of (by decide +kernel),
    issues_of (by decide +kernel)⟩

/-- An outstanding load of register 4 that has its data, and a core that holds it and a line of the L1. -/
def loaded : Outst := { dest := 4, size := 4, pieces := [{ tgt := 3, value := some [1, 2, 3, 4] }] }
@[inherit_doc loaded]
def tstLoaded : State := tstCore fun c => { c with outst := [loaded], l1 := [(l1Set 5, [{ line := 5 }])] }

/-- No thread of a core with one group waits at a fence. -/
theorem no_fence {c : Core} (h : c.groups = [(0, group0)]) (j : Nat) : (c.group j).fenceWaiters = [] := by
  by_cases e : 0 = j
  · subst e; simp only [Core.group, h]; decide +kernel
  · have : c.group j = {} := by simp [Core.group, h, look, e]
    rw [this]; rfl

theorem test_w_ReturnedDataEndsTheAccess :
    ((tstLoaded.core 0).outst[0]? = some loaded ∧ (tstLoaded.core 0).task = some task0 ∧ (tstLoaded.core 0).frame = none ∧
      (tstLoaded.core 0).urgent = none ∧
      (∀ p ∈ loaded.pieces, tstLoaded.pieceReady 0 loaded p = true ∧ p.bad = none ∧ p.lost = none ∧ p.value = some [1, 2, 3, 4] ∧
        p.thread < 32) ∧
      (loaded.pieces.map (fun p => p.thread)).Nodup ∧ loaded.uniform = false ∧ loaded.size = 4) ∧
    (∀ j, ((tstLoaded.core 0).group j).fenceWaiters = []) ∧ (tstLoaded.core 0).l1At 5 ≠ none :=
  ⟨by decide +kernel, no_fence (by decide +kernel), by decide +kernel⟩

theorem test_w_StoresToLocalMemory :
    (fM 1 2 0 0).isLocal = true ∧ ∃ c, Issues tst at0 h0 (stNeeds 1) c ∧ c.act = [0] ∧
      reaches tst c.task.asid ((fM 1 2 0 0).addr c.g false 0) 4 true .w = some (.lm 0) ∧ c.task.twinVoid = false :=
  ⟨by decide, issues_of (by decide +kernel)⟩

theorem test_w_StoreToDeviceMemoryMerges :
    (fM 0 2 0 0).releases = false ∧
    (∃ c, Issues tst at0 h0 (stNeeds 0) c ∧ c.act = [0] ∧ (tst.core c.l).outst = [] ∧
      reaches tst c.task.asid ((fM 0 2 0 0).addr c.g false 0) 4 false .w = some (.loc (.dev 0)) ∧ c.task.twinOf = none ∧
      c.task.twinVoid = false ∧ tst.uncacheable 0 = false ∧ tst.needsUndo c.l 0 0 = false ∧ (tst.shadowTouch 0).isSome = true ∧
      tst.ccFull (tst.clusterOf c.l) 0 = false) ∧
    (∃ c, Issues tst at0 h0 (stNeeds 0) c ∧ (fM 0 2 0 0).ready c tst = true ∧
      failures ((fM 0 2 0 0).accesses c tst .w false) = [] ∧
      ((tst.retire c (stNeeds 0)).storeAll c (fM 0 2 0 0) (passes ((fM 0 2 0 0).accesses c tst .w false))).isSome = true) :=
  ⟨by decide, issues_of (by decide +kernel), issues_of (by decide +kernel)⟩

/-- What an ATOM and a RED ADD of four bytes on local memory need. -/
def atomNeeds : Needs :=
  (fM 1 2 0 0).needs h0 false (fM 1 2 0 0).atomRegs [] (dataRegs 4 4) [] ((fM 1 2 0 0).atomEnc && dataOk 4 4)
@[inherit_doc atomNeeds]
def redNeeds : Needs := (fM 1 2 0 0).needs h0 false (fM 1 2 0 0).atomRegs [] [] [] (fM 1 2 0 0).atomEnc

theorem test_w_AtomicsComplete :
    (fM 1 2 0 0).atomEnc = true ∧ (fM 1 2 0 0).isLocal = true ∧
    (∃ c, Issues tst at0 h0 atomNeeds c ∧ (fM 1 2 0 0).ready c tst = true ∧ failures ((fM 1 2 0 0).accesses c tst .w true) = [] ∧
      c.task.twinOf = none ∧ c.act = [0] ∧
      ((tst.retire c atomNeeds).atomAll c (fM 1 2 0 0) true (passes ((fM 1 2 0 0).accesses c tst .w true))).short = false ∧
      ((tst.retire c atomNeeds).atomAll c (fM 1 2 0 0) true (passes ((fM 1 2 0 0).accesses c tst .w true))).lost = none) ∧
    (∃ c, Issues tst at0 h0 redNeeds c ∧ (fM 1 2 0 0).ready c tst = true ∧ failures ((fM 1 2 0 0).accesses c tst .w true) = [] ∧
      c.task.twinOf = none ∧ c.act = [0] ∧
      ((tst.retire c redNeeds).atomAll c (fM 1 2 0 0) false (passes ((fM 1 2 0 0).accesses c tst .w true))).short = false ∧
      ((tst.retire c redNeeds).atomAll c (fM 1 2 0 0) false (passes ((fM 1 2 0 0).accesses c tst .w true))).lost = none) :=
  ⟨by decide, by decide, issues_of (by decide +kernel), issues_of (by decide +kernel)⟩

/-- What PREF and UNPIN need. -/
def prefNeeds (h : Hdr) (space : Nat) : Needs := (fM space 2 0 0).needs h false [] [] [] [] true

/-- Line 0 in the cluster cache of cluster 0, in a state, with one merged byte. -/
def tstCc (st : CcSt) : State := tst.putCc 0 0 (some { st := st, bytes := [(3, 7)], dirty := 8 })

/-- `tst` with an address in registers 0 and 1 that no page maps. -/
def tstHigh : State := tstGroup fun g => g.setV 1 0 1

theorem test_w_CacheInstructionsComplete :
    (∃ c, Issues tst at0 h0 (prefNeeds h0 1) c ∧
      (passes ((fM 1 2 0 0).accesses c tst .r false)).map Prod.snd = [.lm 0]) ∧
    (∃ c, Issues (tstCc .shared) at0 h0 (prefNeeds h0 0) c ∧ c.act = [0] ∧
      reaches (tstCc .shared) c.task.asid ((fM 0 2 0 0).addr c.g false 0) 4 false .r = some (.loc (.dev 0)) ∧
      ((tstCc .shared).core c.l).l1Line 0 = none ∧ ((tstCc .shared).cc ((tstCc .shared).clusterOf c.l) 0).map (·.st) = some .shared ∧
      (tstCc .shared).lostIn 0 = false) ∧
    (∃ c, Issues tst at0 h0 (prefNeeds h0 1) c ∧
      c.act.map (fun k => reaches tst c.task.asid ((fM 1 2 0 0).addr c.g false k) 1 true .none) = [some (.lm 0)]) ∧
    (∃ c, Issues tstHigh at0 h0 (prefNeeds h0 0) c ∧
      worstOf (failures (c.act.map fun k => (k, tstHigh.access c.task.asid false ((fM 0 2 0 0).addr c.g false k) 1 .none false))) =
        some stAccess) ∧
    (∃ c, Issues tst at0 h0 { arith := false } c ∧ c.act ≠ [] ∧ c.gi < 16 ∧ (tst.core c.l).outst = [] ∧
      tst.fabWaits (.store c.l) = false ∧ (fS 0).scope = 0 ∧ c.l = 0) ∧
    (∀ j, ((tst.core 0).group j).fenceWaiters = []) ∧
    (∃ c, Issues tstLoaded at0 h0 { arith := false } c ∧ c.gi < 16 ∧ c.act ≠ [] ∧
      (tstLoaded.core c.l).readsOut c.gi c.act = true ∧ c.l = 0) ∧
    (∃ c, Issues tst at0 hNone { arith := false } c ∧ c.act = []) :=
  ⟨issues_of (by decide +kernel), issues_of (by decide +kernel), issues_of (by decide +kernel), issues_of (by decide +kernel),
    issues_of (by decide +kernel), no_fence (by decide +kernel), issues_of (by decide +kernel), issues_of (by decide +kernel)⟩

/-- `tst` with a return address that is no multiple of 8. -/
def tstOdd : State := tstGroup fun g => g.setV 0 0 4

/-- What BRX and RET need, and what CALL needs. -/
def retNeeds : Needs := { reads := [[0, 1]], enc := 0 % 2 == 0, arith := false, hold := if bitAt h0.hold 0 then [0, 1] else [] }
@[inherit_doc retNeeds]
def callNeeds : Needs := { vw := [4, 5], enc := 4 % 2 == 0, arith := false }

theorem test_w_BranchesSetProgramCounters :
    (∃ c, Issues tst at0 h0 { arith := false } c ∧ c.act = [0]) ∧ (∃ c, Issues tst at0 h0 callNeeds c ∧ c.act = [0]) ∧
    (∃ c, Issues tst at0 h0 retNeeds c ∧ c.act = [0] ∧ ∀ k ∈ c.act, c.g.v64 0 k % 8 = 0) ∧
    (∃ c, Issues tstOdd at0 h0 retNeeds c ∧ c.act = [0] ∧ ∀ k ∈ c.act, c.g.v64 0 k % 8 ≠ 0) :=
  ⟨issues_of (by decide +kernel), issues_of (by decide +kernel), issues_of (by decide +kernel), issues_of (by decide +kernel)⟩

theorem test_w_NopExitAndTrap :
    (∃ c, Issues tst at0 h0 { arith := false } c ∧ c.act ≠ []) ∧ (∃ c, Issues tst at0 hNone { arith := false } c ∧ c.act = []) :=
  ⟨issues_of (by decide +kernel), issues_of (by decide +kernel)⟩

/-- `tst` with the task a member of a gang of two. -/
def tstGang : State :=
  (tstCore fun c => { c with task := some { task0 with gang := some 7, members := 2 } }).modCluster 0
    fun c => { c with gangs := [(7, { members := [0, 1] })] }

theorem test_w_BarriersReleaseWhenFull :
    (∃ c, Issues tst at0 h0 { arith := false } c ∧ c.act ≠ [] ∧ c.gi < 16 ∧ (fS 1).mask c.g = some (c.g.phaseMask ((fS 1).mask c.g)) ∧
      (∀ k ∈ c.act, (c.g.phaseMask ((fS 1).mask c.g)).testBit k = true) ∧ (fS 1).count ≤ c.task.groups ∧
      ((tst.core c.l).bar 0).g = 0) ∧
    (∃ c, Issues tst at0 h0 { arith := false } c ∧ c.act ≠ [] ∧ (fS 2).mask c.g = some 2 ∧
      (∃ k ∈ c.act, (c.g.phaseMask ((fS 2).mask c.g)).testBit k = false) ∧ ¬(fS 2).count ≤ c.task.groups) ∧
    (∃ c, Issues tst at0 h0 { arith := false } c ∧ tst.releaseReady c.l c.gi (List.range 32) = true ∧ c.act ≠ [] ∧
      c.task.gang = none) ∧
    (∃ c, Issues tstGang at0 h0 { arith := false } c ∧ tstGang.releaseReady c.l c.gi (List.range 32) = true ∧ c.act ≠ [] ∧
      c.task.gang = some 7 ∧ (fS 2).count ≤ c.task.members * c.task.groups ∧
      (look {} ((tstGang.cluster (tstGang.clusterOf c.l)).gang 7).barriers 0 : NBar).g = 0) :=
  ⟨issues_of (by decide +kernel), issues_of (by decide +kernel), issues_of (by decide +kernel), issues_of (by decide +kernel)⟩

/-- What MMA and TM need. -/
def aNeeds : Needs := { ur := [1], arith := false }

/-- `tst` with full queues, and with a descriptor address beyond local memory. -/
def tstFull : State := tstCore fun c =>
  { c with arrays := [(0, { queue := [{}, {}, {}, {}] })], tm := List.replicate 40 {} }
@[inherit_doc tstFull]
def tstFar : State := tstGroup fun g => g.setU 1 0xFFFFFF00

theorem test_w_AsynchronousIssues :
    (∃ c, Issues tst at0 h0 aNeeds c ∧ c.act ≠ [] ∧ fA.addr c.g + 64 ≤ lmBytes ∧ fA.addr c.g % 64 = 0 ∧
      ((tst.core c.l).arr 0).queue.length < 4 ∧ c.g.tok 0 < 63 ∧ (((tst.core c.l).descAt (fA.addr c.g)).extractLsb' 40 4).toNat = 0 ∧
      (tst.core c.l).tm.length < (tst.core c.l).tmRoom ∧ c.g.tok 2 < 63) ∧
    (∃ c, Issues tstFull at0 h0 aNeeds c ∧ c.act ≠ [] ∧ fA.addr c.g + 64 ≤ lmBytes ∧ 4 ≤ ((tstFull.core c.l).arr 0).queue.length ∧
      (tstFull.core c.l).tmRoom ≤ (tstFull.core c.l).tm.length) ∧
    (∃ c, Issues tstFar at0 h0 aNeeds c ∧ c.act ≠ [] ∧ lmBytes < fA.addr c.g + 64) :=
  ⟨issues_of (by decide +kernel), issues_of (by decide +kernel), issues_of (by decide +kernel)⟩

theorem test_w_TokensAndSystemValues :
    (∃ c, Issues tst at0 h0 { arith := false } c ∧ c.act ≠ [] ∧ ∀ i, i < 16 → (fS 5).imm.getLsbD i = true → c.g.tok i = 0) ∧
    (∃ c, Issues (tstGroup fun g => { g with tokens := [(2, 1)] }) at0 h0 { arith := false } c ∧ c.act ≠ [] ∧
      ¬∀ i, i < 16 → (fS 5).imm.getLsbD i = true → c.g.tok i = 0) ∧
    (∃ c, Issues tst at0 h0 { uw := [1], arith := false } c ∧ c.act ≠ []) ∧
    (∃ c, Issues tst at0 hNone { uw := [1], arith := false } c ∧ c.act = []) :=
  ⟨issues_of (by decide +kernel), issues_of (by decide +kernel), issues_of (by decide +kernel), issues_of (by decide +kernel)⟩

/-- The first check that fails for an instruction, and whether a register is awaited. -/
def failing (s : State) (h : Hdr) (n : Needs) : Option (Bool × Option (BitVec 8)) :=
  (s.ctx? at0 h).map fun c => (c.blocked n, s.issueCheck c h n)

theorem test_w_EveryIssueIsChecked :
    failing { tst with ptes := [] } h0 (rNeeds { ok := Ty.isInt } h0 (fR 0 0)) = some (false, some stAccess) ∧
    failing tst { h0 with gm := 3 } (uNeeds true true false true Ty.isInt true (fR 3 0)) = some (false, some stProgram) ∧
    failing tst h0 ((fM 3 2 0 0).needs h0 false [] [] (dataRegs 4 4) [] (dataOk 4 4)) = some (false, some stProgram) ∧
    failing tst { h0 with gm := 3 } { arith := false } = some (false, some stProgram) ∧
    failing { tst with ptes := [] } h0 { uw := [1], arith := false } = some (false, some stAccess) ∧
    failing { tst with ptes := [] } h0 aNeeds = some (false, some stAccess) ∧
    failing (tstCore fun c => { c with task := some { task0 with vregs := 4 } }) h0 (rNeeds { ok := Ty.isInt } h0 (fR 0 0)) =
      some (false, some stProgram) ∧
    failing tst h0 (rNeeds { ok := Ty.isInt } h0 (fR 8 0)) = some (false, some stFormat) := by decide +kernel

/-! ### Engines of a core -/

/-- `tst` with an entry at the head of array 0, a stop state and a stationary tile. -/
def tstArr (e : MEntry) (stop : StopState) (tile : Option Tile) : State :=
  tstCore fun c => { c with arrays := [(0, { queue := [e], stop := stop, tile := tile })] }

/-- An entry in progress: OP, every other field 0. -/
def entry (op : Nat) : MEntry := { desc := BitVec.ofNat 512 op, started := true }

theorem test_w_MatrixArrayOperations :
    (∀ op ∈ [0, 1, 2], let s := tstArr (entry op) .running (some {});
      s.arraysRun 0 = true ∧ ((s.core 0).arr 0).stop = .running ∧ ((s.core 0).arr 0).current = some (entry op) ∧
      (entry op).named op = true ∧ (entry op).started = true ∧ (entry op).loaded = false ∧
      (entry op).written ∉ (entry op).broken ∧ ((s.core 0).arr 0).tile = some {} ∧ (entry op).rows = 1 ∧ (entry op).written = 0) ∧
    (∀ e ∈ [{ entry (8 * 2 ^ 208 + 2 ^ 8 + 2 ^ 13) with started := false }, { entry 1 with started := false }],
      let s := tstArr e .running none;
      s.arraysRun 0 = true ∧ ((s.core 0).arr 0).current = some e ∧ (e.named 0 = true ∨ e.named 1 = true) ∧
      (s.core 0).task = some task0 ∧
      worstOf (e.checks ((s.core 0).arr 0).tile) = if e.op = 0 then none else some stBadDesc) := by decide +kernel

theorem test_w_MatrixCompletionStopAndParity :
    (let s := tstArr { entry 0 with finished := true } .running none;
      ((s.core 0).arr 0).queue = [{ entry 0 with finished := true }] ∧ (entry 0).group < 16) ∧
    (let s := tstArr (entry 1) .stopping none;
      s.arraysRun 0 = true ∧ ((s.core 0).arr 0).stop = .stopping ∧
    (s.core 0).urgent = none) ∧
    (∀ n ∈ [0, 1 + 65536 * 2 ^ 160], let s := tstArr (entry n) .running (some {});
      s.arraysRun 0 = true ∧ ((s.core 0).arr 0).tile = some {} ∧ ((s.core 0).arr 0).current = some (entry n) ∧
      (entry n).started = true ∧ (entry n).parity = 0 ∧ ((entry n).overlaps {} = false ∨ (entry n).op = 0) ∧
      ((s.core 0).arr 0).stop = .running) := by decide +kernel

/-- `tst` with a tile-mover entry. -/
def tstTm (e : TmEntry) : State := tstCore fun c => { c with tm := [e] }

theorem test_w_TileMoverOperations :
    (∀ op ∈ List.range 6, let e : TmEntry := { desc := BitVec.ofNat 512 op };
      let s := tstTm e;
      s.arraysRun 0 = true ∧ (s.cluster (s.clusterOf 0)).tileMover = true ∧ (s.core 0).tm[0]? = some e ∧
      (s.core 0).task = some task0 ∧ (s.core 0).tmTurn 0 = true ∧ (s.core 0).urgent = none ∧ tmOp e.desc = op) ∧
    (let e : TmEntry := { desc := 31 * 2 ^ 8 };
      worstOf (tmChecks e.desc 1) = some stBadDesc ∧ tmOp e.desc = 0 ∧ ((tstTm e).core 0).tmTurn 0 = true) ∧
    (let e : TmEntry := { desc := 5, started := true };
      ((tstTm e).core 0).tm.find? (fun x => x.id == e.id) = some e ∧ task0.twinVoid = false ∧ tmL e.desc e.byte = 0 ∧
      4 * tmInner e.desc = 4 ∧ ∀ p, p < 4 → tmUndefined e.desc true p = false) ∧
    (let e : TmEntry := { desc := 2 + 64 * 2 ^ 160, started := true };
      tmConv e.desc = false ∧ (tmSrc e.desc).scaled = false ∧ (tstTm e).tmDest 0 task0 e.desc = 0 ∧ ((tstTm e).core 0).frame = none ∧
      tmL2 e.desc e.byte = 64 ∧ (tmSrc e.desc).rowBytes (tmInner e.desc) = 4 ∧
      ∀ p, p < 4 → tmUndefined e.desc true (64 + p) = false) ∧
    (let e : TmEntry := { desc := 5, started := true, finished := true };
      ((tstTm e).core 0).tm[0]? = some e ∧ (tstTm e).fabWaits (.tm 0 e.id) = false ∧ e.group < 16) := by decide +kernel

/-- A LAUNCH of one task, running in queue 0. -/
def launch : Desc := { bits := 1, phase := .running, launch := { checked := true, loaded := true } }

/-- `tst` with core 0 free and the LAUNCH in queue 0. -/
def tstLaunch : State :=
  (tstCore fun c => { c with task := none, groups := [] }).putQueue 0 { enabled := true, active := true, descs := [launch] }

theorem test_w_TasksStartEndAndExpire :
    (tstLaunch.powered = true ∧ tstLaunch.boot.state = .ready ∧ (tstLaunch.part 0).paused = false ∧
      (tstLaunch.part 0).resetting = false ∧ (tstLaunch.gangsShort 0).isNone = true ∧ launch.launch.checked = true ∧ launch.nextTasks = [0] ∧
      launch.gang < 2 ∧ (tstLaunch.choose 0).any (fun x => x.1 == 0 && x.2.1 == launch &&
        let u := x.2.2.modDesc 0 0 fun d => { d with launch := { d.launch with checked := true } };
        u.place 0 1 true == some [0] && (u.cluster (u.clusterOf 0)).clk != .off && !(u.cluster (u.clusterOf 0)).regFailed) = true) ∧
    (let s := tstCore fun c => { c with groups := [(0, { used := true, exited := 0xFFFFFFFF })] };
      s.hasCore 0 = true ∧ (s.core 0).task = some task0 ∧ (s.core 0).taskOver task0 = true ∧ task0.twinOf = none ∧
      task0.gang = none ∧ s.fabWaits (.store 0) = false ∧ (s.core 0).frame = none ∧ (s.core 0).urgent = none ∧
      (s.cluster (s.clusterOf 0)).unperformed = []) ∧
    (let τ : Task := { task0 with wdMs := 5 };
      let s := tstCore fun c => { c with task := some τ, watch := { on := true } };
      (s.core 0).watch.on = true ∧ (s.core 0).watch.hold = false ∧ s.hasCore 0 = true ∧ s.powered = true ∧ (s.core 0).task = some τ ∧ τ.phase = .running ∧ τ.wdMs ≠ 0 ∧ τ.twinOf = none ∧
      τ.gang = none) := by decide +kernel

/-! ### Memory -/

/-- A state whose home slice of line 0 holds it. -/
def heldIn (s : State) : State :=
  s.putSlice (s.homeOfLine 0).slice { sets := [((s.homeOfLine 0).setKey, [{ line := 0 }])] }

theorem test_w_HomeSliceRequests :
    (∀ m ∈ [Master.core, .hub, .host, .fw], ∀ s ∈ [heldIn tst, heldIn (tstCc .pend)],
      s.powered = true ∧ s.lineOk m 0 = true ∧ s.dirEnt 0 = none ∧ s.lostIn 0 = false ∧ s.inLedger 0 = false ∧
      s.uncacheable 0 = false ∧ (s.held 0).isSome = true ∧ s.guardedPage (0 * 256) = none ∧
      (let h := s.homeOfLine 0
       (look [] (s.slice h.slice).dir h.dirSet).length < (s.slice h.slice).dirWays h.dirSet)) ∧
    ((heldIn tst).cc 0 0 = none ∧ (heldIn tst).ccFull 0 0 = false) ∧
    (((heldIn (tstCc .pend)).cc 0 0).map (fun x => (x.st, x.asked)) = some (.pend, false)) ∧
    tst.lineOk .core (2 ^ 40) = false ∧ tst.lineOk .hub (2 ^ 40) = false := by
  decide +kernel

/-- A message of the directory protocol for line 0 in flight to cluster 0, whose copy is in a state. -/
def tstCoh (m : CohMsg) (st : CcSt) : State := let s := tstCc st; { s with net := { s.net with msgs := [{ coh := some m }] } }

theorem test_w_CoherenceMessages :
    (∀ x ∈ [(CohMsg.inv 0 0, CcSt.shared), (.recall 0 0 true, .exclusive), (.recall 0 0 false, .shared), (.grant 0 0, .pend),
        (.done 0 0, .modified), (.ack 0 0, .shared)],
      let s := tstCoh x.1 x.2;
      x.1 ∈ s.net.coh ∧ s.firstInFlow x.1 = true ∧ s.blocker 0 = none ∧ (s.cc 0 0).map (fun y => (y.st, y.loggers)) = some (x.2, [])) ∧
    (let w : Txn := { waiting := [0, 1] };
      let s := (tstCoh (.ack 0 0) .shared).putSlice (tst.homeOfLine 0).slice { dir := [((tst.homeOfLine 0).dirSet, [{ line := 0, txn := some w }])] };
      CohMsg.ack 0 0 ∈ s.net.coh ∧ s.firstInFlow (.ack 0 0) = true ∧ s.blocker 0 = none ∧ (s.dirEnt 0).map (·.txn) = some (some w) ∧
      w.waiting.erase 0 ≠ []) ∧
    ((tstCc .exclusive).powered = true ∧ ((tstCc .exclusive).cc 0 0).map (·.st) = some .exclusive) ∧
    (((heldIn (tstCc .modified)).cc 0 0).map (·.st) = some .modified ∧ (heldIn (tstCc .modified)).lostIn 0 = false ∧
      ((heldIn (tstCc .modified)).held 0).isSome = true) := by
  decide +kernel

theorem test_w_LedgerPurgeAndFailedRows :
    tst.mainlandUp = true ∧
    (∀ used ∈ [0, rowSpareMax 1], let s := tst.putSlice 0 { rowBad := [2 ^ 20 + 5], rowSpares := put 0 [] 1024 used };
      (∃ n ∈ rowNames 1 0 0 [5], n ∈ (s.slice 0).rowBad) ∧ (s.slice 0).setLines 5 = [] ∧
      look 0 (s.slice 0).rowSpares (1024 + 0) = used) := by decide +kernel

/-- `tst` whose page 0, with an uncorrectable codeword, may be retired. -/
def tstBad : State := { tst with channels := [(0, { ueSeen := [0] })] }

/-- The same with the rest of the page's 2 MiB frame retired, and that frame the only one of its code. -/
def tstNoFree : State :=
  { tst with light := [0], channels := [(0, { ueSeen := [0], retired := (List.range 31).map (· + 1) })] }

theorem lowestPages_none {p : Nat → Bool} : ∀ k a n, (∀ i, p i = false) → lowestPages p k a n = []
  | 0, _, _, _ => rfl
  | k + 1, a, n, h => by
    rw [lowestPages, h a]
    split
    · rfl
    · exact lowestPages_none k (a + 1) n h

theorem no_free_page (i : Nat) : tstNoFree.mayMove 0 i = false := by
  by_cases h : i < 32
  · have low : ∀ i, i < 32 → tstNoFree.mayMove 0 i = false := by decide +kernel
    exact low i h
  · have a : tstNoFree.isLight 0 = true := by decide
    have b : tstNoFree.isLight (i * 65536) = false := by
      show List.contains [0] (i * 65536 / 2 ^ 21) = false
      have : ¬ (i * 65536 / 2097152 = 0) := by omega
      simpa using this
    simp [State.mayMove, a, b]

theorem test_w_DenseChannelCommands :
    (tst.powered = true ∧ tst.inService 0 = true ∧ tst.mainlandUp = true) ∧
    ((tstBad.home 0).isSome = true ∧ (tstBad.channel (tstBad.homeOfLine (0 / 256)).chan).retireCause (0 / 64) 1 = true ∧
      tstBad.lostPage 0 = false ∧ tstBad.mayMove 0 1 = true) ∧
    (tstNoFree.mainlandUp = true ∧ (tstNoFree.home 0).isSome = true ∧
      (tstNoFree.channel (tstNoFree.homeOfLine (0 / 256)).chan).retireCause (0 / 64) 1 = true ∧ tstNoFree.lostPage 0 = false) ∧
    tstNoFree.lowestFree 0 = none ∧
    (let s := ({ tst with clusters := [], cores := [], lcores := [] } : State).putChannel 8 { tsvSpares := 0 };
      s.mainlandUp = true ∧ s.inService 8 = true ∧ (s.channel 8).lost = false ∧ s.mapOutDue 8 = true ∧
      (s.region (regionOfChan 8)).mapOut.getD 8 = 8 ∧ s.beyond 8 = [] ∧ s.slices = [] ∧ s.clusters = [] ∧ s.cores = [] ∧
      s.ownerOf 8 = none) :=
  ⟨by decide +kernel, by decide +kernel, by decide +kernel,
    by rw [State.lowestFree, lowestPages_none _ _ _ no_free_page]; rfl, by decide +kernel⟩

/-! ### Links and straits -/

/-- Both ends of the link at endpoint 0 up, with the changes given to the near and to the far end. -/
def tstLink (near far : LinkEnd → LinkEnd) : State :=
  { tst with net := { tst.net with links := [(0, near { up := true }), (17, far { up := true, credits := [(0, 4)] })] } }

/-- A check word that does not fit its flit. -/
theorem bad_link_crc (ep : Nat) (n : BitVec 16) (f : Flit) :
    let g : Flit := { f with crc := linkCrc ep n f + 1 }
    g.crc ≠ linkCrc ep n g := by
  intro g
  have e : linkCrc ep n g = linkCrc ep n f := by simp only [linkCrc, Flit.bytes, g]
  rw [e]
  generalize h : linkCrc ep n f = x
  simp [g, h]
@[inherit_doc bad_link_crc]
theorem bad_strait_crc (id : Option Nat) (i : Nat) (n : BitVec 16) (f : SFlit) :
    let g : SFlit := { f with crc := straitCrc id i n f + 1 }
    g.crc ≠ straitCrc id i n g := by
  intro g
  have e : straitCrc id i n g = straitCrc id i n f := by simp only [straitCrc, SFlit.bytes, g]
  rw [e]
  generalize h : straitCrc id i n f = x
  simp [g, h]

theorem test_w_LinkFlitsArriveInOrder :
    (∀ b ∈ [false, true], let s := tstLink (fun e => { e with discarding := b }) id;
      let f : Flit := { kind := 1 };
      let g : Flit := { f with crc := linkCrc 0 0 f };
      s.powered = true ∧ isEp 0 = true ∧ peerEp 0 = 17 ∧ s.linkRuns 0 = true ∧ (s.net.link 17).resend = [] ∧
      (s.net.link 17).kept.length < 1024 ∧ look 0 (s.net.link 17).credits f.fifo ≠ 0 ∧ (s.net.link 0).discarding = b ∧
      g.crc = linkCrc 0 0 g ∧ (s.net.link 17).txSeq = (s.net.link 0).rxSeq) ∧
    (let g : Flit := { kind := 1 };
      let s := tstLink id fun e => { e with resend := [(7, g)] };
      s.linkRuns 0 = true ∧ (s.net.link 17).resend = [(7, g)]) ∧
    (let s := tstLink id fun e => { e with replayReq := some 5 };
      let f : Flit := { kind := 2, ack := 5 };
      let g : Flit := { f with crc := linkCrc 0 0 f };
      s.linkRuns 0 = true ∧ (s.net.link 17).replayReq = some g.ack ∧ g.crc = linkCrc 0 (s.net.link 0).rxSeq g) ∧
    (let s := tstLink (fun e => { e with failRun := 16 }) id;
      s.linkRuns 0 = true ∧ 16 ≤ (s.net.link 0).failRun) ∧
    (let s := tstLink (fun e => { e with retraining := true }) id;
      let f : Flit := { kind := 3 };
      let g : Flit := { f with crc := linkCrc 0 0 f };
      (s.net.link 0).up = true ∧ (s.net.link 0).retraining = true ∧ g.crc = linkCrc 0 (s.net.link 0).rxSeq g) ∧
    ((tstLink id id).mainlandUp = true ∧ ((tstLink id id).net.link 0).up = true) ∧
    (let s := tstLink (fun e => { e with badLanes := List.range (epSpares 0 + 1) }) id;
      (s.net.link 0).spareLanes = 0 ∧ epSpares 0 < (s.net.link 0).badLanes.length) := by decide +kernel

theorem test_w_SpineAndDistanceTable :
    ((tst.region 1).spineIdle = false ∧ ∀ i, i < 8 → (tst.cluster (1 * 8 + i)).clk = .gated ∨ (tst.cluster (1 * 8 + i)).clk = .off) ∧
    (let s := { tst with net := { tst.net with dtDue := true, dtCfg := 1, retries := [3] } };
      s.mainlandUp = true ∧ s.net.dtDue = true ∧ s.net.dtCfg.getLsbD 0 = true ∧ 3 ∈ s.net.retries) := by decide +kernel

/-- `tst` with strait 0, up, and its lit engine, with the changes given. -/
def tstStrait (f : Strait → Strait) (g : Engine → Engine := id) : State :=
  { tst with fab := { tst.fab with straits := [(0, f { up := true })], engines := [(0, g { lit := true, dark := false })] } }

/-- A strait flit with its check word. -/
def sflit (f : SFlit) : SFlit := { f with crc := straitCrc none 0 0 f }

theorem test_w_StraitCommands :
    (let s := tstStrait id;
      s.powered = true ∧ (s.fab.strait 0).up = true ∧ (s.fab.strait 0).rxBad.getLsbD 3 = false ∧ (s.fab.strait 0).spareUsed = false ∧
      (s.fab.strait 0).swapLane = none ∧ (s.fab.strait 0).half = false ∧ (s.fab.engine 0).lit = true ∧ (s.fab.engine 0).dark = false ∧
      (∀ k ∈ [0, 1, 2, 3], let f := sflit { kind := BitVec.ofNat 4 k };
        f.kind = BitVec.ofNat 4 k ∧ f.crc = straitCrc s.fab.foldId 0 (s.fab.strait 0).rxSeq f) ∧
      (let f := sflit { kind := 4, ctrl := BitVec.ofNat 128 (2 + 256 * 8) };
        f.kind = 4 ∧ fld f.ctrl 0 8 < 8 ∧ fld f.ctrl 8 8 = 8 ∧
        f.crc = straitCrc s.fab.foldId 0 (s.fab.strait 0).rxSeq f)) ∧
    ((tstStrait fun x => { x with discarding := true }).fab.strait 0).discarding = true ∧
    (let s := tstStrait fun x => { x with up := false };
      (s.fab.engine 0).lit = true ∧ (s.fab.strait 0).up = false) ∧
    (let s := tstStrait fun x => { x with spareUsed := true, failRun := 16 };
      (s.fab.strait 0).spareUsed = true ∧ 16 ≤ (s.fab.strait 0).failRun) ∧
    (let s := tstStrait id fun e => { e with low := 1 };
      (s.fab.engine 0).laserB = false ∧ (1).testBit 0 = true ∧ (s.fab.engine 0).low.getLsbD 0 = true ∧ (2).testBit 1 = true) := by
  decide +kernel

/-! ### The fabric -/

/-- `tst` joined to the fabric as package 9, with the changes given. -/
def tstFab (f : Fab → Fab) : State := { tst with fab := f { tst.fab with joined := true, idApplied := 9 } }

/-- A message to package 9 from package 2. -/
def msg (kind tc aux : Nat) : FMsg :=
  { kind := BitVec.ofNat 4 kind, tc := BitVec.ofNat 2 tc, src := 2, dst := 9, aux := BitVec.ofNat 32 aux }

/-- The physical function of port 0 may write the package block. -/
theorem open0 : PkbOpen tst 0 := by
  refine ⟨⟨?_, ?_, ?_, ?_, ?_, ?_⟩, ?_, ?_, ?_⟩ <;> decide +kernel

theorem test_w_FabricIdentityAndRoutes :
    PkbOpen tst 0 ∧ (tst.fab.joined = false ∧ tst.fab.claim = none) ∧
    (let s := tstFab id;
      s.mainlandUp = true ∧ s.fab.joined = true ∧ s.fab.claim = none ∧ s.fabWork = false) ∧
    (let s := tstFab fun f => { f with reqs := [{}] };
      s.fab.joined = true ∧ s.fabWork = true) ∧
    (let s := { tst with fab := { tst.fab with claim := some 9 } };
      s.mainlandUp = true ∧ s.fab.claim = some 9) ∧
    (let s := { tst with fab := { tst.fab with claim := some 9 } };
      let m : FMsg := { msg 11 3 2 with chunk := 9 };
      s.powered = true ∧ m.kind = 11 ∧ m.aux = 2 ∧ s.fab.claim = some (BitVec.ofNat 12 (m.chunk.toNat % 4096))) ∧
    ((msg 11 3 0).aux = 0 ∧ (tstFab id).addressed (msg 11 3 0) = true) ∧
    (let s := tstFab fun f => { f with forwarding := true, marks := [4] };
      let m : FMsg := { msg 0 0 0 with dst := 5, hops := 8 };
      s.fab.forwarding = true ∧ m.dst ≠ s.fab.idApplied ∧ 8 ≤ m.hops.toNat ∧ 4 ∈ s.fab.marks ∧ s.powered = true ∧
      s.fab.joined = true ∧ (msg 0 0 0).dst = s.fab.idApplied) := by
  refine ⟨open0, ?_⟩; decide +kernel

theorem test_w_FabricMessagesOnTheirFlow :
    (∀ k, k < 10 → let m := msg k 0 0;
      let s := tstFab id;
      s.addressed m = true ∧ m.alive = 0 ∧ (s.fab.flow (flowKey m.src.toNat (tcOfKind k))).rxNext = 0) ∧
    (let m : FMsg := { msg 0 0 0 with alive := 65535 };
      (tstFab id).addressed m = true ∧ m.alive ≠ 0 ∧ (0 - m.alive).toNat ≤ 32768) ∧
    (let m : FMsg := { msg 0 0 0 with alive := 1 };
      (tstFab id).addressed m = true ∧ m.alive ≠ 0 ∧ 32768 < (0 - m.alive).toNat) ∧
    (let m : FMsg := { msg 9 3 0 with data := [7, 0] };
      m.aux = 0 ∧ look [] (tstFab id).fab.linkState (m.chunk.toNat % 4096) ≠ m.peerList) := by decide +kernel

/-- `tstFab` with a kept message on the flow to package 2. -/
def tstKept : State := tstFab fun f => { f with flows := [(flowKey 2 0, { kept := [{ alive := 3 }], unacked := 1 })] }

theorem test_w_FlowControlAndRetries :
    (∀ k ∈ [12, 13], let m : FMsg := { msg k 0 0 with alive := 3 };
      tstKept.addressed m = true ∧ (tstKept.fab.flow (flowKey m.src.toNat (m.aux.toNat % 4))).held = [] ∧
      ∃ y ∈ (tstKept.fab.flow (flowKey m.src.toNat (m.aux.toNat % 4))).kept, y.alive = m.alive) ∧
    (tstKept.powered = true ∧ tstKept.fab.joined = true ∧ 0 < (tstKept.fab.flow (flowKey 2 0)).unacked ∧
      (tstKept.fab.flow (flowKey 2 0)).kept ≠ []) ∧
    (let r : FReq := { tag := 1, retry := some 2 };
      (tstFab fun f => { f with reqs := [r] }).fab.reqs.find? (fun r => r.tag == 1 && r.retry.isSome) = some r) ∧
    (let r : FReq := { tag := 1 };
      (tstFab fun f => { f with reqs := [r] }).fab.reqs.find? (fun r => r.tag == 1 && r.answer.isNone && r.status.isNone) = some r ∧
      r.who = .desc 0 0) := by decide +kernel

/-- `tstFab` in the guard group of packages 9 and 12, domain 0, with the changes given. -/
def tstGuard (g : Guard → Guard) : State :=
  tstFab fun f => { f with guard := g { joined := true, k := 2, members := [9, 12], pId := 12, qId := 12, spareId := 12 } }

theorem test_w_GuardMessages :
    (∀ c, c < 8 → let m := msg 10 3 c;
      let s := tstGuard id;
      s.addressed m = true ∧ m.alive = (s.fab.flow (flowKey m.src.toNat 3)).rxNext ∧ s.fab.guard.inForce = true ∧
      s.fab.guard.domain = m.collId.toNat ∧ s.fab.guard.setup = false ∧ m.stage ≠ 2 ∧ m.rop = 0) ∧
    (∀ q op, (tstGuard id).guardDesc q op = none) ∧
    ({ msg 10 3 4 with stage := 2 } : FMsg).stage = 2 ∧ ({ msg 10 3 5 with stage := 1 } : FMsg).stage = 1 ∧
    (tstFab id).fab.guard.inForce = false ∧ (tstGuard fun g => { g with domain := 7 }).fab.guard.domain ≠ (msg 10 3 0).collId.toNat ∧
    ({ msg 10 3 0 with alive := 9 } : FMsg).alive ≠ ((tstGuard id).fab.flow (flowKey 2 3)).rxNext := by
  refine ⟨by decide +kernel, fun _ _ => rfl, ?_⟩; decide +kernel

/-- A GUARD descriptor of an operation, its records at an address, running in queue 0 of a package in a state. -/
def guardDesc (op at_ : Nat) : Desc := { bits := BitVec.ofNat 512 (10 + op * 2 ^ 32 + at_ * 2 ^ 64), phase := .running }

/-- A state with one descriptor in queue 0. -/
def withDesc (s : State) (d : Desc) : State := s.putQueue 0 { enabled := true, active := true, descs := [d] }

/-- The descriptor is in progress. -/
def inProgress (s : State) (d : Desc) (opc : Nat) : Bool :=
  s.mainlandUp && s.live? 0 d.index.toNat == some d && d.opc == opc && d.phase == .running && !d.lostWait

theorem inProgress_of {s : State} {d : Desc} {opc : Nat} (h : inProgress s d opc = true) : InProgress s 0 d opc := by
  simp only [inProgress, Bool.and_eq_true, beq_iff_eq, Bool.not_eq_true'] at h
  exact ⟨by decide, h.1.1.1.1, h.1.1.1.2, h.1.1.2, h.1.2, h.2⟩

theorem test_w_GuardTimersAndDescriptors :
    (let s := tstGuard fun g => { g with heard := [(12, 5)], beats := [(12, 3)] };
      s.mainlandUp = true ∧ s.fab.joined = true ∧ s.fab.guard.inForce = true ∧ (∀ p ∈ s.groupPeers, 3 ≤ look 0 s.fab.guard.beats p) ∧
      s.fab.guard.groupCoord = some s.myId ∧ 12 ∈ s.groupPeers ∧ 5 ≤ look 0 s.fab.guard.heard 12) ∧
    (let s := tstGuard fun g => { g with unspared := true };
      s.mainlandUp = true ∧ s.fab.joined = true ∧ s.fab.guard.inForce = true ∧ s.fab.guard.unspared = true) ∧
    (let s := { tstGuard fun g => { g with size := 65536 } with ptes := [(3 * 2 ^ 36, 0x43)], lost := [{ addr := 64 }] };
      s.fab.guard.joined = true ∧ s.lost.map (·.addr) = [64] ∧ s.guardedPage 64 = some 0 ∧ s.lossSource 64 ≠ 0 ∧
      s.fab.guard.role < s.fab.guard.k) ∧
    (tstGuard fun g => { g with role := 16 }).fab.guard.role = 16 ∧
    (∀ op ∈ [0, 1, 2, 3], ∀ a ∈ [0, 8], InProgress (withDesc tst (guardDesc op a)) 0 (guardDesc op a) 10 ∧
      InProgress (withDesc (tstFab id) (guardDesc op a)) 0 (guardDesc op a) 10) ∧
    (∀ op ∈ [0, 1, 2, 3], ∀ a ∈ [0, 8], fld (guardDesc op a).bits 32 2 = op ∧ fld (guardDesc op a).bits 64 64 = a) ∧
    ((withDesc (tstFab id) (guardDesc 1 0)).queue 0).guarded = false := by
  have h : ∀ op ∈ [0, 1, 2, 3], ∀ a ∈ [0, 8], inProgress (withDesc tst (guardDesc op a)) (guardDesc op a) 10 = true ∧
      inProgress (withDesc (tstFab id) (guardDesc op a)) (guardDesc op a) 10 = true := by decide +kernel
  exact ⟨by decide +kernel, by decide +kernel, by decide +kernel, by decide +kernel,
    fun op ho a ha => ⟨inProgress_of (h op ho a ha).1, inProgress_of (h op ho a ha).2⟩, by decide +kernel, by decide +kernel⟩

/-! ### Host ports, queues and descriptors -/

/-- `tst` with function 0 of port 0 set up: one queue of partition 0 and address space 0, a BAR2 window, one virtual function. -/
def tstFn (f : Func → Func) : State :=
  ((tst.putFunc 0 (f { fnQueues := 1, fnParts := 1, fnAsids := 1, bar2En := true })).putPart 0 { grant := 1 }).modPort 0
    fun p => { p with numVfs := 1 }

theorem test_w_HostPortsAndResets :
    (tst.skerryUp = true ∧ (tst.port 0).up = true ∧ (tst.port 0).perstN = true ∧ tst.portThere 0 = true) ∧
    (let s := tst.modPort 0 fun p => { p with up := false };
      (s.port 0).up = false ∧ (s.port 0).perstN = true ∧ s.boot.state ≠ .reset ∧ s.boot.tripLayer = 0) ∧
    (let s := tst.modPort 0 fun p => { p with perstN := false };
      (s.port 0).perstN = false) ∧
    (let s := tstFn id;
      s.skerryUp = true ∧ s.queues = [] ∧ s.fnThere 0 0 = true ∧ s.fnThere 0 1 = true ∧ s.multipath = false ∧ (s.port 0).up = true ∧
      s.boot.state = .ready ∧ (s.func (s.fnOf 0 0)).window = true ∧ 8 + 8 ≤ 2 ^ (s.func (s.fnOf 0 0)).bar2Log2 ∧
      (let x := s.gRead (s.barCtx 0 0) 0 ((s.func (s.fnOf 0 0)).bar2Base + 8) 8;
        x.lost = none ∧ x.bad = none ∧ x.wait = false)) ∧
    (let s := tstFn fun f => { f with bar2En := false };
      (s.func (s.fnOf 0 0)).window = false) ∧
    (∀ q, ((tstFn id).queue q).descs = [] ∧ ((tstFn id).queue q).guarded = false) :=
  ⟨by decide +kernel, by decide +kernel, by decide +kernel, by decide +kernel, by decide +kernel, fun _ => ⟨rfl, rfl⟩⟩

/-- `tstFn` with queue 0 as given. -/
def tstQueue (x : Queue) : State := (tstFn id).putQueue 0 x

theorem test_w_QueuesEnableFetchAndDisable :
    (let s := tstQueue { rCfg := 0x20404 };
      s.queueThere 0 = true ∧ (s.queue 0).busy = false ∧ (s.queue 0).enabled = false ∧ s.enableCauses 0 = []) ∧
    (tstQueue {}).enableCauses 0 = [1] ∧
    (let s := tstQueue { enabled := true };
      s.queueThere 0 = true ∧ (s.queue 0).busy = false ∧ (s.queue 0).enabled = true ∧ (s.queue 0).guarded = false ∧
      (s.queue 0).descs = [] ∧ (s.queue 0).waiting = []) ∧
    (tstQueue { enabled := true, waiting := [{}] } |>.queue 0).waiting ≠ [] ∧
    (let s := tstQueue { enabled := true, disabling := true };
      (s.queue 0).enabled = true ∧ (s.queue 0).disabling = true ∧ (s.queue 0).descs = [] ∧ (s.queue 0).waiting = []) ∧
    (let s := tstQueue { enabled := true, active := true };
      s.mainlandUp = true ∧ (s.queue 0).watching = true ∧ (s.port (s.queuePort 0)).cxl = false) ∧
    (let s := (tstQueue { enabled := true, active := true }).modPort 0 fun p => { p with cxl := true };
      (s.queue 0).watching = true ∧ (s.port (s.queuePort 0)).cxl = true) ∧
    (let s := tstQueue { enabled := true, active := true, prod := 9 };
      s.mainlandUp = true ∧ (s.queue 0).enabled = true ∧ (s.queue 0).active = true ∧ (s.queue 0).disabling = false ∧
      (s.queue 0).halted = false ∧ (s.func (s.fnOf (0 / 2048) (0 / 64 % 32))).queHold.getLsbD (0 % 64) = false ∧
      8 ≤ ((s.queue 0).prod - (s.queue 0).fetch).toNat) ∧
    (let s := tstQueue { enabled := true };
      (s.queue 0).enabled = true ∧ (s.queue 0).active = false) ∧
    (let d : Desc := { bits := 2, phase := .running };
      let s := tstQueue { enabled := true, descs := [d] };
      s.mainlandUp = true ∧ s.live? 0 d.index.toNat = some d ∧ d.opc = 2 ∧ d.lostWait = false ∧ s.collOfDesc 0 0 = none ∧
      (s.queue 0).enabled = true) ∧
    (task0.queue = 0 ∧ task0.phase = .running ∧ (tst.core 0).task = some task0) := by decide +kernel

/-- A descriptor in progress with these 64 bytes. -/
def desc (bits : Nat) : Desc := { bits := BitVec.ofNat 512 bits, phase := .running }

/-- `tst` with a descriptor before it still in progress. -/
def tstBehind (d : Desc) : State := tst.putQueue 0 { enabled := true, active := true, descs := [{ index := 9, phase := .running }, d] }

/-- `tst` with a fetched descriptor in queue 0. -/
def tstFetched (opc : Nat) : State :=
  tst.putQueue 0 { enabled := true, active := true, descs := [{ desc opc with phase := .fetched }] }

theorem test_w_DescriptorsRunAndEnd :
    (∀ x ∈ [(0, 2), (0, 3), (1, 4)], let s := tstFetched x.2;
      let d : Desc := { desc x.2 with phase := .fetched };
      s.mainlandUp = true ∧ s.live? 0 0 = some d ∧ d.opc = x.2 ∧ s.mayStart 0 d = true ∧ d.lostWait = false ∧
      (s.hubChoose x.1).map (fun y => (y.1, y.2.1)) = some (0, 0) ∧ s.copyFree = true ∧ s.unitFree = true ∧ d.check.onUnit = false) ∧
    (let d := { desc 4 with check := { onUnit := true } };
      InProgress (withDesc tst d) 0 d 4 ∧ d.check.onUnit = true ∧ d.chkBytes = 0) ∧
    (∀ opc, opc < 9 → InProgress (withDesc tst (desc opc)) 0 (desc opc) opc) ∧
    (worstOf ((withDesc tst (desc 1)).launchBad 0 (desc 1)) = some stBadDesc ∧ (desc 1).launch.loaded = false) ∧
    ((desc 2).copySrc.len = 0 ∧ (desc 3).fillBytes = 0 ∧ (desc 4).chkBytes = 0) ∧
    (let d := desc (6 + 2 * 2 ^ 32);
      InProgress (withDesc tst d) 0 d 6 ∧ InProgress (tstBehind d) 0 d 6 ∧ 2 ≤ fld d.bits 32 2 ∧
      (withDesc tst d).allBefore 0 0 = true ∧ (tstBehind d).allBefore 0 0 = false ∧ fld (desc 6).bits 32 2 < 2) ∧
    (let d := desc (7 + 4 * 2 ^ 64);
      InProgress (withDesc tst d) 0 d 7 ∧ d.wordAt % 8 ≠ 0) ∧
    (InProgress (tstBehind (desc 7)) 0 (desc 7) 7 ∧ (desc 7).wordAt % 8 = 0 ∧ (tstBehind (desc 7)).allBefore 0 0 = false) ∧
    (let d := desc (8 + 3 * 2 ^ 32);
      InProgress (withDesc tst d) 0 d 8 ∧ fld d.bits 32 2 = 3) := by
  have h : ∀ opc, opc < 9 → inProgress (withDesc tst (desc opc)) (desc opc) opc = true := by decide +kernel
  exact ⟨by decide +kernel, ⟨inProgress_of (by decide +kernel), by decide +kernel⟩, fun o ho => inProgress_of (h o ho),
    by decide +kernel, by decide +kernel,
    ⟨inProgress_of (by decide +kernel), inProgress_of (by decide +kernel), by decide +kernel⟩,
    ⟨inProgress_of (by decide +kernel), by decide +kernel⟩, ⟨inProgress_of (by decide +kernel), by decide +kernel⟩,
    ⟨inProgress_of (by decide +kernel), by decide +kernel⟩⟩

/-- A MAP of an operation: virtual address and bytes. -/
def mapDesc_ (op va size : Nat) : Desc := desc (9 + op * 2 ^ 32 + va * 2 ^ 64 + size * 2 ^ 128)

/-- The MAP is in progress, well formed and not recovered. -/
def mapGood (d : Desc) (op : Nat) : Bool := inProgress (withDesc tst d) d 9 && d.mapOp == op && !d.mapBad && d.recov == 0

theorem test_w_MapDescriptors :
    (∀ op, op < 8 → let d := mapDesc_ op 65536 0;
      inProgress (withDesc tst d) d 9 = true ∧ d.mapOp = op ∧ d.mapBad = true) ∧
    (∀ op ∈ [0, 2, 3], mapGood (mapDesc_ op 65536 65536) op = true ∧
      (withDesc tst (mapDesc_ op 65536 65536)).mapTaken 0 (mapDesc_ op 65536 65536) = false) ∧
    (withDesc tst (mapDesc_ 0 0 65536)).mapTaken 0 (mapDesc_ 0 0 65536) = true ∧
    (∀ op ∈ [4, 5, 7], mapGood (mapDesc_ op 0 65536) op = true) ∧
    (let d := mapDesc_ 4 0 65536;
      d.mapPages = 1 ∧ (withDesc tst d).devPage 0 (d.mapPage 0) = some 0 ∧ (withDesc tst d).isMapped 0 (d.mapPage 0) = true) ∧
    (let d := mapDesc_ 4 65536 65536;
      mapGood d 4 = true ∧ 0 < d.mapPages ∧ (withDesc tst d).devPage 0 (d.mapPage 0) = none) ∧
    (let d := mapDesc_ 6 (2 ^ 21) (2 ^ 21);
      mapGood d 6 = true ∧ 0 < d.mapPages ∧ (withDesc tst d).devPage 0 (d.mapPage 0) = none) ∧
    ((withDesc tst (mapDesc_ 4 0 65536)).queue 0).set.asid = 0 ∧ (∀ r, r < 8 → (tst.region r).retireWait = []) := by decide +kernel

/-- `tst` with sixteen CHECKs on the units in queue 0, of class BULK, and one that waits in queue 1, of class HIGH. -/
def tstChecks : State :=
  (tst.putQueue 0 { set := { prio := .bulk }, descs := (List.range 16).map fun i =>
      { index := BitVec.ofNat 32 i, bits := 4, phase := .running, check := { onUnit := true } } }).putQueue 1
    { set := { prio := .high }, descs := [{ bits := 4, phase := .running }] }

theorem test_w_CompletionsAndInterrupts :
    (let s := tst.putQueue 0 { set := { wdMs := 5 }, descs := [desc 2] };
      InProgress s 0 (desc 2) 2 ∧ (s.queue 0).set.wdMs ≠ 0 ∧ s.collOfDesc 0 0 = none) ∧
    (let d : Desc := { phase := .finished stDone 0 };
      let s := tst.putQueue 0 { descs := [d] };
      s.mainlandUp = true ∧ s.live? 0 d.index.toNat = some d ∧ d.phase = .finished stDone 0 ∧ (s.queue 0).disabling = false) ∧
    (let d : Desc := { desc 11 with phase := .fetched };
      (tstFetched 11).live? 0 d.index.toNat = some d ∧ d.phase = .fetched ∧ d.reserved = true ∧ (tstFetched 11).mayStart 0 d = true) ∧
    (tstChecks.mainlandUp = true ∧ (tstChecks.live? 0 0).map (fun d => (d.phase, d.check)) = some (.running, { onUnit := true }) ∧
      tstChecks.unitFree = false ∧ (∀ k ∈ tstChecks.chkClasses, k ≤ tstChecks.queueClass 0) ∧
      tstChecks.chkWaits (tstChecks.queueClass 0) = true) ∧
    (∀ m, let s := tstFn fun f => { f with irq := [(3, { mod := 256, counted := 2, masked := m })] };
      let i : IrqSt := look {} (s.func (fnKey 0 0)).irq 3;
      s.multipath = false ∧ 0 < i.counted ∧ fld i.mod 8 16 ≠ 0 ∧ i.masked = m ∧ (s.port 0).up = true) ∧
    ((tstFn id).skerryUp = true ∧ (tstFn id).fnThere 0 0 = true ∧ (tstFn id).portThere 0 = true ∧ ((tstFn id).port 0).up = true) ∧
    (let s := tst.modPort 0 fun p => { p with evlCfg := 2 ^ 63, evlSetLog2 := 4, evlWritten := 16 };
      (s.port 0).evlOn = true ∧ s.evlRoom 0 = false) :=
  ⟨⟨inProgress_of (by decide +kernel), by decide +kernel⟩, by decide +kernel, by decide +kernel, by decide +kernel, by decide +kernel,
    by decide +kernel, by decide +kernel⟩

/-! ### Faults, resets and power -/

/-- `tstLaunch` with a lost codeword of frame 0, whose producer is the LAUNCH or a descriptor of another opcode. -/
def tstLost (d : Desc) : State :=
  { withDesc tst d with lost := [{ addr := 64 }], producers := [(0, { ok := true })] }

/-- `tst` with a twin of an ended task on core 1. -/
def tstTwin : State :=
  (tstLaunch.modCore 1 fun c => { c with task := some { task0 with twinOf := some 0 }, groups := [(0, { used := true, exited := 0xFFFFFFFF })] })

theorem test_w_RecoveryAndArrayTests :
    (tst.hasCore 0 = true ∧ tst.mainlandUp = true ∧ (tst.core 0).task = some task0 ∧ task0.phase = .running ∧ task0.twinOf = none ∧
      task0.gang = none ∧ tst.replaysOf task0 < 4 ∧ (tst.part task0.part).paused = false ∧ (tst.core 0).urgent = none) ∧
    (((tstCore fun c => { c with frame := some { task := task0 } }).core 0).frame = some { task := task0 }) ∧
    ((tstLost launch).redoable 0 ≠ [] ∧ (tstLost launch).desc? 0 0 = some launch ∧ launch.opc = 1 ∧ launch.launch.recompute = false) ∧
    (let d := desc (3 + 3 * 2 ^ 128);
      (tstLost d).redoable 0 ≠ [] ∧ (tstLost d).desc? 0 0 = some d ∧ d.opc ≠ 1 ∧
      ((tstLost d).moveAgain 0 0 d 0 d.movePieces).lost ≠ some false) ∧
    (tst.hasCore 1 = true ∧ tst.coreFree 1 = true ∧ (tst.cluster (tst.clusterOf 1)).clk ≠ .off) ∧
    (let s := { tst with ticks := BitVec.ofNat 64 testTicks };
      s.coreIssues 0 = true ∧ testTicks ≤ s.ticks.toNat - (s.core 0).lastPass) ∧
    (task0.ranges = [] ∧ task0.prio ≠ .urgent ∧ task0.recompute = false ∧ tst.partOfCluster (tst.clusterOf 1) = task0.part ∧
      (tst.choose task0.part).isNone = true ∧ (tst.core 0).twinAt = none) ∧
    (let k : Task := { task0 with twinOf := some 0 };
      (tstTwin.core 1).task = some k ∧ Fmt.ofCode 0 = some .fp32 ∧ k.twinOf.isSome = true ∧ (tstTwin.core 1).taskOver k = true ∧
      tstTwin.origEnded k = true ∧ k.phase ≠ .trapped ∧ tstTwin.firstMismatch k .fp32 = none) ∧
    (let s := ((tstCore fun c => { c with task := none }).putSlot 0 { status := .active, freqLoss := 40 }).putSlot 8 { status := .spare };
      s.hasCore 0 = true ∧ (s.slot (s.slotOf 0)).worn = true ∧ (s.slot (s.slotOf 0)).status = .active ∧
      ((List.range 9).map (s.slotOf 0 / 9 * 9 + ·)).find? (fun k => (s.slot k).status == .spare) = some 8 ∧
      (s.core 0).task = none ∧ (s.core 0).frame = none) ∧
    (let s := (tst.putSlot 0 { status := .active, freqLoss := 40 }).modSlot 8 fun k => { k with status := .fenced };
      (s.slot (s.slotOf 0)).worn = true ∧ ((List.range 9).map (s.slotOf 0 / 9 * 9 + ·)).find? (fun k => (s.slot k).status == .spare) = none ∧
      (s.cluster (s.clusterOf 0)).wearMargin < 25 ∧ (s.cluster (s.clusterOf 0)).wearRaisedAt = none) := by decide +kernel

theorem test_w_LaneRepairsAndLossOfTheHub :
    tst.mainlandUp = true ∧ (tst.cluster 0).retired = false ∧ isEp 0 = true ∧ tst.inService 0 = true ∧ tst.powered = true ∧
    tst.boot.state ≠ .halted ∧ (tst.die (dieOfCluster 0)).eyeMin ≤ 200 ∧ bondSpare 0 0 ∉ (tst.cluster 0).bondUsed ∧
    ((tst.putChannel 0 { tsvSpares := 0 }).channel 0).tsvSpares = 0 ∧ (tst.channel 0).tsvSpares ≠ 0 := by decide +kernel

/-- `tst` with its start-up state changed. -/
def tstBoot (f : Boot → Boot) : State := { tst with boot := f tst.boot }

theorem test_w_ResetsAndPowerGood :
    (tst.boot.pwrokAon = true ∧ tst.boot.pwrokMain = true ∧ tst.boot.pkgRstN = true ∧ tst.boot.ref25 = true ∧
      tst.boot.tripLayer = 0 ∧ tst.powered = true) ∧
    ((tstBoot fun b => { b with pwrokAon := false }).boot.pwrokAon = false ∧
      (tstBoot fun b => { b with pwrokMain := false }).boot.pwrokMain = false ∧
      (tstBoot fun b => { b with pkgRstN := false }).boot.pkgRstN = false ∧
      (tstBoot fun b => { b with ref25 := false }).boot.ref25 = false ∧ (tstBoot fun b => { b with tripLayer := 2 }).boot.tripLayer ≠ 0) := by
  decide +kernel

theorem test_w_TripsAndCooling :
    (tst.boot.pwrokAon = true ∧ tst.boot.tripLayer = 0 ∧ 2 ∈ tripKinds 1 ∧ deg (tripPoint 1) ≤ 920 ∧ (919 : Int) < deg (tripPoint 1)) ∧
    (let s := tstBoot fun b => { b with coolHold := true, fuses := { b.fuses with lastTrip := 1 } };
      s.boot.pwrokAon = true ∧ s.boot.coolHold = true ∧ s.boot.fuses.lastTrip ≠ 6) ∧
    (tst.skerryUp = true ∧ tst.hourSince tst.boot.cycSavedAt = true) := by decide +kernel

theorem test_w_StartUpRunsTable14_6 :
    (∀ k ∈ [StartState.reset, .rom, .verify, .mainland, .links, .clusters, .memtest, .linkcheck],
      let s := tstBoot fun b => { b with state := k, repairRounds := 4 };
      s.powered = true ∧ s.boot.pkgRstN = true ∧ s.boot.coolHold = false ∧ s.boot.state = k ∧ s.storesDone = true) ∧
    (let s := tstBoot fun b => { b with state := .clusters };
      s.mainlandUp = true ∧ s.boot.state = .clusters ∧ s.boot.repairRounds < 4 ∧ (s.slot 0).full = false) ∧
    (tst.mainlandUp = true ∧ tst.boot.state = .ready ∧ tst.hourSince tst.boot.savedAt = true) ∧
    (PkbOpen tst 0 ∧ tst.partInForce 0 = true ∧ tst.holds 0 0 = true ∧ (tst.part 0).rstActive = false) ∧
    ((tst.modRegion 0 fun r => { r with memState := 1 }).resetWaits 0 = true ∧ tst.resetWaits 0 = false) ∧
    (∀ w, ((tst.putPart 0 { rstActive := true, rstWait := w }).part 0).rstActive = true ∧
      ((tst.putPart 0 { rstActive := true, rstWait := w }).part 0).rstWait = w ∧
      (tst.putPart 0 { rstActive := true, rstWait := w }).resetWaits 0 = false) := by
  exact ⟨by decide +kernel, by decide +kernel, by decide +kernel, ⟨open0, by decide +kernel⟩, by decide +kernel, by decide +kernel⟩

/-- `tst` with cluster 1, which has no task, as given. -/
def tstCl (c : Cluster) : State := tst.putCluster 1 c

theorem test_w_ClusterClocksAndRails :
    (let s := tstCl { clk := .active, step := 3, target := 7 };
      s.powered = true ∧ (s.cluster 1).clk = .active ∧ (s.cluster 1).step ≠ (s.cluster 1).target) ∧
    (∀ x ∈ [(ClkState.clockOff, ClkState.active, 250), (.gated, .clockOff, 250000), (.off, .gated, 25000000)],
      let s := { tstCl { clk := x.2.1, idleFrom := some 0 } with ticks := BitVec.ofNat 64 x.2.2 };
      s.clusterIdle 1 = true ∧ (s.cluster 1).stop = .none ∧ (s.cluster 1).waking = false ∧
      (s.cluster 1).clk.depth < x.1.depth ∧ s.deepest 1 = some x.1 ∧ s.standbyNeed 1 = false) ∧
    (let s := tstCl { wakeReq := true };
      (s.cluster 1).clk = .off ∧ (s.cluster 1).waking = false ∧ (s.cluster 1).retired = false ∧ (s.cluster 1).regFailed = false ∧
      (s.cluster 1).inReset = false ∧ (s.cluster 1).wakeReq = true ∧ (s.region (regionOfCluster 1)).waveAt = none) ∧
    (let s := tstCl { waking := true, gateSteps := 7 };
      (s.cluster 1).waking = true ∧ 7 ≤ (s.cluster 1).gateSteps ∧ (s.die (dieOfCluster 1)).lastDroop = none) ∧
    (∀ k ∈ [ClkState.active, .off], let s := tstCl { clk := k };
      s.mainlandUp = true ∧ (s.cluster 1).retired = false ∧ (s.cluster 1).onVfb = false ∧ (s.cluster 1).waking = false ∧
      (s.cluster 1).regFailed = false ∧ (s.cluster 1).clk = k ∧ (∀ l ∈ s.coresOfCluster 1, (s.core l).task = none) ∧
      s.onRail (regionOfCluster 1) < 2) := by decide +kernel

theorem test_w_StretchesLimitsAndRounds :
    (let s := tstCl { clk := .active };
      s.powered = true ∧ (s.cluster 1).clk = .active ∧ bitAt (s.cluster 1).detOff 1 = false ∧ bitAt (s.cluster 1).tripped 1 = false) ∧
    (let s := tstCl { clk := .active, tripped := 2, stretch := 25 };
      s.powered = true ∧ s.mainlandUp = true ∧ (s.cluster 1).tripped ≠ 0 ∧ (s.cluster 1).stretch = 25 ∧ (s.cluster 1).stretch ≠ 0 ∧
      bitAt (s.cluster 1).tripped 1 = true ∧ bitAt (s.cluster 1).detOff 1 = false) ∧
    tst.boot.pkgRstN = true := by decide +kernel

/-! ### Firmware, attestation, registers -/

theorem test_w_FirmwareUpdateAndMailbox :
    (tst.skerryRuns = true ∧ tst.skerryUp = true ∧ tst.mainlandUp = true) ∧
    (let s := tstBoot fun b => { b with update := { active := true, checked := true, received := 64 } };
      s.skerryRuns = true ∧ s.boot.update.active = true ∧ s.boot.update.checked = true ∧ s.boot.update.received = 64 ∧
      (s.boot.fuses.imageFails s.boot.flash.at_).isSome = true) ∧
    (tstBoot fun b => { b with update := { verified := true } }).boot.update.verified = true ∧
    ((tst.putPart 0 { grantAsk := some 0 }).part 0).grantAsk = some 0 ∧ (tst.putPart 0 { grantAsk := some 0 }).grantOk 0 0 = true ∧
    (tst.putPart 0 { grantAsk := some 0, grant := 2 }).grantOk 0 0 = false := by decide +kernel

theorem test_w_AttestationAndSideband :
    (tst.skerryRuns = true ∧ tst.boot.tripLayer = 0 ∧ tst.portThere 0 = true ∧ (tst.port 0).up = true ∧ tst.skerryUp = true ∧
      tst.mainlandUp = true) ∧
    (let s := tstBoot fun b => { b with quoteBusy := true, quotePort := some 0 };
      s.skerryRuns = true ∧ s.boot.quoteBusy = true ∧ s.boot.quotePort = some 0) ∧
    (tst.boot.quoteBusy = false ∧ (List.replicate 32 (0 : BitVec 8)).length = 32 ∧ tst.boot.pldmQueue = []) ∧
    (900 ≤ tst.power.wanted.1 ∧ tst.power.wanted.1 ≤ 1800 ∧ tst.power.wanted.2 ≤ 18) := by decide +kernel

theorem test_w_RegisterReadsAndWrites :
    PkbOpen tst 0 ∧ inAlias 0x100 = false ∧ rejected 2 4 = true ∧ rejected 0x1000000 8 = true ∧
    (look {} (tst.func (tst.fnOf 0 0)).shadow 0 : Shadow).tag ≠ some 0x100 ∧ tst.fnBusy (fnKey 0 1) = false ∧
    ((tst.putQueue 64 { enabled := true }).fnBusy (fnKey 0 1)) = true ∧ (tst.port 0).evlCfg.getLsbD 63 = false ∧
    (tst.port 0).evlBuf = [] ∧ (tst.func (fnKey 0 0)).telBusy = false ∧
    ((tst.putFunc 0 { telBusy := true }).func (fnKey 0 0)).telBusy = true := by
  refine ⟨open0, ?_⟩; decide +kernel

theorem test_w_PostedWritesOfThePackageBlock :
    (PkbOpen tst 0 ∧ tst.partInForce 0 = true ∧ tst.holdsDie 0 0 = true ∧ tst.holds 0 (tst.partOfRegion 0) = true) ∧
    (let s := tst.modPort 0 fun p => { p with pkbBusy := true };
      Bar0Open s 0 0 ∧ s.boot.state = .ready ∧ s.p1Only 0 = false ∧ (s.port 0).pkbBusy = true) ∧
    ((tst.putFunc 0 { telBusy := true }).func 0).telBusy = true ∧
    ((tst.putQueue 0 { busy := true }).queue 0).busy = true ∧ ((tst.putQueue 0 { busy := true }).queue 0).disabling = false := by
  refine ⟨⟨open0, by decide +kernel⟩, ⟨⟨?_, ?_, ?_, ?_, ?_, ?_⟩, ?_, ?_, ?_⟩, by decide +kernel, by decide +kernel⟩ <;> decide +kernel

/-- The outcome is a next state. -/
def isNext (o : Host.Outcome State Fault Refusal) : Bool := match o with | .next _ => true | _ => false

/-- What `isNext` computes. -/
theorem next_of {o : Host.Outcome State Fault Refusal} (h : isNext o = true) : ∃ t, o = .next t := by
  cases o with
  | next t => exact ⟨t, rfl⟩
  | fault _ => cases h
  | refused _ => cases h

/-- Every register file of `tst` is empty. -/
theorem tst_regsWf (q : List Instr) : ({ tst with pending := q } : State).regsWf := by
  intro l j
  have h : ((tst.core l).group j).vregs = [] ∧ ((tst.core l).group j).uregs = [] ∧ ((tst.core l).group j).preds = [] ∧
      ((tst.core l).group j).pcs = [] := by
    by_cases hl : 0 = l
    · by_cases hj : 0 = j
      · subst hl; subst hj; decide +kernel
      · simp [State.core, Core.group, tst, look, ← hl, hj, group0]
    · simp [State.core, Core.group, tst, look, hl]
  show SMap.wf 0 ((tst.core l).group j).vregs = true ∧ SMap.wf 0 ((tst.core l).group j).uregs = true ∧
    SMap.wf 0 ((tst.core l).group j).preds = true ∧ SMap.wf 0 ((tst.core l).group j).pcs = true
  rw [h.1, h.2.1, h.2.2.1, h.2.2.2]
  decide

theorem test_w_RegisterFilesStayCanonical :
    let i : Instr := .iadd at0 h0 (fR 0 0);
    let s : State := { tst with pending := [i] };
    s.pending = [i] ∧ encodeCore i = some (0x001000C080040000, 0) ∧
    ((0x001000C080040000 : BitVec 64).extractLsb' 0 8).toNat < 0x70 ∧ s.regsWf ∧ ∃ t, step s = .next t :=
  ⟨rfl, by decide +kernel, by decide, tst_regsWf _, next_of (by decide +kernel)⟩

theorem test_w_StepTakesFrontCommand : tst.pending = [] ∧ step tst = .next tst.netTick := ⟨rfl, rfl⟩

theorem test_w_DecodeOfEncodeIsIdentity :
    (Instr.iadd at0 h0 (fR 0 0)).wf = true ∧ encodeCore (.iadd at0 h0 (fR 0 0)) = some (0x001000C080040000, 0) := by decide +kernel

/-! ### Words of the spec -/

/-- A core instruction that a word spells. -/
def word (w : BitVec 64) : Option Instr := decodeCore at0 w 0

theorem test_w_EncodeOfDecodeKeepsEveryWord : (word 0xFFFFFFF600000590).isSome = true := by decide +kernel

-- Table 05.15: LD, ST, CVT, SHR, UIADD, UICMP and BRA.
theorem test_word_ld : word 0x0001410201040080 =
    some (.ld at0 h0 { vd := 4, va := 2, vb := 8, space := 0, size := 2, ord := 0, scope := 0, hint := 1, ubase := 1, sx := 0, aop := 0,
                       off := 0 }) := by decide +kernel
theorem test_word_bra : word 0xFFFFFFF600000590 =
    some (.bra at0 { gm := 1, gp := 1, hold := 0 } { vd := 0, va := 0, off := 0xFFFFFFF6 }) := by decide +kernel
-- Opcodes of Table 05.9 to 05.12 with the fields of Tables 05.2 to 05.7 set by hand.
theorem test_word_iadd : word (0x00 + 5 * 2 ^ 16 + 6 * 2 ^ 23 + 7 * 2 ^ 30 + 1 * 2 ^ 46) =
    some (.iadd at0 h0 { vd := 5, va := 6, vb := 7, vc := 0, bsel := 0, ty := 1, rm := 0, px := 0, fn := 0, imm := 0 }) := by
  decide +kernel
theorem test_word_atom : word (0x83 + 2 ^ 38 * 0 + 1 * 2 ^ 37 + 3 * 2 ^ 39 + 3 * 2 ^ 42 + 9 * 2 ^ 50) =
    some (.atom at0 h0 { vd := 0, va := 0, vb := 0, space := 1, size := 3, ord := 3, scope := 0, hint := 0, ubase := 0, sx := 0, aop := 9,
                         off := 0 }) := by decide +kernel
theorem test_word_undefined : word 0xFF = none := by decide +kernel

/-! ### Ill-formed commands -/

theorem test_wf_site : (Instr.iadd { core := 512, group := 0 } h0 (fR 0 0)).wf = false ∧
    (Instr.nop { core := 0, group := 16 } h0 (fB 0)).wf = false := by decide
theorem test_wf_imm : (Instr.iadd at0 h0 { fR 0 0 with imm := 1 }).wf = false := by decide
theorem test_wf_flit : (Instr.linkIdleFlit 0 { payload := [1] }).wf = false ∧ (Instr.linkIdleFlit 4 {}).wf = false := by decide
theorem test_wf_sflit : (Instr.straitReplayRequest 0 { body := List.replicate 225 0 }).wf = false := by decide
theorem test_wf_fmsg : (Instr.put { data := List.replicate 257 0 }).wf = false := by decide
theorem test_wf_memErr : (Instr.scrub 0 (.channelUncorrectable 4)).wf = false ∧ (Instr.scrub 576 .none).wf = false := by decide
theorem test_wf_cfgWrite : (Instr.configurationWrite 0 (.numVfs 32)).wf = false ∧
    (Instr.configurationWrite 0 (.bar2 0 29)).wf = false := by decide
theorem test_wf_lane : (Instr.eyeScan 3 0 0 0 0 false).wf = false ∧ (Instr.eyeScan 0 64 0 0 0 false).wf = false := by decide
theorem test_wf_bounds : (Instr.descriptorFetch 0 9 []).wf = false ∧ (Instr.queueDisable queueCount).wf = false ∧
    (Instr.trip 6 0 0 0 0).wf = false ∧ (Instr.pldmSensorRead 24).wf = false ∧ (Instr.taskDispatch 8).wf = false := by decide

/-! ### Values of the spec -/

/-- The block product of Example 02.1: the products of one cell row, from (A code, B code) pairs. -/
def row (l : List (Nat × Nat)) : List Val := l.map fun p => (Fmt.mxfp4.decode p.1 0x7E).mul (Fmt.mxe4m3.decode p.2 0x81)

/-- The sum that leaves the column. -/
def example0201 : Nat :=
  cellStep (cellStep (cellStep (cellStep 0 (row [(7, 0x3B), (3, 0x36), (9, 0x44), (0, 0x40)])) (row [(5, 0xBA)])) (row [(6, 0x30)]))
    (row [(0xC, 0x39)])

-- Example 02.1: 0x50 under RNE and RTZ, 0x51 under SR with r of 57,344 or more, and 0x4102 in BF16.
theorem test_example_02_1 :
    Fmt.e4m3.encode .rne true (Layout.column.decode example0201) = 0x50 ∧
    Fmt.e4m3.encode .rtz true (Layout.column.decode example0201) = 0x50 ∧
    Fmt.e4m3.encode (Round.ofCode 2 57344) true (Layout.column.decode example0201) = 0x51 ∧
    Fmt.e4m3.encode (Round.ofCode 2 57343) true (Layout.column.decode example0201) = 0x50 ∧
    Fmt.bf16.encode .rne false (Layout.column.decode example0201) = 0x4102 := by decide +kernel

/-- The ASCII bytes "123456789". -/
def nine : List (BitVec 8) := [0x31, 0x32, 0x33, 0x34, 0x35, 0x36, 0x37, 0x38, 0x39]

-- Table 11.24: the results over "123456789".
theorem test_crc32c : nine.foldl crc32Byte 0xFFFFFFFF ^^^ 0xFFFFFFFF = 0xE3069283 := by decide +kernel
theorem test_crc64 : crc64Run ones64 nine ^^^ ones64 = 0x995DC9BBDF1939FA := by decide +kernel

/-- What a command leaves of a state. -/
def after {α : Type} (o : Host.Outcome State Fault Refusal) (f : State → α) : Option α :=
  match o with
  | .next t => some (f t)
  | _ => none

-- R159: v4 = v0 + v2 modulo 2^32, by hand.
theorem test_iadd_wraps :
    after (exec (.iadd at0 h0 (fR 1 0)) (tstGroup fun g => (g.setV 0 0 0xFFFFFFFF).setV 2 0 3)) (fun t => ((t.core 0).group 0).v 4 0) =
      some 2 := by decide +kernel
-- R156: under a false guard nothing is written, and the program counter advances (R112).
theorem test_guard_false :
    after (exec (.iadd at0 hNone (fR 1 0)) (tstGroup fun g => (g.setV 0 0 5).setV 4 0 9))
      (fun t => (((t.core 0).group 0).v 4 0, ((t.core 0).group 0).pc 0)) = some (9, 8) := by decide +kernel
-- R52: FP32 1.5 + 2.25 = 3.75.
theorem test_fadd :
    after (exec (.fadd at0 h0 (fR 8 0)) (tstGroup fun g => (g.setV 0 0 0x3FC00000).setV 2 0 0x40100000))
      (fun t => ((t.core 0).group 0).v 4 0) = some 0x40700000 := by decide +kernel
-- R160: BF16 1.0 to FP32 1.0.
theorem test_cvt :
    after (exec (.cvt at0 h0 (fC 0 0)) (tstGroup fun g => g.setV 0 0 0x3F80)) (fun t => ((t.core 0).group 0).v 4 0) =
      some 0x3F800000 := by decide +kernel
-- R143, Table 04.5: TRAP ends the task with PROGRAM_FAULT.
theorem test_trap :
    after (exec (.trap at0 h0 (fB 0)) tst) (fun t => (t.core 0).task.map fun k => (k.phase, k.status)) =
      some (some (.trapped, stProgram)) := by decide +kernel
-- R168: ST of v4 to local memory, little-endian.
theorem test_st_local :
    after (exec (.st at0 h0 (fM 1 2 0 0)) (tstGroup fun g => g.setV 4 0 0x04030201)) (fun t => (t.core 0).lmRead 0 4) =
      some [1, 2, 3, 4] := by decide +kernel
-- R541, R552: a second posted write while PKB_BUSY is 1 is dropped and counted.
theorem test_pkb_busy :
    after (exec (.pwrCapWrite 0 1000) (tst.modPort 0 fun p => { p with pkbBusy := true }))
      (fun t => (t.power.capStored, (look 0 (t.func 0).errBusy 0 : BitVec 16))) = some (1800, 1) := by decide +kernel
-- R536: an access of a size that BAR0 does not take answers Completer Abort and is counted.
theorem test_rejected_read :
    after (exec (.rejectedRead 0 0 2 4) tst) (fun t => ((t.port 0).answer, (look 0 (t.func 0).errSize 0 : BitVec 16))) =
      some (none, 1) := by decide +kernel
-- R494: a trip takes every cluster OFF.
theorem test_trip :
    after (exec (.trip 1 2 0 0 920) tst) (fun t => (t.boot.state, (t.cluster 0).clk, t.boot.fuses.trips)) =
      some (.tripped, .off, 1) := by decide +kernel
-- Example 16.1: P1_RXN[9] is land BU91, its partner BU92, the transmit pair BU95 and BU94; R563: SNS_VIN_P is DY33.
theorem test_example_16_1 :
    landRow (laneLand 1 9 .rxn).row = ['B', 'U'] ∧ (laneLand 1 9 .rxn).col = 91 ∧ (laneLand 1 9 .rxp).col = 92 ∧
    (laneLand 1 9 .txp).col = 95 ∧ (laneLand 1 9 .txn).col = 94 ∧ landRow (senseLand 0 false).row = ['D', 'Y'] ∧
    (senseLand 0 false).col = 33 := by decide
-- The step takes the command at the front, and runs nothing on an empty queue.
theorem test_step : after (step { tst with pending := [.linkIdleFlit 4 {}, .settingsSave []] }) (fun _ => ()) = none ∧
    after (step tst) (fun t => t.pending) = some [] := by decide +kernel
end Sys2Proof.Tests
end

section
/-! PROOF. The end of an outstanding access (R155, R186), and the expiry of an L1 line (R190). -/

namespace Sys2Proof.Machine

/-! ### Little-endian numbers -/

/-- The first `n` bytes of a number are its residue modulo 256^n; the others come above them (R12). -/
theorem natOf_take_add_drop (n : Nat) (bs : List Byte) :
    natOf (bs.take n) + 256 ^ n * natOf (bs.drop n) = natOf bs := by
  induction n generalizing bs with
  | zero => simp [natOf]
  | succ n ih =>
    cases bs with
    | nil => simp [natOf]
    | cons b r =>
      simp only [List.take_succ_cons, List.drop_succ_cons, natOf, ← ih r, pow_succ]
      ring

theorem bits32_natOf (bs : List Byte) : bits 32 (natOf bs) = BitVec.ofNat 32 (natOf (bs.take 4)) := by
  apply BitVec.eq_of_toNat_eq
  simp only [bits, BitVec.toNat_ofNat]
  have h := natOf_take_add_drop 4 bs
  omega

/-! ### The L1 -/

/-- An expiry takes the named line out of the L1 and leaves every other one. -/
theorem Core.l1Remove_l1At (c : Core) (n j : Nat) : (c.l1Remove n).l1At j = if j = n then none else c.l1At j := by
  unfold Core.l1Remove Core.l1At
  by_cases hset : l1Set j = l1Set n
  · simp only [hset, look_put_same, List.find?_filter]
    by_cases hj : j = n
    · subst hj
      simp
    · simp only [if_neg hj]
      congr 1
      funext x
      by_cases hx : x.line = j <;> simp [hx, hj]
  · have hj : j ≠ n := fun e => hset (e ▸ rfl)
    simp [look_put_ne _ _ _ _ hset, hj]

theorem l1LineExpiry_removes {s : State} {l n : Nat} (hl : l < 512) (hn : (s.core l).l1At n ≠ none) :
    execL1LineExpiry l n s = .next (s.modCore l fun c => c.l1Remove n) := by
  simp [execL1LineExpiry, unit, need, hl, Option.isSome_iff_ne_none, hn]

/-! ### Threads at a fence -/

/-- No thread of the group waits at a fence. -/
def Group.noFence (g : Group) : Prop := ∀ t, t < 32 → ∀ x, g.wait t ≠ .fence x

theorem Group.fenceWaiters_eq_nil (g : Group) : g.fenceWaiters = [] ↔ g.noFence := by
  simp only [Group.fenceWaiters, Group.noFence, List.filter_eq_nil_iff, List.mem_range]
  refine forall₂_congr fun t _ => ?_
  cases g.wait t <;> simp

theorem Group.setWait_wait (g : Group) (t j : Nat) (w : WaitReason) :
    (g.setWait t w).wait j = if j = t then w else g.wait j := by
  simp only [Group.setWait, Group.wait, look_put]

theorem Group.noFence_setWait_none {g : Group} (h : g.noFence) (t : Nat) : (g.setWait t .none).noFence := by
  intro j hj x
  rw [Group.setWait_wait]
  split
  · simp
  · exact h j hj x

theorem Group.noFence_loadDone {g : Group} (h : g.noFence) (o : Outst) : (g.loadDone o).noFence := by
  have hw : (if o.uniform then { g with pendU := g.pendU.filter (· != o.dest) }
      else { g with pendV := g.pendV.filter fun r => !(dataRegs o.size o.dest).contains r }).noFence := by
    split <;> exact h
  unfold Group.loadDone
  dsimp only
  split
  · refine List.foldlRecOn _ _ hw fun g' hg' t _ => ?_
    split
    · exact Group.noFence_setWait_none hg' t
    · exact hg'
  · exact hw

/-- Returned data changes no wait. -/
theorem Group.noFence_loadInto {g : Group} (h : g.noFence) (o : Outst) (t : Nat) (d : List Byte) : (g.loadInto o t d).noFence := by
  unfold Group.loadInto
  dsimp only
  split
  · exact h
  · exact List.foldlRecOn _ _ h fun _ hg _ _ => hg

/-- Where no thread of a core waits at a fence, there is no fence to complete. -/
theorem State.fenceSettle_noFence {s : State} {l : Nat} (h : ∀ g, ((s.core l).group g).noFence) : s.fenceSettle l = s := by
  unfold State.fenceSettle each
  refine List.foldlRecOn (motive := fun t => t = s) _ _ rfl fun t ht gi _ => ?_
  subst ht
  simp [(Group.fenceWaiters_eq_nil _).2 (h gi)]

/-- A core with no requested pre-emption goes on with its task. -/
theorem State.preemptTry_none {s : State} {l : Nat} (h : (s.core l).urgent = none) : s.preemptTry l = s := by
  simp [State.preemptTry, h]

/-! ### Parts that have their data -/

/-- The part has its data: it was performed and met neither an error nor a lost codeword. -/
def LoadPiece.Held (p : LoadPiece) : Prop := p.bad = none ∧ p.lost = none ∧ p.value ≠ none

/-- The data of a part; none before the access has been performed. -/
def LoadPiece.data (p : LoadPiece) : List Byte := p.value.getD []

theorem State.pieceReturn_held {p : LoadPiece} (h : p.Held) (s : State) (l : Nat) (t : Task) (o : Outst) :
    s.pieceReturn l t o p = { s := s, value := p.data } := by
  obtain ⟨hbad, hlost, hval⟩ := h
  obtain ⟨d, hd⟩ := Option.ne_none_iff_exists'.1 hval
  simp [State.pieceReturn, LoadPiece.data, hbad, hlost, hd]

/-- Parts that have their data return it and leave the state alone. -/
theorem State.piecesReturn_held {ps : List LoadPiece} (h : ∀ p ∈ ps, p.Held) (s : State) (l : Nat) (t : Task) (o : Outst) :
    s.piecesReturn l t o ps = (s, ps.map fun p => (p.thread, { s := s, value := p.data })) := by
  induction ps with
  | nil => rfl
  | cons p r ih =>
    rw [List.forall_mem_cons] at h
    simp [State.piecesReturn, State.pieceReturn_held h.1, ih h.2]

/-- The data of all parts of an access written to the registers. -/
def Group.loadPieces (g : Group) (o : Outst) (ps : List LoadPiece) : Group :=
  ps.foldl (fun g p => g.loadInto o p.thread p.data) g

theorem Group.noFence_loadPieces {g : Group} (h : g.noFence) (o : Outst) (ps : List LoadPiece) : (g.loadPieces o ps).noFence :=
  List.foldlRecOn _ _ h fun _ hg p _ => Group.noFence_loadInto hg o p.thread p.data

/-- A 4-byte part writes its thread's destination register: the 32-bit little-endian value of its data (R12, R166). -/
theorem Group.loadInto_word {o : Outst} (hu : o.uniform = false) (hs : o.size = 4) (g : Group) (t : Nat) (d : List Byte) :
    g.loadInto o t d = g.setV o.dest t (BitVec.ofNat 32 (natOf (d.take 4))) := by
  simp [Group.loadInto, loadValue, hu, hs, List.range_succ, bits32_natOf]

/-- After 4-byte parts of distinct threads have returned, each one's thread holds its value. -/
theorem Group.loadPieces_v {o : Outst} (hu : o.uniform = false) (hs : o.size = 4) {ps : List LoadPiece}
    (ht : ∀ p ∈ ps, p.thread < 32) (hnd : (ps.map (fun p => p.thread)).Nodup) (g : Group) {p : LoadPiece} (hp : p ∈ ps) :
    (g.loadPieces o ps).v o.dest p.thread = BitVec.ofNat 32 (natOf (p.data.take 4)) := by
  induction ps using List.reverseRecOn with
  | nil => simp at hp
  | append_singleton r last ih =>
    have hstep : g.loadPieces o (r ++ [last]) =
        (g.loadPieces o r).setV o.dest last.thread (BitVec.ofNat 32 (natOf (last.data.take 4))) := by
      simp [Group.loadPieces, Group.loadInto_word hu hs]
    simp only [List.map_append, List.nodup_append, List.map_cons, List.map_nil, List.mem_singleton, forall_eq] at hnd
    obtain ⟨hndr, -, hlast⟩ := hnd
    rw [hstep, Group.setV_v _ _ (ht last (by simp)) (ht p hp)]
    rcases List.mem_append.1 hp with hr | hl
    · have hne : p.thread ≠ last.thread := hlast p.thread (List.mem_map_of_mem hr)
      simp [hne, ih (fun x hx => ht x (List.mem_append_left _ hx)) hndr hr]
    · simp [List.mem_singleton.1 hl]

/-! ### DATA_RETURN -/

/-- DATA_RETURN of an access whose parts are ready answers a next state, whatever the parts have met. -/
theorem dataReturn_answers {s : State} {l i : Nat} {o : Outst} {τ : Task} (hl : l < 512)
    (ho : (s.core l).outst[i]? = some o) (hτ : (s.core l).task = some τ)
    (hready : ∀ p ∈ o.pieces, s.pieceReady l o p = true) : ∃ t, execDataReturn l i s = .next t := by
  simp only [execDataReturn, unit, need, if_pos hl, ho, hτ, List.all_eq_true.2 hready, if_true]
  split
  · exact ⟨_, rfl⟩
  · split
    · exact ⟨_, rfl⟩
    · split
      · exact ⟨_, rfl⟩
      · split <;> exact ⟨_, rfl⟩

/-- The fabric requests of an access forgotten. -/
def State.forgetLoad (s : State) (l : Nat) (o : Outst) : State :=
  o.pieces.foldl (fun s p => s.fabForget (.load l o.group o.dest p.thread)) s

@[simp] theorem State.forgetLoad_core (s : State) (l : Nat) (o : Outst) (j : Nat) : (s.forgetLoad l o).core j = s.core j :=
  List.foldlRecOn (motive := fun t : State => t.core j = s.core j) _ _ rfl fun _ ht _ _ => ht

/-- The core of an access whose data is written: it is no longer outstanding, and an acquire invalidates the L1 (R155, R186,
R202). -/
def Core.loadEnd (c : Core) (i : Nat) (o : Outst) : Core :=
  let c := { c.modGroup o.group (·.loadDone o) with outst := c.outst.eraseIdx i }
  let c := c.modGroup o.group (·.loadPieces o o.pieces)
  if o.acquire then { c with l1 := [] } else c

@[simp] theorem Core.loadEnd_outst (c : Core) (i : Nat) (o : Outst) : (c.loadEnd i o).outst = c.outst.eraseIdx i := by
  unfold Core.loadEnd
  dsimp only
  split <;> rfl

@[simp] theorem Core.loadEnd_urgent (c : Core) (i : Nat) (o : Outst) : (c.loadEnd i o).urgent = c.urgent := by
  unfold Core.loadEnd
  dsimp only
  split <;> rfl

theorem Core.loadEnd_group (c : Core) (i : Nat) (o : Outst) (j : Nat) :
    (c.loadEnd i o).group j = if j = o.group then ((c.group j).loadDone o).loadPieces o o.pieces else c.group j := by
  have hdone : (c.loadEnd i o).group j =
      ((c.modGroup o.group (·.loadDone o)).modGroup o.group (·.loadPieces o o.pieces)).group j := by
    unfold Core.loadEnd
    dsimp only
    split <;> rfl
  rw [hdone]
  by_cases hj : j = o.group <;> simp [hj]

theorem Core.noFence_loadEnd {c : Core} (h : ∀ g, (c.group g).noFence) (i : Nat) (o : Outst) (j : Nat) :
    ((c.loadEnd i o).group j).noFence := by
  rw [Core.loadEnd_group]
  split
  · exact Group.noFence_loadPieces (Group.noFence_loadDone (h j) o) o o.pieces
  · exact h j

/-- The state in which an access has ended: its requests are forgotten, and its data is in the registers. -/
def State.loadEnd (s : State) (l i : Nat) (o : Outst) : State :=
  let s := (s.forgetLoad l o).modCore l fun c => { c.modGroup o.group (·.loadDone o) with outst := c.outst.eraseIdx i }
  let s := s.modCore l (·.modGroup o.group (·.loadPieces o o.pieces))
  if o.acquire then s.l1Clear l else s

@[simp] theorem State.loadEnd_core (s : State) (l i : Nat) (o : Outst) : (s.loadEnd l i o).core l = (s.core l).loadEnd i o := by
  unfold State.loadEnd Core.loadEnd
  dsimp only
  split <;> simp [State.l1Clear]

/-- An access whose parts all have their data ends in the registers; with no pre-empted task, no requested pre-emption and no
thread at a fence, nothing else of the core goes on. -/
theorem dataReturn_held {s : State} {l i : Nat} {o : Outst} {τ : Task} (hl : l < 512)
    (ho : (s.core l).outst[i]? = some o) (hτ : (s.core l).task = some τ)
    (hready : ∀ p ∈ o.pieces, s.pieceReady l o p = true) (hframe : (s.core l).frame = none)
    (hurgent : (s.core l).urgent = none) (hfence : ∀ g, ((s.core l).group g).noFence) (hheld : ∀ p ∈ o.pieces, p.Held) :
    execDataReturn l i s = .next (s.loadEnd l i o) := by
  have hsettle : ((s.loadEnd l i o).fenceSettle l).preemptTry l = s.loadEnd l i o := by
    rw [State.fenceSettle_noFence (State.loadEnd_core s l i o ▸ Core.noFence_loadEnd hfence i o),
      State.preemptTry_none (by simp [hurgent])]
  have hlost : ((o.pieces.map fun p => (p.thread, ({ s := s, value := p.data } : PieceOut))).findSome? fun r => r.2.lost) = none := by
    simp
  have hbad : ((o.pieces.map fun p => (p.thread, ({ s := s, value := p.data } : PieceOut))).filter fun r => r.2.bad.isSome) = [] := by
    simp
  simp only [execDataReturn, unit, need, if_pos hl, ho, hτ, List.all_eq_true.2 hready, if_true, hframe, ite_self,
    State.piecesReturn_held hheld, hlost, hbad, List.filterMap_nil, worstOf, List.foldl_nil, Option.isSome_none, List.foldl_map,
    Bool.false_eq_true, if_false]
  exact congrArg Host.Outcome.next hsettle

end Sys2Proof.Machine

open Sys2Proof Sys2Proof.Machine

/-- Settles O11: the returned pieces leave the state to the registers alone (`dataReturn_held`), and an expiry removes one line. -/
theorem returnedDataEndsTheAccess : Obligations.ReturnedDataEndsTheAccess := by
  unfold Obligations.ReturnedDataEndsTheAccess
  refine ⟨fun s l i o τ hl ho hτ hready => ⟨dataReturn_answers hl ho hτ hready, ?_⟩, ?_⟩
  · intro hframe hurgent hfence hheld
    have hnext := dataReturn_held hl ho hτ hready hframe hurgent (fun g => (Group.fenceWaiters_eq_nil _).1 (hfence g)) hheld
    refine ⟨_, hnext, by simp, fun hu hs hlt hnd p hp bs hbs => ?_⟩
    have hv := Group.loadPieces_v hu hs hlt hnd (((s.core l).group o.group).loadDone o) hp
    rw [State.loadEnd_core, Core.loadEnd_group, if_pos rfl, hv, LoadPiece.data, hbs, Option.getD_some]
  · intro s l n hl hn
    refine ⟨_, l1LineExpiry_removes hl hn, rfl, fun j hj => by simp [hj], by simp [Core.l1Remove], fun j => ?_⟩
    rw [State.modCore_core, if_pos rfl, Core.l1Remove_l1At]

end

section
/-! PROOF. Descriptors in progress, and what ends them (R16, R388, R390, R391, R402, R424). -/

namespace Sys2Proof.Machine

/-! ### Statuses -/

theorem worstOf_append_singleton (r : List (BitVec 8)) (last : BitVec 8) :
    worstOf (r ++ [last]) = some ((worstOf r).elim last (worse · last)) := by
  unfold worstOf
  rw [List.foldl_append]
  generalize List.foldl _ none r = a
  cases a <;> rfl

/-- R16 selects one of the causes. -/
theorem worstOf_mem {l : List (BitVec 8)} {st : BitVec 8} (h : worstOf l = some st) : st ∈ l := by
  induction l using List.reverseRecOn generalizing st with
  | nil => simp [worstOf] at h
  | append_singleton r last ih =>
    rw [worstOf_append_singleton] at h
    cases hr : worstOf r with
    | none => simp_all
    | some a =>
      have ha := ih hr
      simp only [hr, Option.elim_some, Option.some.injEq, worse] at h
      split at h <;> simp [← h, ha]

/-- No cause that ends a LAUNCH at its checks is DONE. -/
theorem launchBad_ne_done {s : State} {q : Nat} {d : Desc} {st : BitVec 8} (h : worstOf (s.launchBad q d) = some st) : st ≠ stDone := by
  have hmem : st = stBadDesc ∨ st = stCapacity := by
    have h := worstOf_mem h
    simp only [State.launchBad, List.mem_append] at h
    rcases h with h | h
    · split at h <;> simp_all
    · split at h <;> simp_all
  rcases hmem with rfl | rfl <;> decide

/-! ### A descriptor found again after a change -/

theorem State.live?_index {s : State} {q i : Nat} {d : Desc} (h : s.live? q i = some d) : d.index.toNat = i := by
  have hfind : (s.queue q).descs.find? (fun d => d.index.toNat == i) = some d := h
  simpa using List.find?_some hfind

/-- A change that keeps the index is found in the descriptor that was live. -/
theorem State.modDesc_desc? {s : State} {q i : Nat} {d : Desc} {g : Desc → Desc} (hg : ∀ x, (g x).index = x.index)
    (h : s.live? q i = some d) : (s.modDesc q i g).desc? q i = some (g d) := by
  have hfind : (s.queue q).descs.find? (fun d => d.index.toNat == i) = some d := h
  have hany : ((s.queue q).descs.any fun d => d.index.toNat == i) = true :=
    List.any_eq_true.2 ⟨d, List.mem_of_find?_eq_some hfind, by simp [State.live?_index h]⟩
  have hkeep : ((fun d : Desc => d.index.toNat == i) ∘ fun d : Desc => if d.index.toNat = i then g d else d) =
      fun d => d.index.toNat == i := by
    funext x
    by_cases hx : x.index.toNat = i <;> simp [hx, hg]
  simp only [State.modDesc, State.desc?, State.modQueue_queue, if_true, if_pos hany, List.find?_append, List.find?_map, hkeep,
    hfind, Option.map_some, Option.some_or, State.live?_index h]

/-! ### Ends -/

/-- A descriptor in progress that ends has the status it ends with, DONE_RECOVERED for DONE after a recovery (R16, R424). -/
theorem State.descEnd_desc? {s : State} {q i : Nat} {d : Desc} (h : s.live? q i = some d) (hr : d.phase = .running)
    (st : BitVec 8) (r : BitVec 64) : (s.descEnd q i st r).desc? q i =
      some { d with phase := .finished (if st = stDone && decide (0 < d.recov) then stRecovered else st) r } := by
  unfold State.descEnd
  refine (State.modDesc_desc? (fun x => ?_) h).trans ?_
  · split <;> rfl
  · rw [hr]

theorem ended_of_desc? {t : State} {q i : Nat} {d : Desc} {st : BitVec 8} {r : BitVec 64} (h : t.desc? q i = some d)
    (hd : d.phase = .finished st r) : Ended t q i st r := by
  intro x hx
  obtain rfl : d = x := Option.some.inj (h.symm.trans hx)
  exact hd

section InProgress

variable {s : State} {q : Nat} {d : Desc} {opc : Nat}

theorem InProgress.queue_lt (h : InProgress s q d opc) : q < queueCount := h.1
theorem InProgress.live (h : InProgress s q d opc) : s.live? q d.index.toNat = some d := h.2.2.1
theorem InProgress.opc_eq (h : InProgress s q d opc) : d.opc = opc := h.2.2.2.1
theorem InProgress.running (h : InProgress s q d opc) : d.phase = .running := h.2.2.2.2.1

/-- DONE becomes DONE_RECOVERED exactly where the descriptor was recovered (R424). -/
theorem InProgress.descEnd_done (h : InProgress s q d opc) (r : BitVec 64) :
    Ended (s.descEnd q d.index.toNat stDone r) q d.index.toNat (if d.recov = 0 then stDone else stRecovered) r := by
  refine ended_of_desc? (State.descEnd_desc? h.live h.running stDone r) ?_
  by_cases hrec : d.recov = 0 <;> simp [hrec, Nat.pos_iff_ne_zero]

/-- A failing descriptor ends with the status of its failure. -/
theorem InProgress.descFail_ended (h : InProgress s q d opc) {st : BitVec 8} (hst : st ≠ stDone) :
    Ended (s.descFail q d.index.toNat st) q d.index.toNat st 0 := by
  have hend : (s.descFail q d.index.toNat st).desc? q d.index.toNat = (s.descEnd q d.index.toNat st 0).desc? q d.index.toNat := rfl
  exact ended_of_desc? (hend.trans (State.descEnd_desc? h.live h.running st 0)) (by simp [hst])

theorem InProgress.badDesc_ended (h : InProgress s q d opc) :
    Ended (s.descFail q d.index.toNat stBadDesc) q d.index.toNat stBadDesc 0 := h.descFail_ended (by decide)

/-! ### Commands about a descriptor -/

/-- A descriptor in progress runs its step: its start conditions are behind it. -/
theorem InProgress.onDesc_eq (h : InProgress s q d opc) (room : State → Bool) (k : Desc → State → State) :
    onDesc opc q d.index.toNat room k s = .next (k d s) := by
  obtain ⟨hq, hup, hlive, hopc, hrun, hlost⟩ := h
  have hsame : { d with phase := .running, lostWait := false } = d := by rw [← hrun, ← hlost]
  simp [onDesc, unit, need, hq, hup, hlive, hopc, hrun, hlost, hsame]

/-- A descriptor that holds an engine goes on with it. -/
theorem InProgress.hubDesc_eq (h : InProgress s q d opc) (kind : Nat) {holds : Desc → Bool} (hh : holds d = true)
    (room : State → Bool) (k : Desc → State → State) :
    hubDesc kind opc q d.index.toNat holds room k s = .next (k d s) := by
  simp [hubDesc, unit, h.queue_lt, h.live, hh, h.onDesc_eq]

/-! ### The commands of descriptors in progress -/

theorem InProgress.nop_ends (h : InProgress s q d 0) :
    execNopDescriptor q d.index.toNat s = .next (s.descEnd q d.index.toNat stDone 0) := h.onDesc_eq _ _

/-- A LAUNCH whose ranges are not yet loaded makes its checks; the worst cause ends it (R16, R391). -/
theorem InProgress.launch_checks (h : InProgress s q d 1) (hload : d.launch.loaded = false) :
    ∃ t, execLaunch q d.index.toNat s = .next t ∧
      ∀ st, worstOf (s.launchBad q d) = some st → t = s.descFail q d.index.toNat st := by
  have hneed : (!((s.live? q d.index.toNat).elim false (·.launch.loaded))) = true := by simp [h.live, hload]
  refine ⟨_, (if_pos hneed).trans (h.onDesc_eq _ _), fun st hst => ?_⟩
  simp only [hst]

/-- A COPY or FILL in progress goes on, or ends with its bad fields (R390, Table 11.20). -/
theorem InProgress.move_eq (h : InProgress s q d opc) (n : Nat) : moveDesc opc q d.index.toNat n s =
    .next (if d.moveBad then s.descFail q d.index.toNat stBadDesc else s.movePiecesN q d.index.toNat d n) :=
  h.hubDesc_eq 0 (by simp [h.running]) _ _

theorem InProgress.move_bad (h : InProgress s q d opc) (n : Nat) :
    ∃ t, moveDesc opc q d.index.toNat n s = .next t ∧ (d.moveBad = true → Ended t q d.index.toNat stBadDesc 0) := by
  refine ⟨_, h.move_eq n, fun hbad => ?_⟩
  rw [if_pos hbad]
  exact h.badDesc_ended

/-- A CHECK on a unit goes on, or ends with a reserved algorithm or a length out of range (R404). -/
theorem InProgress.check_bad (h : InProgress s q d 4) (hunit : d.check.onUnit = true) (n : Nat) :
    ∃ t, execCheck q d.index.toNat n s = .next t ∧
      (4 ≤ d.chkAlg ∨ d.chkBytes = 0 ∨ 2 ^ 48 < d.chkBytes → Ended t q d.index.toNat stBadDesc 0) := by
  refine ⟨_, h.hubDesc_eq 1 hunit _ _, fun hbad => ?_⟩
  rw [if_pos (by simpa [or_assoc] using hbad)]
  exact h.badDesc_ended

theorem InProgress.collective_runs (h : InProgress s q d 5) :
    execCollective q d.index.toNat s = .next (s.collRun q d) := h.onDesc_eq _ _

/-- The step of a FENCE: BAD_DESCRIPTOR, the end, or nothing while an earlier descriptor is not over (R390). -/
theorem InProgress.fence_eq (h : InProgress s q d 6) : execFenceDescriptor q d.index.toNat s =
    .next (if fld d.bits 32 2 < 2 then s.descFail q d.index.toNat stBadDesc
      else if s.allBefore q d.index.toNat then s.descEnd q d.index.toNat stDone 0 else s) := h.onDesc_eq _ _

/-- A misaligned SIGNAL ends, and one with an earlier descriptor not over waits (R390). -/
theorem InProgress.signal_waits (h : InProgress s q d 7) : ∃ t, execSignal q d.index.toNat s = .next t ∧
    (d.wordAt % 8 ≠ 0 → Ended t q d.index.toNat stBadDesc 0) ∧
    (d.wordAt % 8 = 0 → s.allBefore q d.index.toNat = false → t = s) := by
  refine ⟨_, h.onDesc_eq _ _, fun hbad => ?_, fun hgood hbefore => ?_⟩
  · rw [if_pos hbad]
    exact h.badDesc_ended
  · simp [hgood, hbefore]

/-- A WAIT with bad fields ends (R390). -/
theorem InProgress.wait_bad (h : InProgress s q d 8) : ∃ t, execWait q d.index.toNat s = .next t ∧
    (d.wordAt % 8 ≠ 0 ∨ fld d.bits 32 2 = 3 → Ended t q d.index.toNat stBadDesc 0) := by
  refine ⟨_, h.onDesc_eq _ _, fun hbad => ?_⟩
  rw [if_pos (by simpa [Desc.waitBad] using hbad)]
  exact h.badDesc_ended

theorem InProgress.waitRecheck_runs (h : InProgress s q d 8) : ∃ t, execWaitRecheck q d.index.toNat s = .next t := by
  have hneed : ((s.live? q d.index.toNat).elim true (fun d => d.phase == .running)) = true := by simp [h.live, h.running]
  exact ⟨_, (if_pos hneed).trans (h.onDesc_eq _ _)⟩

end InProgress

/-- A fetched descriptor that may start answers a next state (R395). -/
theorem onDesc_starts {s : State} {opc q i : Nat} {d : Desc} {room : State → Bool} (k : Desc → State → State)
    (hq : q < queueCount) (hup : s.mainlandUp = true) (hlive : s.live? q i = some d) (hopc : d.opc = opc)
    (hlost : d.lostWait = false) (hstart : s.mayStart q d = true) (hroom : room s = true) :
    ∃ t, onDesc opc q i room k s = .next t := by
  simp [onDesc, unit, need, hq, hup, hlive, hopc, hlost, hstart, hroom]

/-- The choice of a descriptor for an engine moves the turns and nothing else (R396). -/
theorem State.hubChoose_turns {s s' : State} {kind q i : Nat} (h : s.hubChoose kind = some (q, i, s')) :
    s' = { s with hubTurns := s'.hubTurns } := by
  unfold State.hubChoose at h
  dsimp only at h
  split at h
  · obtain ⟨x, -, hx⟩ := Option.map_eq_some_iff.1 h
    cases hx
    rfl
  · split at h
    · cases h
    · obtain ⟨x, -, hx⟩ := Option.map_eq_some_iff.1 h
      cases hx
      rfl

/-- The fetched descriptor whose turn it is starts where an engine is free (R396, R402). -/
theorem hubDesc_starts {s s' : State} {kind opc q i : Nat} {d : Desc} {holds : Desc → Bool} {room : State → Bool}
    (k : Desc → State → State) (hq : q < queueCount) (hup : s.mainlandUp = true) (hlive : s.live? q i = some d)
    (hopc : d.opc = opc) (hlost : d.lostWait = false) (hstart : s.mayStart q d = true) (hh : holds d = false)
    (hturn : s.hubChoose kind = some (q, i, s')) (hroom : room s = true) :
    ∃ t, hubDesc kind opc q i holds room k s = .next t := by
  have hsame : s' = { s with hubTurns := s'.hubTurns } := State.hubChoose_turns hturn
  have hup' : s'.mainlandUp = true := by rw [hsame]; exact hup
  have hlive' : s'.live? q i = some d := by rw [hsame]; exact hlive
  have hstart' : s'.mayStart q d = true := by rw [hsame]; exact hstart
  obtain ⟨t, ht⟩ := onDesc_starts (room := fun _ => true) k hq hup' hlive' hopc hlost hstart' rfl
  exact ⟨t, by simp [hubDesc, unit, need, hq, hlive, hh, hturn, hroom, ht]⟩

end Sys2Proof.Machine

open Sys2Proof Sys2Proof.Machine

/-- Settles O44: each command's step from the lemmas of descriptors in progress (`InProgress.onDesc_eq`), each end by the
descriptor found again (`State.descEnd_desc?`), each start by the choice that moves the turns alone (`hubDesc_starts`). -/
theorem descriptorsRunAndEnd : Obligations.DescriptorsRunAndEnd := by
  unfold Obligations.DescriptorsRunAndEnd
  refine ⟨?nop, ?launch, ?copy, ?fill, fun s q d n h hunit => h.check_bad hunit n, ?start, ?collective, ?fence,
    fun s q d h => h.signal_waits, fun s q d h => h.wait_bad, ?recheck⟩
  case nop => exact fun s q d h => ⟨_, h.nop_ends, h.descEnd_done 0, rfl⟩
  case launch =>
    intro s q d h hload
    obtain ⟨t, ht, hbad⟩ := h.launch_checks hload
    exact ⟨t, ht, fun st hst => hbad st hst ▸ h.descFail_ended (launchBad_ne_done hst)⟩
  case copy =>
    intro n s q d h
    obtain ⟨t, ht, hend⟩ := h.move_bad n
    exact ⟨t, ht, fun hbad => hend (by simpa [Desc.moveBad, h.opc_eq] using hbad)⟩
  case fill =>
    intro n s q d h
    obtain ⟨t, ht, hend⟩ := h.move_bad n
    exact ⟨t, ht, fun hbad => hend (by simpa [Desc.moveBad, h.opc_eq, or_assoc] using hbad)⟩
  case start =>
    intro s s' q i d n hup hq hlive hfetched hlost hstart
    refine ⟨fun hturn hfree => ⟨fun hopc => ?_, fun hopc => ?_⟩, fun hturn hfree hunit hopc => ?_⟩
    · exact hubDesc_starts _ hq hup hlive hopc hlost hstart (by simp [hfetched]) hturn hfree
    · exact hubDesc_starts _ hq hup hlive hopc hlost hstart (by simp [hfetched]) hturn hfree
    · exact hubDesc_starts _ hq hup hlive hopc hlost hstart hunit hturn hfree
  case collective => exact fun s q d h => ⟨_, h.collective_runs, False.elim⟩
  case fence =>
    intro s q d h
    refine ⟨_, h.fence_eq, fun hbad => ?_, fun hscope hbefore => ?_, fun hscope hbefore => ?_⟩
    · rw [if_pos hbad]
      exact h.badDesc_ended
    · rw [if_neg (by omega), if_pos hbefore]
      exact h.descEnd_done 0
    · rw [if_neg (by omega), hbefore, if_neg Bool.false_ne_true]
  case recheck =>
    intro s q d h
    obtain ⟨t, ht⟩ := h.waitRecheck_runs
    exact ⟨t, ht, False.elim⟩

end

section
/-! PROOF. The random value of stochastic rounding (R46). -/

namespace Sys2Proof.Machine

/-- The first line of R46 on numbers is the same line on 32-bit words. -/
theorem srRandom_seedMix (seed i j : BitVec 32) (p q : Nat) :
    (seed.toNat ^^^ (i.toNat * p % 2 ^ 32) ^^^ (j.toNat * q % 2 ^ 32)) % 2 ^ 32 =
      (seed ^^^ i * BitVec.ofNat 32 p ^^^ j * BitVec.ofNat 32 q).toNat := by
  have hmul (x : BitVec 32) (n : Nat) : x.toNat * n % 2 ^ 32 = (x * BitVec.ofNat 32 n).toNat := by
    rw [BitVec.toNat_mul, BitVec.toNat_ofNat, Nat.mul_mod_mod]
  rw [hmul, hmul, ← BitVec.toNat_xor, ← BitVec.toNat_xor, Nat.mod_eq_of_lt (BitVec.isLt _)]

/-- A xor-shift line of R46 followed by its multiplication, on numbers and on 32-bit words. -/
theorem xorShift_mul_toNat (x : BitVec 32) (n m : Nat) :
    (x.toNat ^^^ (x.toNat >>> n)) * m % 2 ^ 32 = ((x ^^^ (x >>> n)) * BitVec.ofNat 32 m).toNat := by
  rw [BitVec.toNat_mul, BitVec.toNat_xor, BitVec.toNat_ushiftRight, BitVec.toNat_ofNat, Nat.mul_mod_mod]

end Sys2Proof.Machine

open Sys2Proof Sys2Proof.Machine

/-- Settles O22: each line of R46 on numbers is the line on 32-bit words (`srRandom_seedMix`, `xorShift_mul_toNat`). -/
theorem stochasticRoundingValue : Obligations.StochasticRoundingValue := by
  unfold Obligations.StochasticRoundingValue
  intro seed i j
  simp only [srRandom, srRandom_seedMix, xorShift_mul_toNat]
  rw [BitVec.toNat_ushiftRight, BitVec.toNat_xor, BitVec.toNat_ushiftRight]

end

section
/-! PROOF. What the instructions that write a result or a predicate to each acting thread give, with sources and results as bit
vectors of the operand type (R150, R154, R159). -/

namespace Sys2Proof.Machine

/-! ### Source values fit their type -/

theorem Group.operand_lt (g : Group) (t : Ty) (r k : Nat) : g.operand t r k < 2 ^ t.w := by
  unfold Group.operand Group.v64 Ty.w
  split <;> omega

theorem FmtR.imm14_lt (f : FmtR) : f.imm14 < 2 ^ 14 := by
  unfold FmtR.imm14
  omega

/-- The low bits of an integer are below the power of two. -/
theorem lowBits_lt (w : Nat) (n : Int) : lowBits w n < 2 ^ w := by
  have hpos : (0 : Int) < 2 ^ w := by positivity
  have hlt := Int.emod_lt_of_pos n hpos
  have hnonneg := Int.emod_nonneg n hpos.ne'
  unfold lowBits
  zify
  omega

theorem Ty.w_of_not_isInt {t : Ty} (h : ¬t.isInt = true) : t.w = 32 := by
  revert h
  cases t <;> decide

/-- An immediate of 14 bits, extended or placed at the top of its type, fits the type (R154). -/
theorem immB_lt (t : Ty) {imm : Nat} (h : imm < 2 ^ 14) : immB t imm < 2 ^ t.w := by
  unfold immB
  split
  · exact lowBits_lt _ _
  · next hint =>
    rw [Ty.w_of_not_isInt hint]
    split <;> simp only [Nat.shiftLeft_eq] <;> omega

theorem FmtR.srcB_lt (f : FmtR) (g : Group) (t : Ty) (k : Nat) : f.srcB g t k < 2 ^ t.w := by
  unfold FmtR.srcB
  split
  · exact g.operand_lt t _ k
  · exact Nat.mod_lt _ (by positivity)
  · exact immB_lt t f.imm14_lt
  · exact Nat.mod_lt _ (by positivity)

@[simp] theorem FmtR.bitsA_toNat (f : FmtR) (c : Ctx) (k : Nat) : (f.bitsA c k).toNat = f.srcA c.g f.type k :=
  (BitVec.toNat_ofNat _ _).trans (Nat.mod_eq_of_lt (c.g.operand_lt _ _ _))

@[simp] theorem FmtR.bitsB_toNat (f : FmtR) (c : Ctx) (k : Nat) : (f.bitsB c k).toNat = f.srcB c.g f.type k :=
  (BitVec.toNat_ofNat _ _).trans (Nat.mod_eq_of_lt (f.srcB_lt _ _ _))

@[simp] theorem FmtR.bitsC_toNat (f : FmtR) (c : Ctx) (k : Nat) : (f.bitsC c k).toNat = f.srcC c.g f.type k :=
  (BitVec.toNat_ofNat _ _).trans (Nat.mod_eq_of_lt (c.g.operand_lt _ _ _))

/-! ### Results and predicates written -/

section Issued

variable {s : State} {site : Site} {h : Hdr} {n : Needs} {c : Ctx}

/-- An instruction that issues and writes `val` to the acting threads gives what `val` is as bits of its type. -/
theorem Issues.gives (hi : Issues s site h n c) {ty : Ty} {d len : Nat} {val : Nat → Nat} {out : Nat → BitVec ty.w}
    (hlen : n.len = len) (hval : ∀ k, BitVec.ofNat ty.w (val k) = out k) :
    Gives s ((s.retire c n).onGroup c (writeThreads ty d c.act val)) c ty d len out := by
  obtain rfl := hlen
  obtain ⟨hwritten, hframe⟩ := writeThreads_spec hi.ctx n ty d val
  refine ⟨fun k hk => ?_, hframe⟩
  rw [hwritten k hk, ← hval k]
  exact BitVec.eq_of_toNat_eq (by rw [BitVec.toNat_ofNat, BitVec.toNat_ofNat, Nat.mod_mod])

/-- An instruction that issues and writes a predicate of the acting threads gives it. -/
theorem Issues.givesPred (hi : Issues s site h n c) {i : BitVec 3} {len : Nat} {val out : Nat → Bool} (hlen : n.len = len)
    (hval : ∀ k, val k = out k) :
    GivesPred s ((s.retire c n).onGroup c (writePreds i.toNat c.act val)) c i.toNat len out := by
  obtain rfl := hlen
  obtain rfl := funext hval
  exact writePreds_spec hi.ctx n i val

end Issued

/-- A format R instruction computes `val` where its operation on numbers is `val` on bit vectors. -/
theorem computes_of_op {mk : Site → Hdr → FmtR → Instr} {sp : FmtR → RSpec} {op : FmtR → Ty → Nat → Nat → Nat → Nat}
    {val : (f : FmtR) → BitVec f.type.w → BitVec f.type.w → BitVec f.type.w → BitVec f.type.w}
    (hexec : ∀ site h f s, exec (mk site h f) s = rResult (sp f) (op f) site h f s)
    (hop : ∀ f a b c, BitVec.ofNat f.type.w (op f f.type a.toNat b.toNat c.toNat) = val f a b c) : Computes mk sp val := by
  intro s site h f c hi
  refine ⟨_, (hexec site h f s).trans (hi.issue_eq _), ?_⟩
  exact hi.gives rfl fun k => by rw [← hop, FmtR.bitsA_toNat, FmtR.bitsB_toNat, FmtR.bitsC_toNat]

/-- A format R instruction that writes p[PX] computes `val` where its test of numbers is `val` on bit vectors. -/
theorem computesPred_of_op {mk : Site → Hdr → FmtR → Instr} {sp : FmtR → RSpec} {op : FmtR → Ty → Nat → Nat → Bool}
    {val : (f : FmtR) → BitVec f.type.w → BitVec f.type.w → Bool}
    (hexec : ∀ site h f s, exec (mk site h f) s = rPred (sp f) (op f) site h f s)
    (hop : ∀ f a b, op f f.type a.toNat b.toNat = val f a b) : ComputesPred mk sp val := by
  intro s site h f c hi
  refine ⟨_, (hexec site h f s).trans (hi.issue_eq _), ?_⟩
  exact hi.givesPred rfl fun k => by rw [← hop, FmtR.bitsA_toNat, FmtR.bitsB_toNat]

end Sys2Proof.Machine

end

section
/-! PROOF. Comparisons, predicate logic, SEL and MOV (Table 05.9). -/

namespace Sys2Proof.Machine

/-! ### The orders that are compared -/

/-- A comparison of operands of which `lt` says that the first is less, `gt` that the second is, `eq` and `ne` that they are equal
or not. -/
theorem cmpBy_of_orders {lt gt eq ne : Bool} (hle : (lt || eq) = !gt) (hne : (!eq) = ne) : ∀ code,
    cmpBy code lt eq = match code with
      | 0 => eq | 1 => ne | 2 => lt | 3 => !gt | 4 => gt | _ => !lt
  | 0 => rfl
  | 1 => hne
  | 2 => rfl
  | 3 => hle
  | 4 => (congrArg not hle).trans (Bool.not_not gt)
  | _ + 5 => rfl

theorem sext_toNat {w : Nat} (hw : 0 < w) (x : BitVec w) : sext w x.toNat = x.toInt := by
  obtain ⟨n, rfl⟩ : ∃ n, w = n + 1 := ⟨w - 1, by omega⟩
  have hpow : 2 ^ (n + 1) = 2 * 2 ^ n := by ring
  simp only [sext, BitVec.toInt_eq_toNat_cond, Nat.mod_eq_of_lt x.isLt, Nat.add_sub_cancel]
  rw [hpow]
  push_cast
  split <;> split <;> omega

theorem Ty.w_pos (t : Ty) : 0 < t.w := by cases t <;> decide

/-- The integer of a type is the signed reading for an I type and the unsigned one for any other. -/
theorem Ty.int_toNat (t : Ty) (x : BitVec t.w) : t.int x.toNat = if t.signed then x.toInt else (x.toNat : Int) := by
  simp only [Ty.int, sext_toNat t.w_pos, Nat.mod_eq_of_lt x.isLt]

/-- Less in the order of a type: signed for I types. -/
def Ty.less (t : Ty) (x y : BitVec t.w) : Bool := if t.signed then x.slt y else x.ult y

theorem Ty.int_lt (t : Ty) (x y : BitVec t.w) : decide (t.int x.toNat < t.int y.toNat) = t.less x y := by
  rw [t.int_toNat, t.int_toNat, Ty.less]
  split
  · rw [BitVec.slt_eq_decide]
  · simp only [BitVec.ult_eq_decide, Nat.cast_lt]

theorem Ty.int_inj (t : Ty) (x y : BitVec t.w) : t.int x.toNat = t.int y.toNat ↔ x = y := by
  rw [t.int_toNat, t.int_toNat]
  split
  · exact BitVec.toInt_inj
  · rw [Nat.cast_inj, BitVec.toNat_inj]

theorem Ty.int_eq (t : Ty) (x y : BitVec t.w) : decide (t.int x.toNat = t.int y.toNat) = (x == y) := by
  rw [decide_eq_decide.2 (t.int_inj x y)]
  rfl

/-- The order of a type is total. -/
theorem Ty.less_or_eq (t : Ty) (x y : BitVec t.w) : (t.less x y || x == y) = !t.less y x := by
  rw [← t.int_lt, ← t.int_lt, ← t.int_eq, Bool.eq_iff_iff]
  simp only [Bool.or_eq_true, decide_eq_true_eq, Bool.not_eq_true', decide_eq_false_iff_not]
  omega

theorem magLt_asymm {m n : Nat} {e f : Int} (h : magLt m e n f = true) : magLt n f m e = false := by
  simp only [magLt, decide_eq_true_eq, decide_eq_false_iff_not] at h ⊢
  rw [min_comm f e]
  exact h.asymm

/-- Finite values that are not both zero compare by their signs, then by their magnitudes. -/
theorem Val.fin_lt {m n : Nat} (h : ¬(m = 0 ∧ n = 0)) (s t : Bool) (e f : Int) :
    (Val.fin s m e).lt (.fin t n f) = if s = t then (if s then magLt n f m e else magLt m e n f) else s := by
  have hzero : (decide (m = 0) && decide (n = 0)) = false := by simpa using h
  cases s <;> cases t <;> simp [Val.lt, hzero]

/-- The order of exact values is asymmetric. -/
theorem Val.lt_asymm {x y : Val} (h : x.lt y = true) : y.lt x = false := by
  cases x with
  | nan => simp [Val.lt] at h
  | inf s =>
    cases y with
    | nan => rfl
    | inf t => cases s <;> cases t <;> simp_all [Val.lt]
    | fin t n f => simp_all [Val.lt]
  | fin s m e =>
    cases y with
    | nan => rfl
    | inf t => simp_all [Val.lt]
    | fin t n f =>
      have hzero : ¬(m = 0 ∧ n = 0) := by
        rintro ⟨rfl, rfl⟩
        simp [Val.lt] at h
      have hzero' : ¬(n = 0 ∧ m = 0) := fun hz => hzero hz.symm
      rw [Val.fin_lt hzero] at h
      rw [Val.fin_lt hzero']
      by_cases hsign : s = t
      · subst hsign
        cases s <;> exact magLt_asymm h
      · have hs : s = true := by simpa [hsign] using h
        rw [if_neg (Ne.symm hsign)]
        simpa [hs] using Ne.symm hsign

/-- Of two values that are not NaN, not less and not incomparable is greater. -/
theorem Val.lt_or_incomparable (x y : Val) : (x.lt y || (!x.lt y && !y.lt x)) = !y.lt x := by
  cases h : x.lt y with
  | false => rfl
  | true => rw [Val.lt_asymm h]; rfl

/-- ICMP compares bit vectors in the order of their type. -/
theorem icmp_toNat (t : Ty) (fn : BitVec 9) (a b : BitVec t.w) :
    icmp t fn a.toNat b.toNat = cmpBy (fn.toNat % 8) (t.less a b) (a == b) := by
  rw [icmp, t.int_lt, t.int_eq]

/-- PLOG reads bit 2·pa + pb of FN. -/
theorem plog_eq (fn : BitVec 9) (pa pb : Bool) : plog fn pa pb = fn.getLsbD (2 * pa.toNat + pb.toNat) := by
  rw [plog, Nat.mul_comm]
  rfl

end Sys2Proof.Machine

open Sys2Proof Sys2Proof.Machine

/-- Settles O3: ICMP and FCMP from the orders of their operands (`cmpBy_of_orders`), PLOG, SEL and MOV from what an issue
writes. -/
theorem selectAndCompareResults : Obligations.SelectAndCompareResults := by
  unfold Obligations.SelectAndCompareResults
  refine ⟨?icmp, ?fcmp, ?plog, ?sel, ?mov⟩
  case icmp =>
    refine computesPred_of_op (op := fun f t a b => icmp t f.fn a b) (fun _ _ _ _ => rfl) fun f a b => ?_
    exact (icmp_toNat f.type f.fn a b).trans (cmpBy_of_orders (f.type.less_or_eq a b) rfl _)
  case fcmp =>
    refine computesPred_of_op (op := fun f _ a b => fcmp f.fn a b) (fun _ _ _ _ => rfl) fun f a b => ?_
    exact if_congr Iff.rfl rfl (cmpBy_of_orders (Val.lt_or_incomparable _ _) (by simp) _)
  case plog =>
    intro s site h f c hi
    have hexec : exec (.plog site h f) s = execPlog site h f s := rfl
    refine ⟨_, hexec.trans (hi.issue_eq _), ?_⟩
    exact hi.givesPred rfl fun k => plog_eq _ _ _
  case sel =>
    intro s site h f c hi
    have hexec : exec (.sel site h f) s = execSel site h f s := rfl
    refine ⟨_, hexec.trans (hi.issue_eq _), ?_⟩
    exact hi.gives rfl fun k => apply_ite _ _ _ _
  case mov =>
    refine computes_of_op (op := fun _ _ _ b _ => b) (fun _ _ _ _ => rfl) fun f _ b _ => ?_
    rw [BitVec.ofNat_toNat, BitVec.setWidth_eq]

end

section
/-! PROOF. Floating-point arithmetic, special functions and conversions (R48 to R53, R159 to R162). -/

namespace Sys2Proof.Machine

/-! ### Floating-point arithmetic -/

/-- An instruction whose operation is one on exact values, rounded once, computes `floatOp` of its sources. -/
theorem computes_floatOp {mk : Site → Hdr → FmtR → Instr} {sp : RSpec} {op : Val → Val → Val → Val}
    (hexec : ∀ site h f s, exec (mk site h f) s = rResult sp (fun t a b c => floatOp t f.round op a b c) site h f s) :
    Computes mk (fun _ => sp) fun f a b c => BitVec.ofNat _ (floatOp f.type f.round op a.toNat b.toNat c.toNat) :=
  computes_of_op hexec fun _ _ _ _ => rfl

/-! ### Special functions -/

/-- A special function computes `sfuOp` of its source. -/
theorem computes_sfuOp {mk : Site → Hdr → FmtR → Instr} {o : Sfu}
    (hexec : ∀ site h f s, exec (mk site h f) s = rResult { floatSpec with b := false } (fun t a _ _ => sfuOp o t a) site h f s) :
    Computes mk (fun _ => { floatSpec with b := false }) fun f a _ _ => BitVec.ofNat _ (sfuOp o f.type a.toNat) :=
  computes_of_op (op := fun _ t a _ _ => sfuOp o t a) hexec fun _ _ _ _ => rfl

/-- At a special input the FP32 result is the one that Table 02.5 fixes. -/
theorem sfuOp_special {o : Sfu} {a : Nat} {r : Val} (h : o.special (fp32Val a) = some r) : sfuOp o .f32 a = fp32Of .rne r := by
  have hscalar : Ty.packed .f32 = false := rfl
  simp only [sfuOp, hscalar, Bool.false_eq_true, if_false, Sfu.fp32, h]

/-- FP32 bits above those of −0 and up to those of −Inf are negative and not zero. -/
theorem fp32Val_negative {a : Nat} (hlo : 0x80000000 < a) (hhi : a ≤ 0xFF800000) :
    fp32Val a = .inf true ∨ ∃ m e, m ≠ 0 ∧ fp32Val a = .fin true m e := by
  have hsign : a.testBit 31 = true := by
    rw [Nat.testBit_eq_decide_div_mod_eq, decide_eq_true_eq]
    omega
  have hexp : (a >>> 23) % 2 ^ 8 = a / 2 ^ 23 - 256 := by
    rw [Nat.shiftRight_eq_div_pow]
    omega
  simp only [fp32Val, Layout.decode, Layout.fp32, hsign]
  split
  · next hmax =>
    have hmant : a % 2 ^ 23 = 0 := by omega
    exact .inl (if_pos hmant)
  · right
    split
    · next hsub => exact ⟨_, _, by omega, rfl⟩
    · exact ⟨_, _, by omega, rfl⟩

/-- RSQ of a negative value is NaN (Table 02.5). -/
theorem Sfu.rsq_negative (m : Nat) (e : Int) (hm : m ≠ 0) : Sfu.special .rsq (.fin true m e) = some .nan := by
  simp only [Sfu.special, if_neg hm, if_true]

/-- LG2 of a negative value is NaN (Table 02.5). -/
theorem Sfu.lg2_negative (m : Nat) (e : Int) (hm : m ≠ 0) : Sfu.special .lg2 (.fin true m e) = some .nan := by
  simp only [Sfu.special, if_neg hm, if_true]

/-- A function that has no negative arguments gives the canonical NaN there (R39, Table 02.5). -/
theorem sfuOp_negative {o : Sfu} (hinf : o.special (.inf true) = some .nan)
    (hfin : ∀ m e, m ≠ 0 → o.special (.fin true m e) = some .nan) {a : Nat} (hlo : 0x80000000 < a) (hhi : a ≤ 0xFF800000) :
    sfuOp o .f32 a = 0x7FC00000 := by
  have hspecial : o.special (fp32Val a) = some .nan := by
    rcases fp32Val_negative hlo hhi with h | ⟨m, e, hm, h⟩
    · rw [h, hinf]
    · rw [h, hfin m e hm]
  exact sfuOp_special hspecial

/-! ### Conversions -/

/-- The low bits of an integer are its two's-complement bits. -/
theorem ofNat_lowBits (w : Nat) (n : Int) : BitVec.ofNat w (lowBits w n) = BitVec.ofInt w n := by
  apply BitVec.eq_of_toNat_eq
  rw [BitVec.toNat_ofNat, BitVec.toNat_ofInt, Nat.mod_eq_of_lt (lowBits_lt w n)]
  push_cast
  rfl

end Sys2Proof.Machine

open Sys2Proof Sys2Proof.Machine

/-- Settles O4: each instruction rounds its operation on exact values once (`computes_floatOp`). -/
theorem floatArithmeticResults : Obligations.FloatArithmeticResults := by
  unfold Obligations.FloatArithmeticResults
  exact ⟨computes_floatOp fun _ _ _ _ => rfl, computes_floatOp fun _ _ _ _ => rfl, computes_floatOp fun _ _ _ _ => rfl,
    computes_floatOp fun _ _ _ _ => rfl, computes_floatOp fun _ _ _ _ => rfl, computes_floatOp fun _ _ _ _ => rfl,
    computes_floatOp fun _ _ _ _ => rfl⟩

/-- Settles O5: each function's step by `computes_sfuOp`; its special inputs by `sfuOp_special` and `sfuOp_negative`. -/
theorem specialFunctionResults : Obligations.SpecialFunctionResults := by
  unfold Obligations.SpecialFunctionResults
  have hspecial {o : Sfu} {a : Nat} (r : Val) := @sfuOp_special o a r
  refine ⟨fun o => ?step, fun _ => hspecial .nan rfl,
    -- RCP
    hspecial (.inf false) rfl, hspecial (.inf true) rfl, hspecial (.fin false 0 0) rfl, hspecial (.fin true 0 0) rfl,
    -- RSQ
    hspecial (.inf false) rfl, hspecial (.inf true) rfl, hspecial .zero rfl, fun _ => sfuOp_negative rfl Sfu.rsq_negative,
    -- EX2
    hspecial .zero rfl, hspecial (.inf false) rfl,
    -- LG2
    hspecial (.inf true) rfl, hspecial (.inf true) rfl, fun _ => sfuOp_negative rfl Sfu.lg2_negative,
    -- SIN and COS
    hspecial .nan rfl, hspecial .nan rfl, hspecial .nan rfl, hspecial .nan rfl,
    -- TANH
    hspecial (.fin false 1 0) rfl, hspecial (.fin true 1 0) rfl⟩
  case step => cases o <;> exact computes_sfuOp fun _ _ _ _ => rfl

/-- Settles O6: each conversion writes its value to the acting threads (`Issues.gives`); a machine word is written as the low bits
of its integer (`ofNat_lowBits`). -/
theorem conversionResults : Obligations.ConversionResults := by
  unfold Obligations.ConversionResults
  refine ⟨?cvt, ?cvtFw, ?cvtWf⟩
  case cvt =>
    intro s site h f c hi
    have hexec : exec (.cvt site h f) s = execCvt site h f s := rfl
    refine ⟨_, hexec.trans (hi.issue_eq _), ?_⟩
    exact hi.gives rfl fun k => by
      simp only [Nat.shiftRight_eq_div_pow]
      exact apply_ite (BitVec.ofNat 32) _ _ _
  case cvtFw =>
    intro s site h f c hi
    have hexec : exec (.cvtFw site h f) s = execCvtFw site h f s := rfl
    refine ⟨_, hexec.trans (hi.issue_eq _), ?_⟩
    exact hi.gives rfl fun k => ofNat_lowBits _ _
  case cvtWf =>
    intro s site h f c hi
    have hexec : exec (.cvtWf site h f) s = execCvtWf site h f s := rfl
    exact ⟨_, hexec.trans (hi.issue_eq _), hi.gives rfl fun k => rfl⟩

end

section
/-! PROOF. What a trap leaves: the task ended with the worse status, no work in its arrays and tile mover, its launch stopped, and
every register and memory as it was (R16, R81, R143, R144). -/

namespace Sys2Proof.Machine

/-! ### The worse of two statuses -/

theorem worse_toNat (a b : BitVec 8) : (worse a b).toNat = max a.toNat b.toNat := by
  unfold worse
  split <;> omega

theorem worse_assoc (a b c : BitVec 8) : worse (worse a b) c = worse a (worse b c) :=
  BitVec.eq_of_toNat_eq (by simp only [worse_toNat, Nat.max_assoc])

theorem worse_self (a : BitVec 8) : worse a a = a := BitVec.eq_of_toNat_eq (by simp [worse_toNat])

theorem worstOf_eq_none {l : List (BitVec 8)} : worstOf l = none ↔ l = [] := by
  induction l using List.reverseRecOn with
  | nil => simp [worstOf]
  | append_singleton r last ih => simp [worstOf_append_singleton]

/-- No cause is worse than the one that R16 selects. -/
theorem le_of_worstOf {l : List (BitVec 8)} {st x : BitVec 8} (h : worstOf l = some st) (hx : x ∈ l) : x.toNat ≤ st.toNat := by
  induction l using List.reverseRecOn generalizing st with
  | nil => cases hx
  | append_singleton r last ih =>
    rw [worstOf_append_singleton, Option.some.injEq] at h
    subst h
    cases hr : worstOf r with
    | none =>
      rw [worstOf_eq_none.1 hr] at hx
      rw [List.mem_singleton.1 hx, Option.elim_none]
    | some a =>
      rw [Option.elim_some, worse_toNat]
      rcases List.mem_append.1 hx with hx | hx
      · exact Nat.le_trans (ih hr hx) (Nat.le_max_left _ _)
      · rw [List.mem_singleton.1 hx]
        exact Nat.le_max_right _ _

theorem worstOf_eq_some {l : List (BitVec 8)} {st : BitVec 8} : worstOf l = some st ↔ st ∈ l ∧ ∀ x ∈ l, x.toNat ≤ st.toNat := by
  refine ⟨fun h => ⟨worstOf_mem h, fun x hx => le_of_worstOf h hx⟩, fun ⟨hmem, hle⟩ => ?_⟩
  obtain ⟨a, ha⟩ : ∃ a, worstOf l = some a := Option.ne_none_iff_exists'.1 fun h => by simp [worstOf_eq_none.1 h] at hmem
  have hs : a.toNat = st.toNat := Nat.le_antisymm (hle a (worstOf_mem ha)) (le_of_worstOf ha hmem)
  rw [ha, BitVec.eq_of_toNat_eq hs]

/-- A cause that is named twice counts once. -/
theorem worstOf_eraseDups (l : List (BitVec 8)) : worstOf l.eraseDups = worstOf l :=
  Option.ext fun st => by simp only [worstOf_eq_some, List.mem_eraseDups]

/-! ### One core -/

/-- A task that has trapped with a status (R143). -/
def Task.trappedBy (t : Task) (st : BitVec 8) : Task := { t with phase := .trapped, status := worse t.status st }

theorem Task.trappedBy_trappedBy (t : Task) (a b : BitVec 8) : (t.trappedBy a).trappedBy b = t.trappedBy (worse a b) := by
  simp [Task.trappedBy, worse_assoc]

/-- `c'` has the local memory of `c` and the registers of its groups. -/
structure Core.SameData (c c' : Core) : Prop where
  /-- local memory -/
  lm : c'.lm = c.lm
  /-- registers of every group -/
  regs : ∀ j, (c'.group j).vregs = (c.group j).vregs ∧ (c'.group j).uregs = (c.group j).uregs ∧
    (c'.group j).preds = (c.group j).preds

theorem Core.SameData.refl (c : Core) : c.SameData c := ⟨rfl, fun _ => ⟨rfl, rfl, rfl⟩⟩

theorem Core.SameData.trans {a b c : Core} (h : a.SameData b) (k : b.SameData c) : a.SameData c :=
  ⟨k.lm.trans h.lm, fun j =>
    ⟨(k.regs j).1.trans (h.regs j).1, (k.regs j).2.1.trans (h.regs j).2.1, (k.regs j).2.2.trans (h.regs j).2.2⟩⟩

theorem Core.SameData.of_groups {c c' : Core} (hlm : c'.lm = c.lm) (hg : c'.groups = c.groups) : c.SameData c' :=
  ⟨hlm, fun j => by simp only [Core.group, hg, and_self]⟩

/-- A change of a group that leaves its registers. -/
theorem Core.SameData.modGroup {f : Group → Group}
    (hf : ∀ g, (f g).vregs = g.vregs ∧ (f g).uregs = g.uregs ∧ (f g).preds = g.preds) (c : Core) (i : Nat) :
    c.SameData (c.modGroup i f) := by
  refine ⟨rfl, fun j => ?_⟩
  rw [Core.modGroup_group]
  split
  · next hj => exact hj ▸ hf _
  · exact ⟨rfl, rfl, rfl⟩

/-- `c'` is `c` after traps of which `st` is the worst status: its task has ended with it, and no array or tile mover holds work. -/
structure Core.Halted (c : Core) (st : BitVec 8) (c' : Core) : Prop where
  /-- the task -/
  task : c'.task = c.task.map (·.trappedBy st)
  /-- array queues -/
  arrays : ∀ a, (c'.arr a).queue = []
  /-- tile-mover entries -/
  tm : c'.tm = []

/-- A trap on one core, its arrays in canonical form. -/
def Core.halt (c : Core) (st : BitVec 8) : Core := { c.trap st with arrays := normal {} (c.trap st).arrays }

/-- What holds of the default and of every listed value holds of every entry. -/
theorem look_of_forall {α : Type} {P : α → Prop} {d : α} {m : SMap α} (hd : P d) (hm : ∀ p ∈ m, P p.2) (k : Nat) :
    P (look d m k) := by
  induction m with
  | nil => exact hd
  | cons p r ih =>
    simp only [look]
    split
    · exact hm p List.mem_cons_self
    · exact ih fun q hq => hm q (List.mem_cons_of_mem _ hq)

theorem Core.halt_sameData (c : Core) (st : BitVec 8) : c.SameData (c.halt st) := .of_groups rfl rfl

theorem Core.trapFrame_sameData (c : Core) (st : BitVec 8) : c.SameData (c.trapFrame st) := .of_groups rfl rfl

theorem Core.halt_arr_queue (c : Core) (st : BitVec 8) (a : Nat) : ((c.halt st).arr a).queue = [] := by
  refine look_of_forall (P := fun m : MatArray => m.queue = []) rfl (fun p hp => ?_) a
  obtain ⟨q, -, rfl⟩ := List.mem_map.1 (List.mem_filter.1 hp).1
  rfl

theorem Core.halt_halted (c : Core) (st : BitVec 8) : c.Halted st (c.halt st) := ⟨rfl, c.halt_arr_queue st, rfl⟩

/-- A trap on its own core, with what may still count in its cycle (R143, R147). -/
def Core.haltCycle (st : BitVec 8) (ports : Nat) (c : Core) : Core :=
  { c.halt st with still := if trapStatus st then c.openCycle ports else [] }

/-- A trap of an instruction or of the watchdog on its own core: its group keeps the status of its first trap (R143). -/
def Core.haltIssue (st : BitVec 8) (group : Nat) (c : Core) : Core :=
  let d := c.haltCycle st (if group < 16 then c.lastPort else 3)
  if group < 16 && trapStatus st then d.modGroup group fun g => { g with trapped := some (g.trapped.getD st) } else d

theorem Core.haltCycle_sameData (c : Core) (st : BitVec 8) (ports : Nat) : c.SameData (c.haltCycle st ports) := .of_groups rfl rfl

theorem Core.haltCycle_halted (c : Core) (st : BitVec 8) (ports : Nat) : c.Halted st (c.haltCycle st ports) :=
  ⟨rfl, c.halt_arr_queue st, rfl⟩

theorem Core.haltIssue_sameData (c : Core) (st : BitVec 8) (group : Nat) : c.SameData (c.haltIssue st group) := by
  have h := c.haltCycle_sameData st (if group < 16 then c.lastPort else 3)
  unfold Core.haltIssue
  dsimp only
  split
  · exact h.trans (.modGroup (f := fun g => { g with trapped := some (g.trapped.getD st) }) (fun _ => ⟨rfl, rfl, rfl⟩) _ _)
  · exact h

theorem Core.haltIssue_halted (c : Core) (st : BitVec 8) (group : Nat) : c.Halted st (c.haltIssue st group) := by
  have h := c.haltCycle_halted st (if group < 16 then c.lastPort else 3)
  unfold Core.haltIssue
  dsimp only
  split
  · exact ⟨h.task, h.arrays, h.tm⟩
  · exact h

theorem Core.Halted.trans {c c' c'' : Core} {a b : BitVec 8} (h : c.Halted a c') (k : c'.Halted b c'') : c.Halted (worse a b) c'' :=
  ⟨by simp [k.task, h.task, Function.comp_def, Task.trappedBy_trappedBy], k.arrays, k.tm⟩

/-- A second trap with the same status adds nothing. -/
theorem Core.Halted.halt {c c' : Core} {st : BitVec 8} (h : c.Halted st c') : c.Halted st (c'.halt st) := by
  have := h.trans (c'.halt_halted st)
  rwa [worse_self] at this

theorem Core.Halted.trapFrame {c c' : Core} {a : BitVec 8} (h : c.Halted a c') (st : BitVec 8) : c.Halted a (c'.trapFrame st) :=
  ⟨h.task, h.arrays, h.tm⟩

/-! ### The launch and the gang (R144) -/

/-- What one change keeps of every core, the change of several cores keeps. -/
theorem foldl_modCore_keeps {P : Core → Prop} {f : Core → Core} (hf : ∀ c, P c → P (f c)) (ms : List Nat) {s : State} {j : Nat}
    (h : P (s.core j)) : P ((ms.foldl (fun s m => s.modCore m f) s).core j) := by
  refine List.foldlRecOn (motive := fun t : State => P (t.core j)) ms _ h fun t ht m _ => ?_
  rw [State.modCore_core]
  split
  · next hj => exact hf _ (hj ▸ ht)
  · exact ht

/-- What no change of a core touches, the change of several cores leaves. -/
theorem foldl_modCore_outside {α : Type} {π : State → α} (hπ : ∀ s m g, π (s.modCore m g) = π s) (f : Core → Core)
    (ms : List Nat) (s : State) : π (ms.foldl (fun s m => s.modCore m f) s) = π s :=
  List.foldlRecOn (motive := fun t => π t = π s) ms _ rfl fun t ht m _ => (hπ t m f).trans ht

/-- What a trap's effect on the launch and the gang keeps of a core. -/
theorem State.trapSpread_keeps {P : Core → Prop} {st : BitVec 8} (hh : ∀ c, P c → P (c.halt st))
    (hf : ∀ c, P c → P (c.trapFrame st)) {s : State} (l : Nat) {j : Nat} (h : P (s.core j)) : P ((s.trapSpread l st).core j) := by
  unfold State.trapSpread
  split
  · exact h
  · split
    · exact h
    · split
      · exact h
      · exact foldl_modCore_keeps hf _ (foldl_modCore_keeps hh _ h)

/-- The launch's mark that stops its dispatch (R144). -/
def Desc.stopLaunch (d : Desc) : Desc := { d with launch := { d.launch with stopped := true } }

/-- The trap of a task that is no twin stops its launch, and outside the cores it does nothing else. -/
theorem State.trapSpread_launch {α : Type} {π : State → α} (hπ : ∀ s m g, π (s.modCore m g) = π s) {s : State} {l : Nat}
    {τ : Task} (ht : (s.core l).task = some τ) (htwin : τ.twinOf = none) (st : BitVec 8) :
    π (s.trapSpread l st) = π (s.modDesc τ.queue τ.desc Desc.stopLaunch) := by
  simp only [State.trapSpread, ht, htwin, Option.isSome_none, Bool.false_eq_true, if_false]
  split
  · rfl
  · exact (foldl_modCore_outside hπ _ _ _).trans (foldl_modCore_outside hπ _ _ _)

/-- What is outside the cores and the queues a trap's spreading leaves. -/
theorem State.trapSpread_outside {α : Type} {π : State → α} (hπ : ∀ s m g, π (s.modCore m g) = π s)
    (hd : ∀ s q i g, π (State.modDesc s q i g) = π s) (s : State) (l : Nat) (st : BitVec 8) : π (s.trapSpread l st) = π s := by
  cases ht : (s.core l).task with
  | none => simp only [State.trapSpread, ht]
  | some τ =>
    cases htwin : τ.twinOf with
    | none => rw [State.trapSpread_launch hπ ht htwin, hd]
    | some m => simp only [State.trapSpread, ht, htwin, Option.isSome_some, if_true]

/-- A descriptor found after a change of its number has been changed. -/
theorem State.desc?_modDesc {s : State} {q i : Nat} {g : Desc → Desc} {d : Desc} (hg : ∀ x, (g x).index = x.index)
    (h : (s.modDesc q i g).desc? q i = some d) : ∃ x, d = g x := by
  cases hlive : s.live? q i with
  | some x =>
    rw [State.modDesc_desc? hg hlive, Option.some.injEq] at h
    exact ⟨x, h.symm⟩
  | none =>
    have hnone : (s.queue q).descs.find? (fun d => d.index.toNat == i) = none := hlive
    have hany : ((s.queue q).descs.any fun d => d.index.toNat == i) = false := by
      rw [List.any_eq_false]
      exact List.find?_eq_none.1 hnone
    simp only [State.modDesc, State.desc?, State.modQueue_queue, if_true, hany, Bool.false_eq_true, if_false, List.find?_append,
      hnone, Option.none_or] at h
    have hmem := List.mem_of_find?_eq_some h
    have hidx := List.find?_some h
    obtain ⟨x, -, rfl⟩ := List.mem_map.1 hmem
    by_cases hx : x.index.toNat = i
    · exact ⟨x, if_pos hx⟩
    · simp [hx] at hidx

/-! ### The package -/

/-- `t` is `s` after traps of the task on core `l` of which `st` is the worst status. -/
structure State.Halts (s : State) (l : Nat) (st : BitVec 8) (t : State) : Prop where
  /-- the task and its work -/
  core : (s.core l).Halted st (t.core l)
  /-- local memory and registers of every core -/
  data : ∀ j, (s.core j).SameData (t.core j)
  /-- device memory and its caches -/
  memory : t.mem = s.mem ∧ t.slices = s.slices ∧ t.clusters = s.clusters
  /-- the launch of a task that is no twin -/
  launch : ∀ τ, (s.core l).task = some τ → τ.twinOf = none → ∀ d, t.desc? τ.queue τ.desc = some d → d.launch.stopped = true

theorem State.Halts.trans {s t u : State} {l : Nat} {a b : BitVec 8} (h : s.Halts l a t) (k : t.Halts l b u) :
    s.Halts l (worse a b) u where
  core := h.core.trans k.core
  data j := (h.data j).trans (k.data j)
  memory := by
    obtain ⟨hm, hs, hc⟩ := h.memory
    obtain ⟨km, ks, kc⟩ := k.memory
    exact ⟨km.trans hm, ks.trans hs, kc.trans hc⟩
  launch τ ht := k.launch (τ.trappedBy a) (by rw [h.core.task, ht]; rfl)

/-- An event record adds nothing to a trap. -/
theorem State.Halts.record {s t : State} {l : Nat} {st : BitVec 8} (h : s.Halts l st t) (typ level action status : Nat)
    (loc : BitVec 32) (detail : BitVec 128) : s.Halts l st (t.record typ level action status loc detail) where
  core := by simpa only [State.core, record_cores] using h.core
  data j := by simpa only [State.core, record_cores] using h.data j
  memory := by simpa only [record_mem, record_slices, record_clusters] using h.memory
  launch := by simpa only [State.desc?, State.queue, record_queues] using h.launch

theorem State.Halts.recordIf {s t : State} {l : Nat} {st : BitVec 8} (h : s.Halts l st t) (b : Bool) (typ level action status : Nat)
    (loc : BitVec 32) (detail : BitVec 128) :
    s.Halts l st (if b then t.record typ level action status loc detail else t) := by
  cases b
  · exact h
  · exact h.record typ level action status loc detail

/-- A trap that no instruction raised, step by step (R81). -/
theorem State.trapDesc_eq (s : State) (l group : Nat) (st : BitVec 8) :
    s.trapDesc l group st =
      let t := (s.modCore l (Core.haltCycle st 2)).trapSpread l st
      if trapStatus st then t.record 0x01 1 0x10 st.toNat (locOf 1 l) (detailOf [(0xC, 1, group)]) else t := rfl

/-- The trap makes a TRAP record: it is the first of its group, or the watchdog's (R143). -/
def State.recordsTrap (s : State) (l group : Nat) (st : BitVec 8) : Bool :=
  !(match (s.core l).task with | some t => t.twinOf.isSome | none => false) && trapStatus st &&
    (group == 255 || ((s.core l).group group).trapped.isNone)

/-- A trap of an instruction or of the watchdog, step by step (R143). -/
theorem State.trap_eq (s : State) (l group : Nat) (st : BitVec 8) (pc mask code : Nat) :
    s.trap l group st pc mask code =
      let t := (s.modCore l (Core.haltIssue st group)).trapSpread l st
      if s.recordsTrap l group st then t.record 0x01 1 0x10 st.toNat (locOf 1 l)
        (detailOf [(0, 8, pc), (8, 4, mask), (0xC, 1, group), (0xE, 2, code)]) else t := rfl

/-- A core that a trap halts, with what the trap spreads to its launch and its gang. -/
theorem State.halts_of_core {s : State} {l : Nat} {st : BitVec 8} {g : Core → Core} (hh : (s.core l).Halted st (g (s.core l)))
    (hd : (s.core l).SameData (g (s.core l))) :
    s.Halts l st ((s.modCore l g).trapSpread l st) where
  core := State.trapSpread_keeps (P := (s.core l).Halted st) (fun _ h => h.halt) (fun _ h => h.trapFrame st) l
    (by simpa using hh)
  data j := State.trapSpread_keeps (P := (s.core j).SameData) (fun c h => h.trans (c.halt_sameData st))
    (fun c h => h.trans (c.trapFrame_sameData st)) l (by
      rw [State.modCore_core]
      split
      · next hj => exact hj ▸ hd
      · exact .refl _)
  memory := ⟨State.trapSpread_outside (fun _ _ _ => rfl) (fun _ _ _ _ => rfl) _ l st,
    State.trapSpread_outside (fun _ _ _ => rfl) (fun _ _ _ _ => rfl) _ l st,
    State.trapSpread_outside (fun _ _ _ => rfl) (fun _ _ _ _ => rfl) _ l st⟩
  launch τ ht hτ d hfound := by
    have htask : ((s.modCore l g).core l).task = some (τ.trappedBy st) := by simp [hh.task, ht]
    have hq : ((s.modCore l g).trapSpread l st).queues = _ := State.trapSpread_launch (fun _ _ _ => rfl) htask hτ st
    have hfound : ((s.modCore l g).modDesc τ.queue τ.desc Desc.stopLaunch).desc? τ.queue τ.desc = some d := by
      simp only [State.desc?, State.queue] at hfound ⊢
      rwa [hq] at hfound
    obtain ⟨x, rfl⟩ := State.desc?_modDesc (g := Desc.stopLaunch) (fun _ => rfl) hfound
    rfl

/-- A trap of an instruction or of the watchdog (R143). -/
theorem State.trap_halts (s : State) (l group : Nat) (st : BitVec 8) (pc mask code : Nat) :
    s.Halts l st (s.trap l group st pc mask code) := by
  have h : s.Halts l st ((s.modCore l (Core.haltIssue st group)).trapSpread l st) :=
    State.halts_of_core (Core.haltIssue_halted _ st group) (Core.haltIssue_sameData _ st group)
  rw [State.trap_eq]
  exact h.recordIf _ _ _ _ _ _ _

/-- A trap that no instruction raised (R81). -/
theorem State.trapDesc_halts (s : State) (l group : Nat) (st : BitVec 8) : s.Halts l st (s.trapDesc l group st) := by
  have h : s.Halts l st ((s.modCore l (Core.haltCycle st 2)).trapSpread l st) :=
    State.halts_of_core (Core.haltCycle_halted _ st 2) (Core.haltCycle_sameData _ st 2)
  rw [State.trapDesc_eq]
  exact h.recordIf _ _ _ _ _ _ _

/-- A descriptor that fails its checks ends the task with the worst of its causes (R16, R81). -/
theorem State.trapDescs_halts {causes : List (BitVec 8)} {st : BitVec 8} (h : worstOf causes = some st) (s : State) (l group : Nat) :
    s.Halts l st (s.trapDescs l group causes) := by
  rw [← worstOf_eraseDups] at h
  unfold State.trapDescs
  generalize causes.eraseDups = causes at h ⊢
  induction causes using List.reverseRecOn generalizing st with
  | nil => simp [worstOf] at h
  | append_singleton r last ih =>
    rw [worstOf_append_singleton, Option.some.injEq] at h
    subst h
    rw [List.foldl_append]
    cases hr : worstOf r with
    | none => rw [worstOf_eq_none.1 hr]; exact s.trapDesc_halts l group last
    | some a => exact (ih hr).trans (State.trapDesc_halts _ l group last)

/-! ### Traps of instructions -/

/-- Retirement leaves the registers and the local memory of every core. -/
theorem State.retire_sameData (s : State) (c : Ctx) (n : Needs) (j : Nat) : (s.core j).SameData ((s.retire c n).core j) := by
  unfold State.retire
  rw [State.modCore_core]
  split
  · next hj =>
    subst hj
    have hcache : (s.core c.l).SameData ((s.core c.l).cacheStep c.gi n) := by
      obtain ⟨rc, hrc⟩ := Core.cacheStep_group (s.core c.l) c.gi n
      refine ⟨rfl, fun j => ?_⟩
      rw [hrc]
      split
      · next hj => exact hj ▸ ⟨rfl, rfl, rfl⟩
      · exact ⟨rfl, rfl, rfl⟩
    have hport : (s.core c.l).SameData (((s.core c.l).cacheStep c.gi n).usePort s.ticks.toNat c.pc.toNat n) :=
      hcache.trans (.of_groups rfl rfl)
    have hgroup := hport.trans (.modGroup (f := fun g =>
        { c.set.foldl (fun g t => g.setPc t (c.pc + BitVec.ofNat 64 n.len)) g with ages := g.ageAfter c.set })
      (fun g => by
        have hpcs := foldl_setPc_same c.set (c.pc + BitVec.ofNat 64 n.len) g
        have hv := congrArg Group.vregs hpcs
        have hu := congrArg Group.uregs hpcs
        have hp := congrArg Group.preds hpcs
        exact ⟨hv, hu, hp⟩) _ c.gi)
    dsimp only
    split
    · exact hgroup.trans (.of_groups rfl rfl)
    · exact hgroup.trans (.of_groups rfl rfl)
  · exact .refl _

/-- Traps after a step that left the task, the registers and the memories. -/
theorem State.Halts.traps {s s' t : State} {c : Ctx} {st : BitVec 8} (h : s'.Halts c.l st t)
    (htask : (s'.core c.l).task = some c.task) (hdata : ∀ j, (s.core j).SameData (s'.core j))
    (hmem : s'.mem = s.mem ∧ s'.slices = s.slices ∧ s'.clusters = s.clusters) : Traps s t c st where
  task := by rw [h.core.task, htask]; rfl
  launch := h.launch c.task htask
  arrays := h.core.arrays
  tm := h.core.tm
  regs l := ((hdata l).trans (h.data l)).regs
  lm l := ((hdata l).trans (h.data l)).lm
  memory := by
    obtain ⟨hm, hs, hc⟩ := h.memory
    obtain ⟨km, ks, kc⟩ := hmem
    exact ⟨hm.trans km, hs.trans ks, hc.trans kc⟩

/-- What the retirement of an instruction leaves of its core beside the groups. -/
theorem State.retire_core {s : State} {site : Site} {h : Hdr} {c : Ctx} (hc : s.ctx? site h = some c) (n : Needs) :
    ((s.retire c n).core c.l).task = some c.task ∧ ((s.retire c n).core c.l).frame = (s.core c.l).frame ∧
    ((s.retire c n).core c.l).arrays = (s.core c.l).arrays ∧ ((s.retire c n).core c.l).tm = (s.core c.l).tm := by
  obtain ⟨-, -, -, htask, -⟩ := ctx?_spec hc
  have hsame := (retire_only hc n).core
  have hframe := congrArg Core.frame hsame
  have harrays := congrArg Core.arrays hsame
  have htm := congrArg Core.tm hsame
  exact ⟨(congrArg Core.task hsame).trans htask, hframe, harrays, htm⟩

/-- An instruction that traps on some of its threads once it has issued (R143). -/
theorem trapAt_traps {s : State} {site : Site} {h : Hdr} {c : Ctx} (hc : s.ctx? site h = some c) (n : Needs) (st : BitVec 8)
    (threads : List Nat) (code : Nat) : Traps s ((s.retire c n).trapAt c st threads code) c st :=
  (State.trap_halts _ _ _ _ _ _ _).traps (State.retire_core hc n).1 (s.retire_sameData c n) ⟨rfl, rfl, rfl⟩

end Sys2Proof.Machine
end

section
/-! PROOF. The asynchronous issues MMA and TM (R76, R77, R173, R174, R206). -/

namespace Sys2Proof.Machine

/-! ### Tokens -/

theorem Group.tokAdd_tok (g : Group) (t j : Nat) : (g.tokAdd t).tok j = g.tok j + if j = t then 1 else 0 := by
  simp only [Group.tokAdd, Group.tok, look_put]
  split
  · next hj => rw [hj]
  · rfl

/-! ### The three outcomes of an asynchronous issue -/

section Async

variable {s : State} {site : Site} {h : Hdr} {f : FmtA} {c : Ctx} {held : Ctx → Core → Bool} {k : Ctx → Core → Core}

/-- What an asynchronous issue needs. -/
abbrev FmtA.needs (f : FmtA) : Needs := { ur := [f.ua.toNat], arith := false }

/-- A full queue or token count holds the group (R77, R111). -/
theorem asyncIssue_holds (hi : Issues s site h f.needs c) (ha : c.act ≠ []) (hroom : f.addr c.g + 64 ≤ lmBytes)
    (hheld : held c (s.core c.l) = true) :
    asyncIssue site h f held k s = .next (s.modCore c.l fun k => k.modGroup c.gi fun g => { g with held := true }) := by
  simp [asyncIssue, hi.ctx, hi.free, hi.checks, ha, hroom, hheld]

/-- With room for it, the descriptor goes into its queue. -/
theorem asyncIssue_queues (hi : Issues s site h f.needs c) (ha : c.act ≠ []) (hroom : f.addr c.g + 64 ≤ lmBytes)
    (hheld : held c (s.core c.l) = false) :
    asyncIssue site h f held k s = .next ((s.retire c f.needs).modCore c.l (k c)) := by
  have hfar : ¬lmBytes < f.addr c.g + 64 := Nat.not_lt.2 hroom
  simp [asyncIssue, hi.ctx, hheld, hi.issue_eq, ha, hfar]

/-- A descriptor that reaches beyond local memory traps (R173). -/
theorem asyncIssue_traps (hi : Issues s site h f.needs c) (ha : c.act ≠ []) (hfar : lmBytes < f.addr c.g + 64) :
    asyncIssue site h f held k s = .next ((s.retire c f.needs).trapAt c stAccess c.act 0) := by
  have hroom : ¬f.addr c.g + 64 ≤ lmBytes := Nat.not_le.2 hfar
  simp [asyncIssue, hi.ctx, hi.issue_eq, ha, hroom, hfar]

end Async

/-! ### What they leave -/

section Issued

variable {s : State} {site : Site} {h : Hdr} {c : Ctx}

/-- A group that is held has no thread that is free to issue, and nothing else has changed. -/
theorem held_spec (hc : s.ctx? site h = some c) :
    let t := s.modCore c.l fun k => k.modGroup c.gi fun g => { g with held := true }
    (t.ctxGroup c).active = [] ∧ (∀ k, (t.ctxGroup c).wait k = c.g.wait k) ∧ (∀ k, (t.ctxGroup c).pc k = c.g.pc k) ∧
    (t.core c.l).arrays = (s.core c.l).arrays ∧ (t.core c.l).tm = (s.core c.l).tm ∧
    (∀ r k, (t.ctxGroup c).v r k = c.g.v r k) ∧ (t.core c.l).lm = (s.core c.l).lm ∧ t.mem = s.mem := by
  intro t
  obtain ⟨-, -, hg, -⟩ := ctx?_spec hc
  have hgroup : t.ctxGroup c = { c.g with held := true } := by simp [t, State.ctxGroup, hg]
  have hcore : t.core c.l = (s.core c.l).modGroup c.gi fun g => { g with held := true } := by simp [t]
  rw [hgroup, hcore]
  exact ⟨by simp [Group.active], fun _ => rfl, fun _ => rfl, rfl, rfl, fun _ _ => rfl, rfl, rfl⟩

/-- The group of an issue as its retirement leaves it: registers and tokens. -/
theorem retire_ctxGroup (hc : s.ctx? site h = some c) (n : Needs) :
    ((s.retire c n).ctxGroup c).vregs = c.g.vregs ∧ ((s.retire c n).ctxGroup c).tokens = c.g.tokens := by
  obtain ⟨-, -, hg, -⟩ := ctx?_spec hc
  have hregs := ((s.retire_sameData c n c.l).regs c.gi).1
  rw [← hg] at hregs
  have htok := congrArg Group.tokens (retire_only hc n).group
  exact ⟨hregs, htok⟩

/-- A descriptor queued under a token: `g` changes the core's queues, and the issuing group's token counts one more. -/
theorem queued_spec (hc : s.ctx? site h = some c) (n : Needs) {tok : Nat} {g : Core → Core}
    (hgroup : (g ((s.retire c n).core c.l)).group c.gi = (((s.retire c n).core c.l).group c.gi).tokAdd tok)
    (hlm : (g ((s.retire c n).core c.l)).lm = ((s.retire c n).core c.l).lm) :
    let t := (s.retire c n).modCore c.l g
    (∀ j, (t.ctxGroup c).tok j = c.g.tok j + if j = tok then 1 else 0) ∧
    (∀ r k, (t.ctxGroup c).v r k = c.g.v r k) ∧ (t.core c.l).lm = (s.core c.l).lm ∧ t.mem = s.mem := by
  intro t
  obtain ⟨hv, htok⟩ := retire_ctxGroup hc n
  have ht : t.core c.l = g ((s.retire c n).core c.l) := by simp [t]
  have hx : t.ctxGroup c = ((s.retire c n).ctxGroup c).tokAdd tok := by
    rw [State.ctxGroup, ht, hgroup]
    rfl
  refine ⟨fun j => ?_, fun r k => ?_, ?_, rfl⟩
  · rw [hx, Group.tokAdd_tok, Group.tok, htok]
    rfl
  · rw [hx]
    exact congrArg (fun m => look 0 m (r * 32 + k)) hv
  · rw [ht, hlm]
    exact (s.retire_sameData c n c.l).lm

/-- Retirement leaves the descriptors in local memory. -/
theorem retire_descAt (s : State) (c : Ctx) (n : Needs) (a : Nat) :
    ((s.retire c n).core c.l).descAt a = (s.core c.l).descAt a := by
  simp only [Core.descAt, Core.lmRead, (s.retire_sameData c n c.l).lm]

/-- Retirement leaves the arrays. -/
theorem retire_arr (hc : s.ctx? site h = some c) (n : Needs) (a : Nat) :
    ((s.retire c n).core c.l).arr a = (s.core c.l).arr a := by
  obtain ⟨-, -, harr, -⟩ := State.retire_core hc n
  simp only [Core.arr, harr]

end Issued

/-! ### MMA and TM -/

/-- The token that a matrix descriptor names (Table 03.3). -/
theorem descToken (d : BitVec 512) : (d.extractLsb' 40 4).toNat = fld d 40 4 := by
  simp [fld, BitVec.extractLsb'_toNat]

/-- MMA is held: four entries are queued, or the descriptor's token is full (R77, R174). -/
def FmtA.mmaHeld (f : FmtA) (c : Ctx) (k : Core) : Bool :=
  decide (4 ≤ (k.arr f.arr.toNat).queue.length) || (f.addr c.g % 64 == 0 && c.g.tokFull (fld (k.descAt (f.addr c.g)) 40 4))

/-- A copy of the descriptor in the array's queue, under its token; none where its address is no multiple of 64 (R76, R173). -/
def FmtA.mmaQueue (f : FmtA) (c : Ctx) (k : Core) : Core :=
  let d := k.descAt (f.addr c.g)
  if f.addr c.g % 64 = 0 then
    (k.modArr f.arr.toNat fun m => { m with queue := m.queue ++ [{ desc := d, group := c.gi }] }).modGroup c.gi
      fun g => g.tokAdd (fld d 40 4)
  else k.modArr f.arr.toNat fun m => { m with queue := m.queue ++ [{ group := c.gi, hasCopy := false }] }

theorem FmtA.mmaQueue_aligned {f : FmtA} {c : Ctx} (halign : f.addr c.g % 64 = 0) (k : Core) :
    f.mmaQueue c k = (k.modArr f.arr.toNat fun m =>
      { m with queue := m.queue ++ [{ desc := k.descAt (f.addr c.g), group := c.gi }] }).modGroup c.gi fun g =>
      g.tokAdd (fld (k.descAt (f.addr c.g)) 40 4) := if_pos halign

theorem exec_mma (site : Site) (h : Hdr) (f : FmtA) (s : State) :
    exec (.mma site h f) s = asyncIssue site h f f.mmaHeld f.mmaQueue s := rfl

/-- TM is held: the entries that the task may use are taken, or its token is full (R174, R206). -/
def FmtA.tmHeld (f : FmtA) (c : Ctx) (k : Core) : Bool := decide (k.tmRoom ≤ k.tm.length) || c.g.tokFull f.tok.toNat

/-- The tile mover's entry number `id` of a TM (R173). -/
def FmtA.tmEntry (f : FmtA) (id : Nat) (c : Ctx) (k : Core) : TmEntry :=
  { id := id, desc := k.descAt (f.addr c.g), group := c.gi, tok := f.tok.toNat, urgent := k.frame.isSome }

/-- The entry of a TM behind the others, under its token (R173, R206). -/
def FmtA.tmQueue (f : FmtA) (id : Nat) (c : Ctx) (k : Core) : Core :=
  { k.modGroup c.gi (fun g => g.tokAdd f.tok.toNat) with tm := k.tm ++ [f.tmEntry id c k] }

theorem FmtA.tmQueue_group (f : FmtA) (id : Nat) (c : Ctx) (k : Core) :
    (f.tmQueue id c k).group c.gi = (k.group c.gi).tokAdd f.tok.toNat :=
  (Core.modGroup_group k c.gi c.gi fun g => g.tokAdd f.tok.toNat).trans (if_pos rfl)

/-- TM numbers its entry, and is otherwise an asynchronous issue. -/
theorem exec_tm {site : Site} {h : Hdr} {f : FmtA} {s t : State} (ht : asyncIssue site h f f.tmHeld (f.tmQueue s.workSeq) s = .next t) :
    exec (.tm site h f) s = .next { t with workSeq := s.workSeq + 1 } := by
  have hexec : exec (.tm site h f) s = match asyncIssue site h f f.tmHeld (f.tmQueue s.workSeq) s with
    | .next s' => .next { s' with workSeq := s.workSeq + 1 }
    | o => o := rfl
  rw [hexec, ht]

end Sys2Proof.Machine

open Sys2Proof Sys2Proof.Machine

/-- Settles O19: with room the descriptor is queued (`asyncIssue_queues`, `queued_spec`), a full queue holds the group
(`asyncIssue_holds`, `held_spec`), and an address beyond local memory traps (`asyncIssue_traps`, `trapAt_traps`). -/
theorem asynchronousIssues : Obligations.AsynchronousIssues := by
  unfold Obligations.AsynchronousIssues
  refine ⟨fun s site h f c hi ha => ⟨fun hroom halign hlen htok => ?mma, fun hroom hfull => ?mmaHeld, fun hfar => ?mmaFar⟩,
    fun s site h f c hi ha => ⟨fun hroom hlen htok => ?tm, fun hroom hfull => ?tmHeld, fun hfar => ?tmFar⟩⟩
  case mma =>
    rw [descToken] at htok ⊢
    have hfree : f.mmaHeld c (s.core c.l) = false := by simp [FmtA.mmaHeld, Group.tokFull, hlen, htok]
    have hqueue := FmtA.mmaQueue_aligned halign ((s.retire c f.needs).core c.l)
    rw [retire_descAt] at hqueue
    refine ⟨_, { desc := (s.core c.l).descAt (f.addr c.g), group := c.gi },
      (exec_mma site h f s).trans (asyncIssue_queues hi ha hroom hfree), ?_, rfl, rfl, rfl, fun a ha => ?_,
      queued_spec hi.ctx f.needs (by simp [hqueue]) (by simp [hqueue])⟩
    · simp [hqueue, retire_arr hi.ctx]
    · simp [hqueue, retire_arr hi.ctx, ha]
  case mmaHeld =>
    have hheld : f.mmaHeld c (s.core c.l) = true := by simp [FmtA.mmaHeld, hfull]
    exact ⟨_, (exec_mma site h f s).trans (asyncIssue_holds hi ha hroom hheld), held_spec hi.ctx⟩
  case mmaFar => exact ⟨_, (exec_mma site h f s).trans (asyncIssue_traps hi ha hfar), trapAt_traps hi.ctx _ _ _ _⟩
  case tm =>
    obtain ⟨-, -, -, htm⟩ := State.retire_core hi.ctx f.needs
    have hfree : f.tmHeld c (s.core c.l) = false := by simp [FmtA.tmHeld, Group.tokFull, hlen, htok]
    refine ⟨_, f.tmEntry s.workSeq c ((s.retire c f.needs).core c.l), exec_tm (asyncIssue_queues hi ha hroom hfree), ?_,
      retire_descAt s c f.needs _, rfl, rfl, queued_spec hi.ctx f.needs (FmtA.tmQueue_group f s.workSeq c _) rfl⟩
    rw [← htm]
    exact congrArg Core.tm ((State.modCore_core (s.retire c f.needs) c.l c.l _).trans (if_pos rfl))
  case tmHeld =>
    have hheld : f.tmHeld c (s.core c.l) = true := by simp [FmtA.tmHeld, hfull]
    exact ⟨_, exec_tm (asyncIssue_holds hi ha hroom hheld), held_spec hi.ctx⟩
  case tmFar =>
    have htraps := trapAt_traps hi.ctx f.needs stAccess c.act 0
    exact ⟨_, exec_tm (asyncIssue_traps hi ha hfar), htraps.task, htraps.launch, htraps.arrays, htraps.tm, htraps.regs, htraps.lm,
      htraps.memory⟩

end

section
/-! PROOF. What the work of a matrix array changes: the descriptor at the head of its queue, its tile, D rows in local memory, and
nothing else (R67, R71, R74, R77, R83). -/

namespace Sys2Proof.Machine

/-! ### The descriptor at the head -/

section Queue

variable {q : List MEntry} {e : MEntry}

/-- The first unfinished descriptor changed, as long as it stays unfinished. -/
theorem onCurrent_find? {g : MEntry → MEntry} (h : q.find? (fun e => !e.finished) = some e) (hg : (g e).finished = false) :
    (onCurrent g q).find? (fun e => !e.finished) = some (g e) := by
  induction q with
  | nil => cases h
  | cons x r ih =>
    cases hx : x.finished with
    | false =>
      obtain rfl : x = e := by simpa [hx] using h
      simp [onCurrent, hx, hg]
    | true => simpa [onCurrent, hx] using ih (by simpa [hx] using h)

theorem onCurrent_mem (g : MEntry → MEntry) (h : q.find? (fun e => !e.finished) = some e) : g e ∈ onCurrent g q := by
  induction q with
  | nil => cases h
  | cons x r ih =>
    cases hx : x.finished with
    | false =>
      obtain rfl : x = e := by simpa [hx] using h
      simp [onCurrent, hx]
    | true =>
      rw [onCurrent, if_pos hx]
      exact List.mem_cons_of_mem _ (ih (by simpa [hx] using h))

/-- A write to local memory spoils rows of queued descriptors, and leaves the rest of them. -/
theorem markQueue_find? (a n : Nat) (own : Bool) (tr : BitVec 512) (h : q.find? (fun e => !e.finished) = some e) :
    ∃ rows, (markQueue a n own tr q).find? (fun e => !e.finished) = some { e with broken := rows } := by
  induction q generalizing own tr with
  | nil => cases h
  | cons x r ih =>
    cases hx : x.finished with
    | false =>
      obtain rfl : x = e := by simpa [hx] using h
      exact ⟨_, List.find?_cons_of_pos (by simp [hx])⟩
    | true =>
      obtain ⟨rows, hrows⟩ := ih (own && x.finished) (if x.op = 1 then tr else x.desc) (by simpa [hx] using h)
      exact ⟨rows, by simpa only [markQueue, List.find?_cons, hx, Bool.not_true] using hrows⟩

end Queue

/-- A change of every listed value that leaves the default, seen at one entry. -/
theorem look_mapEntries {α : Type} {d : α} {f : Nat → α → α} (hd : ∀ k, f k d = d) (m : SMap α) (k : Nat) :
    look d (m.map fun p => (p.1, f p.1 p.2)) k = f k (look d m k) := by
  induction m with
  | nil => exact (hd k).symm
  | cons p r ih =>
    simp only [List.map_cons, look]
    split
    · next hk => rw [hk]
    · exact ih

theorem Core.lmMark_arr (c : Core) (at_ n : Nat) (own : Option Nat) (b : Nat) :
    (c.lmMark at_ n own).arr b = (c.arr b).mark at_ n (own == some b) :=
  look_mapEntries (f := fun k m => MatArray.mark m at_ n (own == some k)) (fun _ => rfl) c.arrays b

@[simp] theorem State.onEntry_core (s : State) (l a : Nat) (g : MEntry → MEntry) :
    (s.onEntry l a g).core l = (s.core l).modArr a fun m => { m with queue := onCurrent g m.queue } := by
  simp [State.onEntry]

section Head

variable {s : State} {l a : Nat} {e : MEntry} {g : MEntry → MEntry}

theorem State.onEntry_current (h : ((s.core l).arr a).current = some e) (hg : (g e).finished = false) :
    (((s.onEntry l a g).core l).arr a).current = some (g e) := by
  rw [State.onEntry_core, Core.modArr_arr, if_pos rfl]
  exact onCurrent_find? h hg

theorem State.onEntry_mem (g : MEntry → MEntry) (h : ((s.core l).arr a).current = some e) :
    g e ∈ (((s.onEntry l a g).core l).arr a).queue := by
  simpa using onCurrent_mem g h

theorem MatArray.current_unfinished {m : MatArray} (h : m.current = some e) : e.finished = false := by
  simpa using List.find?_some h

end Head

/-! ### What an array's work leaves -/

/-- `t` differs from `s` only in the arrays and the local memory of core `l`, and in the free values drawn. -/
structure ArrayWork (l : Nat) (s t : State) : Prop where
  /-- everything outside the cores -/
  package : { t with cores := s.cores, free := s.free } = s
  /-- the other cores -/
  cores : ∀ j, j ≠ l → t.core j = s.core j
  /-- the rest of this core: registers, task, tile mover, barriers -/
  core : { t.core l with arrays := (s.core l).arrays, lm := (s.core l).lm } = s.core l

theorem ArrayWork.refl (l : Nat) (s : State) : ArrayWork l s s := ⟨rfl, fun _ _ => rfl, rfl⟩

theorem ArrayWork.trans {l : Nat} {s t u : State} (h : ArrayWork l s t) (k : ArrayWork l t u) : ArrayWork l s u where
  package := by
    have hp := h.package
    rw [← k.package] at hp
    exact hp
  cores j hj := (k.cores j hj).trans (h.cores j hj)
  core := by
    have hc := h.core
    rw [← k.core] at hc
    exact hc

/-- Free values drawn. -/
theorem ArrayWork.of_free (l : Nat) (s : State) (n : Nat) : ArrayWork l s { s with free := n } := ⟨rfl, fun _ _ => rfl, rfl⟩

/-- A change of the core's arrays and local memory. -/
theorem ArrayWork.of_modCore (l : Nat) (s : State) {g : Core → Core} (hg : ∀ c, { g c with arrays := c.arrays, lm := c.lm } = c) :
    ArrayWork l s (s.modCore l g) where
  package := rfl
  cores j hj := by simp [hj]
  core := by
    rw [State.modCore_core, if_pos rfl]
    exact hg _

theorem State.onEntry_work (s : State) (l a : Nat) (g : MEntry → MEntry) : ArrayWork l s (s.onEntry l a g) :=
  .of_modCore l s fun _ => rfl

theorem State.loadTile_work (s : State) (l a : Nat) (e : MEntry) : ArrayWork l s (s.loadTile l a e) := by
  refine (ArrayWork.of_modCore l s ?_).trans (State.onEntry_work _ l a _)
  exact fun _ => rfl

theorem ArrayWork.task {l : Nat} {s t : State} (h : ArrayWork l s t) : (t.core l).task = (s.core l).task := by
  have := congrArg Core.task h.core
  exact this

theorem ArrayWork.groups {l : Nat} {s t : State} (h : ArrayWork l s t) : (t.core l).groups = (s.core l).groups := by
  have := congrArg Core.groups h.core
  exact this

theorem ArrayWork.urgent {l : Nat} {s t : State} (h : ArrayWork l s t) : (t.core l).urgent = (s.core l).urgent := by
  have := congrArg Core.urgent h.core
  exact this

/-! ### One D row (R67, R83) -/

/-- Where D row `m` stands (Table 03.3). -/
def MEntry.rowAt (e : MEntry) (m : Nat) : Nat := e.f 160 21 + m * e.f 240 16

/-- Bytes of a row put into local memory as D row `m` of the descriptor at the head. -/
def State.putRow (s : State) (l a m at_ : Nat) (bs : List Byte) : State :=
  (s.modCore l fun c => (c.lmMark at_ bs.length (some a)).lmRaw at_ bs).onEntry l a fun e => { e with written := m + 1 }

theorem State.putRow_work (s : State) (l a m at_ : Nat) (bs : List Byte) : ArrayWork l s (s.putRow l a m at_ bs) := by
  refine (ArrayWork.of_modCore l s ?_).trans (State.onEntry_work _ l a _)
  exact fun _ => rfl

theorem State.putRow_lm (s : State) (l a m at_ : Nat) (bs : List Byte) :
    ((s.putRow l a m at_ bs).core l).lm = putBytes (s.core l).lm at_ bs := by
  simp [State.putRow, Core.lmRaw, Core.lmMark]

theorem State.putRow_arr (s : State) (l a m at_ : Nat) (bs : List Byte) :
    ((s.putRow l a m at_ bs).core l).arr a =
      { ((s.core l).arr a).mark at_ bs.length true with
        queue := onCurrent (fun e => { e with written := m + 1 }) (((s.core l).arr a).mark at_ bs.length true).queue } := by
  have hmark := Core.lmMark_arr (s.core l) at_ bs.length (some a) a
  rw [beq_self_eq_true] at hmark
  rw [State.putRow, State.onEntry_core, Core.modArr_arr, if_pos rfl, State.modCore_core, if_pos rfl, ← hmark]
  rfl

theorem State.putRow_current {s : State} {l a : Nat} {e : MEntry} (h : ((s.core l).arr a).current = some e) (m at_ : Nat)
    (bs : List Byte) :
    ∃ rows, (((s.putRow l a m at_ bs).core l).arr a).current = some { e with broken := rows, written := m + 1 } := by
  obtain ⟨rows, hrows⟩ := markQueue_find? at_ bs.length true _ h
  have hopen := MatArray.current_unfinished h
  rw [State.putRow_arr]
  exact ⟨rows, onCurrent_find? hrows hopen⟩

theorem bytesOf_length (n x : Nat) : (bytesOf n x).length = n := by
  induction n generalizing x with
  | zero => rfl
  | succ n ih => simp [bytesOf, ih]

theorem Core.dRow_length (c : Core) (e : MEntry) (t : Tile) (m : Nat) :
    (c.dRow e t m).length ≤ (fmtOf (e.f 23 5)).rowBytes (tileN t.record) := by
  simp only [Core.dRow, packRow, bytesOf_length, List.length_map, List.length_range, Fmt.rowBytes]
  split
  · next h => rw [h]; omega
  · exact Nat.le_refl _

/-- A D row written: free bytes where its inputs were spoiled, else the rounded column sums (R67, R83). -/
theorem State.writeRow_eq {s : State} {l a : Nat} {e : MEntry} {τ : Tile} (hcur : ((s.core l).arr a).current = some e)
    (htile : ((s.core l).arr a).tile = some τ) (m : Nat) :
    ∃ bs n, bs.length ≤ (fmtOf (e.f 23 5)).rowBytes (tileN τ.record) ∧ (m ∉ e.broken → bs = (s.core l).dRow e τ m) ∧
      s.writeRow l a m = State.putRow { s with free := n } l a m (e.rowAt m) bs := by
  cases hb : e.broken.contains m with
  | false =>
    refine ⟨(s.core l).dRow e τ m, s.free, Core.dRow_length .., fun _ => rfl, ?_⟩
    simp only [State.writeRow, hcur, htile, hb]
    rfl
  | true =>
    refine ⟨(s.drawBytes ((fmtOf (e.f 23 5)).rowBytes (tileN τ.record))).1,
      s.free + (fmtOf (e.f 23 5)).rowBytes (tileN τ.record), by simp [State.drawBytes], fun h => absurd (by simpa using hb) h, ?_⟩
    simp only [State.writeRow, hcur, htile, hb]
    rfl

/-- D row `m` of a descriptor covers the byte at `p`. -/
def MEntry.inRow (e : MEntry) (τ : Tile) (m p : Nat) : Prop :=
  e.rowAt m ≤ p ∧ p < e.rowAt m + (fmtOf (e.f 23 5)).rowBytes (tileN τ.record)

/-- The descriptor of `e` is at the head of array `a`, `n` of its rows have entered, and the array holds the tile `T`. -/
structure Core.AtHead (c : Core) (a : Nat) (e : MEntry) (n : Nat) (T : Option Tile) : Prop where
  /-- the entry at the head -/
  entry : ∃ x, (c.arr a).current = some x ∧ x.desc = e.desc ∧ x.entered = n
  /-- the tile -/
  tile : (c.arr a).tile = T

section Rows

variable {s : State} {l a : Nat} {e : MEntry} {n : Nat} {T : Option Tile} {τ : Tile}

theorem State.writeRow_noTile (htile : ((s.core l).arr a).tile = none) (m : Nat) : s.writeRow l a m = s := by
  cases hcur : ((s.core l).arr a).current <;> simp [State.writeRow, hcur, htile]

theorem State.writeRow_work (s : State) (l a m : Nat) : ArrayWork l s (s.writeRow l a m) := by
  cases hcur : ((s.core l).arr a).current with
  | none =>
    have hsame : s.writeRow l a m = s := by simp [State.writeRow, hcur]
    rw [hsame]
    exact .refl l s
  | some x =>
    cases htile : ((s.core l).arr a).tile with
    | none =>
      rw [State.writeRow_noTile htile]
      exact .refl l s
    | some τ =>
      obtain ⟨bs, k, -, -, hrow⟩ := State.writeRow_eq hcur htile m
      rw [hrow]
      exact (ArrayWork.of_free l s k).trans (State.putRow_work _ l a m _ bs)

theorem State.writeRow_atHead (h : (s.core l).AtHead a e n T) (m : Nat) : ((s.writeRow l a m).core l).AtHead a e n T := by
  obtain ⟨x, hcur, hdesc, hn⟩ := h.entry
  cases htile : ((s.core l).arr a).tile with
  | none => rwa [State.writeRow_noTile htile]
  | some τ =>
    obtain ⟨bs, k, -, -, hrow⟩ := State.writeRow_eq hcur htile m
    obtain ⟨rows, hrows⟩ := State.putRow_current (s := { s with free := k }) hcur m (x.rowAt m) bs
    rw [hrow]
    exact ⟨⟨_, hrows, hdesc, hn⟩, by rw [State.putRow_arr]; exact h.tile⟩

/-- A row writes no byte outside its D row. -/
theorem State.writeRow_lm (h : (s.core l).AtHead a e n (some τ)) {m p : Nat} (hp : ¬e.inRow τ m p) :
    look 0 ((s.writeRow l a m).core l).lm p = look 0 (s.core l).lm p := by
  obtain ⟨x, hcur, hdesc, -⟩ := h.entry
  obtain ⟨bs, k, hlen, -, hrow⟩ := State.writeRow_eq hcur h.tile m
  simp only [MEntry.inRow, MEntry.rowAt, MEntry.f, ← hdesc] at hp
  rw [hrow, State.putRow_lm, look_putBytes, if_neg]
  · rfl
  · simp only [MEntry.rowAt, MEntry.f] at hlen ⊢
    omega

theorem State.writeRows_work (s : State) (l a lo hi : Nat) : ArrayWork l s (s.writeRows l a lo hi) :=
  List.foldlRecOn _ _ (.refl l s) fun t ht m _ => ht.trans (t.writeRow_work l a m)

theorem State.writeRows_atHead (h : (s.core l).AtHead a e n T) (lo hi : Nat) : ((s.writeRows l a lo hi).core l).AtHead a e n T :=
  List.foldlRecOn (motive := fun t : State => (t.core l).AtHead a e n T) _ _ h fun _ ht m _ => State.writeRow_atHead ht m

/-- Rows write no byte outside their D rows. -/
theorem State.writeRows_lm (h : (s.core l).AtHead a e n (some τ)) {lo hi p : Nat} (hp : ∀ m, lo ≤ m → m < hi → ¬e.inRow τ m p) :
    look 0 ((s.writeRows l a lo hi).core l).lm p = look 0 (s.core l).lm p := by
  refine (List.foldlRecOn (motive := fun t : State => (t.core l).AtHead a e n (some τ) ∧
    look 0 (t.core l).lm p = look 0 (s.core l).lm p) _ _ ⟨h, rfl⟩ fun t ht m hm => ?_).2
  obtain ⟨hhead, hlook⟩ := ht
  simp only [List.mem_filter, List.mem_range, decide_eq_true_eq] at hm
  exact ⟨State.writeRow_atHead hhead m, (State.writeRow_lm hhead (hp m hm.2 hm.1)).trans hlook⟩

theorem State.writeRows_one (s : State) (l a m : Nat) : s.writeRows l a m (m + 1) = s.writeRow l a m := by
  have hrange : (List.range (m + 1)).filter (fun k => decide (m ≤ k)) = [m] := by
    have hbelow : (List.range m).filter (fun k => decide (m ≤ k)) = [] := by simp
    simp [List.range_succ, hbelow]
  simp only [State.writeRows, hrange, List.foldl_cons, List.foldl_nil]

/-! ### Rows that enter (R67, R68) -/

/-- The D rows that are due once `n` rows of A have entered: row m as row m + 64 enters, and all of them at the end. -/
def MEntry.due (e : MEntry) (n : Nat) : Nat := if n = e.rows then n else n - 64

/-- Rows enter up to row `n`, and the D rows that are due leave. -/
def State.enterRows (s : State) (l a : Nat) (e : MEntry) (n : Nat) : State :=
  (s.onEntry l a fun x => { x with entered := n }).writeRows l a e.written (e.due n)

/-- The descriptor at the head done (R82). -/
def State.finishHead (s : State) (l a : Nat) : State := s.onEntry l a fun x => { x with finished := true }

theorem State.enterTo_eq (h : ((s.core l).arr a).current = some e) (n : Nat) :
    s.enterTo l a n =
      let t := s.enterRows l a e (min e.rows n)
      if min e.rows n = e.rows then t.finishHead l a else t := by
  simp only [State.enterTo, h]
  rfl

theorem State.enterRows_work (s : State) (l a : Nat) (e : MEntry) (n : Nat) : ArrayWork l s (s.enterRows l a e n) :=
  (s.onEntry_work l a _).trans (State.writeRows_work _ l a _ _)

theorem State.enterTo_work (s : State) (l a n : Nat) : ArrayWork l s (s.enterTo l a n) := by
  cases hcur : ((s.core l).arr a).current with
  | none => simpa only [State.enterTo, hcur] using ArrayWork.refl l s
  | some e =>
    have hrows := s.enterRows_work l a e (min e.rows n)
    rw [State.enterTo_eq hcur]
    dsimp only
    split
    · exact hrows.trans (State.onEntry_work _ l a _)
    · exact hrows

theorem State.entered_atHead (h : ((s.core l).arr a).current = some e) (n : Nat) :
    ((s.onEntry l a fun x => { x with entered := n }).core l).AtHead a e n ((s.core l).arr a).tile :=
  ⟨⟨_, State.onEntry_current h (MatArray.current_unfinished (e := e) h), rfl, rfl⟩, by simp⟩

theorem State.enterRows_atHead (h : ((s.core l).arr a).current = some e) (n : Nat) :
    ((s.enterRows l a e n).core l).AtHead a e n ((s.core l).arr a).tile :=
  State.writeRows_atHead (State.entered_atHead h n) _ _

@[simp] theorem State.finishHead_lm (s : State) (l a : Nat) : ((s.finishHead l a).core l).lm = (s.core l).lm := by
  simp [State.finishHead]

@[simp] theorem State.finishHead_tile (s : State) (l a : Nat) :
    (((s.finishHead l a).core l).arr a).tile = ((s.core l).arr a).tile := by
  simp [State.finishHead]

theorem State.enterTo_lm_eq (h : ((s.core l).arr a).current = some e) (n : Nat) :
    ((s.enterTo l a n).core l).lm = ((s.enterRows l a e (min e.rows n)).core l).lm := by
  rw [State.enterTo_eq h]
  dsimp only
  split
  · exact State.finishHead_lm _ l a
  · rfl

theorem State.enterTo_tile (h : ((s.core l).arr a).current = some e) (n : Nat) :
    (((s.enterTo l a n).core l).arr a).tile = ((s.core l).arr a).tile := by
  have htile := (State.enterRows_atHead h (min e.rows n)).tile
  rw [State.enterTo_eq h]
  dsimp only
  split
  · rw [State.finishHead_tile, htile]
  · exact htile

/-- Before its last row the descriptor stays at the head, with the rows that have entered. -/
theorem State.enterTo_current (h : ((s.core l).arr a).current = some e) {n : Nat} (hn : min e.rows n < e.rows) :
    ∃ x, (((s.enterTo l a n).core l).arr a).current = some x ∧ x.desc = e.desc ∧ x.entered = min e.rows n := by
  rw [State.enterTo_eq h]
  dsimp only
  rw [if_neg (Nat.ne_of_lt hn)]
  exact (State.enterRows_atHead h _).entry

/-- With its last row the descriptor is finished. -/
theorem State.enterTo_finished (h : ((s.core l).arr a).current = some e) {n : Nat} (hn : min e.rows n = e.rows) :
    ∃ x ∈ (((s.enterTo l a n).core l).arr a).queue, x.desc = e.desc ∧ x.finished = true := by
  obtain ⟨x, hcur, hdesc, -⟩ := (State.enterRows_atHead h (min e.rows n)).entry
  rw [State.enterTo_eq h]
  dsimp only
  rw [if_pos hn]
  exact ⟨_, State.onEntry_mem _ hcur, hdesc, rfl⟩

/-- No byte outside the D rows between those written and those due is written. -/
theorem State.enterTo_lm (h : ((s.core l).arr a).current = some e) (htile : ((s.core l).arr a).tile = some τ) {n p : Nat}
    (hp : ∀ m, e.written ≤ m → m < e.due (min e.rows n) → ¬e.inRow τ m p) :
    look 0 ((s.enterTo l a n).core l).lm p = look 0 (s.core l).lm p := by
  have hhead := State.entered_atHead h (min e.rows n)
  rw [htile] at hhead
  rw [State.enterTo_lm_eq h, State.enterRows, State.writeRows_lm hhead hp]
  simp

/-- Where one row is due, and its inputs were not spoiled, it is the row of rounded column sums. -/
theorem State.enterTo_row (h : ((s.core l).arr a).current = some e) (htile : ((s.core l).arr a).tile = some τ) {n : Nat}
    (hb : e.written ∉ e.broken) (hdue : e.due (min e.rows n) = e.written + 1) {i : Nat}
    (hi : i < ((s.core l).dRow e τ e.written).length) :
    look 0 ((s.enterTo l a n).core l).lm (e.rowAt e.written + i) = ((s.core l).dRow e τ e.written).getD i 0 := by
  have hopen := MatArray.current_unfinished h
  have hcur := State.onEntry_current (g := fun x => { x with entered := min e.rows n }) h hopen
  obtain ⟨bs, k, -, hbs, hrow⟩ := State.writeRow_eq (τ := τ) hcur (by simpa using htile) e.written
  have hbs : bs = (s.core l).dRow e τ e.written := by
    rw [hbs hb, State.onEntry_core]
    rfl
  subst hbs
  rw [State.enterTo_lm_eq h, State.enterRows, hdue, State.writeRows_one, hrow, State.putRow_lm, look_putBytes]
  have hat : MEntry.rowAt { e with entered := min e.rows n } e.written = e.rowAt e.written := rfl
  rw [hat, if_pos ⟨Nat.le_add_right _ _, Nat.add_lt_add_left hi _⟩, Nat.add_sub_cancel_left]

end Rows

end Sys2Proof.Machine
end

section
/-! PROOF. LOADB, RUN and LOADB+RUN on the descriptor at the head (R67, R68, R71 to R74, R80 to R82). -/

namespace Sys2Proof.Machine

/-! ### The tile (R71, R74) -/

section Load

variable (s : State) (l a : Nat) (e : MEntry)

theorem State.loadTile_core : (s.loadTile l a e).core l =
    ((s.core l).modArr a fun m => { m with tile := some ((s.core l).tileFrom e.desc e.group) }).modArr a
      fun m => { m with queue := onCurrent (fun x => { x with loaded := true }) m.queue } := by
  rw [State.loadTile, State.onEntry_core, State.modCore_core, if_pos rfl]

theorem State.loadTile_tile :
    (((s.loadTile l a e).core l).arr a).tile = some ((s.core l).tileFrom e.desc e.group) := by
  simp [State.loadTile_core]

theorem State.loadTile_lm : ((s.loadTile l a e).core l).lm = (s.core l).lm := by
  simp [State.loadTile_core]

theorem State.loadTile_otherArr {b : Nat} (hb : b ≠ a) : ((s.loadTile l a e).core l).arr b = (s.core l).arr b := by
  simp [State.loadTile_core, hb]

variable {s l a e}

theorem State.loadTile_current (h : ((s.core l).arr a).current = some e) :
    (((s.loadTile l a e).core l).arr a).current = some { e with loaded := true } := by
  have hopen := MatArray.current_unfinished h
  refine State.onEntry_current (e := e) ?_ hopen
  rw [State.modCore_core, if_pos rfl, Core.modArr_arr, if_pos rfl]
  exact h

end Load

/-! ### The descriptor at the head is started -/

/-- The array of a running cluster takes descriptors, `e` is at its head, and an operation `op` is about it. -/
def HeadReady (s : State) (l a op : Nat) (e : MEntry) : Prop :=
  l < 512 ∧ a < 2 ∧ s.arraysRun l = true ∧ ((s.core l).arr a).stop = .running ∧ ((s.core l).arr a).current = some e ∧
    e.named op = true

section Ready

variable {s : State} {l a op : Nat} {e : MEntry} {k : MEntry → State → State}

theorem HeadReady.current (h : HeadReady s l a op e) : ((s.core l).arr a).current = some e := h.2.2.2.2.1

/-- A descriptor that has started goes on. -/
theorem HeadReady.onHead_started (h : HeadReady s l a op e) (hs : e.started = true) : onHead op l a k s = .next (k e s) := by
  obtain ⟨hl, ha, hrun, hstop, hcur, hop⟩ := h
  simp [onHead, unit, need, hl, ha, hrun, hstop, hcur, hop, hs]

/-- A descriptor that has not is checked first (R80). -/
theorem HeadReady.onHead_checked (h : HeadReady s l a op e) (hs : e.started = false) :
    onHead op l a k s = .next (if (s.checkHead l a e).2 then k e (s.checkHead l a e).1 else (s.checkHead l a e).1) := by
  obtain ⟨hl, ha, hrun, hstop, hcur, hop⟩ := h
  simp [onHead, unit, need, hl, ha, hrun, hstop, hcur, hop, hs]

/-- A descriptor whose checks have passed is at the head as before. -/
theorem HeadReady.start (h : HeadReady s l a op e) :
    HeadReady (s.onEntry l a fun x => { x with started := true }) l a op { e with started := true } := by
  obtain ⟨hl, ha, hrun, hstop, hcur, hop⟩ := h
  have hopen := MatArray.current_unfinished hcur
  exact ⟨hl, ha, hrun, by simpa using hstop, State.onEntry_current hcur hopen, hop⟩

/-- Once its checks pass, a descriptor does what a started one does. -/
theorem HeadReady.onHead_passes (h : HeadReady s l a op e) (hs : e.started = false)
    (hk : ∀ t, k { e with started := true } t = k e t) (hpass : worstOf (e.checks ((s.core l).arr a).tile) = none) :
    onHead op l a k s = onHead op l a k (s.onEntry l a fun x => { x with started := true }) := by
  rw [h.onHead_checked hs, h.start.onHead_started rfl, hk, State.checkHead, worstOf_eq_none.1 hpass]
  rfl

/-- A descriptor that fails its checks traps the task with the worst of the causes (R16, R80, R81). -/
theorem HeadReady.onHead_fails (h : HeadReady s l a op e) (hs : e.started = false) {st : BitVec 8} {τ : Task}
    (hfail : worstOf (e.checks ((s.core l).arr a).tile) = some st) (hτ : (s.core l).task = some τ) :
    ∃ t, onHead op l a k s = .next t ∧ (t.core l).task = some { τ with phase := .trapped, status := worse τ.status st } ∧
      ((t.core l).arr a).queue = [] ∧ (t.core l).lm = (s.core l).lm ∧ t.mem = s.mem := by
  have hhalts := State.trapDescs_halts hfail s l e.group
  have hcheck : s.checkHead l a e = (s.trapDescs l e.group (e.checks ((s.core l).arr a).tile), false) := by
    unfold State.checkHead
    split
    · next hc => rw [hc]
    · next hc => simp [hc, worstOf] at hfail
  obtain ⟨hmem, -⟩ := hhalts.memory
  refine ⟨_, h.onHead_checked hs, ?_⟩
  rw [hcheck]
  exact ⟨by rw [if_neg Bool.false_ne_true, hhalts.core.task, hτ]; rfl, hhalts.core.arrays a, (hhalts.data l).lm, hmem⟩

end Ready

/-! ### The three operations -/

/-- LOADB's effect: the tile is latched, and the descriptor is done (R71, R82). -/
def latch (l a : Nat) (e : MEntry) (s : State) : State := (s.loadTile l a e).finishHead l a

/-- RUN's effect: the next rows of A enter (R67). -/
def enter (l a rows : Nat) (e : MEntry) (s : State) : State := s.enterTo l a (e.entered + rows)

/-- LOADB+RUN's effect: the tile once, then rows (R72, R73). -/
def latchAndEnter (l a rows : Nat) (e : MEntry) (s : State) : State :=
  (if e.loaded then s else s.loadTile l a e).enterTo l a (e.entered + rows)

theorem exec_loadb (l a : Nat) (s : State) : exec (.loadb l a) s = onHead 0 l a (latch l a) s := rfl

theorem exec_run (l a rows : Nat) (s : State) : exec (.run l a rows) s = onHead 1 l a (enter l a rows) s := rfl

theorem exec_loadbRun (l a rows : Nat) (s : State) : exec (.loadbRun l a rows) s = onHead 2 l a (latchAndEnter l a rows) s := rfl

/-- Outside the arrays and the local memory of its core, an array's work leaves everything. -/
theorem ArrayWork.frame {l : Nat} {s t : State} (h : ArrayWork l s t) :
    { t with cores := s.cores, free := s.free } = s ∧ (∀ j, j ≠ l → t.core j = s.core j) ∧
      (t.core l).groups = (s.core l).groups ∧ (t.core l).task = (s.core l).task :=
  ⟨h.package, h.cores, h.groups, h.task⟩

end Sys2Proof.Machine

open Sys2Proof Sys2Proof.Machine

/-- Settles O26: a started descriptor loads its tile (`State.loadTile_core`) and enters rows (`State.enterTo_current`,
`State.enterTo_lm`, `State.enterTo_row`); one not started is checked first (`HeadReady.onHead_passes`, `HeadReady.onHead_fails`). -/
theorem matrixArrayOperations : Obligations.MatrixArrayOperations := by
  unfold Obligations.MatrixArrayOperations
  intro ready due row frame entersTo
  refine ⟨fun s l a e hr hs => ?loadb, fun s l a e rows hr hs => ?run, fun s l a e rows hr hs hload => ?loadbRun,
    fun i s l a e rows hi hs => ?unstarted⟩
  case loadb =>
    have h : HeadReady s l a 0 e := hr
    have hwork := (s.loadTile_work l a e).trans (State.onEntry_work _ l a fun x => { x with finished := true })
    refine ⟨_, (exec_loadb l a s).trans (h.onHead_started hs), ?_, ?_, hwork.frame,
      ⟨_, State.onEntry_mem _ (State.loadTile_current h.current), rfl, rfl⟩, fun b hb => ?_⟩
    · simpa [latch] using s.loadTile_tile l a e
    · simpa [latch] using s.loadTile_lm l a e
    · simpa [latch, State.finishHead, hb] using s.loadTile_otherArr l a e hb
  case run =>
    have h : HeadReady s l a 1 e := hr
    have hcur := h.current
    exact ⟨_, (exec_run l a rows s).trans (h.onHead_started hs),
      ⟨State.enterTo_current hcur, State.enterTo_finished hcur, (s.enterTo_work l a _).frame⟩,
      fun τ htile => ⟨fun p hp => State.enterTo_lm hcur htile hp, fun hb hdue i hi => State.enterTo_row hcur htile hb hdue hi⟩⟩
  case loadbRun =>
    have h : HeadReady s l a 2 e := hr
    have hcur := State.loadTile_current h.current
    have hlatch : latchAndEnter l a rows e s = (s.loadTile l a e).enterTo l a (e.entered + rows) := by
      simp only [latchAndEnter, hload, Bool.false_eq_true, if_false]
    refine ⟨_, (exec_loadbRun l a rows s).trans (h.onHead_started hs), ?_⟩
    rw [hlatch]
    exact ⟨(State.enterTo_tile hcur _).trans (s.loadTile_tile l a e), State.enterTo_current hcur, State.enterTo_finished hcur,
      ((s.loadTile_work l a e).trans (State.enterTo_work _ l a _)).frame⟩
  case unstarted =>
    rcases hi with ⟨rfl, hr⟩ | ⟨rfl, hr⟩ | ⟨rfl, hr⟩
    · have h : HeadReady s l a 0 e := hr
      simp only [exec_loadb]
      exact ⟨h.onHead_passes hs fun _ => rfl, fun _ _ => h.onHead_fails hs⟩
    · have h : HeadReady s l a 1 e := hr
      simp only [exec_run]
      exact ⟨h.onHead_passes hs fun _ => rfl, fun _ _ => h.onHead_fails hs⟩
    · have h : HeadReady s l a 2 e := hr
      simp only [exec_loadbRun]
      exact ⟨h.onHead_passes hs fun _ => rfl, fun _ _ => h.onHead_fails hs⟩

end

section
/-! PROOF. Completion of matrix descriptors, stops of arrays, and parity mismatches (R82, R90 to R92, R95 to R97, R174). -/

namespace Sys2Proof.Machine

/-! ### Completion (R82, R174) -/

/-- Threads that go on after a token wait keep registers and tokens. -/
theorem Group.wakeTokens_keeps {α : Type} {π : Group → α} (hw : ∀ g t w, π (Group.setWait g t w) = π g)
    (hs : ∀ (g : Group) x, π { g with seenTokenWrites := x } = π g) (g : Group) : π g.wakeTokens = π g := by
  refine List.foldlRecOn (motive := fun x => π x = π g) _ _ rfl fun x hx t _ => ?_
  split
  · split
    · exact (hs _ _).trans ((hw _ _ _).trans hx)
    · exact hx
  · exact hx

theorem Group.tokDone_tok (g : Group) (t j : Nat) : (g.tokDone t).tok j = g.tok j - if j = t then 1 else 0 := by
  have hkeep : (g.tokDone t).tok j = look 0 (put 0 g.tokens t (g.tok t - 1)) j :=
    Group.wakeTokens_keeps (π := fun g => g.tok j) (fun _ _ _ => rfl) (fun _ _ => rfl) _
  rw [hkeep, look_put]
  split
  · next hj => rw [hj]
  · rfl

theorem Group.tokDone_vregs (g : Group) (t : Nat) : (g.tokDone t).vregs = g.vregs :=
  Group.wakeTokens_keeps (π := Group.vregs) (fun _ _ _ => rfl) (fun _ _ => rfl) _

/-- Groups that try again after a full queue keep everything but that they are held. -/
theorem Core.wakeHeld_group {α : Type} {π : Group → α} (hπ : ∀ g : Group, π { g with held := false } = π g) (c : Core) (j : Nat) :
    π (c.wakeHeld.group j) = π (c.group j) := by
  refine List.foldlRecOn (motive := fun x : Core => π (x.group j) = π (c.group j)) _ _ rfl fun x hx i _ => ?_
  rw [Core.modGroup_group]
  split
  · next hj => rw [hπ, ← hj, hx]
  · exact hx

/-- Outside the groups nothing changes for a core whose held groups try again. -/
theorem Core.wakeHeld_keeps {α : Type} {π : Core → α} (hπ : ∀ c i g, π (Core.modGroup c i g) = π c) (c : Core) :
    π c.wakeHeld = π c :=
  List.foldlRecOn (motive := fun x : Core => π x = π c) _ _ rfl fun x hx i _ => (hπ x i _).trans hx

/-- What a completion leaves of its core beside the arrays and the groups. -/
theorem Core.matPop_keeps {α : Type} {π : Core → α} (hg : ∀ c i g, π (Core.modGroup c i g) = π c)
    (ha : ∀ c i g, π (Core.modArr c i g) = π c) (c : Core) (a : Nat) : π (c.matPop a) = π c := by
  unfold Core.matPop
  split
  · rfl
  · split
    · exact (Core.wakeHeld_keeps hg _).trans ((hg _ _ _).trans (ha _ _ _))
    · rfl

/-- The finished descriptor in front of a queue leaves it. -/
theorem Core.matPop_finished {c : Core} {a : Nat} {e : MEntry} {q : List MEntry} (hq : (c.arr a).queue = e :: q)
    (hf : e.finished = true) :
    c.matPop a = ((c.modArr a fun m => { m with queue := q }).modGroup e.group fun g => g.tokDone (e.f 40 4)).wakeHeld := by
  simp [Core.matPop, hq, hf]

theorem Core.matPop_queue {c : Core} {a : Nat} {e : MEntry} {q : List MEntry} (hq : (c.arr a).queue = e :: q)
    (hf : e.finished = true) : ((c.matPop a).arr a).queue = q := by
  rw [Core.matPop_finished hq hf, Core.wakeHeld_keeps (π := fun c => (c.arr a).queue) fun _ _ _ => rfl]
  simp

/-- Its token counts one less. -/
theorem Core.matPop_tok {c : Core} {a : Nat} {e : MEntry} {q : List MEntry} (hq : (c.arr a).queue = e :: q)
    (hf : e.finished = true) (j : Nat) :
    ((c.matPop a).group e.group).tok j = (c.group e.group).tok j - if j = e.f 40 4 then 1 else 0 := by
  rw [Core.matPop_finished hq hf, Core.wakeHeld_group (π := fun g => g.tok j) fun _ => rfl, Core.modGroup_group, if_pos rfl]
  exact Group.tokDone_tok _ _ j

theorem Core.matPop_vregs {c : Core} {a : Nat} {e : MEntry} {q : List MEntry} (hq : (c.arr a).queue = e :: q)
    (hf : e.finished = true) (j : Nat) : ((c.matPop a).group j).vregs = (c.group j).vregs := by
  rw [Core.matPop_finished hq hf, Core.wakeHeld_group (π := Group.vregs) fun _ => rfl, Core.modGroup_group]
  split
  · next hj => rw [Group.tokDone_vregs, hj]; rfl
  · rfl

/-! ### Stops (R90 to R92) -/

theorem State.freeSums_work (l : Nat) (xs : List (Option Nat)) (s : State) : ArrayWork l s (s.freeSums xs).2 := by
  induction xs generalizing s with
  | nil => exact .refl l s
  | cons x xs ih =>
    cases x with
    | some x => exact ih s
    | none => exact (ArrayWork.of_free l s (s.free + 1)).trans (ih _)

theorem State.save_work (s : State) (l a progress : Nat) (window : Bool) : ArrayWork l s (s.save l a progress window) := by
  unfold State.save
  dsimp only
  split
  · exact .refl l s
  · refine (ArrayWork.trans ?sums (.of_modCore l _ ?area)).trans (State.onEntry_work _ l a _)
    case area => exact fun _ => rfl
    case sums =>
      split
      · exact State.freeSums_work l _ s
      · exact .refl l s

/-- A stop finishes or saves the descriptor in progress by an array's work, and then its finished descriptors complete. -/
theorem State.stopCurrent_eq (s : State) (l a : Nat) : ∃ t, ArrayWork l s t ∧ s.stopCurrent l a = t.popFinished l a := by
  refine ⟨_, ?_, rfl⟩
  split
  · -- no descriptor is left
    exact .refl l s
  · split
    · -- the one at the head has not started
      exact .refl l s
    · split
      · -- a LOADB+RUN without a row entered: saved with its tile
        refine ArrayWork.trans ?_ (State.save_work _ l a _ _)
        split
        · exact .refl l s
        · exact s.loadTile_work l a _
      · split
        · -- at most one pass of rows is left: finished
          exact s.enterTo_work l a _
        · split
          · -- after a parity mismatch: saved without its window
            exact (s.onEntry_work l a _).trans (State.save_work _ l a _ _)
          · -- saved at the next pass boundary
            exact ((s.onEntry_work l a _).trans (State.writeRows_work _ l a _ _)).trans (State.save_work _ l a _ _)

/-- A stop leaves memory, the clusters, the other cores and what its own core is asked for. -/
theorem State.stopArray_frame (s : State) (l a : Nat) :
    (s.stopArray l a).mem = s.mem ∧ (s.stopArray l a).clusters = s.clusters ∧
      (∀ j, j ≠ l → (s.stopArray l a).core j = s.core j) ∧ ((s.stopArray l a).core l).urgent = (s.core l).urgent := by
  obtain ⟨t, ht, hstop⟩ := s.stopCurrent_eq l a
  have hmem := congrArg State.mem ht.package
  have hclusters := congrArg State.clusters ht.package
  rw [State.stopArray, hstop, State.popFinished]
  refine ⟨hmem, hclusters, fun j hj => ?_, ?_⟩
  · simp [hj, ht.cores j hj]
  · simp only [State.modCore_core, if_true]
    have hpop : ∀ c : Core, ((List.range 4).foldl (fun c _ => c.matPop a) c).urgent = c.urgent := fun c =>
      List.foldlRecOn (motive := fun x : Core => x.urgent = c.urgent) _ _ rfl fun x hx _ _ =>
        (Core.matPop_keeps (fun _ _ _ => rfl) (fun _ _ _ => rfl) x a).trans hx
    exact (hpop _).trans ht.urgent

/-- A stopped array keeps the descriptors that are saved, and gives the others back (R91, R92). -/
theorem State.stopArray_arr (s : State) (l a : Nat) :
    ((s.stopArray l a).core l).arr a = (((s.stopCurrent l a).core l).arr a).giveBack := by
  simp [State.stopArray]

/-! ### Parity mismatches (R95 to R97) -/

/-- The descriptor at the head restarts at its restart row, with one more mismatch counted (R95 to R97). -/
def MEntry.restart (e : MEntry) (x : MEntry) : MEntry :=
  { x with parity := x.parity + 1, entered := e.restartRow, written := e.restartRow, resumeAt := none, sums := [] }

/-- The restart noted in the descriptor of the running task's launch, and recorded (R97). -/
def State.noteRestart (s : State) (l a row : Nat) : State :=
  let (q, i) := match (s.core l).task with | some t => (t.queue, t.desc) | none => (0, 0)
  (s.modDesc q i fun d => { d with recov := d.recov + 1 }).record 0x03 1 0x01 0 (locOf 1 l)
    (detailOf [(0, 4, q), (4, 4, i), (8, 1, a), (0xA, 2, row)])

theorem State.noteRestart_core (s : State) (l a row j : Nat) : (s.noteRestart l a row).core j = s.core j := by
  simp only [State.noteRestart, State.core, record_cores]
  rfl

theorem State.reloadTile_core (s : State) (l a : Nat) : (s.reloadTile l a).core l =
    (s.core l).modArr a fun m => { m with tile := m.tile.map fun t => (s.core l).tileFrom t.record t.group } := by
  simp [State.reloadTile]

section Parity

variable {s : State} {l a : Nat} {e : MEntry} {τ : Tile}

/-- A mismatch of an array that holds a tile always has an outcome. -/
theorem parityMismatch_completes (hl : l < 512) (ha : a < 2) (hrun : s.arraysRun l = true)
    (htile : ((s.core l).arr a).tile = some τ) : ∃ t, execArrayParityMismatch l a s = .next t := by
  simp only [execArrayParityMismatch, unit, need, hl, ha, hrun, htile, if_true]
  cases ((s.core l).arr a).current with
  | none => exact ⟨_, rfl⟩
  | some e =>
    dsimp only
    split
    · exact ⟨_, rfl⟩
    · split
      · exact ⟨_, rfl⟩
      · split <;> exact ⟨_, rfl⟩

/-- The first mismatch of a descriptor whose D overlaps no input restarts it. -/
theorem parityMismatch_restarts (hl : l < 512) (ha : a < 2) (hrun : s.arraysRun l = true)
    (htile : ((s.core l).arr a).tile = some τ) (hcur : ((s.core l).arr a).current = some e) (hs : e.started = true)
    (hfirst : e.parity = 0) (hover : e.overlaps τ = false ∨ e.op = 0) (hstop : ((s.core l).arr a).stop = .running) :
    execArrayParityMismatch l a s = .next (((s.onEntry l a e.restart).reloadTile l a).noteRestart l a e.restartRow) := by
  have hno : (e.overlaps τ && e.op != 0) = false := by
    rcases hover with h | h <;> simp [h]
  have hzero : ¬e.parity ≥ 1 := by omega
  have hgoes : ¬((s.core l).arr a).stop = .stopping := by simp [hstop]
  simp only [execArrayParityMismatch, unit, need, hl, ha, hrun, htile, hcur, hs, hzero, hno, hgoes, if_true, if_false,
    Bool.not_true, Bool.false_eq_true]
  rfl

end Parity

end Sys2Proof.Machine

open Sys2Proof Sys2Proof.Machine

/-- Settles O27: a completion pops the front of the queue (`Core.matPop_finished`), a stop is an array's work and then completions
(`State.stopCurrent_eq`), and a first mismatch restarts the descriptor (`parityMismatch_restarts`). -/
theorem matrixCompletionStopAndParity : Obligations.MatrixCompletionStopAndParity := by
  unfold Obligations.MatrixCompletionStopAndParity
  refine ⟨fun s l a e q hl ha hq hf _ => ?completion, fun s l a hl ha hrun hstop => ?stop,
    fun s l a τ hl ha hrun htile => ⟨parityMismatch_completes hl ha hrun htile,
      fun e hcur hs hfirst hover hstop => ?restart⟩⟩
  case completion =>
    have hexec : exec (.matrixCompletion l a) s = .next (s.modCore l fun c => c.matPop a) := by
      show execMatrixCompletion l a s = _
      simp [execMatrixCompletion, unit, need, hl, ha, hq, hf]
    refine ⟨_, hexec, ?_⟩
    rw [State.modCore_core, if_pos rfl]
    exact ⟨Core.matPop_queue hq hf, Core.matPop_tok hq hf, fun j r k => congrArg (look 0 · (r * 32 + k)) (Core.matPop_vregs hq hf j),
      Core.matPop_keeps (fun _ _ _ => rfl) (fun _ _ _ => rfl) _ a, rfl⟩
  case stop =>
    have hexec : exec (.arrayStopDone l a) s = .next ((s.stopArray l a).preemptTry l) := by
      show execArrayStopDone l a s = _
      simp [execArrayStopDone, unit, need, hl, ha, hrun, hstop]
    refine ⟨_, hexec, fun hurgent => ?_⟩
    obtain ⟨hmem, hclusters, hcores, hasked⟩ := s.stopArray_frame l a
    rw [State.preemptTry_none (hasked.trans hurgent), State.stopArray_arr]
    exact ⟨rfl, by simp [MatArray.giveBack], by simp [MatArray.giveBack], hmem, hclusters, hcores⟩
  case restart =>
    have hopen := MatArray.current_unfinished hcur
    have hcurrent : ((((s.onEntry l a e.restart).reloadTile l a).core l).arr a).current = some (e.restart e) := by
      rw [State.reloadTile_core, Core.modArr_arr, if_pos rfl]
      exact State.onEntry_current hcur hopen
    refine ⟨_, e.restart e, parityMismatch_restarts hl ha hrun htile hcur hs hfirst hover hstop, ?_⟩
    rw [State.noteRestart_core]
    refine ⟨hcurrent, congrArg (· + 1) hfirst, rfl, rfl, rfl, ?_, ?_, ?_⟩
    · simp only [State.reloadTile_core, State.onEntry_core, Core.modArr_arr, if_true, htile]
      rfl
    · rw [State.reloadTile_core, State.onEntry_core]
      rfl
    · rw [State.reloadTile_core, State.onEntry_core]
      rfl

end

section
/-! PROOF. The canonical form of the register files, kept by every instruction of the arithmetic port (R104, R143, R148, R157). -/

namespace Sys2Proof.Machine

/-! ### The register files of a group -/

/-- The register files of a group are in canonical form. -/
def Group.RegsWf (g : Group) : Prop :=
  SMap.wf 0 g.vregs = true ∧ SMap.wf 0 g.uregs = true ∧ SMap.wf 0 g.preds = true ∧ SMap.wf 0 g.pcs = true

/-- The register files of every group of a core are in canonical form. -/
def Core.RegsWf (c : Core) : Prop := ∀ j, (c.group j).RegsWf

theorem State.regsWf_iff (s : State) : s.regsWf ↔ ∀ l, (s.core l).RegsWf := Iff.rfl

theorem Group.RegsWf.setV {g : Group} (hg : g.RegsWf) (r t : Nat) (x : W32) : (g.setV r t x).RegsWf := by
  obtain ⟨hv, hu, hp, hpc⟩ := hg
  exact ⟨put_wf 0 _ _ _ hv, hu, hp, hpc⟩

theorem Group.RegsWf.setU {g : Group} (hg : g.RegsWf) (r : Nat) (x : W64) : (g.setU r x).RegsWf := by
  obtain ⟨hv, hu, hp, hpc⟩ := hg
  exact ⟨hv, put_wf 0 _ _ _ hu, hp, hpc⟩

theorem Group.RegsWf.setP {g : Group} (hg : g.RegsWf) (i t : Nat) (b : Bool) : (g.setP i t b).RegsWf := by
  obtain ⟨hv, hu, hp, hpc⟩ := hg
  exact ⟨hv, hu, put_wf 0 _ _ _ hp, hpc⟩

theorem Group.RegsWf.setPc {g : Group} (hg : g.RegsWf) (t : Nat) (x : W64) : (g.setPc t x).RegsWf := by
  obtain ⟨hv, hu, hp, hpc⟩ := hg
  exact ⟨hv, hu, hp, put_wf 0 _ _ _ hpc⟩

theorem Group.RegsWf.result {g : Group} (hg : g.RegsWf) (ty : Ty) (d k x : Nat) : (g.result ty d k x).RegsWf := by
  unfold Group.result Group.setV64
  split
  · exact (hg.setV _ _ _).setV _ _ _
  · exact hg.setV _ _ _

theorem Group.RegsWf.writeThreads {g : Group} (hg : g.RegsWf) (ty : Ty) (d : Nat) (act : List Nat) (val : Nat → Nat) :
    (writeThreads ty d act val g).RegsWf :=
  List.foldlRecOn act _ hg fun _ h k _ => h.result ty d k (val k)

theorem Group.RegsWf.writePreds {g : Group} (hg : g.RegsWf) (i : Nat) (act : List Nat) (val : Nat → Bool) :
    (writePreds i act val g).RegsWf :=
  List.foldlRecOn act _ hg fun _ h k _ => h.setP i k (val k)

/-! ### Cores and the package -/

theorem Core.RegsWf.of_groups {c c' : Core} (hc : c.RegsWf) (h : c'.groups = c.groups) : c'.RegsWf := by
  intro j
  rw [Core.group, h]
  exact hc j

theorem Core.RegsWf.modGroup {c : Core} (hc : c.RegsWf) {f : Group → Group} (hf : ∀ g, g.RegsWf → (f g).RegsWf) (i : Nat) :
    (c.modGroup i f).RegsWf := by
  intro j
  rw [Core.modGroup_group]
  split
  · exact hf _ (hc i)
  · exact hc j

theorem State.regsWf_modCore {s : State} (hs : s.regsWf) {f : Core → Core} (hf : ∀ c, c.RegsWf → (f c).RegsWf) (l : Nat) :
    (s.modCore l f).regsWf := by
  rw [State.regsWf_iff] at hs ⊢
  intro j
  rw [State.modCore_core]
  split
  · exact hf _ (hs l)
  · exact hs j

theorem State.regsWf_of_cores {s t : State} (hs : s.regsWf) (h : t.cores = s.cores) : t.regsWf := by
  intro l
  rw [State.core, h]
  exact hs l

theorem State.regsWf_onGroup {s : State} (hs : s.regsWf) (c : Ctx) {f : Group → Group} (hf : ∀ g, g.RegsWf → (f g).RegsWf) :
    (s.onGroup c f).regsWf :=
  State.regsWf_modCore hs (fun _ hc => hc.modGroup hf c.gi) c.l

/-! ### Traps and retirement -/

theorem Core.RegsWf.haltIssue {c : Core} (hc : c.RegsWf) (st : BitVec 8) (group : Nat) : (c.haltIssue st group).RegsWf := by
  have hcycle : (c.haltCycle st (if group < 16 then c.lastPort else 3)).RegsWf := hc.of_groups rfl
  unfold Core.haltIssue
  dsimp only
  split
  · exact hcycle.modGroup (f := fun g => { g with trapped := some (g.trapped.getD st) }) (fun _ hg => hg) group
  · exact hcycle

/-- A trap writes no register: what it changes of a group is the status of its first trap (R143). -/
theorem State.regsWf_trap {s : State} (hs : s.regsWf) (l group : Nat) (st : BitVec 8) (pc mask code : Nat) :
    (s.trap l group st pc mask code).regsWf := by
  have hown : (s.modCore l (Core.haltIssue st group)).regsWf :=
    State.regsWf_modCore hs (fun _ hc => hc.haltIssue st group) l
  have hspread : ((s.modCore l (Core.haltIssue st group)).trapSpread l st).regsWf := fun j =>
    State.trapSpread_keeps (P := Core.RegsWf) (fun _ hc => hc.of_groups rfl) (fun _ hc => hc.of_groups rfl) l (hown j)
  rw [State.trap_eq]
  dsimp only
  split
  · exact State.regsWf_of_cores hspread (record_cores _ _ _ _ _ _ _)
  · exact hspread

/-- Retirement writes program counters alone. -/
theorem State.regsWf_retire {s : State} (hs : s.regsWf) (c : Ctx) (n : Needs) : (s.retire c n).regsWf := by
  refine State.regsWf_modCore hs (fun k hk => ?_) c.l
  have hcache : (k.cacheStep c.gi n).RegsWf := by
    obtain ⟨rc, hrc⟩ := Core.cacheStep_group k c.gi n
    intro j
    rw [hrc]
    split
    · exact hk c.gi
    · exact hk j
  have hport : ((k.cacheStep c.gi n).usePort s.ticks.toNat c.pc.toNat n).RegsWf := hcache.of_groups rfl
  have hgroup := hport.modGroup (f := fun g =>
      { c.set.foldl (fun g t => g.setPc t (c.pc + BitVec.ofNat 64 n.len)) g with ages := g.ageAfter c.set })
    (fun g hg => by
      have hpcs : (c.set.foldl (fun g t => g.setPc t (c.pc + BitVec.ofNat 64 n.len)) g).RegsWf :=
        List.foldlRecOn c.set _ hg fun _ h t _ => h.setPc t _
      exact hpcs) c.gi
  dsimp only
  split
  · exact hgroup.of_groups rfl
  · exact hgroup.of_groups rfl

/-! ### The shapes of an arithmetic instruction -/

/-- An effect keeps the register files in canonical form. -/
def KeepsRegsWf (k : Ctx → State → State) : Prop := ∀ c s, s.regsWf → (k c s).regsWf

/-- An issue keeps the canonical form where its effect does, whether it traps or retires. -/
theorem issue_regsWf {s t : State} {site : Site} {h : Hdr} {n : Needs} {k : Ctx → State → State} (hk : KeepsRegsWf k)
    (hs : s.regsWf) (ht : issue site h n k s = .next t) : t.regsWf := by
  unfold issue at ht
  split at ht
  · cases ht
  · next c hc =>
    split at ht
    · cases ht
    · split at ht
      · have hport : (s.modCore c.l fun k => k.usePort s.ticks.toNat c.pc.toNat n).regsWf :=
          State.regsWf_modCore hs (f := fun k => k.usePort s.ticks.toNat c.pc.toNat n) (fun _ hc => hc.of_groups rfl) c.l
        exact Host.Outcome.next.inj ht ▸ State.regsWf_trap hport _ _ _ _ _ _
      · exact Host.Outcome.next.inj ht ▸ hk c _ (State.regsWf_retire hs c n)

theorem keepsRegsWf_writeThreads {ty : Ctx → Ty} {d : Nat} {val : Ctx → Nat → Nat} :
    KeepsRegsWf fun c s => s.onGroup c (writeThreads (ty c) d c.act (val c)) :=
  fun c _ hs => State.regsWf_onGroup hs c fun _ hg => hg.writeThreads _ _ _ _

theorem keepsRegsWf_writePreds {i : Nat} {val : Ctx → Nat → Bool} :
    KeepsRegsWf fun c s => s.onGroup c (writePreds i c.act (val c)) :=
  fun c _ hs => State.regsWf_onGroup hs c fun _ hg => hg.writePreds _ _ _

/-- An instruction that writes a u register once per issue (R157). -/
theorem keepsRegsWf_setU {d : Nat} {val : Ctx → Group → W64} :
    KeepsRegsWf fun c s => once c s (s.onGroup c fun g => g.setU d (val c g)) := by
  intro c s hs
  dsimp only [once]
  split
  · exact hs
  · exact State.regsWf_onGroup hs c fun _ hg => hg.setU _ _

section Shapes

variable {s t : State} {site : Site} {h : Hdr} {f : FmtR}

theorem rResult_regsWf {sp : RSpec} {op : Ty → Nat → Nat → Nat → Nat} (hs : s.regsWf)
    (ht : rResult sp op site h f s = .next t) : t.regsWf :=
  issue_regsWf (keepsRegsWf_writeThreads (ty := fun _ => f.type)) hs ht

theorem rPred_regsWf {sp : RSpec} {op : Ty → Nat → Nat → Bool} (hs : s.regsWf) (ht : rPred sp op site h f s = .next t) :
    t.regsWf :=
  issue_regsWf keepsRegsWf_writePreds hs ht

theorem uResult_regsWf {a b c : Bool} {ok : Ty → Bool} {op : Ty → Nat → Nat → Nat → Nat} (hs : s.regsWf)
    (ht : uResult a b c ok op site h f s = .next t) : t.regsWf :=
  issue_regsWf keepsRegsWf_setU hs ht

/-- VOTE writes a predicate or, as BALLOT, a register (R164). -/
theorem vote_regsWf (hs : s.regsWf) (ht : execVote site h f s = .next t) : t.regsWf := by
  refine issue_regsWf (fun c s hs => State.regsWf_onGroup hs c fun g hg => ?_) hs ht
  rcases f.fn.toNat % 4 with _ | _ | mode
  · exact hg.writePreds _ _ _
  · exact hg.writePreds _ _ _
  · exact hg.writeThreads _ _ _ _

end Shapes

/-! ### The opcodes below 0x70 (Table 05.9) -/

/-- The opcode of an instruction word (R149). -/
def opcodeOf (w : BitVec 64) : Nat := (w.extractLsb' 0 8).toNat

theorem opcodeOf_coreWord (o : BitVec 8) (h : Hdr) (b : BitVec 48) : opcodeOf (coreWord o h b) = o.toNat :=
  congrArg BitVec.toNat (Laws.Words.coreWord_opcode o h b)

/-- The words of the command carry an opcode of the arithmetic port. -/
def ArithOpcode (i : Instr) : Prop := (encodeCore i).elim False fun ws => opcodeOf ws.1 < 0x70

/-- Every instruction of the arithmetic port has one of the shapes above; every other command has another opcode or none. -/
theorem exec_regsWf {i : Instr} {s t : State} (hi : ArithOpcode i) (hs : s.regsWf) (ht : exec i s = .next t) : t.regsWf := by
  cases i with
  | iadd | isub | imul | imulh | imad | imin | imax | iabs | blog | shl | shr | bfe | bfi | popc | clz | brev | mov | bytesel
  | fadd | fsub | fmul | ffma | fmin | fmax | fsqrt | rcp | rsq | ex2 | lg2 | sin | cos | tanh =>
    unfold exec at ht
    exact rResult_regsWf hs ht
  | icmp | fcmp =>
    unfold exec at ht
    exact rPred_regsWf hs ht
  | sel site h f =>
    unfold exec at ht
    exact issue_regsWf (keepsRegsWf_writeThreads (ty := fun _ => f.type)) hs ht
  | cvt | cvtWf | xlane | lred =>
    unfold exec at ht
    exact issue_regsWf (keepsRegsWf_writeThreads (ty := fun _ => .u32)) hs ht
  | cvtFw site h f =>
    unfold exec at ht
    exact issue_regsWf (keepsRegsWf_writeThreads (ty := fun _ => if f.word64 then .u64 else .u32)) hs ht
  | plog | uicmp =>
    unfold exec at ht
    exact issue_regsWf keepsRegsWf_writePreds hs ht
  | vote =>
    unfold exec at ht
    exact vote_regsWf hs ht
  | readlane =>
    unfold exec at ht
    exact issue_regsWf keepsRegsWf_setU hs ht
  | uiadd | uimul | ublog | ushl | ushr | umov =>
    unfold exec at ht
    exact uResult_regsWf hs ht
  | _ => simp [ArithOpcode, encodeCore, opcodeOf_coreWord] at hi

end Sys2Proof.Machine

open Sys2Proof Sys2Proof.Machine

/-- Settles O60: a trap, a retirement and each shape of result keep the canonical form (`State.regsWf_trap`,
`State.regsWf_retire`, `issue_regsWf`), and the opcodes below 0x70 are those shapes (`exec_regsWf`). -/
theorem registerFilesStayCanonical : Obligations.RegisterFilesStayCanonical := by
  unfold Obligations.RegisterFilesStayCanonical
  intro s t i r w x hq hw hop hs ht
  have hi : ArithOpcode i := by rwa [ArithOpcode, hw]
  have hstep : step s = exec i { s with pending := r } := by
    unfold step
    rw [hq]
  have hrest : ({ s with pending := r } : State).regsWf := hs
  exact exec_regsWf hi hrest (hstep ▸ ht)

end

section
/-! PROOF. The checks of every issue, in the order of Table 05.14, and the trap of the first that fails (R143, R144, R156). -/

namespace Sys2Proof.Machine

/-! ### The order of the checks -/

section Checks

variable {s : State} {c : Ctx} {h : Hdr} {n : Needs}

/-- Check 1: an instruction that may not be fetched. -/
theorem issueCheck_fetch (hf : s.fetchOk c.task.asid c.pc.toNat = false) : s.issueCheck c h n = some stAccess := by
  simp [State.issueCheck, hf]

section Fetched

variable (hlen : n.len = 8) (hf : s.fetchOk c.task.asid c.pc.toNat = true)
include hlen hf

/-- Check 2: a reserved guard mode or encoding. -/
theorem issueCheck_encoding (henc : h.gm = 3 ∨ n.enc = false) : s.issueCheck c h n = some stProgram := by
  have hgm : h.gm.toNat = 3 ∨ n.enc = false := henc.imp_left fun hgm => by rw [hgm]; rfl
  simp [State.issueCheck, hf, hlen, hgm]

variable (hgm : h.gm ≠ 3) (henc : n.enc = true)
include hgm henc

/-- Checks 3 and 4, where checks 1 and 2 pass. -/
theorem issueCheck_registers : s.issueCheck c h n =
    if (n.vr ++ n.vw).any (fun r => decide (c.task.vregs ≤ r)) then some stProgram else if n.ty then none else some stFormat := by
  have hgm : ¬h.gm.toNat = 3 := fun h3 => hgm (BitVec.eq_of_toNat_eq h3)
  cases hty : n.ty <;> simp [State.issueCheck, hf, hlen, hgm, henc, hty]

/-- Check 3: a register that the task does not have. -/
theorem issueCheck_bound (hr : ∃ r ∈ n.vr ++ n.vw, c.task.vregs ≤ r) : s.issueCheck c h n = some stProgram := by
  obtain ⟨r, hmem, hle⟩ := hr
  rw [issueCheck_registers hlen hf hgm henc, if_pos (List.any_eq_true.2 ⟨r, hmem, by simpa using hle⟩)]

/-- Check 4: the operand type. -/
theorem issueCheck_type (hr : ∀ r ∈ n.vr ++ n.vw, r < c.task.vregs) : s.issueCheck c h n = if n.ty then none else some stFormat := by
  have hany : ¬(n.vr ++ n.vw).any (fun r => decide (c.task.vregs ≤ r)) = true := by
    rw [List.any_eq_true]
    rintro ⟨r, hmem, hle⟩
    exact absurd (hr r hmem) (Nat.not_lt.2 (by simpa using hle))
  rw [issueCheck_registers hlen hf hgm henc, if_neg hany]

end Fetched

end Checks

/-! ### The trap of a failed check -/

/-- An issue with a failed check traps the task, and nothing of the instruction happens. -/
theorem issue_traps {s : State} {site : Site} {h : Hdr} {n : Needs} {c : Ctx} {st : BitVec 8} (hc : s.ctx? site h = some c)
    (hf : c.blocked n = false) (hs : s.issueCheck c h n = some st) (k : Ctx → State → State) :
    ∃ t, issue site h n k s = .next t ∧ Traps s t c st := by
  obtain ⟨-, -, -, htask, -⟩ := ctx?_spec hc
  refine ⟨_, issue_trap hc hf hs k, (State.trap_halts _ _ _ _ _ _ _).traps ?_ (fun j => ?_) ⟨rfl, rfl, rfl⟩⟩
  · rw [State.modCore_core, if_pos rfl]
    exact htask
  · rw [State.modCore_core]
    split
    · next hj => exact hj ▸ .of_groups rfl rfl
    · exact .refl _

/-- A command that, where a check fails, is an issue with that check's needs traps at it. -/
theorem checksTrap_of_issue {mk : Site → Hdr → Instr} {n : Site → Hdr → Needs}
    (hexec : ∀ site h s c st, s.ctx? site h = some c → s.issueCheck c h (n site h) = some st →
      ∃ k, exec (mk site h) s = issue site h (n site h) k s) : ChecksTrap mk n := by
  intro s site h c st hc hf hs
  obtain ⟨k, hk⟩ := hexec site h s c st hc hs
  rw [hk]
  exact issue_traps hc hf hs k

/-- An asynchronous issue with a failed check holds no group: it goes the way of every issue (R77). -/
theorem asyncIssue_checked {site : Site} {h : Hdr} {f : FmtA} {s : State} {c : Ctx} {st : BitVec 8} (hc : s.ctx? site h = some c)
    (hs : s.issueCheck c h f.needs = some st) (held : Ctx → Core → Bool) (k : Ctx → Core → Core) :
    asyncIssue site h f held k s = issue site h f.needs (fun c s =>
      if c.act.isEmpty then s
      else if lmBytes < f.addr c.g + 64 then s.trapAt c stAccess c.act 0
      else s.modCore c.l (k c)) s := by
  simp [asyncIssue, hc, hs]

end Sys2Proof.Machine

open Sys2Proof Sys2Proof.Machine

/-- Settles O21: the checks one after the other (`issueCheck_fetch` to `issueCheck_type`), and the trap of each format's issue
(`checksTrap_of_issue`). -/
theorem everyIssueIsChecked : Obligations.EveryIssueIsChecked := by
  unfold Obligations.EveryIssueIsChecked
  refine ⟨fun s c h n hlen => ⟨issueCheck_fetch, fun hf => ⟨issueCheck_encoding hlen hf, fun hgm henc =>
    ⟨issueCheck_bound hlen hf hgm henc, issueCheck_type hlen hf hgm henc⟩⟩⟩, fun f => ?iadd, fun f => ?uiadd, fun f => ?ld,
    fun f => ?bra, fun f => ?sysr, fun f => ?mma⟩
  case iadd => exact checksTrap_of_issue fun _ _ _ _ _ _ _ => by unfold exec execIadd rResult; exact ⟨_, rfl⟩
  case uiadd => exact checksTrap_of_issue fun _ _ _ _ _ _ _ => by unfold exec execUiadd uResult; exact ⟨_, rfl⟩
  case ld => exact checksTrap_of_issue fun _ _ _ _ _ _ _ => by unfold exec execLd; exact ⟨_, rfl⟩
  case bra => exact checksTrap_of_issue fun _ _ _ _ _ _ _ => by unfold exec execBra; exact ⟨_, rfl⟩
  case sysr => exact checksTrap_of_issue fun _ _ _ _ _ _ _ => by unfold exec execSysr; exact ⟨_, rfl⟩
  case mma => exact checksTrap_of_issue fun site h s _ _ hc hs => ⟨_, (exec_mma site h f s).trans (asyncIssue_checked hc hs _ _)⟩

end
section
/-! PROOF. What the ends of waits leave: a release of a barrier changes the waits of threads and the barriers, and neither a register,
a program counter, an exited thread nor a memory (R122, R126, R130, R141). -/

namespace Sys2Proof.Machine

/-! ### Groups -/

/-- `g'` is `g` but for what its threads wait for, their ages and the group barrier. -/
def Group.SameButWaits (g g' : Group) : Prop := { g' with waits := g.waits, ages := g.ages, barG := g.barG } = g

theorem Group.SameButWaits.refl (g : Group) : g.SameButWaits g := rfl

theorem Group.SameButWaits.trans {a b c : Group} (h : a.SameButWaits b) (k : b.SameButWaits c) : a.SameButWaits c := by
  unfold Group.SameButWaits at h k ⊢
  rw [← k] at h
  exact h

theorem Group.setWait_same (g : Group) (t : Nat) (w : WaitReason) : g.SameButWaits (g.setWait t w) := rfl

/-- What no wait touches is the same. -/
theorem Group.SameButWaits.field {g g' : Group} (h : g.SameButWaits g') {α : Type} (π : Group → α)
    (hπ : ∀ x : Group, π { x with waits := g.waits, ages := g.ages, barG := g.barG } = π x) : π g' = π g := by
  rw [← hπ g']
  exact congrArg π h

theorem Group.SameButWaits.regs {g g' : Group} (h : g.SameButWaits g') :
    g'.vregs = g.vregs ∧ g'.uregs = g.uregs ∧ g'.preds = g.preds ∧ g'.pcs = g.pcs :=
  ⟨h.field Group.vregs fun _ => rfl, h.field Group.uregs fun _ => rfl, h.field Group.preds fun _ => rfl,
    h.field Group.pcs fun _ => rfl⟩

theorem Group.SameButWaits.exited {g g' : Group} (h : g.SameButWaits g') : g'.exited = g.exited := h.field Group.exited fun _ => rfl

theorem Group.SameButWaits.used {g g' : Group} (h : g.SameButWaits g') : g'.used = g.used := h.field Group.used fun _ => rfl

/-- Steps that each leave a group but for its waits do so together. -/
theorem Group.foldl_sameButWaits {α : Type} {f : Group → α → Group} (hf : ∀ (g : Group) a, g.SameButWaits (f g a)) (l : List α) (g : Group) :
    g.SameButWaits (l.foldl f g) :=
  List.foldlRecOn (motive := fun x => g.SameButWaits x) l f (.refl g) fun _ h a _ => h.trans (hf _ a)

theorem Group.wakeOne_same (w : WaitReason) (g : Group) (t : Nat) : g.SameButWaits (if g.wait t == w then g.setWait t .none else g) := by
  split
  · exact g.setWait_same t .none
  · exact .refl g

theorem Group.wake_same (g : Group) (w : WaitReason) : g.SameButWaits (g.wake w) :=
  Group.foldl_sameButWaits (fun g t => g.wakeOne_same w t) _ g

theorem Group.settleG_same (g : Group) : g.SameButWaits g.settleG := by
  unfold Group.settleG
  split
  · exact .refl g
  · split
    · exact (Group.foldl_sameButWaits (fun g t => g.wakeOne_same .barG t) _ g).trans rfl
    · exact .refl g

/-! ### Cores -/

/-- `c'` has the task and the local memory of `c`, and its groups but for their waits. -/
structure Core.SameButWaits (c c' : Core) : Prop where
  /-- the task -/
  task : c'.task = c.task
  /-- local memory -/
  lm : c'.lm = c.lm
  /-- groups -/
  groups : ∀ j, (c.group j).SameButWaits (c'.group j)

theorem Core.SameButWaits.refl (c : Core) : c.SameButWaits c := ⟨rfl, rfl, fun _ => .refl _⟩

theorem Core.SameButWaits.trans {a b c : Core} (h : a.SameButWaits b) (k : b.SameButWaits c) : a.SameButWaits c :=
  ⟨k.task.trans h.task, k.lm.trans h.lm, fun j => (h.groups j).trans (k.groups j)⟩

/-- A change of a core outside its task, its local memory and its groups. -/
theorem Core.SameButWaits.of_groups {c c' : Core} (ht : c'.task = c.task) (hlm : c'.lm = c.lm) (hg : c'.groups = c.groups) :
    c.SameButWaits c' :=
  ⟨ht, hlm, fun j => by
    simp only [Core.group, hg]
    exact .refl _⟩

theorem Core.modGroup_same {f : Group → Group} (hf : ∀ g : Group, g.SameButWaits (f g)) (c : Core) (i : Nat) :
    c.SameButWaits (c.modGroup i f) := by
  refine ⟨rfl, rfl, fun j => ?_⟩
  rw [Core.modGroup_group]
  split
  · next hj => exact hj ▸ hf _
  · exact .refl _

theorem Core.foldl_sameButWaits {f : Core → Nat → Core} (hf : ∀ (c : Core) i, c.SameButWaits (f c i)) (l : List Nat) (c : Core) :
    c.SameButWaits (l.foldl f c) :=
  List.foldlRecOn (motive := fun x => c.SameButWaits x) l f (.refl c) fun _ h i _ => h.trans (hf _ i)

theorem Core.wake_same (c : Core) (w : WaitReason) : c.SameButWaits (c.wake w) :=
  Core.foldl_sameButWaits (fun c gi => c.modGroup_same (fun g => g.wake_same w) gi) _ c

theorem Core.settleC_same (c : Core) (n : Nat) : c.SameButWaits (c.settleC n) := by
  unfold Core.settleC
  dsimp only
  split
  · have hbar : c.SameButWaits (c.putBar n {}) := .of_groups rfl rfl rfl
    exact hbar.trans (Core.wake_same (c.putBar n {}) (.barC n))
  · exact .of_groups rfl rfl rfl

/-- The groups of a member, running or pre-empted, that go on (R141). -/
theorem Core.modMember_same {f : Group → Group} (hf : ∀ g : Group, g.SameButWaits (f g)) (c : Core) (g : Nat) :
    c.SameButWaits (c.modMember g f) := by
  have hused (x : Group) : x.SameButWaits (if x.used then f x else x) := by
    split
    · exact hf x
    · exact .refl x
  unfold Core.modMember
  split
  · split
    · exact (Core.foldl_sameButWaits (fun c gi => c.modGroup_same hused gi) _ c).trans (.of_groups rfl rfl rfl)
    · exact .refl c
  · split
    · split
      · exact Core.foldl_sameButWaits (fun c gi => c.modGroup_same hf gi) _ c
      · exact .refl c
    · exact .refl c

/-! ### The package -/

/-- `t` has the cores of `s` but for waits, and its device memory and slices. -/
structure State.SameButWaits (s t : State) : Prop where
  /-- cores -/
  cores : ∀ l, (s.core l).SameButWaits (t.core l)
  /-- device memory and its slices -/
  memory : t.mem = s.mem ∧ t.slices = s.slices

theorem State.SameButWaits.refl (s : State) : s.SameButWaits s := ⟨fun _ => .refl _, rfl, rfl⟩

theorem State.SameButWaits.trans {s t u : State} (h : s.SameButWaits t) (k : t.SameButWaits u) : s.SameButWaits u :=
  ⟨fun l => (h.cores l).trans (k.cores l), k.memory.1.trans h.memory.1, k.memory.2.trans h.memory.2⟩

theorem State.modCore_same {f : Core → Core} (hf : ∀ c : Core, c.SameButWaits (f c)) (s : State) (l : Nat) :
    s.SameButWaits (s.modCore l f) := by
  refine ⟨fun j => ?_, rfl, rfl⟩
  rw [State.modCore_core]
  split
  · next hj => exact hj ▸ hf _
  · exact .refl _

theorem State.modGang_same (s : State) (cl g : Nat) (f : Gang → Gang) : s.SameButWaits (s.modGang cl g f) :=
  ⟨fun _ => .refl _, rfl, rfl⟩

theorem State.foldl_sameButWaits {f : State → Nat → State} (hf : ∀ (s : State) i, s.SameButWaits (f s i)) (l : List Nat) (s : State) :
    s.SameButWaits (l.foldl f s) :=
  List.foldlRecOn (motive := fun x => s.SameButWaits x) l f (.refl s) fun _ h i _ => h.trans (hf _ i)

/-- The members of a gang go on (R130). -/
theorem Core.goOn_same (g n : Nat) (c : Core) :
    c.SameButWaits { c.modMember g (fun y => y.wake (.barCl n)) with l1 := [] } :=
  (c.modMember_same (fun x => x.wake_same (.barCl n)) g).trans (.of_groups rfl rfl rfl)

theorem State.settleCl_same (s : State) (cl g n : Nat) : s.SameButWaits (s.settleCl cl g n) := by
  unfold State.settleCl
  dsimp only
  split
  · exact (s.modGang_same cl g _).trans (State.foldl_sameButWaits (fun s l => s.modCore_same (Core.goOn_same g n) l) _ _)
  · exact s.modGang_same cl g _

/-- What EXIT can release at the barriers (R122, R126, R130). -/
theorem State.settleBarriers_same (s : State) (l gi : Nat) : s.SameButWaits (s.settleBarriers l gi) := by
  have hg := s.modCore_same (fun c => c.modGroup_same Group.settleG_same gi) l
  have hc := hg.trans (State.modCore_same (fun c => Core.foldl_sameButWaits Core.settleC_same (List.range 16) c) _ l)
  unfold State.settleBarriers
  dsimp only
  split
  · exact hc.trans (State.foldl_sameButWaits (fun s n => s.settleCl_same _ _ n) _ _)
  · exact hc

end Sys2Proof.Machine
end

section
/-! PROOF. NOP, EXIT and TRAP (R135, R143, R170, Table 05.10). -/

namespace Sys2Proof.Machine

/-! ### Sets of threads as masks -/

theorem testBit_maskOf (l : List Nat) (k : Nat) : (maskOf l).testBit k = decide (k ∈ l) := by
  have hfrom (m : Nat) : (l.foldl (fun m k => m ||| 2 ^ k) m).testBit k = (m.testBit k || decide (k ∈ l)) := by
    induction l generalizing m with
    | nil => simp
    | cons a r ih => simp [ih, Nat.testBit_two_pow, eq_comm (a := a), Bool.or_assoc]
  simp [maskOf, hfrom]

/-- A thread of a 32-bit mask. -/
theorem bitAt_bits32 (m : Nat) {k : Nat} (hk : k < 32) : bitAt (bits 32 m) k = m.testBit k := by
  rw [bitAt, bits, BitVec.toNat_ofNat, Nat.testBit_mod_two_pow, decide_eq_true hk, Bool.true_and]

theorem bitAt_or {w : Nat} (x y : BitVec w) (k : Nat) : bitAt (x ||| y) k = (bitAt x k || bitAt y k) := by
  simp [bitAt]

/-! ### What retirement leaves of the issuing group -/

section Issued

variable {s : State} {site : Site} {h : Hdr} {c : Ctx}

/-- The parts of the issuing group that its retirement leaves alone. -/
theorem retire_ctxGroup_rest (hc : s.ctx? site h = some c) (n : Needs) :
    ((s.retire c n).ctxGroup c).exited = c.g.exited ∧ ((s.retire c n).ctxGroup c).waits = c.g.waits ∧
    ((s.retire c n).ctxGroup c).barG = c.g.barG ∧ ((s.retire c n).ctxGroup c).used = c.g.used := by
  have hsame := (retire_only hc n).group
  have hexited := congrArg Group.exited hsame
  have hwaits := congrArg Group.waits hsame
  have hbar := congrArg Group.barG hsame
  have hused := congrArg Group.used hsame
  exact ⟨hexited, hwaits, hbar, hused⟩

theorem retire_task (hc : s.ctx? site h = some c) (n : Needs) (l : Nat) : ((s.retire c n).core l).task = (s.core l).task := by
  by_cases hl : l = c.l
  · obtain ⟨-, -, -, htask, -⟩ := ctx?_spec hc
    rw [hl, htask]
    exact (State.retire_core hc n).1
  · exact congrArg Core.task ((retire_only hc n).cores l hl)

/-! ### EXIT -/

/-- Some threads of a group end (R135). -/
def Group.endThreads (g : Group) (act : List Nat) : Group := { g with exited := g.exited ||| bits 32 (maskOf act) }

theorem Group.endThreads_gone (g : Group) (act : List Nat) {k : Nat} (hk : k < 32) :
    (g.endThreads act).gone k = (g.gone k || decide (k ∈ act)) := by
  rw [Group.gone, Group.endThreads, bitAt_or, bitAt_bits32 _ hk, testBit_maskOf]
  rfl

/-- What EXIT does once it has issued: nothing with no acting thread. -/
def Ctx.exit (c : Ctx) (s : State) : State :=
  if c.act.isEmpty then s else (s.onGroup c (·.endThreads c.act)).settleBarriers c.l c.gi

theorem exec_exit (site : Site) (h : Hdr) (f : FmtB) (s : State) :
    exec (.exit site h f) s = issue site h { arith := false } Ctx.exit s := rfl

/-- The acting threads end, and but for waits nothing else of the groups, the tasks and the memories changes. -/
theorem Ctx.exit_same {c : Ctx} (hact : c.act ≠ []) (s : State) : (s.onGroup c (·.endThreads c.act)).SameButWaits (c.exit s) := by
  rw [Ctx.exit, if_neg (by simpa using hact)]
  exact State.settleBarriers_same _ _ _

theorem Ctx.exit_idle {c : Ctx} (hact : c.act = []) (s : State) : c.exit s = s := by
  rw [Ctx.exit, hact]
  rfl

theorem State.onGroup_ctxGroup (s : State) (c : Ctx) (f : Group → Group) : (s.onGroup c f).ctxGroup c = f (s.ctxGroup c) := by
  simp [State.onGroup, State.ctxGroup]

/-- An acting thread has ended after EXIT, and no other thread ends. -/
theorem Ctx.exit_gone (c : Ctx) (s : State) {k : Nat} (hk : k < 32) :
    ((c.exit s).ctxGroup c).gone k = ((s.ctxGroup c).gone k || decide (k ∈ c.act)) := by
  by_cases hact : c.act = []
  · rw [Ctx.exit_idle hact, hact]
    simp
  · have hexited := (((Ctx.exit_same hact s).cores c.l).groups c.gi).exited
    have hgone : ((c.exit s).ctxGroup c).gone k = ((s.onGroup c (·.endThreads c.act)).ctxGroup c).gone k :=
      congrArg (fun m => bitAt m k) hexited
    rw [hgone, State.onGroup_ctxGroup, Group.endThreads_gone _ _ hk]

/-- What EXIT leaves of a core: its task, its local memory and the registers of its groups. -/
theorem Ctx.exit_core (c : Ctx) (s : State) (l : Nat) :
    ((c.exit s).core l).task = (s.core l).task ∧ (s.core l).SameData ((c.exit s).core l) := by
  by_cases hact : c.act = []
  · rw [Ctx.exit_idle hact]
    exact ⟨rfl, .refl _⟩
  · have hend : ((s.onGroup c (·.endThreads c.act)).core l).task = (s.core l).task ∧
        (s.core l).SameData ((s.onGroup c (·.endThreads c.act)).core l) := by
      rw [State.onGroup, State.modCore_core]
      split
      · next hl => exact hl ▸ ⟨rfl, .modGroup (f := fun g => g.endThreads c.act) (fun g => ⟨rfl, rfl, rfl⟩) _ c.gi⟩
      · exact ⟨rfl, .refl _⟩
    obtain ⟨htask, hlm, hgroups⟩ := (Ctx.exit_same hact s).cores l
    refine ⟨htask.trans hend.1, hend.2.trans ⟨hlm, fun j => ?_⟩⟩
    obtain ⟨hv, hu, hp, -⟩ := (hgroups j).regs
    exact ⟨hv, hu, hp⟩

theorem Ctx.exit_pc (c : Ctx) (s : State) (k : Nat) : ((c.exit s).ctxGroup c).pc k = (s.ctxGroup c).pc k := by
  by_cases hact : c.act = []
  · rw [Ctx.exit_idle hact]
  · obtain ⟨-, -, -, hpcs⟩ := (((Ctx.exit_same hact s).cores c.l).groups c.gi).regs
    have hpc : ((c.exit s).ctxGroup c).pc k = ((s.onGroup c (·.endThreads c.act)).ctxGroup c).pc k :=
      congrArg (fun m => look 0 m k) hpcs
    rw [hpc, State.onGroup_ctxGroup]
    rfl

theorem Ctx.exit_memory (c : Ctx) (s : State) : (c.exit s).mem = s.mem ∧ (c.exit s).slices = s.slices := by
  by_cases hact : c.act = []
  · rw [Ctx.exit_idle hact]
    exact ⟨rfl, rfl⟩
  · exact (Ctx.exit_same hact s).memory

end Issued

/-! ### TRAP -/

/-- What TRAP does once it has issued: nothing with no acting thread. -/
def FmtB.trap (f : FmtB) (c : Ctx) (s : State) : State :=
  if c.act.isEmpty then s else s.trapAt c stProgram c.act (fld f.off 0 16)

theorem exec_trap (site : Site) (h : Hdr) (f : FmtB) (s : State) :
    exec (.trap site h f) s = issue site h { arith := false } f.trap s := rfl

theorem exec_nop (site : Site) (h : Hdr) (f : FmtB) (s : State) :
    exec (.nop site h f) s = issue site h { arith := false } (fun _ s => s) s := rfl

end Sys2Proof.Machine

open Sys2Proof Sys2Proof.Machine

/-- Settles O17: NOP and a TRAP of no thread only retire (`retire_only`), EXIT is `Ctx.exit` and TRAP the trap of an issued
instruction (`trapAt_traps`). -/
theorem nopExitAndTrap : Obligations.NopExitAndTrap := by
  unfold Obligations.NopExitAndTrap
  refine ⟨fun s site h f c hi => ⟨_, (exec_nop ..).trans (hi.issue_eq _), retire_only hi.ctx _⟩, fun s site h f c hi => ?exit,
    fun s site h f c hi => ⟨_, (exec_trap ..).trans (hi.issue_eq _), fun hact => ?trap, fun hact => ?idle⟩⟩
  case exit =>
    refine ⟨_, (exec_exit ..).trans (hi.issue_eq _), fun k hk => ?gone, fun k => ?pc, fun l j => ?data, (c.exit_memory _).1,
      (c.exit_memory _).2⟩
    case gone =>
      have hexited : ((s.retire c { arith := false }).ctxGroup c).gone k = c.g.gone k :=
        congrArg (fun m => bitAt m k) (retire_ctxGroup_rest hi.ctx _).1
      rw [c.exit_gone _ hk, hexited]
      simp
    case pc => exact (c.exit_pc _ k).trans ((retire_only hi.ctx _).pcs k)
    case data =>
      obtain ⟨htask, hdata⟩ := c.exit_core (s.retire c { arith := false }) l
      obtain ⟨hlm, hregs⟩ := (s.retire_sameData c { arith := false } l).trans hdata
      obtain ⟨hv, hu, hp⟩ := hregs j
      exact ⟨hv, hu, hp, hlm, htask.trans (retire_task hi.ctx _ l)⟩
  case trap =>
    rw [FmtB.trap, if_neg (by simpa using hact)]
    exact trapAt_traps hi.ctx _ _ _ _
  case idle =>
    rw [FmtB.trap, if_pos (by simpa using hact)]
    exact retire_only hi.ctx _

end
section
/-! PROOF. A message sent: the network alone changes (R295, R310). -/

namespace Sys2Proof.Machine

/-- `t` is `s` but for the network. -/
def State.SameButNet (s t : State) : Prop := { t with net := s.net } = s

theorem State.SameButNet.refl (s : State) : s.SameButNet s := rfl

theorem State.SameButNet.trans {s t u : State} (h : s.SameButNet t) (k : t.SameButNet u) : s.SameButNet u := by
  unfold State.SameButNet at h k ⊢
  rw [← k] at h
  exact h

/-- What is no part of the network is the same. -/
theorem State.SameButNet.field {s t : State} (h : s.SameButNet t) {α : Type} (π : State → α)
    (hπ : ∀ x : State, π { x with net := s.net } = π x) : π t = π s := by
  rw [← hπ t]
  exact congrArg π h

theorem State.onNet_sameButNet (s : State) (f : Net → Net) : s.SameButNet (s.onNet f) := rfl

theorem State.regSlot_sameButNet (s : State) (key : Nat) : s.SameButNet (s.regSlot key) := by
  unfold State.regSlot
  dsimp only
  split
  · exact s.onNet_sameButNet _
  · exact (s.onNet_sameButNet _).trans (State.onNet_sameButNet _ _)

theorem State.plainSlot_sameButNet (s : State) (key : Nat) : s.SameButNet (s.plainSlot key) := by
  unfold State.plainSlot
  dsimp only
  split
  · exact .refl s
  · exact (s.onNet_sameButNet _).trans (State.onNet_sameButNet _ _)

theorem State.netTick_sameButNet (s : State) : s.SameButNet s.netTick :=
  List.foldlRecOn (motive := fun x => s.SameButNet x) s.net.live _ (.refl s) fun x h key _ => h.trans <| by
    split
    · exact x.regSlot_sameButNet key
    · exact x.plainSlot_sameButNet key

theorem State.netRoom_sameButNet (m : NetMsg) (fuel : Nat) (s : State) : s.SameButNet (s.netRoom m fuel) := by
  induction fuel generalizing s with
  | zero => exact .refl s
  | succ fuel ih =>
    unfold State.netRoom
    split
    · exact .refl s
    · exact s.netTick_sameButNet.trans (ih _)

theorem State.netSend_sameButNet (s : State) (m : NetMsg) : s.SameButNet (s.netSend m) :=
  (State.netRoom_sameButNet m 4096 s).trans (State.onNet_sameButNet _ _)

theorem State.netSend_cores (s : State) (m : NetMsg) : (s.netSend m).cores = s.cores :=
  (s.netSend_sameButNet m).field State.cores fun _ => rfl

end Sys2Proof.Machine
end

section
/-! PROOF. The start of a task (R133, R134, Table 04.3). -/

namespace Sys2Proof.Machine

/-! ### Maps given by their entries -/

section Entries

variable {α : Type} {d v : α} {m : SMap α} {k : Nat}

theorem look_of_notMem (h : k ∉ m.map Prod.fst) : look d m k = d := by
  induction m with
  | nil => rfl
  | cons p r ih =>
    rw [List.map_cons, List.mem_cons, not_or] at h
    obtain ⟨hne, hr⟩ := h
    rw [look, if_neg (Ne.symm hne), ih hr]

theorem look_of_mem (hm : (m.map Prod.fst).Nodup) (h : (k, v) ∈ m) : look d m k = v := by
  induction m with
  | nil => cases h
  | cons p r ih =>
    obtain ⟨hp, hr⟩ := List.nodup_cons.1 (List.map_cons ▸ hm)
    cases List.mem_cons.1 h with
    | inl h => rw [← h, look, if_pos rfl]
    | inr h =>
      have hne : p.1 ≠ k := fun hk => hp (hk ▸ List.mem_map_of_mem h)
      rw [look, if_neg hne, ih hr h]

variable [DecidableEq α]

theorem keys_normal_sublist (d : α) (m : SMap α) : ((normal d m).map Prod.fst).Sublist (m.map Prod.fst) :=
  List.filter_sublist.map _

theorem look_normal_of_notMem (h : k ∉ m.map Prod.fst) : look d (normal d m) k = d :=
  look_of_notMem fun hk => h ((keys_normal_sublist d m).mem hk)

theorem look_normal_of_mem (hm : (m.map Prod.fst).Nodup) (h : (k, v) ∈ m) : look d (normal d m) k = v := by
  by_cases hv : v = d
  · subst hv
    by_cases hk : k ∈ (normal v m).map Prod.fst
    · obtain ⟨⟨j, w⟩, hw, rfl⟩ := List.mem_map.1 hk
      obtain ⟨hmem, hne⟩ := List.mem_filter.1 hw
      exact absurd ((look_of_mem (d := v) hm hmem).symm.trans (look_of_mem hm h)) (by simpa using hne)
    · exact look_of_notMem hk
  · exact look_of_mem (hm.sublist (keys_normal_sublist d m)) (List.mem_filter.2 ⟨h, by simpa using hv⟩)

end Entries

/-! ### A group at its start -/

section Start

variable (t : Task) (l g : Nat)

theorem Group.start_u {r : Nat} {x : W64} (h : (r, x) ∈ [(0, t.args), (1, bits 64 t.index), (2, bits 64 t.grid), (3, bits 64 l),
    (4, bits 64 t.rank), (5, bits 64 g), (6, bits 64 t.groups), (7, bits 64 t.members)]) : (Group.start t l g).u r = x :=
  look_normal_of_mem (by simp only [List.map_cons, List.map_nil]; decide) h

theorem Group.start_uregs : (Group.start t l g).u 0 = t.args ∧ (Group.start t l g).u 1 = bits 64 t.index ∧
    (Group.start t l g).u 2 = bits 64 t.grid ∧ (Group.start t l g).u 3 = bits 64 l ∧ (Group.start t l g).u 5 = bits 64 g ∧
    (Group.start t l g).u 6 = bits 64 t.groups := by
  refine ⟨?_, ?_, ?_, ?_, ?_, ?_⟩ <;> exact Group.start_u t l g (by simp)

/-- The keys of v0 and v1. -/
theorem Group.start_vkeys : (((List.range 32).map fun i => (i, bits 32 i)) ++
    (List.range 32).map fun i => (32 + i, bits 32 (g * 32 + i))).map Prod.fst = List.range 64 := by
  simp only [List.map_append, List.map_map, Function.comp_def]
  decide

theorem Group.start_v0 {k : Nat} (hk : k < 32) : (Group.start t l g).v 0 k = bits 32 k := by
  have hmem : (0 * 32 + k, bits 32 k) ∈ ((List.range 32).map fun i => (i, bits 32 i)) ++
      (List.range 32).map fun i => (32 + i, bits 32 (g * 32 + i)) := by simp [hk]
  exact look_normal_of_mem (Group.start_vkeys g ▸ List.nodup_range) hmem

theorem Group.start_v1 {k : Nat} (hk : k < 32) : (Group.start t l g).v 1 k = bits 32 (g * 32 + k) := by
  have hmem : (1 * 32 + k, bits 32 (g * 32 + k)) ∈ ((List.range 32).map fun i => (i, bits 32 i)) ++
      (List.range 32).map fun i => (32 + i, bits 32 (g * 32 + i)) := by simp [hk]
  exact look_normal_of_mem (Group.start_vkeys g ▸ List.nodup_range) hmem

theorem Group.start_v {r : Nat} (hr : 2 ≤ r) (k : Nat) : (Group.start t l g).v r k = 0 := by
  have hkey : r * 32 + k ∉ List.range 64 := by rw [List.mem_range]; omega
  exact look_normal_of_notMem (Group.start_vkeys g ▸ hkey)

theorem Group.start_pc {k : Nat} (hk : k < 32) : (Group.start t l g).pc k = t.entry := by
  have hkeys : ((List.range 32).map fun i => (i, t.entry)).map Prod.fst = List.range 32 := by simp [Function.comp_def]
  have hmem : (k, t.entry) ∈ (List.range 32).map fun i => (i, t.entry) := by simp [hk]
  exact look_normal_of_mem (hkeys ▸ List.nodup_range) hmem

theorem Group.start_p {j : Nat} (k : Nat) : (Group.start t l g).p j k = false := by
  simp [Group.p, Group.start, bitAt]

/-- A core that starts a task has its groups from the task's first slot on. -/
theorem Core.startTask_group (c : Core) {g : Nat} (hg : g < t.groups) : (c.startTask l t).group (t.base + g) = Group.start t l g := by
  have hkeys : ((t.startGroups l).map Prod.fst).Nodup := by
    rw [Task.startGroups, List.map_map]
    exact List.nodup_range.map fun a b h => Nat.add_left_cancel h
  exact look_of_mem hkeys (List.mem_map_of_mem (List.mem_range.2 hg))

end Start

/-- Local memory at a task's start: clear unless the core last ran the address space (R134). -/
theorem Core.startTask_lm (c : Core) (l : Nat) (t : Task) (a : Nat) :
    look 0 (c.startTask l t).lm a = if c.lastAsid = some t.asid then look 0 c.lm a else 0 := by
  unfold Core.startTask
  dsimp only
  split <;> rfl

/-! ### The dispatch of one task (R396) -/

theorem State.core_of_cores {s t : State} (h : t.cores = s.cores) (l : Nat) : t.core l = s.core l := by
  rw [State.core, h]
  rfl

theorem State.keepStandby_cores (s : State) (p : Nat) : (s.keepStandby p).cores = s.cores := by
  unfold State.keepStandby
  dsimp only
  split
  · rfl
  · split
    · rfl
    · split <;> rfl

/-- The task that a core gets in a dispatch of no gang. -/
def State.soleTask (s : State) (q : Nat) (d : Desc) (i l : Nat) : Task :=
  (s.modCluster (s.clusterOf l) Cluster.wake).taskOf q d i 0 1 none

theorem State.startAll_core (s : State) (q : Nat) {d : Desc} (hd : d.gang < 2) (i l : Nat) :
    (s.startAll q d [i] [l]).core l = (s.core l).startTask l (s.soleTask q d i l) := by
  have hstart : (s.startAll q d [i] [l]).core l = ((s.modCluster (s.clusterOf l) Cluster.wake).modCore l fun c =>
      c.startTask l (s.soleTask q d i l)).core l := by
    unfold State.startAll
    rw [if_neg (by omega)]
    rfl
  rw [hstart, State.modCore_core, if_pos rfl]
  rfl

/-- The state of the dispatcher once the ranges of the chosen launch count as checked (R418). -/
def State.rangesChecked (s : State) (q : Nat) (d : Desc) : State :=
  s.modDesc q d.index.toNat fun d => { d with launch := { d.launch with checked := true } }

/-- The core of a dispatch of no gang starts its task. -/
theorem State.startOne_core (s : State) {d : Desc} (hd : d.gang < 2) (p q i l : Nat) :
    (((s.rangesChecked q d).startAll q d [i] [l]).keepStandby p).core l =
      (s.core l).startTask l ((s.rangesChecked q d).soleTask q d i l) := by
  rw [State.core_of_cores (State.keepStandby_cores _ p), State.startAll_core _ q hd]
  rfl

theorem exec_taskDispatch (p : Nat) (s : State) : exec (.taskDispatch p) s = execTaskDispatch p s := rfl

theorem execTaskDispatch_place {p q i l : Nat} {d : Desc} {s s' : State} (hp : p < 8) (hpow : s.powered = true)
    (hready : s.boot.state = .ready) (hpaused : (s.part p).paused = false) (hreset : (s.part p).resetting = false)
    (hshort : s.gangsShort p = none) (hchoose : s.choose p = some (q, d, s')) (hchecked : d.launch.checked = true)
    (hnext : d.nextTasks = [i])
    (hplace : (s'.rangesChecked q d).place p 1 ((s.queue q).set.prio != .urgent || d.launch.recompute) = some [l])
    (hclk : ((s'.rangesChecked q d).cluster ((s'.rangesChecked q d).clusterOf l)).clk ≠ .off)
    (hreg : ((s'.rangesChecked q d).cluster ((s'.rangesChecked q d).clusterOf l)).regFailed = false) :
    execTaskDispatch p s = .next (((s'.rangesChecked q d).startAll q d [i] [l]).keepStandby p) := by
  unfold State.rangesChecked at hplace hclk hreg ⊢
  simp [execTaskDispatch, unit, need, hp, hpow, hready, hpaused, hreset, hshort, hchoose, hchecked, hnext, hplace, hclk, hreg]

end Sys2Proof.Machine
end

section
/-! PROOF. The end of a task (R135) and the watchdog (R145). -/

namespace Sys2Proof.Machine

/-! ### What leaves every core alone -/

theorem State.burst_cores (s : State) (ch cls bytes : Nat) (narrow owner : Bool) : (s.burst ch cls bytes narrow owner).cores = s.cores :=
  s.netSend_cores _

theorem State.writeBack_cores (s : State) (rq : Req) (x : SLine) : (s.writeBack rq x).cores = s.cores := by
  unfold State.writeBack
  split
  · exact State.burst_cores _ _ _ _ _ _
  · rfl

theorem State.endPin_cores (s : State) (line : Nat) : (s.endPin line).cores = s.cores := by
  unfold State.endPin
  dsimp only
  split
  · rfl
  · split
    · rfl
    · exact s.writeBack_cores _ _

/-- Steps that each leave the cores do so together. -/
theorem State.foldl_cores {α : Type} {f : State → α → State} (hf : ∀ (s : State) a, (f s a).cores = s.cores) (l : List α) (s : State) :
    (l.foldl f s).cores = s.cores :=
  List.foldlRecOn (motive := fun x => x.cores = s.cores) l f rfl fun x h a _ => (hf x a).trans h

theorem State.undoUnpin_cores (s : State) (l lo n : Nat) : (s.undoUnpin l lo n).cores = s.cores := by
  unfold State.undoUnpin
  split
  · split
    · exact State.foldl_cores (fun s _ => s.endPin_cores _) _ s
    · rfl
  · rfl

theorem State.restored_cores (s : State) (q i frame before : Nat) : (s.restored q i frame before).cores = s.cores := by
  unfold State.restored
  refine (record_cores _ _ _ _ _ _ _).trans ((State.foldl_cores (fun t x => ?_) _ _).trans ?_)
  · split
    · exact record_cores _ _ _ _ _ _ _
    · rfl
  · split <;> rfl

theorem State.launchSettle_cores (s : State) (q i : Nat) : (s.launchSettle q i).cores = s.cores := by
  have hend {t : State} (ht : t.cores = s.cores) (busy done : Bool) (st : BitVec 8) (r : BitVec 64) :
      (if busy then t else if done then t.descEnd q i st r else t).cores = s.cores := by
    split
    · exact ht
    · split <;> exact ht
  unfold State.launchSettle
  split
  · rfl
  · refine hend ?_ _ _ _ _
    split
    · exact State.restored_cores _ _ _ _ _
    · rfl

theorem State.taskDone_cores (s : State) (t : Task) : (s.taskDone t).cores = s.cores := by
  rw [State.taskDone, State.launchSettle_cores]
  rfl

/-! ### TASK_END -/

theorem State.memberEnded_of_noGang {s : State} {l : Nat} {τ : Task} (ht : (s.core l).task = some τ) (hg : τ.gang = none) :
    s.memberEnded l = false := by
  obtain ⟨⟩ := τ
  subst hg
  rw [State.memberEnded, ht]

theorem exec_taskEnd (l : Nat) (s : State) : exec (.taskEnd l) s = execTaskEnd l s := rfl

theorem execTaskEnd_noGang {s : State} {l : Nat} {τ : Task} (hl : l < 512) (hcore : s.hasCore l = true) (hpow : s.powered = true)
    (ht : (s.core l).task = some τ) (hover : (s.core l).taskOver τ = true) (htwin : τ.twinOf = none) (hg : τ.gang = none)
    (hfab : s.fabWaits (.store l) = false) : execTaskEnd l s =
      .next (((s.drainCluster (s.clusterOf l)).leaveCore l τ).noteIdle (s.clusterOf l)) := by
  simp [execTaskEnd, unit, need, hl, hcore, hpow, ht, hover, htwin, hg, hfab, State.memberEnded_of_noGang ht hg]

theorem State.undoDrop_core (s : State) (l : Nat) : (s.undoDrop l).core l = { s.core l with undo := [], undoSeen := [] } := by
  rw [State.undoDrop, State.modCore_core, if_pos rfl, State.core_of_cores (s.undoUnpin_cores l _ _)]

theorem State.startUrgent_none {s : State} {l : Nat} (h : (s.core l).urgent = none) : s.startUrgent l = s := by
  rw [State.startUrgent, h]

/-- A core that its task has left with nothing in its place. -/
def Core.left (c : Core) : Core := { Core.release { c with undo := [], undoSeen := [] } with groups := [] }

/-- A core left by its task, with none pre-empted below it and none requested above it. -/
theorem State.leaveCore_core {s : State} {l : Nat} (hframe : (s.core l).frame = none) (hurgent : (s.core l).urgent = none) (τ : Task) :
    (s.leaveCore l τ).core l = (s.core l).left := by
  have hundo : ((s.fabForget (.store l)).undoDrop l).core l = { s.core l with undo := [], undoSeen := [] } :=
    State.undoDrop_core _ l
  have hframe' : (((s.fabForget (.store l)).undoDrop l).core l).frame = none := by rw [hundo]; exact hframe
  have hleft : (((s.fabForget (.store l)).undoDrop l).modCore l fun c => { c.release with groups := [] }).core l =
      (s.core l).left := by
    rw [State.modCore_core, if_pos rfl, hundo]
    rfl
  have hurgent' : ((((s.fabForget (.store l)).undoDrop l).modCore l fun c => { c.release with groups := [] }).core l).urgent = none :=
    (congrArg Core.urgent hleft).trans hurgent
  unfold State.leaveCore
  rw [State.core_of_cores (State.taskDone_cores _ _), hframe']
  exact (congrArg (State.core · l) (State.startUrgent_none hurgent')).trans hleft

theorem State.noteIdle_core (s : State) (cl l : Nat) : (s.noteIdle cl).core l = s.core l := rfl

/-- The end of a task in a cluster with no write left to perform leaves its core free (R135). -/
theorem State.endTask_core {s : State} {l cl : Nat} (hframe : (s.core l).frame = none) (hurgent : (s.core l).urgent = none)
    (hdone : (s.cluster cl).unperformed = []) (τ : Task) :
    (((s.drainCluster cl).leaveCore l τ).noteIdle cl).core l = (s.core l).left := by
  have hdrain : s.drainCluster cl = s := by
    rw [State.drainCluster, hdone]
    rfl
  rw [State.noteIdle_core, hdrain, State.leaveCore_core hframe hurgent]

theorem Core.left_lastAsid {c : Core} {τ : Task} (h : c.task = some τ) : c.left.lastAsid = some τ.asid := by
  have hasid : c.left.lastAsid = match c.task with | some t => some t.asid | none => c.lastAsid := rfl
  rw [hasid, h]

/-! ### WATCHDOG_EXPIRY -/

theorem exec_watchdogExpiry (l : Nat) (s : State) : exec (.watchdogExpiry l) s = execWatchdogExpiry l s := rfl

theorem execWatchdogExpiry_running {s : State} {l : Nat} {τ : Task} (hl : l < 512) (hcore : s.hasCore l = true)
    (hpow : s.powered = true) (ht : (s.core l).task = some τ) (hphase : τ.phase = .running) (hms : τ.wdMs ≠ 0)
    (hon : (s.core l).watch.on = true) (hhold : (s.core l).watch.hold = false) (htwin : τ.twinOf = none) (hg : τ.gang = none) :
    ∃ ticks, execWatchdogExpiry l s =
      .next ({ s with ticks := ticks }.trap l 255 (if (s.core l).atBarrier then stBarrier else stWatchdog) 0 0 0) := by
  have hleft : s.watchLeft l τ = some (watchLimit τ.wdMs - (s.core l).watch.count s.ticks.toNat) := by
    simp [State.watchLeft, hms, hon, hhold]
  refine ⟨s.ticks + bits 64 (watchLimit τ.wdMs - (s.core l).watch.count s.ticks.toNat), ?_⟩
  simp [execWatchdogExpiry, unit, need, hl, hcore, hpow, ht, hphase, htwin, State.memberEnded_of_noGang ht hg, hleft]
  rfl

end Sys2Proof.Machine

open Sys2Proof Sys2Proof.Machine

/-- Settles O29: a dispatch starts one task (`execTaskDispatch_place`, `Core.startTask_group`), an ended task is released
(`State.leaveCore_core`), and an expiry is a trap (`State.trap_halts`). -/
theorem tasksStartEndAndExpire : Obligations.TasksStartEndAndExpire := by
  unfold Obligations.TasksStartEndAndExpire
  refine ⟨?dispatch, ?taskEnd, ?watchdog⟩
  case dispatch =>
    intro s p q d s' i l hp hpow hready hpaused hreset hshort hchoose hchecked hnext hgang u hplace hclk hreg
    refine ⟨_, u.soleTask q d i l, (exec_taskDispatch p s).trans (execTaskDispatch_place hp hpow hready hpaused hreset hshort hchoose
      hchecked hnext hplace hclk hreg), ?_⟩
    have hcore : (((s'.rangesChecked q d).startAll q d [i] [l]).keepStandby p).core l = (s'.core l).startTask l (u.soleTask q d i l) :=
      State.startOne_core s' hgang p q i l
    rw [hcore]
    refine ⟨rfl, rfl, rfl, rfl, rfl, rfl, fun g k hg hk => ?_, Core.startTask_lm _ _ _⟩
    dsimp only
    rw [Core.startTask_group (u.soleTask q d i l) l _ hg]
    obtain ⟨hargs, hindex, hgrid, hl, hg', hgroups⟩ := Group.start_uregs (u.soleTask q d i l) l g
    have hv1 : (Group.start (u.soleTask q d i l) l g).v 1 k = BitVec.ofNat 32 (32 * g + k) := by
      rw [Group.start_v1 _ _ _ hk, Nat.mul_comm]
      rfl
    exact ⟨rfl, Group.start_pc _ _ _ hk, hargs, hindex, hgrid, hl, hg', hgroups, Group.start_v0 _ _ _ hk, hv1,
      fun r hr => Group.start_v _ _ _ hr k, fun j _ => Group.start_p _ _ _ k⟩
  case taskEnd =>
    intro s l τ hl hhas hpow ht hover htwin hg hfab
    refine ⟨_, (exec_taskEnd l s).trans (execTaskEnd_noGang hl hhas hpow ht hover htwin hg hfab), fun hframe hurgent hdone => ?_⟩
    rw [State.endTask_core hframe hurgent hdone]
    exact ⟨rfl, Core.left_lastAsid ht, rfl, rfl⟩
  case watchdog =>
    intro s l τ hl hhas hpow ht hphase hms hon hhold htwin hg
    obtain ⟨ticks, hexec⟩ := execWatchdogExpiry_running hl hhas hpow ht hphase hms hon hhold htwin hg
    have hhalts := State.trap_halts { s with ticks := ticks } l 255 (if (s.core l).atBarrier then stBarrier else stWatchdog) 0 0 0
    refine ⟨_, (exec_watchdogExpiry l s).trans hexec, (hhalts.data l).lm, ?_⟩
    rw [hhalts.core.task]
    show (s.core l).task.map _ = _
    rw [ht]
    rfl

end
section
/-! PROOF. Waits of threads, and what of a core counts at a barrier (R122, R126, R130). -/

namespace Sys2Proof.Machine

/-! ### Waits -/

theorem Group.foldl_setWait_wait (l : List Nat) (w : WaitReason) (g : Group) (k : Nat) :
    (l.foldl (fun g t => g.setWait t w) g).wait k = if k ∈ l then w else g.wait k := by
  induction l generalizing g with
  | nil => simp
  | cons a r ih =>
    rw [List.foldl_cons, ih, Group.setWait_wait]
    by_cases hr : k ∈ r <;> simp [hr]

theorem Group.foldl_setWait_same (l : List Nat) (w : WaitReason) (g : Group) : g.SameButWaits (l.foldl (fun g t => g.setWait t w) g) :=
  Group.foldl_sameButWaits (fun g t => g.setWait_same t w) l g

theorem Group.foldl_wake_wait (l : List Nat) (w : WaitReason) (g : Group) (k : Nat) :
    (l.foldl (fun g t => if g.wait t == w then g.setWait t .none else g) g).wait k =
      if k ∈ l ∧ g.wait k = w then .none else g.wait k := by
  induction l generalizing g with
  | nil => simp
  | cons a r ih =>
    rw [List.foldl_cons, ih]
    have hone : (if g.wait a == w then g.setWait a .none else g).wait k = if k = a ∧ g.wait k = w then .none else g.wait k := by
      by_cases ha : g.wait a = w
      · rw [if_pos (beq_iff_eq.2 ha), Group.setWait_wait]
        by_cases hk : k = a
        · subst hk; simp [ha]
        · simp [hk]
      · rw [if_neg (fun h => ha (beq_iff_eq.1 h))]
        by_cases hk : k = a
        · subst hk; simp [ha]
        · simp [hk]
    rw [hone]
    by_cases hk : k = a <;> by_cases hw : g.wait k = w <;> by_cases hr : k ∈ r <;> simp_all

theorem Group.wake_wait (g : Group) (w : WaitReason) {k : Nat} (hk : k < 32) :
    (g.wake w).wait k = if g.wait k = w then .none else g.wait k := by
  rw [Group.wake, Group.foldl_wake_wait]
  simp [hk]

/-- An acting thread waits for nothing (R110). -/
theorem ctx?_act_wait {s : State} {site : Site} {h : Hdr} {c : Ctx} (hc : s.ctx? site h = some c) {k : Nat} (hk : k ∈ c.act) :
    c.g.wait k = .none := by
  obtain ⟨-, -, -, -, -, hset, -⟩ := ctx?_spec hc
  have hactive : k ∈ c.g.active := by
    have hmem := ctx?_act_set hc hk
    rw [hset, Group.setAt] at hmem
    exact (List.mem_filter.1 hmem).1
  simp only [Group.active, List.mem_filter, Bool.and_eq_true, beq_iff_eq] at hactive
  exact hactive.2.2

/-- The slot of an issue runs its core's task. -/
theorem ctx?_slotRuns {s : State} {site : Site} {h : Hdr} {c : Ctx} (hc : s.ctx? site h = some c) :
    (s.core c.l).slotRuns c.task c.gi = true := by
  obtain ⟨hl, hgi, -, htask, -⟩ := ctx?_spec hc
  unfold State.ctx? at hc
  rw [hl] at htask ⊢
  rw [hgi]
  by_contra hrun
  simp [htask, hrun] at hc

/-! ### The arrivals that count -/

/-- `c'` has the task of `c`, the pre-empted one, and of every group its place and the threads that have exited. -/
structure Core.SameThreads (c c' : Core) : Prop where
  /-- the task -/
  task : c'.task = c.task
  /-- the pre-empted task -/
  frame : c'.frame = c.frame
  /-- groups -/
  groups : ∀ j, (c'.group j).exited = (c.group j).exited ∧ (c'.group j).used = (c.group j).used

theorem Core.SameThreads.refl (c : Core) : c.SameThreads c := ⟨rfl, rfl, fun _ => ⟨rfl, rfl⟩⟩

theorem Core.SameThreads.trans {a b c : Core} (h : a.SameThreads b) (k : b.SameThreads c) : a.SameThreads c :=
  ⟨k.task.trans h.task, k.frame.trans h.frame, fun j =>
    ⟨(k.groups j).1.trans (h.groups j).1, (k.groups j).2.trans (h.groups j).2⟩⟩

/-- Threads that start to wait have not exited for that. -/
theorem Core.setWaits_sameThreads (c : Core) (gi : Nat) (threads : List Nat) (w : WaitReason) :
    c.SameThreads (c.modGroup gi fun g => threads.foldl (fun g t => g.setWait t w) g) := by
  have hsame := Core.modGroup_same (Group.foldl_setWait_same threads w) c gi
  exact ⟨rfl, rfl, fun j => ⟨(hsame.groups j).exited, (hsame.groups j).used⟩⟩

theorem NBar.countGroup_exited (b : NBar) (key : Nat) (g : Group) : b.countGroup key g = b.countGroup key { exited := g.exited } := rfl

theorem NBar.countGroup_congr {g g' : Group} (h : g'.exited = g.exited) (b : NBar) (key : Nat) :
    b.countGroup key g' = b.countGroup key g := by
  rw [NBar.countGroup_exited, h, ← NBar.countGroup_exited]

theorem Core.SameThreads.slotRuns {c c' : Core} (h : c.SameThreads c') (t : Task) (gi : Nat) : c'.slotRuns t gi = c.slotRuns t gi := by
  rw [Core.slotRuns, Core.slotRuns, h.frame, (h.groups gi).2]

theorem Core.SameThreads.runSlots {c c' : Core} (h : c.SameThreads c') : c'.runSlots = c.runSlots := by
  rw [Core.runSlots, Core.runSlots, h.task]
  cases c.task with
  | none => rfl
  | some t => exact List.filter_congr fun gi _ => h.slotRuns t gi

/-- The complete arrivals of a core's groups counted at a barrier. -/
def Core.tally (c : Core) (b : NBar) : NBar := c.runSlots.foldl (fun b gi => b.countGroup gi (c.group gi)) b

theorem Core.SameThreads.tally {c c' : Core} (h : c.SameThreads c') (b : NBar) : c'.tally b = c.tally b := by
  rw [Core.tally, Core.tally, h.runSlots]
  exact congrFun (congrFun (congrArg List.foldl (funext₂ fun b gi => NBar.countGroup_congr (h.groups gi).1 b gi)) b) c.runSlots

section Issued

variable {s : State} {site : Site} {h : Hdr} {c : Ctx}

theorem retire_sameThreads (hc : s.ctx? site h = some c) (n : Needs) (l : Nat) :
    (s.core l).SameThreads ((s.retire c n).core l) := by
  by_cases hl : l = c.l
  · subst hl
    obtain ⟨-, -, hg, htask, -⟩ := ctx?_spec hc
    obtain ⟨htask', hframe, -⟩ := State.retire_core hc n
    refine ⟨htask'.trans htask.symm, hframe, fun j => ?_⟩
    by_cases hj : j = c.gi
    · obtain ⟨hexited, -, -, hused⟩ := retire_ctxGroup_rest hc n
      rw [hg] at hexited hused
      exact hj ▸ ⟨hexited, hused⟩
    · rw [(retire_only hc n).groups j hj]
      exact ⟨rfl, rfl⟩
  · rw [(retire_only hc n).cores l hl]
    exact .refl _

theorem retire_bar (hc : s.ctx? site h = some c) (n : Needs) (m : Nat) : ((s.retire c n).core c.l).bar m = (s.core c.l).bar m := by
  have hbars := congrArg Core.barriers (retire_only hc n).core
  exact congrArg (look {} · m) hbars

theorem retire_wait (hc : s.ctx? site h = some c) (n : Needs) {k : Nat} (hk : k ∈ c.act) :
    ((s.retire c n).ctxGroup c).wait k = .none := by
  obtain ⟨-, hwaits, -⟩ := retire_ctxGroup_rest hc n
  have hwait : ((s.retire c n).ctxGroup c).wait k = c.g.wait k := congrArg (look WaitReason.none · k) hwaits
  exact hwait.trans (ctx?_act_wait hc hk)

end Issued

end Sys2Proof.Machine
end

section
/-! PROOF. Group barriers (R122, R123). -/

namespace Sys2Proof.Machine

/-- A thread that has arrived in the phase of the group's barrier. -/
def Group.arrivedG (g : Group) (k : Nat) : Prop := ∃ b, g.barG = some b ∧ bitAt b.arrived k = true

/-- The group's barrier once some more threads have arrived. -/
def Group.nextBarG (g : Group) (m : Option Nat) (act : List Nat) : BarG :=
  { mask := bits 32 (g.phaseMask m), arrived := bits 32 ((match g.barG with | some b => b.arrived.toNat | none => 0) ||| maskOf act) }

/-- A group of which some threads have arrived and wait, before any release. -/
def Group.arriveG (g : Group) (m : Option Nat) (act : List Nat) : Group :=
  { act.foldl (fun g t => g.setWait t .barG) g with barG := some (g.nextBarG m act) }

theorem Group.arriveG_same (g : Group) (m : Option Nat) (act : List Nat) : g.SameButWaits (g.arriveG m act) :=
  (g.foldl_setWait_same act .barG).trans rfl

theorem Group.arriveG_wait (g : Group) (m : Option Nat) {act : List Nat} {k : Nat} (hk : k ∈ act) : (g.arriveG m act).wait k = .barG :=
  (g.foldl_setWait_wait act .barG k).trans (if_pos hk)

theorem Group.arriveG_gone (g : Group) (m : Option Nat) (act : List Nat) (k : Nat) : (g.arriveG m act).gone k = g.gone k :=
  congrArg (bitAt · k) (g.arriveG_same m act).exited

theorem Group.nextBarG_arrived (g : Group) (m : Option Nat) (act : List Nat) {k : Nat} (hk : k < 32) :
    bitAt (g.nextBarG m act).arrived k = true ↔ k ∈ act ∨ g.arrivedG k := by
  rw [Group.nextBarG, bitAt_bits32 _ hk, Nat.testBit_or, testBit_maskOf, Group.arrivedG]
  cases g.barG with
  | none => simp
  | some b => simp [bitAt, or_comm]

theorem Group.nextBarG_mask (g : Group) (m : Option Nat) (act : List Nat) {k : Nat} (hk : k < 32) :
    bitAt (g.nextBarG m act).mask k = (g.phaseMask m).testBit k := bitAt_bits32 _ hk

/-- A barrier at which every thread of the mask has arrived or exited releases the threads that have arrived. -/
theorem Group.settleG_full {g : Group} {b : BarG} (hb : g.barG = some b)
    (hall : ∀ k, k < 32 → bitAt b.mask k = true → bitAt b.arrived k = true ∨ g.gone k = true) :
    g.settleG.barG = none ∧ ∀ k, k < 32 → bitAt b.arrived k = true → g.wait k = .barG → g.settleG.wait k = .none := by
  have hfull : ((List.range 32).all fun t => !bitAt b.mask t || bitAt b.arrived t || g.gone t) = true := by
    rw [List.all_eq_true]
    intro k hk
    have hdone := hall k (List.mem_range.1 hk)
    cases hm : bitAt b.mask k with
    | false => rfl
    | true => simpa using hdone hm
  unfold Group.settleG
  rw [hb]
  dsimp only
  rw [if_pos hfull]
  refine ⟨rfl, fun k hk harr hw => ?_⟩
  have hmem : k ∈ maskList 32 b.arrived.toNat := List.mem_filter.2 ⟨List.mem_range.2 hk, harr⟩
  exact (Group.foldl_wake_wait _ _ g k).trans (if_pos ⟨hmem, hw⟩)

/-- A barrier that still lacks a thread of its mask stands. -/
theorem Group.settleG_open {g : Group} {b : BarG} (hb : g.barG = some b) {k : Nat} (hk : k < 32) (hm : bitAt b.mask k = true)
    (harr : ¬bitAt b.arrived k = true) (hgone : ¬g.gone k = true) : g.settleG = g := by
  have hlacks : ¬((List.range 32).all fun t => !bitAt b.mask t || bitAt b.arrived t || g.gone t) = true := by
    rw [List.all_eq_true]
    intro hall
    have hk' := hall k (List.mem_range.2 hk)
    simp [hm, harr, hgone] at hk'
  unfold Group.settleG
  rw [hb]
  dsimp only
  rw [if_neg hlacks]

/-- An arrival that fills the phase ends it. -/
theorem Group.arriveG_full {g : Group} {m : Option Nat} {act : List Nat} (hact : ∀ k ∈ act, k < 32)
    (hall : ∀ k, k < 32 → (g.phaseMask m).testBit k = true → g.gone k = true ∨ k ∈ act ∨ g.arrivedG k) :
    (g.arriveG m act).settleG.barG = none ∧ ∀ k ∈ act, (g.arriveG m act).settleG.wait k = .none := by
  have hfull := Group.settleG_full (g := g.arriveG m act) (b := g.nextBarG m act) rfl fun k hk hm => by
    rw [Group.arriveG_gone, Group.nextBarG_arrived g m act hk]
    exact (hall k hk (Group.nextBarG_mask g m act hk ▸ hm)).symm
  exact ⟨hfull.1, fun k hk => hfull.2 k (hact k hk) ((Group.nextBarG_arrived g m act (hact k hk)).2 (.inl hk)) (g.arriveG_wait m hk)⟩

/-- An arrival at a phase that still lacks a thread waits. -/
theorem Group.arriveG_open {g : Group} {m : Option Nat} {act : List Nat} {k : Nat} (hk : k < 32) (hm : (g.phaseMask m).testBit k = true)
    (hlacks : ¬(g.gone k = true ∨ k ∈ act ∨ g.arrivedG k)) : (g.arriveG m act).settleG = g.arriveG m act := by
  obtain ⟨hgone, harr⟩ := not_or.1 hlacks
  exact Group.settleG_open (b := g.nextBarG m act) rfl hk ((Group.nextBarG_mask g m act hk).trans hm)
    (fun h => harr ((Group.nextBarG_arrived g m act hk).1 h)) (by rwa [Group.arriveG_gone])

theorem Group.phaseMask_congr {g g' : Group} (hbar : g'.barG = g.barG) (hexited : g'.exited = g.exited) (m : Option Nat) :
    g'.phaseMask m = g.phaseMask m := by
  rw [Group.phaseMask, Group.phaseMask, hbar, Group.liveThreads, Group.liveThreads]
  simp only [Group.gone, hexited]

/-! ### BAR.G -/

/-- What BAR.G asks of an issue. -/
def FmtS.barGNeeds (f : FmtS) : Needs :=
  { ur := if f.msrc.toNat = 1 ∧ f.momit.toNat ≠ 1 then [f.ux.toNat] else [],
    enc := decide (¬(f.momit.toNat = 1 ∧ f.msrc.toNat = 1)), arith := false }

/-- What BAR.G does once it has issued. -/
def FmtS.barG (f : FmtS) (c : Ctx) (s : State) : State :=
  if c.act.isEmpty then s
  else if !(c.g.barGBad (f.mask c.g) c.act).isEmpty then s.trapAt c stProgram (c.g.barGBad (f.mask c.g) c.act) 0
  else s.onGroup c fun g => (g.arriveG (f.mask c.g) c.act).settleG

theorem exec_barG (site : Site) (h : Hdr) (f : FmtS) (s : State) : exec (.barG site h f) s = issue site h f.barGNeeds f.barG s := by
  have hneeds : f.barGNeeds =
      { ur := if (f.msrc.toNat == 1) && !(f.momit.toNat == 1) then [f.ux.toNat] else [],
        enc := !((f.momit.toNat == 1) && (f.msrc.toNat == 1)), arith := false } := by
    simp [FmtS.barGNeeds]
    rfl
  rw [hneeds]
  rfl

theorem Group.barGBad_nil {g : Group} {m : Option Nat} {act : List Nat}
    (h : m = none ∨ m = some (g.phaseMask m) ∧ ∀ k ∈ act, (g.phaseMask m).testBit k = true) : g.barGBad m act = [] := by
  cases m with
  | none => rfl
  | some x =>
    obtain ⟨hx, hbits⟩ := h.resolve_left (Option.some_ne_none x)
    have hx : x = g.phaseMask (some x) := Option.some.inj hx
    rw [← hx] at hbits
    rw [Group.barGBad, List.filter_eq_nil_iff]
    intro k hk
    simp [← hx, hbits k hk]

theorem Group.barGBad_ne_nil {g : Group} {x : Nat} {act : List Nat} (hact : act ≠ [])
    (h : x ≠ g.phaseMask (some x) ∨ ∃ k ∈ act, (g.phaseMask (some x)).testBit k = false) : g.barGBad (some x) act ≠ [] := by
  rw [Group.barGBad, ne_eq, List.filter_eq_nil_iff]
  intro hall
  by_cases hx : x = g.phaseMask (some x)
  · obtain ⟨k, hk, hbit⟩ := h.resolve_left (not_not.2 hx)
    rw [← hx] at hbit
    exact hall k hk (by simp [hbit])
  · obtain ⟨k, hk⟩ := List.exists_mem_of_ne_nil act hact
    exact hall k hk (by simp [hx])

section Issued

variable {s : State} {site : Site} {h : Hdr} {c : Ctx}

/-- The effect of a BAR.G that keeps R123. -/
theorem FmtS.barG_good {f : FmtS} (hact : c.act ≠ []) (hbad : c.g.barGBad (f.mask c.g) c.act = []) (t : State) :
    f.barG c t = t.onGroup c fun g => (g.arriveG (f.mask c.g) c.act).settleG := by
  rw [FmtS.barG, if_neg (by simpa using hact), hbad]
  rfl

theorem FmtS.barG_bad {f : FmtS} (hact : c.act ≠ []) (hbad : c.g.barGBad (f.mask c.g) c.act ≠ []) (t : State) :
    f.barG c t = t.trapAt c stProgram (c.g.barGBad (f.mask c.g) c.act) 0 := by
  rw [FmtS.barG, if_neg (by simpa using hact), if_pos (by simpa using hbad)]

/-- The arrivals of an issue at its group's barrier, seen from the group before the issue. -/
theorem retire_arriveG (hc : s.ctx? site h = some c) (n : Needs) (m : Option Nat) :
    let g := ((s.retire c n).ctxGroup c).arriveG m c.act
    let done (k : Nat) : Prop := c.g.gone k = true ∨ k ∈ c.act ∨ c.g.arrivedG k
    ((∀ k, k < 32 → (c.g.phaseMask m).testBit k = true → done k) → g.settleG.barG = none ∧ ∀ k ∈ c.act, g.settleG.wait k = .none) ∧
    (∀ k, k < 32 → (c.g.phaseMask m).testBit k = true → ¬done k →
      (∃ b, g.settleG.barG = some b ∧ b.mask.toNat = c.g.phaseMask m % 2 ^ 32) ∧ ∀ k ∈ c.act, g.settleG.wait k = .barG) := by
  obtain ⟨hexited, -, hbar, -⟩ := retire_ctxGroup_rest hc n
  have hphase := Group.phaseMask_congr hbar hexited m
  have hdone (k : Nat) : (c.g.gone k = true ∨ k ∈ c.act ∨ c.g.arrivedG k) ↔
      (((s.retire c n).ctxGroup c).gone k = true ∨ k ∈ c.act ∨ ((s.retire c n).ctxGroup c).arrivedG k) := by
    rw [Group.gone, Group.gone, Group.arrivedG, Group.arrivedG, hbar, hexited]
  dsimp only
  rw [← hphase]
  refine ⟨fun hall => ?full, fun k hk hm hlacks => ?lacks⟩
  case full => exact Group.arriveG_full (fun k hk => ctx?_act_lt hc hk) fun k hk hm => (hdone k).1 (hall k hk hm)
  case lacks =>
    rw [Group.arriveG_open hk hm fun hd => hlacks ((hdone k).2 hd)]
    exact ⟨⟨_, rfl, BitVec.toNat_ofNat _ _⟩, fun k hk => Group.arriveG_wait _ m hk⟩

/-- A change of the waits of the issuing group leaves its v registers and what is outside the cores. -/
theorem retire_onGroup_rest (hc : s.ctx? site h = some c) (n : Needs) {f : Group → Group} (hf : ∀ g : Group, g.SameButWaits (f g)) :
    (∀ r k, (((s.retire c n).onGroup c f).ctxGroup c).v r k = c.g.v r k) ∧
    { (s.retire c n).onGroup c f with cores := s.cores } = s := by
  refine ⟨fun r k => ?_, (retire_only hc n).package⟩
  have hv : (f ((s.retire c n).ctxGroup c)).vregs = c.g.vregs := (hf _).regs.1.trans (retire_ctxGroup hc n).1
  rw [State.onGroup_ctxGroup]
  exact congrArg (look 0 · (r * 32 + k)) hv

end Issued

end Sys2Proof.Machine
end

section
/-! PROOF. Core barriers (R126, R127). -/

namespace Sys2Proof.Machine

/-! ### Release of a core barrier -/

/-- A change of some distinct groups of a core. -/
theorem Core.foldl_modGroup_group {l : List Nat} (hl : l.Nodup) (f : Group → Group) (c : Core) (j : Nat) :
    (l.foldl (fun c i => c.modGroup i f) c).group j = if j ∈ l then f (c.group j) else c.group j := by
  induction l generalizing c with
  | nil => simp
  | cons a r ih =>
    obtain ⟨ha, hr⟩ := List.nodup_cons.1 hl
    rw [List.foldl_cons, ih hr, Core.modGroup_group]
    by_cases hj : j = a
    · subst hj
      simp [ha]
    · simp [hj]

theorem Core.foldl_modGroup_bar (l : List Nat) (f : Group → Group) (c : Core) (n : Nat) :
    (l.foldl (fun c i => c.modGroup i f) c).bar n = c.bar n :=
  List.foldlRecOn (motive := fun x : Core => x.bar n = c.bar n) l _ rfl fun _ h _ _ => h

theorem Core.runSlots_nodup (c : Core) : c.runSlots.Nodup := by
  unfold Core.runSlots
  split
  · exact List.nodup_range.filter _
  · exact List.nodup_nil

theorem Core.mem_runSlots {c : Core} {t : Task} {gi : Nat} (ht : c.task = some t) (hgi : gi < 16) (hrun : c.slotRuns t gi = true) :
    gi ∈ c.runSlots := by
  rw [Core.runSlots, ht]
  exact List.mem_filter.2 ⟨List.mem_range.2 hgi, hrun⟩

theorem Core.wake_group (c : Core) (w : WaitReason) {j : Nat} (hj : j ∈ c.runSlots) : (c.wake w).group j = (c.group j).wake w := by
  rw [Core.wake, Core.foldl_modGroup_group c.runSlots_nodup, if_pos hj]

theorem Core.wake_bar (c : Core) (w : WaitReason) (n : Nat) : (c.wake w).bar n = c.bar n := Core.foldl_modGroup_bar _ _ c n

theorem Core.settleC_full {c : Core} {n : Nat} (h : (c.tally (c.bar n)).full = true) :
    c.settleC n = (c.putBar n {}).wake (.barC n) := if_pos h

theorem Core.settleC_open {c : Core} {n : Nat} (h : (c.tally (c.bar n)).full = false) :
    c.settleC n = c.putBar n (c.tally (c.bar n)) := if_neg (by simpa [Core.tally] using h)

theorem Core.settleC_bar (c : Core) (n : Nat) : (c.settleC n).bar n = if (c.tally (c.bar n)).full then {} else c.tally (c.bar n) := by
  cases h : (c.tally (c.bar n)).full with
  | true =>
    rw [Core.settleC_full h, Core.wake_bar, Core.putBar_bar, if_pos rfl, if_pos rfl]
  | false =>
    rw [Core.settleC_open h, Core.putBar_bar, if_pos rfl]
    rfl

theorem Core.settleC_bar_ne (c : Core) {n m : Nat} (hm : m ≠ n) : (c.settleC n).bar m = c.bar m := by
  cases h : (c.tally (c.bar n)).full with
  | true => rw [Core.settleC_full h, Core.wake_bar, Core.putBar_bar, if_neg hm]
  | false => rw [Core.settleC_open h, Core.putBar_bar, if_neg hm]

/-- The threads of a running group that wait at the barrier go on when it is full. -/
theorem Core.settleC_wait (c : Core) (n : Nat) {gi k : Nat} (hgi : gi ∈ c.runSlots) (hk : k < 32) :
    ((c.settleC n).group gi).wait k =
      if (c.tally (c.bar n)).full = true ∧ (c.group gi).wait k = .barC n then .none else (c.group gi).wait k := by
  cases h : (c.tally (c.bar n)).full with
  | true =>
    have hrun : gi ∈ (c.putBar n {}).runSlots := hgi
    rw [Core.settleC_full h, Core.wake_group _ _ hrun, Group.wake_wait _ _ hk]
    simp
  | false =>
    rw [Core.settleC_open h]
    simp

/-! ### BAR.C -/

/-- The core in which threads of a group have arrived at barrier `n`, before any release. -/
def Core.arriveC (k : Core) (sync : Bool) (gi n count : Nat) (act : List Nat) : Core :=
  (if sync then k.modGroup gi fun g => act.foldl (fun g t => g.setWait t (.barC n)) g else k).putBar n ((k.bar n).arrive gi count act)

theorem Core.arriveC_sameThreads (k : Core) (sync : Bool) (gi n count : Nat) (act : List Nat) :
    k.SameThreads (k.arriveC sync gi n count act) := by
  have hput (x : Core) (b : NBar) : x.SameThreads (x.putBar n b) := ⟨rfl, rfl, fun _ => ⟨rfl, rfl⟩⟩
  cases sync with
  | true => exact (k.setWaits_sameThreads gi act (.barC n)).trans (hput _ _)
  | false => exact hput _ _

theorem Core.arriveC_bar (k : Core) (sync : Bool) (gi n count : Nat) (act : List Nat) (m : Nat) :
    (k.arriveC sync gi n count act).bar m = if m = n then (k.bar n).arrive gi count act else k.bar m := by
  rw [Core.arriveC, Core.putBar_bar]
  cases sync <;> rfl

theorem Core.arriveC_wait (k : Core) (sync : Bool) (gi n count : Nat) {act : List Nat} {x : Nat} (hx : x ∈ act)
    (hnone : (k.group gi).wait x = .none) :
    ((k.arriveC sync gi n count act).group gi).wait x = if sync then .barC n else .none := by
  cases sync with
  | true =>
    have hgroup : (k.arriveC true gi n count act).group gi = act.foldl (fun g t => g.setWait t (.barC n)) (k.group gi) :=
      (Core.modGroup_group k gi gi fun g => act.foldl (fun g t => g.setWait t (.barC n)) g).trans (if_pos rfl)
    rw [hgroup, Group.foldl_setWait_wait, if_pos hx]
    rfl
  | false => exact hnone

/-- What BAR.C does once it has issued. -/
def FmtS.barC (f : FmtS) (sync : Bool) (c : Ctx) (s : State) : State :=
  if c.act.isEmpty then s
  else if c.task.groups < f.count || (((s.core c.l).bar f.bn.toNat).g != 0 && ((s.core c.l).bar f.bn.toNat).g != f.count) then
    s.trapAt c stProgram c.act 0
  else (if sync then s.setWaits c.l c.gi c.act (.barC f.bn.toNat) else s).modCore c.l fun k =>
    (k.putBar f.bn.toNat (((s.core c.l).bar f.bn.toNat).arrive c.gi f.count c.act)).settleC f.bn.toNat

theorem exec_barCSync (site : Site) (h : Hdr) (f : FmtS) (s : State) :
    exec (.barCSync site h f) s = issue site h { enc := f.count != 0, arith := false } (f.barC true) s := rfl

theorem exec_barCArrive (site : Site) (h : Hdr) (f : FmtS) (s : State) :
    exec (.barCArrive site h f) s = issue site h { enc := f.count != 0, arith := false } (f.barC false) s := rfl

theorem FmtS.barC_good {f : FmtS} {c : Ctx} {t : State} (hact : c.act ≠ []) (hcount : f.count ≤ c.task.groups)
    (hphase : ((t.core c.l).bar f.bn.toNat).g = 0 ∨ ((t.core c.l).bar f.bn.toNat).g = f.count) (sync : Bool) :
    (f.barC sync c t).core c.l = ((t.core c.l).arriveC sync c.gi f.bn.toNat f.count c.act).settleC f.bn.toNat := by
  have hbad : ¬(c.task.groups < f.count ||
      (((t.core c.l).bar f.bn.toNat).g != 0 && ((t.core c.l).bar f.bn.toNat).g != f.count)) = true := by
    rcases hphase with h | h <;> simp [h, hcount]
  rw [FmtS.barC, if_neg (by simpa using hact), if_neg hbad, State.modCore_core, if_pos rfl]
  cases sync with
  | true =>
    rw [if_pos rfl, State.setWaits, State.modCore_core, if_pos rfl]
    rfl
  | false => rfl

theorem FmtS.barC_bad {f : FmtS} {c : Ctx} {t : State} (hact : c.act ≠ []) (hbad : ¬(f.count ≤ c.task.groups ∧
    (((t.core c.l).bar f.bn.toNat).g = 0 ∨ ((t.core c.l).bar f.bn.toNat).g = f.count))) (sync : Bool) :
    f.barC sync c t = t.trapAt c stProgram c.act 0 := by
  have hbad' : (c.task.groups < f.count ||
      (((t.core c.l).bar f.bn.toNat).g != 0 && ((t.core c.l).bar f.bn.toNat).g != f.count)) = true := by
    rw [not_and_or, not_or, Nat.not_le] at hbad
    simpa using hbad
  rw [FmtS.barC, if_neg (by simpa using hact), if_pos hbad']

section Issued

variable {s : State} {site : Site} {h : Hdr} {c : Ctx}

/-- The barrier of an issued arrival, counted. -/
theorem retire_tallyC (hc : s.ctx? site h = some c) (n : Needs) (sync : Bool) (m count : Nat) :
    let k := ((s.retire c n).core c.l).arriveC sync c.gi m count c.act
    k.tally (k.bar m) = (s.core c.l).tally (((s.core c.l).bar m).arrive c.gi count c.act) := by
  dsimp only
  rw [Core.arriveC_bar, if_pos rfl, retire_bar hc]
  exact ((retire_sameThreads hc n c.l).trans (Core.arriveC_sameThreads _ _ _ _ _ _)).tally _

/-- The waits of an issued arrival at a core barrier: the threads of a SYNC wait while the phase is open. -/
theorem retire_waitC (hc : s.ctx? site h = some c) (hgi : c.gi < 16) (n : Needs) (sync : Bool) (m count : Nat) {x : Nat} (hx : x ∈ c.act) :
    let k := ((s.retire c n).core c.l).arriveC sync c.gi m count c.act
    ((k.settleC m).group c.gi).wait x = if sync = true ∧ (k.tally (k.bar m)).full = false then .barC m else .none := by
  dsimp only
  have hthreads := (retire_sameThreads hc n c.l).trans (Core.arriveC_sameThreads _ sync c.gi m count c.act)
  obtain ⟨-, -, -, htask, -⟩ := ctx?_spec hc
  have hmem : c.gi ∈ (((s.retire c n).core c.l).arriveC sync c.gi m count c.act).runSlots := by
    rw [hthreads.runSlots]
    exact Core.mem_runSlots htask hgi (ctx?_slotRuns hc)
  rw [Core.settleC_wait _ _ hmem (ctx?_act_lt hc hx), Core.arriveC_wait _ _ _ _ _ hx (retire_wait hc n hx)]
  cases sync <;> cases (Core.tally _ (Core.bar _ m)).full <;> simp

/-- BAR.C with a count that agrees: the barrier, the other barriers and the acting threads of its core (R126). -/
theorem FmtS.barC_effect {f : FmtS} (hc : s.ctx? site h = some c) (hgi : c.gi < 16) (hact : c.act ≠ []) (hcount : f.count ≤ c.task.groups)
    (hphase : ((s.core c.l).bar f.bn.toNat).g = 0 ∨ ((s.core c.l).bar f.bn.toNat).g = f.count) (sync : Bool) (n : Needs) :
    let b := (s.core c.l).tally (((s.core c.l).bar f.bn.toNat).arrive c.gi f.count c.act)
    let t := f.barC sync c (s.retire c n)
    (t.core c.l).bar f.bn.toNat = (if b.full then {} else b) ∧ (∀ m, m ≠ f.bn.toNat → (t.core c.l).bar m = (s.core c.l).bar m) ∧
      ∀ x ∈ c.act, (t.ctxGroup c).wait x = if sync = true ∧ b.full = false then .barC f.bn.toNat else .none := by
  dsimp only
  rw [State.ctxGroup, FmtS.barC_good hact hcount (retire_bar hc n _ ▸ hphase)]
  have htally := retire_tallyC hc n sync f.bn.toNat f.count
  dsimp only at htally
  refine ⟨?bar, fun m hm => ?others, fun x hx => ?waits⟩
  case bar => rw [Core.settleC_bar, htally]
  case others => rw [Core.settleC_bar_ne _ hm, Core.arriveC_bar, if_neg hm, retire_bar hc]
  case waits => exact htally ▸ retire_waitC hc hgi n sync f.bn.toNat f.count hx

end Issued

end Sys2Proof.Machine
end

section
/-! PROOF. Cluster barriers (R130, R131). -/

namespace Sys2Proof.Machine

/-! ### The groups of a gang's task -/

theorem Core.SameThreads.heldGroup {c c' : Core} (h : c.SameThreads c') (f : Frame) (gi : Nat) :
    (c'.heldGroup f gi).exited = (c.heldGroup f gi).exited ∧ (c'.heldGroup f gi).used = (c.heldGroup f gi).used := by
  have hover : c'.overFrom = c.overFrom := by rw [Core.overFrom, Core.overFrom, h.frame, h.task]
  unfold Core.heldGroup
  rw [hover]
  dsimp only
  split
  · exact ⟨rfl, rfl⟩
  · split
    · exact h.groups gi
    · exact ⟨rfl, rfl⟩

/-- A slot of a gang's task, with the threads of its group that have exited. -/
def memberThreads (p : Nat × Group) : Nat × W32 := (p.1, p.2.exited)

theorem Core.SameThreads.memberGroups {c c' : Core} (h : c.SameThreads c') (g : Nat) :
    (c'.memberGroups g).map memberThreads = (c.memberGroups g).map memberThreads := by
  unfold Core.memberGroups
  rw [h.frame, h.task]
  split
  · split
    · simp [List.filter_map, Function.comp_def, memberThreads, h.heldGroup]
    · rfl
  · split
    · split
      · simp [Function.comp_def, memberThreads, h.runSlots, h.groups]
      · rfl
    · rfl

/-- The complete arrivals of one member of a gang counted at a barrier; its rank is `r`. -/
def Core.memberTally (c : Core) (g r : Nat) (b : NBar) : NBar :=
  (c.memberGroups g).foldl (fun b p => b.countGroup (r * 16 + p.1) p.2) b

theorem Core.SameThreads.memberTally {c c' : Core} (h : c.SameThreads c') (g r : Nat) (b : NBar) :
    c'.memberTally g r b = c.memberTally g r b := by
  have hfold (l : List (Nat × Group)) : l.foldl (fun b p => b.countGroup (r * 16 + p.1) p.2) b =
      (l.map memberThreads).foldl (fun b p => b.countGroup (r * 16 + p.1) { exited := p.2 }) b := by
    rw [List.foldl_map]
    rfl
  rw [Core.memberTally, Core.memberTally, hfold, h.memberGroups, ← hfold]

/-- The complete arrivals of a gang counted at a barrier. -/
def State.tallyCl (s : State) (x : Gang) (g : Nat) (b : NBar) : NBar :=
  x.members.foldl (fun b l => (s.core l).memberTally g (x.rankOf l) b) b

theorem State.tallyCl_congr {s s' : State} {x x' : Gang} (hthreads : ∀ l, (s.core l).SameThreads (s'.core l))
    (hx : x'.members = x.members) (g : Nat) (b : NBar) : s'.tallyCl x' g b = s.tallyCl x g b := by
  have hrank (l : Nat) : x'.rankOf l = x.rankOf l := by rw [Gang.rankOf, Gang.rankOf, hx]
  simp only [State.tallyCl, hx, hrank, (hthreads _).memberTally]

/-! ### Release of a cluster barrier -/

theorem State.modGang_gang (s : State) (cl g : Nat) (f : Gang → Gang) : ((s.modGang cl g f).cluster cl).gang g = f ((s.cluster cl).gang g) := by
  rw [State.modGang, State.modCluster_cluster, if_pos rfl, Cluster.gang, look_put_same]

theorem State.modGang_core (s : State) (cl g : Nat) (f : Gang → Gang) (l : Nat) : (s.modGang cl g f).core l = s.core l := rfl

/-- A gang with barrier `n` set. -/
def Gang.putBar (x : Gang) (n : Nat) (b : NBar) : Gang := { x with barriers := put {} x.barriers n b }

/-- The members of a gang go on from barrier `n`, with their L1 empty (R130). -/
def State.goOnCl (s : State) (ls : List Nat) (g n : Nat) : State :=
  ls.foldl (fun s l => s.modCore l fun c => { c.modMember g (fun y => y.wake (.barCl n)) with l1 := [] }) s

theorem State.goOnCl_clusters (s : State) (ls : List Nat) (g n : Nat) : (s.goOnCl ls g n).clusters = s.clusters :=
  List.foldlRecOn (motive := fun t : State => t.clusters = s.clusters) ls _ rfl fun _ h _ _ => h

theorem State.goOnCl_l1 {s : State} {l : Nat} (h : (s.core l).l1 = []) (ls : List Nat) (g n : Nat) : ((s.goOnCl ls g n).core l).l1 = [] :=
  List.foldlRecOn (motive := fun t : State => (t.core l).l1 = []) ls _ h fun t ht m _ => by
    rw [State.modCore_core]
    split
    · rfl
    · exact ht

/-- The barrier of a gang with its complete arrivals counted. -/
def State.countedCl (s : State) (cl g n : Nat) : NBar :=
  s.tallyCl ((s.cluster cl).gang g) g (look {} ((s.cluster cl).gang g).barriers n)

theorem State.settleCl_full {s : State} {cl g n : Nat} (h : (s.countedCl cl g n).full = true) :
    s.settleCl cl g n = (s.modGang cl g (·.putBar n {})).goOnCl ((s.cluster cl).gang g).members g n := if_pos h

theorem State.settleCl_open {s : State} {cl g n : Nat} (h : (s.countedCl cl g n).full = false) :
    s.settleCl cl g n = s.modGang cl g (·.putBar n (s.countedCl cl g n)) :=
  if_neg (by rw [Bool.not_eq_true]; exact h)

theorem State.settleCl_barrier (s : State) (cl g n : Nat) :
    look {} (((s.settleCl cl g n).cluster cl).gang g).barriers n =
      if (s.countedCl cl g n).full then {} else s.countedCl cl g n := by
  cases h : (s.countedCl cl g n).full with
  | true =>
    have hcl : ((s.modGang cl g (·.putBar n {})).goOnCl ((s.cluster cl).gang g).members g n).cluster cl =
        (s.modGang cl g (·.putBar n {})).cluster cl :=
      congrArg (look ({} : Cluster) · cl) (State.goOnCl_clusters _ _ g n)
    rw [State.settleCl_full h, hcl, State.modGang_gang, Gang.putBar, look_put_same]
    rfl
  | false =>
    rw [State.settleCl_open h, State.modGang_gang, Gang.putBar, look_put_same]
    rfl

theorem State.settleCl_l1 {s : State} {l : Nat} (h : (s.core l).l1 = []) (cl g n : Nat) : ((s.settleCl cl g n).core l).l1 = [] := by
  cases hfull : (s.countedCl cl g n).full with
  | true =>
    rw [State.settleCl_full hfull]
    exact State.goOnCl_l1 (by rwa [State.modGang_core]) _ g n
  | false => rwa [State.settleCl_open hfull, State.modGang_core]

/-! ### BAR.CL -/

theorem State.modCore_sameThreads {f : Core → Core} (hf : ∀ c : Core, c.SameThreads (f c)) (s : State) (l j : Nat) :
    (s.core j).SameThreads ((s.modCore l f).core j) := by
  rw [State.modCore_core]
  split
  · next hj => exact hj ▸ hf _
  · exact .refl _

/-- The state in which the message of an arrival at a cluster barrier has left its core, whose L1 is empty. -/
def State.sendCl (s : State) (l : Nat) : State := (s.l1Clear l).barrierMsg l

theorem State.sendCl_core (s : State) (l j : Nat) : (s.sendCl l).core j = (s.l1Clear l).core j :=
  State.core_of_cores (State.netSend_cores _ _) j

theorem State.sendCl_clusters (s : State) (l : Nat) : (s.sendCl l).clusters = s.clusters :=
  ((s.l1Clear l).netSend_sameButNet _).field State.clusters fun _ => rfl

/-- The state in which the threads of a SYNC wait for a cluster barrier, their arrival sent. -/
def State.waitCl (s : State) (c : Ctx) (sync : Bool) (n : Nat) : State :=
  if sync then (s.sendCl c.l).setWaits c.l c.gi c.act (.barCl n) else s.sendCl c.l

theorem State.waitCl_sameThreads (s : State) (c : Ctx) (sync : Bool) (n j : Nat) : (s.core j).SameThreads ((s.waitCl c sync n).core j) := by
  have hsend : (s.core j).SameThreads ((s.sendCl c.l).core j) := by
    rw [State.sendCl_core]
    exact s.modCore_sameThreads (f := fun c => { c with l1 := [] }) (fun _ => ⟨rfl, rfl, fun _ => ⟨rfl, rfl⟩⟩) c.l j
  cases sync with
  | true => exact hsend.trans (State.modCore_sameThreads (fun k => k.setWaits_sameThreads c.gi c.act (.barCl n)) _ c.l j)
  | false => exact hsend

theorem State.waitCl_clusters (s : State) (c : Ctx) (sync : Bool) (n : Nat) : (s.waitCl c sync n).clusters = s.clusters := by
  cases sync with
  | true => exact s.sendCl_clusters c.l
  | false => exact s.sendCl_clusters c.l

theorem State.sendCl_l1 (s : State) (l : Nat) : ((s.sendCl l).core l).l1 = [] := by
  rw [State.sendCl_core, State.l1Clear, State.modCore_core, if_pos rfl]

theorem State.waitCl_l1 (s : State) (c : Ctx) (sync : Bool) (n : Nat) : ((s.waitCl c sync n).core c.l).l1 = [] := by
  cases sync with
  | true =>
    have hcore : (s.waitCl c true n).core c.l =
        ((s.sendCl c.l).core c.l).modGroup c.gi fun g => c.act.foldl (fun g t => g.setWait t (.barCl n)) g :=
      (State.modCore_core (s.sendCl c.l) c.l c.l fun k =>
        k.modGroup c.gi fun g => c.act.foldl (fun g t => g.setWait t (.barCl n)) g).trans (if_pos rfl)
    rw [hcore]
    exact s.sendCl_l1 c.l
  | false => exact s.sendCl_l1 c.l

theorem State.waitCl_wait (s : State) {c : Ctx} (sync : Bool) (n : Nat) {k : Nat} (hk : k ∈ c.act)
    (hnone : (s.ctxGroup c).wait k = .none) : ((s.waitCl c sync n).ctxGroup c).wait k = if sync then .barCl n else .none := by
  cases sync with
  | true =>
    have hgroup : (s.waitCl c true n).ctxGroup c = c.act.foldl (fun g t => g.setWait t (.barCl n)) ((s.sendCl c.l).ctxGroup c) :=
      State.onGroup_ctxGroup _ c fun g => c.act.foldl (fun g t => g.setWait t (.barCl n)) g
    rw [hgroup, Group.foldl_setWait_wait, if_pos hk]
    rfl
  | false =>
    have hgroup : (s.waitCl c false n).ctxGroup c = s.ctxGroup c := by
      have hcore : (s.waitCl c false n).core c.l = (s.l1Clear c.l).core c.l := s.sendCl_core c.l c.l
      rw [State.ctxGroup, hcore, State.l1Clear, State.modCore_core, if_pos rfl]
      rfl
    rw [hgroup]
    exact hnone

/-- The arrival of an issue at barrier `n` of its gang, before any release. -/
def State.arriveCl (s : State) (c : Ctx) (sync : Bool) (n count g : Nat) : State :=
  (s.waitCl c sync n).modGang (s.clusterOf c.l) g fun x =>
    x.putBar n ((look {} ((s.cluster (s.clusterOf c.l)).gang g).barriers n).arrive (x.rankOf c.l * 16 + c.gi) count c.act)

theorem State.arriveCl_core (s : State) (c : Ctx) (sync : Bool) (n count g l : Nat) :
    (s.arriveCl c sync n count g).core l = (s.waitCl c sync n).core l := State.modGang_core _ _ _ _ _

/-- What BAR.CL does once it has issued. -/
def FmtS.barCl (f : FmtS) (sync : Bool) (c : Ctx) (s : State) : State :=
  if c.act.isEmpty then s
  else match c.task.gang with
    | none => s.trapAt c stProgram c.act 0
    | some g =>
      let b : NBar := look {} ((s.cluster (s.clusterOf c.l)).gang g).barriers f.bn.toNat
      if c.task.members * c.task.groups < f.count || (b.g != 0 && b.g != f.count) then s.trapAt c stProgram c.act 0
      else (s.arriveCl c sync f.bn.toNat f.count g).settleCl (s.clusterOf c.l) g f.bn.toNat

/-- What BAR.CL asks of an issue. -/
def FmtS.barClNeeds (f : FmtS) : Needs := { enc := f.count != 0 && decide (f.bn.toNat < 4), arith := false }

theorem exec_barClSync (site : Site) (h : Hdr) (f : FmtS) (s : State) : exec (.barClSync site h f) s =
    issueWhen (fun c s => s.releaseReady c.l c.gi (List.range 32)) site h f.barClNeeds (f.barCl true) s := rfl

theorem exec_barClArrive (site : Site) (h : Hdr) (f : FmtS) (s : State) : exec (.barClArrive site h f) s =
    issueWhen (fun c s => s.releaseReady c.l c.gi (List.range 32)) site h f.barClNeeds (f.barCl false) s := rfl

theorem Issues.issueWhen_eq {s : State} {site : Site} {h : Hdr} {n : Needs} {c : Ctx} (hi : Issues s site h n c)
    {ready : Ctx → State → Bool} (hr : ready c s = true) (k : Ctx → State → State) :
    issueWhen ready site h n k s = .next (k c (s.retire c n)) := by
  rw [issueWhen, hi.ctx]
  dsimp only
  rw [if_pos hr, hi.issue_eq]

theorem FmtS.barCl_noGang {f : FmtS} {c : Ctx} (hact : c.act ≠ []) (hg : c.task.gang = none) (sync : Bool) (t : State) :
    f.barCl sync c t = t.trapAt c stProgram c.act 0 := by
  rw [FmtS.barCl, if_neg (by simpa using hact), hg]

theorem FmtS.barCl_good {f : FmtS} {c : Ctx} {t : State} {g : Nat} (hact : c.act ≠ []) (hg : c.task.gang = some g)
    (hcount : f.count ≤ c.task.members * c.task.groups)
    (hphase : (look {} ((t.cluster (t.clusterOf c.l)).gang g).barriers f.bn.toNat : NBar).g = 0 ∨
      (look {} ((t.cluster (t.clusterOf c.l)).gang g).barriers f.bn.toNat : NBar).g = f.count) (sync : Bool) :
    f.barCl sync c t = (t.arriveCl c sync f.bn.toNat f.count g).settleCl (t.clusterOf c.l) g f.bn.toNat := by
  rw [FmtS.barCl, if_neg (by simpa using hact), hg]
  dsimp only
  refine if_neg ?_
  rcases hphase with h | h <;> simp [h, hcount]

section Issued

variable {s : State} {site : Site} {h : Hdr} {c : Ctx}

/-- The clusters are those before the issue. -/
theorem retire_clusters (hc : s.ctx? site h = some c) (n : Needs) :
    (s.retire c n).clusters = s.clusters ∧ (s.retire c n).clusterOf c.l = s.clusterOf c.l := by
  have hpackage := (retire_only hc n).package
  have hclusters := congrArg State.clusters hpackage
  have hof := congrArg (State.clusterOf · c.l) hpackage
  exact ⟨hclusters, hof⟩

theorem retire_gang (hc : s.ctx? site h = some c) (n : Needs) (g : Nat) :
    ((s.retire c n).cluster ((s.retire c n).clusterOf c.l)).gang g = (s.cluster (s.clusterOf c.l)).gang g := by
  obtain ⟨hclusters, hof⟩ := retire_clusters hc n
  rw [hof, State.cluster, hclusters]
  rfl

/-- The gang of an issued arrival, its barrier not yet counted. -/
theorem retire_arriveCl_gang (hc : s.ctx? site h = some c) (nd : Needs) (sync : Bool) (n count g : Nat) :
    (((s.retire c nd).arriveCl c sync n count g).cluster (s.clusterOf c.l)).gang g =
      let x := (s.cluster (s.clusterOf c.l)).gang g
      x.putBar n ((look {} x.barriers n).arrive (x.rankOf c.l * 16 + c.gi) count c.act) := by
  obtain ⟨hclusters, hof⟩ := retire_clusters hc nd
  have hcl : (s.retire c nd).cluster (s.clusterOf c.l) = s.cluster (s.clusterOf c.l) :=
    congrArg (look ({} : Cluster) · (s.clusterOf c.l)) hclusters
  have hwait : ((s.retire c nd).waitCl c sync n).cluster (s.clusterOf c.l) = s.cluster (s.clusterOf c.l) :=
    congrArg (look ({} : Cluster) · (s.clusterOf c.l)) ((State.waitCl_clusters _ c sync n).trans hclusters)
  rw [State.arriveCl, hof, State.modGang_gang, hwait, hcl]

/-- The barrier of an issued arrival, counted. -/
theorem retire_countedCl (hc : s.ctx? site h = some c) (nd : Needs) (sync : Bool) (n count g : Nat) :
    ((s.retire c nd).arriveCl c sync n count g).countedCl (s.clusterOf c.l) g n =
      let x := (s.cluster (s.clusterOf c.l)).gang g
      s.tallyCl x g ((look {} x.barriers n).arrive (x.rankOf c.l * 16 + c.gi) count c.act) := by
  rw [State.countedCl, retire_arriveCl_gang hc, Gang.putBar]
  dsimp only
  rw [look_put_same]
  refine State.tallyCl_congr (fun l => ?_) rfl g _
  rw [State.arriveCl_core]
  exact (retire_sameThreads hc nd l).trans (State.waitCl_sameThreads _ c sync n l)

/-- BAR.CL with a count that agrees: the core's L1, the gang's barrier, and the acting threads while the phase is open (R130). -/
theorem FmtS.barCl_effect {f : FmtS} {g : Nat} (hc : s.ctx? site h = some c) (hact : c.act ≠ []) (hg : c.task.gang = some g)
    (hcount : f.count ≤ c.task.members * c.task.groups)
    (hphase : (look {} ((s.cluster (s.clusterOf c.l)).gang g).barriers f.bn.toNat : NBar).g = 0 ∨
      (look {} ((s.cluster (s.clusterOf c.l)).gang g).barriers f.bn.toNat : NBar).g = f.count) (sync : Bool) (n : Needs) :
    let x := (s.cluster (s.clusterOf c.l)).gang g
    let b := s.tallyCl x g ((look {} x.barriers f.bn.toNat).arrive (x.rankOf c.l * 16 + c.gi) f.count c.act)
    let t := f.barCl sync c (s.retire c n)
    (t.core c.l).l1 = [] ∧
      look {} ((t.cluster (s.clusterOf c.l)).gang g).barriers f.bn.toNat = (if b.full then {} else b) ∧
      (b.full = false → ∀ k ∈ c.act, (t.ctxGroup c).wait k = if sync then .barCl f.bn.toNat else .none) := by
  dsimp only
  rw [FmtS.barCl_good hact hg hcount (retire_gang hc n g ▸ hphase), (retire_clusters hc n).2]
  have hcounted := retire_countedCl hc n sync f.bn.toNat f.count g
  dsimp only at hcounted
  refine ⟨?l1, ?barrier, fun hopen k hk => ?waits⟩
  case l1 => exact State.settleCl_l1 (by rw [State.arriveCl_core, State.waitCl_l1]) _ g _
  case barrier => rw [State.settleCl_barrier, hcounted]
  case waits =>
    rw [State.settleCl_open (hcounted ▸ hopen), State.ctxGroup, State.modGang_core, State.arriveCl_core]
    exact State.waitCl_wait _ sync _ hk (retire_wait hc _ hk)

end Issued

end Sys2Proof.Machine

open Sys2Proof Sys2Proof.Machine

/-- Settles O18: the group barrier (`retire_arriveG`), the core barrier (`Core.settleC_bar`, `retire_waitC`) and the cluster barrier
(`State.settleCl_barrier`, `retire_countedCl`). -/
theorem barriersReleaseWhenFull : Obligations.BarriersReleaseWhenFull := by
  unfold Obligations.BarriersReleaseWhenFull
  intro gNeeds cNeeds clNeeds coreBar clusterBar
  have hcore {mk : Site → Hdr → FmtS → Instr} {sync : Bool} (hexec : ∀ site h f s, exec (mk site h f) s =
      issue site h (cNeeds f) (f.barC sync) s) : coreBar mk sync := by
    intro s site h f c hi hgi hact k b
    have hnext := (hexec site h f s).trans (hi.issue_eq _)
    split
    · next hgood => exact ⟨_, hnext, FmtS.barC_effect hi.ctx hgi hact hgood.1 hgood.2 sync _⟩
    · next hbad =>
      refine ⟨_, hnext, ?_⟩
      rw [FmtS.barC_bad hact (retire_bar hi.ctx (cNeeds f) f.bn.toNat ▸ hbad)]
      exact trapAt_traps hi.ctx _ _ _ _
  have hcluster {mk : Site → Hdr → FmtS → Instr} {sync : Bool} (hexec : ∀ site h f s, exec (mk site h f) s =
      issueWhen (fun c s => s.releaseReady c.l c.gi (List.range 32)) site h f.barClNeeds (f.barCl sync) s) : clusterBar mk sync := by
    intro s site h f c hi hready hact
    have hnext := (hexec site h f s).trans (hi.issueWhen_eq hready _)
    split
    · next hg =>
      refine ⟨_, hnext, ?_⟩
      rw [FmtS.barCl_noGang hact hg]
      exact trapAt_traps hi.ctx _ _ _ _
    · next g hg => exact fun hcount hphase => ⟨_, hnext, FmtS.barCl_effect hi.ctx hact hg hcount hphase sync _⟩
  refine ⟨fun s site h f c hi hact => ⟨fun hgood => ⟨_, (exec_barG ..).trans (hi.issue_eq _), ?good⟩,
    fun x hm hbad => ⟨_, (exec_barG ..).trans (hi.issue_eq _), ?bad⟩⟩, hcore exec_barCSync, hcore exec_barCArrive,
    hcluster exec_barClSync, hcluster exec_barClArrive⟩
  case good =>
    rw [FmtS.barG_good hact (Group.barGBad_nil hgood)]
    obtain ⟨hv, hpackage⟩ := retire_onGroup_rest hi.ctx f.barGNeeds
      (f := fun g => (g.arriveG (f.mask c.g) c.act).settleG) fun g => (g.arriveG_same _ _).trans (Group.settleG_same _)
    obtain ⟨hfull, hlacks⟩ := retire_arriveG hi.ctx f.barGNeeds (f.mask c.g)
    refine ⟨?_, ?_, hv, hpackage⟩
    · rw [State.onGroup_ctxGroup]
      exact hfull
    · rw [State.onGroup_ctxGroup]
      exact hlacks
  case bad =>
    rw [FmtS.barG_bad hact (hm ▸ Group.barGBad_ne_nil hact (hm ▸ hbad))]
    exact trapAt_traps hi.ctx _ _ _ _

end

section
/-! PROOF. The words of the core instructions: what a word's fields are read back as, and what is left of a word whose instruction
is encoded again (R148 to R151, Tables 05.1 to 05.7, 05.9, 05.10, 05.15). -/

namespace Sys2Proof.Machine

/-! ### Fields of an encoded word -/

section Encoded

variable {start len : Nat} (o : BitVec 8) (h : Hdr) (body : BitVec 48)

theorem extractLsb'_coreWord_low (hlow : start + len ≤ 16) :
    (coreWord o h body).extractLsb' start len = (h.bits o).extractLsb' start len := BitVec.extractLsb'_append_eq_of_add_le hlow

theorem extractLsb'_coreWord_body (hhigh : 16 ≤ start) :
    (coreWord o h body).extractLsb' start len = body.extractLsb' (start - 16) len := BitVec.extractLsb'_append_eq_of_le hhigh

@[simp] theorem Hdr.ofWord_coreWord : Hdr.ofWord (coreWord o h body) = h := by
  simp (disch := omega) only [Hdr.ofWord, extractLsb'_coreWord_low, Hdr.bits, BitVec.extractLsb'_append_eq_of_add_le,
    BitVec.extractLsb'_append_eq_of_le, Nat.reduceSub, BitVec.extractLsb'_eq_self]

theorem FmtR.ofWord_coreWord {f : FmtR} (hf : f.ok = true) : FmtR.ofWord (coreWord o h f.bits) f.imm = f := by
  simp (disch := omega) only [FmtR.ofWord, extractLsb'_coreWord_body, FmtR.bits, BitVec.extractLsb'_append_eq_of_add_le,
    BitVec.extractLsb'_append_eq_of_le, Nat.reduceSub, BitVec.extractLsb'_eq_self]
  have himm : (if f.bsel = 3 then f.imm else 0) = f.imm := by
    simp only [FmtR.ok, Bool.or_eq_true, beq_iff_eq] at hf
    split
    · rfl
    · next hsel => exact (hf.resolve_left hsel).symm
  rw [himm]

@[simp] theorem FmtC.ofWord_coreWord (f : FmtC) : FmtC.ofWord (coreWord o h f.bits) = f := by
  simp (disch := omega) only [FmtC.ofWord, extractLsb'_coreWord_body, FmtC.bits, BitVec.extractLsb'_append_eq_of_add_le,
    BitVec.extractLsb'_append_eq_of_le, Nat.reduceSub, BitVec.extractLsb'_eq_self]

@[simp] theorem FmtM.ofWord_coreWord (f : FmtM) : FmtM.ofWord (coreWord o h f.bits) = f := by
  simp (disch := omega) only [FmtM.ofWord, extractLsb'_coreWord_body, FmtM.bits, BitVec.extractLsb'_append_eq_of_add_le,
    BitVec.extractLsb'_append_eq_of_le, Nat.reduceSub, BitVec.extractLsb'_eq_self]

@[simp] theorem FmtB.ofWord_coreWord (f : FmtB) : FmtB.ofWord (coreWord o h f.bits) = f := by
  simp (disch := omega) only [FmtB.ofWord, extractLsb'_coreWord_body, FmtB.bits, BitVec.extractLsb'_append_eq_of_add_le,
    BitVec.extractLsb'_append_eq_of_le, Nat.reduceSub, BitVec.extractLsb'_eq_self]

@[simp] theorem FmtS.ofWord_coreWord (f : FmtS) : FmtS.ofWord (coreWord o h f.bits) = f := by
  simp (disch := omega) only [FmtS.ofWord, extractLsb'_coreWord_body, FmtS.bits, BitVec.extractLsb'_append_eq_of_add_le,
    BitVec.extractLsb'_append_eq_of_le, Nat.reduceSub, BitVec.extractLsb'_eq_self]

@[simp] theorem FmtA.ofWord_coreWord (f : FmtA) : FmtA.ofWord (coreWord o h f.bits) = f := by
  simp (disch := omega) only [FmtA.ofWord, extractLsb'_coreWord_body, FmtA.bits, BitVec.extractLsb'_append_eq_of_add_le,
    BitVec.extractLsb'_append_eq_of_le, Nat.reduceSub, BitVec.extractLsb'_eq_self]

end Encoded

/-! ### A word built again from its fields -/

section Decoded

variable (w x : BitVec 64)

theorem FmtR.coreWord_ofWord : coreWord (w.extractLsb' 0 8) (Hdr.ofWord w) (FmtR.ofWord w x).bits = w := by
  simp (disch := omega) only [coreWord, Hdr.bits, Hdr.ofWord, FmtR.bits, FmtR.ofWord,
    BitVec.extractLsb'_append_extractLsb'_eq_extractLsb', BitVec.extractLsb'_eq_self]

theorem FmtC.coreWord_ofWord : coreWord (w.extractLsb' 0 8) (Hdr.ofWord w) (FmtC.ofWord w).bits = w := by
  simp (disch := omega) only [coreWord, Hdr.bits, Hdr.ofWord, FmtC.bits, FmtC.ofWord,
    BitVec.extractLsb'_append_extractLsb'_eq_extractLsb', BitVec.extractLsb'_eq_self]

theorem FmtM.coreWord_ofWord : coreWord (w.extractLsb' 0 8) (Hdr.ofWord w) (FmtM.ofWord w).bits = w := by
  simp (disch := omega) only [coreWord, Hdr.bits, Hdr.ofWord, FmtM.bits, FmtM.ofWord,
    BitVec.extractLsb'_append_extractLsb'_eq_extractLsb', BitVec.extractLsb'_eq_self]

theorem FmtS.coreWord_ofWord : coreWord (w.extractLsb' 0 8) (Hdr.ofWord w) (FmtS.ofWord w).bits = w := by
  simp (disch := omega) only [coreWord, Hdr.bits, Hdr.ofWord, FmtS.bits, FmtS.ofWord,
    BitVec.extractLsb'_append_extractLsb'_eq_extractLsb', BitVec.extractLsb'_eq_self]

theorem getLsbD_maskB {i : Nat} (hi : i < 64) : (0xFFFFFFFF3FFFFFFF : BitVec 64).getLsbD i = decide (i < 30 ∨ 32 ≤ i) := by
  revert i
  decide

theorem getLsbD_maskA {i : Nat} (hi : i < 64) : (0x000001FFFFFFFFFF : BitVec 64).getLsbD i = decide (i < 41) := by
  revert i
  decide

/-- Format B keeps all but the reserved bits [31:30] (Table 05.5). -/
theorem FmtB.coreWord_ofWord : coreWord (w.extractLsb' 0 8) (Hdr.ofWord w) (FmtB.ofWord w).bits = w &&& 0xFFFFFFFF3FFFFFFF := by
  refine BitVec.eq_of_getLsbD_eq fun i hi => ?_
  rw [BitVec.getLsbD_and, getLsbD_maskB hi]
  simp (disch := omega) only [coreWord, Hdr.bits, Hdr.ofWord, FmtB.bits, FmtB.ofWord,
    BitVec.extractLsb'_append_extractLsb'_eq_extractLsb']
  rw [BitVec.getLsbD_append]
  grind

/-- Format A keeps all but the reserved bits [63:41] (Table 05.7). -/
theorem FmtA.coreWord_ofWord : coreWord (w.extractLsb' 0 8) (Hdr.ofWord w) (FmtA.ofWord w).bits = w &&& 0x000001FFFFFFFFFF := by
  refine BitVec.eq_of_getLsbD_eq fun i hi => ?_
  rw [BitVec.getLsbD_and, getLsbD_maskA hi]
  simp (disch := omega) only [coreWord, Hdr.bits, Hdr.ofWord, FmtA.bits, FmtA.ofWord,
    BitVec.extractLsb'_append_extractLsb'_eq_extractLsb']
  rw [BitVec.getLsbD_append]
  grind

/-- The second word is kept where BSEL is 3, so what a word decodes to has none elsewhere (R151). -/
theorem FmtR.ofWord_ok : (FmtR.ofWord w x).ok = true := by
  simp only [FmtR.ofWord, FmtR.ok, Bool.or_eq_true, beq_iff_eq]
  split
  · next hsel => exact .inl hsel
  · exact .inr rfl

end Decoded

/-- What the words of a site can decode to: an instruction of one of the six formats with the fields of the word, whose opcode
is the one it is encoded with (Tables 05.9 and 05.10). -/
inductive Spelled (site : Site) (w x : BitVec 64) : Instr → Prop where
  | r (mk : Site → Hdr → FmtR → Instr) (o : Nat) (ho : (w.extractLsb' 0 8).toNat = o) (hformat : o < 0x40 ∨ 0x50 ≤ o ∧ o < 0x80)
    (hwf : ∀ h f, (mk site h f).wf = (site.ok && f.ok))
    (henc : ∀ h f, encodeCore (mk site h f) = some (coreWord (BitVec.ofNat 8 o) h f.bits, f.imm)) :
    Spelled site w x (mk site (Hdr.ofWord w) (FmtR.ofWord w x))
  | c (mk : Site → Hdr → FmtC → Instr) (o : Nat) (ho : (w.extractLsb' 0 8).toNat = o) (hformat : 0x40 ≤ o ∧ o < 0x50)
    (hwf : ∀ h f, (mk site h f).wf = site.ok)
    (henc : ∀ h f, encodeCore (mk site h f) = some (coreWord (BitVec.ofNat 8 o) h f.bits, 0)) :
    Spelled site w x (mk site (Hdr.ofWord w) (FmtC.ofWord w))
  | m (mk : Site → Hdr → FmtM → Instr) (o : Nat) (ho : (w.extractLsb' 0 8).toNat = o) (hformat : 0x80 ≤ o ∧ o < 0x90)
    (hwf : ∀ h f, (mk site h f).wf = site.ok)
    (henc : ∀ h f, encodeCore (mk site h f) = some (coreWord (BitVec.ofNat 8 o) h f.bits, 0)) :
    Spelled site w x (mk site (Hdr.ofWord w) (FmtM.ofWord w))
  | b (mk : Site → Hdr → FmtB → Instr) (o : Nat) (ho : (w.extractLsb' 0 8).toNat = o) (hformat : 0x90 ≤ o ∧ o ≤ 0x96)
    (hwf : ∀ h f, (mk site h f).wf = site.ok)
    (henc : ∀ h f, encodeCore (mk site h f) = some (coreWord (BitVec.ofNat 8 o) h f.bits, 0)) :
    Spelled site w x (mk site (Hdr.ofWord w) (FmtB.ofWord w))
  | s (mk : Site → Hdr → FmtS → Instr) (o : Nat) (ho : (w.extractLsb' 0 8).toNat = o)
    (hformat : 0x80 ≤ o ∧ o < 0x90 ∨ 0xA0 ≤ o ∧ o < 0xB0 ∨ 0xB2 ≤ o) (hwf : ∀ h f, (mk site h f).wf = site.ok)
    (henc : ∀ h f, encodeCore (mk site h f) = some (coreWord (BitVec.ofNat 8 o) h f.bits, 0)) :
    Spelled site w x (mk site (Hdr.ofWord w) (FmtS.ofWord w))
  | a (mk : Site → Hdr → FmtA → Instr) (o : Nat) (ho : (w.extractLsb' 0 8).toNat = o) (hformat : o = 0xB0 ∨ o = 0xB1)
    (hwf : ∀ h f, (mk site h f).wf = site.ok)
    (henc : ∀ h f, encodeCore (mk site h f) = some (coreWord (BitVec.ofNat 8 o) h f.bits, 0)) :
    Spelled site w x (mk site (Hdr.ofWord w) (FmtA.ofWord w))

theorem decodeCore_spelled {site : Site} {w x : BitVec 64} {i : Instr} (h : decodeCore site w x = some i) : Spelled site w x i := by
  unfold decodeCore at h
  split at h <;> cases h
  all_goals
    next ho =>
    constructor
    case ho => exact ho
    case hformat => decide
    case hwf => exact fun _ _ => rfl
    case henc => exact fun _ _ => rfl

theorem ofNat_opcode {w : BitVec 64} {o : Nat} (ho : (w.extractLsb' 0 8).toNat = o) : BitVec.ofNat 8 o = w.extractLsb' 0 8 := by
  rw [← ho, BitVec.ofNat_toNat, BitVec.setWidth_eq]

end Sys2Proof.Machine

open Sys2Proof Sys2Proof.Machine

/-- Settles O24: every field of a format is read back from the word that it is built into (`FmtR.ofWord_coreWord` and its like). -/
theorem decodeOfEncodeIsIdentity : Obligations.DecodeOfEncodeIsIdentity := by
  unfold Obligations.DecodeOfEncodeIsIdentity
  intro i w x hwf henc
  have hopcode := Laws.Words.coreWord_opcode
  cases i with
  | iadd site h f | isub site h f | imul site h f | imulh site h f | imad site h f | imin site h f | imax site h f | iabs site h f
  | blog site h f | shl site h f | shr site h f | bfe site h f | bfi site h f | popc site h f | clz site h f | brev site h f
  | icmp site h f | sel site h f | mov site h f | plog site h f | bytesel site h f | fadd site h f | fsub site h f | fmul site h f
  | ffma site h f | fmin site h f | fmax site h f | fcmp site h f | fsqrt site h f | rcp site h f | rsq site h f | ex2 site h f
  | lg2 site h f | sin site h f | cos site h f | tanh site h f | xlane site h f | vote site h f | lred site h f | readlane site h f
  | uiadd site h f | uimul site h f | ublog site h f | ushl site h f | ushr site h f | umov site h f | uicmp site h f =>
    obtain ⟨hsite, hf⟩ := Bool.and_eq_true_iff.1 hwf
    cases henc
    exact ⟨site, hsite, by rw [decodeCore, hopcode, Hdr.ofWord_coreWord, FmtR.ofWord_coreWord _ _ hf]; rfl⟩
  | cvt site h f | cvtFw site h f | cvtWf site h f =>
    cases henc
    exact ⟨site, hwf, by rw [decodeCore, hopcode, Hdr.ofWord_coreWord, FmtC.ofWord_coreWord]; rfl⟩
  | ld site h f | st site h f | uld site h f | atom site h f | red site h f | pref site h f | unpin site h f =>
    cases henc
    exact ⟨site, hwf, by rw [decodeCore, hopcode, Hdr.ofWord_coreWord, FmtM.ofWord_coreWord]; rfl⟩
  | bra site h f | brx site h f | call site h f | ret site h f | exit site h f | nop site h f | trap site h f =>
    cases henc
    exact ⟨site, hwf, by rw [decodeCore, hopcode, Hdr.ofWord_coreWord, FmtB.ofWord_coreWord]; rfl⟩
  | invL1 site h f | fence site h f | barG site h f | barCSync site h f | barCArrive site h f | barClSync site h f
  | barClArrive site h f | waitt site h f | testt site h f | sysr site h f =>
    cases henc
    exact ⟨site, hwf, by rw [decodeCore, hopcode, Hdr.ofWord_coreWord, FmtS.ofWord_coreWord]; rfl⟩
  | mma site h f | tm site h f =>
    cases henc
    exact ⟨site, hwf, by rw [decodeCore, hopcode, Hdr.ofWord_coreWord, FmtA.ofWord_coreWord]; rfl⟩
  | _ => cases henc

/-- Settles O25: the fields of a word build the word again but for the reserved bits of formats A and B (`FmtR.coreWord_ofWord` and
its like). -/
theorem encodeOfDecodeKeepsEveryWord : Obligations.EncodeOfDecodeKeepsEveryWord := by
  unfold Obligations.EncodeOfDecodeKeepsEveryWord
  refine ⟨fun site w x i hdec => ?_, fun site w x w' x' hop => ?_⟩
  · cases decodeCore_spelled hdec with
    | r mk o ho hformat hwf henc =>
      dsimp only
      rw [hwf, FmtR.ofWord_ok, Bool.and_true, henc, ofNat_opcode ho, FmtR.coreWord_ofWord, ho, if_neg (by omega), if_neg (by omega)]
      simp [hformat, FmtR.ofWord]
    | c mk o ho hformat hwf henc =>
      dsimp only
      rw [hwf, henc, ofNat_opcode ho, FmtC.coreWord_ofWord, ho, if_neg (by omega), if_neg (by omega), if_neg (by omega)]
      exact ⟨rfl, rfl⟩
    | m mk o ho hformat hwf henc =>
      dsimp only
      rw [hwf, henc, ofNat_opcode ho, FmtM.coreWord_ofWord, ho, if_neg (by omega), if_neg (by omega), if_neg (by omega)]
      exact ⟨rfl, rfl⟩
    | b mk o ho hformat hwf henc =>
      dsimp only
      rw [hwf, henc, ofNat_opcode ho, FmtB.coreWord_ofWord, ho, if_pos (by omega), if_neg (by omega)]
      exact ⟨rfl, rfl⟩
    | s mk o ho hformat hwf henc =>
      dsimp only
      rw [hwf, henc, ofNat_opcode ho, FmtS.coreWord_ofWord, ho, if_neg (by omega), if_neg (by omega), if_neg (by omega)]
      exact ⟨rfl, rfl⟩
    | a mk o ho hformat hwf henc =>
      dsimp only
      rw [hwf, henc, ofNat_opcode ho, FmtA.coreWord_ofWord, ho, if_neg (by omega), if_pos (by omega), if_neg (by omega)]
      exact ⟨rfl, rfl⟩
  · unfold decodeCore
    rw [hop]
    split <;> rfl

/-- Settles O23: each word decoded by its opcode, and the fields of its format read. -/
theorem wordsOfTheEncodedLoop : Obligations.WordsOfTheEncodedLoop := by
  unfold Obligations.WordsOfTheEncodedLoop
  intro site
  refine ⟨⟨_, _, rfl, ?_⟩, ⟨_, _, rfl, ?_⟩, ⟨_, _, rfl, ?_⟩, ⟨_, _, rfl, ?_⟩, ⟨_, _, rfl, ?_⟩, ⟨_, _, rfl, ?_⟩, ⟨_, _, rfl, ?_⟩⟩
    <;> decide
end

section
/-! PROOF. Integer arithmetic, shifts, bit fields and bit logic as operations on bit vectors (R159, Table 05.9). -/

namespace Sys2Proof.Machine

/-! ### Bits of integers -/

theorem testBit_ediv_two_pow (z : Int) (p i : Nat) : (z / 2 ^ p).testBit i = z.testBit (p + i) := by
  have hdiv : z / 2 ^ p = z >>> p := by rw [Int.shiftRight_eq_div_pow]; norm_cast
  rw [hdiv]
  cases z with
  | ofNat m => exact Nat.testBit_shiftRight m
  | negSucc m => rw [Int.negSucc_shiftRight]; exact congrArg not (Nat.testBit_shiftRight m)

/-- A bit vector of an integer holds its two's-complement bits. -/
theorem getLsbD_ofInt (n : Nat) (z : Int) (i : Nat) : (BitVec.ofInt n z).getLsbD i = (decide (i < n) && z.testBit i) := by
  cases z with
  | ofNat m => exact BitVec.getLsbD_ofNat n m i
  | negSucc m =>
    rw [BitVec.ofInt_negSucc_eq_not_ofNat, BitVec.getLsbD_not, BitVec.getLsbD_ofNat]
    by_cases hi : i < n <;> simp [hi, Int.testBit]

/-- A bit vector read in its type beyond its highest bit: the sign bit for I types, and else 0 (Table 05.9). -/
def Ty.bit (t : Ty) (x : BitVec t.w) (i : Nat) : Bool := if i < t.w then x.getLsbD i else t.signed && x.msb

theorem Ty.testBit_int (t : Ty) (x : BitVec t.w) (i : Nat) : (t.int x.toNat).testBit i = t.bit x i := by
  rw [t.int_toNat, Ty.bit]
  split
  · next hsigned =>
    have hbit := (getLsbD_ofInt (i + 1) x.toInt i).symm.trans (BitVec.getLsbD_signExtend (v := i + 1) x)
    simpa [hsigned] using hbit
  · next hsigned =>
    have hbit : ((x.toNat : Int)).testBit i = x.getLsbD i := BitVec.testBit_toNat x
    rw [hbit]
    split
    · rfl
    · next hi => simp [hsigned, BitVec.getLsbD_of_ge x i (by omega)]

/-! ### Numbers built from digits -/

theorem foldl_digits_lt (n : Nat) {d : Nat → Nat} (hd : ∀ k, d k < 2 ^ n) (w : Nat) :
    (List.range w).foldl (fun x k => x + d k * 2 ^ (n * k)) 0 < 2 ^ (n * w) := by
  induction w with
  | zero => simp
  | succ w ih =>
    rw [List.range_succ, List.foldl_concat, Nat.mul_add_one, Nat.pow_add]
    nlinarith [hd w, Nat.two_pow_pos (n * w)]

/-- A sum of digits of `n` bits has the bits of its digits. -/
theorem testBit_foldl_digits {n : Nat} (hn : 0 < n) {d : Nat → Nat} (hd : ∀ k, d k < 2 ^ n) (w i : Nat) :
    ((List.range w).foldl (fun x k => x + d k * 2 ^ (n * k)) 0).testBit i = (decide (i < n * w) && (d (i / n)).testBit (i % n)) := by
  induction w with
  | zero => simp
  | succ w ih =>
    rw [List.range_succ, List.foldl_concat, Nat.add_comm, Nat.mul_comm, Nat.testBit_two_pow_mul_add _ (foldl_digits_lt n hd w), ih]
    by_cases hlow : i < n * w
    · simp [hlow, show i < n * (w + 1) by rw [Nat.mul_add_one]; omega]
    · rw [if_neg hlow]
      obtain ⟨j, rfl⟩ : ∃ j, i = n * w + j := ⟨i - n * w, by omega⟩
      rw [Nat.add_sub_cancel_left]
      by_cases hj : j < n
      · simp [Nat.mul_add_one, hj, Nat.mul_add_div hn, Nat.div_eq_of_lt hj, Nat.mod_eq_of_lt hj]
      · rw [Nat.testBit_lt_two_pow (lt_of_lt_of_le (hd w) (Nat.pow_le_pow_right (by omega) (by omega)))]
        simp [Nat.mul_add_one, hj]

theorem testBit_foldl_bits (out : Nat → Bool) (w i : Nat) :
    ((List.range w).foldl (fun x k => x + (out k).toNat * 2 ^ k) 0).testBit i = (decide (i < w) && out i) := by
  have hbits := testBit_foldl_digits Nat.one_pos (d := fun k => (out k).toNat) (fun k => (out k).toNat_lt) w i
  simpa only [Nat.one_mul, Nat.div_one, Nat.mod_one, Nat.testBit_bool_toNat, decide_true, Bool.true_and] using hbits

/-! ### Counts -/

/-- The numbers below a bound that are taken while a test holds, where it holds below `m` and fails there. -/
theorem length_takeWhile_range {p : Nat → Bool} {m w : Nat} (hm : m < w) (hp : ∀ i < m, p i = true) (hstop : p m = false) :
    ((List.range w).takeWhile p).length = m := by
  obtain ⟨r, rfl⟩ : ∃ r, w = m + (r + 1) := ⟨w - m - 1, by omega⟩
  rw [List.range_add, List.takeWhile_append_of_pos (by simpa using hp), List.range_succ_eq_map]
  simp [hstop]

theorem clz_toNat {w : Nat} (x : BitVec w) :
    clz w x.toNat = ((List.range w).takeWhile fun i => !x.getLsbD (w - 1 - i)).length := by
  rw [clz, Nat.mod_eq_of_lt x.isLt]
  split
  · next hzero =>
    obtain rfl : x = 0#w := BitVec.eq_of_toNat_eq (by simpa using hzero)
    rw [List.takeWhile_eq_self_iff.2 (by simp), List.length_range]
  · next hne =>
    have hlog := (Nat.log2_lt hne).2 x.isLt
    refine (length_takeWhile_range (by omega) (fun i hi => ?_) ?_).symm
    · rw [← BitVec.testBit_toNat, Nat.testBit_lt_two_pow ((Nat.log2_lt hne).1 (by omega))]
      rfl
    · rw [← BitVec.testBit_toNat, show w - 1 - (w - 1 - x.toNat.log2) = x.toNat.log2 by omega, Nat.testBit_log2 hne]
      rfl

/-! ### Shifts and bit fields -/

theorem shiftRight_toNat (t : Ty) (a b : BitVec t.w) : BitVec.ofNat t.w (shiftRight t a.toNat b.toNat) =
    if t.signed then a.sshiftRight (b.toNat % t.w) else a >>> (b.toNat % t.w) := by
  unfold shiftRight
  split
  · rw [ofNat_lowBits, sext_toNat t.w_pos, BitVec.sshiftRight, Int.shiftRight_eq_div_pow]
    norm_cast
  · rw [Nat.mod_eq_of_lt a.isLt]
    exact BitVec.eq_of_toNat_eq (by simp [Nat.mod_eq_of_lt (lt_of_le_of_lt (Nat.shiftRight_le _ _) a.isLt)])

/-- The field that BFE takes, as a bit vector of the field's length. -/
def Ty.field (t : Ty) (a : BitVec t.w) (pos len : Nat) : BitVec len := BitVec.ofInt len (t.int a.toNat / 2 ^ pos)

theorem Ty.getLsbD_field (t : Ty) (a : BitVec t.w) (pos len i : Nat) :
    (t.field a pos len).getLsbD i = (decide (i < len) && t.bit a (pos + i)) := by
  rw [Ty.field, getLsbD_ofInt, testBit_ediv_two_pow, t.testBit_int]

theorem bfe_toNat (t : Ty) (a : BitVec t.w) (b : Nat) (hlen : b / 256 % 256 ≠ 0) : BitVec.ofNat t.w (bfe t a.toNat b) =
    if t.signed then (t.field a (b % 256) (b / 256 % 256)).signExtend t.w
    else (t.field a (b % 256) (b / 256 % 256)).setWidth t.w := by
  have hfield : (t.int a.toNat / 2 ^ (b % 256) % 2 ^ (b / 256 % 256)).toNat = (t.field a (b % 256) (b / 256 % 256)).toNat := by
    rw [Ty.field, BitVec.toNat_ofInt]
    norm_cast
  simp only [bfe, if_neg hlen, hfield, ofNat_lowBits]
  split
  · rw [sext_toNat (by omega)]
    rfl
  · rw [BitVec.ofInt_natCast, BitVec.ofNat_toNat]

/-- BFE extends the field by its highest bit for I types, and else by 0 (Table 05.9). -/
theorem getLsbD_bfe (t : Ty) (a : BitVec t.w) (b : Nat) {i : Nat} (hi : i < t.w) : (BitVec.ofNat t.w (bfe t a.toNat b)).getLsbD i =
    if i < b / 256 % 256 then t.bit a (b % 256 + i)
    else t.signed && b / 256 % 256 != 0 && t.bit a (b % 256 + b / 256 % 256 - 1) := by
  by_cases hlen : b / 256 % 256 = 0
  · simp [bfe, hlen]
  · have hlast : (t.field a (b % 256) (b / 256 % 256)).msb = t.bit a (b % 256 + b / 256 % 256 - 1) := by
      rw [BitVec.msb_eq_getLsbD_last, t.getLsbD_field, show b % 256 + (b / 256 % 256 - 1) = b % 256 + b / 256 % 256 - 1 by omega]
      simp [show b / 256 % 256 - 1 < b / 256 % 256 by omega]
    rw [bfe_toNat t a b hlen]
    split
    · next hsigned =>
      rw [BitVec.getLsbD_signExtend, hlast, t.getLsbD_field]
      by_cases hfield : i < b / 256 % 256 <;> simp [hi, hfield, hsigned, hlen]
    · next hsigned =>
      rw [BitVec.getLsbD_setWidth, t.getLsbD_field]
      by_cases hfield : i < b / 256 % 256 <;> simp [hi, hfield, hsigned]

/-! ### Integer arithmetic -/

/-- The width of a type's integers in the double product: sign-extended for I types. -/
theorem Ty.ofInt_int (t : Ty) (x : BitVec t.w) (n : Nat) :
    BitVec.ofInt n (t.int x.toNat) = if t.signed then x.signExtend n else x.zeroExtend n := by
  rw [t.int_toNat]
  split
  · rfl
  · exact BitVec.eq_of_getLsbD_eq fun i hi => by
      rw [getLsbD_ofInt]
      rw [BitVec.getLsbD_setWidth]
      exact congrArg _ (BitVec.testBit_toNat x)

theorem extractLsb'_ofInt_high (w : Nat) (z : Int) : (BitVec.ofInt (2 * w) z).extractLsb' w w = BitVec.ofInt w (z / 2 ^ w) := by
  refine BitVec.eq_of_getLsbD_eq fun i hi => ?_
  rw [BitVec.getLsbD_extractLsb', getLsbD_ofInt, getLsbD_ofInt, testBit_ediv_two_pow]
  simp [hi, show w + i < 2 * w by omega]

theorem ofInt_natAbs_toInt {w : Nat} (x : BitVec w) : BitVec.ofInt w x.toInt.natAbs = x.abs := by
  unfold BitVec.abs
  rw [BitVec.msb_eq_toInt]
  by_cases hneg : x.toInt < 0
  · rw [if_pos (by simpa using hneg), Int.ofNat_natAbs_of_nonpos hneg.le, BitVec.ofInt_neg, BitVec.ofInt_toInt]
    rfl
  · rw [if_neg (by simpa using hneg), Int.natAbs_of_nonneg (by omega), BitVec.ofInt_toInt]

theorem ofNat_ite_int_lt (t : Ty) (a b : BitVec t.w) (x y : Nat) :
    BitVec.ofNat t.w (if t.int a.toNat < t.int b.toNat then x else y) =
      if t.less a b then BitVec.ofNat t.w x else BitVec.ofNat t.w y := by
  rw [← t.int_lt]
  simp only [decide_eq_true_eq]
  exact apply_ite _ _ _ _

/-- An instruction that issues takes its type. -/
theorem Issues.ty_ok {s : State} {site : Site} {h : Hdr} {n : Needs} {c : Ctx} (hi : Issues s site h n c) : n.ty = true := by
  have hchecks := hi.checks
  unfold State.issueCheck at hchecks
  repeat' split at hchecks
  all_goals simp_all

/-- A format R instruction that issues has a type that it accepts. -/
theorem Issues.type_ok {s : State} {site : Site} {h : Hdr} {f : FmtR} {c : Ctx} {sp : RSpec} (hi : Issues s site h (rNeeds sp h f) c)
    (hty : sp.anyTy = false) : sp.ok f.type = true := by
  simpa [rNeeds, hty] using hi.ty_ok

/-- A format R instruction computes `val` where its operation on numbers is `val` on bit vectors of the types that it takes. -/
theorem computes_of_op_ok {mk : Site → Hdr → FmtR → Instr} {sp : FmtR → RSpec} {op : FmtR → Ty → Nat → Nat → Nat → Nat}
    {val : (f : FmtR) → BitVec f.type.w → BitVec f.type.w → BitVec f.type.w → BitVec f.type.w}
    (hexec : ∀ site h f s, exec (mk site h f) s = rResult (sp f) (op f) site h f s) (hty : ∀ f, (sp f).anyTy = false)
    (hop : ∀ f a b c, (sp f).ok f.type = true → BitVec.ofNat f.type.w (op f f.type a.toNat b.toNat c.toNat) = val f a b c) :
    Computes mk sp val := by
  intro s site h f c hi
  refine ⟨_, (hexec site h f s).trans (hi.issue_eq _), ?_⟩
  exact hi.gives rfl fun k => by
    rw [← hop f _ _ _ (hi.type_ok (hty f)), FmtR.bitsA_toNat, FmtR.bitsB_toNat, FmtR.bitsC_toNat]

/-! ### Results given bit by bit -/

/-- A format R instruction computes the bits `val` where they are those of its operation on the types that it takes. -/
theorem computesBits_of_op {mk : Site → Hdr → FmtR → Instr} {sp : FmtR → RSpec} {op : FmtR → Ty → Nat → Nat → Nat → Nat}
    {val : (f : FmtR) → BitVec f.type.w → BitVec f.type.w → BitVec f.type.w → Nat → Bool}
    (hexec : ∀ site h f s, exec (mk site h f) s = rResult (sp f) (op f) site h f s) (hty : ∀ f, (sp f).anyTy = false)
    (hop : ∀ f a b c, (sp f).ok f.type = true → ∀ i < f.type.w,
      (BitVec.ofNat f.type.w (op f f.type a.toNat b.toNat c.toNat)).getLsbD i = val f a b c i) : ComputesBits mk sp val := by
  intro s site h f c hi
  have hcomputes := computes_of_op_ok (val := fun f a b c => BitVec.ofNat f.type.w (op f f.type a.toNat b.toNat c.toNat)) hexec hty
    fun _ _ _ _ _ => rfl
  obtain ⟨t, ht, hgives⟩ := hcomputes s site h f c hi
  exact ⟨t, _, ht, hgives, fun k _ i hw => hop f _ _ _ (hi.type_ok (hty f)) i hw⟩

/-- A number that an operation sums from its bits. -/
theorem getLsbD_ofNat_foldl_bits {w i : Nat} (hi : i < w) (out : Nat → Bool) :
    (BitVec.ofNat w ((List.range w).foldl (fun x k => x + (out k).toNat * 2 ^ k) 0)).getLsbD i = out i := by
  rw [BitVec.getLsbD_ofNat, testBit_foldl_bits]
  simp [hi]

/-- BLOG reads bit 2·a + b of FN, and combines it with C or its complement (Table 05.9). -/
theorem getLsbD_blog (fn : BitVec 9) {w : Nat} (a b c : BitVec w) {i : Nat} (hi : i < w) :
    (BitVec.ofNat w (blog w fn a.toNat b.toNat c.toNat)).getLsbD i =
      let x := fn.getLsbD (2 * (a.getLsbD i).toNat + (b.getLsbD i).toNat)
      let y := c.getLsbD i ^^ fn.getLsbD 6
      match fn.toNat / 16 % 4 with
      | 0 => x
      | 1 => x && y
      | 2 => x || y
      | _ => x ^^ y := by
  rw [blog, getLsbD_ofNat_foldl_bits hi, Nat.mul_comm 2]
  generalize fn.toNat / 16 % 4 = mode
  match mode with
  | 0 | 1 | 2 | _ + 3 => rfl

/-- The byte of b:a that BYTESEL selects, from its bit `j` on. -/
theorem testBit_byteOfPair (a b : BitVec 32) {sel j : Nat} (hj : j < 8) :
    ((a.toNat % 2 ^ 32 + b.toNat % 2 ^ 32 * 2 ^ 32) >>> (8 * sel) % 256).testBit j =
      if sel < 4 then a.getLsbD (8 * sel + j) else b.getLsbD (8 * (sel - 4) + j) := by
  rw [show 256 = 2 ^ 8 by rfl, Nat.testBit_mod_two_pow, Nat.testBit_shiftRight, Nat.mod_eq_of_lt a.isLt, Nat.mod_eq_of_lt b.isLt,
    Nat.add_comm, Nat.mul_comm, Nat.testBit_two_pow_mul_add _ a.isLt, decide_eq_true hj, Bool.true_and]
  by_cases hsel : sel < 4
  · rw [if_pos hsel, if_pos (by omega)]
    rfl
  · rw [if_neg hsel, if_neg (by omega), show 8 * sel + j - 32 = 8 * (sel - 4) + j by omega]
    rfl

theorem getLsbD_byteSel (a b c : BitVec 32) {i : Nat} (hi : i < 32) : (BitVec.ofNat 32 (byteSel a.toNat b.toNat c.toNat)).getLsbD i =
    (!c.getLsbD (8 * (i / 8) + 7) && (if c.toNat / 2 ^ (8 * (i / 8)) % 8 < 4 then
      a.getLsbD (8 * (c.toNat / 2 ^ (8 * (i / 8)) % 8) + i % 8)
      else b.getLsbD (8 * (c.toNat / 2 ^ (8 * (i / 8)) % 8 - 4) + i % 8))) := by
  have hdigit (k : Nat) : (if c.toNat.testBit (8 * k + 7) then 0
      else (a.toNat % 2 ^ 32 + b.toNat % 2 ^ 32 * 2 ^ 32) >>> (8 * (c.toNat >>> (8 * k) % 8)) % 256) < 2 ^ 8 := by
    split
    · decide
    · exact Nat.mod_lt _ (by decide)
  unfold byteSel
  rw [BitVec.getLsbD_ofNat, testBit_foldl_digits (by decide) hdigit, ← testBit_byteOfPair a b (Nat.mod_lt i (by decide)),
    Nat.shiftRight_eq_div_pow c.toNat]
  have hclear : c.toNat.testBit (8 * (i / 8) + 7) = c.getLsbD (8 * (i / 8) + 7) := BitVec.testBit_toNat c
  rw [hclear]
  cases c.getLsbD (8 * (i / 8) + 7) <;> simp [hi]

end Sys2Proof.Machine

open Sys2Proof Sys2Proof.Machine

/-- Settles O1: each operation on numbers is the one on bit vectors (`computes_of_op`); the double product is that of the
extended operands (`Ty.ofInt_int`), and IABS takes signed types only. -/
theorem integerArithmeticResults : Obligations.IntegerArithmeticResults := by
  unfold Obligations.IntegerArithmeticResults
  refine ⟨?iadd, ?isub, ?imul, ?imulh, ?imad, ?imin, ?imax, ?iabs⟩
  case iadd =>
    refine computes_of_op (op := fun _ t a b _ => (a + b) % 2 ^ t.w) (fun _ _ _ _ => rfl) fun f a b _ => ?_
    exact BitVec.eq_of_toNat_eq (by simp)
  case isub =>
    refine computes_of_op (op := fun _ t a b _ => lowBits t.w ((a : Int) - b)) (fun _ _ _ _ => rfl) fun f a b _ => ?_
    rw [ofNat_lowBits, Int.sub_eq_add_neg, BitVec.ofInt_add, BitVec.ofInt_neg, BitVec.ofInt_natCast, BitVec.ofInt_natCast,
      BitVec.ofNat_toNat, BitVec.ofNat_toNat, BitVec.setWidth_eq, BitVec.setWidth_eq, BitVec.sub_eq_add_neg]
  case imul =>
    refine computes_of_op (op := fun _ t a b _ => a * b % 2 ^ t.w) (fun _ _ _ _ => rfl) fun f a b _ => ?_
    exact BitVec.eq_of_toNat_eq (by simp)
  case imulh =>
    refine computes_of_op (op := fun _ t a b _ => lowBits t.w (t.int a * t.int b / 2 ^ t.w)) (fun _ _ _ _ => rfl) fun f a b _ => ?_
    rw [ofNat_lowBits, ← extractLsb'_ofInt_high, BitVec.ofInt_mul, Ty.ofInt_int, Ty.ofInt_int]
    split <;> rfl
  case imad =>
    refine computes_of_op (op := fun _ t a b c => (a * b + c) % 2 ^ t.w) (fun _ _ _ _ => rfl) fun f a b c => ?_
    exact BitVec.eq_of_toNat_eq (by simp)
  case imin =>
    refine computes_of_op (op := fun _ t a b _ => if t.int a < t.int b then a else b) (fun _ _ _ _ => rfl) fun f a b _ => ?_
    rw [ofNat_ite_int_lt, BitVec.ofNat_toNat, BitVec.ofNat_toNat, BitVec.setWidth_eq, BitVec.setWidth_eq]
    rfl
  case imax =>
    refine computes_of_op (op := fun _ t a b _ => if t.int a < t.int b then b else a) (fun _ _ _ _ => rfl) fun f a b _ => ?_
    rw [ofNat_ite_int_lt, BitVec.ofNat_toNat, BitVec.ofNat_toNat, BitVec.setWidth_eq, BitVec.setWidth_eq]
    rfl
  case iabs =>
    refine computes_of_op_ok (op := fun _ t a _ _ => lowBits t.w (t.int a).natAbs) (fun _ _ _ _ => rfl) (fun _ => rfl)
      fun f a _ _ hsigned => ?_
    rw [ofNat_lowBits, f.type.int_toNat, if_pos hsigned, ofInt_natAbs_toInt]

/-- Settles O2: sums of bits have the bits they are built from (`testBit_foldl_digits`), a shifted integer those from its shift on
(`testBit_ediv_two_pow`). -/
theorem shiftAndBitFieldResults : Obligations.ShiftAndBitFieldResults := by
  unfold Obligations.ShiftAndBitFieldResults
  refine ⟨?shl, ?shr, ?bfe, ?bfi, ?blog, ?popc, ?clz, ?brev, ?bytesel⟩
  case shl =>
    refine computes_of_op (op := fun _ t a b _ => a <<< (b % t.w) % 2 ^ t.w) (fun _ _ _ _ => rfl) fun f a b _ => ?_
    exact BitVec.eq_of_toNat_eq (by simp)
  case shr => exact computes_of_op (op := fun _ t a b _ => shiftRight t a b) (fun _ _ _ _ => rfl) fun f a b _ => shiftRight_toNat f.type a b
  case bfe =>
    exact computesBits_of_op (op := fun _ t a b _ => bfe t a b) (fun _ _ _ _ => rfl) (fun _ => rfl) fun f a b _ _ _ hi =>
      getLsbD_bfe f.type a b.toNat hi
  case bfi =>
    refine computesBits_of_op (op := fun _ t a b c => bfi t a b c) (fun _ _ _ _ => rfl) (fun _ => rfl) fun f a b c _ i hi => ?_
    rw [bfi, getLsbD_ofNat_foldl_bits hi]
    simp only [Bool.and_eq_true, decide_eq_true_eq]
    rfl
  case blog =>
    refine computesBits_of_op (op := fun f t a b c => blog t.w f.fn a b c) (fun _ _ _ _ => rfl) (fun _ => rfl) fun f a b c _ i hi => ?_
    exact getLsbD_blog f.fn a b c hi
  case popc =>
    refine computes_of_op (op := fun _ t a _ _ => popc t.w a) (fun _ _ _ _ => rfl) fun f a _ _ => ?_
    rw [popc, List.countP_eq_length_filter]
    rfl
  case clz =>
    refine computes_of_op (op := fun _ t a _ _ => clz t.w a) (fun _ _ _ _ => rfl) fun f a _ _ => ?_
    rw [clz_toNat]
  case brev =>
    refine computesBits_of_op (op := fun _ t a _ _ => brev t.w a) (fun _ _ _ _ => rfl) (fun _ => rfl) fun f a _ _ _ i hi => ?_
    rw [brev, getLsbD_ofNat_foldl_bits hi]
    rfl
  case bytesel =>
    refine computesBits_of_op (op := fun _ _ a b c => byteSel a b c) (fun _ _ _ _ => rfl) (fun _ => rfl) fun f a b c hok i hi => ?_
    generalize f.type = t at a b c hok hi ⊢
    obtain rfl : t = .u32 := by simpa using hok
    exact getLsbD_byteSel a b c hi
end

section
/-! PROOF. The lane and uniform instructions (R157, R163, R164). -/

namespace Sys2Proof.Machine

/-! ### XLANE -/

/-- The source thread of XLANE in terms of source B as a word (R163). -/
theorem xlaneSource_eq (mode k x : Nat) : xlaneSource mode k x = match mode with
    | 0 => (BitVec.ofNat 32 x).toNat % 32
    | 1 => (k + (BitVec.ofNat 32 x).toNat) % 32
    | 2 => if 0 ≤ (k : Int) + (BitVec.ofNat 32 x).toInt ∧ (k : Int) + (BitVec.ofNat 32 x).toInt < 32 then
        ((k : Int) + (BitVec.ofNat 32 x).toInt).toNat else k
    | _ => k ^^^ ((BitVec.ofNat 32 x).toNat % 32) := by
  have hmod : (BitVec.ofNat 32 x).toNat % 32 = x % 32 := by rw [BitVec.toNat_ofNat]; omega
  have hsext : sext 32 x = (BitVec.ofNat 32 x).toInt := by
    rw [← sext_toNat (by decide), BitVec.toNat_ofNat, sext, sext, Nat.mod_mod]
  match mode with
  | 0 => exact hmod.symm
  | 1 => simp only [xlaneSource]; omega
  | 2 => simp only [xlaneSource, hsext, Bool.and_eq_true, decide_eq_true_eq]
  | _ + 3 => exact congrArg (k ^^^ ·) hmod.symm

/-! ### The reduction tree -/

theorem length_pairUp (op : Nat → Nat → Nat) (l : List Nat) : (pairUp op l).length = (l.length + 1) / 2 := by
  induction l using pairUp.induct with
  | case1 a b r ih => simp only [pairUp, List.length_cons, ih]; omega
  | case2 l hl =>
    match l with
    | [] | [_] => simp [pairUp]
    | a :: b :: r => exact (hl a b r rfl).elim

section Tree

variable {op : Nat → Nat → Nat} {R : Nat → List Nat → Prop} (hpair : ∀ a b S T, R a S → R b T → R (op a b) (S ++ T))

include hpair in
/-- One level of the tree joins the lists that adjacent values stand for. -/
theorem pairUp_joins {xs : List Nat} {Ss : List (List Nat)} (h : List.Forall₂ R xs Ss) :
    ∃ Ts, List.Forall₂ R (pairUp op xs) Ts ∧ Ts.flatten = Ss.flatten := by
  induction xs using pairUp.induct generalizing Ss with
  | case1 a b r ih =>
    obtain _ | ⟨ha, _ | ⟨hb, hr⟩⟩ := h
    obtain ⟨Ts, hTs, hflat⟩ := ih hr
    exact ⟨_ :: Ts, .cons (hpair _ _ _ _ ha hb) hTs, by simp [hflat]⟩
  | case2 l hl =>
    match l, h with
    | [], h | [_], h => exact ⟨Ss, h, rfl⟩
    | a :: b :: r, _ => exact (hl a b r rfl).elim

include hpair in
/-- What holds of single values, and of a combination where it holds of both parts, holds of the tree over 32 values. -/
theorem tree32_induct (hsingle : ∀ a, R a [a]) {l : List Nat} (hl : l.length = 32) : R (tree32 op l) l := by
  have h0 : List.Forall₂ R l (l.map fun a => [a]) := List.forall₂_map_right_iff.2 (List.forall₂_same.2 fun a _ => hsingle a)
  obtain ⟨S1, h1, f1⟩ := pairUp_joins hpair h0
  obtain ⟨S2, h2, f2⟩ := pairUp_joins hpair h1
  obtain ⟨S3, h3, f3⟩ := pairUp_joins hpair h2
  obtain ⟨S4, h4, f4⟩ := pairUp_joins hpair h3
  obtain ⟨S5, h5, f5⟩ := pairUp_joins hpair h4
  have hlen : (pairUp op (pairUp op (pairUp op (pairUp op (pairUp op l))))).length = 1 := by simp [length_pairUp, hl]
  obtain ⟨x, hx⟩ := List.length_eq_one_iff.1 hlen
  rw [hx] at h5
  obtain _ | ⟨hroot, _ | _⟩ := h5
  have hjoin : (l.map fun a => [a]).flatten = l := List.flatMap_singleton' l
  have hall := f5.trans (f4.trans (f3.trans (f2.trans (f1.trans hjoin))))
  rw [List.flatten_singleton] at hall
  rw [tree32, hx, ← hall]
  exact hroot

end Tree

/-- The tree of an operation with an identity is its fold over the values as words. -/
theorem tree32_fold {op : Nat → Nat → Nat} {bop : BitVec 32 → BitVec 32 → BitVec 32} {e : BitVec 32} (hassoc : ∀ x y z,
    bop (bop x y) z = bop x (bop y z)) (hleft : ∀ x, bop e x = x) (hright : ∀ x, bop x e = x)
    (hop : ∀ a b, BitVec.ofNat 32 (op a b) = bop (BitVec.ofNat 32 a) (BitVec.ofNat 32 b)) {l : List Nat} (hl : l.length = 32) :
    BitVec.ofNat 32 (tree32 op l) = l.foldl (fun x n => bop x (BitVec.ofNat 32 n)) e := by
  have hfrom (x : BitVec 32) (T : List Nat) : T.foldl (fun x n => bop x (BitVec.ofNat 32 n)) x =
      bop x (T.foldl (fun x n => bop x (BitVec.ofNat 32 n)) e) := by
    induction T using List.reverseRecOn with
    | nil => exact (hright x).symm
    | append_singleton T n ih => rw [List.foldl_concat, List.foldl_concat, ih, hassoc]
  refine tree32_induct (R := fun a S => BitVec.ofNat 32 a = S.foldl (fun x n => bop x (BitVec.ofNat 32 n)) e)
    (fun a b S T ha hb => ?_) (fun a => (hleft _).symm) hl
  rw [hop, ha, hb, List.foldl_append, ← hfrom]

/-- The tree of an operation that takes the value of the least key. -/
theorem tree32_least {op : Nat → Nat → Nat} {key : Nat → Int} (hop : ∀ a b, (op a b = a ∨ op a b = b) ∧ key (op a b) ≤ key a ∧
    key (op a b) ≤ key b) {l : List Nat} (hl : l.length = 32) : tree32 op l ∈ l ∧ ∀ x ∈ l, key (tree32 op l) ≤ key x := by
  refine tree32_induct (R := fun a S => a ∈ S ∧ ∀ x ∈ S, key a ≤ key x) (fun a b S T ⟨ha, hS⟩ ⟨hb, hT⟩ => ?_) (by simp) hl
  obtain ⟨hmem, hka, hkb⟩ := hop a b
  refine ⟨?_, fun x hx => ?_⟩
  · rcases hmem with h | h <;> simp [h, ha, hb]
  · rcases List.mem_append.1 hx with hx | hx
    · exact hka.trans (hS x hx)
    · exact hkb.trans (hT x hx)

/-! ### LRED -/

/-- The values of LRED's tree: those of the acting threads, and the identity elsewhere (R164). -/
def lredValues (act : List Nat) (v : Nat → BitVec 32) (e : Nat) : List Nat :=
  (List.range 32).map fun k => if act.contains k then (v k).toNat else e

theorem lredValues_length (act : List Nat) (v : Nat → BitVec 32) (e : Nat) : (lredValues act v e).length = 32 := by
  simp [lredValues]

theorem ctx?_act_eq {s : State} {site : Site} {h : Hdr} {c : Ctx} (hc : s.ctx? site h = some c) :
    (List.range 32).filter (c.act.contains ·) = c.act := by
  obtain ⟨-, -, -, -, -, hset, hact⟩ := ctx?_spec hc
  obtain ⟨q, hq⟩ : ∃ q, c.act = (List.range 32).filter q :=
    ⟨_, by rw [hact, hset, Group.setAt, Group.active, List.filter_filter, List.filter_filter]⟩
  rw [hq]
  exact List.filter_congr fun k hk => by simp [List.mem_range.1 hk]

/-- The tree of LRED is the fold of its operation over the acting threads in rising order. -/
theorem tree32_lred_fold {s : State} {site : Site} {h : Hdr} {c : Ctx} (hc : s.ctx? site h = some c) {op : Nat → Nat → Nat}
    {bop : BitVec 32 → BitVec 32 → BitVec 32} {e : BitVec 32} (hassoc : ∀ x y z, bop (bop x y) z = bop x (bop y z))
    (hleft : ∀ x, bop e x = x) (hright : ∀ x, bop x e = x)
    (hop : ∀ a b, BitVec.ofNat 32 (op a b) = bop (BitVec.ofNat 32 a) (BitVec.ofNat 32 b)) (v : Nat → BitVec 32) :
    BitVec.ofNat 32 (tree32 op (lredValues c.act v e.toNat)) = c.act.foldl (fun x k => bop x (v k)) e := by
  rw [tree32_fold hassoc hleft hright hop (lredValues_length _ _ _), lredValues, List.foldl_map]
  conv_rhs => rw [← ctx?_act_eq hc, List.foldl_filter]
  congr 1
  funext x k
  split <;> simp [hright]

/-- The tree of LRED takes the value of an acting thread with the least key, where no key is above the identity's. -/
theorem tree32_lred_least {act : List Nat} (hact : act ≠ []) (hlt : ∀ k ∈ act, k < 32) {op : Nat → Nat → Nat} {key : Nat → Int}
    (hop : ∀ a b, (op a b = a ∨ op a b = b) ∧ key (op a b) ≤ key a ∧ key (op a b) ≤ key b) {e : Nat} (he : ∀ a, key a ≤ key e)
    (hinj : ∀ x : BitVec 32, key x.toNat = key e → x.toNat = e) (v : Nat → BitVec 32) :
    (∃ k ∈ act, BitVec.ofNat 32 (tree32 op (lredValues act v e)) = v k) ∧
      ∀ k ∈ act, key (BitVec.ofNat 32 (tree32 op (lredValues act v e))).toNat ≤ key (v k).toNat := by
  obtain ⟨hmem, hle⟩ := tree32_least hop (lredValues_length act v e)
  have hval {k : Nat} (hk : k ∈ act) : (v k).toNat ∈ lredValues act v e :=
    List.mem_map.2 ⟨k, List.mem_range.2 (hlt k hk), by simp [hk]⟩
  obtain ⟨k, hk, hroot⟩ : ∃ k ∈ act, tree32 op (lredValues act v e) = (v k).toNat := by
    obtain ⟨j, -, hj⟩ := List.mem_map.1 hmem
    split at hj
    · next hja => exact ⟨j, by simpa using hja, hj.symm⟩
    · obtain ⟨k, hk⟩ := List.exists_mem_of_ne_nil _ hact
      exact ⟨k, hk, hj.symm.trans (hinj (v k) ((he _).antisymm (hj ▸ hle _ (hval hk)))).symm⟩
  have hword : BitVec.ofNat 32 (tree32 op (lredValues act v e)) = v k := by rw [hroot, BitVec.ofNat_toNat, BitVec.setWidth_eq]
  exact ⟨⟨k, hk, hword⟩, fun j hj => by rw [hword, ← hroot]; exact hle _ (hval hj)⟩

/-- The identities of MIN and MAX are the ends of a 32-bit type's range (R164). -/
theorem lredIdentity_extreme {t : Ty} (ht : t = .i32 ∨ t = .u32) (a : Nat) :
    t.int a ≤ t.int (lredIdentity t 1) ∧ t.int (lredIdentity t 2) ≤ t.int a := by
  rcases ht with rfl | rfl
  · have hint (x : Nat) : Ty.int .i32 x = if x % 2 ^ 32 < 2 ^ 31 then ((x % 2 ^ 32 : Nat) : Int) else (x % 2 ^ 32 : Nat) - 2 ^ 32 := rfl
    have hmin : lredIdentity .i32 1 = 0x7FFFFFFF := rfl
    have hmax : lredIdentity .i32 2 = 0x80000000 := rfl
    rw [hmin, hmax, hint, hint, hint]
    constructor <;> split <;> omega
  · have hint (x : Nat) : Ty.int .u32 x = ((x % 2 ^ 32 : Nat) : Int) := rfl
    have hmin : lredIdentity .u32 1 = 0xFFFFFFFF := rfl
    have hmax : lredIdentity .u32 2 = 0 := rfl
    rw [hmin, hmax, hint, hint, hint]
    constructor <;> omega

theorem lredIdentity_lt {t : Ty} (ht : t = .i32 ∨ t = .u32) (fn : Nat) : lredIdentity t fn < 2 ^ 32 := by
  rcases ht with rfl | rfl <;> unfold lredIdentity <;> split <;> simp [Ty.signed]
  all_goals split <;> simp

theorem int32_inj {t : Ty} (ht : t = .i32 ∨ t = .u32) (x y : BitVec 32) (h : t.int x.toNat = t.int y.toNat) : x = y := by
  rcases ht with rfl | rfl
  · exact (Ty.int_inj .i32 x y).1 h
  · exact (Ty.int_inj .u32 x y).1 h

section Lred

variable {s : State} {site : Site} {h : Hdr} {c : Ctx} {t : Ty}

/-- LRED's result on words. -/
def lredWord (t : Ty) (fn : Nat) (act : List Nat) (v : Nat → BitVec 32) : BitVec 32 :=
  BitVec.ofNat 32 (tree32 (lredOp t fn) (lredValues act v (lredIdentity t fn)))

theorem lredWord_int (hc : s.ctx? site h = some c) (ht : t = .i32 ∨ t = .u32) (hact : c.act ≠ []) (fn : Nat) (v : Nat → BitVec 32) :
    let r := lredWord t fn c.act v
    match fn with
    | 0 => r = c.act.foldl (fun x k => x + v k) 0
    | 1 => (∃ k ∈ c.act, r = v k) ∧ ∀ k ∈ c.act, t.int r.toNat ≤ t.int (v k).toNat
    | 2 => (∃ k ∈ c.act, r = v k) ∧ ∀ k ∈ c.act, t.int (v k).toNat ≤ t.int r.toNat
    | 3 => r = c.act.foldl (fun x k => x &&& v k) (BitVec.allOnes 32)
    | 4 => r = c.act.foldl (fun x k => x ||| v k) 0
    | _ => r = c.act.foldl (fun x k => x ^^^ v k) 0 := by
  have hlt : ∀ k ∈ c.act, k < 32 := fun k hk => ctx?_act_lt hc hk
  have hint : t ≠ .f32 := by rcases ht with rfl | rfl <;> decide
  have hop (fn a b : Nat) : lredOp t fn a b = match fn with
      | 0 => (a + b) % 2 ^ 32
      | 1 => if t.int a < t.int b then a else b
      | 2 => if t.int a < t.int b then b else a
      | 3 => a &&& b
      | 4 => a ||| b
      | _ => a ^^^ b := if_neg hint
  have hends {fn : Nat} {x : BitVec 32} (hx : t.int x.toNat = t.int (lredIdentity t fn)) : x.toNat = lredIdentity t fn := by
    have hword := Nat.mod_eq_of_lt (lredIdentity_lt ht fn)
    rw [← hword, ← BitVec.toNat_ofNat] at hx ⊢
    exact congrArg _ (int32_inj ht _ _ hx)
  match fn with
  | 0 =>
    rw [lredWord, show lredIdentity t 0 = (0#32).toNat from if_neg hint]
    exact tree32_lred_fold hc BitVec.add_assoc (fun _ => BitVec.zero_add _) (fun _ => BitVec.add_zero _) (fun a b => by
      rw [hop]; exact BitVec.eq_of_toNat_eq (by simp)) v
  | 1 =>
    refine tree32_lred_least hact hlt (key := t.int) (fun a b => ?_) (fun a => (lredIdentity_extreme ht a).1) (fun x hx => hends hx) v
    rw [show lredOp t 1 a b = if t.int a < t.int b then a else b from hop 1 a b]
    split
    · exact ⟨.inl rfl, le_rfl, by omega⟩
    · exact ⟨.inr rfl, by omega, le_rfl⟩
  | 2 =>
    have hmax := tree32_lred_least hact hlt (op := lredOp t 2) (key := fun a => -t.int a) (fun a b => ?_)
      (fun a => neg_le_neg (lredIdentity_extreme ht a).2) (fun x hx => hends (neg_inj.1 hx)) v
    · exact hmax.imp_right fun h k hk => neg_le_neg_iff.1 (h k hk)
    · rw [show lredOp t 2 a b = if t.int a < t.int b then b else a from hop 2 a b]
      split
      · exact ⟨.inr rfl, by omega, le_rfl⟩
      · exact ⟨.inl rfl, le_rfl, by omega⟩
  | 3 =>
    rw [lredWord, show lredIdentity t 3 = (BitVec.allOnes 32).toNat from if_neg hint]
    exact tree32_lred_fold hc BitVec.and_assoc (fun _ => BitVec.allOnes_and) (fun _ => BitVec.and_allOnes)
      (fun a b => by rw [hop]; exact BitVec.ofNat_and) v
  | 4 =>
    rw [lredWord, show lredIdentity t 4 = (0#32).toNat from if_neg hint]
    exact tree32_lred_fold hc BitVec.or_assoc (fun _ => BitVec.zero_or) (fun _ => BitVec.or_zero) (fun a b => by rw [hop]; exact BitVec.ofNat_or) v
  | n + 5 =>
    rw [lredWord, show lredIdentity t (n + 5) = (0#32).toNat from if_neg hint]
    exact tree32_lred_fold hc BitVec.xor_assoc (fun _ => BitVec.zero_xor) (fun _ => BitVec.xor_zero)
      (fun a b => by rw [hop]; exact BitVec.ofNat_xor) v

end Lred

/-! ### Instructions that execute once per issue -/

section Once

variable {s : State} {site : Site} {h : Hdr} {n : Needs} {c : Ctx}

/-- An instruction that writes one u register once per issue, where some thread acts (R157). -/
theorem Issues.givesOnce (hi : Issues s site h n c) {d len : Nat} {x y : BitVec 64} (hlen : n.len = len) (hval : x = y) :
    if c.act = [] then GivesNone s (once c (s.retire c n) ((s.retire c n).onGroup c fun g => g.setU d x)) c len
    else GivesU s (once c (s.retire c n) ((s.retire c n).onGroup c fun g => g.setU d x)) c d len y := by
  obtain rfl := hlen
  obtain rfl := hval
  by_cases hact : c.act = []
  · rw [if_pos hact, once, hact, List.isEmpty_nil, if_pos rfl]
    exact retire_only hi.ctx n
  · rw [if_neg hact, once, if_neg (by simpa using hact)]
    exact setU_spec hi.ctx n d x

end Once

theorem FmtR.usrcB_lt (f : FmtR) (g : Group) (t : Ty) : f.usrcB g t < 2 ^ t.w := by
  unfold FmtR.usrcB Group.uval
  split
  · exact Nat.mod_lt _ (by positivity)
  · exact Nat.mod_lt _ (by positivity)
  · exact immB_lt t f.imm14_lt
  · exact Nat.mod_lt _ (by positivity)

@[simp] theorem FmtR.ubitsA_toNat (f : FmtR) (c : Ctx) : (f.ubitsA c).toNat = c.g.uval f.type f.va.toNat :=
  (BitVec.toNat_ofNat _ _).trans (Nat.mod_mod _ _)

@[simp] theorem FmtR.ubitsB_toNat (f : FmtR) (c : Ctx) : (f.ubitsB c).toNat = f.usrcB c.g f.type :=
  (BitVec.toNat_ofNat _ _).trans (Nat.mod_eq_of_lt (f.usrcB_lt _ _))

@[simp] theorem FmtR.ubitsC_toNat (f : FmtR) (c : Ctx) : (f.ubitsC c).toNat = c.g.uval f.type f.vc.toNat :=
  (BitVec.toNat_ofNat _ _).trans (Nat.mod_mod _ _)

/-- A uniform instruction computes `val` where its operation on numbers is `val` on bit vectors. -/
theorem computesU_of_op {mk : Site → Hdr → FmtR → Instr} {a b : Bool} {c : FmtR → Bool} {ok : Ty → Bool}
    {op : FmtR → Ty → Nat → Nat → Nat → Nat}
    {val : (f : FmtR) → BitVec f.type.w → BitVec f.type.w → BitVec f.type.w → BitVec f.type.w}
    (hexec : ∀ site h f s, exec (mk site h f) s = uResult a b (c f) ok (op f) site h f s)
    (hop : ∀ f a b c, BitVec.ofNat f.type.w (op f f.type a.toNat b.toNat c.toNat) = val f a b c) : ComputesU mk a b c ok val := by
  intro s site h f x hi
  refine ⟨_, (hexec site h f s).trans (hi.issue_eq _), hi.givesOnce rfl ?_⟩
  rw [← hop, FmtR.ubitsA_toNat, FmtR.ubitsB_toNat, FmtR.ubitsC_toNat]
  exact BitVec.eq_of_toNat_eq (by simp [bits])

end Sys2Proof.Machine

open Sys2Proof Sys2Proof.Machine

/-- Settles O7: the source thread in terms of source B as a word (`xlaneSource_eq`). -/
theorem xlaneReadsSourceThread : Obligations.XlaneReadsSourceThread := by
  unfold Obligations.XlaneReadsSourceThread
  intro s site h f c hi
  have hexec : exec (.xlane site h f) s = execXlane site h f s := rfl
  refine ⟨_, hexec.trans (hi.issue_eq _), ?_⟩
  exact hi.gives rfl fun k => by
    rw [BitVec.ofNat_toNat, xlaneSource_eq]
    rfl

/-- Settles O8: a vote is a mask or a test of the acting threads, LRED's tree a fold over them or a least value among them
(`lredWord_int`), and READLANE writes once (`Issues.givesOnce`). -/
theorem voteAndReductionResults : Obligations.VoteAndReductionResults := by
  unfold Obligations.VoteAndReductionResults
  refine ⟨?test, ?ballot, ?lred, ?readlane⟩
  case test =>
    intro s site h f c hmode hi
    have hexec : exec (.vote site h f) s = execVote site h f s := rfl
    rcases (by omega : f.fn.toNat % 4 = 0 ∨ f.fn.toNat % 4 = 1) with hm | hm <;> simp only [execVote, hm] at hexec
    · exact ⟨_, hexec.trans (hi.issue_eq _), hi.givesPred rfl fun k => by simp [hm]⟩
    · exact ⟨_, hexec.trans (hi.issue_eq _), hi.givesPred rfl fun k => by simp [hm]⟩
  case ballot =>
    intro s site h f c hm hi
    have hexec : exec (.vote site h f) s = execVote site h f s := rfl
    simp only [execVote, hm] at hexec
    refine ⟨_, _, hexec.trans (hi.issue_eq _), hi.gives rfl fun k => rfl, fun k hk => ?_⟩
    rw [BitVec.getLsbD_ofNat, ballot, testBit_maskOf, Bool.eq_iff_iff]
    simp [show k < Ty.u32.w from hk, List.mem_filter]
  case lred =>
    intro s site h f c hi
    have hexec : exec (.lred site h f) s = execLred site h f s := rfl
    simp only [execLred] at hexec
    refine ⟨_, lredWord f.type (f.fn.toNat % 8) c.act (c.g.v f.va.toNat), hexec.trans (hi.issue_eq _), hi.gives rfl fun k => rfl,
      fun hint hact => ?_⟩
    have ht : f.type = .i32 ∨ f.type = .u32 := by
      have hok := hi.type_ok rfl
      generalize f.type = t at hok hint ⊢
      cases t <;> simp [Ty.isInt] at hok hint ⊢
    exact lredWord_int hi.ctx ht hact _ _
  case readlane =>
    intro s site h f c hi
    have hexec : exec (.readlane site h f) s = execReadlane site h f s := rfl
    simp only [execReadlane] at hexec
    exact ⟨_, hexec.trans (hi.issue_eq _), hi.givesOnce rfl (BitVec.ofNat_toNat 64 _)⟩

/-- Settles O9: each operation on numbers is the one on bit vectors, written once (`computesU_of_op`). -/
theorem uniformInstructionResults : Obligations.UniformInstructionResults := by
  unfold Obligations.UniformInstructionResults
  refine ⟨?uiadd, ?uimul, ?ublog, ?ushl, ?ushr, ?umov, ?uicmp⟩
  case uiadd =>
    refine computesU_of_op (op := fun _ _ a b _ => a + b) (fun _ _ _ _ => rfl) fun f a b _ => ?_
    exact BitVec.eq_of_toNat_eq (by simp)
  case uimul =>
    refine computesU_of_op (op := fun _ _ a b _ => a * b) (fun _ _ _ _ => rfl) fun f a b _ => ?_
    exact BitVec.eq_of_toNat_eq (by simp)
  case ublog => exact computesU_of_op (op := fun f t a b c => blog t.w f.fn a b c) (fun _ _ _ _ => rfl) fun _ _ _ _ => rfl
  case ushl =>
    refine computesU_of_op (op := fun _ t a b _ => a <<< (b % t.w)) (fun _ _ _ _ => rfl) fun f a b _ => ?_
    exact BitVec.eq_of_toNat_eq (by simp)
  case ushr =>
    exact computesU_of_op (op := fun _ t a b _ => shiftRight t a b) (fun _ _ _ _ => rfl) fun f a b _ => shiftRight_toNat f.type a b
  case umov =>
    refine computesU_of_op (op := fun _ _ _ b _ => b) (fun _ _ _ _ => rfl) fun f _ b _ => ?_
    rw [BitVec.ofNat_toNat, BitVec.setWidth_eq]
  case uicmp =>
    intro s site h f x hi
    have hexec : exec (.uicmp site h f) s = execUicmp site h f s := rfl
    refine ⟨_, hexec.trans (hi.issue_eq _), ?_⟩
    exact hi.givesPred rfl fun _ => by
      rw [← f.ubitsA_toNat x, ← f.ubitsB_toNat x, icmp_toNat]
      exact cmpBy_of_orders (f.type.less_or_eq _ _) rfl _
end

section
/-! PROOF. Branches (R148, R170, R171), token waits (R175) and system values (R179). -/

namespace Sys2Proof.Machine

/-! ### Branches -/

theorem foldl_setPc_each (l : List Nat) (target : Nat → W64) (g : Group) (k : Nat) :
    (l.foldl (fun g t => g.setPc t (target t)) g).pc k = if k ∈ l then target k else g.pc k := by
  induction l generalizing g with
  | nil => simp
  | cons a l ih =>
    have hone : (g.setPc a (target a)).pc k = if k = a then target k else g.pc k := by
      simp only [Group.setPc, Group.pc, look_put]
      split
      · next hk => rw [hk]
      · rfl
    rw [List.foldl_cons, ih, hone]
    by_cases hl : k ∈ l <;> simp [hl]

theorem foldl_setPc_each_same (l : List Nat) (target : Nat → W64) (g : Group) :
    { l.foldl (fun g t => g.setPc t (target t)) g with pcs := g.pcs } = g :=
  List.foldlRecOn (motive := fun g' : Group => { g' with pcs := g.pcs } = g) l _ rfl fun _ h _ _ => h

/-- A branch of the acting threads after an instruction that writes registers. -/
theorem OnlyRegs.branch {s t : State} {c : Ctx} {pc : Nat → W64} {vw : Nat → Nat → Prop} {uw : Nat → Prop} {pw : Nat → Nat → Prop}
    (ho : OnlyRegs s t c pc vw uw pw) (target : Nat → W64) :
    OnlyRegs s (t.branch c target) c (fun k => if k ∈ c.act then target k else pc k) vw uw pw := by
  have hgroup : (t.branch c target).ctxGroup c = c.act.foldl (fun g k => g.setPc k (target k)) (t.ctxGroup c) :=
    State.onGroup_ctxGroup t c _
  have hsame := foldl_setPc_each_same c.act target (t.ctxGroup c)
  refine ⟨ho.package, fun l hl => ?_, ?_, fun j hj => ?_, fun r k hk hn => ?_, fun r hn => ?_, fun i k hn => ?_, fun k => ?_, ?_⟩
  · rw [← ho.cores l hl]
    simp [State.branch, State.onGroup, hl]
  · rw [← ho.core]
    simp only [State.branch, State.onGroup, State.modCore_core, if_true]
    rfl
  · rw [← ho.groups j hj]
    simp [State.branch, State.onGroup, hj]
  · rw [hgroup, ← ho.vregs r k hk hn]
    have heq := congrArg (fun g : Group => g.v r k) hsame
    exact heq
  · rw [hgroup, ← ho.uregs r hn]
    have heq := congrArg (fun g : Group => g.u r) hsame
    exact heq
  · rw [hgroup, ← ho.preds i k hn]
    have heq := congrArg (fun g : Group => g.p i k) hsame
    exact heq
  · rw [hgroup, foldl_setPc_each, ho.pcs k]
  · rw [hgroup]
    have heq := congrArg c.restoreRegs hsame
    exact heq.trans ho.group

theorem FmtB.target_eq (f : FmtB) (c : Ctx) : f.target c = c.pc + BitVec.ofInt 64 (f.off.toInt * 8) := by
  rw [FmtB.target, ofNat_lowBits, sext_toNat (by decide)]

/-- What BRX and RET need. -/
def FmtB.pairNeeds (h : Hdr) (f : FmtB) : Needs :=
  { reads := [[f.va.toNat, f.va.toNat + 1]], enc := f.va.toNat % 2 == 0, arith := false,
    hold := if bitAt h.hold 0 then [f.va.toNat, f.va.toNat + 1] else [] }

/-- The acting threads of which pair VA holds no multiple of 8. -/
def FmtB.misaligned (f : FmtB) (c : Ctx) : List Nat := c.act.filter fun k => c.g.v64 f.va.toNat k % 8 != 0

theorem branchPair_eq (site : Site) (h : Hdr) (f : FmtB) (s : State) : branchPair site h f s = issue site h (f.pairNeeds h)
    (fun c s => if !(f.misaligned c).isEmpty then s.trapAt c stProgram (f.misaligned c) 0
      else s.branch c fun k => BitVec.ofNat 64 (c.g.v64 f.va.toNat k)) s := rfl

section Issued

variable {s : State} {site : Site} {h : Hdr} {f : FmtB} {c : Ctx}

/-- A branch to addresses that are multiples of 8 (Table 05.10). -/
theorem branchPair_goes (hi : Issues s site h (f.pairNeeds h) c) (haligned : ∀ k ∈ c.act, c.g.v64 f.va.toNat k % 8 = 0) :
    branchPair site h f s =
      .next ((s.retire c (f.pairNeeds h)).branch c fun k => BitVec.ofNat 64 (c.g.v64 f.va.toNat k)) := by
  have hnone : f.misaligned c = [] := by simpa [FmtB.misaligned, List.filter_eq_nil_iff] using haligned
  rw [branchPair_eq, hi.issue_eq, hnone]
  rfl

/-- An address that is no multiple of 8 traps (Table 05.10). -/
theorem branchPair_traps (hi : Issues s site h (f.pairNeeds h) c) {k : Nat} (hk : k ∈ c.act) (hodd : c.g.v64 f.va.toNat k % 8 ≠ 0) :
    branchPair site h f s = .next ((s.retire c (f.pairNeeds h)).trapAt c stProgram (f.misaligned c) 0) := by
  have hsome : f.misaligned c ≠ [] := List.ne_nil_of_mem (List.mem_filter.2 ⟨hk, by simpa using hodd⟩)
  rw [branchPair_eq, hi.issue_eq, if_pos (by simpa using hsome)]

end Issued

/-- What CALL needs. -/
def FmtB.callNeeds (f : FmtB) : Needs := { vw := [f.vd.toNat, f.vd.toNat + 1], enc := f.vd.toNat % 2 == 0, arith := false }

theorem exec_call (site : Site) (h : Hdr) (f : FmtB) (s : State) : exec (.call site h f) s = issue site h f.callNeeds
    (fun c s => (s.onGroup c (writeThreads .u64 f.vd.toNat c.act fun _ => (c.pc + 8).toNat)).branch c fun _ => f.target c) s := rfl

/-! ### Tokens -/

theorem Group.clear_iff (g : Group) (f : FmtS) :
    g.clear (fld f.imm 0 16) = true ↔ ∀ i, i < 16 → f.imm.getLsbD i = true → g.tok i = 0 := by
  have hbit {i : Nat} (hi : i < 16) : (fld f.imm 0 16).testBit i = f.imm.getLsbD i := by
    rw [fld, Nat.testBit_mod_two_pow, decide_eq_true hi, Bool.true_and]
    rfl
  simp only [Group.clear, maskList, List.all_eq_true, List.mem_filter, List.mem_range, beq_iff_eq, and_imp]
  exact forall₂_congr fun i hi => by rw [hbit hi]

/-- The group after WAITT: its acting threads have seen the token clear, or wait for it (R175). -/
def FmtS.waitt (f : FmtS) (act : List Nat) (g : Group) : Group :=
  if g.clear (fld f.imm 0 16) then g.seen act
  else act.foldl (fun g t => g.setWait t (.tokens (Sys2Proof.bits 16 (fld f.imm 0 16)))) g

theorem exec_waitt (site : Site) (h : Hdr) (f : FmtS) (s : State) :
    exec (.waitt site h f) s = issue site h { arith := false } (fun c s => s.onGroup c (f.waitt c.act)) s := rfl

/-- The group after TESTT (R175). -/
def FmtS.testt (f : FmtS) (c : Ctx) (g : Group) : Group :=
  let g := writePreds f.px.toNat c.act (fun _ => c.g.clear (fld f.imm 0 16)) g
  if c.g.clear (fld f.imm 0 16) then g.seen c.act else g

theorem exec_testt (site : Site) (h : Hdr) (f : FmtS) (s : State) :
    exec (.testt site h f) s = issue site h { arith := false } (fun c s => s.onGroup c (f.testt c)) s := rfl

/-- The mask of WAITT as it is kept in the waits. -/
theorem FmtS.waitMask (f : FmtS) : Sys2Proof.bits 16 (fld f.imm 0 16) = f.imm.extractLsb' 0 16 :=
  BitVec.eq_of_toNat_eq (by simp [Sys2Proof.bits, fld])

theorem FmtS.waitt_rest (f : FmtS) (act : List Nat) (g : Group) :
    (f.waitt act g).vregs = g.vregs ∧ (f.waitt act g).pcs = g.pcs := by
  unfold FmtS.waitt
  split
  · exact ⟨rfl, rfl⟩
  · have hsame := Group.foldl_setWait_same act (.tokens (Sys2Proof.bits 16 (fld f.imm 0 16))) g
    have hpcs := congrArg Group.pcs hsame
    exact ⟨hsame.regs.1, hpcs⟩

theorem FmtS.testt_rest (f : FmtS) (c : Ctx) (g : Group) : (f.testt c g).vregs = g.vregs ∧
    ∀ i k, (f.testt c g).p i k = (writePreds f.px.toNat c.act (fun _ => c.g.clear (fld f.imm 0 16)) g).p i k := by
  have hsame := writePreds_same f.px.toNat c.act (fun _ => c.g.clear (fld f.imm 0 16)) g
  have hv := congrArg Group.vregs hsame
  unfold FmtS.testt
  dsimp only
  split
  · exact ⟨hv, fun _ _ => rfl⟩
  · exact ⟨hv, fun _ _ => rfl⟩

/-! ### System values -/

/-- What SYSR leaves after its retirement (R179, Table 05.12). -/
def FmtS.sysr (f : FmtS) (c : Ctx) (s : State) : State :=
  if c.act.isEmpty then s
  else match f.imm.toNat with
    | 0 => (s.readCycles c.l).2.onGroup c fun g => g.setU f.ux.toNat (s.readCycles c.l).1
    | 1 => s.touch.onGroup c fun g => g.setU f.ux.toNat s.touch.ticks
    | 2 => s.touch.onGroup c fun g => g.setU f.ux.toNat (Sys2Proof.bits 64 ((s.touch.core c.l).watch.count s.touch.ticks.toNat))
    | 3 => s.onGroup c fun g => g.setU f.ux.toNat (Sys2Proof.bits 64 c.task.part)
    | 4 => s.onGroup c fun g => g.setU f.ux.toNat (Sys2Proof.bits 64 c.gi)
    | _ => s.trapAt c stProgram c.act 0

theorem exec_sysr (site : Site) (h : Hdr) (f : FmtS) (s : State) :
    exec (.sysr site h f) s = issue site h { uw := [f.ux.toNat], arith := false } f.sysr s := rfl

/-- `t` is a state with the registers and memories of an issue of `c` in which u[d] alone has been written. -/
structure WritesU (s t : State) (c : Ctx) (d : Nat) : Prop where
  /-- uniform registers -/
  uregs : ∀ r, r ≠ d → (t.ctxGroup c).u r = c.g.u r
  /-- per-thread registers -/
  vregs : ∀ r k, (t.ctxGroup c).v r k = c.g.v r k
  /-- predicates -/
  preds : ∀ i k, (t.ctxGroup c).p i k = c.g.p i k
  /-- device memory -/
  mem : t.mem = s.mem
  /-- local memory -/
  lm : (t.core c.l).lm = (s.core c.l).lm

/-- A write of a u register in a state that has the group, the local memory and the device memory of an issue. -/
theorem writesU_setU {s u : State} {site : Site} {h : Hdr} {c : Ctx} (hc : s.ctx? site h = some c) (n : Needs)
    (hgroup : u.ctxGroup c = (s.retire c n).ctxGroup c) (hlm : (u.core c.l).lm = ((s.retire c n).core c.l).lm) (hmem : u.mem = s.mem)
    (d : Nat) (x : W64) : WritesU s (u.onGroup c fun g => g.setU d x) c d := by
  have hone := (setU_spec hc n d x).2
  have ht : (u.onGroup c fun g => g.setU d x).ctxGroup c = ((s.retire c n).onGroup c fun g => g.setU d x).ctxGroup c := by
    rw [State.onGroup_ctxGroup, State.onGroup_ctxGroup, hgroup]
  refine ⟨fun r hr => ?_, fun r k => ?_, fun i k => ?_, hmem, ?_⟩
  · rw [ht, hone.uregs r hr]
  · rw [State.onGroup_ctxGroup, hgroup]
    exact congrArg (look 0 · (r * 32 + k)) (retire_ctxGroup hc n).1
  · rw [ht, hone.preds i k (by simp)]
  · rw [← (s.retire_sameData c n c.l).lm, ← hlm]
    simp [State.onGroup, Core.modGroup]

theorem State.readCycles_core (s : State) (l : Nat) (c : Ctx) :
    (s.readCycles l).2.ctxGroup c = s.ctxGroup c ∧ ((s.readCycles l).2.core c.l).lm = (s.core c.l).lm := by
  have hcore : ((s.readCycles l).2.core c.l).groups = (s.core c.l).groups ∧ ((s.readCycles l).2.core c.l).lm = (s.core c.l).lm := by
    simp only [State.readCycles, State.modCore_core]
    split
    · next hl => rw [hl]; exact ⟨rfl, rfl⟩
    · exact ⟨rfl, rfl⟩
  exact ⟨congrArg (fun m => look ({} : Group) m c.gi) hcore.1, hcore.2⟩

/-- A selector of Table 05.12 writes u[UX] alone. -/
theorem FmtS.sysr_writesU {s : State} {site : Site} {h : Hdr} {f : FmtS} {c : Ctx} (hc : s.ctx? site h = some c) (n : Needs)
    (hact : c.act ≠ []) (himm : f.imm.toNat < 5) : WritesU s (f.sysr c (s.retire c n)) c f.ux.toNat := by
  rw [FmtS.sysr, if_neg (by simpa using hact)]
  generalize f.imm.toNat = sel at himm
  match sel with
  | 0 =>
    obtain ⟨hgroup, hlm⟩ := (s.retire c n).readCycles_core c.l c
    exact writesU_setU hc n hgroup hlm rfl _ _
  | 1 | 2 => exact writesU_setU (u := (s.retire c n).touch) hc n rfl rfl rfl _ _
  | 3 | 4 => exact writesU_setU hc n rfl rfl rfl _ _
  | _ + 5 => omega

theorem State.onGroup_setU_u (s : State) (c : Ctx) (d : Nat) (x : W64) : ((s.onGroup c fun g => g.setU d x).ctxGroup c).u d = x := by
  rw [State.onGroup_ctxGroup]
  exact look_put_same _ _ _ _

section Selectors

variable {f : FmtS} {c : Ctx} (hact : c.act ≠ []) (u : State)
include hact

theorem FmtS.sysr_ticks (himm : f.imm = 1) : f.sysr c u = u.touch.onGroup c fun g => g.setU f.ux.toNat u.touch.ticks := by
  rw [FmtS.sysr, if_neg (by simpa using hact), himm]
  rfl

theorem FmtS.sysr_taskTicks (himm : f.imm = 2) : f.sysr c u =
    u.touch.onGroup c fun g => g.setU f.ux.toNat (Sys2Proof.bits 64 ((u.touch.core c.l).watch.count u.touch.ticks.toNat)) := by
  rw [FmtS.sysr, if_neg (by simpa using hact), himm]
  rfl

theorem FmtS.sysr_part (himm : f.imm = 3) : f.sysr c u = u.onGroup c fun g => g.setU f.ux.toNat (Sys2Proof.bits 64 c.task.part) := by
  rw [FmtS.sysr, if_neg (by simpa using hact), himm]
  rfl

theorem FmtS.sysr_group (himm : f.imm = 4) : f.sysr c u = u.onGroup c fun g => g.setU f.ux.toNat (Sys2Proof.bits 64 c.gi) := by
  rw [FmtS.sysr, if_neg (by simpa using hact), himm]
  rfl

/-- A selector that Table 05.12 does not name traps. -/
theorem FmtS.sysr_reserved (himm : 5 ≤ f.imm.toNat) : f.sysr c u = u.trapAt c stProgram c.act 0 := by
  obtain ⟨sel, hsel⟩ : ∃ sel, f.imm.toNat = sel + 5 := ⟨f.imm.toNat - 5, by omega⟩
  rw [FmtS.sysr, if_neg (by simpa using hact), hsel]
  rfl

end Selectors

theorem State.onGroup_watch (s : State) (c : Ctx) (f : Group → Group) : ((s.onGroup c f).core c.l).watch = (s.core c.l).watch := by
  simp [State.onGroup, Core.modGroup]

end Sys2Proof.Machine

open Sys2Proof Sys2Proof.Machine

/-- Settles O16: the acting threads' program counters set after the retirement (`OnlyRegs.branch`); an address that is no multiple
of 8 traps (`branchPair_traps`). -/
theorem branchesSetProgramCounters : Obligations.BranchesSetProgramCounters := by
  unfold Obligations.BranchesSetProgramCounters
  intro goes back reads returns
  have hreturns {mk : Site → Hdr → FmtB → Instr} (hexec : ∀ site h f s, exec (mk site h f) s = branchPair site h f s) : returns mk := by
    intro s site h f c hi
    refine ⟨fun haligned => ⟨_, (hexec site h f s).trans (branchPair_goes hi haligned), ?_⟩,
      fun k hk hodd => ⟨_, (hexec site h f s).trans (branchPair_traps hi hk hodd), trapAt_traps hi.ctx _ _ _ _⟩⟩
    exact (retire_only hi.ctx _).branch _
  refine ⟨?bra, ?call, hreturns fun _ _ _ _ => rfl, hreturns fun _ _ _ _ => rfl⟩
  case bra =>
    intro s site h f c hi
    have hexec : exec (.bra site h f) s = execBra site h f s := rfl
    refine ⟨_, hexec.trans (hi.issue_eq _), ?_⟩
    rw [f.target_eq]
    exact (retire_only hi.ctx _).branch _
  case call =>
    intro s site h f c hi
    obtain ⟨hpair, hrest⟩ := writeThreads_spec hi.ctx f.callNeeds .u64 f.vd.toNat fun _ => (c.pc + 8).toNat
    refine ⟨_, (exec_call site h f s).trans (hi.issue_eq _), fun k hk => ?_, ?_⟩
    · have hv (g : Group) : (c.act.foldl (fun g t => g.setPc t (f.target c)) g).v64 f.vd.toNat k = g.v64 f.vd.toNat k := by
        have heq := congrArg (fun g : Group => g.v64 f.vd.toNat k) (foldl_setPc_each_same c.act (fun _ => f.target c) g)
        exact heq
      rw [State.branch, State.onGroup_ctxGroup, hv]
      exact (hpair k hk).trans (Nat.mod_eq_of_lt (c.pc + 8).isLt)
    · rw [f.target_eq]
      have hpairs : (fun r k => k ∈ c.act ∧ (r = f.vd.toNat ∨ r = f.vd.toNat + 1)) = fun r k => k ∈ c.act ∧ inPair .u64 f.vd.toNat r := by
        simp [inPair, Ty.wide]
      rw [hpairs]
      exact hrest.branch _

/-- Settles O20: WAITT and TESTT by the tokens of the mask (`Group.clear_iff`), SYSR by its selector (`writesU_setU`, `setU_spec`,
`trapAt_traps`). -/
theorem tokensAndSystemValues : Obligations.TokensAndSystemValues := by
  unfold Obligations.TokensAndSystemValues
  intro allClear
  refine ⟨?waitt, ?testt, ?sysr⟩
  case waitt =>
    intro s site h f c hi
    obtain ⟨hregs, htok⟩ := retire_ctxGroup hi.ctx { arith := false }
    obtain ⟨hv, hpcs⟩ := f.waitt_rest c.act ((s.retire c { arith := false }).ctxGroup c)
    have hwait (k : Nat) : ((s.retire c { arith := false }).ctxGroup c).wait k = c.g.wait k :=
      congrArg (look WaitReason.none · k) (retire_ctxGroup_rest hi.ctx _).2.1
    have hclear : ((s.retire c { arith := false }).ctxGroup c).clear (fld f.imm 0 16) = c.g.clear (fld f.imm 0 16) := by
      simp only [Group.clear, Group.tok, htok]
    refine ⟨_, (exec_waitt site h f s).trans (hi.issue_eq _), fun hall k => ?_, fun hsome k => ?_, fun r k => ?_, fun k => ?_,
      (retire_only hi.ctx { arith := false }).package⟩
    · rw [State.onGroup_ctxGroup, FmtS.waitt, hclear, if_pos ((c.g.clear_iff f).2 hall)]
      exact hwait k
    · rw [State.onGroup_ctxGroup, FmtS.waitt, hclear, if_neg (mt (c.g.clear_iff f).1 hsome), Group.foldl_setWait_wait, hwait,
        f.waitMask]
    · rw [State.onGroup_ctxGroup]
      exact congrArg (look 0 · (r * 32 + k)) (hv.trans hregs)
    · rw [State.onGroup_ctxGroup, ← (retire_only hi.ctx { arith := false }).pcs k]
      exact congrArg (look 0 · k) hpcs
  case testt =>
    intro s site h f c hi
    obtain ⟨hregs, -⟩ := retire_ctxGroup hi.ctx { arith := false }
    obtain ⟨hv, hp⟩ := f.testt_rest c ((s.retire c { arith := false }).ctxGroup c)
    refine ⟨_, (exec_testt site h f s).trans (hi.issue_eq _), fun k hk => ?_, fun i k hn => ?_, fun r k => ?_,
      (retire_only hi.ctx { arith := false }).package⟩
    · rw [State.onGroup_ctxGroup, hp, writePreds_p _ _ _ _ _ _ f.px.isLt, if_pos ⟨rfl, hk⟩]
      exact c.g.clear_iff f
    · rw [State.onGroup_ctxGroup, hp, writePreds_p _ _ _ _ _ _ f.px.isLt, if_neg fun h => hn ⟨h.2, h.1⟩]
      exact (retire_only hi.ctx _).preds i k (by simp)
    · rw [State.onGroup_ctxGroup]
      exact congrArg (look 0 · (r * 32 + k)) (hv.trans hregs)
  case sysr =>
    intro s site h f c hi
    refine ⟨_, (exec_sysr site h f s).trans (hi.issue_eq _), fun hnone => ?_, fun hact => ?_⟩
    · rw [FmtS.sysr, if_pos (by simpa using hnone)]
      exact retire_only hi.ctx _
    · refine ⟨fun himm => ?_, fun himm => ?_, fun himm => ?_, fun himm => ?_, fun himm => ?_, fun himm => ?_⟩
      · rw [FmtS.sysr_part hact _ himm]
        exact setU_spec hi.ctx _ _ _
      · rw [FmtS.sysr_group hact _ himm]
        exact setU_spec hi.ctx _ _ _
      · rw [FmtS.sysr_ticks hact _ himm]
        exact State.onGroup_setU_u _ _ _ _
      · rw [FmtS.sysr_taskTicks hact _ himm, State.onGroup_watch]
        exact State.onGroup_setU_u _ _ _ _
      · obtain ⟨hu, hv, hp, hmem, hlm⟩ := FmtS.sysr_writesU hi.ctx { uw := [f.ux.toNat], arith := false } hact himm
        exact ⟨hu, hv, hp, hmem, hlm⟩
      · rw [FmtS.sysr_reserved hact _ himm]
        exact trapAt_traps hi.ctx _ _ _ _
end

section
/-! PROOF. Accesses and their checks (R165, Table 05.14), and stores to local memory (R166, R168, R187). -/

namespace Sys2Proof.Machine

/-! ### The checks of an access -/

theorem Issues.enc_ok {s : State} {site : Site} {h : Hdr} {n : Needs} {c : Ctx} (hi : Issues s site h n c) : n.enc = true := by
  have hchecks := hi.checks
  simp only [State.issueCheck] at hchecks
  grind

/-- The checks of an access read nothing of a core. -/
theorem State.retire_access (s : State) (c : Ctx) (n : Needs) : (s.retire c n).access = s.access := rfl

/-- An access to local memory that passes its checks goes to its own address, whatever the state. -/
theorem State.access_local {s : State} {asid a n : Nat} {p : Perm} {atomic : Bool} {x : Place}
    (h : s.access asid true a n p atomic = .ok x) : x = .lm a := by
  unfold State.access at h
  split at h
  · cases h
  · rw [if_pos rfl] at h
    split at h
    · exact (Except.ok.inj h).symm
    · cases h

/-- Accesses that all pass, at the places `at_`. -/
theorem failures_map_ok (ks : List Nat) (at_ : Nat → Place) : failures (ks.map fun k => (k, .ok (at_ k))) = [] := by
  simp [failures]

theorem passes_map_ok (ks : List Nat) (at_ : Nat → Place) :
    passes (ks.map fun k => (k, .ok (at_ k))) = ks.map fun k => (k, at_ k) := by
  induction ks with
  | nil => rfl
  | cons k ks ih => exact congrArg ((k, at_ k) :: ·) ih

theorem FmtM.accesses_ok {f : FmtM} {c : Ctx} {s : State} {p : Perm} {atomic : Bool} {at_ : Nat → Place}
    (h : ∀ k ∈ c.act, s.access c.task.asid f.isLocal (f.addr c.g false k) f.bytes p atomic = .ok (at_ k)) :
    f.accesses c s p atomic = c.act.map fun k => (k, .ok (at_ k)) :=
  List.map_congr_left fun k hk => by rw [h k hk]

theorem FmtM.access_ok {f : FmtM} {c : Ctx} {s : State} {p : Perm} {atomic : Bool} (h : failures (f.accesses c s p atomic) = [])
    {k : Nat} (hk : k ∈ c.act) : ∃ x, s.access c.task.asid f.isLocal (f.addr c.g false k) f.bytes p atomic = .ok x := by
  have hnone := List.filterMap_eq_nil_iff.1 h _ (List.mem_map_of_mem hk)
  dsimp only at hnone
  split at hnone
  · cases hnone
  · next x hx => exact ⟨x, hx⟩

/-- The accesses to local memory that pass their checks go to their own addresses. -/
theorem FmtM.accesses_local {f : FmtM} (hlocal : f.isLocal = true) {c : Ctx} {s : State} {p : Perm} {atomic : Bool}
    (h : ∀ k ∈ c.act, ∃ x, s.access c.task.asid f.isLocal (f.addr c.g false k) f.bytes p atomic = .ok x) :
    f.accesses c s p atomic = c.act.map fun k => (k, .ok (.lm (f.addr c.g false k))) := by
  refine FmtM.accesses_ok (at_ := fun k => .lm (f.addr c.g false k)) fun k hk => ?_
  obtain ⟨x, hx⟩ := h k hk
  rw [hlocal] at hx ⊢
  rw [hx, State.access_local hx]

/-- Where no check fails there is no trap. -/
theorem orTrap_pass {c : Ctx} {l : List (Nat × Except (BitVec 8) Place)} (h : failures l = []) (k : State → State) (s : State) :
    orTrap c l k s = k s := by
  rw [orTrap, worstOf_eq_none.2 h]

/-! ### The threads and the data of a store -/

/-- Acting threads stand in rising order (R168). -/
theorem ctx?_act_sorted {s : State} {site : Site} {h : Hdr} {c : Ctx} (hc : s.ctx? site h = some c) : c.act.Pairwise (· < ·) := by
  obtain ⟨-, -, -, -, -, hset, hact⟩ := ctx?_spec hc
  rw [hact, hset]
  exact ((List.pairwise_lt_range.filter _).filter _).filter _

theorem FmtM.bytes_le {f : FmtM} {uld : Bool} (h : f.addrEnc uld = true) : f.bytes ≤ 16 := by
  simp only [FmtM.addrEnc, Bool.and_eq_true, decide_eq_true_eq] at h
  obtain ⟨⟨⟨⟨-, hsize⟩, -⟩, -⟩, -⟩ := h
  exact (Nat.pow_le_pow_right (by decide) (Nat.le_of_lt_succ hsize)).trans (by decide : 2 ^ 4 ≤ 16)

theorem Group.dataBytes_length (g : Group) (r t : Nat) {n : Nat} (hn : n ≤ 16) : (g.dataBytes r n t).length = n := by
  simp [Group.dataBytes, List.range_succ, bytesOf_length, hn]

/-! ### Stores to local memory -/

/-- Local memory after the stores of threads in their order: thread `k` writes `bs k` from `at_ k` on. -/
def storeEach (at_ : Nat → Nat) (bs : Nat → List Byte) (ks : List Nat) (m : SMap Byte) : SMap Byte :=
  ks.foldl (fun m k => putBytes m (at_ k) (bs k)) m

section StoreEach

variable {at_ : Nat → Nat} {bs : Nat → List Byte} {ks : List Nat} {a : Nat}

theorem look_storeEach_outside (h : ∀ k ∈ ks, ¬(at_ k ≤ a ∧ a < at_ k + (bs k).length)) (m : SMap Byte) :
    look 0 (storeEach at_ bs ks m) a = look 0 m a := by
  induction ks generalizing m with
  | nil => rfl
  | cons k ks ih =>
    rw [List.forall_mem_cons] at h
    obtain ⟨hk, hks⟩ := h
    rw [storeEach, List.foldl_cons, ← storeEach, ih hks, look_putBytes, if_neg hk]

/-- A byte holds what the highest thread that covers it stored (R168). -/
theorem look_storeEach_last (hsorted : ks.Pairwise (· < ·)) {k : Nat} (hk : k ∈ ks) (hcover : at_ k ≤ a ∧ a < at_ k + (bs k).length)
    (hlast : ∀ j ∈ ks, at_ j ≤ a ∧ a < at_ j + (bs j).length → j ≤ k) (m : SMap Byte) :
    look 0 (storeEach at_ bs ks m) a = (bs k).getD (a - at_ k) 0 := by
  induction ks generalizing m with
  | nil => cases hk
  | cons j ks ih =>
    rw [List.pairwise_cons] at hsorted
    rw [List.forall_mem_cons] at hlast
    obtain ⟨hlt, hsorted⟩ := hsorted
    obtain ⟨-, hlast⟩ := hlast
    rw [storeEach, List.foldl_cons, ← storeEach]
    rcases List.mem_cons.1 hk with rfl | hk
    · have hrest : ∀ j ∈ ks, ¬(at_ j ≤ a ∧ a < at_ j + (bs j).length) := fun j hj hc =>
        absurd (hlast j hj hc) (Nat.not_le.2 (hlt j hj))
      rw [look_storeEach_outside hrest, look_putBytes, if_pos hcover]
    · exact ih hsorted hk hlast _

end StoreEach

/-- The state after the stores of threads to local memory. -/
def State.storeLocal (s : State) (c : Ctx) (f : FmtM) (ks : List Nat) : State :=
  ks.foldl (fun s k => s.modCore c.l fun core => core.lmWrite (f.addr c.g false k) (c.g.dataBytes f.vd.toNat f.bytes k)) s

theorem State.storeAll_local (c : Ctx) (f : FmtM) (ks : List Nat) (s : State) :
    s.storeAll c f (ks.map fun k => (k, .lm (f.addr c.g false k))) = some (s.storeLocal c f ks) := by
  induction ks generalizing s with
  | nil => rfl
  | cons k ks ih => exact ih _

theorem State.storeLocal_work (c : Ctx) (f : FmtM) (ks : List Nat) (s : State) : ArrayWork c.l s (s.storeLocal c f ks) := by
  refine List.foldlRecOn (motive := ArrayWork c.l s) ks _ (.refl c.l s) fun t ht k _ => ht.trans (.of_modCore c.l t ?_)
  exact fun _ => rfl

theorem State.storeLocal_package (c : Ctx) (f : FmtM) (ks : List Nat) (s : State) :
    { s.storeLocal c f ks with cores := s.cores } = s :=
  List.foldlRecOn (motive := fun t : State => { t with cores := s.cores } = s) ks _ rfl fun _ ht _ _ => ht

theorem State.storeLocal_lm (c : Ctx) (f : FmtM) (ks : List Nat) (s : State) : ((s.storeLocal c f ks).core c.l).lm =
    storeEach (f.addr c.g false) (c.g.dataBytes f.vd.toNat f.bytes) ks (s.core c.l).lm := by
  induction ks generalizing s with
  | nil => rfl
  | cons k ks ih =>
    have hstep := ih (s.modCore c.l fun core => core.lmWrite (f.addr c.g false k) (c.g.dataBytes f.vd.toNat f.bytes k))
    rw [State.modCore_core, if_pos rfl] at hstep
    exact hstep

/-- A task that is no abandoned twin goes on (R439). -/
theorem State.twinStop_of_task {s : State} {l : Nat} {t : Task} (htask : (s.core l).task = some t) (hvoid : t.twinVoid = false) :
    s.twinStop l = s := by
  simp [State.twinStop, htask, hvoid]

/-- What ST needs. -/
def FmtM.stNeeds (h : Hdr) (f : FmtM) : Needs :=
  f.needs h false [] (dataRegs f.bytes f.vd.toNat) [] [] (dataOk f.bytes f.vd.toNat && !f.acquires)

/-- The state in which the stores of ST are performed: a release has made its earlier writes performed (R201). -/
def FmtM.drained (f : FmtM) (c : Ctx) (s : State) : State :=
  if f.releases && !f.isLocal && !c.act.isEmpty then s.releaseDrain c.l f.scope.toNat else s

/-- What ST leaves after its retirement where no check fails. -/
def FmtM.stored (f : FmtM) (c : Ctx) (ps : List (Nat × Place)) (s : State) : State :=
  match (f.drained c s).storeAll c f ps with
  | none => (f.drained c s).trapAt c stCapacity c.act 0
  | some s => s.twinStop c.l

theorem FmtM.drained_plain {f : FmtM} (h : (f.releases && !f.isLocal) = false) (c : Ctx) (s : State) : f.drained c s = s := by
  simp [FmtM.drained, h]
theorem exec_st (site : Site) (h : Hdr) (f : FmtM) (s : State) : exec (.st site h f) s = issueWhen f.ready site h (f.stNeeds h)
    (fun c s => orTrap c (f.accesses c s .w false) (f.stored c (passes (f.accesses c s .w false))) s) s := rfl

/-- An ST whose accesses all pass their checks retires and stores. -/
theorem st_stores {s : State} {site : Site} {h : Hdr} {f : FmtM} {c : Ctx} (hi : Issues s site h (f.stNeeds h) c)
    (hready : f.ready c s = true) (hfail : failures (f.accesses c s .w false) = []) :
    exec (.st site h f) s = .next (f.stored c (passes (f.accesses c s .w false)) (s.retire c (f.stNeeds h))) := by
  have haccesses : f.accesses c (s.retire c (f.stNeeds h)) .w false = f.accesses c s .w false := rfl
  rw [exec_st, hi.issueWhen_eq hready, haccesses, orTrap_pass hfail]

theorem FmtM.ready_local {f : FmtM} (h : f.isLocal = true) (c : Ctx) (s : State) : f.ready c s = true := by
  simp [FmtM.ready, h]

theorem FmtM.stored_local {f : FmtM} {c : Ctx} {s : State} (h : f.isLocal = true) (htask : (s.core c.l).task = some c.task)
    (hvoid : c.task.twinVoid = false) :
    f.stored c (c.act.map fun k => (k, .lm (f.addr c.g false k))) s = s.storeLocal c f c.act := by
  have hkeep := (s.storeLocal_work c f c.act).task.trans htask
  rw [FmtM.stored, FmtM.drained_plain (by simp [h]), State.storeAll_local]
  exact State.twinStop_of_task hkeep hvoid

end Sys2Proof.Machine

open Sys2Proof Sys2Proof.Machine

/-- Settles O12: the stores are writes to local memory in rising thread order, so that the highest thread's bytes stand. -/
theorem storesToLocalMemory : Obligations.StoresToLocalMemory := by
  unfold Obligations.StoresToLocalMemory
  intro s site h f c hlocal hi haccess hvoid
  have hlist := FmtM.accesses_local hlocal (hlocal ▸ haccess)
  have hnext := st_stores hi (FmtM.ready_local hlocal c s) (by rw [hlist, failures_map_ok])
  rw [hlist, passes_map_ok, FmtM.stored_local hlocal (State.retire_core hi.ctx _).1 hvoid] at hnext
  have hlength : ∀ k, (c.g.dataBytes f.vd.toNat f.bytes k).length = f.bytes := fun k =>
    c.g.dataBytes_length _ k (FmtM.bytes_le (Bool.and_eq_true_iff.1 hi.enc_ok).1)
  have hlm := State.storeLocal_lm c f c.act (s.retire c (f.stNeeds h))
  rw [(s.retire_sameData c (f.stNeeds h) c.l).lm] at hlm
  have hwork := State.storeLocal_work c f c.act (s.retire c (f.stNeeds h))
  refine ⟨_, hnext, fun a hout => ?outside, fun k hk a hcover hlast => ?covered, ?package, fun l hl => ?cores, fun j r k => ?regs⟩
  case outside =>
    rw [hlm]
    exact look_storeEach_outside (fun k hk => by rw [hlength]; exact hout k hk) _
  case covered =>
    rw [hlm]
    refine look_storeEach_last (ctx?_act_sorted hi.ctx) hk ?_ (fun j hj => ?_) _
    · rw [hlength]
      exact hcover
    · rw [hlength]
      exact hlast j hj
  case package =>
    have hstored := congrArg (fun t : State => { t with cores := s.cores })
      (State.storeLocal_package c f c.act (s.retire c (f.stNeeds h)))
    exact hstored.trans (retire_only hi.ctx _).package
  case cores => exact (hwork.cores l hl).trans ((retire_only hi.ctx _).cores l hl)
  case regs =>
    have hgroup := congrArg (fun gs => (look {} gs j : Group).v r k) hwork.groups
    have hretire := congrArg (look 0 · (r * 32 + k)) ((s.retire_sameData c (f.stNeeds h) c.l).regs j).1
    exact hgroup.trans hretire
end

section
/-! PROOF. Atomics (R168, R169, Table 05.11). -/

namespace Sys2Proof.Machine

/-! ### The effect of an atomic -/

/-- What ATOM needs. -/
def FmtM.atomNeeds (h : Hdr) (f : FmtM) : Needs :=
  f.needs h false f.atomRegs [] (dataRegs f.bytes f.vd.toNat) [] (f.atomEnc && dataOk f.bytes f.vd.toNat)

/-- What RED needs. -/
def FmtM.redNeeds (h : Hdr) (f : FmtM) : Needs := f.needs h false f.atomRegs [] [] [] f.atomEnc

theorem exec_atom (site : Site) (h : Hdr) (f : FmtM) (s : State) :
    exec (.atom site h f) s = issueWhen f.ready site h (f.atomNeeds h) (atomEffect true f) s := rfl

theorem exec_red (site : Site) (h : Hdr) (f : FmtM) (s : State) :
    exec (.red site h f) s = issueWhen f.ready site h (f.redNeeds h) (atomEffect false f) s := rfl

/-- What came of the atomics of an instruction at the places `ps`. -/
def FmtM.atoms (f : FmtM) (c : Ctx) (ret : Bool) (ps : List (Nat × Place)) (s : State) : AtomsOut :=
  (if f.releases && !f.isLocal then s.releaseDrain c.l f.scope.toNat else s).atomAll c f ret ps

/-- The outstanding access that carries the old values of ATOM. -/
def FmtM.atomOutst (f : FmtM) (c : Ctx) (pieces : List LoadPiece) : Outst :=
  { f.outst c with aop := some f.aop.toNat, pieces := pieces }

/-- The access of an ATOM outstanding, its registers kept waiting (R155, R169). -/
def FmtM.atomPending (f : FmtM) (c : Ctx) (pieces : List LoadPiece) (s : State) : State :=
  let s := s.modCore c.l fun k =>
    { k.modGroup c.gi fun g => { g with pendV := g.pendV ++ dataRegs f.bytes f.vd.toNat } with
      outst := k.outst ++ [f.atomOutst c pieces] }
  if (f.atomOutst c pieces).acquire then s.setWaits c.l c.gi c.act .acquire else s

section Effect

variable {f : FmtM} {c : Ctx} {s : State} {ret : Bool} {l : List (Nat × Except (BitVec 8) Place)}

/-- Atomics that meet neither a full log nor lost data are performed. -/
theorem atomEffect_performs (hl : f.accesses c s .w true = l) (hfail : failures l = []) (hact : c.act ≠ [])
    (htwin : c.task.twinOf = none) (hshort : (f.atoms c ret (passes l) s).short = false)
    (hlost : (f.atoms c ret (passes l) s).lost = none) :
    atomEffect ret f c s = if ret then f.atomPending c (f.atoms c ret (passes l) s).pieces (f.atoms c ret (passes l) s).s
      else (f.atoms c ret (passes l) s).s := by
  unfold FmtM.atoms at hshort hlost ⊢
  have hnonempty : c.act.isEmpty = false := by simpa using hact
  rw [atomEffect]
  dsimp only
  rw [hl, orTrap_pass hfail]
  simp only [hnonempty, htwin, hshort, hlost]
  cases ret <;> rfl

end Effect

/-! ### The outstanding access -/

theorem State.setWaits_core (s : State) (l gi : Nat) (threads : List Nat) (w : WaitReason) :
    ((s.setWaits l gi threads w).core l).lm = (s.core l).lm ∧ ((s.setWaits l gi threads w).core l).outst = (s.core l).outst := by
  rw [State.setWaits, State.modCore_core, if_pos rfl]
  exact ⟨rfl, rfl⟩

theorem FmtM.atomPending_core (f : FmtM) (c : Ctx) (pieces : List LoadPiece) (s : State) :
    ((f.atomPending c pieces s).core c.l).lm = (s.core c.l).lm ∧
    ((f.atomPending c pieces s).core c.l).outst = (s.core c.l).outst ++ [f.atomOutst c pieces] := by
  have hmod (g : Core → Core) : (s.modCore c.l g).core c.l = g (s.core c.l) := by simp
  unfold FmtM.atomPending
  dsimp only
  split
  · obtain ⟨hlm, houtst⟩ := State.setWaits_core (s.modCore c.l fun k =>
      { k.modGroup c.gi fun g => { g with pendV := g.pendV ++ dataRegs f.bytes f.vd.toNat } with
        outst := k.outst ++ [f.atomOutst c pieces] }) c.l c.gi c.act .acquire
    rw [hlm, houtst, hmod]
    exact ⟨rfl, rfl⟩
  · rw [hmod]
    exact ⟨rfl, rfl⟩

theorem FmtM.atomPending_last (f : FmtM) (c : Ctx) (pieces : List LoadPiece) (s : State) :
    ((f.atomPending c pieces s).core c.l).outst.getLast? = some (f.atomOutst c pieces) := by
  rw [(f.atomPending_core c pieces s).2, List.getLast?_append, List.getLast?_singleton, Option.some_or]

/-! ### One thread's atomic on local memory -/

/-- The value that thread `k`'s atomic puts into a location of local memory that holds `bs`. -/
def FmtM.atomNew (f : FmtM) (c : Ctx) (k : Nat) (bs : List Byte) : Nat :=
  aopNew f.aop.toNat (8 * f.bytes) (f.sx.toNat == 1) (natOf bs) (c.g.value f.vb.toNat f.bytes k) (f.atomC c k)

theorem FmtM.atoms_local {f : FmtM} (hlocal : f.isLocal = true) (c : Ctx) (k : Nat) (ret : Bool) (v : State) :
    let bs := (v.core c.l).lmRead (f.addr c.g false k) f.bytes
    f.atoms c ret [(k, .lm (f.addr c.g false k))] v =
      { s := v.modCore c.l fun core => core.lmWrite (f.addr c.g false k) (bytesOf f.bytes (f.atomNew c k bs)),
        pieces := [{ thread := k, tgt := 3, addr := f.addr c.g false k, value := some bs }] } := by
  rw [FmtM.atoms, hlocal, Bool.not_true, Bool.and_false]
  rfl

/-- Local memory after one thread's atomic on it. -/
theorem FmtM.look_atoms_local {f : FmtM} (hlocal : f.isLocal = true) (c : Ctx) (k : Nat) (ret : Bool) {s v : State}
    (hlm : (v.core c.l).lm = (s.core c.l).lm) (a : Nat) :
    let p := f.addr c.g false k
    look 0 ((f.atoms c ret [(k, .lm p)] v).s.core c.l).lm a = if p ≤ a ∧ a < p + f.bytes then
      (bytesOf f.bytes (f.atomNew c k ((s.core c.l).lmRead p f.bytes))).getD (a - p) 0 else look 0 (s.core c.l).lm a := by
  dsimp only
  rw [FmtM.atoms_local hlocal]
  have hwrite (core : Core) (q : Nat) (bs : List Byte) : (core.lmWrite q bs).lm = putBytes core.lm q bs := rfl
  simp only [State.modCore_core, if_true, hwrite, look_putBytes, bytesOf_length, Core.lmRead, hlm]

/-- The place of the one thread that acts on local memory. -/
theorem FmtM.passes_local {f : FmtM} (hlocal : f.isLocal = true) {c : Ctx} {k : Nat} (hact : c.act = [k]) {s : State}
    (hfail : failures (f.accesses c s .w true) = []) :
    passes (f.accesses c s .w true) = [(k, .lm (f.addr c.g false k))] := by
  rw [FmtM.accesses_local hlocal fun k hk => FmtM.access_ok hfail hk, passes_map_ok, hact]
  rfl

end Sys2Proof.Machine

open Sys2Proof Sys2Proof.Machine

/-- Settles O14: an atomic that is performed leaves its access outstanding, and one on local memory is one write of its
location. -/
theorem atomicsComplete : Obligations.AtomicsComplete := by
  unfold Obligations.AtomicsComplete
  refine ⟨fun s site h f c (hi : Issues s site h (f.atomNeeds h) c) hready hfail htwin hperf => ?atom,
    fun s site h f c (hi : Issues s site h (f.redNeeds h) c) hready hfail htwin hperf => ?red⟩
  case atom =>
    obtain ⟨hshort, hlost⟩ := hperf
    have hlm := (s.retire_sameData c (f.atomNeeds h) c.l).lm
    have hperforms := atomEffect_performs (s := s.retire c (f.atomNeeds h)) (ret := true) (l := f.accesses c s .w true) rfl hfail
    have hnext := (exec_atom site h f s).trans (hi.issueWhen_eq hready _)
    refine ⟨_, hnext, fun hact => ?last, fun k p hlocal hact hp => ?value⟩
    case last =>
      rw [hperforms hact htwin hshort hlost]
      exact ⟨_, FmtM.atomPending_last f c _ _, rfl, rfl, rfl⟩
    case value =>
      subst hp
      rw [hperforms (by simp [hact]) htwin hshort hlost, FmtM.passes_local hlocal hact hfail, if_pos rfl]
      refine ⟨fun a => ?_, _, FmtM.atomPending_last f c _ _, ?_⟩
      · rw [(FmtM.atomPending_core f c _ _).1, FmtM.look_atoms_local hlocal c k true hlm a]
        rfl
      · simp only [FmtM.atomOutst, FmtM.atoms_local hlocal, List.map_cons, List.map_nil, Core.lmRead, ← hlm]
  case red =>
    obtain ⟨hshort, hlost⟩ := hperf
    have hlm := (s.retire_sameData c (f.redNeeds h) c.l).lm
    have hperforms := atomEffect_performs (s := s.retire c (f.redNeeds h)) (ret := false) (l := f.accesses c s .w true) rfl hfail
    have hnext := (exec_red site h f s).trans (hi.issueWhen_eq hready _)
    refine ⟨_, hnext, fun k p hlocal hact hp => ?_⟩
    subst hp
    rw [hperforms (by simp [hact]) htwin hshort hlost, FmtM.passes_local hlocal hact hfail]
    exact FmtM.look_atoms_local hlocal c k false hlm
end

section
/-! PROOF. Stores to device memory through the cluster cache (R168, R189, R192). -/

namespace Sys2Proof.Machine

/-! ### Lookups in a cluster cache (R191) -/

theorem find?_ccPlace (x : CcLine) (ls : List CcLine) (j : Nat) :
    (ccPlace x ls).find? (fun y => y.line == j) = if j = x.line then some x else ls.find? fun y => y.line == j := by
  induction ls with
  | nil =>
    by_cases hj : j = x.line
    · simp [ccPlace, hj]
    · have hne : ¬x.line = j := Ne.symm hj
      simp [ccPlace, hj, hne]
  | cons y r ih =>
    simp only [ccPlace]
    by_cases hy : y.line = x.line
    · by_cases hj : j = x.line
      · simp [hy, hj]
      · simp [hy, hj, Ne.symm hj]
    · rw [if_neg hy, List.find?_cons, List.find?_cons, ih]
      by_cases hj : y.line = j
      · simp [hj, show j ≠ x.line from hj ▸ hy]
      · rw [beq_false_of_ne hj]

/-- A line put into a cluster cache is the one that lookups find, and no other lookup changes. -/
theorem State.putCc_cc (s : State) (cl line : Nat) (x : CcLine) (k j : Nat) :
    (s.putCc cl line (some x)).cc k j = if k = cl ∧ j = line then some { x with line := line } else s.cc k j := by
  unfold State.putCc State.cc
  rw [State.modCluster_cluster]
  by_cases hk : k = cl
  · subst hk
    rw [if_pos rfl, Cluster.ccLines]
    by_cases hset : ccSet j = ccSet line
    · rw [hset, look_put_same, find?_ccPlace, Cluster.ccLines]
      exact if_congr (by simp) rfl rfl
    · have hj : j ≠ line := fun e => hset (e ▸ rfl)
      rw [look_put_ne _ _ _ _ hset, if_neg (by simp [hj])]
      rfl
  · rw [if_neg hk, if_neg (by simp [hk])]

/-- A line moved to either end of its set is found as before, and so is every other. -/
theorem find?_ccMoved {ls : List CcLine} {line : Nat} {x : CcLine} (hx : ls.find? (fun y => y.line == line) = some x) (mru : Bool)
    (j : Nat) :
    (if mru then ls.filter (fun y => y.line != line) ++ [x] else x :: ls.filter fun y => y.line != line).find? (fun y => y.line == j) =
      ls.find? fun y => y.line == j := by
  have hline : x.line = line := by simpa using List.find?_some hx
  by_cases hj : j = line
  · subst hj
    have hnone : (ls.filter fun y => y.line != j).find? (fun y => y.line == j) = none := by simp
    cases mru <;> simp [hline, hx, hnone, List.find?_append, -List.find?_filter]
  · have hkeep : (ls.filter fun y => y.line != line).find? (fun y => y.line == j) = ls.find? fun y => y.line == j := by
      rw [List.find?_filter]
      congr 1
      funext y
      by_cases hy : y.line = j <;> simp [hy, hj]
    have hne : ¬line = j := Ne.symm hj
    cases mru <;> simp [hline, hne, hkeep, List.find?_append, -List.find?_filter]

/-- A move of a line within its set changes no lookup. -/
theorem State.moveCc_cc (s : State) (cl line : Nat) (mru : Bool) (k j : Nat) : (s.moveCc cl line mru).cc k j = s.cc k j := by
  unfold State.moveCc
  split
  · rfl
  · next x hx =>
    unfold State.cc at hx ⊢
    rw [State.modCluster_cluster]
    by_cases hk : k = cl
    · subst hk
      rw [if_pos rfl]
      by_cases hset : ccSet j = ccSet line
      · rw [hset, Cluster.ccLines, look_put_same]
        exact find?_ccMoved hx mru j
      · rw [Cluster.ccLines, look_put_ne _ _ _ _ hset]
        rfl
    · rw [if_neg hk]

theorem State.modCluster_cc (s : State) (cl : Nat) {g : Cluster → Cluster} (hg : ∀ c, (g c).cc = c.cc) (k j : Nat) :
    (s.modCluster cl g).cc k j = s.cc k j := by
  simp only [State.cc, Cluster.ccLines, State.modCluster_cluster]
  split
  · next hk => rw [hg, hk]
  · rfl

theorem State.moveCc_frame (s : State) (cl line : Nat) (mru : Bool) : { s.moveCc cl line mru with clusters := s.clusters } = s := by
  unfold State.moveCc
  split <;> rfl

/-- Where a line has its place no other one leaves. -/
theorem State.ccSpace_eq {s : State} {cl line : Nat} (h : s.ccFull cl line = false) : s.ccSpace cl line = s := by
  simp [State.ccSpace, State.ccRoom, h]

/-! ### Bytes merged into a line -/

theorem look_mergeBytes_atOffset (d : SMap Byte) (o : Nat) (bs : List Byte) (i : Nat) :
    look 0 (mergeBytes d (atOffset o bs)) i = if o ≤ i ∧ i < o + bs.length then bs.getD (i - o) 0 else look 0 d i := by
  have hrange (n : Nat) : look 0 (mergeBytes d ((List.range n).map fun i => (o + i, bs.getD i 0))) i =
      if o ≤ i ∧ i < o + n then bs.getD (i - o) 0 else look 0 d i := by
    induction n with
    | zero => simp [mergeBytes]
    | succ n ih =>
      have hstep : mergeBytes d ((List.range (n + 1)).map fun i => (o + i, bs.getD i 0)) =
          put 0 (mergeBytes d ((List.range n).map fun i => (o + i, bs.getD i 0))) (o + n) (bs.getD n 0) := by
        simp [mergeBytes, List.range_succ]
      rw [hstep, look_put, ih]
      by_cases hi : i = o + n
      · rw [if_pos hi, if_pos (by omega), hi, Nat.add_sub_cancel_left]
      · have hiff : (o ≤ i ∧ i < o + (n + 1)) ↔ (o ≤ i ∧ i < o + n) := by omega
        rw [if_neg hi, if_congr hiff rfl rfl]
  exact hrange bs.length

/-! ### A store accepted by the cluster cache -/

/-- The guard shadow that a write makes is all that it changes before it (R357). -/
theorem State.shadowTouch_fab {s : State} {line : Nat} (h : (s.shadowTouch line).isSome = true) :
    ∃ fab, s.shadowTouch line = some { s with fab := fab } := by
  unfold State.shadowTouch at h ⊢
  split
  · exact ⟨s.fab, rfl⟩
  · next j hj =>
    simp only [hj] at h ⊢
    split
    · exact ⟨s.fab, rfl⟩
    · next hnew =>
      rw [if_neg hnew] at h
      split
      · next hfull =>
        rw [if_pos hfull] at h
        cases h
      · exact ⟨_, rfl⟩

/-- The bytes of a line that a cluster cache holds; those of a line that it does not hold read 0. -/
def State.ccBytes (s : State) (cl line : Nat) : SMap Byte := match s.cc cl line with | some y => y.bytes | none => []

/-- `t` is `s` after a store of the bytes `ws` to one line of a cluster cache. -/
structure LineStored (s t : State) (cl line : Nat) (ws : List (Nat × Byte)) : Prop where
  /-- all but the cluster caches, the guard shadows, the producer records and the marks of lost codewords -/
  rest : { t with clusters := s.clusters, fab := s.fab, producers := s.producers, lost := s.lost } = s
  /-- the line -/
  copy : ∃ x, t.cc cl line = some x ∧ x.bytes = mergeBytes (s.ccBytes cl line) ws
  /-- every other line -/
  others : ∀ k j, ¬(k = cl ∧ j = line) → t.cc k j = s.cc k j

theorem LineStored.core {s t : State} {cl line : Nat} {ws : List (Nat × Byte)} (h : LineStored s t cl line ws) (l : Nat) :
    t.core l = s.core l := by
  have hcore := congrArg (fun s : State => s.core l) h.rest
  exact hcore

theorem LineStored.memory {s t : State} {cl line : Nat} {ws : List (Nat × Byte)} (h : LineStored s t cl line ws) :
    t.slices = s.slices ∧ t.mem = s.mem ∧ t.channels = s.channels := by
  have hslices := congrArg State.slices h.rest
  have hmem := congrArg State.mem h.rest
  have hchannels := congrArg State.channels h.rest
  exact ⟨hslices, hmem, hchannels⟩

theorem LineStored.of_putCc {s t : State} {cl line : Nat} {ws : List (Nat × Byte)}
    (hrest : { t with clusters := s.clusters, fab := s.fab, producers := s.producers, lost := s.lost } = s)
    (hcc : ∀ k j, t.cc k j = s.cc k j) {x : CcLine}
    (hx : x.bytes = mergeBytes (s.ccBytes cl line) ws) :
    LineStored s (t.putCc cl line (some x)) cl line ws where
  rest := hrest
  copy := ⟨{ x with line := line }, by rw [State.putCc_cc, if_pos ⟨rfl, rfl⟩], hx⟩
  others k j hne := by rw [State.putCc_cc, if_neg hne, hcc]

theorem LineStored.clearLost {s t : State} {cl line : Nat} {ws : List (Nat × Byte)} (h : LineStored s t cl line ws)
    (covers : Nat → Bool) : LineStored s (t.clearLost line covers) cl line ws where
  rest := h.rest
  copy := h.copy
  others := h.others

/-- A store counted, its producer noted. -/
def State.storeCounted (s : State) (cl line : Nat) (prod : Option (Nat × Nat × Nat)) : State :=
  (s.produce line prod).modCluster cl fun c => { c with ccWr := bump 48 c.ccWr }

/-- A store's bytes merged into the cluster's copy of their line (Table 06.3), without an undo entry. -/
def State.storeMerged (s : State) (cl line hint asid : Nat) (ws : List (Nat × Byte)) : State :=
  match s.cc cl line with
  | some x =>
    let y := { x with bytes := mergeBytes x.bytes ws, dirty := x.dirty ||| writeMask ws, hint := hint, pinAsid := asid }
    match x.st with
    | .exclusive | .modified =>
      (s.putCc cl line (some { y with st := .modified, atDie := true, atPkg := x.st == .exclusive || x.atPkg })).clearLost line
        (bitAt y.dirty)
    | .pend => s.putCc cl line (some { y with loggers := x.loggers })
    | .shared => s.putCc cl line (some { y with st := .pend, dirty := writeMask ws, atDie := false, atPkg := false, asked := false,
                                                loggers := [] })
  | none => s.putCc cl line (some { st := .pend, bytes := mergeBytes [] ws, dirty := writeMask ws, hint := hint, pinAsid := asid })

theorem State.ccStore_eq {s u : State} {l line va : Nat} (hint asid : Nat) (ws : List (Nat × Byte)) (prod : Option (Nat × Nat × Nat))
    (hlog : s.needsUndo l line va = false) (hshadow : s.shadowTouch line = some u)
    (hcached : (u.storeCounted (s.clusterOf l) line prod).uncacheable line = false) :
    s.ccStore l line va hint asid ws prod = some ((((u.storeCounted (s.clusterOf l) line prod).ccSpace (s.clusterOf l) line).moveCc
      (s.clusterOf l) line true).storeMerged (s.clusterOf l) line hint asid ws) := by
  have hcounted : ((u.produce line prod).modCluster (s.clusterOf l) fun c => { c with ccWr := bump 48 c.ccWr }) =
      u.storeCounted (s.clusterOf l) line prod := rfl
  unfold State.ccStore
  simp only [hlog, hshadow, Bool.false_and, Bool.false_eq_true, if_false, hcounted, hcached]
  generalize ((u.storeCounted (s.clusterOf l) line prod).ccSpace (s.clusterOf l) line).moveCc (s.clusterOf l) line true = v
  unfold State.storeMerged
  cases v.cc (s.clusterOf l) line with
  | none => rfl
  | some x =>
    obtain ⟨n, st⟩ := x
    cases st <;> rfl

/-- Whatever the state of the copy, the bytes are merged into it, and nothing else changes but marks of lost codewords. -/
theorem LineStored.of_storeMerged {s t : State} {cl line : Nat} (hint asid : Nat) (ws : List (Nat × Byte))
    (hrest : { t with clusters := s.clusters, fab := s.fab, producers := s.producers, lost := s.lost } = s)
    (hcc : ∀ k j, t.cc k j = s.cc k j) : LineStored s (t.storeMerged cl line hint asid ws) cl line ws := by
  unfold State.storeMerged
  rw [hcc]
  split
  · next x hx =>
    have hput {y : CcLine} (hy : y.bytes = mergeBytes x.bytes ws) : LineStored s (t.putCc cl line (some y)) cl line ws :=
      .of_putCc hrest hcc (by rw [hy, State.ccBytes, hx])
    dsimp only
    split
    · exact (hput rfl).clearLost _
    · exact (hput rfl).clearLost _
    · exact hput rfl
    · exact hput rfl
  · next hx => exact .of_putCc hrest hcc (by rw [State.ccBytes, hx])

/-- A store to a line that is cacheable and has a place, without an undo entry: its bytes are merged into the cluster's copy (R192). -/
theorem State.ccStore_stores {s : State} {l line va : Nat} (hint asid : Nat) (ws : List (Nat × Byte)) (prod : Option (Nat × Nat × Nat))
    (hcached : s.uncacheable line = false) (hlog : s.needsUndo l line va = false) (hshadow : (s.shadowTouch line).isSome = true)
    (hroom : s.ccFull (s.clusterOf l) line = false) :
    ∃ t, s.ccStore l line va hint asid ws prod = some t ∧ LineStored s t (s.clusterOf l) line ws := by
  obtain ⟨fab, hfab⟩ := State.shadowTouch_fab hshadow
  refine ⟨_, State.ccStore_eq hint asid ws prod hlog hfab hcached, ?_⟩
  generalize s.clusterOf l = cl at hroom ⊢
  have hcc : ∀ k j, (State.storeCounted { s with fab := fab } cl line prod).cc k j = s.cc k j :=
    State.modCluster_cc _ cl fun _ => rfl
  have hfull : (State.storeCounted { s with fab := fab } cl line prod).ccFull cl line = false := by
    unfold State.ccFull at hroom ⊢
    rw [hcc]
    simp only [State.storeCounted, State.modCluster_cluster, if_true]
    exact hroom
  rw [State.ccSpace_eq hfull]
  refine .of_storeMerged hint asid ws ?_ fun k j => by rw [State.moveCc_cc, hcc]
  have hmoved := congrArg (fun t : State => { t with clusters := s.clusters, fab := s.fab, producers := s.producers, lost := s.lost })
    (State.moveCc_frame (State.storeCounted { s with fab := fab } cl line prod) cl line true)
  exact hmoved

/-! ### One thread's store -/

/-- Without an outstanding access of the group nothing is read first. -/
theorem State.readFirst_eq {s : State} {l gi : Nat} (h : ∀ o ∈ (s.core l).outst, o.group ≠ gi) (line : Nat) :
    s.readFirst l gi line = s := by
  have hawaits : ∀ o ∈ (s.core l).outst, ∀ p, o.awaits gi line p = false := fun o ho p => by simp [Outst.awaits, h o ho]
  unfold State.readFirst each
  split
  · rfl
  · refine List.foldlRecOn (motive := fun t => t = s) _ _ rfl fun t ht k _ => ?_
    subst ht
    dsimp only
    split
    · rfl
    · next o ho =>
      refine List.foldlRecOn (motive := fun u => u = t) _ _ rfl fun u hu j _ => ?_
      subst hu
      split
      · rfl
      · next p hp => rw [hawaits o (List.mem_of_getElem? ho) p, Bool.not_false, if_pos rfl]

theorem State.readFirstAt_eq {s : State} {l gi : Nat} (h : ∀ o ∈ (s.core l).outst, o.group ≠ gi) (x : Place) :
    s.readFirstAt l gi x = s := by
  unfold State.readFirstAt
  split
  · exact State.readFirst_eq h _
  · rfl

theorem retire_outst {s : State} {site : Site} {h : Hdr} {c : Ctx} (hc : s.ctx? site h = some c) (n : Needs) :
    ((s.retire c n).core c.l).outst = (s.core c.l).outst := by
  have houtst := congrArg Core.outst (retire_only hc n).core
  exact houtst

theorem Core.l1Store_rest (c : Core) (a : Nat) (bs : List Byte) : { c.l1Store a bs with l1 := c.l1 } = c := by
  unfold Core.l1Store
  split <;> rfl

/-- A guard shadow is found and made without looking at a core. -/
theorem State.modCore_shadowTouch (s : State) (l : Nat) (g : Core → Core) (line : Nat) :
    ((s.modCore l g).shadowTouch line).isSome = (s.shadowTouch line).isSome := by
  have hpage : (s.modCore l g).guardedPage (line * 256) = s.guardedPage (line * 256) := rfl
  unfold State.shadowTouch
  rw [hpage]
  cases s.guardedPage (line * 256) with
  | none => rfl
  | some j =>
    simp only [State.modCore_frame]
    split
    · rfl
    · split <;> rfl

theorem State.retire_shadowTouch (s : State) (c : Ctx) (n : Needs) (line : Nat) :
    ((s.retire c n).shadowTouch line).isSome = (s.shadowTouch line).isSome := State.modCore_shadowTouch s c.l _ line

theorem State.retire_needsUndo {s : State} {site : Site} {h : Hdr} {c : Ctx} (hc : s.ctx? site h = some c) (n : Needs)
    (line va : Nat) : (s.retire c n).needsUndo c.l line va = s.needsUndo c.l line va := by
  obtain ⟨-, -, -, htask, -⟩ := ctx?_spec hc
  have hseen := congrArg Core.undoSeen (retire_only hc n).core
  dsimp only at hseen
  simp only [State.needsUndo, State.inRange, (State.retire_core hc n).1, htask, hseen]

/-- A store that updates its line in the L1 of a core (Table 06.2). -/
def State.l1Stored (s : State) (l a : Nat) (bs : List Byte) : State := s.modCore l fun c => c.l1Store a bs

theorem State.l1Stored_core (s : State) (l a : Nat) (bs : List Byte) : ((s.l1Stored l a bs).core l).task = (s.core l).task ∧
    ((s.l1Stored l a bs).core l).undoSeen = (s.core l).undoSeen ∧ ((s.l1Stored l a bs).core l).lm = (s.core l).lm ∧
    ((s.l1Stored l a bs).core l).groups = (s.core l).groups := by
  rw [State.l1Stored, State.modCore_core, if_pos rfl]
  have hrest := (s.core l).l1Store_rest a bs
  have htask := congrArg Core.task hrest
  have hseen := congrArg Core.undoSeen hrest
  have hlm := congrArg Core.lm hrest
  have hgroups := congrArg Core.groups hrest
  exact ⟨htask, hseen, hlm, hgroups⟩

theorem State.l1Stored_needsUndo (s : State) (l a : Nat) (bs : List Byte) (line va : Nat) :
    (s.l1Stored l a bs).needsUndo l line va = s.needsUndo l line va := by
  obtain ⟨htask, hseen, -, -⟩ := s.l1Stored_core l a bs
  simp only [State.needsUndo, State.inRange, htask, hseen]

theorem State.l1Stored_sameData (s : State) (l a : Nat) (bs : List Byte) (j : Nat) :
    (s.core j).SameData ((s.l1Stored l a bs).core j) := by
  by_cases hj : j = l
  · subst hj
    obtain ⟨-, -, hlm, hgroups⟩ := s.l1Stored_core j a bs
    exact .of_groups hlm hgroups
  · simpa [State.l1Stored, hj] using Core.SameData.refl _

/-- A plain store of one thread to device memory: the L1 is updated, then the cluster cache (R189). -/
theorem State.storeAll_dev {s : State} {c : Ctx} (f : FmtM) (k a : Nat) (houtst : ∀ o ∈ (s.core c.l).outst, o.group ≠ c.gi)
    (htwin : c.task.twinOf = none) :
    s.storeAll c f [(k, .loc (.dev a))] =
      let bs := c.g.dataBytes f.vd.toNat f.bytes k
      (s.l1Stored c.l a bs).ccStore c.l (a / 256) (f.addr c.g false k) f.hint.toNat c.task.asid (atOffset (a % 256) bs)
        ((s.l1Stored c.l a bs).taskProducer c.l) := by
  simp only [State.storeAll, State.readFirstAt_eq houtst, State.storeOne, htwin, Option.isSome_none, Bool.false_eq_true, if_false]
  split
  · next hnone => exact hnone.symm
  · next t ht => exact ht.symm

/-- What a plain ST by one thread to device memory leaves where nothing keeps its line from the cluster cache. -/
theorem FmtM.stored_dev {s : State} {c : Ctx} {f : FmtM} {k a : Nat} (htask : (s.core c.l).task = some c.task)
    (houtst : ∀ o ∈ (s.core c.l).outst, o.group ≠ c.gi) (hrel : f.releases = false) (htwin : c.task.twinOf = none)
    (hvoid : c.task.twinVoid = false) (hcached : s.uncacheable (a / 256) = false)
    (hundo : s.needsUndo c.l (a / 256) (f.addr c.g false k) = false) (hshadow : (s.shadowTouch (a / 256)).isSome = true)
    (hroom : s.ccFull (s.clusterOf c.l) (a / 256) = false) {bs : List Byte} (hbs : c.g.dataBytes f.vd.toNat f.bytes k = bs) :
    LineStored (s.l1Stored c.l a bs) (f.stored c [(k, .loc (.dev a))] s) (s.clusterOf c.l) (a / 256) (atOffset (a % 256) bs) := by
  have hlog : (s.l1Stored c.l a bs).needsUndo c.l (a / 256) (f.addr c.g false k) = false := by
    rw [State.l1Stored_needsUndo, hundo]
  have htouch : ((s.l1Stored c.l a bs).shadowTouch (a / 256)).isSome = true := by
    rw [State.l1Stored, State.modCore_shadowTouch, hshadow]
  obtain ⟨t, ht, hstored⟩ := State.ccStore_stores (s := s.l1Stored c.l a bs) (l := c.l) f.hint.toNat c.task.asid
    (atOffset (a % 256) bs) ((s.l1Stored c.l a bs).taskProducer c.l) hcached hlog htouch hroom
  have hkeep : (t.core c.l).task = some c.task := by
    rw [hstored.core, (s.l1Stored_core c.l a bs).1, htask]
  rw [FmtM.stored, FmtM.drained_plain (by simp [hrel]), State.storeAll_dev f k a houtst htwin, hbs]
  dsimp only
  rw [ht]
  dsimp only
  rw [State.twinStop_of_task hkeep hvoid]
  exact hstored

theorem State.l1Stored_cc (s : State) (l a : Nat) (bs : List Byte) (k j : Nat) : (s.l1Stored l a bs).cc k j = s.cc k j := rfl

theorem State.retire_cc (s : State) (c : Ctx) (n : Needs) (k j : Nat) : (s.retire c n).cc k j = s.cc k j := rfl

end Sys2Proof.Machine

open Sys2Proof Sys2Proof.Machine

/-- Settles O13: the store goes into the L1 and then, with neither an undo entry nor a full set in its way, into the cluster's
copy of its line. -/
theorem storeToDeviceMemoryMerges : Obligations.StoreToDeviceMemoryMerges := by
  unfold Obligations.StoreToDeviceMemoryMerges
  refine ⟨fun s site h f c u hi hready hfail _ => ⟨_, st_stores hi hready hfail⟩, ?_⟩
  intro s site h f c k a (hi : Issues s site h (f.stNeeds h) c) hrel hact houtst haccess htwin hvoid hcached hundo hshadow hroom
  have hlist : f.accesses c s .w false = [k].map fun k => (k, .ok (.loc (.dev a))) := by
    rw [FmtM.accesses, hact, List.map_singleton, haccess]
    rfl
  have hnext := st_stores hi (by simp [FmtM.ready, hrel]) (by rw [hlist, failures_map_ok])
  rw [hlist, passes_map_ok, List.map_singleton] at hnext
  generalize hbs : c.g.dataBytes f.vd.toNat f.bytes k = bs
  have hlength : bs.length = f.bytes := hbs ▸ c.g.dataBytes_length _ k (FmtM.bytes_le (Bool.and_eq_true_iff.1 hi.enc_ok).1)
  have hstored := FmtM.stored_dev (State.retire_core hi.ctx (f.stNeeds h)).1 (by rw [retire_outst hi.ctx]; exact houtst) hrel htwin hvoid
    hcached (by rw [State.retire_needsUndo hi.ctx, hundo]) (by rw [State.retire_shadowTouch, hshadow]) hroom hbs
  rw [(retire_clusters hi.ctx (f.stNeeds h)).2] at hstored
  have hdata (l : Nat) := hstored.core l ▸ (s.retire_sameData c (f.stNeeds h) l).trans (State.l1Stored_sameData _ c.l a bs l)
  obtain ⟨x, hx, hbytes⟩ := hstored.copy
  obtain ⟨hslices, hmem, hchannels⟩ := hstored.memory
  refine ⟨_, x, hnext, hx, fun i hin => ?written, fun o hout => ?kept, fun cl line hne => hstored.others cl line hne,
    hslices, hmem, hchannels, fun l j r m => congrArg (look 0 · (r * 32 + m)) ((hdata l).regs j).1,
    fun l b => congrArg (look 0 · b) (hdata l).lm⟩
  case written => rw [hbytes, look_mergeBytes_atOffset, hlength, if_pos (by omega), Nat.add_sub_cancel_left]
  case kept =>
    rw [hbytes, look_mergeBytes_atOffset, hlength, if_neg (by omega), State.ccBytes, State.l1Stored_cc, State.retire_cc]
    cases s.cc (s.clusterOf c.l) (a / 256) <;> rfl
end

section
/-! PROOF. Loads as they issue (R155, R165, R168, R170). -/

namespace Sys2Proof.Machine

/-! ### What a load leaves as it issues -/

/-- `t` is `s` after work that changes no memory and of core `l` only the L1. -/
structure CacheWork (l : Nat) (s t : State) : Prop where
  /-- this core -/
  core : { t.core l with l1 := (s.core l).l1 } = s.core l
  /-- dense memory -/
  mem : t.mem = s.mem
  /-- the slices -/
  slices : t.slices = s.slices

theorem CacheWork.refl (l : Nat) (s : State) : CacheWork l s s := ⟨rfl, rfl, rfl⟩

theorem CacheWork.trans {l : Nat} {s t u : State} (h : CacheWork l s t) (k : CacheWork l t u) : CacheWork l s u where
  core := by
    have hc := h.core
    rw [← k.core] at hc
    exact hc
  mem := k.mem.trans h.mem
  slices := k.slices.trans h.slices

theorem CacheWork.of_modCore (l : Nat) (s : State) {g : Core → Core} (hg : ∀ c, { g c with l1 := c.l1 } = c) :
    CacheWork l s (s.modCore l g) where
  core := by
    rw [State.modCore_core, if_pos rfl]
    exact hg _
  mem := rfl
  slices := rfl

theorem CacheWork.of_modCluster (l : Nat) (s : State) (cl : Nat) (g : Cluster → Cluster) : CacheWork l s (s.modCluster cl g) :=
  ⟨rfl, rfl, rfl⟩

theorem CacheWork.of_onFab (l : Nat) (s : State) (g : Fab → Fab) : CacheWork l s (s.onFab g) := ⟨rfl, rfl, rfl⟩

section Work

variable {l : Nat} {s t : State}

theorem CacheWork.data (h : CacheWork l s t) : (t.core l).lm = (s.core l).lm ∧ (t.core l).groups = (s.core l).groups ∧
    (t.core l).outst = (s.core l).outst ∧ (t.core l).task = (s.core l).task := by
  have hlm := congrArg Core.lm h.core
  have hgroups := congrArg Core.groups h.core
  have houtst := congrArg Core.outst h.core
  have htask := congrArg Core.task h.core
  exact ⟨hlm, hgroups, houtst, htask⟩

end Work

theorem State.l1Drop_work (s : State) (l a : Nat) : CacheWork l s (s.modCore l fun c => c.l1Drop a) := .of_modCore l s fun _ => rfl

theorem State.l1Put_work (s : State) (l : Nat) (x : L1Line) : CacheWork l s (s.modCore l fun c => c.l1Put x) :=
  .of_modCore l s fun _ => rfl

theorem State.l1Fill_work (s : State) (l a : Nat) (d : SMap Byte) : CacheWork l s (s.modCore l fun c => c.l1Fill a d) :=
  .of_modCore l s fun _ => rfl

theorem State.ccCount_work (s : State) (l cl : Nat) (hit : Bool) : CacheWork l s (s.ccCount cl hit) := .of_modCluster l s cl _

theorem State.moveCc_work (s : State) (l cl line : Nat) (mru : Bool) : CacheWork l s (s.moveCc cl line mru) := by
  unfold State.moveCc
  split
  · exact .refl l s
  · exact .of_modCluster l s cl _

theorem State.fabQueue_work (s : State) (l : Nat) (m : FMsg) : CacheWork l s (s.fabQueue m) := by
  have htouch : CacheWork l s s.touch := ⟨rfl, rfl, rfl⟩
  unfold State.fabQueue
  dsimp only
  split
  · exact htouch
  · exact htouch.trans ((CacheWork.of_onFab l _ _).trans (.of_onFab l _ _))

theorem State.fabSend_work (s : State) (l : Nat) (m : FMsg) : CacheWork l s (s.fabSend m) := by
  unfold State.fabSend
  dsimp only
  split
  · exact s.fabQueue_work l _
  · split
    · exact .of_onFab l s _
    · exact (CacheWork.of_onFab l s _).trans (State.fabQueue_work _ l _)

theorem State.fabRequest_work (s : State) (l : Nat) (m : FMsg) (who : ReqWho) : CacheWork l s (s.fabRequest m who) :=
  (CacheWork.of_onFab l s _).trans (State.fabSend_work _ l _)

/-! ### The parts of a load -/

theorem State.loadDev_spec (s : State) (l a n hint : Nat) (acquire : Bool) (k : Nat) :
    CacheWork l s (s.loadDev l a n hint acquire k).1 ∧ (s.loadDev l a n hint acquire k).2.thread = k := by
  unfold State.loadDev
  dsimp only
  split
  · exact ⟨s.l1Put_work l _, rfl⟩
  · have hdrop : CacheWork l s (if !acquire && hint != 2 then s else s.modCore l fun c => c.l1Drop a) := by
      split
      · exact .refl l s
      · exact s.l1Drop_work l a
    generalize (if !acquire && hint != 2 then s else s.modCore l fun c => c.l1Drop a) = u at hdrop ⊢
    split
    · split
      · exact ⟨hdrop.trans (u.ccCount_work l _ _), rfl⟩
      · split
        · have hmoved : CacheWork l u ((u.ccCount (s.clusterOf l) true).moveCc (s.clusterOf l) (a / 256) true) :=
            (u.ccCount_work l _ _).trans (State.moveCc_work _ l _ _ _)
          refine ⟨hdrop.trans (hmoved.trans ?_), rfl⟩
          split
          · exact State.l1Fill_work _ l a _
          · exact .refl l _
        · exact ⟨hdrop.trans (u.ccCount_work l _ _), rfl⟩
    · exact ⟨hdrop.trans (u.ccCount_work l _ _), rfl⟩

theorem State.loadPiece_spec (s : State) (l gi dest n hint : Nat) (acquire lenient : Bool) (k : Nat) (x : Place) :
    CacheWork l s (s.loadPiece l gi dest n hint acquire lenient k x).1 ∧
    (s.loadPiece l gi dest n hint acquire lenient k x).2.thread = k := by
  unfold State.loadPiece
  split
  · exact ⟨.refl l s, rfl⟩
  · exact s.loadDev_spec l _ n hint acquire k
  · exact ⟨.refl l s, rfl⟩
  · next k a => exact ⟨State.fabRequest_work s l (mkGet k a n hint lenient) _, rfl⟩

/-- A load has one part for each thread, in their order. -/
theorem State.loadPieces_spec (l gi dest n hint : Nat) (acquire lenient : Bool) (ps : List (Nat × Place)) (s : State) :
    CacheWork l s (s.loadPieces l gi dest n hint acquire lenient ps).1 ∧
    (s.loadPieces l gi dest n hint acquire lenient ps).2.map (fun p => p.thread) = ps.map Prod.fst := by
  induction ps generalizing s with
  | nil => exact ⟨.refl l s, rfl⟩
  | cons p ps ih =>
    obtain ⟨hpiece, hthread⟩ := s.loadPiece_spec l gi dest n hint acquire lenient p.1 p.2
    obtain ⟨hrest, hthreads⟩ := ih (s.loadPiece l gi dest n hint acquire lenient p.1 p.2).1
    refine ⟨hpiece.trans hrest, ?_⟩
    simp only [State.loadPieces, List.map_cons, hthread, hthreads]

/-- The parts of a load from local memory hold the bytes at the threads' addresses. -/
theorem State.loadPieces_local (s : State) (l gi dest n hint : Nat) (acquire lenient : Bool) (at_ : Nat → Nat) (ks : List Nat) :
    s.loadPieces l gi dest n hint acquire lenient (ks.map fun k => (k, .lm (at_ k))) =
      (s, ks.map fun k => { thread := k, tgt := 3, addr := at_ k, value := some ((s.core l).lmRead (at_ k) n) }) := by
  induction ks with
  | nil => rfl
  | cons k ks ih => simp only [List.map_cons, State.loadPieces, State.loadPiece, ih]

/-! ### The outstanding access -/

/-- The registers that a load keeps waiting (R155). -/
def Outst.pend (o : Outst) (regs : List Nat) (g : Group) : Group :=
  if o.uniform then { g with pendU := g.pendU ++ regs } else { g with pendV := g.pendV ++ regs }

/-- An access of parts outstanding, its registers kept waiting. -/
def State.loadPending (s : State) (c : Ctx) (o : Outst) (pieces : List LoadPiece) (regs : List Nat) : State :=
  s.modCore c.l fun k => { k.modGroup c.gi (o.pend regs) with outst := k.outst ++ [{ o with pieces := pieces }] }

/-- The threads of an acquire wait for its data (R202). -/
def State.acquireWaits (s : State) (c : Ctx) (o : Outst) (threads : List Nat) : State :=
  if o.acquire then s.setWaits c.l c.gi threads .acquire else s

theorem State.foldl_readFirstAt {s : State} {l gi : Nat} (h : ∀ o ∈ (s.core l).outst, o.group ≠ gi) (ps : List (Nat × Place)) :
    ps.foldl (fun s p => s.readFirstAt l gi p.2) s = s :=
  List.foldlRecOn (motive := fun t => t = s) ps _ rfl fun t ht p _ => by rw [ht, State.readFirstAt_eq h]

theorem State.startLoad_eq {s : State} {c : Ctx} (o : Outst) {ps : List (Nat × Place)} (regs : List Nat) (hps : ps ≠ [])
    (hfirst : ∀ o ∈ (s.core c.l).outst, o.group ≠ c.gi) :
    let r := s.loadPieces c.l c.gi o.dest o.size o.hint o.acquire c.task.lenient ps
    s.startLoad c o ps regs = (r.1.loadPending c o r.2 regs).acquireWaits c o (if o.uniform then c.act else ps.map Prod.fst) := by
  have hnonempty : ps.isEmpty = false := by simpa using hps
  rw [State.startLoad, hnonempty, if_neg Bool.false_ne_true, State.foldl_readFirstAt hfirst]
  rfl

/-- A group that a load has left waiting for its registers, and its threads for an acquire. -/
theorem State.acquireWaits_loadPending (s : State) (c : Ctx) (o : Outst) (pieces : List LoadPiece) (regs threads : List Nat) :
    let t := (s.loadPending c o pieces regs).acquireWaits c o threads
    (o.pend regs (s.ctxGroup c)).SameButWaits (t.ctxGroup c) ∧
    (t.core c.l).outst = (s.core c.l).outst ++ [{ o with pieces := pieces }] ∧ (t.core c.l).lm = (s.core c.l).lm ∧ t.mem = s.mem := by
  have hcore : (s.loadPending c o pieces regs).core c.l = { (s.core c.l).modGroup c.gi (o.pend regs) with
      outst := (s.core c.l).outst ++ [{ o with pieces := pieces }] } := by simp [State.loadPending]
  have hgroup : (s.loadPending c o pieces regs).ctxGroup c = o.pend regs (s.ctxGroup c) := by
    rw [State.ctxGroup, hcore]
    exact (Core.modGroup_group _ _ _ _).trans (if_pos rfl)
  dsimp only
  unfold State.acquireWaits
  split
  · obtain ⟨hlm, houtst⟩ := (s.loadPending c o pieces regs).setWaits_core c.l c.gi threads .acquire
    refine ⟨?_, by rw [houtst, hcore], by rw [hlm, hcore]; rfl, rfl⟩
    have hwaits : (((s.loadPending c o pieces regs).setWaits c.l c.gi threads .acquire).ctxGroup c) =
        threads.foldl (fun g t => g.setWait t .acquire) ((s.loadPending c o pieces regs).ctxGroup c) :=
      State.onGroup_ctxGroup _ c _
    rw [hwaits, ← hgroup]
    exact Group.foldl_setWait_same _ _ _
  · exact ⟨by rw [hgroup]; exact .refl _, by rw [hcore], by rw [hcore]; rfl, rfl⟩

/-- A load that starts with no earlier access of its group: one access more is outstanding, and its registers wait. -/
theorem State.startLoad_spec {s : State} {c : Ctx} (o : Outst) {ps : List (Nat × Place)} (regs : List Nat) (hps : ps ≠ [])
    (hfirst : ∀ o ∈ (s.core c.l).outst, o.group ≠ c.gi) :
    let pieces := (s.loadPieces c.l c.gi o.dest o.size o.hint o.acquire c.task.lenient ps).2
    let t := s.startLoad c o ps regs
    (t.core c.l).outst = (s.core c.l).outst ++ [{ o with pieces := pieces }] ∧
    pieces.map (fun p => p.thread) = ps.map Prod.fst ∧ (o.pend regs (s.ctxGroup c)).SameButWaits (t.ctxGroup c) ∧
    (t.core c.l).lm = (s.core c.l).lm ∧ t.mem = s.mem := by
  obtain ⟨hwork, hthreads⟩ := s.loadPieces_spec c.l c.gi o.dest o.size o.hint o.acquire c.task.lenient ps
  obtain ⟨hlm, hgroups, houtst, -⟩ := hwork.data
  have hgroup : (s.loadPieces c.l c.gi o.dest o.size o.hint o.acquire c.task.lenient ps).1.ctxGroup c = s.ctxGroup c := by
    simp only [State.ctxGroup, Core.group, hgroups]
  dsimp only
  rw [State.startLoad_eq o regs hps hfirst]
  obtain ⟨hsame, hadded, hlm', hmem⟩ := State.acquireWaits_loadPending
    (s.loadPieces c.l c.gi o.dest o.size o.hint o.acquire c.task.lenient ps).1 c o
    (s.loadPieces c.l c.gi o.dest o.size o.hint o.acquire c.task.lenient ps).2 regs (if o.uniform then c.act else ps.map Prod.fst)
  rw [hgroup] at hsame
  exact ⟨by rw [hadded, houtst], hthreads, hsame, hlm'.trans hlm, hmem.trans hwork.mem⟩

theorem Outst.pend_regs (o : Outst) (regs : List Nat) (g : Group) :
    (o.pend regs g).vregs = g.vregs ∧ (o.pend regs g).uregs = g.uregs := by
  unfold Outst.pend
  split <;> exact ⟨rfl, rfl⟩

/-! ### LD and ULD -/

/-- What LD needs. -/
def FmtM.ldNeeds (h : Hdr) (f : FmtM) : Needs :=
  f.needs h false [] [] (dataRegs f.bytes f.vd.toNat) [] (dataOk f.bytes f.vd.toNat && !f.releases)

/-- What ULD needs. -/
def FmtM.uldNeeds (h : Hdr) (f : FmtM) : Needs :=
  f.needs h true [] [] [] [f.vd.toNat] (uOk f.vd && (f.size.toNat == 2 || f.size.toNat == 3) && !f.releases)

/-- The effect of LD. -/
def FmtM.ld (f : FmtM) (c : Ctx) (s : State) : State :=
  orTrap c (f.accesses c s .r false)
    (fun s' => s'.startLoad c (f.outst c) (passes (f.accesses c s .r false)) (dataRegs f.bytes f.vd.toNat)) s

theorem exec_ld (site : Site) (h : Hdr) (f : FmtM) (s : State) : exec (.ld site h f) s = issue site h (f.ldNeeds h) f.ld s := rfl

/-- The effect of ULD. -/
def FmtM.uld (f : FmtM) (c : Ctx) (s : State) : State :=
  if c.act.isEmpty then s
  else match s.access c.task.asid f.isLocal (f.addr c.g true 0) f.bytes .r false with
    | .error st => s.trapAt c st c.act 0
    | .ok x => s.startLoad c { f.outst c with uniform := true } [(0, x)] [f.vd.toNat]

theorem exec_uld (site : Site) (h : Hdr) (f : FmtM) (s : State) : exec (.uld site h f) s = issue site h (f.uldNeeds h) f.uld s := rfl

theorem FmtM.failures_eq_nil {f : FmtM} {c : Ctx} {s : State} {p : Perm} {atomic : Bool}
    (h : ∀ k ∈ c.act, ∃ x, s.access c.task.asid f.isLocal (f.addr c.g false k) f.bytes p atomic = .ok x) :
    failures (f.accesses c s p atomic) = [] := by
  refine List.filterMap_eq_nil_iff.2 fun q hq => ?_
  obtain ⟨k, hk, rfl⟩ := List.mem_map.1 hq
  obtain ⟨x, hx⟩ := h k hk
  simp only [hx]

/-- Accesses that all pass keep their threads. -/
theorem passes_fst {l : List (Nat × Except (BitVec 8) Place)} (h : failures l = []) : (passes l).map Prod.fst = l.map Prod.fst := by
  induction l with
  | nil => rfl
  | cons q l ih =>
    obtain ⟨k, r⟩ := q
    cases r with
    | error e => cases h
    | ok x => exact congrArg (k :: ·) (ih h)

theorem FmtM.passes_threads {f : FmtM} {c : Ctx} {s : State} {p : Perm} {atomic : Bool}
    (h : failures (f.accesses c s p atomic) = []) : (passes (f.accesses c s p atomic)).map Prod.fst = c.act := by
  rw [passes_fst h, FmtM.accesses, List.map_map]
  exact List.map_id _

section Issued

variable {s : State} {site : Site} {h : Hdr} {c : Ctx}

theorem retire_first (hc : s.ctx? site h = some c) (n : Needs) (hfirst : ∀ o ∈ (s.core c.l).outst, o.group ≠ c.gi) :
    ∀ o ∈ ((s.retire c n).core c.l).outst, o.group ≠ c.gi := by
  rw [retire_outst hc]
  exact hfirst

/-- A load that an issue starts: one access more is outstanding, its registers wait, and no register and no memory has changed. -/
theorem retire_startLoad (hc : s.ctx? site h = some c) (n : Needs) (o : Outst) {ps : List (Nat × Place)} (regs : List Nat)
    (hps : ps ≠ []) (hfirst : ∀ o ∈ (s.core c.l).outst, o.group ≠ c.gi) :
    let pieces := ((s.retire c n).loadPieces c.l c.gi o.dest o.size o.hint o.acquire c.task.lenient ps).2
    let t := (s.retire c n).startLoad c o ps regs
    (t.core c.l).outst = (s.core c.l).outst ++ [{ o with pieces := pieces }] ∧
    pieces.map (fun p => p.thread) = ps.map Prod.fst ∧
    (∀ r ∈ regs, if o.uniform then r ∈ (t.ctxGroup c).pendU else r ∈ (t.ctxGroup c).pendV) ∧
    (t.ctxGroup c).vregs = c.g.vregs ∧ (t.ctxGroup c).uregs = c.g.uregs ∧
    (t.core c.l).lm = (s.core c.l).lm ∧ t.mem = s.mem := by
  obtain ⟨houtst, hthreads, hsame, hlm, hmem⟩ := State.startLoad_spec o regs hps (retire_first hc n hfirst)
  obtain ⟨hv, hu, -, -⟩ := hsame.regs
  obtain ⟨hpv, hpu⟩ := o.pend_regs regs ((s.retire c n).ctxGroup c)
  have hregs := ((s.retire_sameData c n c.l).regs c.gi)
  obtain ⟨-, -, hg, -⟩ := ctx?_spec hc
  rw [← hg] at hregs
  rw [retire_outst hc] at houtst
  refine ⟨houtst, hthreads, fun r hr => ?_, hv.trans (hpv.trans hregs.1), hu.trans (hpu.trans hregs.2.1),
    hlm.trans (s.retire_sameData c n c.l).lm, hmem⟩
  rw [hsame.field Group.pendU fun _ => rfl, hsame.field Group.pendV fun _ => rfl, Outst.pend]
  split
  · exact List.mem_append_right _ hr
  · exact List.mem_append_right _ hr

end Issued

end Sys2Proof.Machine

open Sys2Proof Sys2Proof.Machine

/-- Settles O10: with no earlier access of the group, the access that a load starts is the last one outstanding. -/
theorem loadsBecomeOutstanding : Obligations.LoadsBecomeOutstanding := by
  unfold Obligations.LoadsBecomeOutstanding
  intro first
  refine ⟨fun s site h f c (hi : Issues s site h (f.ldNeeds h) c) => ⟨fun hact => ?idle, fun hact haccess => ?load⟩,
    fun s site h f c (hi : Issues s site h (f.uldNeeds h) c) => ⟨fun hact => ?uniformIdle, fun hact haccess => ?uniform⟩⟩
  case idle =>
    refine ⟨_, (exec_ld ..).trans (hi.issue_eq _), ?_⟩
    have hnone : f.accesses c (s.retire c (f.ldNeeds h)) .r false = [] := by simp [FmtM.accesses, hact]
    rw [FmtM.ld, orTrap_pass (by rw [hnone]; rfl), hnone]
    exact retire_only hi.ctx _
  case load =>
    have hfail := FmtM.failures_eq_nil haccess
    have hthreads := FmtM.passes_threads hfail
    have hps : passes (f.accesses c s .r false) ≠ [] := fun hnil => hact (by rw [← hthreads, hnil]; rfl)
    refine ⟨_, (exec_ld ..).trans (hi.issue_eq _), fun hfirst => ?_⟩
    have hload : f.ld c (s.retire c (f.ldNeeds h)) = (s.retire c (f.ldNeeds h)).startLoad c (f.outst c)
        (passes (f.accesses c s .r false)) (dataRegs f.bytes f.vd.toNat) := orTrap_pass hfail _ _
    rw [hload]
    obtain ⟨houtst, hpieces, hpend, hv, -, hlm, hmem⟩ :=
      retire_startLoad hi.ctx (f.ldNeeds h) (f.outst c) (dataRegs f.bytes f.vd.toNat) hps hfirst
    refine ⟨_, houtst, rfl, rfl, rfl, rfl, hpieces.trans hthreads, hpend, fun r k => congrArg (look 0 · (r * 32 + k)) hv,
      fun a => congrArg (look 0 · a) hlm, hmem, fun hlocal p hp => ?_⟩
    rw [FmtM.accesses_local hlocal haccess, passes_map_ok, State.loadPieces_local] at hp
    obtain ⟨k, -, rfl⟩ := List.mem_map.1 hp
    simp only [Core.lmRead, (s.retire_sameData c (f.ldNeeds h) c.l).lm]
    rfl
  case uniformIdle =>
    refine ⟨_, (exec_uld ..).trans (hi.issue_eq _), ?_⟩
    rw [FmtM.uld, hact]
    exact retire_only hi.ctx _
  case uniform =>
    obtain ⟨x, hx⟩ := haccess
    refine ⟨_, (exec_uld ..).trans (hi.issue_eq _), fun hfirst => ?_⟩
    have hnonempty : c.act.isEmpty = false := by simpa using hact
    have hload : f.uld c (s.retire c (f.uldNeeds h)) =
        (s.retire c (f.uldNeeds h)).startLoad c { f.outst c with uniform := true } [(0, x)] [f.vd.toNat] := by
      rw [FmtM.uld, hnonempty, State.retire_access, hx]
      rfl
    rw [hload]
    obtain ⟨houtst, hpieces, hpend, -, hu, -, hmem⟩ :=
      retire_startLoad hi.ctx (f.uldNeeds h) { f.outst c with uniform := true } [f.vd.toNat] (List.cons_ne_nil (0, x) []) hfirst
    refine ⟨_, houtst, rfl, rfl, rfl, rfl, ?_, hpend _ (List.mem_singleton.2 rfl), fun r => congrArg (look 0 · r) hu, hmem⟩
    simpa using congrArg List.length hpieces
end

section
/-! PROOF. PREF, UNPIN, INV.L1 and FENCE (R157, R170, R177, R178). -/

namespace Sys2Proof.Machine

/-! ### PREF and UNPIN -/

/-- Work on the lines of device memory that a list of accesses reaches. -/
def State.onDevLines (s : State) (ps : List (Nat × Place)) (work : State → Nat → State) : State :=
  ps.foldl (fun s p => match p.2 with
    | .loc (.dev a) => work s a
    | _ => s) s

theorem State.onDevLines_none {ps : List (Nat × Place)} (h : ∀ p ∈ ps, ∀ a, p.2 ≠ .loc (.dev a)) (s : State)
    (work : State → Nat → State) : s.onDevLines ps work = s := by
  refine List.foldlRecOn (motive := fun t => t = s) ps _ rfl fun t ht p hp => ?_
  rw [ht]
  split
  · next a ha => exact absurd ha (h p hp a)
  · rfl

/-- What PREF and UNPIN need. -/
def FmtM.addrNeeds (h : Hdr) (f : FmtM) : Needs := f.needs h false [] [] [] [] true

/-- The effect of PREF. -/
def FmtM.pref (f : FmtM) (c : Ctx) (s : State) : State :=
  s.onDevLines (passes (f.accesses c s .r false)) fun s a => s.prefetch c.l a f.hint.toNat c.task.asid c.task.lenient

theorem FmtM.pref_none {f : FmtM} {c : Ctx} {s : State} (h : ∀ p ∈ passes (f.accesses c s .r false), ∀ a, p.2 ≠ .loc (.dev a)) :
    f.pref c s = s := State.onDevLines_none h _ _

/-- PREF by one thread that reaches device memory. -/
theorem FmtM.pref_one {f : FmtM} {c : Ctx} {s : State} {k a : Nat} (hact : c.act = [k])
    (haccess : s.access c.task.asid f.isLocal (f.addr c.g false k) f.bytes .r false = .ok (.loc (.dev a))) :
    f.pref c s = s.prefetch c.l a f.hint.toNat c.task.asid c.task.lenient := by
  have hlist : passes (f.accesses c s .r false) = [(k, .loc (.dev a))] := by
    rw [FmtM.accesses, hact, List.map_singleton, haccess]
    rfl
  rw [FmtM.pref, hlist]
  rfl

theorem exec_pref (site : Site) (h : Hdr) (f : FmtM) (s : State) :
    exec (.pref site h f) s = issue site h (f.addrNeeds h) f.pref s := rfl

/-- The checks of UNPIN, which asks for no alignment. -/
def FmtM.unpinAccesses (f : FmtM) (c : Ctx) (s : State) : List (Nat × Except (BitVec 8) Place) :=
  c.act.map fun k => (k, s.access c.task.asid f.isLocal (f.addr c.g false k) 1 .none false)

/-- The effect of UNPIN. -/
def FmtM.unpin (f : FmtM) (c : Ctx) (s : State) : State :=
  orTrap c (f.unpinAccesses c s) (fun s' => s'.onDevLines (passes (f.unpinAccesses c s)) fun s a => s.unpinLine (a / 256)) s

theorem FmtM.unpin_none {f : FmtM} {c : Ctx} {s : State} (hfail : failures (f.unpinAccesses c s) = [])
    (h : ∀ p ∈ passes (f.unpinAccesses c s), ∀ a, p.2 ≠ .loc (.dev a)) : f.unpin c s = s := by
  rw [FmtM.unpin, orTrap_pass hfail, State.onDevLines_none h]

/-- Where a check fails, the failing threads trap with the worst status. -/
theorem orTrap_trap {c : Ctx} {l : List (Nat × Except (BitVec 8) Place)} {st : BitVec 8} (h : worstOf (failures l) = some st)
    (k : State → State) (s : State) : orTrap c l k s = s.trapAt c st (failThreads l) 0 := by
  rw [orTrap, h]

theorem exec_unpin (site : Site) (h : Hdr) (f : FmtM) (s : State) :
    exec (.unpin site h f) s = issue site h (f.addrNeeds h) f.unpin s := rfl

/-- A line put into the L1 is found there. -/
theorem Core.l1Put_l1At (c : Core) (x : L1Line) : (c.l1Put x).l1At x.line = some x := by
  have hnone (r : List L1Line) (hr : ∀ y ∈ r, y.line ≠ x.line) : (r ++ [x]).find? (fun y => y.line == x.line) = some x := by
    rw [List.find?_append, List.find?_eq_none.2 fun y hy => by simpa using hr y hy]
    simp
  unfold Core.l1Put Core.l1At
  simp only [look_put_same]
  refine hnone _ fun y hy => ?_
  split at hy
  · simpa using (List.mem_filter.1 hy).2
  · simpa using (List.mem_filter.1 (List.mem_of_mem_drop hy)).2

/-- The half line that a fill brings into the L1 holds the bytes of its line. -/
theorem Core.l1Fill_l1Line (c : Core) (a : Nat) (d : SMap Byte) :
    ∃ y, (c.l1Fill a d).l1Line a = some y ∧ ∀ i, i < 128 → look 0 y.bytes i = look 0 d (a % 256 / 128 * 128 + i) := by
  refine ⟨_, Core.l1Put_l1At c { line := a / 128, bytes := _ }, fun i hi => ?_⟩
  rw [look_putBytes, if_pos (by simpa using hi)]
  simp [hi]

theorem State.ccCount_cc (s : State) (cl : Nat) (hit : Bool) (k j : Nat) : (s.ccCount cl hit).cc k j = s.cc k j := by
  refine State.modCluster_cc s cl (fun c => ?_) k j
  split <;> rfl

/-- A line that the cluster cache holds whole and the L1 does not: PREF brings its half line into the L1 (Table 06.2). -/
theorem State.prefetch_hit {s : State} {l a : Nat} {x : CcLine} (hmiss : (s.core l).l1Line a = none)
    (hhit : s.cc (s.clusterOf l) (a / 256) = some x) (hwhole : x.st ≠ .pend) (hlost : s.lostIn (a / 256) = false)
    (hint asid : Nat) (lenient : Bool) :
    s.prefetch l a hint asid lenient = (s.ccCount (s.clusterOf l) true).modCore l fun c => c.l1Fill a x.bytes := by
  have hcount : (s.ccCount (s.clusterOf l) true).cc (s.clusterOf l) (a / 256) = some x := by
    rw [State.ccCount_cc, hhit]
  have hkeep : (s.ccCount (s.clusterOf l) true).lostIn (a / 256) = false := hlost
  simp only [State.prefetch, hmiss, hhit, hcount, hkeep, hwhole]
  rfl

/-! ### INV.L1 and FENCE -/

/-- What INV.L1 and FENCE need. -/
def memNeeds : Needs := { arith := false }

theorem exec_invL1 (site : Site) (h : Hdr) (f : FmtS) (s : State) :
    exec (.invL1 site h f) s = issue site h memNeeds (fun c s => if c.act.isEmpty then s else s.l1Clear c.l) s := rfl

/-- The effect of FENCE. -/
def FmtS.fence (f : FmtS) (c : Ctx) (s : State) : State :=
  if c.act.isEmpty then s else (s.setWaits c.l c.gi c.act (.fence f.scope.toNat)).fenceSettle c.l

theorem exec_fence (site : Site) (h : Hdr) (f : FmtS) (s : State) :
    exec (.fence site h f) s = issue site h memNeeds f.fence s := rfl

/-- The waiting fences of one group of a core completed where the accesses before them are over (R177). -/
def State.fenceStep (l gi : Nat) (s : State) : State :=
  if ((s.core l).group gi).fenceWaiters.isEmpty || !s.releaseReady l gi ((s.core l).group gi).fenceWaiters then s
  else ((s.releaseDrain l ((s.core l).group gi).fenceScope).l1Clear l).setWaits l gi ((s.core l).group gi).fenceWaiters .none

theorem State.fenceSettle_eq (s : State) (l : Nat) :
    s.fenceSettle l = (List.range 16).foldl (fun s gi => s.fenceStep l gi) s := rfl

theorem State.fenceStep_idle {s : State} {l gi : Nat} (h : ((s.core l).group gi).fenceWaiters = []) : s.fenceStep l gi = s := by
  simp [State.fenceStep, h]

/-- Steps of which only the one at `k` does anything, and that once. -/
theorem foldl_once {α : Type} {step : α → Nat → α} {a b : α} {k : Nat} (ha : ∀ j, j ≠ k → step a j = a) (hk : step a k = b)
    (hb : ∀ j, step b j = b) (l : List Nat) : l.foldl step a = if k ∈ l then b else a := by
  have hrest (l : List Nat) : l.foldl step b = b :=
    List.foldlRecOn (motive := fun x => x = b) l _ rfl fun x hx j _ => by rw [hx, hb]
  induction l with
  | nil => rfl
  | cons j l ih =>
    by_cases hj : j = k
    · rw [List.foldl_cons, hj, hk, hrest, if_pos (by simp)]
    · rw [List.foldl_cons, ha j hj, ih]
      simp [Ne.symm hj]

/-- With a fence in one group only, settling the core settles that group. -/
theorem State.fenceSettle_one {s : State} {l gi : Nat} (hgi : gi < 16)
    (hothers : ∀ j, j ≠ gi → ((s.core l).group j).fenceWaiters = []) (hdone : ∀ j, (s.fenceStep l gi).fenceStep l j = s.fenceStep l gi) : s.fenceSettle l = s.fenceStep l gi := by
  rw [State.fenceSettle_eq, foldl_once (fun j hj => State.fenceStep_idle (hothers j hj)) rfl hdone, if_pos (List.mem_range.2 hgi)]

/-! ### Threads at a fence -/

theorem Group.mem_fenceWaiters {g : Group} {k : Nat} : k ∈ g.fenceWaiters ↔ k < 32 ∧ ∃ x, g.wait k = .fence x := by
  simp only [Group.fenceWaiters, List.mem_filter, List.mem_range]
  refine and_congr_right fun _ => ?_
  cases g.wait k <;> simp

/-- The widest scope of fences that are all of cluster scope. -/
theorem Group.fenceScope_eq_zero {g : Group} (h : ∀ k, k < 32 → ∀ x, g.wait k = .fence x → x = 0) : g.fenceScope = 0 := by
  refine List.foldlRecOn (motive := fun m => m = 0) _ _ rfl fun m hm k hk => ?_
  split
  · next x hx => rw [hm, h k (List.mem_range.1 hk) x hx, Nat.max_self]
  · exact hm

theorem Core.readsOut_mono {c : Core} {gi : Nat} {ks js : List Nat} (hsub : ks ⊆ js) (h : c.readsOut gi ks = true) :
    c.readsOut gi js = true := by
  simp only [Core.readsOut, List.any_eq_true, Bool.and_eq_true, Bool.or_eq_true, List.contains_iff_mem] at h ⊢
  obtain ⟨o, ho, hgi, hreads⟩ := h
  refine ⟨o, ho, hgi, hreads.imp id fun ⟨p, hp, hk⟩ => ⟨p, hp, hsub hk⟩⟩

section Issued

variable {s : State} {site : Site} {h : Hdr} {c : Ctx}

theorem retire_l1 (hc : s.ctx? site h = some c) (n : Needs) : ((s.retire c n).core c.l).l1 = (s.core c.l).l1 := by
  have hl1 := congrArg Core.l1 (retire_only hc n).core
  exact hl1

theorem retire_v (hc : s.ctx? site h = some c) (n : Needs) (r k : Nat) : ((s.retire c n).ctxGroup c).v r k = c.g.v r k :=
  congrArg (look 0 · (r * 32 + k)) (retire_ctxGroup hc n).1

/-- What threads of a core wait for after an issue. -/
theorem retire_waits (hc : s.ctx? site h = some c) (n : Needs) (j k : Nat) :
    (((s.retire c n).core c.l).group j).wait k = ((s.core c.l).group j).wait k := by
  by_cases hj : j = c.gi
  · obtain ⟨-, hwaits, -⟩ := retire_ctxGroup_rest hc n
    obtain ⟨-, -, hg, -⟩ := ctx?_spec hc
    rw [hj, ← hg]
    exact congrArg (look WaitReason.none · k) hwaits
  · rw [(retire_only hc n).groups j hj]

end Issued

/-- The waits after some threads of one group of a core are set to wait. -/
theorem State.setWaits_wait (s : State) (l gi : Nat) (threads : List Nat) (w : WaitReason) (j k : Nat) :
    (((s.setWaits l gi threads w).core l).group j).wait k = if j = gi ∧ k ∈ threads then w else ((s.core l).group j).wait k := by
  rw [State.setWaits, State.modCore_core, if_pos rfl, Core.modGroup_group]
  by_cases hj : j = gi
  · rw [if_pos hj, Group.foldl_setWait_wait, hj]
    exact if_congr (by simp) rfl rfl
  · rw [if_neg hj, if_neg (by simp [hj])]

theorem State.setWaits_l1 (s : State) (l gi : Nat) (threads : List Nat) (w : WaitReason) :
    ((s.setWaits l gi threads w).core l).l1 = (s.core l).l1 := by
  rw [State.setWaits, State.modCore_core, if_pos rfl]
  rfl

theorem State.setWaits_sameButWaits (s : State) (l gi : Nat) (threads : List Nat) (w : WaitReason) (j : Nat) :
    ((s.core l).group j).SameButWaits (((s.setWaits l gi threads w).core l).group j) := by
  rw [State.setWaits, State.modCore_core, if_pos rfl, Core.modGroup_group]
  split
  · next hj => exact hj ▸ Group.foldl_setWait_same threads w _
  · exact .refl _

/-- A fence of cluster scope whose accesses are over: the L1 is empty and its threads go on (R177, R178). -/
theorem State.fenceStep_over {s : State} {l gi : Nat} (hfence : ((s.core l).group gi).fenceWaiters ≠ [])
    (hready : s.releaseReady l gi ((s.core l).group gi).fenceWaiters = true) (hscope : ((s.core l).group gi).fenceScope = 0) :
    s.fenceStep l gi = (s.l1Clear l).setWaits l gi ((s.core l).group gi).fenceWaiters .none := by
  have hnonempty : ((s.core l).group gi).fenceWaiters.isEmpty = false := by simpa using hfence
  rw [State.fenceStep, hnonempty, hready, hscope]
  rfl

theorem FmtS.fence_act {f : FmtS} {c : Ctx} (hact : c.act ≠ []) (s : State) :
    f.fence c s = (s.setWaits c.l c.gi c.act (.fence f.scope.toNat)).fenceSettle c.l := by
  have hnonempty : c.act.isEmpty = false := by simpa using hact
  rw [FmtS.fence, hnonempty]
  rfl

/-- An issue makes no thread wait at a fence. -/
theorem retire_fenceWaiters {s : State} {site : Site} {h : Hdr} {c : Ctx} (hc : s.ctx? site h = some c) (n : Needs)
    (hnone : ∀ j, ((s.core c.l).group j).fenceWaiters = []) (j : Nat) : (((s.retire c n).core c.l).group j).fenceWaiters = [] := by
  rw [← hnone j]
  simp only [Group.fenceWaiters, retire_waits hc]

/-- The L1 emptied, and nothing else of the core. -/
theorem State.l1Clear_core (s : State) (l : Nat) : (s.l1Clear l).core l = { s.core l with l1 := [] } := by
  rw [State.l1Clear, State.modCore_core, if_pos rfl]

theorem State.fenceStep_blocked {s : State} {l gi : Nat}
    (h : s.releaseReady l gi ((s.core l).group gi).fenceWaiters = false) : s.fenceStep l gi = s := by
  simp [State.fenceStep, h]

section Fence

variable {s : State} {l gi x : Nat} {act : List Nat}

theorem State.setWaits_others (h : ∀ j, ((s.core l).group j).fenceWaiters = []) (w : WaitReason) {j : Nat} (hj : j ≠ gi) :
    (((s.setWaits l gi act w).core l).group j).fenceWaiters = [] := by
  rw [Group.fenceWaiters_eq_nil]
  intro k hk y
  rw [State.setWaits_wait, if_neg (by simp [hj])]
  exact (Group.fenceWaiters_eq_nil _).1 (h j) k hk y

/-- The threads that an issue of FENCE has set to wait are at a fence. -/
theorem State.fence_waiters (hlt : ∀ k ∈ act, k < 32) :
    act ⊆ (((s.setWaits l gi act (.fence x)).core l).group gi).fenceWaiters := by
  intro k hk
  refine Group.mem_fenceWaiters.2 ⟨hlt k hk, x, ?_⟩
  rw [State.setWaits_wait, if_pos ⟨rfl, hk⟩]

/-- A fence whose earlier reads are outstanding goes on waiting (R177). -/
theorem State.fence_blocked (hgi : gi < 16) (hlt : ∀ k ∈ act, k < 32) (hnone : ∀ j, ((s.core l).group j).fenceWaiters = [])
    (hout : (s.core l).readsOut gi act = true) :
    (s.setWaits l gi act (.fence x)).fenceSettle l = s.setWaits l gi act (.fence x) := by
  have hreads : ((s.setWaits l gi act (.fence x)).core l).readsOut gi act = true := by
    rw [Core.readsOut, (s.setWaits_core l gi act (.fence x)).2]
    exact hout
  have hblocked : (s.setWaits l gi act (.fence x)).fenceStep l gi = s.setWaits l gi act (.fence x) :=
    State.fenceStep_blocked (by simp [State.releaseReady, Core.readsOut_mono (State.fence_waiters hlt) hreads])
  rw [State.fenceSettle_one hgi (fun j hj => State.setWaits_others hnone _ hj) fun j => ?_, hblocked]
  rw [hblocked]
  by_cases hj : j = gi
  · rw [hj, hblocked]
  · exact State.fenceStep_idle (State.setWaits_others hnone _ hj)

/-- A fence of cluster scope with no access before it completes at once (R177). -/
theorem State.fence_completes (hgi : gi < 16) (hlt : ∀ k ∈ act, k < 32) (hact : act ≠ [])
    (hnone : ∀ j, ((s.core l).group j).fenceWaiters = []) (hout : (s.core l).outst = []) (hstores : s.fabWaits (.store l) = false) :
    let u := s.setWaits l gi act (.fence 0)
    u.fenceSettle l = (u.l1Clear l).setWaits l gi ((u.core l).group gi).fenceWaiters .none := by
  intro u
  have hwaiters : ((u.core l).group gi).fenceWaiters ≠ [] := fun hnil =>
    hact (List.subset_nil.1 (hnil ▸ State.fence_waiters hlt))
  have hready : u.releaseReady l gi ((u.core l).group gi).fenceWaiters = true := by
    have hu : (u.core l).outst = [] := (s.setWaits_core l gi act (.fence 0)).2.trans hout
    have hfab : u.fabWaits (.store l) = false := hstores
    simp [State.releaseReady, Core.readsOut, hu, hfab]
  have hscope : ((u.core l).group gi).fenceScope = 0 := by
    refine Group.fenceScope_eq_zero fun k hk y hy => ?_
    rw [State.setWaits_wait] at hy
    split at hy
    · exact (WaitReason.fence.inj hy).symm
    · exact absurd hy ((Group.fenceWaiters_eq_nil _).1 (hnone gi) k hk y)
  have hstep := State.fenceStep_over hwaiters hready hscope
  rw [State.fenceSettle_one hgi (fun j hj => State.setWaits_others hnone _ hj) fun j => ?_, hstep]
  rw [hstep]
  refine State.fenceStep_idle ((Group.fenceWaiters_eq_nil _).2 fun k hk y hy => ?_)
  rw [State.setWaits_wait, State.l1Clear_core] at hy
  split at hy
  · cases hy
  · next hout =>
    have hwait : k ∈ ((u.core l).group j).fenceWaiters := Group.mem_fenceWaiters.2 ⟨hk, y, hy⟩
    by_cases hj : j = gi
    · exact hout ⟨hj, hj ▸ hwait⟩
    · rw [State.setWaits_others hnone _ hj] at hwait
      cases hwait

end Fence

end Sys2Proof.Machine

open Sys2Proof Sys2Proof.Machine

/-- Settles O15: PREF fills the L1 from the cluster cache's copy, and of all groups only that of the fence has a fence to settle. -/
theorem cacheInstructionsComplete : Obligations.CacheInstructionsComplete := by
  unfold Obligations.CacheInstructionsComplete
  intro none_
  refine ⟨fun s site h f c (hi : Issues s site h (f.addrNeeds h) c) => ⟨_, (exec_pref ..).trans (hi.issue_eq _), fun hnone => ?prefNone,
      fun k a x hact haccess hmiss hhit hwhole hlost => ?prefHit⟩,
    fun s site h f c (hi : Issues s site h (f.addrNeeds h) c) => ⟨_, (exec_unpin ..).trans (hi.issue_eq _), fun hfail hnone => ?unpinNone,
      fun st hst => ?unpinTrap⟩,
    fun s site h f c (hi : Issues s site h memNeeds c) => ⟨_, (exec_invL1 ..).trans (hi.issue_eq _), ?invL1, ?invPackage,
      fun r k => ?invRegs⟩,
    fun s site h f c (hi : Issues s site h memNeeds c) => ⟨_, (exec_fence ..).trans (hi.issue_eq _), fun hact => ?fenceIdle,
      fun hgi hfences hact => ⟨fun hout => ?fenceWaits, fun hover hstores hscope => ?fenceOver⟩⟩⟩
  case prefNone =>
    rw [FmtM.pref_none (s := s.retire c (f.addrNeeds h)) hnone]
    exact retire_only hi.ctx _
  case prefHit =>
    have hmiss' : ((s.retire c (f.addrNeeds h)).core c.l).l1Line a = none := by
      rw [← hmiss, Core.l1Line, Core.l1At, retire_l1 hi.ctx]
      rfl
    have hpref := (FmtM.pref_one (s := s.retire c (f.addrNeeds h)) hact haccess).trans
      (State.prefetch_hit hmiss' hhit hwhole hlost _ _ _)
    have hwork : CacheWork c.l (s.retire c (f.addrNeeds h)) (f.pref c (s.retire c (f.addrNeeds h))) := by
      rw [hpref]
      exact (State.ccCount_work _ c.l _ _).trans (State.l1Fill_work _ c.l a _)
    obtain ⟨hlm, hgroups, -, htask⟩ := hwork.data
    refine ⟨?_, htask.trans (retire_task hi.ctx _ c.l), hlm.trans (s.retire_sameData c _ c.l).lm, fun r k => ?_,
      hwork.slices, hwork.mem⟩
    · rw [hpref, State.modCore_core, if_pos rfl]
      exact Core.l1Fill_l1Line _ a x.bytes
    · rw [← retire_v hi.ctx (f.addrNeeds h) r k]
      simp only [State.ctxGroup, Core.group, hgroups]
  case unpinNone =>
    rw [FmtM.unpin_none (s := s.retire c (f.addrNeeds h)) hfail hnone]
    exact retire_only hi.ctx _
  case unpinTrap =>
    rw [FmtM.unpin, orTrap_trap (l := f.unpinAccesses c (s.retire c (f.addrNeeds h))) hst]
    exact trapAt_traps hi.ctx _ _ _ _
  case invL1 =>
    by_cases hact : c.act = []
    · simp [hact, retire_l1 hi.ctx]
    · simp [hact, State.l1Clear]
  case invPackage =>
    have hretire := (retire_only hi.ctx memNeeds).package
    split <;> exact hretire
  case invRegs =>
    rw [← retire_v hi.ctx memNeeds r k]
    split
    · rfl
    · simp [State.l1Clear, State.ctxGroup, Core.group]
  case fenceIdle =>
    rw [FmtS.fence, hact]
    exact retire_only hi.ctx _
  case fenceWaits =>
    rw [FmtS.fence_act hact, State.fence_blocked hgi (fun k hk => ctx?_act_lt hi.ctx hk) (retire_fenceWaiters hi.ctx memNeeds hfences)
      (by rw [Core.readsOut, retire_outst hi.ctx]; exact hout)]
    refine ⟨fun k hk => ?_, fun r k => ?_⟩
    · rw [State.ctxGroup, State.setWaits_wait, if_pos ⟨rfl, hk⟩]
    · rw [← retire_v hi.ctx memNeeds r k]
      exact congrArg (look 0 · (r * 32 + k)) (State.setWaits_sameButWaits _ c.l c.gi c.act _ c.gi).regs.1
  case fenceOver =>
    have hlt : ∀ k ∈ c.act, k < 32 := fun k hk => ctx?_act_lt hi.ctx hk
    have hzero : f.scope.toNat = 0 := by rw [hscope]; rfl
    have hnone := retire_fenceWaiters hi.ctx memNeeds hfences
    have hout : ((s.retire c memNeeds).core c.l).outst = [] := by rw [retire_outst hi.ctx, hover]
    rw [FmtS.fence_act hact, hzero, State.fence_completes hgi hlt hact hnone hout hstores]
    refine ⟨fun k hk => ?_, ?_, fun r k => ?_⟩
    · rw [State.ctxGroup, State.setWaits_wait, if_pos ⟨rfl, State.fence_waiters hlt hk⟩]
    · rw [State.setWaits_l1, State.l1Clear_core]
    · rw [← retire_v hi.ctx memNeeds r k]
      have hwaits := (State.setWaits_sameButWaits (s.retire c memNeeds) c.l c.gi c.act (.fence 0) c.gi).regs.1
      have hclear := (State.setWaits_sameButWaits (((s.retire c memNeeds).setWaits c.l c.gi c.act (.fence 0)).l1Clear c.l) c.l c.gi
        ((((s.retire c memNeeds).setWaits c.l c.gi c.act (.fence 0)).core c.l).group c.gi).fenceWaiters .none c.gi).regs.1
      rw [State.l1Clear_core] at hclear
      exact congrArg (look 0 · (r * 32 + k)) (hclear.trans hwaits)
end

section
/-! PROOF. The tile mover's operations (R174, R205 to R214, Table 06.7). -/

namespace Sys2Proof.Machine

/-! ### An entry whose turn it is -/

/-- Entry `i` of core `l`'s tile mover, of the task `τ`, can run: its turn has come, the tile mover is on and no pre-emption is
requested (R206). -/
structure TmReady (s : State) (l i : Nat) (e : TmEntry) (τ : Task) : Prop where
  /-- there is such a core -/
  core : l < 512
  /-- its cluster is active -/
  runs : s.arraysRun l = true
  /-- the tile mover is on -/
  on : (s.cluster (s.clusterOf l)).tileMover = true
  /-- the entry -/
  entry : (s.core l).tm[i]? = some e
  /-- the running task -/
  task : (s.core l).task = some τ
  /-- the entry's turn -/
  turn : (s.core l).tmTurn i = true
  /-- no pre-emption -/
  still : (s.core l).urgent = none

section Ready

variable {s : State} {l i n : Nat} {e : TmEntry} {τ : Task} {ops : Nat → Bool}

/-- The state after the checks of an entry that starts, or its next units where it has started (R206, R211). -/
def State.tmRun (s : State) (l : Nat) (e : TmEntry) (τ : Task) (n : Nat) : State :=
  if e.started then s.tmMove l e.id τ n
  else match tmChecks e.desc (if τ.gang.isSome then τ.members else 1) with
    | c :: cs => s.trapDescs l e.group (c :: cs)
    | [] => (s.onTm l e.id fun x => { x with started := true }).tmMove l e.id τ n

theorem TmReady.tileMove_eq (h : TmReady s l i e τ) (hop : ops (tmOp e.desc) = true) :
    tileMove ops l i n s = .next (s.tmRun l e τ n) := by
  obtain ⟨hl, hruns, hon, hentry, htask, hturn, hstill⟩ := h
  simp only [tileMove, unit, need, if_pos hl, hruns, hon, Bool.and_self, if_true, hentry, htask, hturn, hop, hstill,
    Option.isNone_none, State.tmRun]
  split
  · rfl
  · cases tmChecks e.desc (if τ.gang.isSome = true then τ.members else 1) <;> rfl

/-- A descriptor that fails checks as it starts traps the task with the worst status (R211). -/
theorem State.tmRun_halts (hnew : e.started = false) {st : BitVec 8}
    (hbad : worstOf (tmChecks e.desc (if τ.gang.isSome then τ.members else 1)) = some st) :
    s.Halts l st (s.tmRun l e τ n) := by
  rw [State.tmRun, hnew, if_neg Bool.false_ne_true]
  split
  · next c cs hchecks =>
    rw [hchecks] at hbad
    exact State.trapDescs_halts hbad s l e.group
  · next hchecks =>
    rw [hchecks] at hbad
    cases hbad

/-- What a tile-mover operation does with an entry of its OP. -/
theorem TmReady.completes (h : TmReady s l i e τ) (hop : ops (tmOp e.desc) = true) :
    (∃ t, tileMove ops l i n s = .next t) ∧
    ∀ st, e.started = false → worstOf (tmChecks e.desc (if τ.gang.isSome then τ.members else 1)) = some st →
      ∃ t, tileMove ops l i n s = .next t ∧ (t.core l).task = some { τ with phase := .trapped, status := worse τ.status st } ∧
        (t.core l).lm = (s.core l).lm ∧ t.mem = s.mem := by
  refine ⟨⟨_, h.tileMove_eq hop⟩, fun st hnew hbad => ⟨_, h.tileMove_eq hop, ?_⟩⟩
  have hhalts := State.tmRun_halts (s := s) (l := l) (n := n) hnew hbad
  exact ⟨by rw [hhalts.core.task, h.task]; rfl, (hhalts.data l).lm, hhalts.memory.1⟩

end Ready

/-! ### One row -/

/-- Bytes none of which is undefined stand as they are; the free values that were drawn for them are not used. -/
theorem State.freeWhere_none (s : State) {bs : List Byte} {p : Nat → Bool} (h : ∀ i, i < bs.length → p i = false) :
    s.freeWhere bs p = (bs, { s with free := s.free + bs.length }) := by
  refine Prod.ext (List.ext_getElem (by simp [State.freeWhere]) fun i _ hi => ?_) rfl
  simp [State.freeWhere, h i hi]

theorem State.tmPutLocal_work (s : State) (l : Nat) (d : BitVec 512) (self : Bool) (a : Nat) (bs : List Byte) :
    ArrayWork l s (s.tmPutLocal l d self a bs) := by
  let out := (s.freeWhere bs fun i => tmUndefined d self (a + i)).1
  exact (ArrayWork.of_free l s (s.free + bs.length)).trans (.of_modCore l _ (g := fun c => c.lmWrite a out) fun _ => rfl)

theorem State.tmPutLocal_lm (s : State) {l : Nat} {d : BitVec 512} {self : Bool} {a : Nat} {bs : List Byte}
    (h : ∀ p, a ≤ p → p < a + bs.length → tmUndefined d self p = false) :
    ((s.tmPutLocal l d self a bs).core l).lm = putBytes (s.core l).lm a bs := by
  rw [State.tmPutLocal, State.freeWhere_none s fun i hi => h (a + i) (Nat.le_add_right a i) (Nat.add_lt_add_left hi a)]
  dsimp only
  rw [State.modCore_core, if_pos rfl]
  rfl

/-- Entries changed, and nothing else of any core. -/
theorem State.onTm_core (s : State) (l id : Nat) (g : TmEntry → TmEntry) (j : Nat) :
    { (s.onTm l id g).core j with tm := (s.core j).tm } = s.core j := by
  rw [State.onTm, State.modCore_core]
  split
  · next hj => rw [hj]
  · rfl

/-- An entry one unit further. -/
def TmEntry.advance (d : BitVec 512) (x : TmEntry) : TmEntry :=
  { x with byte := x.byte + 1, finished := decide (tmUnits d ≤ x.byte + 1) }

/-- One unit of an entry that meets no failure and has nothing to wait for. -/
theorem State.tmMove_one {s u : State} {l : Nat} {e : TmEntry} {τ : Task}
    (hfind : (s.core l).tm.find? (fun x => x.id == e.id) = some e) (hopen : e.finished = false) (hholds : s.tmHolds l τ e.desc = false)
    (hunit : s.tmUnit l τ e e.byte = { s := u }) (htask : (u.core l).task = some τ) (hvoid : τ.twinVoid = false) :
    s.tmMove l e.id τ 1 = u.onTm l e.id (TmEntry.advance e.desc) := by
  have hkeep : ((u.onTm l e.id (TmEntry.advance e.desc)).core l).task = some τ := by
    have hcore := congrArg Core.task (u.onTm_core l e.id (TmEntry.advance e.desc) l)
    exact hcore.trans htask
  unfold TmEntry.advance at hkeep ⊢
  simp only [State.tmMove, hfind, hopen, hholds, hunit, hkeep, hvoid]
  rfl

/-- The row of an LFILL: its fill word over and over (Table 06.7). -/
theorem look_fillRow (w n i : Nat) (hi : i < 4 * n) :
    ((List.replicate n (bytesOf 4 w)).flatten).getD i 0 = (bytesOf 4 w).getD (i % 4) 0 := by
  induction n generalizing i with
  | zero => omega
  | succ n ih =>
    rw [List.replicate_succ, List.flatten_cons]
    by_cases h : i < 4
    · rw [List.getD_append _ _ _ _ (by rw [bytesOf_length]; exact h), Nat.mod_eq_of_lt h]
    · rw [List.getD_append_right _ _ _ _ (by rw [bytesOf_length]; omega), bytesOf_length, ih _ (by omega),
        ← Nat.mod_eq_sub_mod (by omega)]

theorem fillRow_length (w n : Nat) : ((List.replicate n (bytesOf 4 w)).flatten).length = 4 * n := by
  simp [bytesOf_length, Nat.mul_comm]

/-- An entry whose turn it is has units left. -/
theorem Core.tmTurn_open {c : Core} {i : Nat} {e : TmEntry} (hentry : c.tm[i]? = some e) (h : c.tmTurn i = true) :
    e.finished = false := by
  simp only [Core.tmTurn, hentry, Bool.and_eq_true, Bool.not_eq_true'] at h
  exact h.1

/-- One row of a started entry that writes the local memory of core `m`. -/
theorem TmReady.moves {s u : State} {l i m : Nat} {e : TmEntry} {τ : Task} {ops : Nat → Bool} (h : TmReady s l i e τ)
    (hop : ops (tmOp e.desc) = true) (hstarted : e.started = true) (hfind : (s.core l).tm.find? (fun x => x.id == e.id) = some e)
    (hvoid : τ.twinVoid = false) (hholds : s.tmHolds l τ e.desc = false) (hunit : s.tmUnit l τ e e.byte = { s := u })
    (hwork : ArrayWork m s u) : tileMove ops l i 1 s = .next (u.onTm l e.id (TmEntry.advance e.desc)) := by
  have htask : (u.core l).task = some τ := by
    rw [← h.task]
    by_cases hl : l = m
    · subst hl
      exact hwork.task
    · rw [hwork.cores l hl]
  rw [h.tileMove_eq hop, State.tmRun, if_pos hstarted,
    State.tmMove_one hfind (Core.tmTurn_open h.entry h.turn) hholds hunit htask hvoid]

/-- What a row leaves with its entry one unit further: everything outside the cores, the local memories, and other cores. -/
theorem ArrayWork.onTm {s u : State} {m : Nat} (h : ArrayWork m s u) (l id : Nat) (g : TmEntry → TmEntry) :
    { u.onTm l id g with cores := s.cores, free := s.free } = s ∧ (∀ j, ((u.onTm l id g).core j).lm = (u.core j).lm) ∧
    ∀ j, j ≠ m → j ≠ l → (u.onTm l id g).core j = s.core j := by
  refine ⟨h.package, fun j => ?_, fun j hm hl => ?_⟩
  · have hlm := congrArg Core.lm (u.onTm_core l id g j)
    exact hlm
  · rw [State.onTm, State.modCore_core, if_neg hl, h.cores j hm]

theorem look_bytesAt (f : Nat → Byte) (a n : Nat) {i : Nat} (hi : i < n) : (bytesAt f a n).getD i 0 = f (a + i) := by
  simp [bytesAt, hi]

/-- The one row of an LCOPY that converts nothing and has no scales (Table 06.7). -/
theorem State.tmLcopy_plain {s : State} {l : Nat} {τ : Task} {e : TmEntry} (hconv : tmConv e.desc = false)
    (hscaled : (tmSrc e.desc).scaled = false) (i : Nat) :
    let bs := (s.core l).lmRead (tmL e.desc i) ((tmSrc e.desc).rowBytes (tmInner e.desc))
    let m := s.tmDest l τ e.desc
    s.tmLcopy l τ e i = { s := s.tmPutLocal m e.desc (m == l) (tmL2 e.desc i) bs } := by
  simp [State.tmLcopy, State.tmLocalRow, tmConvert, tmDst, hconv, hscaled]

/-! ### Completion -/

/-- A core whose finished entry leaves the tile mover (R205). -/
def Core.tmDone (c : Core) (i : Nat) (e : TmEntry) : Core :=
  ({ c with tm := c.tm.eraseIdx i }.modGroup e.group fun g => g.tokDone e.tok).wakeHeld

theorem tmCompletion_next {s : State} {l i : Nat} {e : TmEntry} (hl : l < 512) (hentry : (s.core l).tm[i]? = some e)
    (hfinished : e.finished = true) (hstores : s.fabWaits (.tm l e.id) = false) :
    exec (.tmCompletion l i) s = .next ((s.fabForget (.tm l e.id)).modCore l fun c => c.tmDone i e) := by
  have hexec : exec (.tmCompletion l i) s = execTmCompletion l i s := rfl
  simp only [hexec, execTmCompletion, unit, need, if_pos hl, hentry, hfinished, hstores, Bool.not_false, Bool.and_self, if_true]
  rfl

theorem Core.tmDone_keeps {α : Type} {π : Core → α} (hg : ∀ c i g, π (Core.modGroup c i g) = π c) (c : Core) (i : Nat)
    (e : TmEntry) : π (c.tmDone i e) = π { c with tm := c.tm.eraseIdx i } :=
  (Core.wakeHeld_keeps hg _).trans (hg _ _ _)

theorem Core.tmDone_tok (c : Core) (i : Nat) (e : TmEntry) (j : Nat) :
    ((c.tmDone i e).group e.group).tok j = (c.group e.group).tok j - if j = e.tok then 1 else 0 := by
  rw [Core.tmDone, Core.wakeHeld_group (π := fun g => g.tok j) fun _ => rfl, Core.modGroup_group, if_pos rfl]
  exact Group.tokDone_tok _ _ j

end Sys2Proof.Machine

open Sys2Proof Sys2Proof.Machine

/-- Settles O28: every operation is `tileMove` for its OP; a row of LFILL or LCOPY is one write of local memory, of which no byte is
undefined. -/
theorem tileMoverOperations : Obligations.TileMoverOperations := by
  unfold Obligations.TileMoverOperations
  intro ready completes moves
  have hready {s : State} {l i op : Nat} {e : TmEntry} {τ : Task} (h : ready s l i op e τ) : TmReady s l i e τ ∧ tmOp e.desc = op :=
    let ⟨hl, hruns, hon, hentry, htask, hturn, hstill, hop⟩ := h
    ⟨⟨hl, hruns, hon, hentry, htask, hturn, hstill⟩, hop⟩
  have hcompletes {op : Nat} {mk : Nat → Nat → Nat → Instr} {ops : Nat → Bool} {units : Nat → Nat}
      (hexec : ∀ l i n s, exec (mk l i n) s = tileMove ops l i (units n) s) (hop : ops op = true) : completes op mk := by
    intro s l i n e τ h
    obtain ⟨hrun, rfl⟩ := hready h
    rw [hexec]
    exact hrun.completes hop
  refine ⟨hcompletes (ops := fun op => op == 0 || decide (6 ≤ op)) (units := id) (fun _ _ _ _ => rfl) rfl,
    hcompletes (ops := (· == 1)) (units := id) (fun _ _ _ _ => rfl) rfl,
    hcompletes (ops := (· == 2)) (units := id) (fun _ _ _ _ => rfl) rfl,
    hcompletes (ops := (· == 3)) (units := fun _ => 0) (fun _ _ _ _ => rfl) rfl,
    hcompletes (ops := (· == 3)) (units := fun _ => 1) (fun _ _ _ _ => rfl) rfl,
    hcompletes (ops := (· == 4)) (units := id) (fun _ _ _ _ => rfl) rfl,
    hcompletes (ops := (· == 5)) (units := id) (fun _ _ _ _ => rfl) rfl,
    fun s l i e τ hmoves => ?lfill, fun s l i e τ hmoves hconv hscaled => ?lcopy,
    fun s l i e hl hentry hfinished hstores hgroup => ?completion⟩
  case lfill =>
    obtain ⟨h, hstarted, hfind, hvoid⟩ := hmoves
    obtain ⟨hrun, hop⟩ := hready h
    intro a n hdefined
    have hlength := fillRow_length (fld e.desc 480 32) (tmInner e.desc)
    have hunit : s.tmUnit l τ e e.byte = s.tmLfill l e.desc e.byte := by simp only [State.tmUnit, hop]
    have hholds : s.tmHolds l τ e.desc = false := by simp [State.tmHolds, hop]
    have hwork := s.tmPutLocal_work l e.desc true a ((List.replicate (tmInner e.desc) (bytesOf 4 (fld e.desc 480 32))).flatten)
    have hlm := s.tmPutLocal_lm (l := l) (d := e.desc) (self := true) (a := a)
      (bs := (List.replicate (tmInner e.desc) (bytesOf 4 (fld e.desc 480 32))).flatten) (by rw [hlength]; exact hdefined)
    obtain ⟨hpackage, hmem, hcores⟩ := hwork.onTm l e.id (TmEntry.advance e.desc)
    refine ⟨_, hrun.moves (ops := (· == 5)) (by simp [hop]) hstarted hfind hvoid hholds hunit hwork, fun p => ?_, hpackage,
      fun j hj => hcores j hj hj⟩
    rw [hmem, hlm, look_putBytes, hlength]
    split
    · next hp => exact look_fillRow _ _ _ (by omega)
    · rfl
  case lcopy =>
    obtain ⟨h, hstarted, hfind, hvoid⟩ := hmoves
    obtain ⟨hrun, hop⟩ := hready h
    intro m a n hframe hdefined
    have hlength : ((s.core l).lmRead (tmL e.desc e.byte) n).length = n := by simp [Core.lmRead, bytesAt]
    have hunit : s.tmUnit l τ e e.byte = s.tmLcopy l τ e e.byte := by simp only [State.tmUnit, hop]
    rw [State.tmLcopy_plain hconv hscaled] at hunit
    have hholds : s.tmHolds l τ e.desc = false := by
      have hdest : (s.core (s.tmDest l τ e.desc)).frame = none := hframe
      simp [State.tmHolds, hdest]
    have hwork := s.tmPutLocal_work m e.desc (m == l) a ((s.core l).lmRead (tmL e.desc e.byte) n)
    have hlm := s.tmPutLocal_lm (l := m) (bs := (s.core l).lmRead (tmL e.desc e.byte) n) (by rw [hlength]; exact hdefined)
    obtain ⟨hpackage, hmem, -⟩ := hwork.onTm l e.id (TmEntry.advance e.desc)
    refine ⟨_, hrun.moves (ops := (· == 2)) (by simp [hop]) hstarted hfind hvoid hholds hunit hwork, fun p => ?_, hpackage,
      fun j hj => ?_⟩
    · rw [hmem, hlm, look_putBytes, hlength]
      split
      · next hp => exact look_bytesAt _ _ _ (by omega)
      · rfl
    · rw [hmem, hwork.cores j hj]
  case completion =>
    refine ⟨_, tmCompletion_next hl hentry hfinished hstores, ?_, fun j => ?_, ?_, rfl⟩
    · rw [State.modCore_core, if_pos rfl]
      exact Core.tmDone_keeps (π := Core.tm) (fun _ _ _ => rfl) _ i e
    · rw [State.modCore_core, if_pos rfl]
      exact Core.tmDone_tok _ i e j
    · rw [State.modCore_core, if_pos rfl]
      exact Core.tmDone_keeps (π := Core.lm) (fun _ _ _ => rfl) _ i e
end

section
/-! PROOF. A message of the directory protocol on its way: what takes it from the network or sends it changes the network alone
(R236, R295, R296). -/

namespace Sys2Proof.Machine

theorem State.netRun_sameButNet (id fuel : Nat) (s : State) : s.SameButNet (s.netRun id fuel) := by
  induction fuel generalizing s with
  | zero => exact .refl s
  | succ fuel ih =>
    unfold State.netRun
    split
    · dsimp only
      split
      · exact .refl s
      · exact s.netTick_sameButNet.trans (ih _)
    · exact .refl s

theorem State.unsend_sameButNet (s : State) (m : CohMsg) : s.SameButNet (s.unsend m) := by
  unfold State.unsend
  split
  · exact .refl s
  · exact (State.netRun_sameButNet _ _ s).trans (State.onNet_sameButNet _ _)

theorem State.sendAs_sameButNet (s : State) (cls : Nat) (m : CohMsg) : s.SameButNet (s.sendAs cls m) := s.netSend_sameButNet _

theorem State.SameButNet.cc {s t : State} (h : s.SameButNet t) (cl line : Nat) : t.cc cl line = s.cc cl line :=
  h.field (fun x => x.cc cl line) fun _ => rfl

theorem State.SameButNet.dirEnt {s t : State} (h : s.SameButNet t) (line : Nat) : t.dirEnt line = s.dirEnt line :=
  h.field (fun x => x.dirEnt line) fun _ => rfl

theorem State.SameButNet.homeData {s t : State} (h : s.SameButNet t) (line : Nat) : t.homeData line = s.homeData line :=
  h.field (fun x => x.homeData line) fun _ => rfl

theorem State.netSend_coh (s : State) {n : NetMsg} {m : CohMsg} (h : n.coh = some m) : m ∈ (s.netSend n).net.coh := by
  simp [State.netSend, State.netPush, Net.coh, h]

/-- A message sent is in flight. -/
theorem State.sendAs_coh (s : State) (cls : Nat) (m : CohMsg) : m ∈ (s.sendAs cls m).net.coh := s.netSend_coh rfl

/-! ### Arrival (R296) -/

theorem arrive_next {s : State} {m : CohMsg} (hflies : m ∈ s.net.coh) (hfirst : s.firstInFlow m = true) :
    arrive m s = .next ((s.unblock m.line).deliver m) := by
  simp [arrive, need, hflies, hfirst]

theorem State.unblock_eq {s : State} {line : Nat} (h : s.blocker line = none) : s.unblock line = s := by
  simp [State.unblock, h]

/-- A command that is the arrival of a message delivers it; where no other line's transaction stands in the
way it does no more. -/
theorem exec_delivers {s : State} {m : CohMsg} {i : Instr} (hexec : exec i s = arrive m s) (hflies : m ∈ s.net.coh)
    (hfirst : s.firstInFlow m = true) {p : State → Prop} (hp : p (s.deliver m)) :
    ∃ t, exec i s = .next t ∧ (s.blocker m.line = none → p t) :=
  ⟨_, hexec.trans (arrive_next hflies hfirst), fun hblocker => by rwa [State.unblock_eq hblocker]⟩

theorem exec_invalidation (line cl : Nat) (s : State) : exec (.invalidation line cl) s = arrive (.inv line cl) s := by rfl

theorem exec_recallLine (line cl : Nat) (keep : Bool) (s : State) :
    exec (.recallLine line cl keep) s = arrive (.recall line cl keep) s := by rfl

theorem exec_acknowledgement (line cl : Nat) (s : State) : exec (.acknowledgement line cl) s = arrive (.ack line cl) s := by rfl

theorem exec_grant (line cl : Nat) (s : State) : exec (.grant line cl) s = arrive (.grant line cl) s := by rfl

theorem exec_ownCompletion (line cl : Nat) (s : State) : exec (.ownCompletion line cl) s = arrive (.done line cl) s := by rfl

end Sys2Proof.Machine
end

section
/-! PROOF. What the messages of the directory protocol and evictions do to a cluster cache's copy (R192, R234, R236, R237). -/

namespace Sys2Proof.Machine

/-! ### The copy of a line -/

theorem State.cc_line {s : State} {cl line : Nat} {x : CcLine} (h : s.cc cl line = some x) : x.line = line := by
  simpa using List.find?_some h

/-- Without the entries of one key, a search by key finds nothing at it, and what it found at every other. -/
theorem find?_filter_key_ne {α : Type} (key : α → Nat) (ls : List α) (i j : Nat) :
    (ls.filter fun y => key y != i).find? (fun y => key y == j) = if j = i then none else ls.find? fun y => key y == j := by
  rw [List.find?_filter]
  by_cases hj : j = i
  · simp [hj]
  · rw [if_neg hj]
    congr 1
    funext y
    by_cases hy : key y = j <;> simp [hy, hj]

/-- A line dropped from a cluster cache is found no more, and no other lookup changes. -/
theorem State.putCc_none_cc (s : State) (cl line k j : Nat) :
    (s.putCc cl line none).cc k j = if k = cl ∧ j = line then none else s.cc k j := by
  unfold State.putCc State.cc
  rw [State.modCluster_cluster]
  by_cases hk : k = cl
  · subst hk
    rw [if_pos rfl, Cluster.ccLines]
    by_cases hset : ccSet j = ccSet line
    · rw [hset, look_put_same, find?_filter_key_ne CcLine.line, Cluster.ccLines]
      exact if_congr (by simp) rfl rfl
    · have hj : j ≠ line := fun e => hset (e ▸ rfl)
      rw [look_put_ne _ _ _ _ hset, if_neg (by simp [hj])]
      rfl
  · rw [if_neg hk, if_neg (by simp [hk])]

/-! ### Copies given up (R234, R236) -/

/-- A clean copy given up ends, or stays in S with its bytes. -/
theorem State.ccYield_clean {s : State} {cl line : Nat} {x : CcLine} (hx : s.cc cl line = some x)
    (hst : x.st = .exclusive ∨ x.st = .shared) (wb keep : Bool) :
    (s.ccYield cl line wb keep).cc cl line =
      if keep then some { x with st := .shared, dirty := 0, atDie := false, atPkg := false } else none := by
  have hpend : x.st ≠ .pend := by rcases hst with h | h <;> simp [h]
  have hclean : (x.st == .modified) = false := by rcases hst with h | h <;> simp [h]
  obtain rfl := State.cc_line hx
  simp only [State.ccYield, hx, hclean, Bool.and_false, Bool.false_eq_true, if_false, if_neg hpend]
  cases keep
  · simp [State.putCc_none_cc]
  · simp [State.putCc_cc]

theorem State.takeInv_cc {s : State} {cl line : Nat} {x : CcLine} (hx : s.cc cl line = some x) (hst : x.st = .shared) :
    (s.takeInv line cl).cc cl line = none := by
  rw [State.takeInv, (State.sendAs_sameButNet _ _ _).cc, State.ccYield_clean hx (.inr hst)]
  rfl

theorem State.takeRecall_cc {s : State} {cl line : Nat} {x : CcLine} (hx : s.cc cl line = some x)
    (hst : x.st = .exclusive ∨ x.st = .shared) (keep : Bool) :
    (s.takeRecall line cl keep).cc cl line =
      if keep then some { x with st := .shared, dirty := 0, atDie := false, atPkg := false } else none := by
  rw [State.takeRecall, (State.sendAs_sameButNet _ _ _).cc, State.ccYield_clean hx hst]

/-! ### Ownership (R192, R237) -/

theorem look_overlay (base d : SMap Byte) (mask : BitVec 256) {o : Nat} (ho : o < 256) :
    look 0 (overlay base d mask) o = if bitAt mask o then look 0 d o else look 0 base o := by
  have hrange (n : Nat) :
      look 0 ((List.range n).foldl (fun b o => if bitAt mask o then put 0 b o (look 0 d o) else b) base) o =
        if o < n ∧ bitAt mask o = true then look 0 d o else look 0 base o := by
    induction n with
    | zero => simp
    | succ n ih =>
      rw [List.range_succ, List.foldl_append, List.foldl_cons, List.foldl_nil]
      by_cases ho : o = n
      · subst ho
        by_cases hbit : bitAt mask o = true
        · simp [hbit]
        · simpa [hbit] using ih
      · have hiff : (o < n + 1 ∧ bitAt mask o = true) ↔ (o < n ∧ bitAt mask o = true) := by
          rw [show o < n + 1 ↔ o < n by omega]
        split
        · rw [look_put_ne _ _ _ _ ho, ih, if_congr hiff rfl rfl]
        · rw [ih, if_congr hiff rfl rfl]
  rw [overlay, hrange 256]
  simp [ho]

/-- The copy of a pending line as its grant brings the home's data. -/
def CcLine.granted (x : CcLine) (home : SMap Byte) : CcLine :=
  { x with st := .modified, bytes := overlay home x.bytes x.dirty, atDie := true, loggers := [], asked := false }

theorem CcLine.look_granted (x : CcLine) (home : SMap Byte) {o : Nat} (ho : o < 256) :
    look 0 (x.granted home).bytes o = if x.dirty.getLsbD o then look 0 x.bytes o else look 0 home o := by
  have hbit : x.dirty.getLsbD o = bitAt x.dirty o := rfl
  rw [CcLine.granted, look_overlay _ _ _ ho, hbit]

theorem State.clearLost_cc (s : State) (l : Nat) (covers : Nat → Bool) (cl line : Nat) :
    (s.clearLost l covers).cc cl line = s.cc cl line := rfl

theorem State.takeGrant_cc {s : State} {cl line : Nat} {x : CcLine} (hx : s.cc cl line = some x) (hst : x.st = .pend)
    (hlog : x.loggers = []) : (s.takeGrant line cl).cc cl line = some (x.granted (s.homeData line)) := by
  have htake : s.takeGrant line cl = (s.putCc cl line (some (x.granted (s.homeData line)))).clearLost line (bitAt x.dirty) := by
    simp [State.takeGrant, hx, hst, hlog, CcLine.granted]
  obtain rfl := State.cc_line hx
  rw [htake, State.clearLost_cc, State.putCc_cc, if_pos ⟨rfl, rfl⟩]
  simp [CcLine.granted]

theorem State.takeDone_cc {s : State} {cl line : Nat} {x : CcLine} (hx : s.cc cl line = some x) :
    (s.takeDone line cl).cc cl line = some { x with atPkg := true } := by
  obtain rfl := State.cc_line hx
  simp [State.takeDone, hx, State.putCc_cc]

end Sys2Proof.Machine
end

section
/-! PROOF. An acknowledgement counted at the home slice (R236, R237, R238). -/

namespace Sys2Proof.Machine

theorem State.dirEnt_line {s : State} {line : Nat} {e : DirEnt} (h : s.dirEnt line = some e) : e.line = line := by
  simpa using List.find?_some h

/-- A directory entry set is the one that is found. -/
theorem State.putDir_dirEnt (s : State) (e : DirEnt) : (s.putDir e).dirEnt e.line = some e := by
  have hhome : (s.putDir e).homeOfLine e.line = s.homeOfLine e.line := rfl
  rw [State.dirEnt, hhome, State.putDir, State.modSlice_slice, if_pos rfl, Slice.putDir, Slice.dirFind, look_put_same,
    List.find?_append, find?_filter_key_ne DirEnt.line]
  simp

/-- What leaves every slice's directory alone leaves the entry of a line. -/
theorem State.modHome_dirEnt (s : State) (l : Nat) {g : Slice → Slice} (hg : ∀ sl, (g sl).dir = sl.dir) (line : Nat) :
    (s.modHome l g).dirEnt line = s.dirEnt line := by
  have hhome : (s.modHome l g).homeOfLine line = s.homeOfLine line := rfl
  have hdir (k : Nat) : ((s.modHome l g).slice k).dir = (s.slice k).dir := by
    rw [State.modHome, State.modSlice_slice]
    split
    · next h => rw [hg, h]
    · rfl
  rw [State.dirEnt, hhome, Slice.dirFind, hdir]
  rfl

/-- An acknowledgement that is not the last one takes its cluster from those that the open transaction waits for. -/
theorem State.takeAck_dirEnt {s : State} {line cl : Nat} {e : DirEnt} {w : Txn} (he : s.dirEnt line = some e) (hw : e.txn = some w)
    (hmore : w.waiting.erase cl ≠ []) :
    ∃ v, (s.takeAck line cl).dirEnt line = some { e with txn := some v } ∧ v.waiting = w.waiting.erase cl := by
  have hempty : (w.waiting.erase cl).isEmpty = false := by simpa using hmore
  have hput (u : State) (v : Txn) : (u.putDir { e with txn := some v }).dirEnt line = some { e with txn := some v } := by
    rw [← State.dirEnt_line he]
    exact u.putDir_dirEnt { e with txn := some v }
  simp only [State.takeAck, he, hw, hempty, Bool.false_eq_true, if_false]
  split <;> exact ⟨_, hput _ _, rfl⟩

end Sys2Proof.Machine
end

section
/-! PROOF. A modified line written back to a home slice that holds it (R217, R222, R234). -/

namespace Sys2Proof.Machine

/-! ### The home of a line (R219, R257, R261) -/

/-- The home of a line follows from the channels in service, the step counts p and the die-wide regions. -/
theorem State.homeOfLine_congr {s t : State} (hchannels : t.channels = s.channels)
    (hpriv : ∀ r, (t.region r).privSteps = (s.region r).privSteps) (hwide : ∀ r, (t.region r).dieWide = (s.region r).dieWide)
    (line : Nat) : t.homeOfLine line = s.homeOfLine line := by
  have hservice : t.inService = s.inService := by
    funext ch
    simp only [State.inService, State.channel, hchannels]
  simp only [State.homeOfLine, State.homeRaw, State.privSteps, State.goodRegion, State.goodDie, hservice, hpriv, hwide]
  rfl

theorem State.spineWake_homeOfLine (s : State) (l line : Nat) : (s.spineWake l).homeOfLine line = s.homeOfLine line := by
  have hregion (r : Nat) : ((s.spineWake l).region r).privSteps = (s.region r).privSteps ∧
      ((s.spineWake l).region r).dieWide = (s.region r).dieWide := by
    rw [State.spineWake, State.modRegion_region]
    split
    · next h =>
      subst h
      split <;> exact ⟨rfl, rfl⟩
    · exact ⟨rfl, rfl⟩
  exact State.homeOfLine_congr (s := s) (t := s.spineWake l) rfl (fun r => (hregion r).1) (fun r => (hregion r).2) line

theorem State.countAccess_homeOfLine (s : State) (rq : Req) (l : Nat) (hit : Bool) (line : Nat) :
    (s.countAccess rq l hit).homeOfLine line = s.homeOfLine line := s.spineWake_homeOfLine l line

/-! ### The line in its set -/

theorem State.held_line {s : State} {line : Nat} {y : SLine} (h : s.held line = some y) : y.line = line := by
  simpa using List.find?_some h

/-- The held line after a change of its home slice. -/
theorem State.modHome_held (s : State) (line : Nat) (g : Slice → Slice) :
    (s.modHome line g).held line = (g (s.slice (s.homeOfLine line).slice)).find (s.homeOfLine line).setKey line := by
  have hhome : (s.modHome line g).homeOfLine line = s.homeOfLine line := rfl
  rw [State.held, hhome, State.modHome, State.modSlice_slice, if_pos rfl]

theorem State.modHome_held_of_sets (s : State) (line : Nat) {g : Slice → Slice} (hg : ∀ sl, (g sl).sets = sl.sets) :
    (s.modHome line g).held line = s.held line := by
  rw [State.modHome_held, Slice.find, Slice.setLines, hg]
  rfl

theorem State.countAccess_held (s : State) (rq : Req) (line : Nat) (hit : Bool) :
    (s.countAccess rq line hit).held line = s.held line := by
  have hwake : (s.spineWake line).held line = s.held line := by
    rw [State.held, State.spineWake_homeOfLine]
    rfl
  rw [State.countAccess, State.modHome_held_of_sets, hwake]
  intro sl
  split <;> rfl

theorem Slice.insert_find (sl : Slice) (key : Nat) {x : SLine} {line : Nat} (hx : x.line = line) (mru : Bool) :
    (sl.insert key x mru).find key line = some x := by
  subst hx
  rw [Slice.insert, Slice.putSet, Slice.find, Slice.setLines, look_put_same]
  cases mru <;> simp [List.find?_append, find?_filter_key_ne SLine.line, -List.find?_filter]

theorem Slice.update_find (sl : Slice) (key line : Nat) {g : SLine → SLine} (hg : ∀ x, (g x).line = x.line) :
    (sl.update key line g).find key line = (sl.find key line).map g := by
  rw [Slice.update, Slice.putSet, Slice.find, Slice.setLines, look_put_same, Slice.find, List.find?_map]
  induction sl.setLines key with
  | nil => rfl
  | cons y r ih =>
    by_cases hy : y.line = line
    · simp [hy, hg]
    · simpa [hy] using ih

/-- A pin leaves the bytes of its line. -/
theorem State.pinLine_held {s : State} {line : Nat} {y : SLine} (hy : s.held line = some y) (rq : Req) :
    ∃ z, (s.pinLine rq line).held line = some z ∧ z.bytes = y.bytes := by
  have hfind : (s.slice (s.homeOfLine line).slice).find (s.homeOfLine line).setKey line = some y := hy
  have hpin : s.pinLine rq line = s.modHome line _ := rfl
  rw [hpin, State.modHome_held]
  simp only [hfind]
  split
  · exact ⟨y, hfind, rfl⟩
  · split
    · rw [Slice.update_find, hfind]
      · exact ⟨_, rfl, rfl⟩
      · exact fun _ => rfl
    · exact ⟨y, hfind, rfl⟩

/-- A held line with a write's bytes merged. -/
def SLine.merged (y : SLine) (ws : List (Nat × Byte)) : SLine := { y with bytes := mergeBytes y.bytes ws, dirty := true }

/-- A write that hits, counted and merged into its line. -/
def State.writeHit (s : State) (rq : Req) (line : Nat) (y : SLine) (ws : List (Nat × Byte)) : State :=
  ((s.clearLost line (covers ws)).countAccess rq line true).modHome line fun sl =>
    sl.insert (s.homeOfLine line).setKey (y.merged ws) (rq.acts != 1)

theorem State.hitCounted_homeOfLine (s : State) (rq : Req) (line : Nat) (ws : List (Nat × Byte)) :
    ((s.clearLost line (covers ws)).countAccess rq line true).homeOfLine line = s.homeOfLine line :=
  State.countAccess_homeOfLine _ _ _ _ _

/-- A write to a line that its slice holds (Table 07.3). -/
theorem State.arrayWrite_hit {s : State} {line : Nat} {y : SLine} (hy : s.held line = some y) (rq : Req)
    (ws : List (Nat × Byte)) :
    s.arrayWrite rq line ws = if rq.acts = 3 then (s.writeHit rq line y ws).pinLine rq line else s.writeHit rq line y ws := by
  have hheld : (s.clearLost line (covers ws)).held line = some y := hy
  simp only [State.arrayWrite, hheld, State.writeHit, State.modHome, State.hitCounted_homeOfLine]
  rfl

theorem State.writeHit_held {s : State} {line : Nat} {y : SLine} (hy : s.held line = some y) (rq : Req)
    (ws : List (Nat × Byte)) : (s.writeHit rq line y ws).held line = some (y.merged ws) := by
  have hline : (y.merged ws).line = line := State.held_line (y := y) hy
  rw [State.writeHit, State.modHome_held, State.hitCounted_homeOfLine]
  exact Slice.insert_find _ _ hline _

/-- A write to a held line leaves it held, with the bytes merged. -/
theorem State.arrayWrite_held {s : State} {line : Nat} {y : SLine} (hy : s.held line = some y) (rq : Req)
    (ws : List (Nat × Byte)) :
    ∃ z, (s.arrayWrite rq line ws).held line = some z ∧ z.bytes = mergeBytes y.bytes ws := by
  rw [State.arrayWrite_hit hy]
  split
  · exact State.pinLine_held (State.writeHit_held hy rq ws) rq
  · exact ⟨_, State.writeHit_held hy rq ws, rfl⟩

/-! ### Evictions (R192, R222, R234) -/

theorem State.ownerGone_eq (s : State) (cl line : Nat) : s.ownerGone cl line = s ∨ s.ownerGone cl line = s.dropDir line := by
  unfold State.ownerGone
  split
  · split
    · exact .inr rfl
    · exact .inl rfl
  · exact .inl rfl

/-- A directory that forgets an owner changes the slices alone. -/
theorem State.ownerGone_frame (s : State) (cl line : Nat) : { s.ownerGone cl line with slices := s.slices } = s := by
  rcases s.ownerGone_eq cl line with h | h
  · rw [h]
  · rw [h]
    rfl

theorem State.ownerGone_cc (s : State) (cl line k j : Nat) : (s.ownerGone cl line).cc k j = s.cc k j := by
  have hcc := congrArg (fun u : State => u.cc k j) (s.ownerGone_frame cl line)
  exact hcc

theorem State.ownerGone_mem (s : State) (cl line : Nat) : (s.ownerGone cl line).mem = s.mem := by
  have hmem := congrArg State.mem (s.ownerGone_frame cl line)
  exact hmem

theorem State.ownerGone_held (s : State) (cl line : Nat) : (s.ownerGone cl line).held line = s.held line := by
  rcases s.ownerGone_eq cl line with h | h <;> rw [h]
  exact s.modHome_held_of_sets line fun _ => rfl

theorem State.modCluster_held (s : State) (cl : Nat) (g : Cluster → Cluster) (line : Nat) :
    (s.modCluster cl g).held line = s.held line := rfl

theorem State.putCc_held (s : State) (cl l : Nat) (x : Option CcLine) (line : Nat) : (s.putCc cl l x).held line = s.held line := rfl

theorem State.ccEvict_exclusive {s : State} {cl line : Nat} {x : CcLine} (hx : s.cc cl line = some x) (hst : x.st = .exclusive) :
    s.ccEvict cl line = (s.putCc cl line none).ownerGone cl line := by
  simp [State.ccEvict, hx, hst]

/-- A modified line written back and counted. -/
def State.ccWrittenBack (s : State) (cl line : Nat) (x : CcLine) : State :=
  (s.arrayWrite (s.ccReq cl line x.hint x.pinAsid false) line (s.wbBytes line x)).modCluster cl fun c =>
    { c with ccWb := bump 48 c.ccWb }

theorem State.ccEvict_modified {s : State} {cl line : Nat} {x : CcLine} (hx : s.cc cl line = some x) (hst : x.st = .modified) :
    s.ccEvict cl line = ((s.ccWrittenBack cl line x).putCc cl line none).ownerGone cl line := by
  simp [State.ccEvict, hx, hst, State.ccWrittenBack]

/-- With no codeword of the line lost, a write-back writes the whole line. -/
theorem State.wbBytes_whole {s : State} {line : Nat} (hlost : s.lostIn line = false) (x : CcLine) :
    s.wbBytes line x = atOffset 0 (imageOf x.bytes) := by
  simp only [State.wbBytes, hlost, atOffset, imageOf, Bool.not_false, Bool.true_or, List.filter_true, List.length_map,
    List.length_range]
  refine List.map_congr_left fun o ho => ?_
  simp [List.mem_range.1 ho]

theorem look_wbBytes {s : State} {line : Nat} (hlost : s.lostIn line = false) (x : CcLine) (d : SMap Byte) {o : Nat}
    (ho : o < 256) : look 0 (mergeBytes d (s.wbBytes line x)) o = look 0 x.bytes o := by
  have hlength : (imageOf x.bytes).length = 256 := by simp [imageOf]
  rw [State.wbBytes_whole hlost, look_mergeBytes_atOffset, hlength, if_pos ⟨Nat.zero_le o, by omega⟩]
  simp [imageOf, ho]

theorem State.homeData_of_held {s : State} {line : Nat} {y : SLine} (h : s.held line = some y) : s.homeData line = y.bytes := by
  simp [State.homeData, h]

/-- A modified line that leaves its cluster cache stands at a home slice that holds the line. -/
theorem State.ccEvict_homeData {s : State} {cl line : Nat} {x : CcLine} (hx : s.cc cl line = some x) (hst : x.st = .modified)
    (hlost : s.lostIn line = false) (hheld : (s.held line).isSome = true) {o : Nat} (ho : o < 256) :
    look 0 ((s.ccEvict cl line).homeData line) o = look 0 x.bytes o := by
  obtain ⟨y, hy⟩ := Option.isSome_iff_exists.1 hheld
  obtain ⟨z, hz, hbytes⟩ := State.arrayWrite_held hy (s.ccReq cl line x.hint x.pinAsid false) (s.wbBytes line x)
  have hevicted : (s.ccEvict cl line).held line = some z := by
    rw [State.ccEvict_modified hx hst, State.ownerGone_held, State.putCc_held, State.ccWrittenBack, State.modCluster_held, hz]
  rw [State.homeData_of_held hevicted, hbytes, look_wbBytes hlost x _ ho]

theorem exec_eEvictionNotice {s : State} {cl line : Nat} {x : CcLine} (hcl : cl < 64) (hpower : s.powered = true)
    (hx : s.cc cl line = some x) (hst : x.st = .exclusive) : exec (.eEvictionNotice cl line) s = .next (s.ccEvict cl line) := by
  have hexec : exec (.eEvictionNotice cl line) s = execEEvictionNotice cl line s := by rfl
  simp [hexec, execEEvictionNotice, unit, need, hcl, hpower, hx, hst]

theorem exec_mWriteBack {s : State} {cl line : Nat} {x : CcLine} (hcl : cl < 64) (hpower : s.powered = true)
    (hx : s.cc cl line = some x) (hst : x.st = .modified) : exec (.mWriteBack cl line) s = .next (s.ccEvict cl line) := by
  have hexec : exec (.mWriteBack cl line) s = execMWriteBack cl line s := by rfl
  simp [hexec, execMWriteBack, unit, need, hcl, hpower, hx, hst]

end Sys2Proof.Machine

open Sys2Proof Sys2Proof.Machine

/-- Settles O31: a message in flight is delivered (`exec_delivers`) in a state that only the network tells from the one before
(`State.unsend_sameButNet`), and the copy or entry that it names changes as the lemma of its message says; an eviction is
`State.ccEvict`. -/
theorem coherenceMessages : Obligations.CoherenceMessages := by
  unfold Obligations.CoherenceMessages
  intro flies
  refine ⟨fun s line cl ⟨hflies, hfirst⟩ => exec_delivers (exec_invalidation line cl s) hflies hfirst ?inv,
    fun s line cl keep ⟨hflies, hfirst⟩ => exec_delivers (exec_recallLine line cl keep s) hflies hfirst ?recalled,
    fun s line cl ⟨hflies, hfirst⟩ => exec_delivers (exec_grant line cl s) hflies hfirst ?grant,
    fun s line cl ⟨hflies, hfirst⟩ => exec_delivers (exec_ownCompletion line cl s) hflies hfirst ?done,
    fun s line cl ⟨hflies, hfirst⟩ => exec_delivers (exec_acknowledgement line cl s) hflies hfirst ?ack,
    fun s cl line x hcl hpower hx hst => ?exclusive, fun s cl line x hcl hpower hx hst => ?modified⟩
  case inv =>
    refine ⟨State.sendAs_coh _ _ _, fun x hx hst => ?_⟩
    rw [← (s.unsend_sameButNet (.inv line cl)).cc] at hx
    exact State.takeInv_cc hx hst
  case recalled =>
    refine ⟨State.sendAs_coh _ _ _, fun x hx hst => ?_⟩
    rw [← (s.unsend_sameButNet (.recall line cl keep)).cc] at hx
    have hcc := State.takeRecall_cc hx hst keep
    cases keep
    · exact hcc
    · exact ⟨_, hcc, rfl, rfl, rfl⟩
  case grant =>
    intro x hx hst hlog
    have hsame := s.unsend_sameButNet (.grant line cl)
    rw [← hsame.cc] at hx
    refine ⟨_, State.takeGrant_cc hx hst hlog, rfl, rfl, fun o ho => ?_⟩
    rw [hsame.homeData]
    exact x.look_granted (s.homeData line) ho
  case done =>
    intro x hx
    rw [← (s.unsend_sameButNet (.done line cl)).cc] at hx
    exact State.takeDone_cc hx
  case ack =>
    intro e w he hw hmore
    rw [← (s.unsend_sameButNet (.ack line cl)).dirEnt] at he
    obtain ⟨v, hent, hwaiting⟩ := State.takeAck_dirEnt he hw hmore
    exact ⟨_, v, hent, rfl, hwaiting, rfl⟩
  case exclusive =>
    refine ⟨_, exec_eEvictionNotice hcl hpower hx hst, ?_⟩
    rw [State.ccEvict_exclusive hx hst]
    refine ⟨?_, State.ownerGone_mem _ cl line, fun c j hne => ?_⟩
    · rw [State.ownerGone_cc, State.putCc_none_cc, if_pos ⟨rfl, rfl⟩]
    · rw [State.ownerGone_cc, State.putCc_none_cc, if_neg hne]
  case modified =>
    refine ⟨_, exec_mWriteBack hcl hpower hx hst, ?_, fun hlost hheld o ho => State.ccEvict_homeData hx hst hlost hheld ho⟩
    rw [State.ccEvict_modified hx hst, State.ownerGone_cc, State.putCc_none_cc, if_pos ⟨rfl, rfl⟩]
end

section
/-! PROOF. The ledger purge (R233), and a failed tag row whose sets hold no line (R245, R246). -/

namespace Sys2Proof.Machine

/-! ### The ledger purge (R233) -/

theorem exec_ledgerPurge (lo len : Nat) (s : State) : exec (.ledgerPurge lo len) s = execLedgerPurge lo len s := by rfl

/-- A change of several slices changes each of them once. -/
theorem foldl_modSlice_slice {ks : List Nat} (hks : ks.Nodup) (f : Slice → Slice) (s : State) (j : Nat) :
    (ks.foldl (fun s k => s.modSlice k f) s).slice j = if j ∈ ks then f (s.slice j) else s.slice j := by
  induction ks generalizing s with
  | nil => rfl
  | cons k ks ih =>
    obtain ⟨hk, hks⟩ := List.nodup_cons.1 hks
    rw [List.foldl_cons, ih hks, State.modSlice_slice]
    by_cases hj : j = k
    · subst hj
      simp [hk]
    · simp [hj]

/-- A change of several slices leaves everything else. -/
theorem foldl_modSlice_frame (ks : List Nat) (f : Slice → Slice) (s : State) :
    { ks.foldl (fun s k => s.modSlice k f) s with slices := s.slices } = s :=
  List.foldlRecOn (motive := fun t : State => { t with slices := s.slices } = s) ks _ rfl fun _ ht _ _ => ht

/-- A slice whose ledger has no entry of a range. -/
def Slice.purged (sl : Slice) (lo len : Nat) : Slice :=
  { sl with ledger := sl.ledger.filter fun l => !(decide (lo ≤ l * 256) && decide (l * 256 < lo + len)) }

theorem State.purge_eq (s : State) (lo len : Nat) :
    s.purge lo len = (List.range 64).foldl (fun s k => s.modSlice k fun sl => sl.purged lo len) s := rfl

theorem State.purge_slice (s : State) (lo len : Nat) {k : Nat} (hk : k < 64) :
    (s.purge lo len).slice k = (s.slice k).purged lo len := by
  rw [State.purge_eq, foldl_modSlice_slice List.nodup_range, if_pos (List.mem_range.2 hk)]

theorem State.purge_frame (s : State) (lo len : Nat) : { s.purge lo len with slices := s.slices } = s :=
  foldl_modSlice_frame _ _ s

/-! ### Sets taken out of use (R246) -/

/-- A slice that has taken a set without lines out of use. -/
def Slice.shutEmpty (sl : Slice) (key : Nat) : Slice :=
  { sl.putSet key [] with
    pinDemote := sl.pinDemote % 2 ^ 48
    setsOff := if sl.setsOff.contains key then sl.setsOff else sl.setsOff ++ [key] }

/-- `sl'` has the rows waiting for their repair and the spare rows used of `sl`. -/
structure Slice.SameRepairs (sl sl' : Slice) : Prop where
  repairing : sl'.repairing = sl.repairing
  rowSpares : sl'.rowSpares = sl.rowSpares

theorem Slice.shutEmpty_setLines {sl : Slice} {key j : Nat} (h : sl.setLines j = []) : (sl.shutEmpty key).setLines j = [] := by
  have hsets : (sl.shutEmpty key).setLines j = look [] (put [] sl.sets key []) j := rfl
  rw [hsets, look_put]
  split
  · rfl
  · exact h

theorem Slice.mem_shutEmpty_setsOff {sl : Slice} {key j : Nat} :
    j ∈ (sl.shutEmpty key).setsOff ↔ j ∈ sl.setsOff ∨ j = key := by
  by_cases h : key ∈ sl.setsOff
  · have hoff : j = key → j ∈ sl.setsOff := fun hj => hj ▸ h
    simpa [Slice.shutEmpty, h] using hoff
  · simp [Slice.shutEmpty, h]

theorem Slice.foldl_shutEmpty_sameRepairs (keys : List Nat) (sl : Slice) : sl.SameRepairs (keys.foldl Slice.shutEmpty sl) :=
  List.foldlRecOn (motive := fun x => sl.SameRepairs x) keys _ ⟨rfl, rfl⟩ fun _ hx _ _ => ⟨hx.repairing, hx.rowSpares⟩

theorem Slice.foldl_shutEmpty_setLines (keys : List Nat) {sl : Slice} {j : Nat} (h : sl.setLines j = []) :
    (keys.foldl Slice.shutEmpty sl).setLines j = [] :=
  List.foldlRecOn (motive := fun x : Slice => x.setLines j = []) keys _ h fun _ hx _ _ => Slice.shutEmpty_setLines hx

theorem Slice.mem_foldl_shutEmpty_setsOff {keys : List Nat} {sl : Slice} {j : Nat} :
    j ∈ (keys.foldl Slice.shutEmpty sl).setsOff ↔ j ∈ sl.setsOff ∨ j ∈ keys := by
  induction keys generalizing sl with
  | nil => simp
  | cons key keys ih => rw [List.foldl_cons, ih, Slice.mem_shutEmpty_setsOff, List.mem_cons, or_assoc]

theorem State.slice_congr {s t : State} (h : t.slices = s.slices) (k : Nat) : t.slice k = s.slice k := by
  rw [State.slice, h, State.slice]

theorem State.setShut_slice {s : State} {k key : Nat} (h : (s.slice k).setLines key = []) :
    (s.setShut k key).slice k = (s.slice k).shutEmpty key := by
  simp [State.setShut, State.emptySet, h, Slice.shutEmpty, Slice.putSet]

theorem State.setDisabled_slice {s : State} {k key : Nat} (h : (s.slice k).setLines key = []) (arr : Nat) :
    (s.setDisabled k key arr).slice k = (s.slice k).shutEmpty key := by
  rw [← State.setShut_slice h]
  exact State.slice_congr (record_slices ..) k

/-- Sets without lines taken out of use one after the other, by a step that does so for one. -/
theorem State.foldl_shut_slice {f : State → Nat → State} {k : Nat}
    (hf : ∀ {s : State} {key}, (s.slice k).setLines key = [] → (f s key).slice k = (s.slice k).shutEmpty key)
    {keys : List Nat} {s : State} (h : ∀ key ∈ keys, (s.slice k).setLines key = []) :
    (keys.foldl f s).slice k = keys.foldl Slice.shutEmpty (s.slice k) := by
  induction keys generalizing s with
  | nil => rfl
  | cons key keys ih =>
    obtain ⟨hkey, hkeys⟩ := List.forall_mem_cons.1 h
    have hslice : (f s key).slice k = (s.slice k).shutEmpty key := hf hkey
    rw [List.foldl_cons, List.foldl_cons, ← hslice]
    refine ih fun j hj => ?_
    rw [hslice]
    exact Slice.shutEmpty_setLines (hkeys j hj)

theorem Slice.setOff_of_mem {sl : Slice} {key : Nat} (h : key ∈ sl.setsOff) : sl.setOff key = true := by simp [Slice.setOff, h]

/-! ### A failed tag row (R245, R246) -/

theorem State.journal_slices (s : State) (es : List (Nat × List Byte)) : (s.journal es).slices = s.slices := by
  unfold State.journal
  dsimp only
  split
  · rfl
  · split
    · rfl
    · split
      · rfl
      · exact record_slices ..

/-- Rows of SRAM block `m` of an array kind that use a spare or wait for one (R245). -/
def Slice.sparesTaken (sl : Slice) (arr m : Nat) : Nat :=
  look 0 sl.rowSpares (arr * 1024 + m) + (sl.repairing.filter fun r => r.1 == arr && r.2.1 == m).length

/-- The tag row's sets leave use; the row waits for its repair, or its capacity stays disabled. -/
theorem State.rowFails_tag (s : State) (k m row : Nat) (sets : List Nat) (u : State)
    (hu : sets.foldl (fun s key => s.setShut k key) s = u) (hsame : (s.slice k).SameRepairs (u.slice k)) :
    s.rowFails k 1 m row sets =
      let back := sets.filter fun key => !(s.slice k).setsOff.contains key
      if (s.slice k).sparesTaken 1 m < rowSpareMax 1 then
        u.modSlice k fun sl => { sl with repairing := sl.repairing ++ [(1, m, row, back)] }
      else u.rowGone k 1 m row sets back := by
  have hspares := hsame.rowSpares
  subst hu
  simp only [State.rowFails, State.rowShut, Slice.sparesTaken, hspares]
  rfl

/-- A tag row that has no spare leaves its sets out of use. -/
theorem State.rowGone_tag_slice {u : State} {k : Nat} {back : List Nat} (h : ∀ key ∈ back, (u.slice k).setLines key = [])
    (m row : Nat) (sets : List Nat) : (u.rowGone k 1 m row sets back).slice k = back.foldl Slice.shutEmpty (u.slice k) := by
  obtain ⟨es, hgone⟩ : ∃ es, u.rowGone k 1 m row sets back = back.foldl (fun s key => s.setDisabled k key 1) (u.journal es) :=
    ⟨_, rfl⟩
  have hjournal : (u.journal es).slice k = u.slice k := State.slice_congr (u.journal_slices es) k
  rw [hgone, State.foldl_shut_slice (fun h => State.setDisabled_slice h 1) (by rwa [hjournal]), hjournal]

/-- The slice after a tag row whose sets hold no line has failed. -/
theorem State.rowFails_tag_slice {s : State} {k : Nat} {sets : List Nat} (h : ∀ key ∈ sets, (s.slice k).setLines key = [])
    (m row : Nat) :
    (∀ key ∈ sets, ((s.rowFails k 1 m row sets).slice k).setOff key = true) ∧
    ((s.rowFails k 1 m row sets).slice k).repairing = (s.slice k).repairing ++
      if (s.slice k).sparesTaken 1 m < rowSpareMax 1 then
        [(1, m, row, sets.filter fun key => !(s.slice k).setsOff.contains key)] else [] := by
  obtain ⟨u, hu⟩ : ∃ u, sets.foldl (fun s key => s.setShut k key) s = u := ⟨_, rfl⟩
  have hslice : (u.slice k) = sets.foldl Slice.shutEmpty (s.slice k) := hu ▸ State.foldl_shut_slice State.setShut_slice h
  have hsame : (s.slice k).SameRepairs (u.slice k) := hslice ▸ Slice.foldl_shutEmpty_sameRepairs sets _
  have hoff : ∀ key ∈ sets, key ∈ (u.slice k).setsOff := fun key hkey =>
    hslice ▸ Slice.mem_foldl_shutEmpty_setsOff.2 (.inr hkey)
  rw [State.rowFails_tag s k m row sets u hu hsame]
  dsimp only
  split
  · rw [State.modSlice_slice, if_pos rfl]
    refine ⟨fun key hkey => Slice.setOff_of_mem (hoff key hkey), ?_⟩
    rw [hsame.repairing]
  · have hempty : ∀ key ∈ sets.filter fun key => !(s.slice k).setsOff.contains key, (u.slice k).setLines key = [] := by
      intro key hkey
      rw [hslice]
      exact Slice.foldl_shutEmpty_setLines sets (h key (List.mem_of_mem_filter hkey))
    rw [State.rowGone_tag_slice hempty]
    refine ⟨fun key hkey => Slice.setOff_of_mem (Slice.mem_foldl_shutEmpty_setsOff.2 (.inl (hoff key hkey))), ?_⟩
    rw [(Slice.foldl_shutEmpty_sameRepairs _ _).repairing, hsame.repairing, List.append_nil]

/-- A slice whose histories name a list of rows no more. -/
def Slice.rowsDeclared (sl : Slice) (names : List Nat) : Slice :=
  { sl with rowBad := sl.rowBad.filter fun r => !names.contains r, rowErrs := sl.rowErrs.filter fun e => !names.contains e.1 }

/-- The rows that a command names taken from the histories of their slice. -/
def State.rowsDeclared (s : State) (k : Nat) (names : List Nat) : State := s.modSlice k fun sl => sl.rowsDeclared names

theorem State.rowsDeclared_slice (s : State) (k : Nat) (names : List Nat) :
    (s.rowsDeclared k names).slice k = (s.slice k).rowsDeclared names := by
  rw [State.rowsDeclared, State.modSlice_slice, if_pos rfl]

theorem exec_rowFailed {s : State} {k arr m row : Nat} {sets : List Nat} (hk : k < 64) (harr : arr < 3)
    (hup : s.mainlandUp = true) (hbad : ∃ n ∈ rowNames arr m row sets, n ∈ (s.slice k).rowBad) :
    exec (.rowFailed k arr m row sets) s = .next ((s.rowsDeclared k (rowNames arr m row sets)).rowFails k arr m row
      (sets.filter fun t => decide (t < if arr = 1 then 24576 else 2048))) := by
  have hexec : exec (.rowFailed k arr m row sets) s = execRowFailed k arr m row sets s := by rfl
  have hany : (rowNames arr m row sets).any (s.slice k).rowBad.contains = true := by simpa using hbad
  simp only [hexec, execRowFailed, unit, need, if_pos hk, if_pos harr, hup, hany, if_true]
  rfl

end Sys2Proof.Machine

open Sys2Proof Sys2Proof.Machine

/-- Settles O32: the purge filters each slice's ledger (`State.purge_slice`); of a failed tag row every set without lines leaves use
(`State.rowFails_tag_slice`), whatever the command takes from the histories before (`State.rowsDeclared`). -/
theorem ledgerPurgeAndFailedRows : Obligations.LedgerPurgeAndFailedRows := by
  unfold Obligations.LedgerPurgeAndFailedRows
  refine ⟨fun s lo len hup => ⟨s.purge lo len, ?purges, s.purge_frame lo len, fun k hk => ?slice⟩,
    fun s k arr m row sets hk harr hup hbad => ⟨_, exec_rowFailed hk harr hup hbad, fun htag hsets => ?tag⟩⟩
  case purges => simp [exec_ledgerPurge, execLedgerPurge, need, hup]
  case slice =>
    rw [State.purge_slice s lo len hk]
    exact ⟨rfl, rfl⟩
  case tag =>
    subst htag
    have hall : sets.filter (fun t => decide (t < if 1 = 1 then 24576 else 2048)) = sets :=
      List.filter_eq_self.2 fun x hx => by simpa using (hsets x hx).1
    rw [hall]
    have hempty : ∀ key ∈ sets, ((s.rowsDeclared k (rowNames 1 m row sets)).slice k).setLines key = [] := fun key hkey => by
      rw [State.rowsDeclared_slice]
      exact (hsets key hkey).2
    have hfails := State.rowFails_tag_slice hempty m row
    rw [State.rowsDeclared_slice] at hfails
    exact hfails
end

section
/-! PROOF. A message of the directory protocol stays in flight while others are sent (R295, R296). -/

namespace Sys2Proof.Machine

/-- A message leaves the network only at the end of its path, and one of the protocol not before it is taken. -/
theorem Net.move_coh (n : Net) (m : NetMsg) : (n.move m).coh = n.coh := by
  rw [Net.coh, Net.move, List.filterMap_filter, List.filterMap_map, Net.coh]
  refine List.filterMap_congr fun x _ => ?_
  by_cases hid : x.id = m.id <;> cases hx : x.coh <;> simp [hid, hx]

theorem State.regSlot_coh (s : State) (key : Nat) : (s.regSlot key).net.coh = s.net.coh := by
  unfold State.regSlot
  dsimp only
  split
  · rfl
  · exact Net.move_coh _ _

theorem State.plainSlot_coh (s : State) (key : Nat) : (s.plainSlot key).net.coh = s.net.coh := by
  unfold State.plainSlot
  dsimp only
  split
  · rfl
  · exact Net.move_coh _ _

theorem State.netTick_coh (s : State) : s.netTick.net.coh = s.net.coh :=
  List.foldlRecOn (motive := fun t : State => t.net.coh = s.net.coh) s.net.live _ rfl fun t ht key _ => by
    split
    · exact (t.regSlot_coh key).trans ht
    · exact (t.plainSlot_coh key).trans ht

theorem State.netRoom_coh (m : NetMsg) (fuel : Nat) (s : State) : (s.netRoom m fuel).net.coh = s.net.coh := by
  induction fuel generalizing s with
  | zero => rfl
  | succ fuel ih =>
    unfold State.netRoom
    split
    · rfl
    · rw [ih, State.netTick_coh]

/-- The messages in flight when one more is sent. -/
theorem State.sendAs_coh_append (s : State) (cls : Nat) (m : CohMsg) : (s.sendAs cls m).net.coh = s.net.coh ++ [m] := by
  simp only [State.sendAs, State.netSend, State.netPush, State.onNet, Net.coh, List.filterMap_append]
  exact congrArg (· ++ [m]) (State.netRoom_coh _ _ s)

end Sys2Proof.Machine
end

section
/-! PROOF. What an access to the data array leaves of the directory, the ledger and the cluster caches (R217, R225, R250). -/

namespace Sys2Proof.Machine

/-- `sl'` has the directory and the ledger of `sl`. -/
structure Slice.SameDirectory (sl sl' : Slice) : Prop where
  dir : sl'.dir = sl.dir
  dirOff : sl'.dirOff = sl.dirOff
  ledger : sl'.ledger = sl.ledger

/-- `t` has the cluster caches, the directories, the ledgers and the homes of lines of `s`. -/
structure State.SameDirectory (s t : State) : Prop where
  clusters : t.clusters = s.clusters
  home : ∀ line, t.homeOfLine line = s.homeOfLine line
  slice : ∀ k, (s.slice k).SameDirectory (t.slice k)

theorem Slice.SameDirectory.refl (sl : Slice) : sl.SameDirectory sl := ⟨rfl, rfl, rfl⟩

theorem State.SameDirectory.refl (s : State) : s.SameDirectory s := ⟨rfl, fun _ => rfl, fun k => .refl (s.slice k)⟩

theorem State.SameDirectory.trans {s t u : State} (h : s.SameDirectory t) (k : t.SameDirectory u) : s.SameDirectory u where
  clusters := k.clusters.trans h.clusters
  home line := (k.home line).trans (h.home line)
  slice n := ⟨(k.slice n).dir.trans (h.slice n).dir, (k.slice n).dirOff.trans (h.slice n).dirOff,
    (k.slice n).ledger.trans (h.slice n).ledger⟩

theorem State.modHome_sameDirectory (s : State) (line : Nat) {g : Slice → Slice} (hg : ∀ sl : Slice, sl.SameDirectory (g sl)) :
    s.SameDirectory (s.modHome line g) where
  clusters := rfl
  home _ := rfl
  slice k := by
    rw [State.modHome, State.modSlice_slice]
    split
    · next hk => exact hk ▸ hg _
    · exact .refl _

section
variable {s t : State} (h : s.SameDirectory t)
include h

theorem State.SameDirectory.cc (cl line : Nat) : t.cc cl line = s.cc cl line := by
  simp only [State.cc, State.cluster, h.clusters]

theorem State.SameDirectory.ccFull (cl line : Nat) : t.ccFull cl line = s.ccFull cl line := by
  have hcluster : t.cluster cl = s.cluster cl := by rw [State.cluster, h.clusters, State.cluster]
  rw [State.ccFull, h.cc, hcluster, State.ccFull]

theorem State.SameDirectory.dirEnt (line : Nat) : t.dirEnt line = s.dirEnt line := by
  simp only [State.dirEnt, Slice.dirFind, h.home, (h.slice _).dir]

theorem State.SameDirectory.dirVictim (line : Nat) : t.dirVictim line = s.dirVictim line := by
  simp only [State.dirVictim, Slice.dirWays, h.home, (h.slice _).dir, (h.slice _).dirOff]
  rfl

theorem State.SameDirectory.inLedger (line : Nat) : t.inLedger line = s.inLedger line := by
  simp only [State.inLedger, h.home, (h.slice _).ledger]

end

theorem State.spineWake_sameDirectory (s : State) (line : Nat) : s.SameDirectory (s.spineWake line) :=
  ⟨rfl, s.spineWake_homeOfLine line, fun _ => ⟨rfl, rfl, rfl⟩⟩

theorem State.countAccess_sameDirectory (s : State) (rq : Req) (line : Nat) (hit : Bool) :
    s.SameDirectory (s.countAccess rq line hit) :=
  (s.spineWake_sameDirectory line).trans <| State.modHome_sameDirectory _ line fun _ => by
    cases hit <;> exact ⟨rfl, rfl, rfl⟩

theorem State.pinLine_sameDirectory (s : State) (rq : Req) (line : Nat) : s.SameDirectory (s.pinLine rq line) := by
  have hpin : s.pinLine rq line = s.modHome line _ := rfl
  rw [hpin]
  refine s.modHome_sameDirectory line fun sl => ?_
  split
  · exact .refl sl
  · split
    · exact .refl sl
    · split <;> exact ⟨rfl, rfl, rfl⟩

theorem State.pinIf_sameDirectory (s : State) (rq : Req) (line : Nat) :
    s.SameDirectory (if rq.acts = 3 then s.pinLine rq line else s) := by
  split
  · exact s.pinLine_sameDirectory rq line
  · exact .refl s

/-! ### A read of a held line (Table 07.3) -/

/-- A read that hits counted; its line becomes the most recently used but for a STREAM read. -/
def State.readHit (s : State) (rq : Req) (line : Nat) (y : SLine) : State :=
  let t := s.countAccess rq line true
  if rq.acts = 1 then t else t.modHome line fun sl => sl.insert (s.homeOfLine line).setKey y true

theorem State.arrayRead_hit {s : State} {line : Nat} {y : SLine} (hy : s.held line = some y) (rq : Req) :
    s.arrayRead rq line =
      ⟨if rq.acts = 3 then (s.readHit rq line y).pinLine rq line else s.readHit rq line y, y.bytes, false, s.lostIn line⟩ := by
  have hlost : (s.readHit rq line y).lostIn line = s.lostIn line := by
    unfold State.readHit
    dsimp only
    split <;> rfl
  rw [← hlost]
  simp only [State.arrayRead, hy, State.readHit, State.modHome, State.countAccess_homeOfLine]

theorem State.readHit_held {s : State} {line : Nat} {y : SLine} (hy : s.held line = some y) (rq : Req) :
    (s.readHit rq line y).held line = some y := by
  unfold State.readHit
  dsimp only
  split
  · rw [State.countAccess_held, hy]
  · rw [State.modHome_held, State.countAccess_homeOfLine]
    exact Slice.insert_find _ _ (State.held_line hy) true

/-- A read of a held line leaves it held, with its bytes. -/
theorem State.arrayRead_held {s : State} {line : Nat} {y : SLine} (hy : s.held line = some y) (rq : Req) :
    ∃ z, (s.arrayRead rq line).s.held line = some z ∧ z.bytes = y.bytes := by
  rw [State.arrayRead_hit hy]
  dsimp only
  split
  · exact State.pinLine_held (State.readHit_held hy rq) rq
  · exact ⟨y, State.readHit_held hy rq, rfl⟩

theorem State.arrayRead_sameDirectory {s : State} {line : Nat} {y : SLine} (hy : s.held line = some y) (rq : Req) :
    s.SameDirectory (s.arrayRead rq line).s := by
  have hread : s.SameDirectory (s.readHit rq line y) := by
    unfold State.readHit
    dsimp only
    split
    · exact s.countAccess_sameDirectory rq line true
    · exact (s.countAccess_sameDirectory rq line true).trans (State.modHome_sameDirectory _ line fun _ => ⟨rfl, rfl, rfl⟩)
  rw [State.arrayRead_hit hy]
  exact hread.trans (State.pinIf_sameDirectory _ rq line)

theorem State.arrayWrite_sameDirectory {s : State} {line : Nat} {y : SLine} (hy : s.held line = some y) (rq : Req)
    (ws : List (Nat × Byte)) : s.SameDirectory (s.arrayWrite rq line ws) := by
  have hclear : s.SameDirectory (s.clearLost line (covers ws)) := ⟨rfl, fun _ => rfl, fun _ => ⟨rfl, rfl, rfl⟩⟩
  have hwrite : s.SameDirectory (s.writeHit rq line y ws) := (hclear.trans (State.countAccess_sameDirectory _ rq line true)).trans
    (State.modHome_sameDirectory _ line fun _ => ⟨rfl, rfl, rfl⟩)
  rw [State.arrayWrite_hit hy]
  exact hwrite.trans (State.pinIf_sameDirectory _ rq line)

end Sys2Proof.Machine
end

section
/-! PROOF. Requests for a line that its home slice holds, in directory state U with room for an entry, in no ledger and with no lost
codeword (R218, R223, R229, R231, R234, R237, R238). -/

namespace Sys2Proof.Machine

/-- The slice of `line` holds it as `y`, and nothing stands in the way of a request for it. -/
structure State.Resting (s : State) (line : Nat) (y : SLine) : Prop where
  held : s.held line = some y
  dirEnt : s.dirEnt line = none
  lostIn : s.lostIn line = false
  inLedger : s.inLedger line = false
  uncacheable : s.uncacheable line = false
  room : (look [] (s.slice (s.homeOfLine line).slice).dir (s.homeOfLine line).dirSet).length <
    (s.slice (s.homeOfLine line).slice).dirWays (s.homeOfLine line).dirSet

theorem State.modHome_homeSlice (s : State) (line : Nat) (g : Slice → Slice) :
    (s.modHome line g).slice (s.homeOfLine line).slice = g (s.slice (s.homeOfLine line).slice) := by
  rw [State.modHome, State.modSlice_slice, if_pos rfl]

/-- A directory entry in a set with room recalls no other. -/
theorem State.setDir_eq {s : State} {e : DirEnt} (h : s.dirVictim e.line = none) : s.setDir e = s.putDir e := by
  simp [State.setDir, State.dirRoom, h]

/-- A line delivered to a cluster cache that has room for it and no copy of it. -/
theorem State.fillCc_eq {s : State} {cl line : Nat} (hcc : s.cc cl line = none) (hfull : s.ccFull cl line = false) (st : CcSt)
    (d : SMap Byte) (hint asid : Nat) :
    s.fillCc cl line st d hint asid =
      (s.putCc cl line (some { st := st, bytes := d, hint := hint, pinAsid := asid })).moveCc cl line (hint != 1) := by
  simp [State.fillCc, State.ccRoom, hcc, hfull]

theorem State.moveCc_dirEnt (s : State) (cl l : Nat) (mru : Bool) (line : Nat) :
    (s.moveCc cl l mru).dirEnt line = s.dirEnt line := by
  unfold State.moveCc
  split <;> rfl

theorem State.dropLine_held (s : State) (line : Nat) : (s.dropLine line).held line = none := by
  have hdrop : s.dropLine line = s.modHome line fun sl => sl.remove (s.homeOfLine line).setKey line := rfl
  rw [hdrop, State.modHome_held, Slice.remove, Slice.putSet, Slice.find, Slice.setLines, look_put_same,
    find?_filter_key_ne SLine.line, if_pos rfl]

theorem State.enledger_held (s : State) (line : Nat) : (s.enledger line).held line = s.held line :=
  s.modHome_held_of_sets line fun sl => by dsimp only; split <;> rfl

theorem State.enledger_inLedger (s : State) (line : Nat) : (s.enledger line).inLedger line = true := by
  have hhome : (s.enledger line).homeOfLine line = s.homeOfLine line := rfl
  rw [State.inLedger, hhome, State.enledger, State.modHome_homeSlice]
  dsimp only
  split <;> simp

section
variable {s : State} {line : Nat} {y : SLine} (h : s.Resting line y)
include h

theorem State.Resting.blocker : s.blocker line = none := by
  have hroom := h.room
  simp only [State.blocker, h.held, Option.isNone_some, Bool.false_and, decide_eq_false (Nat.not_le.2 hroom), Bool.and_false,
    Bool.false_eq_true, if_false]

theorem State.Resting.dirVictim : s.dirVictim line = none := by
  simp [State.dirVictim, h.room]

/-- A request for the line is served at once. -/
theorem State.Resting.request (r : CohReq) : s.request line r .none = s.serveHome r line := by
  simp only [State.request, h.dirEnt, State.unblock_eq h.blocker, State.meetError]

theorem State.Resting.unledger : (s.unledger line).Resting line y where
  held := by
    rw [State.unledger, State.modHome_held_of_sets, h.held]
    exact fun _ => rfl
  dirEnt := by
    rw [State.unledger, State.modHome_dirEnt, h.dirEnt]
    exact fun _ => rfl
  lostIn := h.lostIn
  inLedger := by
    have hhome : (s.unledger line).homeOfLine line = s.homeOfLine line := rfl
    rw [State.inLedger, hhome, State.unledger, State.modHome_homeSlice]
    simp
  uncacheable := by
    have hhome : (s.unledger line).homeOfLine line = s.homeOfLine line := rfl
    rw [State.uncacheable, hhome, State.unledger, State.modHome_homeSlice]
    exact h.uncacheable
  room := by
    have hhome : (s.unledger line).homeOfLine line = s.homeOfLine line := rfl
    rw [hhome, State.unledger, State.modHome_homeSlice]
    exact h.room

/-! ### READ and OWN (Table 07.6) -/

/-- The directory after a read of the array names the line's new owner. -/
theorem State.Resting.setDir (rq : Req) (st : DirSt) :
    (s.arrayRead rq line).s.setDir { line := line, st := st } = (s.arrayRead rq line).s.putDir { line := line, st := st } :=
  State.setDir_eq (((State.arrayRead_sameDirectory h.held rq).dirVictim line).trans h.dirVictim)

/-- A READ by a cluster that has room for the line makes it the owner of an exclusive copy. -/
theorem State.Resting.readHome {cl : Nat} (hcc : s.cc cl line = none) (hfull : s.ccFull cl line = false) (hint asid : Nat)
    (lenient : Bool) :
    ∃ x, (s.readHome cl line hint asid lenient).s.cc cl line = some x ∧ x.st = .exclusive ∧ x.bytes = s.homeData line ∧
      ∃ e, (s.readHome cl line hint asid lenient).s.dirEnt line = some e ∧ e.st = .owned cl := by
  obtain ⟨rq, hrq⟩ : ∃ rq, s.ccReq cl line hint asid lenient = rq := ⟨_, rfl⟩
  obtain ⟨u, hu⟩ : ∃ u, (s.arrayRead rq line).s.putDir { line := line, st := .owned cl } = u := ⟨_, rfl⟩
  have hread : (s.readHome cl line hint asid lenient).s = u.fillCc cl line .exclusive y.bytes hint asid := by
    have hdata : (s.arrayRead rq line).data = y.bytes := by rw [State.arrayRead_hit h.held]
    have hlost : (s.arrayRead rq line).lost = false := by rw [State.arrayRead_hit h.held, h.lostIn]
    simp [State.readHome, hrq, h.inLedger, h.uncacheable, h.dirEnt, hlost, h.setDir, hdata, hu]
  have hsame := State.arrayRead_sameDirectory h.held rq
  have hucc : u.cc cl line = none := by
    subst hu
    exact (hsame.cc cl line).trans hcc
  have hufull : u.ccFull cl line = false := by
    subst hu
    exact (hsame.ccFull cl line).trans hfull
  rw [hread, State.fillCc_eq hucc hufull, State.moveCc_cc, State.putCc_cc, if_pos ⟨rfl, rfl⟩, State.moveCc_dirEnt,
    State.homeData_of_held h.held]
  refine ⟨_, rfl, rfl, rfl, { line := line, st := .owned cl }, ?_, rfl⟩
  subst hu
  exact State.putDir_dirEnt _ { line := line, st := .owned cl }

/-- OWN makes the cluster owner, and sends the grant and the completion. -/
theorem State.Resting.ownHome (cl hint asid : Nat) :
    (∃ e, (s.ownHome cl line hint asid).dirEnt line = some e ∧ e.st = .owned cl) ∧
      CohMsg.grant line cl ∈ (s.ownHome cl line hint asid).net.coh ∧ CohMsg.done line cl ∈ (s.ownHome cl line hint asid).net.coh := by
  have hrest := h.unledger
  obtain ⟨u, hu⟩ : ∃ u, ((s.unledger line).arrayRead ((s.unledger line).ccReq cl line hint asid false) line).s.putDir
    { line := line, st := .owned cl } = u := ⟨_, rfl⟩
  have hown : s.ownHome cl line hint asid = (u.send (.grant line cl)).send (.done line cl) := by
    simp [State.ownHome, hrest.uncacheable, hrest.dirEnt, hrest.setDir, hu]
  rw [hown]
  refine ⟨⟨{ line := line, st := .owned cl }, ?_, rfl⟩, ?_, State.sendAs_coh _ _ _⟩
  · rw [State.send, State.send, (State.sendAs_sameButNet _ _ _).dirEnt, (State.sendAs_sameButNet _ _ _).dirEnt]
    subst hu
    exact State.putDir_dirEnt _ { line := line, st := .owned cl }
  · rw [State.send, State.sendAs_coh_append]
    exact List.mem_append_left _ (State.sendAs_coh _ _ _)

/-! ### Requests of other masters (Table 07.6) -/

theorem State.Resting.sliceHome (r : CohReq) : s.sliceHome r line = s.sliceDo r line := by
  simp only [State.sliceHome, h.dirEnt]

/-- A read by another master leaves the home's data. -/
theorem State.Resting.sliceRead {r : CohReq} (hr : r.kind = .sread) : (s.serveHome r line).homeData line = s.homeData line := by
  have hserve : s.serveHome r line = (s.arrayRead r.rq line).s := by
    simp [State.serveHome, hr, h.sliceHome, State.sliceDo, h.inLedger]
  obtain ⟨z, hz, hbytes⟩ := State.arrayRead_held h.held r.rq
  rw [hserve, State.homeData_of_held hz, hbytes, State.homeData_of_held h.held]

/-- A write by another master merges its bytes into the home's data, and takes the line from the ledger. -/
theorem State.Resting.sliceWrite {r : CohReq} (hr : r.kind = .swrite) (hguard : s.guardedPage (line * 256) = none) :
    (s.serveHome r line).inLedger line = false ∧
      (s.serveHome r line).homeData line = mergeBytes (s.homeData line) r.data := by
  have hrest := h.unledger
  obtain ⟨u, hu⟩ : ∃ u, (s.unledger line).arrayWrite r.rq line r.data = u := ⟨_, rfl⟩
  have hserve : s.serveHome r line = (u.produce line none).signalWriter line true := by
    simp [State.serveHome, hr, h.sliceHome, State.sliceDo, State.sliceStore, State.shadowTouch, hguard, hu]
  have hsame : (s.unledger line).SameDirectory (s.serveHome r line) := by
    have hproduce : u.SameDirectory (u.produce line none) := ⟨rfl, fun _ => rfl, fun _ => ⟨rfl, rfl, rfl⟩⟩
    rw [hserve]
    exact ((hu ▸ State.arrayWrite_sameDirectory hrest.held r.rq r.data).trans hproduce).trans
      (State.modHome_sameDirectory _ line fun _ => ⟨rfl, rfl, rfl⟩)
  obtain ⟨z, hz, hbytes⟩ := State.arrayWrite_held hrest.held r.rq r.data
  have hheld : (s.serveHome r line).held line = some z := by
    rw [hserve, State.signalWriter, State.modHome_held_of_sets, ← hz, hu]
    · rfl
    · exact fun _ => rfl
  refine ⟨(hsame.inLedger line).trans hrest.inLedger, ?_⟩
  rw [State.homeData_of_held hheld, hbytes, State.homeData_of_held h.held]

/-- A LASTUSE read takes the line from the data array and enters it in the ledger. -/
theorem State.Resting.lastUse {r : CohReq} (hr : r.kind = .last) :
    (s.serveHome r line).inLedger line = true ∧ (s.serveHome r line).held line = none := by
  obtain ⟨u, hu⟩ : ∃ u, s.countAccess { r.rq with hint := 2 } line true = u := ⟨_, rfl⟩
  have hlost : u.lostIn line = false := hu ▸ h.lostIn
  have hserve : s.serveHome r line = (u.dropLine line).enledger line := by
    simp [State.serveHome, hr, h.sliceHome, State.sliceDo, h.inLedger, State.sliceLast, h.held, hu, hlost]
  rw [hserve]
  exact ⟨State.enledger_inLedger _ line, (State.enledger_held _ line).trans (State.dropLine_held u line)⟩

end

/-! ### The commands (R218, R260) -/

/-- A request at a line's home completes: with ACCESS_VIOLATION where its master cannot reach the line, else as its effect says. -/
theorem atHome_answers {s : State} {m : Master} {line : Nat} {k : State → State} {i : Instr} {c : Prop} {p : State → Prop}
    (hexec : exec i s = atHome m line s k) (hpower : s.powered = true) (hok : c → s.lineOk m line = true)
    (hp : c → p (k { s with ended := none })) :
    ∃ t, exec i s = .next t ∧ (s.lineOk m line = false → t = { s with ended := some (line, stAccess) }) ∧ (c → p t) := by
  refine ⟨_, hexec.trans (if_pos hpower), fun hno => if_neg (by simp [hno]), fun hc => ?_⟩
  rw [if_pos (hok hc)]
  exact hp hc

theorem exec_read {cl : Nat} (hcl : cl < 64) (line hint asid : Nat) (lenient : Bool) (err : MemErr) (s : State) :
    exec (.read cl line hint asid lenient err) s = atHome .core line s fun s =>
      s.request line { kind := if hint % 4 = 2 then .last else .read, cl := cl, hint := hint % 4, asid := asid,
                       lenient := lenient } err := by
  have hexec : exec (.read cl line hint asid lenient err) s = execRead cl line hint asid lenient err s := by rfl
  rw [hexec, execRead, unit, if_pos hcl]

theorem exec_own {s : State} {cl line : Nat} {x : CcLine} (hcl : cl < 64) (hx : s.cc cl line = some x) (hst : x.st = .pend)
    (hasked : x.asked = false) :
    exec (.own cl line) s = atHome .core line s fun s => (s.putCc cl line (some { x with asked := true })).request line
      { kind := .own, cl := cl, hint := x.hint, asid := x.pinAsid } .none := by
  have hexec : exec (.own cl line) s = execOwn cl line s := by rfl
  simp [hexec, execOwn, unit, hcl, hx, need, hst, hasked]

theorem exec_sliceRead (m : Master) (line hint asid : Nat) (lenient narrow : Bool) (err : MemErr) (s : State) :
    exec (.sliceRead m line hint asid lenient narrow err) s = atHome m line s fun s =>
      s.request line { kind := if hint % 4 = 2 then .last else .sread, m := m, hint := hint % 4, asid := asid, lenient := lenient,
                       narrow := narrow } err := by rfl

theorem exec_sliceWrite (m : Master) (line hint asid : Nat) (data : List (Nat × Byte)) (s : State) :
    exec (.sliceWrite m line hint asid data) s = atHome m line s fun s =>
      s.request line { kind := .swrite, m := m, hint := hint % 4, asid := asid, data := data.map fun w => (w.1 % 256, w.2) } .none := by
  rfl

theorem exec_lastuseRead (m : Master) (line asid : Nat) (lenient narrow : Bool) (err : MemErr) (s : State) :
    exec (.lastuseRead m line asid lenient narrow err) s = atHome m line s fun s =>
      s.request line { kind := .last, m := m, hint := 2, asid := asid, lenient := lenient, narrow := narrow } err := by rfl

/-- Offsets within a line are their own remainders. -/
theorem map_offsets_eq {data : List (Nat × Byte)} (h : ∀ w ∈ data, w.1 < 256) : (data.map fun w => (w.1 % 256, w.2)) = data := by
  refine (List.map_congr_left fun w hw => ?_).trans (List.map_id data)
  rw [Nat.mod_eq_of_lt (h w hw)]
  rfl

end Sys2Proof.Machine

open Sys2Proof Sys2Proof.Machine

/-- Settles O30: every request completes (`atHome_answers`); one for a line at rest is served at once (`State.Resting.request`), and
its effect is that of its kind. -/
theorem homeSliceRequests : Obligations.HomeSliceRequests := by
  unfold Obligations.HomeSliceRequests
  intro cut still
  have hok {s : State} {m : Master} {line : Nat} (h : still s m line) : s.lineOk m line = true := by
    obtain ⟨-, hline, -⟩ := h
    exact hline
  have hrests {s : State} {m : Master} {line : Nat} (h : still s m line) : ∃ y, { s with ended := none }.Resting line y := by
    obtain ⟨-, -, hdir, hlost, hledger, hcached, hheld, hroom⟩ := h
    obtain ⟨y, hy⟩ := Option.isSome_iff_exists.1 hheld
    exact ⟨y, hy, hdir, hlost, hledger, hcached, hroom⟩
  refine ⟨fun s cl line hint asid len err hcl hpower => atHome_answers (exec_read hcl line hint asid len err s) hpower hok ?read,
    fun s cl line x hcl hpower hx hst hasked => atHome_answers (exec_own hcl hx hst hasked) hpower hok ?own,
    fun s m line hint asid len nar err hpower => atHome_answers (exec_sliceRead m line hint asid len nar err s) hpower hok ?sread,
    fun s m line hint asid data hpower => atHome_answers (exec_sliceWrite m line hint asid data s) hpower hok ?swrite,
    fun s m line asid len nar err hpower => atHome_answers (exec_lastuseRead m line asid len nar err s) hpower hok ?last⟩
  case read =>
    intro hstill herr hhint hcc hfull
    obtain ⟨y, hrest⟩ := hrests hstill
    rw [herr, hrest.request, if_neg hhint]
    exact hrest.readHome hcc hfull (hint % 4) asid len
  case own =>
    intro hstill
    obtain ⟨y, hrest⟩ := hrests hstill
    have hasking : ({ s with ended := none }.putCc cl line (some { x with asked := true })).Resting line y :=
      ⟨hrest.held, hrest.dirEnt, hrest.lostIn, hrest.inLedger, hrest.uncacheable, hrest.room⟩
    rw [hasking.request]
    exact hasking.ownHome cl x.hint x.pinAsid
  case sread =>
    intro hstill herr hhint o
    obtain ⟨y, hrest⟩ := hrests hstill
    rw [herr, hrest.request, if_neg hhint, hrest.sliceRead rfl]
    rfl
  case swrite =>
    intro hstill hdata hguard
    obtain ⟨y, hrest⟩ := hrests hstill
    rw [hrest.request, map_offsets_eq hdata]
    obtain ⟨hledger, hvalue⟩ := hrest.sliceWrite
      (r := { kind := .swrite, m := m, hint := hint % 4, asid := asid, data := data }) rfl hguard
    exact ⟨hledger, fun o => congrArg (look 0 · o) hvalue⟩
  case last =>
    intro hstill herr
    obtain ⟨y, hrest⟩ := hrests hstill
    rw [herr, hrest.request]
    exact hrest.lastUse rfl
end

section
/-! PROOF. What a record, a journal entry, a burst and a due distance table leave alone: every unit, and memory (R253, R321, R411,
R448). -/

namespace Sys2Proof.Machine

/-- `t` is `s` but for the network, the boot side and what the hosts see: the same units, memory and mappings. -/
def State.SameUnits (s t : State) : Prop :=
  { t with free := s.free, ticks := s.ticks, evlSeq := s.evlSeq, ports := s.ports, funcs := s.funcs, host := s.host, boot := s.boot,
           net := s.net } = s

theorem State.SameUnits.refl (s : State) : s.SameUnits s := rfl

theorem State.SameUnits.trans {s t u : State} (h : s.SameUnits t) (k : t.SameUnits u) : s.SameUnits u := by
  unfold State.SameUnits at h k ⊢
  rw [← k] at h
  exact h

/-- What reads the units alone reads the same. -/
theorem State.SameUnits.field {s t : State} (h : s.SameUnits t) {α : Type} (π : State → α)
    (hπ : ∀ x : State, π { x with free := s.free, ticks := s.ticks, evlSeq := s.evlSeq, ports := s.ports, funcs := s.funcs,
                                  host := s.host, boot := s.boot, net := s.net } = π x) : π t = π s := by
  rw [← hπ t]
  exact congrArg π h

theorem State.SameUnits.channel {s t : State} (h : s.SameUnits t) (ch : Nat) : t.channel ch = s.channel ch :=
  h.field (fun x => x.channel ch) fun _ => rfl

theorem State.SameUnits.region {s t : State} (h : s.SameUnits t) (r : Nat) : t.region r = s.region r :=
  h.field (fun x => x.region r) fun _ => rfl

theorem RecordOnly.sameUnits {s t : State} (h : RecordOnly s t) : s.SameUnits t := by
  obtain ⟨hstate, -, -⟩ := h
  unfold State.SameUnits
  rw [← hstate]

theorem State.SameButNet.sameUnits {s t : State} (h : s.SameButNet t) : s.SameUnits t := by
  unfold State.SameButNet at h
  unfold State.SameUnits
  rw [← h]

theorem State.record_sameUnits (s : State) (typ level action status : Nat) (loc : BitVec 32) (detail : BitVec 128) :
    s.SameUnits (s.record typ level action status loc detail) := (record_only s typ level action status loc detail).sameUnits

theorem State.dtDue_sameUnits (s : State) : s.SameUnits s.dtDue := rfl

theorem State.onBoot_sameUnits (s : State) (g : Boot → Boot) : s.SameUnits (s.onBoot g) := rfl

theorem State.onFlash_sameUnits (s : State) (g : Flash → Flash) : s.SameUnits (s.onFlash g) := s.onBoot_sameUnits _

theorem State.onFuses_sameUnits (s : State) (g : Fuses → Fuses) : s.SameUnits (s.onFuses g) := s.onBoot_sameUnits _

theorem State.burst_sameUnits (s : State) (ch cls bytes : Nat) (narrow owner : Bool) :
    s.SameUnits (s.burst ch cls bytes narrow owner) := (s.netSend_sameButNet _).sameUnits

/-- A journal entry is in the flash; fuses and a record of a full array are all else that it changes (R449, R451). -/
theorem State.journal_sameUnits (s : State) (es : List (Nat × List Byte)) : s.SameUnits (s.journal es) := by
  have hflash := s.onFlash_sameUnits fun f => f.append es
  unfold State.journal
  dsimp only
  split
  · exact hflash
  · split
    · exact (hflash.trans (State.onFuses_sameUnits _ _)).trans (State.onFlash_sameUnits _ _)
    · split
      · exact hflash
      · exact (hflash.trans (State.onFuses_sameUnits _ _)).trans (State.record_sameUnits ..)

end Sys2Proof.Machine
end

section
/-! PROOF. The patrol scrub (R273), and the retirement of a page (R276 to R278). -/

namespace Sys2Proof.Machine

/-! ### Refresh and patrol scrub -/

theorem exec_refresh {s : State} {ch : Nat} (hch : ch < 576) (hpower : s.powered = true) (hservice : s.inService ch = true) :
    exec (.refresh ch) s = .next (s.modChannel ch fun c => { c with refreshRow := (c.refreshRow + 1) % 2 ^ 20 }) := by
  have hexec : exec (.refresh ch) s = execRefresh ch s := by rfl
  simp only [hexec, execRefresh, unit, need, if_pos hch, hpower, hservice, Bool.and_self, if_true]

/-- A line whose codewords show no error is read, and that is all. -/
theorem State.scrubLine_none (s : State) (ch line : Nat) :
    (s.modChannel ch fun c => { c with burstRd := bump 48 c.burstRd }).SameUnits (s.scrubLine ch line .none) :=
  State.burst_sameUnits _ ch 6 256 false false

/-- The state in which SCRUB has read its line, or has skipped it. -/
def State.scrubRead (s : State) (ch : Nat) (err : MemErr) : State :=
  let a := s.addrOfCla ch (s.channel ch).scrubAt
  if s.isLight a || s.retiredPage a then s else s.scrubLine ch (a / 256) err

/-- A scrub that meets no error changes only its own channel. -/
theorem State.scrubRead_none (s : State) (ch : Nat) : (s.scrubRead ch .none).mem = s.mem ∧ (s.scrubRead ch .none).slices = s.slices ∧
    (s.scrubRead ch .none).clusters = s.clusters ∧ ∀ k, k ≠ ch → (s.scrubRead ch .none).channel k = s.channel k := by
  unfold State.scrubRead
  dsimp only
  split
  · exact ⟨rfl, rfl, rfl, fun _ _ => rfl⟩
  · have hsame := s.scrubLine_none ch (s.addrOfCla ch (s.channel ch).scrubAt / 256)
    refine ⟨hsame.field State.mem fun _ => rfl, hsame.field State.slices fun _ => rfl, hsame.field State.clusters fun _ => rfl,
      fun k hk => ?_⟩
    rw [hsame.channel, State.modChannel_channel, if_neg hk]

theorem exec_scrub {s : State} {ch : Nat} (err : MemErr) (hch : ch < 576) (hpower : s.powered = true) (hservice : s.inService ch = true) :
    exec (.scrub ch err) s = .next ((s.scrubRead ch err).modChannel ch fun c =>
      { c with scrubAt := ((s.channel ch).scrubAt + 1) % 2 ^ 22,
               scrubPass := if (s.channel ch).scrubAt + 1 = 2 ^ 22 then bump 48 c.scrubPass else c.scrubPass }) := by
  have hexec : exec (.scrub ch err) s = execScrub ch err s := by rfl
  simp only [hexec, execScrub, unit, need, if_pos hch, hpower, hservice, Bool.and_self, if_true]
  rfl

/-! ### Page retirement -/

/-- Whether a page is retired follows from the lists of its channel and its region. -/
theorem State.retiredPage_congr {s t : State} (hchannel : ∀ ch, (t.channel ch).retired = (s.channel ch).retired)
    (hregion : ∀ r, (t.region r).poolRetired = (s.region r).poolRetired) (a : Nat) : t.retiredPage a = s.retiredPage a := by
  simp only [State.retiredPage, hchannel, hregion]

theorem State.SameUnits.retiredPage {s t : State} (h : s.SameUnits t) (a : Nat) : t.retiredPage a = s.retiredPage a :=
  h.field (fun x => x.retiredPage a) fun _ => rfl

/-- A change of a channel that keeps its list keeps what is retired. -/
theorem State.modChannel_retiredPage (s : State) (ch : Nat) {g : Channel → Channel} (hg : ∀ c, (g c).retired = c.retired) (a : Nat) :
    (s.modChannel ch g).retiredPage a = s.retiredPage a := by
  refine State.retiredPage_congr (s := s) (t := s.modChannel ch g) (fun k => ?_) (fun _ => rfl) a
  rw [State.modChannel_channel]
  split
  · next h => rw [hg, h]
  · rfl

theorem State.modRegion_retiredPage (s : State) (r : Nat) {g : Region → Region} (hg : ∀ x, (g x).poolRetired = x.poolRetired) (a : Nat) :
    (s.modRegion r g).retiredPage a = s.retiredPage a := by
  refine State.retiredPage_congr (s := s) (t := s.modRegion r g) (fun _ => rfl) (fun k => ?_) a
  rw [State.modRegion_region]
  split
  · next h => rw [hg, h]
  · rfl

/-- A page recorded as retired is retired. -/
theorem State.markRetired_retiredPage (s : State) (pg src : Nat) : (s.markRetired pg src).retiredPage (pg * 65536) = true := by
  unfold State.markRetired
  dsimp only
  rw [(State.journal_sameUnits _ _).retiredPage, (State.onFlash_sameUnits _ _).retiredPage]
  split
  · next hchannel => simp [State.retiredPage, hchannel]
  · next hpool =>
    refine (State.modChannel_retiredPage _ _ (by intro c; rfl) _).trans ?_
    simp [State.retiredPage, hpool]

/-- Once a page has moved to a free one, it is retired. -/
theorem State.retireTo_retiredPage (s : State) (addr new cause : Nat) :
    (s.retireTo addr new cause).retiredPage (addr / 65536 * 65536) = true := by
  unfold State.retireTo
  dsimp only
  rw [(State.record_sameUnits ..).retiredPage]
  refine (State.modRegion_retiredPage _ _ (by intro r; rfl) _).trans ?_
  refine (State.modChannel_retiredPage _ _ (by intro c; rfl) _).trans ?_
  exact State.markRetired_retiredPage _ _ _

/-- The page of an address waits to be retired. -/
def State.awaitRetire (s : State) (addr : Nat) : State :=
  s.modRegion (dpaReg addr) fun r =>
    { r with retireWait := if r.retireWait.contains (addr / 65536) then r.retireWait else r.retireWait ++ [addr / 65536] }

theorem State.awaitRetire_mem (s : State) (addr : Nat) : addr / 65536 ∈ ((s.awaitRetire addr).region (dpaReg addr)).retireWait := by
  rw [State.awaitRetire, State.modRegion_region, if_pos rfl]
  dsimp only
  split
  · next hlisted => simpa using hlisted
  · simp

/-- The free page that a page goes to: the one named where it may move there, else the lowest (R277 step 1). -/
def State.retireGoal (s : State) (pg : Nat) (new : Option Nat) : Option Nat := (new.filter (s.mayMove pg)).or (s.lowestFree pg)

theorem State.retireGoal_named {s : State} {pg n : Nat} (h : s.mayMove pg n = true) : s.retireGoal pg (some n) = some n := by
  simp [State.retireGoal, h]

theorem State.retireGoal_none {s : State} {pg : Nat} {new : Option Nat} (hnew : ∀ n, new = some n → s.mayMove pg n = false)
    (hfree : s.lowestFree pg = none) : s.retireGoal pg new = none := by
  have hfilter : new.filter (s.mayMove pg) = none := by
    rw [Option.filter_eq_none_iff]
    intro n hn
    simp [hnew n hn]
  rw [State.retireGoal, hfilter, hfree]
  rfl

theorem exec_pageRetirement {s : State} {addr cause : Nat} (new : Option Nat) (hup : s.mainlandUp = true)
    (hhome : (s.home addr).isSome = true)
    (hcause : (s.channel (s.homeOfLine (addr / 256)).chan).retireCause (addr / 64) cause = true)
    (hheld : s.lostPage (addr / 65536) = false) :
    exec (.pageRetirement addr new cause) s = .next ((s.retireGoal (addr / 65536) new).elim (s.awaitRetire addr)
      fun n => s.retireTo addr n cause) := by
  have hexec : exec (.pageRetirement addr new cause) s = execPageRetirement addr new cause s := by rfl
  have hgoal : (new.filter (s.mayMove (addr / 65536))).or (s.lowestFree (addr / 65536)) = s.retireGoal (addr / 65536) new := rfl
  simp only [hexec, execPageRetirement, need, hup, hhome, hcause, hheld, Bool.not_false, Bool.and_self, if_true, hgoal]
  cases s.retireGoal (addr / 65536) new <;> rfl

end Sys2Proof.Machine
end

section
/-! PROOF. The map-out of a channel (R280 to R282). -/

namespace Sys2Proof.Machine

/-! ### The regions of a pool -/

theorem State.poolRegions_nodup (s : State) (ch : Nat) : (s.poolRegions ch).Nodup := by
  unfold State.poolRegions
  dsimp only
  split <;> simp

theorem State.onRegions_frame (s : State) (rs : List Nat) (g : Region → Region) : { s.onRegions rs g with regions := s.regions } = s :=
  List.foldlRecOn (motive := fun t : State => { t with regions := s.regions } = s) rs _ rfl fun _ ht _ _ => ht

theorem State.onRegions_channel (s : State) (rs : List Nat) (g : Region → Region) (ch : Nat) :
    (s.onRegions rs g).channel ch = s.channel ch :=
  (congrArg (fun t : State => t.channel ch) (s.onRegions_frame rs g) :)

/-- A change of several regions changes each of them once. -/
theorem State.onRegions_region {rs : List Nat} (hrs : rs.Nodup) (s : State) (g : Region → Region) (r : Nat) :
    (s.onRegions rs g).region r = if r ∈ rs then g (s.region r) else s.region r := by
  induction rs generalizing s with
  | nil => rfl
  | cons k ks ih =>
    obtain ⟨hk, hks⟩ := List.nodup_cons.1 hrs
    have hstep : s.onRegions (k :: ks) g = (s.modRegion k g).onRegions ks g := rfl
    rw [hstep, ih hks, State.modRegion_region]
    by_cases hr : r = k
    · subst hr
      simp [hk]
    · simp [hr]

/-! ### The layout of a pool (R219, R261) -/

/-- The same layout: channels in service, step counts, die-wide pools and mapped pages. -/
structure State.SameLayout (s t : State) : Prop where
  ptes : t.ptes = s.ptes
  inService : ∀ ch, t.inService ch = s.inService ch
  privSteps : ∀ r, (t.region r).privSteps = (s.region r).privSteps
  dieWide : ∀ r, (t.region r).dieWide = (s.region r).dieWide

theorem State.SameUnits.sameLayout {s t : State} (h : s.SameUnits t) : s.SameLayout t where
  ptes := h.field State.ptes fun _ => rfl
  inService ch := by rw [State.inService, h.channel, State.inService]
  privSteps r := by rw [h.region]
  dieWide r := by rw [h.region]

theorem State.SameLayout.trans {s t u : State} (h : s.SameLayout t) (k : t.SameLayout u) : s.SameLayout u where
  ptes := k.ptes.trans h.ptes
  inService ch := (k.inService ch).trans (h.inService ch)
  privSteps r := (k.privSteps r).trans (h.privSteps r)
  dieWide r := (k.dieWide r).trans (h.dieWide r)

theorem State.SameLayout.poolRegions {s t : State} (h : s.SameLayout t) (ch : Nat) : t.poolRegions ch = s.poolRegions ch := by
  simp only [State.poolRegions, h.dieWide]

theorem State.SameLayout.beyond {s t : State} (h : s.SameLayout t) (ch : Nat) : t.beyond ch = s.beyond ch := by
  have hgood : t.goodRegion = s.goodRegion := by
    funext r
    simp only [State.goodRegion, funext h.inService]
  have hleft : t.poolLeft ch = s.poolLeft ch := by
    simp only [State.poolLeft, State.privSteps, h.poolRegions, h.privSteps, hgood]
  simp only [State.beyond, State.mapped, h.ptes, h.poolRegions, hleft]

/-- A change of the regions' states alone leaves the layout. -/
theorem State.onRegions_sameLayout (s : State) {rs : List Nat} (hrs : rs.Nodup) {g : Region → Region}
    (hpriv : ∀ x, (g x).privSteps = x.privSteps) (hwide : ∀ x, (g x).dieWide = x.dieWide) : s.SameLayout (s.onRegions rs g) where
  ptes := (congrArg State.ptes (s.onRegions_frame rs g) :)
  inService ch := by rw [State.inService, State.onRegions_channel, State.inService]
  privSteps r := by
    rw [State.onRegions_region hrs]
    split
    · exact hpriv _
    · rfl
  dieWide r := by
    rw [State.onRegions_region hrs]
    split
    · exact hwide _
    · rfl

/-! ### A channel that stops answering -/

/-- The channel marked as lost and recorded, before the announcement. -/
def State.markLost (s : State) (ch : Nat) : State :=
  (s.modChannel ch fun c => { c with lost := true }).record 0x17 1 0x10 0 (locOf 6 ch) (detailOf [(0, 1, 2)])

theorem State.markLost_channel (s : State) (ch : Nat) : ((s.markLost ch).channel ch).lost = true := by
  rw [State.markLost, (State.record_sameUnits ..).channel, State.modChannel_channel, if_pos rfl]

theorem State.markLost_region (s : State) (ch r : Nat) : (s.markLost ch).region r = s.region r :=
  (State.record_sameUnits ..).region r

/-- A region whose pool is to lose a channel, unless it is to lose another first (Table 08.9 step 0). -/
def Region.announce (ch : Nat) (r : Region) : Region := { r with memState := 2, mapOut := some (r.mapOut.getD ch) }

theorem exec_channelLost {s : State} {ch : Nat} (hch : ch < 576) (hup : s.mainlandUp = true) (hservice : s.inService ch = true)
    (hlost : (s.channel ch).lost = false) :
    exec (.channelLost ch) s = .next ((s.markLost ch).onRegions (s.poolRegions ch) (Region.announce ch)) := by
  have hexec : exec (.channelLost ch) s = execChannelLost ch s := by rfl
  simp only [hexec, execChannelLost, unit, need, if_pos hch, hup, hservice, hlost, Bool.not_false, Bool.and_self, if_true]
  rfl

/-! ### The map-out step by step (Table 08.9) -/

/-- A region whose pool loses a channel now. -/
def Region.mappingOut (ch : Nat) (r : Region) : Region := { r with memState := 2, mapOut := some ch }

/-- The start of a map-out: recorded where it was not announced before, and announced for this channel. -/
def State.startMapOut (s : State) (ch : Nat) : State :=
  (if (s.region (regionOfChan ch)).mapOut.isSome || (s.channel ch).lost then s
    else s.record 0x17 1 0x10 0 (locOf 6 ch) (detailOf [(0, 1, 1)])).onRegions (s.poolRegions ch) (Region.mappingOut ch)

/-- Once its pages beyond the smaller pool have moved down, as far as there is room (R281). -/
def State.movedDown (s : State) (ch : Nat) (moves : List (Nat × Nat)) : State :=
  ((s.startMapOut ch).beyond ch).foldl (fun s pg => s.moveDown ch moves pg) (s.startMapOut ch)

theorem exec_channelMapOut {s : State} {ch : Nat} (moves : List (Nat × Nat)) (pause : Nat) (hch : ch < 576) (hup : s.mainlandUp = true)
    (hservice : s.inService ch = true) (hdue : s.mapOutDue ch = true) (hfirst : (s.region (regionOfChan ch)).mapOut.getD ch = ch) :
    exec (.channelMapOut ch moves pause) s = .next (let t := s.movedDown ch moves
      if (t.beyond ch).isEmpty then t.mapOut ch (min pause 25000)
      else t.onRegions (s.poolRegions ch) fun r => { r with memState := 3 }) := by
  have hexec : exec (.channelMapOut ch moves pause) s = execChannelMapOut ch moves pause s := by rfl
  simp only [hexec, execChannelMapOut, unit, need, if_pos hch, hup, hservice, hdue, hfirst, BEq.rfl, Bool.and_self, if_true]
  rfl

theorem State.startMapOut_recorded (s : State) (ch : Nat) :
    ∃ u, s.SameUnits u ∧ s.startMapOut ch = u.onRegions (s.poolRegions ch) (Region.mappingOut ch) := by
  refine ⟨_, ?_, rfl⟩
  split
  · exact .refl s
  · exact State.record_sameUnits ..

theorem State.startMapOut_sameLayout (s : State) (ch : Nat) : s.SameLayout (s.startMapOut ch) := by
  obtain ⟨u, hu, hstart⟩ := s.startMapOut_recorded ch
  rw [hstart]
  exact hu.sameLayout.trans (u.onRegions_sameLayout (s.poolRegions_nodup ch) (fun _ => rfl) fun _ => rfl)

/-- Where no mapped page lies beyond the smaller pool, none has to move down. -/
theorem State.movedDown_none {s : State} {ch : Nat} (h : s.beyond ch = []) (moves : List (Nat × Nat)) :
    s.movedDown ch moves = s.startMapOut ch := by
  rw [State.movedDown, (s.startMapOut_sameLayout ch).beyond, h]
  rfl

/-- The cores whose arrays stop while the pool is laid out anew. -/
def State.poolCores (s : State) (ch : Nat) : List Nat :=
  s.logicalCores.filter fun l => (s.poolRegions ch).contains (regionOfCluster (s.clusterOf l))

/-- Step 1: arrays stopped, and what the cluster caches have accepted performed. -/
def State.poolStopped (s : State) (ch : Nat) : State :=
  (s.poolRegions ch).foldl (fun s r => (List.range 8).foldl (fun s i => s.drainCluster (r * 8 + i)) s)
    (s.eachArray (s.poolCores ch) fun l a s => s.stopArray l a)

/-- The slices of a pool. -/
def State.poolSlices (s : State) (ch : Nat) : List Nat := (s.poolRegions ch).flatMap fun r => (List.range 8).map (r * 8 + ·)

/-- Step 2: the slices of the pool flushed, with the pins found. -/
def State.poolFlushed (s : State) (ch : Nat) : State × List (Nat × PinKind) := (s.poolStopped ch).flushSlices (s.poolSlices ch)

/-- After a map-out the pool's regions are in the normal state. -/
def Region.settle (r : Region) : Region := { r with memState := 0, mapOut := none }

/-- A channel out of service. -/
def Channel.out (c : Channel) : Channel := { c with mappedOut := true, lost := false, orphaned := false }

theorem State.mapOut_settles (s : State) (ch pause : Nat) :
    ∃ u : State, s.mapOut ch pause = (u.onRegions (s.poolRegions ch) Region.settle).dtDue := by
  unfold State.mapOut
  extract_lets rs lost ls stopped drained
  obtain ⟨u, pins⟩ := drained.flushSlices _
  exact ⟨_, rfl⟩

/-- The map-out of an answering channel that has no owner, in whose pool nothing is pinned. -/
theorem State.mapOut_unowned {s u : State} {ch : Nat} (hlost : (s.channel ch).lost = false) (hflush : s.poolFlushed ch = (u, []))
    (howner : (u.countRelay ch).ownerOf ch = none) (pause : Nat) :
    s.mapOut ch pause = ((((((u.countRelay ch).journal [(8, journalBody [(4, (locOf 6 ch).toNat)])]).modChannel ch Channel.out).eachArray
      (s.poolCores ch) fun l a s => s.resumeArray l a).record 0x18 1 0x08 0 (locOf 6 ch)
        (detailOf [(0, 2, 0xFFFF), (4, 4, pause)])).onRegions (s.poolRegions ch) Region.settle).dtDue := by
  unfold State.mapOut
  extract_lets rs lost ls stopped drained
  have hdrained : drained.flushSlices (rs.flatMap fun r => (List.range 8).map (r * 8 + ·)) = (u, []) := hflush
  have hanswers : lost = false := hlost
  rw [hdrained]
  dsimp only
  rw [howner, hanswers]
  rfl

/-! ### A package in which nothing is cached or runs -/

/-- No slice holds a line, no cluster cache one, and no core runs a task. -/
structure State.Quiet (s : State) : Prop where
  slices : s.slices = []
  clusters : s.clusters = []
  cores : s.cores = []

/-- A core that nothing is listed of runs no task. -/
theorem State.eachArray_quiet {s : State} (hcores : s.cores = []) (ls : List Nat) (g : Nat → Nat → State → State) :
    s.eachArray ls g = s :=
  List.foldlRecOn (motive := fun t => t = s) ls _ rfl fun t ht l _ => by
    have htask : (s.core l).task = none := by
      rw [State.core, hcores]
      rfl
    subst ht
    simp [htask]

theorem State.drainCluster_quiet {s : State} (hclusters : s.clusters = []) (cl : Nat) : s.drainCluster cl = s := by
  have hnone : s.cluster cl = {} := by
    rw [State.cluster, hclusters]
    rfl
  rw [State.drainCluster, hnone]
  rfl

theorem State.Quiet.poolStopped {s : State} (h : s.Quiet) (ch : Nat) : s.poolStopped ch = s := by
  rw [State.poolStopped, State.eachArray_quiet h.cores]
  refine List.foldlRecOn (motive := fun t => t = s) _ _ rfl fun t ht r _ => ?_
  subst ht
  exact List.foldlRecOn (motive := fun u => u = t) _ _ rfl fun u hu i _ => hu ▸ State.drainCluster_quiet (hu ▸ h.clusters) _

/-- No slice holds a line. -/
def State.SlicesEmpty (s : State) : Prop := ∀ k, (s.slice k).sets = [] ∧ (s.slice k).dir = []

/-- Slices without lines have nothing to flush, and no pin. -/
theorem State.flushSlices_empty (ks : List Nat) {s : State} (h : s.SlicesEmpty) :
    ∃ u : State, s.flushSlices ks = (u, []) ∧ { u with slices := s.slices } = s := by
  induction ks generalizing s with
  | nil => exact ⟨s, rfl, rfl⟩
  | cons k ks ih =>
    obtain ⟨hsets, hdir⟩ := h k
    have hstep : s.flushSlice k = (s.modSlice k fun sl =>
        { sl with sets := [], ledger := [], ledOver := (sl.ledOver + sl.ledger.length) % 2 ^ 48 }, []) := by
      simp [State.flushSlice, Slice.lines, hsets, hdir]
    obtain ⟨u, hu, hframe⟩ := ih (s := (s.flushSlice k).1) fun j => by
      rw [hstep, State.modSlice_slice]
      split
      · exact ⟨rfl, hdir⟩
      · exact h j
    rw [hstep] at hu hframe
    refine ⟨u, ?_, ?_⟩
    · rw [State.flushSlices, hstep]
      dsimp only
      rw [hu]
      rfl
    · exact (congrArg (fun x : State => { x with slices := s.slices }) hframe :)

theorem State.Quiet.poolFlushed {s : State} (h : s.Quiet) (ch : Nat) :
    ∃ u : State, s.poolFlushed ch = (u, []) ∧ { u with slices := s.slices } = s := by
  rw [State.poolFlushed, h.poolStopped]
  refine State.flushSlices_empty _ fun k => ?_
  rw [State.slice, h.slices]
  exact ⟨rfl, rfl⟩

theorem State.countRelay_frame (s : State) (ch : Nat) : { s.countRelay ch with channels := s.channels } = s :=
  List.foldlRecOn (motive := fun t : State => { t with channels := s.channels } = s) _ _ rfl fun _ ht _ _ => ht

theorem State.ownerOf_congr {s t : State} (h : t.lcores = s.lcores) (ch : Nat) : t.ownerOf ch = s.ownerOf ch := by
  have hcore : t.hasCore = s.hasCore := by
    funext l
    simp only [State.hasCore, State.lcore, h]
  simp only [State.ownerOf, State.logicalCores, State.lcore, hcore, h]

/-- In a quiet package an answering channel without owner is out of service once it is mapped out. -/
theorem State.Quiet.mapOut_mappedOut {s : State} (h : s.Quiet) {ch : Nat} (howner : s.ownerOf ch = none)
    (hlost : (s.channel ch).lost = false) (pause : Nat) : ((s.mapOut ch pause).channel ch).mappedOut = true := by
  obtain ⟨u, hflush, hframe⟩ := h.poolFlushed ch
  have hrelay := u.countRelay_frame ch
  have hlcores : (u.countRelay ch).lcores = s.lcores := Eq.trans (congrArg State.lcores hrelay :) (congrArg State.lcores hframe :)
  have hcores : (u.countRelay ch).cores = [] := Eq.trans (congrArg State.cores hrelay :) ((congrArg State.cores hframe :).trans h.cores)
  have hout : (((u.countRelay ch).journal [(8, journalBody [(4, (locOf 6 ch).toNat)])]).modChannel ch Channel.out).cores = [] :=
    ((State.journal_sameUnits (u.countRelay ch) _).field State.cores fun _ => rfl).trans hcores
  rw [State.mapOut_unowned hlost hflush ((State.ownerOf_congr hlcores ch).trans howner), State.eachArray_quiet hout,
    (State.dtDue_sameUnits _).channel, State.onRegions_channel, (State.record_sameUnits ..).channel, State.modChannel_channel, if_pos rfl]
  rfl

theorem State.startMapOut_quiet {s : State} (h : s.Quiet) (ch : Nat) : (s.startMapOut ch).Quiet := by
  obtain ⟨u, hu, hstart⟩ := s.startMapOut_recorded ch
  have hframe := u.onRegions_frame (s.poolRegions ch) (Region.mappingOut ch)
  rw [hstart]
  exact ⟨(congrArg State.slices hframe :).trans ((hu.field State.slices fun _ => rfl).trans h.slices),
    (congrArg State.clusters hframe :).trans ((hu.field State.clusters fun _ => rfl).trans h.clusters),
    (congrArg State.cores hframe :).trans ((hu.field State.cores fun _ => rfl).trans h.cores)⟩

theorem State.startMapOut_lcores (s : State) (ch : Nat) : (s.startMapOut ch).lcores = s.lcores := by
  obtain ⟨u, hu, hstart⟩ := s.startMapOut_recorded ch
  rw [hstart]
  exact (congrArg State.lcores (u.onRegions_frame _ _) :).trans (hu.field State.lcores fun _ => rfl)

theorem State.startMapOut_channel (s : State) (ch k : Nat) : (s.startMapOut ch).channel k = s.channel k := by
  obtain ⟨u, hu, hstart⟩ := s.startMapOut_recorded ch
  rw [hstart, State.onRegions_channel, hu.channel]

end Sys2Proof.Machine

open Sys2Proof Sys2Proof.Machine

/-- Settles O33: a clean scrub changes its own channel alone (`State.scrubRead_none`); a page that moves is recorded as retired last
(`State.retireTo_retiredPage`); a pool with nothing beyond its new size is laid out anew (`State.movedDown_none`), which settles its
regions (`State.mapOut_settles`), and in a quiet package no pin or owner comes between (`State.Quiet.mapOut_mappedOut`). -/
theorem denseChannelCommands : Obligations.DenseChannelCommands := by
  unfold Obligations.DenseChannelCommands
  refine ⟨fun s ch hch hpower hservice => ?refresh, fun s ch err hch hpower hservice => ?scrub,
    fun s addr new cause hup hhome hcause hheld => ⟨_, exec_pageRetirement new hup hhome hcause hheld, fun n hnew hmay => ?named,
      fun hnew hfree => ?waits⟩,
    fun s ch hch hup hservice hlost => ⟨_, exec_channelLost hch hup hservice hlost, ?lost, fun r hr => ?announced⟩,
    fun s ch moves pause hch hup hservice hdue hfirst => ⟨_, exec_channelMapOut moves pause hch hup hservice hdue hfirst,
      fun hbeyond => ?mapOut⟩⟩
  case refresh =>
    refine ⟨_, exec_refresh hch hpower hservice, ?_, ?_, fun k hk => ?_, rfl⟩
    · rw [State.modChannel_channel, if_pos rfl]
    · rw [State.modChannel_channel, if_pos rfl]
    · rw [State.modChannel_channel, if_neg hk]
  case scrub =>
    refine ⟨_, exec_scrub err hch hpower hservice, ?_, fun herr => ?_⟩
    · rw [State.modChannel_channel, if_pos rfl]
    · subst herr
      obtain ⟨hmem, hslices, hclusters, hothers⟩ := s.scrubRead_none ch
      refine ⟨hmem, hslices, hclusters, fun k hk => ?_⟩
      rw [State.modChannel_channel, if_neg hk, hothers k hk]
  case named =>
    subst hnew
    rw [State.retireGoal_named hmay]
    exact s.retireTo_retiredPage addr n cause
  case waits =>
    rw [State.retireGoal_none hnew hfree]
    exact ⟨s.awaitRetire_mem addr, rfl⟩
  case lost => rw [State.onRegions_channel, State.markLost_channel]
  case announced =>
    rw [State.onRegions_region (s.poolRegions_nodup ch), if_pos hr, State.markLost_region]
    exact ⟨rfl, rfl⟩
  case mapOut =>
    have hlayout := s.startMapOut_sameLayout ch
    have hempty : ((s.movedDown ch moves).beyond ch).isEmpty = true := by
      rw [State.movedDown_none hbeyond, hlayout.beyond, hbeyond]
      rfl
    dsimp only
    rw [if_pos hempty, State.movedDown_none hbeyond]
    refine ⟨fun r hr => ?_, fun hslices hclusters hcores howner hlost => ?_⟩
    · obtain ⟨u, hu⟩ := (s.startMapOut ch).mapOut_settles ch (min pause 25000)
      rw [hu, hlayout.poolRegions, (State.dtDue_sameUnits _).region, State.onRegions_region (s.poolRegions_nodup ch), if_pos hr]
      exact ⟨rfl, rfl⟩
    · have hquiet : s.Quiet := ⟨hslices, hclusters, hcores⟩
      refine (State.startMapOut_quiet hquiet ch).mapOut_mappedOut ?_ ?_ _
      · rw [State.ownerOf_congr (s.startMapOut_lcores ch), howner]
      · rw [State.startMapOut_channel, hlost]
end

section
/-! PROOF. Posted writes of the package block (R541, R552). -/

namespace Sys2Proof.Machine

/-! ### The registers of the package block (Tables 15.9 to 15.11) -/

section Registers

variable (s : State) (port : Nat) (v : W64)

theorem State.writePackage_grant {p : Nat} (hp : p < 8) : s.writePackage port (8 * p) v = s.writeGrant port p v := by
  unfold State.writePackage
  rw [if_pos (by omega)]
  exact congrArg (s.writeGrant port · v) (show (8 * p - 0) / 8 = p by omega)

theorem State.writePackage_die {d : Nat} (hd : d < 4) : s.writePackage port (0x80 + 8 * d) v = s.writeDie port d v := by
  unfold State.writePackage
  rw [if_neg (by omega), if_neg (by omega), if_pos (by omega)]
  exact congrArg (s.writeDie port · v) (show (0x80 + 8 * d - 0x80) / 8 = d by omega)

theorem State.writePackage_memCfg {r : Nat} (hr : r < 8) : s.writePackage port (0x100 + 8 * r) v = s.writeMemCfg port r v := by
  unfold State.writePackage
  rw [if_neg (by omega), if_neg (by omega), if_neg (by omega), if_pos (by simp; omega)]
  exact congrArg (s.writeMemCfg port · v) (show (0x100 + 8 * r - 0x100) / 8 = r by omega)

theorem State.writePackage_qos {c : Nat} (hc : c < 7) : s.writePackage port (0x200 + 8 * c) v = s.writeQos port c v := by
  unfold State.writePackage
  rw [if_neg (by omega), if_neg (by omega), if_neg (by omega), if_neg (by simp; omega), if_pos (by simp; omega)]
  exact congrArg (s.writeQos port · v) (show (0x200 + 8 * c - 0x200) / 8 = c by omega)

end Registers

/-! ### The commands of the block (R508, R536, R540, R552) -/

theorem Bar0Open.bar0_eq {s : State} {port fn : Nat} (h : Bar0Open s port fn) (k : State → State) : bar0 port fn k s = .next (k s) := by
  obtain ⟨hport, hfn, hruns, htrip, hthere, hup⟩ := h
  simp [bar0, unit, need, hport, hfn, hruns, htrip, hthere, hup]

/-- The physical function of a port reaches the package block, busy or not. -/
structure State.Reaches (s : State) (port : Nat) : Prop where
  bar0Open : Bar0Open s port 0
  ready : s.boot.state = .ready
  p1Only : s.p1Only port = false

theorem PkbOpen.reaches {s : State} {port : Nat} (h : PkbOpen s port) : s.Reaches port := by
  obtain ⟨hopen, hready, hp1, -⟩ := h
  exact ⟨hopen, hready, hp1⟩

theorem PkbOpen.idle {s : State} {port : Nat} (h : PkbOpen s port) : (s.port port).pkbBusy = false := by
  obtain ⟨-, -, -, hidle⟩ := h
  exact hidle

section Reached

variable {s : State} {port : Nat} (h : s.Reaches port)
include h

/-- A write at an offset of the package block. -/
theorem State.Reaches.bar0_package {off : Nat} (hoff : off < 0x1000) (v : W64) :
    bar0 port 0 (fun s => s.regWrite port 0 (0x300000 + off) v) s = .next (s.writePackage port off v) := by
  have hblock : 0x300000 ≤ 0x300000 + off ∧ 0x300000 + off < 0x301000 := by omega
  rw [h.bar0Open.bar0_eq, State.regWrite, if_neg (by omega), if_neg (by simp [h.ready, h.p1Only]), if_neg (by omega),
    if_neg (by simp; omega), if_neg (by simp; omega), if_pos (by simpa using hblock.2), if_pos rfl, Nat.add_sub_cancel_left]

theorem State.Reaches.exec_partGrantWrite {p : Nat} (hp : p < 8) (v : W64) :
    exec (.partGrantWrite port p v) s = .next (s.writeGrant port p v) := by
  have hexec : exec (.partGrantWrite port p v) s = execPartGrantWrite port p v s := by rfl
  rw [hexec, execPartGrantWrite, unit, if_pos hp, h.bar0_package (by omega), State.writePackage_grant s port v hp]

theorem State.Reaches.exec_partDieWrite {d : Nat} (hd : d < 4) (v : W64) :
    exec (.partDieWrite port d v) s = .next (s.writeDie port d v) := by
  have hexec : exec (.partDieWrite port d v) s = execPartDieWrite port d v s := by rfl
  rw [hexec, execPartDieWrite, unit, if_pos hd, Nat.add_assoc 0x300000 0x80, h.bar0_package (by omega),
    State.writePackage_die s port v hd]

theorem State.Reaches.exec_partMemCfgWrite {r : Nat} (hr : r < 8) (v : W64) :
    exec (.partMemCfgWrite port r v) s = .next (s.writeMemCfg port r v) := by
  have hexec : exec (.partMemCfgWrite port r v) s = execPartMemCfgWrite port r v s := by rfl
  rw [hexec, execPartMemCfgWrite, unit, if_pos hr, Nat.add_assoc 0x300000 0x100, h.bar0_package (by omega),
    State.writePackage_memCfg s port v hr]

theorem State.Reaches.exec_linkQosClassWrite {c : Nat} (hc : c < 7) (v : W64) :
    exec (.linkQosClassWrite port c v) s = .next (s.writeQos port c v) := by
  have hexec : exec (.linkQosClassWrite port c v) s = execLinkQosClassWrite port c v s := by rfl
  rw [hexec, execLinkQosClassWrite, unit, if_pos hc, Nat.add_assoc 0x300000 0x200, h.bar0_package (by omega),
    State.writePackage_qos s port v hc]

theorem State.Reaches.exec_linkDtCfgWrite (v : W64) : exec (.linkDtCfgWrite port v) s = .next (s.writeDtCfg port v) :=
  h.bar0_package (off := 0x240) (by omega) v

theorem State.Reaches.exec_pwrCapWrite (v : W64) : exec (.pwrCapWrite port v) s = .next (s.writeCap port v) :=
  h.bar0_package (off := 0x600) (by omega) v

theorem State.Reaches.exec_pwrIdleCfgWrite (v : W64) : exec (.pwrIdleCfgWrite port v) s = .next (s.writeIdle port v) :=
  h.bar0_package (off := 0x608) (by omega) v

/-! ### The write accepted, or dropped while BUSY (R541) -/

theorem State.Reaches.pkbThere : s.pkbThere port = true := by
  obtain ⟨⟨-, -, -, -, hfn, -⟩, hready, hp1⟩ := h
  have hport : s.portThere port = true := by
    rw [State.fnThere, Bool.and_eq_true] at hfn
    exact hfn.1
  rw [State.p1Only] at hp1
  simp [State.pkbThere, hready, hport, hp1]

theorem State.Reaches.pkbPost_busy (hbusy : (s.port port).pkbBusy = true) (k : State → State) : s.pkbPost port k = s.errBusy port 0 := by
  simp [State.pkbPost, h.pkbThere, hbusy]

end Reached

/-- The port's PKB_BUSY set. -/
def State.pkbBusied (s : State) (port : Nat) : State := s.modPort port fun p => { p with pkbBusy := true }

theorem PkbOpen.pkbPost {s : State} {port : Nat} (h : PkbOpen s port) (k : State → State) :
    s.pkbPost port k = k (s.pkbBusied port) := by
  simp [State.pkbPost, h.reaches.pkbThere, h.idle, State.pkbBusied]

theorem State.pkbBusied_pkbBusy (s : State) (port : Nat) : ((s.pkbBusied port).port port).pkbBusy = true := by
  simp [State.pkbBusied]

/-- A field of a word from bit 0 on as that many bits. -/
theorem toNat_bits_fld_zero {w : Nat} (v : BitVec w) (n : Nat) : (bits n (fld v 0 n)).toNat = v.toNat % 2 ^ n := by
  simp [bits, fld]

theorem State.putQos_qosOf (s : State) (c k : Nat) (x : Qos) : (s.putQos c x).qosOf k = if k = c then x else s.qosOf k := by
  split
  · next h =>
    subst h
    exact look_put_same _ _ _ _
  · next h => exact look_put_ne _ _ _ _ h

/-- The registers of the classes once LINK_QOS_CLASS of one holds a request. -/
theorem State.requestQos_qosOf (s : State) (c k : Nat) (v : W64) :
    ((s.putQos c { s.qosOf c with req := bits 8 (fld v 0 8) }).onNet fun n => { n with qosPending := true, qosReject := false }).qosOf k =
      if k = c then { s.qosOf c with req := bits 8 (fld v 0 8) } else s.qosOf k := s.putQos_qosOf c k _

theorem State.errBusy_count (s : State) (port fn : Nat) :
    (look 0 ((s.errBusy port fn).func (s.fnOf port fn)).errBusy port : BitVec 16) = look 0 (s.func (s.fnOf port fn)).errBusy port + 1 := by
  simp [State.errBusy]

/-- A request of PWR_CAP within the limits of R478. -/
theorem State.capRequest_ok {w f : Nat} (hok : 900 ≤ w ∧ w ≤ 1800 ∧ f ≤ 18) (s : State) (src : CapSrc) :
    (s.capRequest w f src).power.capReject = false ∧ (s.capRequest w f src).power.capPending = some (w, f, src) := by
  obtain ⟨hlow, hhigh, hstep⟩ := hok
  simp [State.capRequest, hlow, hhigh, hstep]

theorem State.capRequest_bad {w f : Nat} (hbad : ¬(900 ≤ w ∧ w ≤ 1800 ∧ f ≤ 18)) (s : State) (src : CapSrc) :
    (s.capRequest w f src).power.capReject = true ∧ (s.capRequest w f src).power.capPending = s.power.capPending := by
  have hok : (decide (900 ≤ w) && decide (w ≤ 1800) && decide (f ≤ 18)) = false := by simpa [and_assoc] using hbad
  simp only [State.capRequest, hok]
  exact ⟨rfl, rfl⟩

end Sys2Proof.Machine

open Sys2Proof Sys2Proof.Machine

/-- Settles O57: with the block idle each write is its request on the state whose PKB_BUSY is set (`PkbOpen.pkbPost`); while BUSY every
write is the same count (`State.Reaches.pkbPost_busy`). -/
theorem postedWritesOfThePackageBlock : Obligations.PostedWritesOfThePackageBlock := by
  unfold Obligations.PostedWritesOfThePackageBlock
  intro taken
  have htaken {s t : State} {port : Nat} (hport : t.port port = (s.pkbBusied port).port port) (hmem : t.mem = (s.pkbBusied port).mem)
      (hcores : t.cores = (s.pkbBusied port).cores) (hqueues : t.queues = (s.pkbBusied port).queues) : taken s t port := by
    refine ⟨?_, hmem, hcores, hqueues⟩
    rw [hport]
    exact s.pkbBusied_pkbBusy port
  refine ⟨fun s port p v hopen hp hforce => ⟨_, hopen.reaches.exec_partGrantWrite hp v, ?grant⟩,
    fun s port d v hopen hd hholds => ⟨_, hopen.reaches.exec_partDieWrite hd v, ?die⟩,
    fun s port r v hopen hr hholds => ⟨_, hopen.reaches.exec_partMemCfgWrite hr v, ?memCfg⟩,
    fun s port c v hopen hc => ⟨_, hopen.reaches.exec_linkQosClassWrite hc v, ?qos⟩,
    fun s port v hopen => ⟨_, hopen.reaches.exec_linkDtCfgWrite v, ?dtCfg⟩,
    fun s port v hopen => ⟨_, hopen.reaches.exec_pwrCapWrite v, ?cap⟩,
    fun s port v hopen => ⟨_, hopen.reaches.exec_pwrIdleCfgWrite v, ?idle⟩,
    fun i s port v hopen hready hp1 hbusy hi => ?dropped, fun s k hk hbusy => ?pkb, fun s k hk hbusy => ?tel,
    fun s k hk hbusy hdis => ?queue⟩
  case grant =>
    rw [State.writeGrant, if_neg (by simp [hforce]), hopen.pkbPost]
    refine ⟨htaken rfl rfl rfl rfl, ?_⟩
    rw [State.modPart_part, if_pos rfl]
    refine ⟨toNat_bits_fld_zero v 2, rfl, ?_, rfl⟩
    have hmode : (s.pkbBusied port).boot.hostMode = s.boot.hostMode := rfl
    simp [hmode, ← BitVec.toNat_inj, toNat_bits_fld_zero]
  case die =>
    rw [State.writeDie, if_neg (by simp [hholds]), hopen.pkbPost]
    refine ⟨htaken rfl rfl rfl rfl, ?_⟩
    rw [State.modDie_die, if_pos rfl]
    exact ⟨rfl, rfl, rfl⟩
  case memCfg =>
    rw [State.writeMemCfg, if_neg (by simp [hholds]), hopen.pkbPost]
    refine ⟨htaken rfl rfl rfl rfl, ?_⟩
    rw [State.modRegion_region, if_pos rfl]
    exact ⟨toNat_bits_fld_zero v 4, rfl, rfl, rfl⟩
  case qos =>
    rw [State.writeQos, hopen.pkbPost]
    refine ⟨htaken (by simp [State.putQos]) (by simp [State.putQos]) (by simp [State.putQos]) (by simp [State.putQos]), ?_⟩
    have hqos (k : Nat) := (s.pkbBusied port).requestQos_qosOf c k v
    rw [hqos, if_pos rfl]
    exact ⟨toNat_bits_fld_zero v 8, rfl, rfl, fun k hk => (hqos k).trans (if_neg hk)⟩
  case dtCfg =>
    rw [State.writeDtCfg, hopen.pkbPost]
    refine ⟨htaken rfl rfl rfl rfl, ?_, rfl, fun hv => ?_⟩
    · have hmask : ~~~ 0xFFE#64 = 0xFFFFFFFFFFFFF001#64 := by decide
      rw [← hmask]
      rfl
    · have hbit : bitAt v 0 = true := hv
      simp [hbit]
  case cap =>
    rw [State.writeCap, hopen.pkbPost]
    refine ⟨htaken rfl rfl rfl rfl, ?_⟩
    have hw : fld v 0 11 = v.toNat % 2 ^ 11 := by simp [fld]
    have hf : fld v 16 5 = v.toNat / 2 ^ 16 % 2 ^ 5 := by simp [fld, Nat.shiftRight_eq_div_pow]
    rw [hw, hf]
    refine ⟨Nat.mod_mod _ _, Nat.mod_mod _ _, rfl, rfl, fun hok => ?_, fun hbad => State.capRequest_bad hbad _ _⟩
    obtain ⟨hreject, hpending⟩ := State.capRequest_ok hok (s.pkbBusied port) (if port = 0 then .p0 else .p1)
    exact ⟨hreject, _, hpending⟩
  case idle =>
    rw [State.writeIdle, hopen.pkbPost]
    refine ⟨htaken rfl rfl rfl rfl, ?_, rfl⟩
    exact BitVec.eq_of_toNat_eq ((toNat_bits_fld_zero v 32).trans (by simp))
  case dropped =>
    have hreach : s.Reaches port := ⟨hopen, hready, hp1⟩
    have hexec : exec i s = .next (s.errBusy port 0) := by
      rcases hi with rfl | rfl | rfl | ⟨c, hc, rfl⟩
      · rw [hreach.exec_pwrCapWrite, State.writeCap, hreach.pkbPost_busy hbusy]
      · rw [hreach.exec_pwrIdleCfgWrite, State.writeIdle, hreach.pkbPost_busy hbusy]
      · rw [hreach.exec_linkDtCfgWrite, State.writeDtCfg, hreach.pkbPost_busy hbusy]
      · rw [hreach.exec_linkQosClassWrite hc, State.writeQos, hreach.pkbPost_busy hbusy]
    exact ⟨_, hexec, rfl, s.errBusy_count port 0⟩
  case pkb =>
    have hexec : exec (.postedWriteApplied 0 k) s = execPostedWriteApplied 0 k s := by rfl
    refine ⟨s.modPort k fun p => { p with pkbBusy := false }, ?_, by simp, rfl⟩
    simp [hexec, execPostedWriteApplied, unit, need, hk, hbusy]
  case tel =>
    have hexec : exec (.postedWriteApplied 1 k) s = execPostedWriteApplied 1 k s := by rfl
    refine ⟨s.modFunc k fun f => { f with telBusy := false }, ?_, by simp, rfl⟩
    simp [hexec, execPostedWriteApplied, unit, need, hk, hbusy]
  case queue =>
    have hexec : exec (.postedWriteApplied 2 k) s = execPostedWriteApplied 2 k s := by rfl
    refine ⟨s.modQueue k fun x => { x with busy := false }, ?_, by simp, by simp, rfl⟩
    simp [hexec, execPostedWriteApplied, unit, need, hk, hbusy, hdis]
end

section
/-! PROOF. The package right after a cold reset (R500, R507). -/

namespace Sys2Proof.Machine

/-- The always-on rail is not good yet: every output is held (Table 16.6). -/
theorem State.reset_pinCond : State.reset.pinCond = .held := rfl

theorem State.reset_hostTx (n : Nat) : State.reset.hostTx n = .float := by
  rw [State.hostTx, State.portIdle, State.reset_pinCond]
  rfl

/-- No core has work, so that no register of any group is listed. -/
theorem State.reset_core (l : Nat) : State.reset.core l = {} := rfl

theorem State.reset_regsWf : State.reset.regsWf := by
  intro l j
  rw [State.reset_core]
  exact ⟨rfl, rfl, rfl, rfl⟩

/-- The class shares are those of Table 09.4. -/
theorem State.reset_qosOf (c : Nat) : State.reset.qosOf c = Qos.atReset c := rfl

end Sys2Proof.Machine

open Sys2Proof Sys2Proof.Machine

/-- Settles O59: a part of the package that no entry lists has the reset values of its declaration, so that each clause is read off
it; the outputs float since the always-on rail is not good (`State.reset_hostTx`). -/
theorem resetLeavesWhatTheSpecGives : Obligations.ResetLeavesWhatTheSpecGives := by
  unfold Obligations.ResetLeavesWhatTheSpecGives
  intro s
  have hshares : (List.range 7).map (fun c => (s.qosOf c).req.toNat) = [76, 80, 56, 8, 16, 16, 2] := by
    simp only [s, State.reset_qosOf]
    decide
  have htask (l : Nat) : (s.core l).task = none ∧ (s.core l).groups = [] := by
    rw [State.reset_core]
    exact ⟨rfl, rfl⟩
  exact ⟨rfl, rfl, rfl, rfl, rfl, rfl, rfl, rfl, rfl, rfl, hshares, fun q => ⟨rfl, rfl⟩, fun n => ⟨rfl, State.reset_hostTx n⟩,
    fun cl => rfl, htask, rfl, rfl, rfl, State.reset_regsWf⟩
end

section
/-! PROOF. The idle spine clock (R300), the rewrite of the distance table (R321), and the retry of a message answered target resetting
(R317). -/

namespace Sys2Proof.Machine

/-- An event record and writes to host memory leave the network. -/
theorem RecordOnly.net {s t : State} (h : RecordOnly s t) : t.net = s.net := by
  obtain ⟨hstate, -, -⟩ := h
  have hnet := congrArg State.net hstate
  exact hnet

/-! ### The distance table (R321) -/

/-- The writes of the table's records. -/
theorem State.writeDtRecords_only (s : State) (p at_ : Nat) (ls : List Nat) :
    RecordOnly s (ls.foldl (fun s l => s.hostWrite p 0 (at_ + 0x40 + 160 * l) (s.dtRecord l)) s) :=
  List.foldlRecOn (motive := RecordOnly s) ls _ (.refl s) fun _ h _ _ => h.trans (hostWrite_only ..)

/-- The network with DT_GEN moved on by one. -/
def Net.nextGen (n : Net) : Net := { n with dtGen := n.dtGen + 1 }

/-- The rewrite changes DT_GEN, twice, and the due mark of the network, and beyond it only what host writes and a record change. -/
theorem exec_distanceTableRewrite {s : State} (hup : s.mainlandUp = true) (hdue : s.net.dtDue = true)
    (hon : s.net.dtCfg.getLsbD 0 = true) :
    ∃ t, exec .distanceTableRewrite s = .next t ∧ t.net = { s.net.nextGen.nextGen with dtDue := false } ∧ s.SameUnits t := by
  have hexec : exec .distanceTableRewrite s = execDistanceTableRewrite s := by rfl
  have hneed : (s.net.dtDue && bitAt s.net.dtCfg 0) = true :=
    Bool.and_eq_true_iff.2 ⟨hdue, (BitVec.testBit_toNat s.net.dtCfg).trans hon⟩
  rw [hexec, execDistanceTableRewrite, need, if_pos hup, need, if_pos hneed]
  dsimp only
  refine ⟨_, rfl, ?_⟩
  generalize hodd : (s.onNet fun n => { n with dtGen := n.dtGen + 1 }).hostWrite _ _ _ _ = odd
  have hodd : RecordOnly (s.onNet Net.nextGen) odd := hodd ▸ hostWrite_only ..
  generalize hfull : List.foldl _ odd _ = full
  have hfull : RecordOnly (s.onNet Net.nextGen) full := hodd.trans (hfull ▸ State.writeDtRecords_only ..)
  generalize heven : (full.onNet fun n => { n with dtGen := n.dtGen + 1 }).hostWrite _ _ _ _ = even
  have heven : RecordOnly (full.onNet Net.nextGen) even := heven ▸ hostWrite_only ..
  refine ⟨?_, ?_⟩
  · rw [record_net, State.onNet, heven.net, State.onNet, hfull.net, State.onNet]
  · have hwritten : s.SameUnits even :=
      ((s.onNet_sameButNet _).sameUnits.trans hfull.sameUnits).trans ((full.onNet_sameButNet _).sameUnits.trans heven.sameUnits)
    exact (hwritten.trans (even.onNet_sameButNet _).sameUnits).trans (State.record_sameUnits ..)

/-! ### The idle spine clock and the retry (R300, R317) -/

theorem exec_spineClockIdle {s : State} {r : Nat} (hr : r < 8) (hpower : s.powered = true) (hidle : (s.region r).spineIdle = false)
    (hclk : ∀ i, i < 8 → (s.cluster (r * 8 + i)).clk = .gated ∨ (s.cluster (r * 8 + i)).clk = .off) :
    exec (.spineClockIdle r) s = .next (s.modRegion r fun x => { x with spineIdle := true, spineMhz := 300 }) := by
  have hexec : exec (.spineClockIdle r) s = execSpineClockIdle r s := by rfl
  have hall : ((List.range 8).all fun i =>
      (s.cluster (r * 8 + i)).clk == .gated || (s.cluster (r * 8 + i)).clk == .off) = true := by
    simpa only [List.all_eq_true, List.mem_range, Bool.or_eq_true, beq_iff_eq] using hclk
  rw [hexec, execSpineClockIdle, unit, if_pos hr, need, if_pos hpower, need, hidle, hall]
  rfl

theorem exec_targetResettingRetry {s : State} {cl : Nat} (hcl : cl < 64) (hpower : s.powered = true) (hwaits : cl ∈ s.net.retries) :
    exec (.targetResettingRetry cl) s =
      .next (if (s.cluster cl).inReset then s else s.onNet fun n => { n with retries := n.retries.erase cl }) := by
  have hexec : exec (.targetResettingRetry cl) s = execTargetResettingRetry cl s := by rfl
  rw [hexec, execTargetResettingRetry, unit, if_pos hcl, need, if_pos hpower, need, if_pos (List.contains_iff_mem.2 hwaits)]
  split <;> rfl

end Sys2Proof.Machine

open Sys2Proof Sys2Proof.Machine

/-- Settles O35: the clock is a change of one region, the table a change of DT_GEN and the due mark alone
(`exec_distanceTableRewrite`), and the retry takes the message out unless the cluster is in reset. -/
theorem spineAndDistanceTable : Obligations.SpineAndDistanceTable := by
  unfold Obligations.SpineAndDistanceTable
  refine ⟨fun s r hr hpower hidle hclk => ⟨_, exec_spineClockIdle hr hpower hidle hclk, ?clock⟩, fun s hup hdue hon => ?table,
    fun s cl hcl hpower hwaits => ⟨_, exec_targetResettingRetry hcl hpower hwaits, ?retry⟩⟩
  case clock =>
    rw [State.modRegion_region, if_pos rfl]
    exact ⟨rfl, rfl, rfl, fun q hq => (State.modRegion_region ..).trans (if_neg hq), rfl⟩
  case table =>
    obtain ⟨t, ht, hnet, hunits⟩ := exec_distanceTableRewrite hup hdue hon
    refine ⟨t, ht, ?_, congrArg Net.dtDue hnet, hunits.field State.mem fun _ => rfl, hunits.field State.cores fun _ => rfl,
      hunits.field State.lcores fun _ => rfl⟩
    rw [hnet]
    exact BitVec.add_assoc s.net.dtGen 1 1
  case retry =>
    split
    · exact ⟨rfl, rfl⟩
    · exact ⟨rfl, rfl⟩
end

section
/-! PROOF. The two ends of a link: the flits that pass between them, and their replay (R302, R305 to R307). -/

namespace Sys2Proof.Machine

/-! ### The two ends of a link (R302) -/

/-- A link leads to another end. -/
theorem peerEp_ne {ep : Nat} (h : isEp ep = true) : peerEp ep ≠ ep := by
  have hall : ∀ e < 72, isEp e = true → peerEp e ≠ e := by decide
  have hlt : ep < 72 := by
    simp only [isEp, Bool.or_eq_true, Bool.and_eq_true, decide_eq_true_eq] at h
    omega
  exact hall ep hlt h

@[simp] theorem State.modLink_link (s : State) (k j : Nat) (g : LinkEnd → LinkEnd) :
    (s.modLink k g).net.link j = if j = k then g (s.net.link k) else s.net.link j := s.net.modLink_link k j g

/-- In `t` the end `ep` is `x` and the other end of its link is `y`, and every other link end is that of `s`. -/
structure State.LinkEnds (s : State) (ep : Nat) (x y : LinkEnd) (t : State) : Prop where
  here : t.net.link ep = x
  there : t.net.link (peerEp ep) = y
  others : ∀ k, k ≠ ep → k ≠ peerEp ep → t.net.link k = s.net.link k

section LinkEnds

variable {s t u : State} {ep : Nat} {x y : LinkEnd}

theorem State.LinkEnds.refl (s : State) (ep : Nat) : s.LinkEnds ep (s.net.link ep) (s.net.link (peerEp ep)) s :=
  ⟨rfl, rfl, fun _ _ _ => rfl⟩

/-- What leaves the link ends adds nothing. -/
theorem State.LinkEnds.then_ (h : s.LinkEnds ep x y t) (hu : ∀ k, u.net.link k = t.net.link k) : s.LinkEnds ep x y u :=
  ⟨(hu ep).trans h.here, (hu _).trans h.there, fun k hk hp => (hu k).trans (h.others k hk hp)⟩

theorem State.LinkEnds.modHere (h : s.LinkEnds ep x y t) (hep : isEp ep = true) (f : LinkEnd → LinkEnd) :
    s.LinkEnds ep (f x) y (t.modLink ep f) where
  here := by rw [State.modLink_link, if_pos rfl, h.here]
  there := by rw [State.modLink_link, if_neg (peerEp_ne hep), h.there]
  others k hk hp := by rw [State.modLink_link, if_neg hk, h.others k hk hp]

theorem State.LinkEnds.modThere (h : s.LinkEnds ep x y t) (hep : isEp ep = true) (f : LinkEnd → LinkEnd) :
    s.LinkEnds ep x (f y) (t.modLink (peerEp ep) f) where
  here := by rw [State.modLink_link, if_neg (peerEp_ne hep).symm, h.here]
  there := by rw [State.modLink_link, if_pos rfl, h.there]
  others k hk hp := by rw [State.modLink_link, if_neg hp, h.others k hk hp]

end LinkEnds

/-! ### The sending end (R305, R306) -/

/-- The end can send the flit under number `n`: a new one, or the next of a replay. -/
def LinkEnd.Sends (e : LinkEnd) (f : Flit) (n : BitVec 16) : Prop :=
  e.resend = [] ∧ e.kept.length < 1024 ∧ (f.kind = 1 → look 0 e.credits f.fifo ≠ 0) ∧ n = e.txSeq ∨
    ∃ g r, e.resend = (n, g) :: r ∧ { f with crc := g.crc } = g

/-- Only a new flit takes a number, and only a flit of a replay leaves those to be sent again. -/
theorem LinkEnd.Sends.transmit {e : LinkEnd} {f : Flit} {n : BitVec 16} (h : e.Sends f n) :
    ∃ tx, e.transmit f = some (n, tx) ∧ tx.txSeq = (if e.resend = [] then n + 1 else e.txSeq) ∧ tx.resend = e.resend.drop 1 := by
  obtain ⟨hnew, hroom, hcredit, rfl⟩ | ⟨g, r, hreplay, hsame⟩ := h
  case inl =>
    have hcan : ¬((f.kind = 1 && look 0 e.credits f.fifo == 0) = true) := by simpa using hcredit
    simp only [LinkEnd.transmit, hnew, if_neg hroom.not_ge, if_neg hcan]
    by_cases hkind : f.kind = 1
    · simp only [if_pos hkind]
      exact ⟨_, rfl, rfl, rfl⟩
    · simp only [if_neg hkind]
      exact ⟨_, rfl, rfl, hnew⟩
  case inr =>
    rw [LinkEnd.transmit, hreplay]
    exact ⟨{ e with resend := r }, if_pos hsame, rfl, rfl⟩

/-- The sending end `e` when the flit is on its way: what it keeps has its check word, and the messages whose credits the flit
returns have left its inbox. -/
def LinkEnd.sent (e : LinkEnd) (ep : Nat) (n : BitVec 16) (f : Flit) : LinkEnd :=
  { e with kept := e.kept.map fun x => if x.1 = n then (n, { f with crc := linkCrc ep n f }) else x
           inbox := takeFifo f.crFifo.toNat f.crCount.toNat e.inbox }

/-! ### The receiving end (R306, R307) -/

/-- The end after a flit with number `n` has arrived. -/
def LinkEnd.receives (e : LinkEnd) (ep : Nat) (n : BitVec 16) (f : Flit) : LinkEnd :=
  if e.discarding then e else if f.crc = linkCrc ep n f ∧ n = e.rxSeq then e.accept f else e.fail

/-- A message flit taken is the last of the inbox. -/
theorem LinkEnd.accept_inbox (e : LinkEnd) (f : Flit) : (e.accept f).inbox = e.inbox ++ if f.kind = 1 then [f] else [] := by
  have haccept : (e.accept f).inbox = if f.kind = 1 then e.inbox ++ [f] else e.inbox := rfl
  rw [haccept]
  split
  · rfl
  · rw [List.append_nil]

/-- The state in which the end `ep` has received the flit that left the other end for state `s`. -/
def State.received (s : State) (ep : Nat) (n : BitVec 16) (f : Flit) : State :=
  if (s.net.link ep).discarding then s
  else if f.crc = linkCrc ep n f ∧ n = (s.net.link ep).rxSeq then s.modLink ep fun e => e.accept f
  else s.modLink ep LinkEnd.fail

theorem State.LinkEnds.received {s t : State} {ep : Nat} {x y : LinkEnd} (h : s.LinkEnds ep x y t) (hep : isEp ep = true)
    (n : BitVec 16) (f : Flit) : s.LinkEnds ep (x.receives ep n f) y (t.received ep n f) := by
  rw [State.received, LinkEnd.receives, h.here]
  split
  · exact h
  · split
    · exact h.modHere hep fun e => e.accept f
    · exact h.modHere hep LinkEnd.fail

theorem State.received_sameButNet (s : State) (ep : Nat) (n : BitVec 16) (f : Flit) : s.SameButNet (s.received ep n f) := by
  unfold State.received
  split
  · rfl
  · split <;> rfl

theorem linkFlit_eq {s : State} {ep : Nat} {g : Flit} {n : BitVec 16} {tx : LinkEnd} (kind : BitVec 4) (hpower : s.powered = true)
    (hep : isEp ep = true) (hruns : s.linkRuns ep = true)
    (htransmit : (s.net.link (peerEp ep)).transmit { g with kind := kind } = some (n, tx)) :
    linkFlit kind ep g s = .next
      ((s.modLink (peerEp ep) fun _ => tx.sent ep n { g with kind := kind }).received ep n { g with kind := kind }) := by
  simp only [linkFlit, need, hpower, hep, hruns, htransmit, Bool.not_true, Bool.false_eq_true, if_true, if_false, Bool.and_eq_true,
    beq_iff_eq, State.received, LinkEnd.sent]
  split
  · rfl
  · split <;> rfl

/-- A flit that the other end can send is sent, arrives, and changes the two ends of its link alone. -/
theorem linkFlit_arrives {s : State} {ep : Nat} {g : Flit} {n : BitVec 16} (kind : BitVec 4) (hpower : s.powered = true)
    (hep : isEp ep = true) (hruns : s.linkRuns ep = true) (hsends : (s.net.link (peerEp ep)).Sends { g with kind := kind } n) :
    ∃ t sent, linkFlit kind ep g s = .next t ∧ s.SameButNet t ∧
      s.LinkEnds ep ((s.net.link ep).receives ep n { g with kind := kind }) sent t ∧
      let p := s.net.link (peerEp ep)
      sent.txSeq = (if p.resend = [] then n + 1 else p.txSeq) ∧ sent.resend = p.resend.drop 1 := by
  obtain ⟨tx, htransmit, htx⟩ := hsends.transmit
  exact ⟨_, tx.sent ep n { g with kind := kind }, linkFlit_eq kind hpower hep hruns htransmit,
    (s.onNet_sameButNet _).trans (State.received_sameButNet ..),
    ((State.LinkEnds.refl s ep).modThere hep fun _ => _).received hep n _, htx⟩

/-! ### The request for a replay (R307) -/

/-- The end sends again what it keeps after the flit that a request names. -/
def LinkEnd.replay (e : LinkEnd) (f : Flit) : LinkEnd :=
  { e.absorb f with resend := (e.absorb f).kept, replays := bump 48 (e.absorb f).replays }

theorem exec_linkReplayRequest {s : State} {ep : Nat} {f : Flit} (hpower : s.powered = true) (hep : isEp ep = true)
    (hruns : s.linkRuns ep = true) (hasked : (s.net.link (peerEp ep)).replayReq = some f.ack) :
    exec (.linkReplayRequest ep f) s = .next (
      if f.crc = linkCrc ep (s.net.link ep).rxSeq { f with kind := 2 } then
        (s.modLink ep fun e => e.replay { f with kind := 2 }).modLink (peerEp ep) fun e =>
          { e with discarding := false, replayReq := none }
      else s.modLink ep fun e => { e with crcErr := bump 48 e.crcErr }) := by
  have hexec : exec (.linkReplayRequest ep f) s = execLinkReplayRequest ep f s := by rfl
  simp only [hexec, execLinkReplayRequest, need, hpower, hep, hruns, hasked, Bool.not_true, Bool.false_eq_true, if_true, if_false,
    beq_self_eq_true, Bool.and_self, ite_not]
  split <;> rfl

end Sys2Proof.Machine
end

section
/-! PROOF. Retraining and loss of a link (R303, R304, R308, R446). -/

namespace Sys2Proof.Machine

/-- The network holds no part of the journal (R449, R451). -/
theorem State.journal_net (s : State) (es : List (Nat × List Byte)) : (s.journal es).net = s.net := by
  unfold State.journal
  dsimp only
  split
  · rfl
  · split
    · rfl
    · split
      · rfl
      · exact record_net ..

/-! ### Retraining (R308) -/

/-- Both ends of a link hold their traffic. -/
def State.linkHeld (s : State) (ep : Nat) : State :=
  (s.modLink ep fun e => { e with retraining := true }).modLink (peerEp ep) fun e => { e with retraining := true }

theorem State.linkHeld_ends (s : State) {ep : Nat} (hep : isEp ep = true) :
    s.LinkEnds ep { s.net.link ep with retraining := true } { s.net.link (peerEp ep) with retraining := true } (s.linkHeld ep) :=
  ((State.LinkEnds.refl s ep).modHere hep fun e => { e with retraining := true }).modThere hep fun e => { e with retraining := true }

/-- A retraining holds both ends, and a lane named as failed is a failed lane of the end afterwards. -/
theorem exec_linkRetrain {s : State} {ep : Nat} (lane : Option Nat) (hpower : s.powered = true) (hep : isEp ep = true)
    (hruns : s.linkRuns ep = true) (hcause : 16 ≤ (s.net.link ep).failRun ∨ 0 < (s.net.link ep).corrRate) :
    ∃ t e p, exec (.linkRetrain ep lane) s = .next t ∧ s.LinkEnds ep e p t ∧ e.retraining = true ∧ p.retraining = true ∧
      ∀ l, lane = some l → l ∈ e.badLanes := by
  have hexec : exec (.linkRetrain ep lane) s = execLinkRetrain ep lane s := by rfl
  have hdue : (s.linkRuns ep && (decide (16 ≤ (s.net.link ep).failRun) || decide (0 < (s.net.link ep).corrRate))) = true := by
    simpa [hruns] using hcause
  have hheld := s.linkHeld_ends hep
  have hspared (l : Nat) := hheld.modHere hep fun e => { e with badLanes := e.badLanes ++ [l], spareLanes := e.spareLanes - 1 }
  simp only [hexec, execLinkRetrain, need, hpower, hep, hdue, Bool.not_true, Bool.false_eq_true, if_true, if_false]
  cases lane with
  | none => exact ⟨_, _, _, rfl, hheld, rfl, rfl, nofun⟩
  | some l =>
    have hnamed : ∀ k, some l = some k → k ∈ (s.net.link ep).badLanes ++ [l] := by simp
    dsimp only
    split
    · next hbad =>
      refine ⟨_, _, _, rfl, hheld, rfl, rfl, ?_⟩
      rintro _ ⟨⟩
      exact List.contains_iff_mem.1 hbad
    · split
      · exact ⟨_, _, _, rfl, hspared l, rfl, rfl, hnamed⟩
      · refine ⟨_, _, _, rfl, (hspared l).then_ fun k => ?_, rfl, rfl, hnamed⟩
        rw [record_net, State.journal_net]
        rfl

/-- The end goes on after a good marker. -/
def LinkEnd.retrained (e : LinkEnd) (f : Flit) : LinkEnd :=
  { e.absorb f with retraining := false, discarding := false, replayReq := none, failRun := 0, corrRate := 0 }

theorem exec_linkRetrainMarker {s : State} {ep : Nat} {f : Flit} (hpower : s.powered = true) (hep : isEp ep = true)
    (hup : (s.net.link ep).up = true) (hheld : (s.net.link ep).retraining = true) :
    exec (.linkRetrainMarker ep f) s = .next (
      if f.crc = linkCrc ep (s.net.link ep).rxSeq { f with kind := 3 } then
        (s.modLink ep fun e => e.retrained { f with kind := 3 }).modLink (peerEp ep) fun e =>
          { e with kept := afterAck ((s.net.link ep).rxSeq - 1) e.kept, resend := afterAck ((s.net.link ep).rxSeq - 1) e.kept }
      else s.modLink ep fun e => { e with crcErr := bump 48 e.crcErr }) := by
  have hexec : exec (.linkRetrainMarker ep f) s = execLinkRetrainMarker ep f s := by rfl
  simp only [hexec, execLinkRetrainMarker, need, hpower, hep, hup, hheld, Bool.not_true, Bool.false_eq_true, if_true, if_false,
    Bool.and_self, ite_not]
  split <;> rfl

/-! ### Loss (R303, R304, R446) -/

/-- An end out of service. -/
def LinkEnd.lost (e : LinkEnd) : LinkEnd :=
  { e with up := false, retraining := false, discarding := false, replayReq := none, resend := [], kept := [], failRun := 0 }

/-- New routes leave the link ends. -/
theorem State.reroute_link (s : State) (k : Nat) : s.reroute.net.link k = s.net.link k := by
  have hrepath (t : State) : t.repath.net.link k = t.net.link k := rfl
  refine (hrepath _).trans ?_
  refine List.foldlRecOn (motive := fun t : State => t.net.link k = s.net.link k) _ _ rfl fun t ht p _ => ?_
  dsimp only
  split
  · exact ht
  · split
    · exact ht
    · rw [State.dtDue, State.onNet, record_net]
      exact ht

theorem State.linkOff_ends (s : State) {ep : Nat} (hep : isEp ep = true) (cause : Nat) :
    s.LinkEnds ep (s.net.link ep).lost (s.net.link (peerEp ep)).lost (s.linkOff ep cause) := by
  refine (((State.LinkEnds.refl s ep).modHere hep LinkEnd.lost).modThere hep LinkEnd.lost).then_ fun k => ?_
  rw [State.linkOff, State.reroute_link, record_net, State.journal_net]
  rfl

theorem exec_linkDown {s : State} {ep cause : Nat} (hup : s.mainlandUp = true) (hep : isEp ep = true)
    (hlink : (s.net.link ep).up = true)
    (hcause : cause ≠ 1 ∨ (s.net.link ep).spareLanes = 0 ∧ epSpares ep < (s.net.link ep).badLanes.length) :
    exec (.linkDown ep cause) s = .next (s.linkOff ep (if cause = 1 then 1 else 2)) := by
  have hexec : exec (.linkDown ep cause) s = execLinkDown ep cause s := by rfl
  have hdue : ((s.net.link ep).up && ((if cause = 1 then 1 else 2) == 2 ||
      ((s.net.link ep).spareLanes == 0 && decide (epSpares ep < (s.net.link ep).badLanes.length)))) = true := by
    by_cases h : cause = 1
    · simpa [h, hlink] using hcause
    · simp [h, hlink]
  rw [hexec, execLinkDown, need, if_pos hup, hep]
  exact if_pos hdue

end Sys2Proof.Machine

open Sys2Proof Sys2Proof.Machine

/-- Settles O34: a flit changes the sending end by what it sends (`LinkEnd.Sends.transmit`) and the receiving end by
`LinkEnd.receives`; every other command is a change of the two ends of one link (`State.LinkEnds`). -/
theorem linkFlitsArriveInOrder : Obligations.LinkFlitsArriveInOrder := by
  unfold Obligations.LinkFlitsArriveInOrder
  intro sends taken
  have hflit (kind : BitVec 4) (s : State) (ep : Nat) (g : Flit) (n : BitVec 16) (h : sends s ep { g with kind := kind } n) :
      ∃ t, linkFlit kind ep g s = .next t ∧ taken s t ep { g with kind := kind } n := by
    obtain ⟨hpower, hep, hruns, hsends⟩ := h
    obtain ⟨t, sent, ht, hnet, hends, hseq, hresend⟩ := linkFlit_arrives kind hpower hep hruns hsends
    refine ⟨t, ht, (congrArg LinkEnd.txSeq hends.there).trans hseq, (congrArg LinkEnd.resend hends.there).trans hresend,
      hends.others, hnet, ?_⟩
    rw [hends.here, LinkEnd.receives]
    split
    · rfl
    · split
      · exact ⟨rfl, rfl, LinkEnd.accept_inbox _ _⟩
      · exact ⟨rfl, rfl, rfl, rfl, rfl⟩
  refine ⟨hflit 0, hflit 1, ?replay, ?retrain, ?marker, ?down⟩
  case replay =>
    intro s ep f hpower hep hruns hasked
    refine ⟨_, exec_linkReplayRequest hpower hep hruns hasked, ?_⟩
    split
    · have hends := ((State.LinkEnds.refl s ep).modHere hep fun e => e.replay { f with kind := 2 }).modThere hep fun e =>
        { e with discarding := false, replayReq := none }
      rw [hends.here, hends.there]
      exact ⟨rfl, rfl, rfl⟩
    · rw [State.modLink_link, if_pos rfl]
      exact ⟨rfl, rfl⟩
  case retrain =>
    intro s ep lane hpower hep hruns hcause
    obtain ⟨t, e, p, ht, hends, he, hp, hlane⟩ := exec_linkRetrain lane hpower hep hruns hcause
    rw [← hends.here] at he hlane
    rw [← hends.there] at hp
    exact ⟨t, ht, he, hp, hlane⟩
  case marker =>
    intro s ep f hpower hep hup hheld
    refine ⟨_, exec_linkRetrainMarker hpower hep hup hheld, ?_⟩
    split
    · have hends := ((State.LinkEnds.refl s ep).modHere hep fun e => e.retrained { f with kind := 3 }).modThere hep fun e =>
        { e with kept := afterAck ((s.net.link ep).rxSeq - 1) e.kept, resend := afterAck ((s.net.link ep).rxSeq - 1) e.kept }
      rw [hends.here]
      exact ⟨rfl, rfl, rfl, rfl⟩
    · rw [State.modLink_link, if_pos rfl]
      exact ⟨rfl, hheld, rfl⟩
  case down =>
    intro s ep cause hup hep hlink hcause
    have hends := s.linkOff_ends hep (if cause = 1 then 1 else 2)
    exact ⟨_, exec_linkDown hup hep hlink hcause, congrArg LinkEnd.up hends.here, congrArg LinkEnd.up hends.there, hends.others⟩
end

section
/-! PROOF. The flits of a strait: those with a number, and the control flits (R307, R329 to R331). -/

namespace Sys2Proof.Machine

@[simp] theorem State.modStrait_strait (s : State) (i j : Nat) (g : Strait → Strait) :
    (s.modStrait i g).fab.strait j = if j = i then g (s.fab.strait i) else s.fab.strait j := s.fab.modStrait_strait i j g

theorem State.modStrait_same (s : State) (i : Nat) (g : Strait → Strait) : (s.modStrait i g).fab.strait i = g (s.fab.strait i) :=
  (s.modStrait_strait i i g).trans (if_pos rfl)

/-- The strait exists, has power and is up. -/
def State.StraitUp (s : State) (i : Nat) : Prop := i < 16 ∧ s.powered = true ∧ (s.fab.strait i).up = true

theorem State.StraitUp.up {s : State} {i : Nat} (h : s.StraitUp i) : (s.fab.strait i).up = true := by
  obtain ⟨-, -, hup⟩ := h
  exact hup

theorem State.StraitUp.onStrait {s : State} {i : Nat} (h : s.StraitUp i) (k : Host.Outcome State Fault Refusal) :
    onStrait i s k = k := by
  obtain ⟨hi, hpower, hup⟩ := h
  simp only [Machine.onStrait, unit, need, if_pos hi, hpower, hup, if_true]

/-! ### The flit that the end sends meanwhile (R329, R330) -/

/-- What an end knows of the flits that it receives is the same. -/
structure Strait.SameReceiver (x y : Strait) : Prop where
  rxSeq : y.rxSeq = x.rxSeq
  discarding : y.discarding = x.discarding
  failRun : y.failRun = x.failRun
  crcErr : y.crcErr = x.crcErr
  fecUncorr : y.fecUncorr = x.fecUncorr

theorem Strait.SameReceiver.refl (x : Strait) : x.SameReceiver x := ⟨rfl, rfl, rfl, rfl, rfl⟩

theorem Strait.compose_sameReceiver (x : Strait) (cr : Option (Nat × Nat)) : x.SameReceiver (x.compose cr).2 := by
  unfold Strait.compose
  dsimp only
  split
  · exact ⟨rfl, rfl, rfl, rfl, rfl⟩
  · exact ⟨rfl, rfl, rfl, rfl, rfl⟩

theorem State.sendFlit_sameReceiver (s : State) (i : Nat) : (s.fab.strait i).SameReceiver ((s.sendFlit i).fab.strait i) := by
  unfold State.sendFlit
  dsimp only
  split
  · exact .refl _
  · split
    · rw [State.modStrait_same]
      exact ⟨rfl, rfl, rfl, rfl, rfl⟩
    · split
      · exact .refl _
      · rw [State.modStrait_same]
        obtain ⟨hseq, hdisc, hrun, hcrc, hfec⟩ := (s.fab.strait i).compose_sameReceiver (s.fab.giveBack (s.fab.strait i))
        exact ⟨hseq, hdisc, hrun, hcrc, hfec⟩

/-- A flit sent changes the straits and nothing else of the fabric. -/
theorem State.sendFlit_fab (s : State) (i : Nat) : { (s.sendFlit i).fab with straits := s.fab.straits } = s.fab := by
  unfold State.sendFlit
  dsimp only
  split
  · rfl
  · split
    · rfl
    · split <;> rfl

/-! ### Idle and body flits (R330, R337) -/

/-- One flit time passes at a strait, with the symbols that the FEC corrected. -/
def State.flitTime (s : State) (i fec : Nat) : State :=
  (s.sendFlit i).modStrait i fun x => { x with fecCorr := (x.fecCorr + fec) % 2 ^ 48 }

theorem State.flitTime_sameReceiver (s : State) (i fec : Nat) : (s.fab.strait i).SameReceiver ((s.flitTime i fec).fab.strait i) := by
  obtain ⟨hseq, hdisc, hrun, hcrc, hfec⟩ := s.sendFlit_sameReceiver i
  rw [State.flitTime, State.modStrait_same]
  exact ⟨hseq, hdisc, hrun, hcrc, hfec⟩

theorem State.flitTime_foldId (s : State) (i fec : Nat) : (s.flitTime i fec).fab.foldId = s.fab.foldId := by
  have h := congrArg Fab.foldId (s.sendFlit_fab i)
  exact h

theorem State.flitTime_inbox (s : State) (i fec : Nat) : (s.flitTime i fec).fab.inbox = s.fab.inbox := by
  have h := congrArg Fab.inbox (s.sendFlit_fab i)
  exact h

/-- A codeword that could not be corrected. -/
def Strait.lostWord (x : Strait) (replay : Bool) : Strait :=
  let x := { x with fecUncorr := bump 48 x.fecUncorr }
  if x.discarding && !replay then x
  else { x with discarding := true, replayReq := some (x.rxSeq - 1), failRun := x.failRun + 1 }

theorem Strait.lostWord_receiver (x : Strait) (replay : Bool) :
    (x.lostWord replay).discarding = true ∧ (x.lostWord replay).rxSeq = x.rxSeq ∧
      (x.lostWord replay).fecUncorr = bump 48 x.fecUncorr := by
  unfold Strait.lostWord
  dsimp only
  split
  · next hdiscards =>
    rw [Bool.and_eq_true] at hdiscards
    exact ⟨hdiscards.left, rfl, rfl⟩
  · exact ⟨rfl, rfl, rfl⟩

/-- The state in which an idle or body flit has arrived. -/
def State.straitArrival (s : State) (i : Nat) (f : SFlit) (unc replay : Bool) : State :=
  if unc then s.modStrait i fun x => x.lostWord replay
  else if (s.fab.strait i).discarding && !replay then s
  else if f.crc = straitCrc s.fab.foldId i (s.fab.strait i).rxSeq f then s.takeFlit i f
  else s.modStrait i Strait.fail

theorem State.StraitUp.straitFlit_eq {s : State} {i : Nat} (h : s.StraitUp i) (kind : BitVec 4) (f : SFlit) (fec : Nat)
    (unc replay : Bool) :
    straitFlit kind i f fec unc replay s = .next ((s.flitTime i fec).straitArrival i { f with kind := kind } unc replay) := by
  rw [straitFlit, h.onStrait]
  dsimp only
  generalize hu : State.modStrait (s.sendFlit i) i _ = u
  have hu : s.flitTime i fec = u := hu
  rw [hu, State.straitArrival]
  split
  · rfl
  · split
    · rfl
    · split <;> rfl

theorem State.takeFlit_strait (s : State) (i : Nat) (f : SFlit) :
    ((s.takeFlit i f).fab.strait i).rxSeq = (s.fab.strait i).rxSeq + 1 ∧ ((s.takeFlit i f).fab.strait i).failRun = 0 ∧
      ((s.takeFlit i f).fab.strait i).discarding = false := by
  unfold State.takeFlit
  dsimp only
  split
  · rw [State.modStrait_same]
    exact ⟨rfl, rfl, rfl⟩
  · generalize List.foldl _ _ _ = taken
    have hinbox (u : State) : (u.onFab fun fb => { fb with inbox := fb.inbox ++ taken.2 }).fab.strait i = u.fab.strait i := rfl
    rw [hinbox, State.modStrait_same, State.modStrait_same]
    exact ⟨rfl, rfl, rfl⟩

/-! ### Control flits (R307, R331) -/

theorem State.StraitUp.controlFlit_eq {s : State} {i : Nat} (h : s.StraitUp i) (kind : BitVec 4) (f : SFlit)
    (k : State → Host.Outcome State Fault Refusal) :
    controlFlit kind i f k s =
      if f.crc = straitCrc s.fab.foldId i (s.fab.strait i).rxSeq { f with kind := kind } then
        k (s.modStrait i fun x => x.absorb { f with kind := kind })
      else .next (s.modStrait i fun x => { x with crcErr := bump 48 x.crcErr }) := h.onStrait _

/-- Two changes of a strait, one after the other. -/
theorem State.modStrait_twice (s : State) (i : Nat) (f g : Strait → Strait) :
    ((s.modStrait i f).modStrait i g).fab.strait i = g (f (s.fab.strait i)) := by
  rw [State.modStrait_same, State.modStrait_same]

end Sys2Proof.Machine
end

section
/-! PROOF. Strait states: training and loss (R326, R332, R333), lanes (R331, R332) and laser inputs (R325, R327). -/

namespace Sys2Proof.Machine

/-! ### Messages queued (R336, R338) -/

/-- In `t` the straits are those of `s` but for the messages queued for them, and the engines are those of `s`. -/
structure State.Queued (s t : State) : Prop where
  strait : ∀ j, { t.fab.strait j with outq := (s.fab.strait j).outq } = s.fab.strait j
  engines : t.fab.engines = s.fab.engines

theorem State.Queued.of_fab {s t : State} (hstraits : t.fab.straits = s.fab.straits) (hengines : t.fab.engines = s.fab.engines) :
    s.Queued t := by
  refine ⟨fun j => ?_, hengines⟩
  rw [Fab.strait, Fab.strait, hstraits]

theorem State.Queued.refl (s : State) : s.Queued s := .of_fab rfl rfl

theorem State.Queued.trans {s t u : State} (h : s.Queued t) (k : t.Queued u) : s.Queued u := by
  refine ⟨fun j => ?_, k.engines.trans h.engines⟩
  have hj := h.strait j
  rw [← k.strait j] at hj
  exact hj

/-- What is no queue is the same. -/
theorem State.Queued.field {s t : State} (h : s.Queued t) {α : Type} (π : Strait → α)
    (hπ : ∀ (x : Strait) q, π { x with outq := q } = π x) (j : Nat) : π (t.fab.strait j) = π (s.fab.strait j) :=
  (hπ _ _).symm.trans (congrArg π (h.strait j))

theorem State.Queued.up {s t : State} (h : s.Queued t) (j : Nat) : (t.fab.strait j).up = (s.fab.strait j).up :=
  h.field Strait.up (fun _ _ => rfl) j

theorem State.Queued.engine {s t : State} (h : s.Queued t) (oe : Nat) : t.fab.engine oe = s.fab.engine oe := by
  rw [Fab.engine, Fab.engine, h.engines]

/-- Steps that each queue messages do so together. -/
theorem State.foldl_queued {α : Type} {f : State → α → State} (hf : ∀ (s : State) a, s.Queued (f s a)) (l : List α) (s : State) :
    s.Queued (l.foldl f s) :=
  List.foldlRecOn (motive := fun x => s.Queued x) l f (.refl s) fun x h a _ => h.trans (hf x a)

theorem State.onWire_queued (s : State) (i : Nat) (m : FMsg) : s.Queued (s.onWire i m) := by
  refine ⟨fun j => ?_, rfl⟩
  have hwire := s.modStrait_strait i j fun x => { x with outq := x.outq ++ [m] }
  rw [State.onWire, ← State.modStrait, hwire]
  split
  · next h => rw [h]
  · rfl

theorem State.fabQueue_queued (s : State) (m : FMsg) : s.Queued (s.fabQueue m) := by
  have htouch : s.Queued s.touch := .of_fab rfl rfl
  unfold State.fabQueue
  dsimp only
  split
  · exact htouch
  · exact (htouch.trans (State.onWire_queued _ _ _)).trans (.of_fab rfl rfl)

theorem State.putFlow_queued (s : State) (k : Nat) (x : Flow) : s.Queued (s.onFab fun f => f.putFlow k x) := .of_fab rfl rfl

theorem State.fabSend_queued (s : State) (m : FMsg) : s.Queued (s.fabSend m) := by
  unfold State.fabSend
  dsimp only
  split
  · exact s.fabQueue_queued _
  · split
    · exact s.putFlow_queued _ _
    · exact (s.putFlow_queued _ _).trans (State.fabQueue_queued _ _)

theorem State.flood_queued (s : State) : s.Queued s.flood := by
  unfold State.flood
  split
  · refine State.foldl_queued (fun t p => ?_) _ s
    split
    · exact .refl t
    · exact t.fabSend_queued _
  · exact .refl s

theorem State.routes_queued (s : State) (r : Fab → SMap Route) : s.Queued (s.onFab fun f => { f with routes := r f }) :=
  .of_fab rfl rfl

theorem State.reroutes_queued (s : State) : s.Queued s.reroutes := by
  unfold State.reroutes
  split
  · exact s.routes_queued Fab.computeRoutes
  · exact .refl s

theorem State.record_queued (s : State) (typ level action status : Nat) (loc : BitVec 32) (detail : BitVec 128) :
    s.Queued (s.record typ level action status loc detail) :=
  .of_fab (congrArg Fab.straits (record_fab ..)) (congrArg Fab.engines (record_fab ..))

/-- A changed list of peers: its record, the routes, and the messages to the neighbours. -/
theorem State.straitChanged_queued (s : State) (i action : Nat) : s.Queued ((s.straitRecord i action).reroutes).flood :=
  ((s.record_queued ..).trans (State.reroutes_queued _)).trans (State.flood_queued _)

/-! ### Loss (R332) -/

/-- A strait that is down. -/
def Strait.lost (x : Strait) : Strait :=
  { x with up := false, holding := false, swapLane := none, swapTx := false, peerValid := false, kept := [], resend := []
           discarding := false, replayReq := none, failRun := 0, units := [], outq := [], sent := [], owed := [], credits := [] }

theorem State.straitLost_queued {s : State} {i : Nat} (hup : (s.fab.strait i).up = true) :
    (s.modStrait i Strait.lost).Queued (s.straitLost i) := by
  simp only [State.straitLost, hup, Bool.not_true, Bool.false_eq_true, if_false]
  exact ((s.modStrait i Strait.lost).routes_queued _).trans (State.straitChanged_queued _ i 0x0C)

/-- A strait that is lost is down, and one that was down stays down. -/
theorem State.straitLost_down (s : State) (i j : Nat) (h : (s.fab.strait j).up = false ∨ j = i) :
    ((s.straitLost i).fab.strait j).up = false := by
  by_cases hup : (s.fab.strait i).up = true
  · rw [(State.straitLost_queued hup).up, State.modStrait_strait]
    split
    · rfl
    · next hj => exact h.resolve_right hj
  · have hsame : s.straitLost i = s := by simp [State.straitLost, hup]
    rw [hsame]
    rcases h with hdown | rfl
    · exact hdown
    · exact Bool.eq_false_iff.2 hup

theorem State.straitLost_engine (s : State) (i oe : Nat) : (s.straitLost i).fab.engine oe = s.fab.engine oe := by
  by_cases hup : (s.fab.strait i).up = true
  · exact (State.straitLost_queued hup).engine oe
  · simp [State.straitLost, hup]

/-! ### Training and retraining (R326, R330, R331) -/

/-- A strait that has trained with its peer. -/
def Strait.trained (x : Strait) (peerId peerPort : Nat) (peerValid : Bool) : Strait :=
  { x with up := true, peerId := bits 12 peerId, peerPort := bits 4 peerPort, peerValid := peerValid, holding := false
           txSeq := 0, rxSeq := 0, kept := [], resend := [], discarding := false, failRun := 0, replayReq := none
           credits := fullCredits, units := [], owed := [] }

theorem exec_straitTrained {s : State} {i : Nat} (hi : i < 16) (hpower : s.powered = true)
    (hlit : (s.fab.engine (i / 4)).lit = true) (hdark : (s.fab.engine (i / 4)).dark = false) (hdown : (s.fab.strait i).up = false)
    (id port : Nat) (v : Bool) :
    ∃ t, exec (.straitTrained i id port v) s = .next t ∧ (s.modStrait i fun x => x.trained id port v).Queued t := by
  have hexec : exec (.straitTrained i id port v) s = execStraitTrained i id port v s := by rfl
  simp only [hexec, execStraitTrained, unit, need, if_pos hi, hpower, hlit, hdark, hdown, Bool.not_false, Bool.and_self, if_true]
  exact ⟨_, rfl, State.straitChanged_queued _ i 0x10⟩

/-- The marker ends the holding; only the spare wavelength's own fields and a record follow. -/
theorem State.StraitUp.exec_straitRetrainMarker {s : State} {i : Nat} {f : SFlit} (h : s.StraitUp i)
    (hcrc : f.crc = straitCrc s.fab.foldId i (s.fab.strait i).rxSeq { f with kind := 3 }) :
    ∃ t, exec (.straitRetrainMarker i f) s = .next t ∧
      let y := t.fab.strait i
      y.holding = false ∧ y.discarding = false ∧ y.swapLane = none ∧ y.resend = afterAck f.ack (s.fab.strait i).kept := by
  have hexec : exec (.straitRetrainMarker i f) s = execStraitRetrainMarker i f s := by rfl
  rw [hexec, execStraitRetrainMarker, h.controlFlit_eq, if_pos hcrc]
  dsimp only
  split
  · refine ⟨_, rfl, ?_⟩
    rw [State.modStrait_twice]
    exact ⟨rfl, rfl, rfl, rfl⟩
  · refine ⟨_, rfl, ?_⟩
    rw [record_fab, State.modStrait_same, State.modStrait_twice]
    dsimp only
    split <;> exact ⟨rfl, rfl, rfl, rfl⟩

/-! ### Lanes (R331, R332) -/

/-- The bit of a lane added to a mask of failed lanes. -/
theorem getLsbD_or_lane (bad : BitVec 8) {lane : Nat} (h : lane < 8) : (bad ||| bits 8 (2 ^ lane)).getLsbD lane = true := by
  have hlane : bitAt (bits 8 (2 ^ lane)) lane = true := by
    rw [bitAt, bits, BitVec.toNat_ofNat, Nat.testBit_mod_two_pow, decide_eq_true h, Bool.true_and, Nat.testBit_two_pow_self]
  rw [← BitVec.testBit_toNat, ← bitAt, bitAt_or, hlane, Bool.or_true]

theorem State.StraitUp.exec_laneFailure {s : State} {i lane : Nat} (h : s.StraitUp i)
    (hlane : lane < 8 ∧ (s.fab.strait i).rxBad.getLsbD lane = false ∨ lane = 8 ∧ (s.fab.strait i).spareUsed = true) :
    exec (.laneFailure i lane) s = .next (if lane = 8 then s.halfWidth i else s.laneFails i lane) := by
  have hexec : exec (.laneFailure i lane) s = execLaneFailure i lane s := by rfl
  rw [hexec, execLaneFailure, h.onStrait]
  obtain ⟨hlt, hgood⟩ | ⟨rfl, hspare⟩ := hlane
  · have hgood : bitAt (s.fab.strait i).rxBad lane = false := (BitVec.testBit_toNat _).trans hgood
    rw [unit, if_pos (by omega), if_neg (by omega), if_neg (by omega), need, hgood]
    rfl
  · rw [unit, if_pos (by omega), if_pos rfl, if_pos rfl, need, if_pos hspare]

/-- The first lane that fails moves to the spare wavelength. -/
theorem State.laneFails_first {s : State} {i : Nat} (lane : Nat) (hspare : (s.fab.strait i).spareUsed = false)
    (hswap : (s.fab.strait i).swapLane = none) (hfull : (s.fab.strait i).half = false) :
    (s.laneFails i lane).fab.strait i = { s.fab.strait i with
      rxBad := (s.fab.strait i).rxBad ||| bits 8 (2 ^ lane), swapLane := some (bits 3 lane), swapTx := false, holding := true } := by
  rw [State.laneFails, hspare, hswap, hfull]
  exact State.modStrait_twice ..

theorem State.StraitUp.exec_laneMapChange_next {s : State} {i : Nat} {f : SFlit} (h : s.StraitUp i) :
    ∃ t, exec (.laneMapChange i f) s = .next t := by
  have hexec : exec (.laneMapChange i f) s = execLaneMapChange i f s := by rfl
  rw [hexec, execLaneMapChange, h.controlFlit_eq]
  dsimp only
  split
  · split
    · exact ⟨_, rfl⟩
    · split <;> exact ⟨_, rfl⟩
  · exact ⟨_, rfl⟩

/-- The end takes the spare wavelength for a lane of its transmit direction. -/
def Strait.takeSpare (x : Strait) (lane : Nat) : Strait :=
  { x with txSpareUsed := true, txSpareFor := bits 3 lane, swapLane := some (bits 3 lane), swapTx := true, holding := true }

theorem State.StraitUp.exec_laneMapChange_full {s : State} {i : Nat} {f : SFlit} (h : s.StraitUp i)
    (hcrc : f.crc = straitCrc s.fab.foldId i (s.fab.strait i).rxSeq { f with kind := 4 }) (hlane : fld f.ctrl 0 8 < 8)
    (hwidth : fld f.ctrl 8 8 = 8) :
    exec (.laneMapChange i f) s = .next (((s.modStrait i fun x => x.absorb { f with kind := 4 }).modStrait i fun x =>
      { x with txBad := x.txBad ||| bits 8 (2 ^ fld f.ctrl 0 8) }).modStrait i fun x => x.takeSpare (fld f.ctrl 0 8)) := by
  have hexec : exec (.laneMapChange i f) s = execLaneMapChange i f s := by rfl
  rw [hexec, execLaneMapChange, h.controlFlit_eq, if_pos hcrc, hwidth, decide_eq_true hlane]
  rfl

/-! ### Laser inputs (R325, R327) -/

@[simp] theorem State.modEngine_engine (s : State) (oe j : Nat) (g : Engine → Engine) :
    (s.modEngine oe g).fab.engine j = if j = oe then g (s.fab.engine oe) else s.fab.engine j := s.fab.modEngine_engine oe j g

theorem State.modEngine_same (s : State) (oe : Nat) (g : Engine → Engine) : (s.modEngine oe g).fab.engine oe = g (s.fab.engine oe) :=
  (s.modEngine_engine oe oe g).trans (if_pos rfl)

/-- Changes of straits leave the engines. -/
theorem State.foldl_modStrait_engine (ks : List Nat) (i : Nat → Nat) (g : Strait → Strait) (s : State) (oe : Nat) :
    (ks.foldl (fun s k => s.modStrait (i k) g) s).fab.engine oe = s.fab.engine oe :=
  List.foldlRecOn (motive := fun t : State => t.fab.engine oe = s.fab.engine oe) ks _ rfl fun _ ht _ _ => ht

/-- Straits lost one after the other are down. -/
theorem State.foldl_straitLost_down (ks : List Nat) (s : State) (j : Nat) (h : (s.fab.strait j).up = false ∨ j ∈ ks) :
    ((ks.foldl State.straitLost s).fab.strait j).up = false := by
  induction ks generalizing s with
  | nil => exact h.resolve_right List.not_mem_nil
  | cons i ks ih =>
    refine ih (s.straitLost i) ?_
    rcases h with hdown | hmem
    · exact .inl (s.straitLost_down i j (.inl hdown))
    · rcases List.mem_cons.1 hmem with rfl | hmem
      · exact .inl (s.straitLost_down j j (.inr rfl))
      · exact .inr hmem

theorem State.darken_eq (s : State) (oe : Nat) :
    s.darken oe = ((List.range 4).map (4 * oe + ·)).foldl State.straitLost (s.modEngine oe fun e => { e with dark := true }) :=
  List.foldl_map.symm

theorem State.darken_down (s : State) (oe : Nat) {k : Nat} (hk : k < 4) : ((s.darken oe).fab.strait (4 * oe + k)).up = false := by
  rw [State.darken_eq]
  exact State.foldl_straitLost_down _ _ _ (.inr (List.mem_map_of_mem (List.mem_range.2 hk)))

theorem State.darken_dark (s : State) (oe : Nat) : ((s.darken oe).fab.engine oe).dark = true := by
  refine List.foldlRecOn (motive := fun t : State => (t.fab.engine oe).dark = true) _ _ ?_ fun t ht k _ => ?_
  · rw [State.modEngine_same]
  · rwa [State.straitLost_engine]

/-- The readings of a sample taken into the engine. -/
def State.sampled (s : State) (oe good low : Nat) : State := s.modEngine oe fun e => { e with good := bits 2 good, low := bits 2 low }

theorem exec_laserSample_none {s : State} {oe : Nat} (hoe : oe < 4) (hpower : s.powered = true)
    (hlit : (s.fab.engine oe).lit = true) (low : Nat) :
    exec (.laserSample oe 0 low) s = .next (
      if (s.fab.engine oe).dark then s.sampled oe 0 (low % 4)
      else ((s.sampled oe 0 (low % 4)).darken oe).record 0x2B 5 0x07 0 (locOf 10 oe) (detailOf [(0, 1, 1)])) := by
  have hexec : exec (.laserSample oe 0 low) s = execLaserSample oe 0 low s := by rfl
  simp only [hexec, execLaserSample, unit, need, if_pos hoe, hpower, hlit, if_true]
  split <;> rfl

/-- The input that an engine uses: 0 for LASER_A, 1 for LASER_B. -/
def Engine.input (e : Engine) : Nat := if e.laserB then 1 else 0

theorem exec_laserSample_good {s : State} {oe good : Nat} (hoe : oe < 4) (hpower : s.powered = true)
    (hlit : (s.fab.engine oe).lit = true) (hgood : good % 4 ≠ 0) (low : Nat) :
    ∃ t, exec (.laserSample oe good low) s = .next t ∧
      (let e := s.fab.engine oe
       (low % 4).testBit e.input = true → bitAt e.low e.input = true → (good % 4).testBit (1 - e.input) = true →
         (t.fab.engine oe).laserB = !e.laserB ∧ (t.fab.engine oe).dark = false) := by
  have hexec : exec (.laserSample oe good low) s = execLaserSample oe good low s := by rfl
  simp only [hexec, execLaserSample, unit, need, if_pos hoe, hpower, hlit, if_neg hgood, if_true]
  generalize hinput : (if (s.fab.engine oe).laserB = true then 1 else 0) = a
  have hinput : (s.fab.engine oe).input = a := hinput
  rw [hinput]
  split
  · refine ⟨_, rfl, fun hlow hwas _ => ?_⟩
    rw [record_fab, State.foldl_modStrait_engine, State.modEngine_same, State.modEngine_same, State.modEngine_same, hlow, hwas]
    simp
  · next hstay =>
    refine ⟨_, rfl, fun hlow hwas hother => absurd ?_ hstay⟩
    rw [hlow, hwas, hother]
    rfl

end Sys2Proof.Machine

open Sys2Proof Sys2Proof.Machine

/-- Settles O36: an arriving flit is `State.straitArrival` on a state whose receiving side one flit time has left as it was
(`State.flitTime_sameReceiver`); a changed list of peers only queues messages (`State.straitChanged_queued`). -/
theorem straitCommands : Obligations.StraitCommands := by
  unfold Obligations.StraitCommands
  intro up good arrives
  have harrives (mk : Nat → SFlit → Nat → Bool → Bool → Instr) (kind : BitVec 4)
      (hmk : ∀ i f fec unc rep s, exec (mk i f fec unc rep) s = straitFlit kind i f fec unc rep s) : arrives mk kind := by
    intro s i g fec unc rep hup
    have hexec := (hmk i g fec unc rep s).trans (State.StraitUp.straitFlit_eq hup kind g fec unc rep)
    refine ⟨_, hexec, ?_⟩
    obtain ⟨hseq, hdisc, hrun, hcrc, hfec⟩ := s.flitTime_sameReceiver i fec
    dsimp only [good]
    rw [← hseq, ← hdisc, ← hrun, ← hcrc, ← hfec, ← s.flitTime_inbox i fec, ← s.flitTime_foldId i fec]
    simp only [State.straitArrival, Bool.and_eq_true, Bool.not_eq_true']
    split
    · rw [State.modStrait_same]
      exact Strait.lostWord_receiver _ rep
    · split
      · next hdiscards => exact ⟨hdiscards.left, rfl, rfl⟩
      · split
        · exact State.takeFlit_strait _ i _
        · rw [State.modStrait_same]
          exact ⟨rfl, rfl, rfl, rfl, rfl⟩
  refine ⟨harrives .straitIdleFlit 0 fun _ _ _ _ _ _ => rfl, harrives .straitBodyFlit 1 fun _ _ _ _ _ _ => rfl, ?replay, ?down,
    ?trained, ?retrain, ?marker, ?failure, ?change, ?laser⟩
  case replay =>
    intro s i f hup
    have hexec : exec (.straitReplayRequest i f) s = execStraitReplayRequest i f s := by rfl
    rw [hexec, execStraitReplayRequest, State.StraitUp.controlFlit_eq hup]
    dsimp only [good]
    split
    · refine ⟨_, rfl, ?_⟩
      rw [State.modStrait_twice]
      rfl
    · refine ⟨_, rfl, ?_⟩
      rw [State.modStrait_same]
      exact ⟨rfl, rfl⟩
  case down =>
    intro s i hup
    have hexec : exec (.straitDown i) s = execStraitDown i s := by rfl
    have hqueued := State.straitLost_queued (State.StraitUp.up hup)
    refine ⟨_, hexec.trans (State.StraitUp.onStrait hup _), s.straitLost_down i i (.inr rfl), ?_⟩
    rw [hqueued.field Strait.kept fun _ _ => rfl, State.modStrait_same]
    rfl
  case trained =>
    intro s i id port v hi hpower hlit hdark hdown hid hport
    obtain ⟨t, ht, hqueued⟩ := exec_straitTrained hi hpower hlit hdark hdown id port v
    have hsame := s.modStrait_same i fun x => x.trained id port v
    have hfield {α : Type} (π : Strait → α) (hπ : ∀ (x : Strait) q, π { x with outq := q } = π x) :
        π (t.fab.strait i) = π ((s.fab.strait i).trained id port v) := (hqueued.field π hπ i).trans (congrArg π hsame)
    have hidNat : (bits 12 id).toNat = id := Nat.mod_eq_of_lt hid
    have hportNat : (bits 4 port).toNat = port := Nat.mod_eq_of_lt hport
    exact ⟨t, ht, hfield Strait.up fun _ _ => rfl, (congrArg BitVec.toNat (hfield Strait.peerId fun _ _ => rfl)).trans hidNat,
      (congrArg BitVec.toNat (hfield Strait.peerPort fun _ _ => rfl)).trans hportNat, hfield Strait.peerValid fun _ _ => rfl,
      hfield Strait.txSeq fun _ _ => rfl, hfield Strait.rxSeq fun _ _ => rfl, hfield Strait.kept fun _ _ => rfl⟩
  case retrain =>
    intro s i hup hfails
    have hexec : exec (.straitRetrain i) s = execStraitRetrain i s := by rfl
    rw [hexec, execStraitRetrain, State.StraitUp.onStrait hup, need, decide_eq_true hfails]
    exact ⟨_, rfl, rfl⟩
  case marker =>
    intro s i f hup
    dsimp only [good]
    split
    · next hcrc => exact State.StraitUp.exec_straitRetrainMarker hup hcrc
    · next hcrc =>
      have hexec : exec (.straitRetrainMarker i f) s = execStraitRetrainMarker i f s := by rfl
      rw [hexec, execStraitRetrainMarker, State.StraitUp.controlFlit_eq hup, if_neg hcrc]
      refine ⟨_, rfl, ?_⟩
      rw [State.modStrait_same]
      exact ⟨rfl, rfl⟩
  case failure =>
    intro s i lane hup hlane
    refine ⟨_, State.StraitUp.exec_laneFailure hup hlane, fun hlt hspare hswap hfull => ?_⟩
    rw [if_neg hlt.ne, State.laneFails_first lane hspare hswap hfull]
    exact ⟨getLsbD_or_lane _ hlt, rfl, rfl⟩
  case change =>
    intro s i f hup
    by_cases hcrc : good s i { f with kind := 4 }
    · by_cases hspare : fld f.ctrl 0 8 < 8 ∧ fld f.ctrl 8 8 = 8
      · obtain ⟨hlane, hwidth⟩ := hspare
        refine ⟨_, State.StraitUp.exec_laneMapChange_full hup hcrc hlane hwidth, fun _ _ _ => ?_, fun hbad => absurd hcrc hbad⟩
        rw [State.modStrait_same, State.modStrait_twice]
        exact ⟨rfl, rfl, getLsbD_or_lane _ hlane⟩
      · obtain ⟨t, ht⟩ := State.StraitUp.exec_laneMapChange_next (f := f) hup
        exact ⟨t, ht, fun _ hlane hwidth => absurd ⟨hlane, hwidth⟩ hspare, fun hbad => absurd hcrc hbad⟩
    · have hexec : exec (.laneMapChange i f) s = execLaneMapChange i f s := by rfl
      refine ⟨_, ?_, fun hgood => absurd hgood hcrc, fun _ => rfl⟩
      rw [hexec, execLaneMapChange, State.StraitUp.controlFlit_eq hup]
      exact if_neg hcrc
  case laser =>
    intro s oe g low hoe hpower hlit hg hlow
    by_cases hnone : g = 0
    · subst hnone
      refine ⟨_, exec_laserSample_none hoe hpower hlit low, fun _ => ?_, fun _ _ hother => ?_⟩
      · split
        · next hdark =>
          rw [State.sampled, State.modEngine_same]
          exact ⟨hdark, fun hlight => absurd (hlight.symm.trans hdark) Bool.false_ne_true⟩
        · rw [record_fab]
          exact ⟨State.darken_dark _ oe, fun _ k hk => State.darken_down _ oe hk⟩
      · rw [Nat.zero_testBit] at hother
        exact absurd hother Bool.false_ne_true
    · have hg4 : g % 4 = g := Nat.mod_eq_of_lt hg
      obtain ⟨t, ht, hswitch⟩ := exec_laserSample_good hoe hpower hlit (hg4.symm ▸ hnone) low
      rw [hg4, Nat.mod_eq_of_lt hlow] at hswitch
      exact ⟨t, ht, fun hzero => absurd hzero hnone, fun hnow hwas hother =>
        hswitch hnow ((BitVec.testBit_toNat _).trans hwas) hother⟩
end

section
/-! PROOF. A trip and what follows it: the pins of the trip state, the hold of the next start and the saved thermal-cycle counts
(R493 to R496, R498). -/

namespace Sys2Proof.Machine

/-- A property of the default and of every changed record holds of each record of the changed map. -/
theorem look_remap {α : Type} [DecidableEq α] {d : α} {g : α → α} {P : α → Prop} (hd : P d) (hg : ∀ x, P (g x)) (m : SMap α)
    (k : Nat) : P (look d (remap d m g) k) := by
  have hentries : ∀ p ∈ remap d m g, P p.2 := by
    intro p hp
    obtain ⟨q, -, rfl⟩ := List.mem_map.1 (List.mem_of_mem_filter hp)
    exact hg q.2
  revert hentries
  induction remap d m g with
  | nil => exact fun _ => hd
  | cons p r ih =>
    intro hentries
    rw [look]
    split
    · exact hentries p List.mem_cons_self
    · exact ih fun q hq => hentries q (List.mem_cons_of_mem p hq)

theorem State.flashLog_last (s : State) (e : EvRec) : (s.flashLog e).boot.flash.log.getLast? = some e := by
  have hmax : 0 < flashLogMax := by decide
  simp only [State.flashLog]
  split
  · rw [List.getLast?_drop, if_neg (by omega), List.getLast?_append, List.getLast?_singleton, Option.some_or]
  · rw [List.getLast?_append, List.getLast?_singleton, Option.some_or]

/-! ### The pins of the trip state (Table 16.6) -/

section TripPins

variable {s : State} (haon : s.boot.pwrokAon = true) (htrip : s.boot.tripLayer ≠ 0)
include haon htrip

theorem State.pinCond_trip : s.pinCond = .trip := by
  rw [State.pinCond, haon, if_neg (by decide), if_pos htrip]

theorem State.faultN_trip : s.faultN = .low := by
  rw [State.faultN, State.pinCond_trip haon htrip]

theorem State.alertN_trip : s.alertN = .float := by
  rw [State.alertN, State.pinCond_trip haon htrip]

theorem State.hostTx_trip (p : Nat) : s.hostTx p = .float := by
  rw [State.hostTx, State.portIdle, State.pinCond_trip haon htrip]
  exact if_pos rfl

theorem State.lsEnN_trip (oe : Nat) : s.lsEnN oe = .float := by
  rw [State.lsEnN, State.pinCond_trip haon htrip]

end TripPins

/-! ### The trip -/

theorem cause_ne_zero_of_mem_tripKinds {cause kind : Nat} (h : kind ∈ tripKinds cause) : cause ≠ 0 := by
  rintro rfl
  exact absurd h List.not_mem_nil

theorem exec_trip {s : State} {cause kind : Nat} (haon : s.boot.pwrokAon = true) (hlayer : s.boot.tripLayer = 0)
    (hkind : kind ∈ tripKinds cause) (value sensor : Nat) (reading : Int) :
    exec (.trip cause kind value sensor reading) s =
      need (decide (deg (tripPoint cause) ≤ reading)) .notPending
        (.next (s.tripNow cause (locOf kind value) sensor reading)) := by
  have hexec : exec (.trip cause kind value sensor reading) s = execTrip cause kind value sensor reading s := by rfl
  have hhas : (!(tripKinds cause).contains kind) = false := by
    rw [List.contains_iff_mem.2 hkind]; rfl
  rw [hexec, execTrip, haon, hlayer, hhas]
  rfl

/-- What a trip leaves of a cluster. -/
def Cluster.stopped (c : Cluster) : Cluster := { c with clk := .off, waking := false, stretch := 0, limStretch := 0, tripped := 0 }

/-- What a trip leaves of a port. -/
def Port.stopped (p : Port) : Port := { p with up := false, cxl := false, wakeLow := false }

theorem State.tripNow_clusters (s : State) (cause : Nat) (loc : BitVec 32) (sensor : Nat) (reading : Int) :
    (s.tripNow cause loc sensor reading).clusters = remap {} s.clusters Cluster.stopped := rfl

theorem State.tripNow_ports (s : State) (cause : Nat) (loc : BitVec 32) (sensor : Nat) (reading : Int) :
    (s.tripNow cause loc sensor reading).ports = remap {} s.ports Port.stopped := rfl

theorem State.tripNow_clk (s : State) (cause : Nat) (loc : BitVec 32) (sensor : Nat) (reading : Int) (cl : Nat) :
    ((s.tripNow cause loc sensor reading).cluster cl).clk = .off := by
  rw [State.cluster, State.tripNow_clusters]
  exact look_remap (P := fun c : Cluster => c.clk = .off) rfl (fun _ => rfl) s.clusters cl

theorem State.tripNow_up (s : State) (cause : Nat) (loc : BitVec 32) (sensor : Nat) (reading : Int) (n : Nat) :
    ((s.tripNow cause loc sensor reading).port n).up = false := by
  rw [State.port, State.tripNow_ports]
  exact look_remap (P := fun p : Port => p.up = false) rfl (fun _ => rfl) s.ports n

theorem State.tripNow_last (s : State) (cause : Nat) (loc : BitVec 32) (sensor : Nat) (reading : Int) :
    ∃ e, (s.tripNow cause loc sensor reading).boot.flash.log.getLast? = some e ∧ e.typ = 0x4A ∧ e.level = 5 ∧ e.loc = loc :=
  ⟨_, State.flashLog_last _ _, rfl, rfl, rfl⟩

/-! ### The hold of a start, and the saved counts -/

theorem exec_tripCooldownCheck {s : State} (haon : s.boot.pwrokAon = true) (hhold : s.boot.coolHold = true)
    (hlast : s.boot.fuses.lastTrip ≠ 6) (reading : Int) :
    exec (.tripCooldownCheck reading) s =
      .next (s.onBoot fun b => { b with coolHold := !decide (reading ≤ deg (tripPoint b.fuses.lastTrip - 20)) }) := by
  have hexec : exec (.tripCooldownCheck reading) s = execTripCooldownCheck reading s := by rfl
  rw [hexec, execTripCooldownCheck, haon, hhold, bne_iff_ne.2 hlast]
  rfl

theorem look_foldl_put_range {α : Type} [DecidableEq α] (d : α) (g : Nat → α) (m : SMap α) (n : Nat) {k : Nat} (hk : k < n) :
    look d ((List.range n).foldl (fun m i => put d m i (g i)) m) k = g k := by
  induction n with
  | zero => exact absurd hk (Nat.not_lt_zero k)
  | succ n ih =>
    rw [List.range_succ, List.foldl_append, List.foldl_cons, List.foldl_nil, look_put]
    split
    · next h => rw [h]
    · exact ih (by omega)

theorem State.onBoot_restore {s t : State} (h : { t with boot := s.boot } = s) (g : Boot → Boot) :
    { t.onBoot g with boot := s.boot } = s := h

theorem State.saveCycles_saved (s : State) {d : Nat} (hd : d < 4) : look 0 s.saveCycles.boot.flash.cycSaved d = (s.die d).cycles := by
  have hfold := look_foldl_put_range 0 (fun d => (s.die d).cycles) s.boot.flash.cycSaved 4 hd
  simpa only [State.saveCycles, State.onFlash, State.onBoot] using hfold

end Sys2Proof.Machine

open Sys2Proof Sys2Proof.Machine

/-- Settles O50: a reading at or above the trip point makes the outcome `State.tripNow`, whose pins follow from the trip state
(`State.pinCond_trip`) and whose clusters and ports are remapped (`look_remap`). -/
theorem tripsAndCooling : Obligations.TripsAndCooling := by
  unfold Obligations.TripsAndCooling
  refine ⟨?trips, ?below, ?cooldown, ?save⟩
  case trips =>
    intro s cause kind value sensor reading haon hlayer hkind hreading
    have hcause := cause_ne_zero_of_mem_tripKinds hkind
    have hexec := exec_trip haon hlayer hkind value sensor reading
    rw [decide_eq_true hreading] at hexec
    have haon' : (s.tripNow cause (locOf kind value) sensor reading).boot.pwrokAon = true := haon
    exact ⟨_, hexec, rfl, rfl, rfl, rfl, rfl, rfl, rfl, s.tripNow_clk cause _ sensor reading,
      s.tripNow_up cause _ sensor reading, State.faultN_trip haon' hcause, State.alertN_trip haon' hcause, State.hostTx_trip haon' hcause,
      State.lsEnN_trip haon' hcause, s.tripNow_last cause _ sensor reading, rfl, rfl, rfl⟩
  case below =>
    intro s cause kind value sensor reading haon hlayer hkind hreading
    rw [exec_trip haon hlayer hkind, decide_eq_false (not_le.2 hreading)]
    rfl
  case cooldown =>
    intro s reading haon hhold hlast
    refine ⟨_, exec_tripCooldownCheck haon hhold hlast reading, ?_, rfl⟩
    have hpoint : deg (tripPoint s.boot.fuses.lastTrip - 20) = deg (tripPoint s.boot.fuses.lastTrip) - 160 := by
      unfold deg; omega
    simp only [State.onBoot, hpoint, Bool.not_eq_false', decide_eq_true_eq]
    omega
  case save =>
    intro s hup hhour
    have hexec : exec .cycleCountSave s = execCycleCountSave s := by rfl
    rw [hexec, execCycleCountSave, hup, hhour]
    have hsaved : { s.saveCycles with boot := s.boot } = s := State.onBoot_restore rfl _
    exact ⟨_, rfl, fun d hd => s.saveCycles_saved hd, rfl, State.onBoot_restore (State.onBoot_restore hsaved _) _⟩
end

section
/-! PROOF. Lanes carried on spares (R443 to R446) and the loss of the hub (R327, R341). -/

namespace Sys2Proof.Machine

/-! ### Lanes on spares (Tables 12.4 and 12.5) -/

theorem State.record_journal_sameUnits (s : State) (es : List (Nat × List Byte)) (typ level action status : Nat) (loc : BitVec 32)
    (detail : BitVec 128) : s.SameUnits ((s.journal es).record typ level action status loc detail) :=
  (s.journal_sameUnits es).trans (State.record_sameUnits ..)

theorem State.spareBond_sameUnits (s : State) (c bundle lane wear : Nat) :
    (s.modCluster c fun x => { x with bondUsed := x.bondUsed ++ [bondSpare bundle lane] }).SameUnits (s.spareBond c bundle lane wear) :=
  State.record_journal_sameUnits ..

theorem State.spareBond_bondUsed (s : State) (c bundle lane wear : Nat) :
    ((s.spareBond c bundle lane wear).cluster c).bondUsed = (s.cluster c).bondUsed ++ [bondSpare bundle lane] := by
  rw [(s.spareBond_sameUnits c bundle lane wear).field (fun x => x.cluster c) fun _ => rfl, State.modCluster_cluster, if_pos rfl]

theorem State.spareTsv_tsvSpares (s : State) (ch lane wear : Nat) :
    ((s.spareTsv ch lane wear).channel ch).tsvSpares = (s.channel ch).tsvSpares - 1 := by
  rw [State.spareTsv, (State.record_journal_sameUnits ..).channel, State.modChannel_channel, if_pos rfl]

theorem State.spareLink_badLanes (s : State) (ep lane : Nat) :
    ((s.spareLink ep lane).net.link ep).badLanes = (s.net.link ep).badLanes ++ [lane] := by
  rw [State.spareLink, record_net, State.journal_net, State.modLink_link, if_pos rfl]

/-- A lane whose eye and error rate are good is left as it is (R443). -/
theorem worn_eq {rate : Bool} {height least : Nat} :
    (rate || decide (height < least)) = true ↔ rate = true ∨ height < least := by
  rw [Bool.or_eq_true, decide_eq_true_eq]

theorem not_worn {rate : Bool} {height least : Nat} (hrate : rate = false) (heye : least ≤ height) :
    (rate || decide (height < least)) = false := by
  rw [hrate, decide_eq_false (not_lt.2 heye), Bool.or_false]

section Scan

variable {s : State} {u : Nat} (hup : s.mainlandUp = true)
include hup

theorem exec_eyeScan_bond {bundle : Nat} (hu : u < 64) (hbundle : bundle < 3) (hin : (s.cluster u).retired = false)
    (lane height : Nat) (rate : Bool) : exec (.eyeScan 0 u bundle lane height rate) s = .next (
      if (rate || decide (height < (s.die (dieOfCluster u)).eyeMin)) && !(s.cluster u).bondUsed.contains (bondSpare bundle lane)
      then s.spareBond u bundle lane 1 else s) := by
  have hexec : exec (.eyeScan 0 u bundle lane height rate) s = execEyeScan 0 u bundle lane height rate s := by rfl
  rw [hexec, execEyeScan, hup, unit, if_pos hu, unit, if_pos hbundle, hin]
  rfl

theorem exec_eyeScan_tsv (hu : u < 576) (bundle lane height : Nat) (rate : Bool) :
    exec (.eyeScan 1 u bundle lane height rate) s = .next (
      if (rate || decide (height < (s.die (u / 144)).eyeMin)) && (s.channel u).tsvSpares != 0 then s.spareTsv u lane 1 else s) := by
  have hexec : exec (.eyeScan 1 u bundle lane height rate) s = execEyeScan 1 u bundle lane height rate s := by rfl
  rw [hexec, execEyeScan, hup, unit, if_pos hu]
  rfl

theorem exec_eyeScan_link (hu : isEp u = true) (bundle lane height : Nat) (rate : Bool) :
    exec (.eyeScan 2 u bundle lane height rate) s = .next (
      if (rate || decide (height < 60)) && (s.net.link u).spareLanes != 0 && !(s.net.link u).badLanes.contains lane
      then s.spareLink u lane else s) := by
  have hexec : exec (.eyeScan 2 u bundle lane height rate) s = execEyeScan 2 u bundle lane height rate s := by rfl
  rw [hexec, execEyeScan, hup, hu]
  rfl

theorem exec_bondLaneFailure {bundle : Nat} (hu : u < 64) (hbundle : bundle < 3) (hin : (s.cluster u).retired = false)
    (lane : Nat) (carries : Bool) : exec (.bondOrTsvLaneFailure 0 u bundle lane carries) s = .next (
      if (s.cluster u).bondUsed.contains (bondSpare bundle lane) then s.bundleGone u bundle carries
      else s.spareBond u bundle lane 0) := by
  have hexec : exec (.bondOrTsvLaneFailure 0 u bundle lane carries) s = execBondOrTsvLaneFailure 0 u bundle lane carries s := by rfl
  rw [hexec, execBondOrTsvLaneFailure, hup, unit, if_pos hu, unit, if_pos hbundle, hin]
  rfl

/-- A channel out of spares is announced for map-out (Table 08.9 step 0). -/
def State.tsvGone (s : State) (u : Nat) : State :=
  let s := s.record 0x17 1 0x10 0 (locOf 6 u) (detailOf [(0, 1, 1)])
  s.onRegions (s.poolRegions u) (Region.announce u)

theorem exec_tsvLaneFailure (hu : u < 576) (hin : s.inService u = true) (bundle lane : Nat) (carries : Bool) :
    exec (.bondOrTsvLaneFailure 1 u bundle lane carries) s = .next (
      if (s.channel u).tsvSpares ≠ 0 then s.spareTsv u lane 0 else s.tsvGone u) := by
  have hexec : exec (.bondOrTsvLaneFailure 1 u bundle lane carries) s = execBondOrTsvLaneFailure 1 u bundle lane carries s := by rfl
  rw [hexec, execBondOrTsvLaneFailure, hup, unit, if_pos hu, hin]
  rfl

end Scan

theorem State.tsvGone_announced (s : State) (u : Nat) {r : Nat} (hr : r ∈ s.poolRegions u) :
    (s.tsvGone u).region r = Region.announce u (s.region r) := by
  have hrecord := s.record_sameUnits 0x17 1 0x10 0 (locOf 6 u) (detailOf [(0, 1, 1)])
  rw [State.tsvGone, hrecord.sameLayout.poolRegions, State.onRegions_region (s.poolRegions_nodup u), if_pos hr, hrecord.region]

/-! ### The loss of the hub (R327, R341) -/

/-- Every strait is down. -/
def State.StraitsDown (s : State) : Prop := ∀ i, i < 16 → (s.fab.strait i).up = false

theorem State.straitLost_of_down {s : State} {i : Nat} (h : (s.fab.strait i).up = false) : s.straitLost i = s := by
  simp [State.straitLost, h]

theorem State.StraitsDown.darken_eq {s : State} (h : s.StraitsDown) {oe : Nat} (hoe : oe < 4) :
    s.darken oe = s.modEngine oe fun e => { e with dark := true } := by
  refine List.foldlRecOn (motive := fun t => t = s.modEngine oe fun e => { e with dark := true }) _ _ rfl fun t ht k hk => ?_
  subst ht
  have hk4 := List.mem_range.1 hk
  exact State.straitLost_of_down (h (4 * oe + k) (by omega))

theorem State.darken_engine (s : State) {oe o : Nat} (h : o ≠ oe) : (s.darken oe).fab.engine o = s.fab.engine o := by
  refine List.foldlRecOn (motive := fun t : State => t.fab.engine o = s.fab.engine o) _ _ ?_ fun t ht k _ => ?_
  · rw [State.modEngine_engine, if_neg h]
  · rwa [State.straitLost_engine]

/-- Engines darkened one after the other are dark. -/
theorem State.foldl_darken_dark (oes : List Nat) (s : State) (o : Nat) (h : o ∈ oes ∨ (s.fab.engine o).dark = true) :
    ((oes.foldl State.darken s).fab.engine o).dark = true := by
  induction oes generalizing s with
  | nil => exact h.resolve_left List.not_mem_nil
  | cons oe oes ih =>
    rw [List.foldl_cons]
    refine ih _ ?_
    by_cases hsame : o = oe
    · exact .inr (hsame ▸ s.darken_dark oe)
    · rw [s.darken_engine hsame]
      exact h.imp_left fun hmem => (List.mem_cons.1 hmem).resolve_left hsame

theorem State.StraitsDown.foldl_darken {s : State} (h : s.StraitsDown) {oes : List Nat} (hoes : ∀ oe ∈ oes, oe < 4) :
    (oes.foldl State.darken s).fab.forwarding = s.fab.forwarding := by
  have hkept : (oes.foldl State.darken s).StraitsDown ∧ (oes.foldl State.darken s).fab.forwarding = s.fab.forwarding := by
    refine List.foldlRecOn (motive := fun t : State => t.StraitsDown ∧ t.fab.forwarding = s.fab.forwarding) _ _ ⟨h, rfl⟩
      fun t ht oe hoe => ?_
    obtain ⟨hdown, hforward⟩ := ht
    rw [hdown.darken_eq (hoes oe hoe)]
    exact ⟨hdown, hforward⟩
  exact hkept.right

/-- The package out of service: forwarding off and every engine dark. -/
def State.cutOff (s : State) : State := (List.range 4).foldl State.darken (s.onFab fun f => { f with forwarding := false })

theorem State.cutOff_dark (s : State) {o : Nat} (ho : o < 4) : (s.cutOff.fab.engine o).dark = true := by
  rw [State.cutOff]
  exact State.foldl_darken_dark _ _ o (.inl (List.mem_range.2 ho))

theorem State.StraitsDown.cutOff {s : State} (h : s.StraitsDown) : s.cutOff.fab.forwarding = false := by
  have hdown : (s.onFab fun f => { f with forwarding := false }).StraitsDown := h
  rw [State.cutOff, hdown.foldl_darken fun _ => List.mem_range.1]
  rfl

theorem exec_hubLoss {s : State} (hpower : s.powered = true) (hstate : s.boot.state ≠ .halted) (canWrite : Bool) :
    ∃ t, exec (.hubLoss canWrite) s = .next t ∧ t.boot.state = .halted ∧ t.boot.mainland = false ∧
      (canWrite = false → t.fab = s.cutOff.fab) := by
  have hexec : exec (.hubLoss canWrite) s = execHubLoss canWrite s := by rfl
  rw [hexec, execHubLoss, hpower, bne_iff_ne.2 hstate]
  have hcut : each (List.range 4) (fun oe s => s.darken oe) (s.onFab fun f => { f with forwarding := false }) = s.cutOff := by
    rw [each, State.cutOff]
  dsimp only
  rw [hcut]
  generalize s.cutOff = u
  refine ⟨_, rfl, rfl, rfl, ?_⟩
  rintro rfl
  exact record_fab ..

end Sys2Proof.Machine

open Sys2Proof Sys2Proof.Machine

/-- Settles O48: a spare used is journalled and recorded, which leaves the units (`State.record_journal_sameUnits`); with every
strait down, an engine that goes dark loses none (`State.StraitsDown.darken_eq`). -/
theorem laneRepairsAndLossOfTheHub : Obligations.LaneRepairsAndLossOfTheHub := by
  unfold Obligations.LaneRepairsAndLossOfTheHub
  refine ⟨?scan, ?failure, ?hub⟩
  case scan =>
    intro s u bundle lane height rate hup
    refine ⟨fun hu hbundle hin => ⟨_, exec_eyeScan_bond hup hu hbundle hin lane height rate, fun hrate heye => ?_, fun hworn => ?_⟩,
      fun hu => ⟨_, exec_eyeScan_tsv hup hu bundle lane height rate, fun hrate heye => ?_, fun hworn => ?_⟩,
      fun hu => ⟨_, exec_eyeScan_link hup hu bundle lane height rate, fun hrate heye => ?_, fun hworn hspare => ?_⟩⟩
    · rw [not_worn hrate heye]
      rfl
    · rw [worn_eq.2 hworn]
      split
      · rw [State.spareBond_bondUsed]
        exact List.mem_append_right _ List.mem_cons_self
      · next hused => simpa using hused
    · rw [not_worn hrate heye]
      rfl
    · rw [worn_eq.2 hworn]
      split
      · exact s.spareTsv_tsvSpares u lane 1
      · next hleft =>
        have hzero : (s.channel u).tsvSpares = 0 := by simpa using hleft
        rw [hzero]
    · rw [not_worn hrate heye]
      rfl
    · rw [worn_eq.2 hworn, bne_iff_ne.2 hspare]
      split
      · rw [State.spareLink_badLanes]
        exact List.mem_append_right _ List.mem_cons_self
      · next hbad => simpa using hbad
  case failure =>
    intro s u bundle lane carries hup
    refine ⟨fun hu hbundle hin => ⟨_, exec_bondLaneFailure hup hu hbundle hin lane carries, fun hspare => ?_⟩,
      fun hu hin => ⟨_, exec_tsvLaneFailure hup hu hin bundle lane carries, fun hleft => ?_, fun hnone r hr => ?_⟩⟩
    · have hunits := s.spareBond_sameUnits u bundle lane 0
      rw [if_neg (mt List.contains_iff_mem.1 hspare)]
      exact ⟨s.spareBond_bondUsed u bundle lane 0, hunits.field State.cores fun _ => rfl, hunits.field State.mem fun _ => rfl⟩
    · rw [if_pos hleft]
      exact s.spareTsv_tsvSpares u lane 0
    · rw [if_neg (not_not.2 hnone), s.tsvGone_announced u hr]
      exact ⟨rfl, rfl⟩
  case hub =>
    intro s canWrite hpower hstate
    obtain ⟨t, ht, hhalted, hmainland, hfab⟩ := exec_hubLoss hpower hstate canWrite
    refine ⟨t, ht, hhalted, hmainland, fun hquiet hdown => ?_⟩
    rw [hfab hquiet]
    exact ⟨State.StraitsDown.cutOff hdown, fun _ => s.cutOff_dark⟩
end

section
/-! PROOF. What sending on the fabric leaves as it was (R336, R338, R345): a message queued for a strait, a message sent on its
flow, and the sends of many. -/

namespace Sys2Proof.Machine

/-! ### Traffic: queues, flowlets, flows and routes change, and nothing else -/

/-- `t` is `s` but for TICKS and the straits, flowlets, flows and routes of the switch. -/
def State.Traffic (s t : State) : Prop :=
  { t with free := s.free, ticks := s.ticks,
           fab := { t.fab with straits := s.fab.straits, flowlets := s.fab.flowlets, flows := s.fab.flows, routes := s.fab.routes } } = s

theorem State.Traffic.refl (s : State) : s.Traffic s := rfl

theorem State.Traffic.trans {s t u : State} (h : s.Traffic t) (k : t.Traffic u) : s.Traffic u := by
  unfold State.Traffic at h k ⊢
  rw [← k] at h
  exact h

/-- What reads none of those reads the same. -/
theorem State.Traffic.field {s t : State} (h : s.Traffic t) {α : Type} (π : State → α)
    (hπ : ∀ x : State, π { x with free := s.free, ticks := s.ticks, fab := { x.fab with straits := s.fab.straits, flowlets := s.fab.flowlets,
                                                                                        flows := s.fab.flows, routes := s.fab.routes } } = π x) :
    π t = π s := by
  rw [← hπ t]
  exact congrArg π h

/-- Steps that are each traffic are traffic together. -/
theorem State.foldl_traffic {α : Type} {f : State → α → State} (hf : ∀ (s : State) a, s.Traffic (f s a)) (l : List α) (s : State) :
    s.Traffic (l.foldl f s) :=
  List.foldlRecOn (motive := fun x => s.Traffic x) l f (.refl s) fun x h a _ => h.trans (hf x a)

theorem State.touch_traffic (s : State) : s.Traffic s.touch := rfl

theorem State.onWire_traffic (s : State) (i : Nat) (m : FMsg) : s.Traffic (s.onWire i m) := rfl

theorem State.modFlow_traffic (s : State) (k : Nat) (g : Flow → Flow) : s.Traffic (s.onFab fun f => f.modFlow k g) := rfl

theorem State.putFlow_traffic (s : State) (k : Nat) (x : Flow) : s.Traffic (s.onFab fun f => f.putFlow k x) := rfl

/-! ### A message queued: every flow stays too -/

/-- Traffic that leaves the flows. -/
structure State.Wired (s t : State) : Prop where
  traffic : s.Traffic t
  flows : t.fab.flows = s.fab.flows

theorem State.Wired.refl (s : State) : s.Wired s := ⟨.refl s, rfl⟩

theorem State.Wired.trans {s t u : State} (h : s.Wired t) (k : t.Wired u) : s.Wired u :=
  ⟨h.traffic.trans k.traffic, k.flows.trans h.flows⟩

theorem State.Wired.flow {s t : State} (h : s.Wired t) (k : Nat) : t.fab.flow k = s.fab.flow k := by
  rw [Fab.flow, Fab.flow, h.flows]

theorem State.foldl_wired {α : Type} {f : State → α → State} (hf : ∀ (s : State) a, s.Wired (f s a)) (l : List α) (s : State) :
    s.Wired (l.foldl f s) :=
  List.foldlRecOn (motive := fun x => s.Wired x) l f (.refl s) fun x h a _ => h.trans (hf x a)

theorem State.onWire_wired (s : State) (i : Nat) (m : FMsg) : s.Wired (s.onWire i m) := ⟨s.onWire_traffic i m, rfl⟩

theorem State.fabQueue_wired (s : State) (m : FMsg) : s.Wired (s.fabQueue m) := by
  have htouch : s.Wired s.touch := ⟨s.touch_traffic, rfl⟩
  unfold State.fabQueue
  dsimp only
  split
  · exact htouch
  · next i _ => exact (htouch.trans (s.touch.onWire_wired i m)).trans ⟨rfl, rfl⟩

theorem State.spread_wired (s : State) (m : FMsg) (except_ : Option Nat) : s.Wired (s.spread m except_) := by
  refine State.foldl_wired (fun t i => ?_) _ s
  split
  · exact t.onWire_wired i m
  · exact .refl t

/-! ### A message sent: every flow keeps its receiving side -/

/-- The receiving side of a flow. -/
def Flow.receiver (x : Flow) : BitVec 16 × Nat := (x.rxNext, x.unacked)

/-- Traffic that leaves the receiving side of every flow. -/
structure State.Sent (s t : State) : Prop where
  traffic : s.Traffic t
  receiver : ∀ k, (t.fab.flow k).receiver = (s.fab.flow k).receiver

theorem State.Sent.refl (s : State) : s.Sent s := ⟨.refl s, fun _ => rfl⟩

theorem State.Sent.trans {s t u : State} (h : s.Sent t) (k : t.Sent u) : s.Sent u :=
  ⟨h.traffic.trans k.traffic, fun j => (k.receiver j).trans (h.receiver j)⟩

theorem State.Wired.sent {s t : State} (h : s.Wired t) : s.Sent t := ⟨h.traffic, fun k => by rw [h.flow]⟩

theorem State.Sent.rxNext {s t : State} (h : s.Sent t) (k : Nat) : (t.fab.flow k).rxNext = (s.fab.flow k).rxNext :=
  congrArg Prod.fst (h.receiver k)

theorem State.Sent.unacked {s t : State} (h : s.Sent t) (k : Nat) : (t.fab.flow k).unacked = (s.fab.flow k).unacked :=
  congrArg Prod.snd (h.receiver k)

theorem State.foldl_sent {α : Type} {f : State → α → State} (hf : ∀ (s : State) a, s.Sent (f s a)) (l : List α) (s : State) :
    s.Sent (l.foldl f s) :=
  List.foldlRecOn (motive := fun x => s.Sent x) l f (.refl s) fun x h a _ => h.trans (hf x a)

theorem State.putFlow_sent (s : State) (k : Nat) (x : Flow) (h : x.receiver = (s.fab.flow k).receiver) :
    s.Sent (s.onFab fun f => f.putFlow k x) := by
  refine ⟨s.putFlow_traffic k x, fun j => ?_⟩
  rw [(s.onFab_frame _).left, Fab.putFlow_flow]
  split
  · next hj => rw [h, hj]
  · rfl

theorem State.fabSend_sent (s : State) (m : FMsg) : s.Sent (s.fabSend m) := by
  unfold State.fabSend
  dsimp only
  split
  · exact (s.fabQueue_wired _).sent
  · split
    · exact s.putFlow_sent _ _ rfl
    · refine (s.putFlow_sent _ _ ?_).trans (State.fabQueue_wired _ _).sent
      rfl

theorem State.floodOf_sent (s : State) (origin : Nat) (l : List (Nat × Nat)) (released noId : Bool) (except_ : Option Nat) :
    s.Sent (s.floodOf origin l released noId except_) := by
  refine State.foldl_sent (fun t p => ?_) _ s
  split
  · exact .refl t
  · exact t.fabSend_sent _

theorem State.flood_sent (s : State) : s.Sent s.flood := by
  unfold State.flood
  split
  · exact s.floodOf_sent ..
  · exact .refl s

theorem State.reroutes_sent (s : State) : s.Sent s.reroutes := by
  unfold State.reroutes
  split
  · exact ⟨rfl, fun _ => rfl⟩
  · exact .refl s

/-- An ACK leaves nothing unacknowledged on its flow, and every flow's next number. -/
theorem State.sendAck_sent (s : State) (peer tc : Nat) :
    (s.onFab fun f => f.modFlow (flowKey peer tc) fun x => { x with unacked := 0 }).Sent (s.sendAck peer tc) := by
  unfold State.sendAck
  exact State.fabSend_sent _ _

theorem State.sendAck_rxNext (s : State) (peer tc k : Nat) : ((s.sendAck peer tc).fab.flow k).rxNext = (s.fab.flow k).rxNext := by
  rw [(s.sendAck_sent peer tc).rxNext, (s.onFab_frame _).left, Fab.modFlow_flow]
  split
  · next hk => rw [hk]
  · rfl

theorem State.sendAck_traffic (s : State) (peer tc : Nat) : s.Traffic (s.sendAck peer tc) :=
  (s.modFlow_traffic _ _).trans (s.sendAck_sent peer tc).traffic

/-! ### Flows that start again, and straits that retrain -/

theorem State.resetFlows_traffic (s : State) (peer : Nat) : s.Traffic (s.resetFlows peer) := by
  refine State.foldl_traffic (fun t tc => ?_) _ s
  exact (t.modFlow_traffic _ _).trans (State.foldl_wired State.fabQueue_wired _ _).traffic

theorem State.syncAll_traffic (s : State) : s.Traffic s.syncAll := by
  refine State.foldl_traffic (fun t p => ?_) _ s
  exact (t.resetFlows_traffic p).trans (State.fabSend_sent _ _).traffic

theorem State.refold_traffic (s : State) : s.Traffic s.refold := by
  refine State.foldl_traffic (fun t i => ?_) _ s
  split
  · exact rfl
  · exact .refl t

end Sys2Proof.Machine
end

section
/-! PROOF. The fabric ID: claimed, taken and given back through FAB_ID, and what the switch does with a SYNC and with
through-traffic (R334 to R337, R364). -/

namespace Sys2Proof.Machine

/-! ### FAB_ID written (R334, R335) -/

theorem PkbOpen.fabIdWrite {s : State} {port : Nat} (h : PkbOpen s port) (v : W64) :
    bar0 port 0 (fun s => s.regWrite port 0 0x300400 v) s = .next (
      if bitAt v 12 then (s.pkbBusied port).fabJoin (fld v 0 12) else (s.pkbBusied port).fabLeave (fld v 0 12)) := by
  have hwrite : s.writePackage port 0x400 v = s.writeFabId port v := rfl
  rw [h.reaches.bar0_package (off := 0x400) (by omega) v, hwrite, State.writeFabId, h.pkbPost]

/-- The ID that a write names, in bits [11:0]. -/
theorem fld_fabId {id : Nat} (hid : id < 4096) (en : Bool) : fld (bits 64 (id + bit01 en * 4096)) 0 12 = id := by
  cases en <;> simp [fld, bits, bit01] <;> omega

/-- FAB_EN, in bit 12. -/
theorem bitAt_fabEn {id : Nat} (hid : id < 4096) (en : Bool) : bitAt (bits 64 (id + bit01 en * 4096)) 12 = en := by
  have htoNat : (bits 64 (id + bit01 en * 4096)).toNat = id + bit01 en * 4096 := by
    cases en <;> simp [bits, bit01] <;> omega
  rw [bitAt, htoNat, Nat.testBit, Nat.shiftRight_eq_div_pow]
  cases en <;> simp [bit01] <;> omega

theorem PkbOpen.exec_fabJoin {s : State} {port id : Nat} (h : PkbOpen s port) (hid : id < 4096) :
    exec (.fabJoin port id) s = .next ((s.pkbBusied port).fabJoin id) := by
  have hexec : exec (.fabJoin port id) s = execFabJoin port id s := by rfl
  have hen := bitAt_fabEn hid true
  have hfld := fld_fabId hid true
  rw [show bit01 true * 4096 = 4096 from rfl] at hen hfld
  rw [hexec, execFabJoin, unit, if_pos hid, h.fabIdWrite, hen, hfld, if_pos rfl]

theorem PkbOpen.exec_fabLeave {s : State} {port id : Nat} (h : PkbOpen s port) (hid : id < 4096) :
    exec (.fabLeave port id) s = .next ((s.pkbBusied port).fabLeave id) := by
  have hexec : exec (.fabLeave port id) s = execFabLeave port id s := by rfl
  have hen := bitAt_fabEn hid false
  have hfld := fld_fabId hid false
  rw [show bit01 false * 4096 = 0 from rfl, Nat.add_zero] at hen hfld
  rw [hexec, execFabLeave, unit, if_pos hid, h.fabIdWrite, hen, hfld, if_neg (by decide)]

theorem State.pkbBusied_fab (s : State) (port : Nat) : (s.pkbBusied port).fab = s.fab := rfl

theorem State.fabJoin_taken (s : State) (id : Nat) (h : s.fab.joined = true ∨ s.fab.claim ≠ none) :
    s.fabJoin id = s.onFab fun f => { f with idReq := bits 12 id, enReq := true, reject := true } := by
  have hheld : (s.fab.joined || s.fab.claim.isSome) = true := by
    rw [Bool.or_eq_true, Option.isSome_iff_ne_none]
    exact h
  rw [State.fabJoin, if_pos (by exact hheld)]
  rfl

/-- A claim waits, with its SYNC on every strait. -/
theorem State.fabJoin_claims (s : State) (id : Nat) (hjoined : s.fab.joined = false) (hclaim : s.fab.claim = none) :
    (s.onFab fun f => { f with idReq := bits 12 id, enReq := true, reject := false, claim := some (bits 12 id) }).Traffic
      (s.fabJoin id) := by
  have hfree : (s.fab.joined || s.fab.claim.isSome) = false := by rw [hjoined, hclaim]; rfl
  rw [State.fabJoin, if_neg (by exact Bool.eq_false_iff.1 hfree)]
  exact (State.spread_wired _ _ _).traffic

theorem State.dropId_traffic (s : State) :
    (s.onFab fun f => { f with joined := false, idApplied := 0, adopted := false, flows := [], reqs := [] }).Traffic s.dropId :=
  State.refold_traffic _

theorem State.dropId_joined (s : State) : s.dropId.fab.joined = false :=
  s.dropId_traffic.field (fun x => x.fab.joined) fun _ => rfl

theorem State.releaseId_marks (s : State) : s.fab.idApplied.toNat ∈ s.releaseId.fab.marks := by
  simp only [State.releaseId, (State.onFab_frame _ _).left]
  split
  · next h => exact List.contains_iff_mem.1 h
  · exact List.mem_append_right _ List.mem_cons_self

/-- Given back: no ID is held, and it is under a release mark. -/
theorem State.dropId_releaseId (s : State) : s.releaseId.dropId.fab.joined = false ∧ s.fab.idApplied.toNat ∈ s.releaseId.dropId.fab.marks := by
  refine ⟨State.dropId_joined _, ?_⟩
  rw [s.releaseId.dropId_traffic.field (fun x => x.fab.marks) fun _ => rfl]
  exact s.releaseId_marks

/-- FAB_ID as written with FAB_EN = 0. -/
def State.leaveRequested (s : State) (id : Nat) : State := s.onFab fun f => { f with idReq := bits 12 id, enReq := false, reject := false }

section Leave

variable (s : State) (id : Nat)

theorem State.fabLeave_cancels (h : s.fab.claim ≠ none) :
    s.fabLeave id = (s.leaveRequested id).onFab fun f => { f with claim := none } := by
  rw [State.fabLeave]
  exact if_pos (Option.isSome_iff_ne_none.2 h)

variable (hclaim : s.fab.claim = none) (hjoined : s.fab.joined = true)
include hclaim hjoined

theorem State.fabLeave_holder :
    s.fabLeave id = if s.fabWork then (s.leaveRequested id).onFab fun f => { f with reject := true }
      else (s.leaveRequested id).releaseId.dropId := by
  have hnone : ¬ (s.leaveRequested id).fab.claim.isSome = true := by
    rw [Option.isSome_iff_ne_none, not_not]
    exact hclaim
  have hheld : ¬ (!(s.leaveRequested id).fab.joined) = true := by
    rw [Bool.not_eq_true', Bool.not_eq_false]
    exact hjoined
  rw [State.fabLeave]
  exact (if_neg hnone).trans (if_neg hheld)

theorem State.fabLeave_refused (hwork : s.fabWork = true) :
    s.fabLeave id = (s.leaveRequested id).onFab fun f => { f with reject := true } := by
  rw [s.fabLeave_holder id hclaim hjoined, if_pos hwork]

theorem State.fabLeave_released (hwork : s.fabWork = false) :
    (s.fabLeave id).fab.joined = false ∧ s.fab.idApplied.toNat ∈ (s.fabLeave id).fab.marks := by
  rw [s.fabLeave_holder id hclaim hjoined, if_neg (Bool.eq_false_iff.1 hwork)]
  exact (s.leaveRequested id).dropId_releaseId

end Leave

theorem State.releaseId_ports (s : State) : s.releaseId.ports = s.ports :=
  (s.floodOf_sent ..).traffic.field State.ports fun _ => rfl

theorem State.fabLeave_ports (s : State) (id : Nat) : (s.fabLeave id).ports = s.ports := by
  unfold State.fabLeave
  dsimp only
  split
  · rfl
  · split
    · rfl
    · split
      · rfl
      · exact ((State.dropId_traffic _).field State.ports fun _ => rfl).trans (State.releaseId_ports _)

/-! ### A claim taken (R335) -/

/-- The identity of a package that takes an ID. -/
def Fab.taking (f : Fab) (id : Nat) (adopted : Bool) : Fab :=
  { f with idApplied := bits 12 id, joined := true, adopted := adopted, claim := none, forwarding := true
           marks := f.marks.filter (· != id), noId := f.noId.filter (· != id), linkState := drop f.linkState id }

theorem State.takeId_traffic (s : State) (id : Nat) (adopted : Bool) :
    (s.onFab fun f => f.taking id adopted).Traffic (s.takeId id adopted) :=
  (((State.refold_traffic _).trans (State.reroutes_sent _).traffic).trans (State.syncAll_traffic _)).trans (State.flood_sent _).traffic

/-! ### SYNC (R335, R345, R364) -/

theorem exec_sync_answer {s : State} {i : Nat} (hi : i < 16) (hpower : s.powered = true) {m : FMsg} (h0 : m.aux ≠ 0) (h1 : m.aux ≠ 1) :
    ∃ t, exec (.sync i m) s = .next t ∧ (s.fab.claim = some (bits 12 (m.chunk.toNat % 4096)) →
      t = (s.unbox { m with kind := 11 }).onFab fun f => { f with claim := none, reject := true }) := by
  have hexec : exec (.sync i m) s = execSync i m s := by rfl
  rw [hexec, execSync, unit, if_pos hi, need, hpower, if_pos rfl]
  dsimp only
  split
  · next h => exact absurd (BitVec.eq_of_toNat_eq h) h0
  · next h => exact absurd (BitVec.eq_of_toNat_eq h) h1
  · split
    · exact ⟨_, rfl, fun _ => rfl⟩
    · next h => exact ⟨_, rfl, fun hclaim => absurd hclaim h⟩

theorem exec_sync {s : State} {i : Nat} (hi : i < 16) (hpower : s.powered = true) {m : FMsg} (h : m.aux = 0 → s.addressed m = true) :
    ∃ t, exec (.sync i m) s = .next t := by
  have hexec : exec (.sync i m) s = execSync i m s := by rfl
  rw [hexec, execSync, unit, if_pos hi, need, hpower, if_pos rfl]
  dsimp only
  split
  · next h0 =>
    have haddressed : (s.unbox { m with kind := 11 }).addressed { m with kind := 11 } = true := h (BitVec.eq_of_toNat_eq h0)
    rw [need, haddressed]
    exact ⟨_, rfl⟩
  · split <;> exact ⟨_, rfl⟩
  · split <;> exact ⟨_, rfl⟩

/-! ### Through-traffic (R337) -/

section Through

variable {s : State} {i : Nat} (hi : i < 16) (hpower : s.powered = true) (hforward : s.fab.forwarding = true)
include hi hpower hforward

theorem exec_throughTraffic_mine {m : FMsg} (hjoined : s.fab.joined = true) (hdst : m.dst = s.fab.idApplied) :
    exec (.throughTraffic i m) s = .next ((s.unbox m).onFab fun f => { f with inbox := f.inbox ++ [m] }) := by
  have hexec : exec (.throughTraffic i m) s = execThroughTraffic i m s := by rfl
  rw [hexec, execThroughTraffic, unit, if_pos hi, need, hpower, hforward]
  have hmine : ((s.unbox m).fab.joined && m.dst == (s.unbox m).fab.idApplied) = true := by
    rw [Bool.and_eq_true, beq_iff_eq]
    exact ⟨hjoined, hdst⟩
  exact if_pos hmine

theorem exec_throughTraffic_other {m : FMsg} (h : ¬ (s.fab.joined = true ∧ m.dst = s.fab.idApplied)) :
    ∃ t, exec (.throughTraffic i m) s = .next t ∧
      (8 ≤ m.hops.toNat → t = (s.unbox m).onFab fun f => { f with hopDrop := f.hopDrop + 1 }) := by
  have hexec : exec (.throughTraffic i m) s = execThroughTraffic i m s := by rfl
  rw [hexec, execThroughTraffic, unit, if_pos hi, need, hpower, hforward]
  dsimp only
  rw [if_pos (by decide), if_neg (by simpa [State.unbox, State.onFab] using h)]
  split
  · exact ⟨_, rfl, fun _ => rfl⟩
  · next hcrossed =>
    split
    · split <;> exact ⟨_, rfl, fun hninth => absurd hninth hcrossed⟩
    · exact ⟨_, rfl, fun hninth => absurd hninth hcrossed⟩

end Through

end Sys2Proof.Machine

open Sys2Proof Sys2Proof.Machine

/-- Settles O37: a claim, an ID taken and an ID given back change the identity, and all that follows is traffic
(`State.fabJoin_claims`, `State.takeId_traffic`, `State.dropId_traffic`). -/
theorem fabricIdentityAndRoutes : Obligations.FabricIdentityAndRoutes := by
  unfold Obligations.FabricIdentityAndRoutes
  refine ⟨?join, ?leave, ?claim, ?flood, ?sync, ?through, ?expiry⟩
  case join =>
    intro s port id hopen hid
    refine ⟨_, hopen.exec_fabJoin hid, ?_⟩
    by_cases hheld : s.fab.joined = true ∨ s.fab.claim ≠ none
    · rw [(s.pkbBusied port).fabJoin_taken id hheld]
      refine ⟨s.pkbBusied_pkbBusy port, fun hjoined hclaim => ?_, fun _ => ⟨rfl, rfl, rfl⟩⟩
      exact (hheld.elim (fun h => Bool.false_ne_true (hjoined.symm.trans h)) fun h => h hclaim).elim
    · rw [not_or, not_not, Bool.not_eq_true] at hheld
      obtain ⟨hjoined, hclaim⟩ := hheld
      have hclaims := (s.pkbBusied port).fabJoin_claims id hjoined hclaim
      refine ⟨?_, fun _ _ => ⟨hclaims.field (fun x => x.fab.claim) fun _ => rfl, hclaims.field (fun x => x.fab.reject) fun _ => rfl,
        (hclaims.field (fun x => x.fab.joined) fun _ => rfl).trans hjoined⟩, fun h => ?_⟩
      · exact (hclaims.field (fun x => (x.port port).pkbBusy) fun _ => rfl).trans (s.pkbBusied_pkbBusy port)
      · rw [hjoined, hclaim] at h
        exact (h.elim Bool.false_ne_true fun h => h rfl).elim
  case leave =>
    intro s port id hopen hid
    refine ⟨_, hopen.exec_fabLeave hid, ?_, fun hclaim => ?_,
      fun hclaim hjoined => ⟨fun hwork => ?_, fun hwork => ?_⟩⟩
    · rw [State.port, State.fabLeave_ports]
      exact s.pkbBusied_pkbBusy port
    · rw [(s.pkbBusied port).fabLeave_cancels id hclaim]
      rfl
    · rw [(s.pkbBusied port).fabLeave_refused id hclaim hjoined hwork]
      exact ⟨rfl, hjoined, rfl⟩
    · exact (s.pkbBusied port).fabLeave_released id hclaim hjoined hwork
  case claim =>
    intro s id hup hclaim
    have hexec : exec .claimTimeout s = execClaimTimeout s := by rfl
    rw [hexec, execClaimTimeout, hup, need, if_pos rfl, hclaim]
    have htraffic := s.takeId_traffic id.toNat false
    have hid : bits 12 id.toNat = id := BitVec.eq_of_toNat_eq (by simp [bits])
    refine ⟨_, rfl, htraffic.field (fun x => x.fab.joined) fun _ => rfl, (htraffic.field (fun x => x.fab.idApplied) fun _ => rfl).trans hid,
      htraffic.field (fun x => x.fab.claim) fun _ => rfl, ?_⟩
    rw [htraffic.field (fun x => x.fab.marks) fun _ => rfl]
    simp [State.onFab, Fab.taking]
  case flood =>
    intro s hup hjoined
    have hexec : exec .linkstateFlood s = execLinkstateFlood s := by rfl
    rw [hexec, execLinkstateFlood, hup, hjoined]
    exact ⟨_, rfl, s.flood_sent.traffic.field State.mem fun _ => rfl, s.flood_sent.traffic.field State.cores fun _ => rfl⟩
  case sync =>
    intro s i m hi hpower haddressed
    by_cases hanswer : m.aux ≠ 0 ∧ m.aux ≠ 1
    · obtain ⟨t, ht, hended⟩ := exec_sync_answer hi hpower hanswer.left hanswer.right
      refine ⟨t, ht, fun _ _ hclaim => ?_⟩
      rw [hended hclaim]
      exact ⟨rfl, rfl⟩
    · obtain ⟨t, ht⟩ := exec_sync hi hpower haddressed
      exact ⟨t, ht, fun h0 h1 => absurd ⟨h0, h1⟩ hanswer⟩
  case through =>
    intro s i m hi hpower hforward
    dsimp only
    by_cases hmine : s.fab.joined = true ∧ m.dst = s.fab.idApplied
    · refine ⟨_, exec_throughTraffic_mine hi hpower hforward hmine.left hmine.right,
        fun _ => ⟨List.mem_append_right _ List.mem_cons_self, rfl, rfl⟩, fun h => absurd hmine h⟩
    · obtain ⟨t, ht, hdrop⟩ := exec_throughTraffic_other hi hpower hforward hmine
      refine ⟨t, ht, fun h => absurd h hmine, fun _ hninth => ?_⟩
      rw [hdrop hninth]
      exact ⟨rfl, rfl⟩
  case expiry =>
    intro s id hid hpower hmark
    have hexec : exec (.releaseMarkExpiry id) s = execReleaseMarkExpiry id s := by rfl
    rw [hexec, execReleaseMarkExpiry, unit, if_pos hid, hpower, need, if_pos rfl, need, List.contains_iff_mem.2 hmark]
    exact ⟨_, rfl, rfl, rfl⟩
end

section
/-! PROOF. A numbered message at its destination: accepted, a repeat, or a gap (R345). -/

namespace Sys2Proof.Machine

/-! ### What only the fabric side changes -/

/-- `t` is `s` but for TICKS and the fabric side: the same memory, cores and queues. -/
def State.FabricOnly (s t : State) : Prop := { t with free := s.free, ticks := s.ticks, fab := s.fab } = s

theorem State.FabricOnly.refl (s : State) : s.FabricOnly s := rfl

theorem State.FabricOnly.trans {s t u : State} (h : s.FabricOnly t) (k : t.FabricOnly u) : s.FabricOnly u := by
  unfold State.FabricOnly at h k ⊢
  rw [← k] at h
  exact h

theorem State.FabricOnly.field {s t : State} (h : s.FabricOnly t) {α : Type} (π : State → α)
    (hπ : ∀ x : State, π { x with free := s.free, ticks := s.ticks, fab := s.fab } = π x) : π t = π s := by
  rw [← hπ t]
  exact congrArg π h

theorem State.onFab_fabricOnly (s : State) (g : Fab → Fab) : s.FabricOnly (s.onFab g) := rfl

theorem State.Traffic.fabricOnly {s t : State} (h : s.Traffic t) : s.FabricOnly t := by
  have hfab := congrArg (fun x : State => { x with fab := s.fab }) h
  exact hfab

/-! ### The outcome of a numbered message -/

/-- A message as its command takes it: of a kind, in the kind's class. -/
def FMsg.ofKind (m : FMsg) (kind : BitVec 4) : FMsg := { m with kind := kind, tc := bits 2 (tcOfKind kind.toNat) }

/-- The flow that a message of a kind comes on. -/
def FMsg.rxKey (m : FMsg) (kind : BitVec 4) : Nat := flowKey m.src.toNat (tcOfKind kind.toNat)

theorem FMsg.ofKind_tc (m : FMsg) (kind : BitVec 4) : (m.ofKind kind).tc.toNat = tcOfKind kind.toNat := by
  have hclass : tcOfKind kind.toNat < 2 ^ 2 := by
    unfold tcOfKind
    split
    · decide
    · split
      · decide
      · split <;> decide
  exact Nat.mod_eq_of_lt hclass

/-- A message out of the inbox, and its sender heard (R360). -/
def State.heard (s : State) (m : FMsg) : State := (s.unbox m).heardFrom m.src.toNat

/-- The counters of a flow after a message accepted on it. -/
def Flow.accept (x : Flow) : Flow := { x with rxNext := x.rxNext + 1, unacked := x.unacked + 1 }

/-- The state on which an accepted message is performed: counted, and with every 64th acknowledged (R345). -/
def State.accepted (s : State) (m : FMsg) (tc : Nat) : State :=
  let t := (s.heard m).onFab fun f => f.modFlow (flowKey m.src.toNat tc) Flow.accept
  if 64 ≤ (s.fab.flow (flowKey m.src.toNat tc)).unacked + 1 then t.sendAck m.src.toNat tc else t

/-- A repeat counted and acknowledged (R345). -/
def State.repeated (s : State) (m : FMsg) (tc : Nat) : State :=
  ((s.heard m).onFab fun f => { f with repeats := f.repeats + 1 }).sendAck m.src.toNat tc

/-- A gap counted, and answered with a NAK of the counter expected (R345). -/
def State.gapped (s : State) (m : FMsg) (tc : Nat) : State :=
  ((s.heard m).onFab fun f => { f with gaps := f.gaps + 1 }).fabSend
    (mkAck 13 m.src.toNat tc (s.fab.flow (flowKey m.src.toNat tc)).rxNext)

/-- The outcome of a numbered message by how it stands to its flow's counter. -/
def State.arrival (s : State) (m : FMsg) (tc : Nat) (k : State → State) : Alive → State
  | .accept => k (s.accepted m tc)
  | .repeat_ => s.repeated m tc
  | .gap => s.gapped m tc

theorem receive_eq {s : State} {m : FMsg} (h : s.addressed m = true) (kind : BitVec 4) (k : FMsg → State → State) :
    receive kind m k s = .next (s.arrival (m.ofKind kind) (tcOfKind kind.toNat) (k (m.ofKind kind))
      (alivePlace (s.fab.flow (m.rxKey kind)).rxNext m.alive)) := by
  have haddressed : s.addressed (m.ofKind kind) = true := h
  have htc := m.ofKind_tc kind
  rw [FMsg.ofKind] at haddressed htc
  simp only [receive, haddressed, htc, need, if_true]
  have hflow : ((s.unbox (m.ofKind kind)).heardFrom m.src.toNat).fab.flow (flowKey m.src.toNat (tcOfKind kind.toNat)) =
    s.fab.flow (m.rxKey kind) := rfl
  rw [FMsg.ofKind] at hflow
  rw [hflow]
  cases alivePlace (s.fab.flow (m.rxKey kind)).rxNext m.alive <;> rfl

/-! ### A message accepted -/

section Arrival

variable (s : State) (m : FMsg) (tc : Nat)

theorem State.accepted_traffic : (s.heard m).Traffic (s.accepted m tc) := by
  have hcounted := (s.heard m).modFlow_traffic (flowKey m.src.toNat tc) Flow.accept
  unfold State.accepted
  dsimp only
  split
  · exact hcounted.trans (State.sendAck_traffic _ _ _)
  · exact hcounted

theorem State.accepted_rxNext :
    ((s.accepted m tc).fab.flow (flowKey m.src.toNat tc)).rxNext = (s.fab.flow (flowKey m.src.toNat tc)).rxNext + 1 := by
  have hcounted : (((s.heard m).onFab fun f => f.modFlow (flowKey m.src.toNat tc) Flow.accept).fab.flow (flowKey m.src.toNat tc)).rxNext =
      (s.fab.flow (flowKey m.src.toNat tc)).rxNext + 1 := by
    rw [(State.onFab_frame _ _).left, Fab.modFlow_flow, if_pos rfl]
    rfl
  unfold State.accepted
  dsimp only
  split
  · rw [State.sendAck_rxNext, hcounted]
  · exact hcounted

theorem State.heard_fabricOnly : s.FabricOnly (s.heard m) := (s.onFab_fabricOnly _).trans (State.onFab_fabricOnly _ _)

theorem State.heard_heard : look 0 (s.heard m).fab.guard.heard m.src.toNat = 0 :=
  look_put_same 0 s.fab.guard.heard m.src.toNat 0

theorem State.accepted_fabricOnly : s.FabricOnly (s.accepted m tc) :=
  (s.heard_fabricOnly m).trans (s.accepted_traffic m tc).fabricOnly

/-- The requests, collectives and link state are as they were. -/
theorem State.accepted_work : (s.accepted m tc).fab.reqs = s.fab.reqs ∧ (s.accepted m tc).fab.colls = s.fab.colls ∧
    (s.accepted m tc).fab.linkState = s.fab.linkState := by
  have h := s.accepted_traffic m tc
  exact ⟨h.field (fun x => x.fab.reqs) fun _ => rfl, h.field (fun x => x.fab.colls) fun _ => rfl,
    h.field (fun x => x.fab.linkState) fun _ => rfl⟩

/-! ### A repeat and a gap -/

theorem State.repeated_traffic : ((s.heard m).onFab fun f => { f with repeats := f.repeats + 1 }).Traffic (s.repeated m tc) :=
  State.sendAck_traffic _ _ _

theorem State.repeated_rxNext (k : Nat) : ((s.repeated m tc).fab.flow k).rxNext = (s.fab.flow k).rxNext :=
  State.sendAck_rxNext _ _ _ k

theorem State.gapped_sent : ((s.heard m).onFab fun f => { f with gaps := f.gaps + 1 }).Sent (s.gapped m tc) := State.fabSend_sent _ _

theorem State.gapped_rxNext (k : Nat) : ((s.gapped m tc).fab.flow k).rxNext = (s.fab.flow k).rxNext := (s.gapped_sent m tc).rxNext k

end Arrival

theorem State.repeated_fabricOnly (s : State) (m : FMsg) (tc : Nat) : s.FabricOnly (s.repeated m tc) :=
  ((s.heard_fabricOnly m).trans (State.onFab_fabricOnly _ _)).trans (s.repeated_traffic m tc).fabricOnly

theorem State.gapped_fabricOnly (s : State) (m : FMsg) (tc : Nat) : s.FabricOnly (s.gapped m tc) :=
  ((s.heard_fabricOnly m).trans (State.onFab_fabricOnly _ _)).trans (s.gapped_sent m tc).traffic.fabricOnly

theorem State.repeated_counts (s : State) (m : FMsg) (tc : Nat) :
    (s.repeated m tc).fab.repeats = s.fab.repeats + 1 ∧ (s.repeated m tc).fab.gaps = s.fab.gaps := by
  have h := s.repeated_traffic m tc
  rw [h.field (fun x => x.fab.repeats) fun _ => rfl, h.field (fun x => x.fab.gaps) fun _ => rfl]
  exact ⟨rfl, rfl⟩

theorem State.gapped_counts (s : State) (m : FMsg) (tc : Nat) :
    (s.gapped m tc).fab.gaps = s.fab.gaps + 1 ∧ (s.gapped m tc).fab.repeats = s.fab.repeats := by
  have h := (s.gapped_sent m tc).traffic
  rw [h.field (fun x => x.fab.gaps) fun _ => rfl, h.field (fun x => x.fab.repeats) fun _ => rfl]
  exact ⟨rfl, rfl⟩

theorem receive_accept {s : State} {m : FMsg} (h : s.addressed m = true) {kind : BitVec 4}
    (halive : m.alive = (s.fab.flow (m.rxKey kind)).rxNext) (k : FMsg → State → State) :
    receive kind m k s = .next (k (m.ofKind kind) (s.accepted (m.ofKind kind) (tcOfKind kind.toNat))) := by
  rw [receive_eq h, alivePlace, if_pos halive, State.arrival]

theorem receive_repeat {s : State} {m : FMsg} (h : s.addressed m = true) {kind : BitVec 4}
    (halive : m.alive ≠ (s.fab.flow (m.rxKey kind)).rxNext) (hbehind : ((s.fab.flow (m.rxKey kind)).rxNext - m.alive).toNat ≤ 32768)
    (k : FMsg → State → State) : receive kind m k s = .next (s.repeated (m.ofKind kind) (tcOfKind kind.toNat)) := by
  rw [receive_eq h, alivePlace, if_neg halive, if_pos hbehind, State.arrival]

theorem receive_gap {s : State} {m : FMsg} (h : s.addressed m = true) {kind : BitVec 4}
    (halive : m.alive ≠ (s.fab.flow (m.rxKey kind)).rxNext) (hbeyond : ¬ ((s.fab.flow (m.rxKey kind)).rxNext - m.alive).toNat ≤ 32768)
    (k : FMsg → State → State) : receive kind m k s = .next (s.gapped (m.ofKind kind) (tcOfKind kind.toNat)) := by
  rw [receive_eq h, alivePlace, if_neg halive, if_neg hbeyond, State.arrival]

/-- A message that is not accepted is counted, and its flow, memory and the cores stay as they were. -/
theorem receive_refuses {s : State} {m : FMsg} (h : s.addressed m = true) {kind : BitVec 4}
    (halive : m.alive ≠ (s.fab.flow (m.rxKey kind)).rxNext) (k : FMsg → State → State) :
    ∃ t, receive kind m k s = .next t ∧ (t.fab.flow (m.rxKey kind)).rxNext = (s.fab.flow (m.rxKey kind)).rxNext ∧ s.FabricOnly t ∧
      if ((s.fab.flow (m.rxKey kind)).rxNext - m.alive).toNat ≤ 32768
      then t.fab.repeats = s.fab.repeats + 1 ∧ t.fab.gaps = s.fab.gaps
      else t.fab.gaps = s.fab.gaps + 1 ∧ t.fab.repeats = s.fab.repeats := by
  by_cases hbehind : ((s.fab.flow (m.rxKey kind)).rxNext - m.alive).toNat ≤ 32768
  · refine ⟨_, receive_repeat h halive hbehind k, s.repeated_rxNext _ _ _, s.repeated_fabricOnly _ _, ?_⟩
    rw [if_pos hbehind]
    exact s.repeated_counts _ _
  · refine ⟨_, receive_gap h halive hbehind k, s.gapped_rxNext _ _ _, s.gapped_fabricOnly _ _, ?_⟩
    rw [if_neg hbehind]
    exact s.gapped_counts _ _

@[simp] theorem State.onGuard_guard (s : State) (g : Guard → Guard) : (s.onGuard g).fab.guard = g s.fab.guard := rfl

/-! ### A link-state message that is news (R336) -/

theorem State.takeLinkState_news {s : State} {m : FMsg} (haux : m.aux = 0)
    (hnews : look [] s.fab.linkState (m.chunk.toNat % 4096) ≠ m.peerList) :
    look [] (s.takeLinkState m).fab.linkState (m.chunk.toNat % 4096) = m.peerList := by
  have hreleased : bitAt m.aux 0 = false := by rw [haux]; rfl
  unfold State.takeLinkState
  dsimp only
  rw [hreleased, if_neg Bool.false_ne_true, if_neg (by simp [hnews]),
    ((State.reroutes_sent _).trans (State.floodOf_sent _ _ _ _ _ _)).traffic.field (fun x => x.fab.linkState) fun _ => rfl]
  exact look_put_same _ _ _ _

end Sys2Proof.Machine

open Sys2Proof Sys2Proof.Machine

/-- Settles O38: the outcome of `receive` is `State.arrival` (`receive_eq`), whose counts and acknowledgements are traffic
(`State.accepted_traffic`, `State.repeated_traffic`, `State.gapped_sent`). -/
theorem fabricMessagesOnTheirFlow : Obligations.FabricMessagesOnTheirFlow := by
  unfold Obligations.FabricMessagesOnTheirFlow
  intro arrives own
  have harrives (mk : FMsg → Instr) (kind : BitVec 4) (edit : FMsg → FMsg) (act : FMsg → State → State)
      (hedit : ∀ m, (edit m).src = m.src ∧ (edit m).alive = m.alive ∧ (edit m).dst = m.dst)
      (hmk : ∀ m s, exec (mk m) s = receive kind (edit m) act s) : arrives mk kind edit act := by
    intro s m haddressed
    obtain ⟨hsrc, halive, hdst⟩ := hedit m
    have haddressed' : s.addressed (edit m) = true := by rwa [State.addressed, hdst]
    have hkey : (edit m).rxKey kind = flowKey m.src.toNat (tcOfKind kind.toNat) := by rw [FMsg.rxKey, hsrc]
    rw [hmk]
    dsimp only
    rw [← hkey, ← halive]
    split
    · next hexpected =>
      have h := s.accepted_fabricOnly ((edit m).ofKind kind) (tcOfKind kind.toNat)
      exact ⟨_, receive_accept haddressed' hexpected act, _, rfl, s.accepted_rxNext ((edit m).ofKind kind) _, s.accepted_work _ _,
        h.field State.mem fun _ => rfl, h.field State.slices fun _ => rfl, h.field State.clusters fun _ => rfl,
        h.field State.cores fun _ => rfl, h.field State.queues fun _ => rfl⟩
    · next hother =>
      obtain ⟨t, ht, hnext, h, hcounts⟩ := receive_refuses haddressed' hother act
      exact ⟨t, ht, hnext, h.field State.mem fun _ => rfl, h.field State.slices fun _ => rfl, h.field State.clusters fun _ => rfl,
        h.field State.cores fun _ => rfl, hcounts⟩
  have howns (mk : FMsg → Instr) (kind : BitVec 4) (act : FMsg → State → State) (hmk : ∀ m s, exec (mk m) s = receive kind m act s) :
      arrives mk kind own act := harrives mk kind own act (fun _ => ⟨rfl, rfl, rfl⟩) hmk
  clear_value arrives own
  refine ⟨howns .put 0 _ fun _ _ => rfl, howns .get 1 _ fun _ _ => rfl, howns .atomic 2 _ fun _ _ => rfl, howns .notify 3 _ fun _ _ => rfl,
    howns .getData 4 _ fun _ _ => rfl, howns .atomicRet 5 _ fun _ _ => rfl, howns .resp 6 _ fun _ _ => rfl,
    howns .coll 7 _ fun _ _ => rfl, harrives .collectiveAbort 7 _ _ (fun _ => ⟨rfl, rfl, rfl⟩) fun _ _ => rfl,
    howns .heartbeat 8 _ fun _ _ => rfl, howns .linkstate 9 _ fun _ _ => rfl, ?heartbeat, ?linkstate⟩
  case heartbeat =>
    intro s m haddressed halive
    have hexec : exec (.heartbeat m) s = execHeartbeat m s := by rfl
    rw [hexec, execHeartbeat, receive_accept (kind := 8) haddressed halive]
    refine ⟨_, rfl, ?_, look_put_same 0 (s.accepted (m.ofKind 8) 3).fab.guard.beats m.src.toNat 0⟩
    have hheard := (s.accepted_traffic (m.ofKind 8) 3).field (fun x => look 0 x.fab.guard.heard m.src.toNat) fun _ => rfl
    exact hheard.trans (s.heard_heard (m.ofKind 8))
  case linkstate =>
    intro s m haddressed halive haux hnews
    have hexec : exec (.linkstate m) s = execLinkstate m s := by rfl
    obtain ⟨-, -, hlink⟩ := s.accepted_work (m.ofKind 9) 3
    rw [hexec, execLinkstate, receive_accept (kind := 9) haddressed halive]
    exact ⟨_, rfl, State.takeLinkState_news (m := m.ofKind 9) haux (hlink ▸ hnews)⟩
end

section
/-! PROOF. ACK, NAK and the timers of a flow, and the requests that are retried or end (R342, R345). -/

namespace Sys2Proof.Machine

/-! ### Kept messages (R345) -/

/-- The kept messages from the one of a counter on; all of them where none has it. -/
def Flow.keptFrom (x : Flow) (alive : BitVec 16) : List FMsg :=
  if x.kept.any fun y => y.alive == alive then x.kept.dropWhile fun y => y.alive != alive else x.kept

/-- The kept messages after the one of a counter; all of them where none has it. -/
def Flow.keptAfter (x : Flow) (alive : BitVec 16) : List FMsg :=
  if x.kept.any fun y => y.alive == alive then (x.kept.dropWhile fun y => y.alive != alive).drop 1 else x.kept

theorem any_alive {l : List FMsg} {a : BitVec 16} : (l.any fun y => y.alive == a) = true ↔ ∃ y ∈ l, y.alive = a := by
  simp only [List.any_eq_true, beq_iff_eq]

theorem Flow.keptFrom_eq (x : Flow) (a : BitVec 16) :
    x.keptFrom a = if ∃ y ∈ x.kept, y.alive = a then x.kept.dropWhile fun y => y.alive != a else x.kept :=
  if_congr any_alive rfl rfl

theorem Flow.keptAfter_eq (x : Flow) (a : BitVec 16) :
    x.keptAfter a = if ∃ y ∈ x.kept, y.alive = a then (x.kept.dropWhile fun y => y.alive != a).drop 1 else x.kept :=
  if_congr any_alive rfl rfl

/-- With nothing held back, room sends nothing. -/
theorem State.unhold_of_empty {s : State} {k : Nat} (h : (s.fab.flow k).held = []) :
    s.unhold k = s.onFab fun f => f.modFlow k fun x => { x with held := x.held.drop (1024 - (s.fab.flow k).kept.length) } := by
  simp only [State.unhold, h, List.take_nil, List.foldl_nil]

theorem State.resendAll_flows (s : State) (ms : List FMsg) : (s.resendAll ms).fab.flows = s.fab.flows :=
  (State.foldl_wired State.fabQueue_wired ms s).flows

theorem State.resendAll_retx (s : State) (ms : List FMsg) : (s.resendAll ms).fab.retx = s.fab.retx + ms.length := by
  have h := (State.foldl_wired State.fabQueue_wired ms s).traffic.field (fun x => x.fab.retx) fun _ => rfl
  rw [State.resendAll, (State.onFab_frame _ _).left, ← h]

/-- The flow of an ACK or NAK: its class stands in FM_AUX. -/
def FMsg.ackKey (m : FMsg) : Nat := flowKey m.src.toNat (m.aux.toNat % 4)

/-- The state in which an ACK's or NAK's flow keeps the messages given. -/
def State.keeping (s : State) (kind : BitVec 4) (m : FMsg) (kept : Flow → List FMsg) : State :=
  (s.heard { m with kind := kind }).onFab fun f => f.modFlow m.ackKey fun x => { x with kept := kept x }

theorem State.keeping_flow (s : State) (kind : BitVec 4) (m : FMsg) (kept : Flow → List FMsg) :
    (s.keeping kind m kept).fab.flow m.ackKey = { s.fab.flow m.ackKey with kept := kept (s.fab.flow m.ackKey) } := by
  rw [State.keeping, (State.onFab_frame _ _).left, Fab.modFlow_flow, if_pos rfl]
  rfl

theorem State.unhold_flow {s : State} {k : Nat} (h : (s.fab.flow k).held = []) : (s.unhold k).fab.flow k = s.fab.flow k := by
  rw [State.unhold_of_empty h, (State.onFab_frame _ _).left, Fab.modFlow_flow, if_pos rfl, h, List.drop_nil, ← h]

theorem State.unhold_retx {s : State} {k : Nat} (h : (s.fab.flow k).held = []) : (s.unhold k).fab.retx = s.fab.retx := by
  rw [State.unhold_of_empty h]
  rfl

theorem exec_ack {s : State} {m : FMsg} (h : s.addressed m = true) :
    exec (.ack m) s = .next ((s.keeping 12 m fun x => x.keptAfter m.alive).unhold m.ackKey) := by
  have hexec : exec (.ack m) s = execAck m s := by rfl
  have haddressed : s.addressed { m with kind := 12 } = true := h
  rw [hexec, execAck]
  simp only [haddressed, need, if_true]
  rfl

theorem exec_nak {s : State} {m : FMsg} (h : s.addressed m = true) :
    exec (.nak m) s = .next (
      let t := s.keeping 13 m fun x => x.keptFrom m.alive
      (t.resendAll (t.fab.flow m.ackKey).kept).unhold m.ackKey) := by
  have hexec : exec (.nak m) s = execNak m s := by rfl
  have haddressed : s.addressed { m with kind := 13 } = true := h
  rw [hexec, execNak]
  simp only [haddressed, need, if_true]
  rfl

theorem State.sendAck_unacked (s : State) (peer tc : Nat) : ((s.sendAck peer tc).fab.flow (flowKey peer tc)).unacked = 0 := by
  rw [(s.sendAck_sent peer tc).unacked, (State.onFab_frame _ _).left, Fab.modFlow_flow, if_pos rfl]

/-! ### Descriptors found by index -/

/-- A change that keeps the index is found in the descriptor of an index, fetched or kept. -/
theorem State.modDesc_found {s : State} {q i : Nat} {d : Desc} {g : Desc → Desc} (hg : ∀ x, (g x).index = x.index)
    (h : s.desc? q i = some d) : (s.modDesc q i g).desc? q i = some (g d) := by
  have hkeep : ((fun d : Desc => d.index.toNat == i) ∘ fun d : Desc => if d.index.toNat = i then g d else d) =
      fun d => d.index.toNat == i := by
    funext x
    by_cases hx : x.index.toNat = i <;> simp [hx, hg]
  have hmap (l : List Desc) : (l.map fun d => if d.index.toNat = i then g d else d).find? (fun d => d.index.toNat == i) =
      (l.find? fun d => d.index.toNat == i).map g := by
    rw [List.find?_map, hkeep]
    cases hfind : l.find? fun d => d.index.toNat == i with
    | none => rfl
    | some x =>
      have hx : x.index.toNat = i := by simpa using List.find?_some hfind
      simp [hx]
  cases hlive : s.live? q i with
  | some x =>
    have hsame : s.desc? q i = some x := by
      have hfind : (s.queue q).descs.find? (fun d => d.index.toNat == i) = some x := hlive
      rw [State.desc?, List.find?_append, hfind, Option.some_or]
    obtain rfl : x = d := Option.some.inj (hsame.symm.trans h)
    exact State.modDesc_desc? hg hlive
  | none =>
    have hfind : (s.queue q).descs.find? (fun d => d.index.toNat == i) = none := hlive
    have hany : ¬ ((s.queue q).descs.any fun d => d.index.toNat == i) = true := by
      rw [List.any_eq_true]
      rintro ⟨x, hx, hindex⟩
      exact absurd hindex (List.find?_eq_none.1 hfind x hx)
    have hpast : (s.queue q).past.find? (fun d => d.index.toNat == i) = some d := by
      rw [State.desc?, List.find?_append, hfind, Option.none_or] at h
      exact h
    simp only [State.modDesc, State.desc?, State.modQueue_queue, if_true, if_neg hany, List.find?_append, hfind, Option.none_or,
      hmap, hpast, Option.map_some]

/-- A running descriptor, fetched or kept, ends with the status of its failure. -/
theorem State.descEnd_ended {s : State} {q i : Nat} {d : Desc} (h : s.desc? q i = some d) (hr : d.phase = .running) {st : BitVec 8}
    (hst : st ≠ stDone) (r : BitVec 64) : Ended (s.descEnd q i st r) q i st r := by
  have hfound : (s.descEnd q i st r).desc? q i = some _ := State.modDesc_found (fun x => by split <;> rfl) h
  refine ended_of_desc? hfound ?_
  rw [hr]
  simp [hst]

/-! ### Requests retried, or ended (R342) -/

theorem exec_fabricRetry {s : State} (hpower : s.powered = true) (hjoined : s.fab.joined = true) {tag : Nat} {r : FReq}
    (hr : s.fab.reqs.find? (fun r => r.tag == tag && r.retry.isSome) = some r) :
    exec (.fabricRetry tag) s =
      .next ((s.onReq (fun x => x.tag == tag && x.retry.isSome) fun x => { x with retry := none }).fabSend r.msg) := by
  have hexec : exec (.fabricRetry tag) s = execFabricRetry tag s := by rfl
  rw [hexec, execFabricRetry, hpower, hjoined, hr]
  rfl

/-- NO_TARGET ends a descriptor's work with DEVICE_LOST, in a state whose record is all that follows. -/
theorem State.reqEnd_desc (s : State) {r : FReq} {q i : Nat} (hwho : r.who = .desc q i) :
    RecordOnly ((s.descEnd q i stLost 0).fabForget (.desc q i)) (s.reqEnd r 5) := by
  have hlost : fabStatus 5 = stLost := rfl
  simp only [State.reqEnd, hwho, hlost, if_true]
  exact record_only ..

theorem exec_noAnswerTimeout {s : State} (hpower : s.powered = true) {tag : Nat} {r : FReq}
    (hr : s.fab.reqs.find? (fun r => r.tag == tag && r.answer.isNone && r.status.isNone) = some r) :
    exec (.noAnswerTimeout tag) s = .next (s.reqEnd r 5) := by
  have hexec : exec (.noAnswerTimeout tag) s = execNoAnswerTimeout tag s := by rfl
  rw [hexec, execNoAnswerTimeout, hpower, hr]
  rfl

end Sys2Proof.Machine

open Sys2Proof Sys2Proof.Machine

/-- Settles O39: an ACK or NAK changes what its flow keeps (`State.keeping_flow`) and nothing held back follows
(`State.unhold_of_empty`); sending again leaves the flows (`State.resendAll_flows`). -/
theorem flowControlAndRetries : Obligations.FlowControlAndRetries := by
  unfold Obligations.FlowControlAndRetries
  refine ⟨?ack, ?nak, ?ackTimer, ?retransmit, ?retry, ?timeout⟩
  case ack =>
    intro s m haddressed k
    refine ⟨_, exec_ack haddressed, fun hheld => ?_⟩
    have hflow := s.keeping_flow 12 m fun x => x.keptAfter m.alive
    have hretx : (s.keeping 12 m fun x => x.keptAfter m.alive).fab.retx = s.fab.retx := rfl
    have hkept := Flow.keptAfter_eq (s.fab.flow k) m.alive
    generalize s.keeping 12 m (fun x => x.keptAfter m.alive) = t at hflow hretx ⊢
    have hnone : (t.fab.flow m.ackKey).held = [] := by rw [hflow]; exact hheld
    have hafter := (State.unhold_flow hnone).trans hflow
    have hrx := congrArg Flow.rxNext hafter
    have htx := congrArg Flow.txNext hafter
    exact ⟨(congrArg Flow.kept hafter).trans hkept, hrx, htx, (State.unhold_retx hnone).trans hretx⟩
  case nak =>
    intro s m haddressed k
    refine ⟨_, exec_nak haddressed, fun hheld => ?_⟩
    have hflow := s.keeping_flow 13 m fun x => x.keptFrom m.alive
    have hretx : (s.keeping 13 m fun x => x.keptFrom m.alive).fab.retx = s.fab.retx := rfl
    have hkept := (congrArg Flow.kept hflow).trans (Flow.keptFrom_eq (s.fab.flow k) m.alive)
    dsimp only
    generalize s.keeping 13 m (fun x => x.keptFrom m.alive) = t at hflow hkept hretx ⊢
    have hsame (ms : List FMsg) : (t.resendAll ms).fab.flow m.ackKey = t.fab.flow m.ackKey := by
      rw [Fab.flow, Fab.flow, State.resendAll_flows]
    have hnone : ((t.resendAll (t.fab.flow m.ackKey).kept).fab.flow m.ackKey).held = [] := by
      rw [hsame, hflow]
      exact hheld
    refine ⟨?_, ?_⟩
    · exact (congrArg Flow.kept ((State.unhold_flow hnone).trans (hsame _))).trans hkept
    · rw [State.unhold_retx hnone, State.resendAll_retx, hretx, hkept]
  case ackTimer =>
    intro s peer tc hpeer htc hpower hjoined hwaits
    have hexec : exec (.ackTimer peer tc) s = execAckTimer peer tc s := by rfl
    rw [hexec, execAckTimer, unit, if_pos hpeer, unit, if_pos htc, hpower, hjoined, decide_eq_true hwaits]
    exact ⟨_, rfl, s.sendAck_unacked peer tc, s.sendAck_rxNext peer tc _⟩
  case retransmit =>
    intro s peer tc hpeer htc hpower hjoined hkept
    have hexec : exec (.retransmitTimeout peer tc) s = execRetransmitTimeout peer tc s := by rfl
    have hsome : (!(s.fab.flow (flowKey peer tc)).kept.isEmpty) = true := by simpa using hkept
    rw [hexec, execRetransmitTimeout, unit, if_pos hpeer, unit, if_pos htc, hpower, hjoined]
    dsimp only
    rw [hsome]
    exact ⟨_, rfl, s.resendAll_flows _, s.resendAll_retx _⟩
  case retry =>
    intro s tag r hpower hjoined hr
    refine ⟨_, exec_fabricRetry hpower hjoined hr, ?_⟩
    rw [(State.fabSend_sent _ _).traffic.field (fun x => x.fab.reqs) fun _ => rfl]
    refine ⟨fun x hx htag => ?_, List.length_map _⟩
    obtain ⟨y, -, rfl⟩ := List.mem_map.1 hx
    by_cases hwaits : (y.tag == tag && y.retry.isSome) = true
    · rw [if_pos hwaits]
    · rw [if_neg hwaits] at htag ⊢
      simpa [htag] using hwaits
  case timeout =>
    intro s tag r hpower hr
    refine ⟨_, exec_noAnswerTimeout hpower hr, fun q i hwho => ?_⟩
    have hunits := (s.reqEnd_desc hwho).sameUnits
    refine ⟨fun x hx => ?_, fun d hd hrun => ?_⟩
    · rw [hunits.field (fun x => x.fab.reqs) fun _ => rfl] at hx
      simpa using (List.mem_filter.1 hx).right
    · have hended := State.descEnd_ended hd hrun (show stLost ≠ stDone by decide) 0
      have hqueues : (s.reqEnd r 5).desc? q i = (s.descEnd q i stLost 0).desc? q i := hunits.field (fun x => x.desc? q i) fun _ => rfl
      intro x hx
      exact hended x (hqueues.symm.trans hx)
end

section
/-! PROOF. The GUARD messages: taken by a package of their domain, each command has its effect on the guard group (R356 to R361,
R366). -/

namespace Sys2Proof.Machine

/-! ### Steps that change queues alone -/

/-- `t` is `s` but for its queues. -/
def State.QueuesOnly (s t : State) : Prop := { t with queues := s.queues } = s

theorem State.QueuesOnly.refl (s : State) : s.QueuesOnly s := rfl

theorem State.QueuesOnly.trans {s t u : State} (h : s.QueuesOnly t) (k : t.QueuesOnly u) : s.QueuesOnly u := by
  unfold State.QueuesOnly at h k ⊢
  rw [← k] at h
  exact h

theorem State.QueuesOnly.field {s t : State} (h : s.QueuesOnly t) {α : Type} (π : State → α)
    (hπ : ∀ x : State, π { x with queues := s.queues } = π x) : π t = π s := by
  rw [← hπ t]
  exact congrArg π h

theorem State.QueuesOnly.fab {s t : State} (h : s.QueuesOnly t) : t.fab = s.fab := h.field State.fab fun _ => rfl

theorem State.foldl_queuesOnly {α : Type} {f : State → α → State} (hf : ∀ (s : State) a, s.QueuesOnly (f s a)) (l : List α)
    (s : State) : s.QueuesOnly (l.foldl f s) :=
  List.foldlRecOn (motive := fun x => s.QueuesOnly x) l f (.refl s) fun x h a _ => h.trans (hf x a)

theorem State.modQueue_queuesOnly (s : State) (q : Nat) (g : Queue → Queue) : s.QueuesOnly (s.modQueue q g) := rfl

theorem State.modDesc_queuesOnly (s : State) (q i : Nat) (g : Desc → Desc) : s.QueuesOnly (s.modDesc q i g) := rfl

theorem State.descEnd_queuesOnly (s : State) (q i : Nat) (st : BitVec 8) (r : BitVec 64) : s.QueuesOnly (s.descEnd q i st r) := rfl

theorem State.onGuarded_queuesOnly (s : State) (f : Queue → Queue) : s.QueuesOnly (s.onGuarded f) := by
  refine State.foldl_queuesOnly (fun t p => ?_) _ s
  split
  · exact t.modQueue_queuesOnly _ f
  · exact .refl t

theorem State.endGuardDescs_queuesOnly (s : State) (op : Nat) (st : BitVec 8) : s.QueuesOnly (s.endGuardDescs op st) := by
  refine State.foldl_queuesOnly (fun t p => ?_) _ s
  split
  · exact t.descEnd_queuesOnly _ _ st 0
  · exact .refl t

/-! ### A command taken (R345, R358) -/

/-- A GUARD message as its command takes it. -/
def FMsg.guardCommand (m : FMsg) (c : GCmd) : FMsg := { m with aux := bits 32 (m.aux.toNat / 16 * 16 + c.code) }

/-- The state on which a GUARD command acts. -/
def State.guardTaken (s : State) (c : GCmd) (m : FMsg) : State := s.accepted ((m.guardCommand c).ofKind 10) 3

theorem State.guardTaken_guard (s : State) (c : GCmd) (m : FMsg) :
    { (s.guardTaken c m).fab.guard with heard := s.fab.guard.heard } = s.fab.guard := by
  have h := (s.accepted_traffic ((m.guardCommand c).ofKind 10) 3).field (fun x => x.fab.guard) fun _ => rfl
  rw [State.guardTaken, h]
  rfl

/-- What is not the silence of a member is as it was. -/
theorem State.guardTaken_field (s : State) (c : GCmd) (m : FMsg) {α : Type} (π : Guard → α)
    (hπ : ∀ (g : Guard) h, π { g with heard := h } = π g) : π (s.guardTaken c m).fab.guard = π s.fab.guard :=
  (hπ _ _).symm.trans (congrArg π (s.guardTaken_guard c m))

theorem State.guardTaken_fabricOnly (s : State) (c : GCmd) (m : FMsg) : s.FabricOnly (s.guardTaken c m) := s.accepted_fabricOnly _ _

/-- A GUARD message in order, for a package of its domain. -/
structure State.ActsOn (s : State) (m : FMsg) : Prop where
  addressed : s.addressed m = true
  alive : m.alive = (s.fab.flow (flowKey m.src.toNat 3)).rxNext
  inForce : s.fab.guard.inForce = true
  domain : s.fab.guard.domain = m.collId.toNat

section Taken

variable {s : State} {m : FMsg} (c : GCmd) (k : State → State)

theorem guardMsg_inOrder (haddressed : s.addressed m = true) (halive : m.alive = (s.fab.flow (flowKey m.src.toNat 3)).rxNext) :
    guardMsg c m k s = .next (
      if s.fab.guard.inForce = true ∧ s.fab.guard.domain = m.collId.toNat then k (s.guardTaken c m) else s.guardTaken c m) := by
  have haddressed' : s.addressed (m.guardCommand c) = true := haddressed
  have halive' : (m.guardCommand c).alive = (s.fab.flow ((m.guardCommand c).rxKey 10)).rxNext := halive
  have hreceive := receive_accept haddressed' halive' fun _ s =>
    if s.fab.guard.inForce && s.fab.guard.domain = m.collId.toNat then k s else s
  have hforce := s.guardTaken_field c m Guard.inForce fun _ _ => rfl
  have hdomain := s.guardTaken_field c m Guard.domain fun _ _ => rfl
  rw [guardMsg]
  refine hreceive.trans (congrArg _ ?_)
  show (if (s.guardTaken c m).fab.guard.inForce && (s.guardTaken c m).fab.guard.domain = m.collId.toNat then k (s.guardTaken c m)
    else s.guardTaken c m) = _
  rw [hforce, hdomain]
  simp only [Bool.and_eq_true, decide_eq_true_eq]

theorem State.ActsOn.guardMsg_eq (h : s.ActsOn m) : guardMsg c m k s = .next (k (s.guardTaken c m)) := by
  rw [guardMsg_inOrder c k h.addressed h.alive, if_pos ⟨h.inForce, h.domain⟩]

/-- Out of order, of another domain or with no group in force it is only taken. -/
theorem guardMsg_taken (haddressed : s.addressed m = true) :
    ∃ t, guardMsg c m k s = .next t ∧
      (s.fab.guard.inForce = false ∨ s.fab.guard.domain ≠ m.collId.toNat ∨ m.alive ≠ (s.fab.flow (flowKey m.src.toNat 3)).rxNext →
        s.FabricOnly t) := by
  by_cases halive : m.alive = (s.fab.flow (flowKey m.src.toNat 3)).rxNext
  · refine ⟨_, guardMsg_inOrder c k haddressed halive, fun hother => ?_⟩
    have hnot : ¬ (s.fab.guard.inForce = true ∧ s.fab.guard.domain = m.collId.toNat) := by
      rintro ⟨hforce, hdomain⟩
      rcases hother with hout | hforeign | hdisorder
      · exact Bool.false_ne_true (hout.symm.trans hforce)
      · exact hforeign hdomain
      · exact hdisorder halive
    rw [if_neg hnot]
    exact s.guardTaken_fabricOnly c m
  · have haddressed' : s.addressed (m.guardCommand c) = true := haddressed
    have halive' : (m.guardCommand c).alive ≠ (s.fab.flow ((m.guardCommand c).rxKey 10)).rxNext := halive
    obtain ⟨t, ht, -, hfabric, -⟩ := receive_refuses haddressed' halive' fun _ s =>
      if s.fab.guard.inForce && s.fab.guard.domain = m.collId.toNat then k s else s
    exact ⟨t, ht, fun _ => hfabric⟩

end Taken

/-! ### The commands -/

section Commands

variable (m : FMsg) (s : State)

theorem execArrive_guardMsg : ∃ k, execArrive m s = guardMsg .arrive m k s := by unfold execArrive; exact ⟨_, rfl⟩
theorem execPoint_guardMsg : ∃ k, execPoint m s = guardMsg .point m k s := by unfold execPoint; exact ⟨_, rfl⟩
theorem execCommitP_guardMsg : ∃ k, execCommitP m s = guardMsg .commitP m k s := by unfold execCommitP; exact ⟨_, rfl⟩
theorem execCommitQ_guardMsg : ∃ k, execCommitQ m s = guardMsg .commitQ m k s := by unfold execCommitQ; exact ⟨_, rfl⟩
theorem execHalt_guardMsg : ∃ k, execHalt m s = guardMsg .halt m k s := by unfold execHalt; exact ⟨_, rfl⟩
theorem execResume_guardMsg : ∃ k, execResume m s = guardMsg .resume m k s := by unfold execResume; exact ⟨_, rfl⟩
theorem execGuardLeave_guardMsg : ∃ k, execGuardLeave m s = guardMsg .leave m k s := by unfold execGuardLeave; exact ⟨_, rfl⟩
theorem execTakeover_guardMsg : ∃ k, execTakeover m s = guardMsg .takeover m k s := by unfold execTakeover; exact ⟨_, rfl⟩

end Commands

theorem State.sendPages_sent (s : State) (dst tree role : Nat) (ps : List (Nat × List Byte)) : s.Sent (s.sendPages dst tree role ps) := by
  unfold State.sendPages
  refine (State.foldl_sent (fun t p => ?_) ps s).trans (State.fabSend_sent _ _)
  exact State.foldl_sent (fun u i => u.fabSend_sent _) _ t

theorem State.Sent.ite {s t : State} {c : Prop} [Decidable c] (h : s.Sent t) : s.Sent (if c then s else t) := by
  split
  · exact .refl s
  · exact h

theorem State.sendParity_sent (s : State) (tree gen : Nat) (whole : Bool) : s.Sent (s.sendParity tree gen whole) := by
  unfold State.sendParity
  exact .ite (s.sendPages_sent ..)

theorem State.sendRebuild_sent (s : State) (dest role lo n : Nat) (useQ : Bool) : s.Sent (s.sendRebuild dest role lo n useQ) := by
  unfold State.sendRebuild
  exact .ite (s.sendPages_sent ..)

theorem State.Sent.guard {s t : State} (h : s.Sent t) : t.fab.guard = s.fab.guard := h.traffic.field (fun x => x.fab.guard) fun _ => rfl

/-- The guard group as a parity phase starts. -/
def Guard.starting (g : Guard) (tree : Nat) : Guard :=
  { g with phase := if tree = 0 then .phaseP else .phaseQ, ended := [], finished := [] }

/-- Outside a set-up, a phase only sends. -/
theorem State.startPhase_guard {s : State} (h : s.fab.guard.setup = false) (tree : Nat) :
    (s.startPhase tree).fab.guard = s.fab.guard.starting tree := by
  have hkeep : ¬ (s.fab.guard.setup && s.fab.guard.role = parityRole tree) = true := by
    rw [h, Bool.false_and]
    exact Bool.false_ne_true
  rw [State.startPhase, if_neg hkeep]
  exact (State.sendParity_sent _ _ _ _).guard

theorem State.pointAt_guard {s : State} (h : s.fab.guard.setup = false) (gen : Nat) :
    (s.pointAt gen).fab.guard = Guard.starting { s.fab.guard with gen := gen, arrived := [], arrivedQueues := [] } 0 := by
  rw [State.pointAt]
  dsimp only
  generalize hmarked : s.queues.foldl _ s = t
  have hfab : t.fab = s.fab := by
    rw [← hmarked]
    refine (State.foldl_queuesOnly (fun u p => ?_) _ s).fab
    split
    · exact u.modQueue_queuesOnly _ _
    · exact .refl u
  rw [State.startPhase_guard (by rw [State.onGuard_guard, hfab]; exact h), State.onGuard_guard, hfab]

theorem State.commitP_guard {s : State} (h : s.fab.guard.setup = false) :
    s.commitP.fab.guard = Guard.starting { s.fab.guard with target := s.fab.guard.gen } 1 :=
  State.startPhase_guard (s := s.onGuard fun g => { g with target := g.gen }) h 1

/-- The guard group at the end of a point, or of a set-up. -/
def Guard.committed (g : Guard) : Guard :=
  { g with phase := .idle, finished := [], ended := [], joined := true, setup := false
           shadows := g.shadows.filter fun p => decide (g.gen ≤ p.1 / 2 ^ 36) }

theorem State.commitQ_guard (s : State) : s.commitQ.fab.guard = s.fab.guard.committed := by
  rw [State.commitQ]
  dsimp only
  split
  · refine congrArg Fab.guard (((State.foldl_queuesOnly (fun u q => ?_) _ _).trans (State.endGuardDescs_queuesOnly _ 0 stDone)).fab)
    exact u.modQueue_queuesOnly q _
  · exact congrArg Fab.guard ((State.onGuarded_queuesOnly _ _).trans (State.endGuardDescs_queuesOnly _ 1 stDone)).fab

theorem State.haltAt_guard (s : State) (target : Nat) :
    (s.haltAt target).fab.guard.halted = true ∧ (s.haltAt target).fab.guard.target = target := ⟨rfl, rfl⟩

theorem State.endGuarded_guard (s : State) : s.endGuarded.fab.guard = {} := by
  rw [State.endGuarded]
  dsimp only
  rw [record_fab]
  rfl

theorem State.resumeAt_none_guard (s : State) (target : Nat) : (s.resumeAt target 0).fab.guard.halted = false := rfl

end Sys2Proof.Machine

open Sys2Proof Sys2Proof.Machine

/-- Settles O40: a command in order acts on `State.guardTaken` (`State.ActsOn.guardMsg_eq`), whose guard group is that of the package
but for the silence of its members; what the effects send and write leaves the group. -/
theorem guardMessages : Obligations.GuardMessages := by
  unfold Obligations.GuardMessages
  intro acts taken
  have hacts {s m} (h : acts s m) : s.ActsOn m := by
    obtain ⟨haddressed, halive, hforce, hdomain⟩ := h
    exact ⟨haddressed, halive, hforce, hdomain⟩
  have htaken (mk : FMsg → Instr) (c : GCmd) (hmk : ∀ m s, ∃ k, exec (mk m) s = guardMsg c m k s) :
      taken mk := by
    intro s m haddressed
    obtain ⟨k, hk⟩ := hmk m s
    obtain ⟨t, ht, hother⟩ := guardMsg_taken c k haddressed
    refine ⟨t, hk.trans ht, fun h => ?_⟩
    have hfabric := hother h
    exact ⟨hfabric.field State.mem fun _ => rfl, hfabric.field State.queues fun _ => rfl, hfabric.field State.cores fun _ => rfl⟩
  clear_value acts taken
  refine ⟨htaken .arrive .arrive execArrive_guardMsg, htaken .point .point execPoint_guardMsg, htaken .commitP .commitP execCommitP_guardMsg,
    htaken .commitQ .commitQ execCommitQ_guardMsg, htaken .halt .halt execHalt_guardMsg, htaken .resume .resume execResume_guardMsg,
    htaken .guardLeave .leave execGuardLeave_guardMsg, htaken .takeover .takeover execTakeover_guardMsg,
    ?point, ?commitP, ?commitQ, ?halt, ?ends, ?resume⟩
  case point =>
    intro s m h hsetup
    have hexec : exec (.point m) s = execPoint m s := by rfl
    have hquiet := (s.guardTaken_field .point m Guard.setup fun _ _ => rfl).trans hsetup
    refine ⟨_, hexec.trans ((hacts h).guardMsg_eq .point _), ?_⟩
    rw [State.pointAt_guard hquiet]
    exact ⟨rfl, rfl⟩
  case commitP =>
    intro s m h hsetup
    have hexec : exec (.commitP m) s = execCommitP m s := by rfl
    have hquiet := (s.guardTaken_field .commitP m Guard.setup fun _ _ => rfl).trans hsetup
    refine ⟨_, hexec.trans ((hacts h).guardMsg_eq .commitP _), ?_⟩
    rw [State.commitP_guard hquiet]
    exact s.guardTaken_field .commitP m Guard.gen fun _ _ => rfl
  case commitQ =>
    intro s m h hnone
    have hexec : exec (.commitQ m) s = execCommitQ m s := by rfl
    refine ⟨_, hexec.trans ((hacts h).guardMsg_eq .commitQ _), ?_⟩
    rw [State.commitQ_guard]
    exact ⟨rfl, rfl, rfl⟩
  case halt =>
    intro s m h hstage
    have hexec : exec (.halt m) s = execHalt m s := by rfl
    obtain ⟨hhalted, htarget⟩ := (s.guardTaken .halt m).haltAt_guard m.gen
    refine ⟨_, hexec.trans ((hacts h).guardMsg_eq .halt _), ?_⟩
    generalize (s.guardTaken .halt m).haltAt m.gen = t at hhalted htarget ⊢
    split
    · next h2 => exact absurd (BitVec.eq_of_toNat_eq h2) hstage
    · rw [(State.sendRebuild_sent ..).guard]
      exact ⟨hhalted, htarget⟩
    · exact ⟨hhalted, htarget⟩
  case ends =>
    intro s m h hstage
    have hexec : exec (.halt m) s = execHalt m s := by rfl
    refine ⟨_, hexec.trans ((hacts h).guardMsg_eq .halt _), ?_⟩
    rw [hstage]
    have hends := (s.guardTaken .halt m).endGuarded_guard
    exact ⟨congrArg Guard.joined hends, congrArg Guard.halted hends⟩
  case resume =>
    intro s m h hrop
    have hexec : exec (.resume m) s = execResume m s := by rfl
    refine ⟨_, hexec.trans ((hacts h).guardMsg_eq .resume _), ?_⟩
    split
    · exact ⟨rfl, s.guardTaken_field .resume m Guard.halted fun _ _ => rfl⟩
    · have hnone : m.rop.toNat = 0 := by rw [hrop]; rfl
      have hresumed := (s.guardTaken .resume m).resumeAt_none_guard m.gen
      rw [hnone]
      generalize (s.guardTaken .resume m).resumeAt m.gen 0 = t at hresumed ⊢
      exact ⟨hresumed, rfl⟩
end

section
/-! PROOF. The timers of the guard group, and its GUARD descriptors (R356, R358, R360, R363, R366, R391, R434). -/

namespace Sys2Proof.Machine

/-! ### Heartbeats (R360) -/

theorem nodup_eraseDups {α : Type} [BEq α] [LawfulBEq α] (l : List α) : l.eraseDups.Nodup := by
  induction h : l.length using Nat.strong_induction_on generalizing l with
  | _ n ih =>
    cases l with
    | nil => simp
    | cons a r =>
      rw [List.eraseDups_cons, List.nodup_cons]
      refine ⟨by simp, ih _ ?_ _ rfl⟩
      have hle := List.length_filter_le (fun b => !b == a) r
      simp only [List.length_cons] at h
      omega

theorem State.groupPeers_nodup (s : State) : s.groupPeers.Nodup := (nodup_eraseDups _).filter _

/-- The silence of a member counted, and a HEARTBEAT sent to it. -/
def State.beat (s : State) (p : Nat) : State :=
  (s.onGuard fun g => { g with
    heard := put 0 g.heard p (look 0 g.heard p + 1), beats := put 0 g.beats p (look 0 g.beats p + 1) }).fabSend
      { kind := 8, dst := bits 12 p }

theorem State.beat_counts (s : State) (p j : Nat) :
    look 0 (s.beat p).fab.guard.heard j = look 0 s.fab.guard.heard j + (if j = p then 1 else 0) ∧
    look 0 (s.beat p).fab.guard.beats j = look 0 s.fab.guard.beats j + (if j = p then 1 else 0) := by
  rw [State.beat, (State.fabSend_sent _ _).guard, State.onGuard_guard]
  simp only [look_put]
  split
  · next h => rw [h]; exact ⟨rfl, rfl⟩
  · exact ⟨rfl, rfl⟩

/-- Each member of a list without repetition counts once. -/
theorem State.foldl_beat_counts {ps : List Nat} (hps : ps.Nodup) (s : State) (j : Nat) :
    look 0 (ps.foldl State.beat s).fab.guard.heard j = look 0 s.fab.guard.heard j + (if j ∈ ps then 1 else 0) ∧
    look 0 (ps.foldl State.beat s).fab.guard.beats j = look 0 s.fab.guard.beats j + (if j ∈ ps then 1 else 0) := by
  induction ps generalizing s with
  | nil => exact ⟨rfl, rfl⟩
  | cons p ps ih =>
    obtain ⟨hp, hrest⟩ := List.nodup_cons.1 hps
    obtain ⟨hheard, hbeats⟩ := ih hrest (s.beat p)
    obtain ⟨hfirst, hsecond⟩ := s.beat_counts p j
    rw [List.foldl_cons, hheard, hbeats, hfirst, hsecond]
    by_cases hj : j = p
    · subst hj
      simp [hp]
    · simp [hj]

theorem exec_heartbeatTimer {s : State} (hup : s.mainlandUp = true) (hjoined : s.fab.joined = true)
    (hforce : s.fab.guard.inForce = true) : exec .heartbeatTimer s = .next (s.groupPeers.foldl State.beat s) := by
  have hexec : exec .heartbeatTimer s = execHeartbeatTimer s := by rfl
  rw [hexec, execHeartbeatTimer, hup, hjoined, hforce]
  rfl

/-! ### What keeps the ID and the group of a package -/

/-- The package holds an ID in `t` as in `s`, and the guard group is the same. -/
structure State.SameGroup (s t : State) : Prop where
  joined : t.fab.joined = s.fab.joined
  guard : t.fab.guard = s.fab.guard

theorem State.SameGroup.of_fab {s t : State} (h : t.fab = s.fab) : s.SameGroup t := ⟨by rw [h], by rw [h]⟩

theorem State.SameGroup.refl (s : State) : s.SameGroup s := .of_fab rfl

theorem State.SameGroup.trans {s t u : State} (h : s.SameGroup t) (k : t.SameGroup u) : s.SameGroup u :=
  ⟨k.joined.trans h.joined, k.guard.trans h.guard⟩

theorem State.foldl_sameGroup {α : Type} {f : State → α → State} (hf : ∀ (s : State) a, s.SameGroup (f s a)) (l : List α) (s : State) :
    s.SameGroup (l.foldl f s) :=
  List.foldlRecOn (motive := fun x => s.SameGroup x) l f (.refl s) fun x h a _ => h.trans (hf x a)

theorem State.fabForget_sameGroup (s : State) (who : ReqWho) : s.SameGroup (s.fabForget who) := ⟨rfl, rfl⟩

theorem State.modCore_sameGroup (s : State) (l : Nat) (g : Core → Core) : s.SameGroup (s.modCore l g) := ⟨rfl, rfl⟩

/-! ### A pin ended changes the memory side alone (R217, R227) -/

/-- `t` is `s` but for the slices, channels, network and device memory. -/
def State.MemoryOnly (s t : State) : Prop :=
  { t with slices := s.slices, channels := s.channels, net := s.net, mem := s.mem } = s

theorem State.MemoryOnly.refl (s : State) : s.MemoryOnly s := rfl

theorem State.MemoryOnly.trans {s t u : State} (h : s.MemoryOnly t) (k : t.MemoryOnly u) : s.MemoryOnly u := by
  unfold State.MemoryOnly at h k ⊢
  rw [← k] at h
  exact h

theorem State.MemoryOnly.field {s t : State} (h : s.MemoryOnly t) {α : Type} (π : State → α)
    (hπ : ∀ x : State, π { x with slices := s.slices, channels := s.channels, net := s.net, mem := s.mem } = π x) : π t = π s := by
  rw [← hπ t]
  exact congrArg π h

theorem State.foldl_memoryOnly {α : Type} {f : State → α → State} (hf : ∀ (s : State) a, s.MemoryOnly (f s a)) (l : List α)
    (s : State) : s.MemoryOnly (l.foldl f s) :=
  List.foldlRecOn (motive := fun x => s.MemoryOnly x) l f (.refl s) fun x h a _ => h.trans (hf x a)

theorem State.SameButNet.memoryOnly {s t : State} (h : s.SameButNet t) : s.MemoryOnly t := by
  unfold State.SameButNet at h
  unfold State.MemoryOnly
  rw [← h]

theorem State.modChannel_memoryOnly (s : State) (k : Nat) (g : Channel → Channel) : s.MemoryOnly (s.modChannel k g) := rfl

theorem State.modSlice_memoryOnly (s : State) (k : Nat) (g : Slice → Slice) : s.MemoryOnly (s.modSlice k g) := rfl

theorem State.putMem_memoryOnly (s : State) (m : Mem) : s.MemoryOnly { s with mem := m } := rfl

theorem State.burst_memoryOnly (s : State) (ch cls bytes : Nat) (narrow owner : Bool) : s.MemoryOnly (s.burst ch cls bytes narrow owner) :=
  (s.netSend_sameButNet _).memoryOnly

theorem State.chanWrite_memoryOnly (s : State) (rq : Req) (line : Nat) (d : SMap Byte) : s.MemoryOnly (s.chanWrite rq line d) := by
  unfold State.chanWrite
  exact ((s.modChannel_memoryOnly _ _).trans (State.burst_memoryOnly _ _ _ _ _ _)).trans (State.putMem_memoryOnly _ _)

theorem State.writeBack_memoryOnly (s : State) (rq : Req) (x : SLine) : s.MemoryOnly (s.writeBack rq x) := by
  unfold State.writeBack
  split
  · exact s.chanWrite_memoryOnly ..
  · exact .refl s

theorem State.endPin_memoryOnly (s : State) (line : Nat) : s.MemoryOnly (s.endPin line) := by
  unfold State.endPin
  dsimp only
  split
  · exact .refl s
  · split
    · exact .refl s
    · exact (s.writeBack_memoryOnly _ _).trans (State.modSlice_memoryOnly _ _ _)

theorem State.undoUnpin_memoryOnly (s : State) (l lo n : Nat) : s.MemoryOnly (s.undoUnpin l lo n) := by
  unfold State.undoUnpin
  split
  · split
    · exact State.foldl_memoryOnly (fun t i => t.endPin_memoryOnly _) _ s
    · exact .refl s
  · exact .refl s

theorem State.MemoryOnly.sameGroup {s t : State} (h : s.MemoryOnly t) : s.SameGroup t := .of_fab (h.field State.fab fun _ => rfl)

theorem State.undoDrop_sameGroup (s : State) (l : Nat) : s.SameGroup (s.undoDrop l) :=
  (s.undoUnpin_memoryOnly l _ _).sameGroup.trans (State.modCore_sameGroup _ _ _)

/-! ### Tasks leave their cores (R361) -/

theorem State.trapDesc_sameGroup (s : State) (l group : Nat) (st : BitVec 8) : s.SameGroup (s.trapDesc l group st) := by
  have hspread : s.SameGroup ((s.modCore l (Core.haltCycle st 2)).trapSpread l st) :=
    .of_fab (State.trapSpread_outside (π := State.fab) (fun _ _ _ => rfl) (fun _ _ _ _ => rfl) _ l st)
  rw [State.trapDesc_eq]
  dsimp only
  split
  · exact hspread.trans (.of_fab (record_fab ..))
  · exact hspread

theorem State.resumeArray_sameGroup (s : State) (l a : Nat) : s.SameGroup (s.resumeArray l a) := by
  unfold State.resumeArray
  dsimp only
  split
  · split
    · exact s.modCore_sameGroup l _
    · split
      · exact s.trapDesc_sameGroup ..
      · split
        · exact State.foldl_sameGroup (fun t st => t.trapDesc_sameGroup ..) _ s
        · exact .of_fab rfl
  · exact s.modCore_sameGroup l _

theorem State.dropUrgent_sameGroup (s : State) (l : Nat) : s.SameGroup (s.dropUrgent l) := by
  unfold State.dropUrgent each
  refine (s.modCore_sameGroup l _).trans (State.foldl_sameGroup (fun t a => ?_) _ _)
  dsimp only
  split
  · exact t.modCore_sameGroup l _
  · exact t.resumeArray_sameGroup l a
  · exact .refl t

/-- The task that runs on a core leaves it, where it belongs to a queue. -/
def State.clearRunning (s : State) (q l : Nat) (c : Core) : State :=
  match c.task with
  | some t => if t.queue = q then ((s.undoDrop l).modCore l Core.release).fabForget (.store l) else s
  | none => s

/-- The requested task of a core, likewise. -/
def State.clearUrgent (s : State) (q l : Nat) (c : Core) : State :=
  match c.urgent with
  | some u => if u.queue = q then s.dropUrgent l else s
  | none => s

/-- The pre-empted task of a core, likewise. -/
def State.clearFrame (s : State) (q l : Nat) (c : Core) : State :=
  match c.frame with
  | some f => if f.task.queue = q then (s.undoUnpin l 0 c.undoBase).modCore l Core.unframe else s
  | none => s

theorem State.clearRunning_sameGroup (s : State) (q l : Nat) (c : Core) : s.SameGroup (s.clearRunning q l c) := by
  unfold State.clearRunning
  split
  · split
    · exact ((s.undoDrop_sameGroup l).trans (State.modCore_sameGroup _ l _)).trans (State.fabForget_sameGroup _ _)
    · exact .refl s
  · exact .refl s

theorem State.clearUrgent_sameGroup (s : State) (q l : Nat) (c : Core) : s.SameGroup (s.clearUrgent q l c) := by
  unfold State.clearUrgent
  split
  · split
    · exact s.dropUrgent_sameGroup l
    · exact .refl s
  · exact .refl s

theorem State.clearFrame_sameGroup (s : State) (q l : Nat) (c : Core) : s.SameGroup (s.clearFrame q l c) := by
  unfold State.clearFrame
  split
  · split
    · exact (s.undoUnpin_memoryOnly l 0 _).sameGroup.trans (State.modCore_sameGroup _ l _)
    · exact .refl s
  · exact .refl s

theorem State.clearTasks_sameGroup (s : State) (q : Nat) : s.SameGroup (s.clearTasks q) := by
  have hgangs (cs : List Nat) (u : State) : u.SameGroup (cs.foldl (fun s c => s.modCluster c fun x =>
      { x with gangs := x.gangs.filter fun p => decide (p.2.queue ≠ q) }) u) := by
    refine State.foldl_sameGroup (fun t c => ?_) cs u
    exact ⟨rfl, rfl⟩
  unfold State.clearTasks
  refine (State.foldl_sameGroup (fun t l => ?_) _ s).trans (hgangs (List.range 64) _)
  exact ((t.clearRunning_sameGroup q l (t.core l)).trans (State.clearUrgent_sameGroup _ q l (t.core l))).trans
    (State.clearFrame_sameGroup _ q l (t.core l))

theorem State.discardQueue_sameGroup (s : State) (q : Nat) : s.SameGroup (s.discardQueue q) := by
  have hforgot := (s.clearTasks_sameGroup q).trans
    (State.foldl_sameGroup (fun t (d : Desc) => t.fabForget_sameGroup (.desc q d.index.toNat)) ((s.clearTasks q).queue q).descs _)
  unfold State.discardQueue
  dsimp only
  generalize ((s.clearTasks q).queue q).descs.foldl _ (s.clearTasks q) = u at hforgot ⊢
  exact hforgot.trans ⟨rfl, rfl⟩

/-! ### The ID given up (R360, R363) -/

theorem State.giveUpId_alone {s : State} (h : s.fab.joined = true) (st : Nat → BitVec 8) :
    (s.giveUpId st).fab.joined = false ∧ (s.giveUpId st).fab.guard.joined = false := by
  have hheld : ¬ (!s.fab.joined) = true := by rw [h]; decide
  rw [State.giveUpId, if_neg hheld]
  dsimp only
  generalize (s.endFabWork st).floodOf _ _ _ _ _ = u
  refine ⟨State.dropId_joined _, ?_⟩
  rw [(State.dropId_traffic _).field (fun x => x.fab.guard.joined) fun _ => rfl]
  rfl

/-- A package that fences itself: its ID given up, its guarded queues stopped. -/
def State.fenced (s : State) : State :=
  (s.guardedQueues.foldl State.discardQueue (s.giveUpId fun _ => stAborted)).onGuarded fun x => { x with halted := true }

theorem State.fenced_alone {s : State} (h : s.fab.joined = true) : s.fenced.fab.joined = false ∧ s.fenced.fab.guard.joined = false := by
  obtain ⟨hjoined, hguard⟩ := s.giveUpId_alone h fun _ => stAborted
  have hsame : (s.giveUpId fun _ => stAborted).SameGroup s.fenced :=
    (State.foldl_sameGroup State.discardQueue_sameGroup _ _).trans (.of_fab (State.onGuarded_queuesOnly _ _).fab)
  exact ⟨hsame.joined.trans hjoined, (congrArg Guard.joined hsame.guard).trans hguard⟩

theorem exec_selfFence {s : State} (hup : s.mainlandUp = true) (hjoined : s.fab.joined = true) (hforce : s.fab.guard.inForce = true)
    (hsilent : ∀ p ∈ s.groupPeers, 3 ≤ look 0 s.fab.guard.beats p) : exec .selfFence s = .next s.fenced := by
  have hexec : exec .selfFence s = execSelfFence s := by rfl
  have hall : (s.groupPeers.all fun p => decide (3 ≤ look 0 s.fab.guard.beats p)) = true :=
    List.all_eq_true.2 fun p hp => decide_eq_true (hsilent p hp)
  rw [hexec, execSelfFence, hup, hjoined, hforce, hall]
  rfl

/-! ### Losses and rebuilds (R360, R366, R434) -/

theorem exec_noSpareTimeout {s : State} (hup : s.mainlandUp = true) (hjoined : s.fab.joined = true)
    (hforce : s.fab.guard.inForce = true) (hunspared : s.fab.guard.unspared = true) :
    exec .noSpareTimeout s = .next s.orderEnd := by
  have hexec : exec .noSpareTimeout s = execNoSpareTimeout s := by rfl
  rw [hexec, execNoSpareTimeout, hup, hjoined, hforce, hunspared]
  rfl

theorem State.orderEnd_guard (s : State) : s.orderEnd.fab.guard = {} := State.endGuarded_guard _

theorem exec_lossDeclared {s : State} {id : Nat} (hid : id < 4096) (hup : s.mainlandUp = true) (hjoined : s.fab.joined = true)
    (hforce : s.fab.guard.inForce = true) (hcoord : s.fab.guard.groupCoord = some s.myId) (hpeer : id ∈ s.groupPeers)
    (hsilent : 5 ≤ look 0 s.fab.guard.heard id) : exec (.lossDeclared id) s = .next (s.declareLost id) := by
  have hexec : exec (.lossDeclared id) s = execLossDeclared id s := by rfl
  rw [hexec, execLossDeclared, unit, if_pos hid, hup, hjoined, hforce, hcoord, List.contains_iff_mem.2 hpeer, decide_eq_true hsilent,
    beq_self_eq_true]
  rfl

/-- Guarded pages of a rebuild hold a lost codeword that has a source. -/
theorem State.rebuildDue {s : State} {lo n j : Nat} {x : Lost} (hx : x ∈ s.lost) (hpage : s.guardedPage x.addr = some j) (hlo : lo ≤ j)
    (hn : j < lo + n) (hsource : s.lossSource x.addr ≠ 0) :
    (s.lost.any fun x => (match s.guardedPage x.addr with
      | some j => decide (lo ≤ j) && decide (j < lo + n)
      | none => false) && s.lossSource x.addr != 0) = true := by
  rw [List.any_eq_true]
  refine ⟨x, hx, ?_⟩
  rw [hpage, bne_iff_ne.2 hsource]
  simp [hlo, hn]

theorem exec_pageRebuild {s : State} {lo n j : Nat} {x : Lost} (hup : s.mainlandUp = true) (hjoined : s.fab.joined = true)
    (hguard : s.fab.guard.joined = true) (hx : x ∈ s.lost) (hpage : s.guardedPage x.addr = some j) (hlo : lo ≤ j) (hn : j < lo + n)
    (hsource : s.lossSource x.addr ≠ 0)
    (hrole : s.fab.guard.role < s.fab.guard.k ∨ s.fab.guard.role = 16 ∨ s.fab.guard.role = 17) :
    ∃ t, exec (.pageRebuild lo n) s = .next t ∧ (s.fab.guard.role < s.fab.guard.k → 16384 < n → t = s.fenced) := by
  have hexec : exec (.pageRebuild lo n) s = execPageRebuild lo n s := by rfl
  have hdue := State.rebuildDue hx hpage hlo hn hsource
  rw [hexec, execPageRebuild, hup, hjoined, Bool.and_self]
  dsimp only
  rw [need, if_pos rfl, need]
  split
  · split
    · split
      · exact ⟨_, rfl, fun _ _ => rfl⟩
      · next hmany => exact ⟨_, rfl, fun _ hn => absurd hn hmany⟩
    · next hparity =>
      have hholder : (decide (16 ≤ s.fab.guard.role) && decide (s.fab.guard.role ≤ 17)) = true := by
        rcases hrole with hdata | hp | hq
        · exact absurd hdata hparity
        · rw [hp]; rfl
        · rw [hq]; rfl
      rw [hholder]
      exact ⟨_, rfl, fun hdata => absurd hdata hparity⟩
  · next hnot => exact absurd (Bool.and_eq_true_iff.2 ⟨hguard, hdue⟩) hnot

/-! ### GUARD descriptors (R335, R391) -/

/-- The step of a GUARD descriptor in progress: it is refused, or its operation goes on. -/
theorem InProgress.guardDesc_eq {s : State} {q : Nat} {d : Desc} (h : InProgress s q d 10) {op : Nat}
    (hop : fld d.bits 32 2 = op ∨ op = 0 ∧ fld d.bits 32 2 = 3) (k : Desc → State → State) :
    onGuardDesc op q d.index.toNat k s = .next (
      if fld d.bits 32 2 = 3 || fld d.bits 64 64 % 64 ≠ 0 then s.descFail q d.index.toNat stBadDesc
      else if !s.fab.joined then s.descFail q d.index.toNat stAccess else k d s) := by
  have hneed : (fld d.bits 32 2 == op || (op == 0 && fld d.bits 32 2 == 3)) = true := by
    simpa using hop
  rw [onGuardDesc, h.live]
  dsimp only
  rw [hneed, need, if_pos rfl, h.onDesc_eq]

/-- What refuses a GUARD descriptor ends it. -/
theorem InProgress.guardDesc_ends {s : State} {q : Nat} {d : Desc} (h : InProgress s q d 10) {op : Nat} (hop : fld d.bits 32 2 = op)
    (k : Desc → State → State) :
    ∃ t, onGuardDesc op q d.index.toNat k s = .next t ∧
      (fld d.bits 64 64 % 64 ≠ 0 → Ended t q d.index.toNat stBadDesc 0) ∧
      (fld d.bits 64 64 % 64 = 0 → s.fab.joined = false → fld d.bits 32 2 ≠ 3 → Ended t q d.index.toNat stAccess 0) ∧
      (fld d.bits 64 64 % 64 = 0 → s.fab.joined = true → fld d.bits 32 2 ≠ 3 → t = k d s) := by
  refine ⟨_, h.guardDesc_eq (.inl hop) k, fun hbad => ?_, fun hgood hout h3 => ?_, fun hgood hin h3 => ?_⟩
  · rw [if_pos (by simp [hbad])]
    exact h.badDesc_ended
  · rw [if_neg (by simp [hgood, h3]), if_pos (by rw [hout]; rfl)]
    exact h.descFail_ended (by decide)
  · rw [if_neg (by simp [hgood, h3]), if_neg (by rw [hin]; decide)]

/-- A reserved operation ends at the first of the GUARD commands. -/
theorem InProgress.guardDesc_reserved {s : State} {q : Nat} {d : Desc} (h : InProgress s q d 10) (hop : fld d.bits 32 2 = 3)
    (k : Desc → State → State) : ∃ t, onGuardDesc 0 q d.index.toNat k s = .next t ∧ Ended t q d.index.toNat stBadDesc 0 := by
  refine ⟨_, h.guardDesc_eq (.inr ⟨rfl, hop⟩) k, ?_⟩
  rw [if_pos (by simp [hop])]
  exact h.badDesc_ended

section Exec

variable (q i : Nat) (s : State)

theorem execGuardSetup_onGuardDesc : ∃ k, execGuardSetup q i s = onGuardDesc 0 q i k s := by unfold execGuardSetup; exact ⟨_, rfl⟩

theorem execGuardAdopt_onGuardDesc : ∃ k, execGuardAdopt q i s = onGuardDesc 2 q i k s := by unfold execGuardAdopt; exact ⟨_, rfl⟩

end Exec

end Sys2Proof.Machine

open Sys2Proof Sys2Proof.Machine

/-- Settles O41: heartbeats count each member once (`State.foldl_beat_counts`); a package that fences itself gives up its ID, and
stopping its queues keeps that (`State.fenced_alone`); a GUARD descriptor is refused before its operation (`InProgress.guardDesc_ends`). -/
theorem guardTimersAndDescriptors : Obligations.GuardTimersAndDescriptors := by
  unfold Obligations.GuardTimersAndDescriptors
  refine ⟨?heartbeat, ?fence, ?loss, ?noSpare, ?rebuild, ?descriptors⟩
  case heartbeat =>
    intro s hup hjoined hforce
    exact ⟨_, exec_heartbeatTimer hup hjoined hforce, State.foldl_beat_counts s.groupPeers_nodup s⟩
  case fence =>
    intro s hup hjoined hforce hsilent
    exact ⟨_, exec_selfFence hup hjoined hforce hsilent, State.fenced_alone hjoined⟩
  case loss =>
    intro s id hid hup hjoined hforce hcoord hpeer hsilent
    exact ⟨_, exec_lossDeclared hid hup hjoined hforce hcoord hpeer hsilent⟩
  case noSpare =>
    intro s hup hjoined hforce hunspared
    exact ⟨_, exec_noSpareTimeout hup hjoined hforce hunspared, congrArg Guard.joined s.orderEnd_guard⟩
  case rebuild =>
    intro s lo n x j hup hjoined hguard hx hpage hlo hn hsource hrole
    obtain ⟨t, ht, hfenced⟩ := exec_pageRebuild hup hjoined hguard hx hpage hlo hn hsource hrole
    refine ⟨t, ht, fun hdata hmany => ?_⟩
    rw [hfenced hdata hmany]
    exact (State.fenced_alone hjoined).left
  case descriptors =>
    intro i s q d op h hi
    rcases hi with ⟨rfl, rfl⟩ | ⟨rfl, rfl⟩ | ⟨rfl, rfl⟩
    · have hexec : exec (.guardSetup q d.index.toNat) s = execGuardSetup q d.index.toNat s := by rfl
      obtain ⟨k, hk⟩ := execGuardSetup_onGuardDesc q d.index.toNat s
      rw [hexec, hk]
      refine ⟨fun hop => ?_, fun hop _ => h.guardDesc_reserved hop k⟩
      obtain ⟨t, ht, hbad, hout, -⟩ := h.guardDesc_ends hop k
      exact ⟨t, ht, hbad, fun hgood hjoined => hout hgood hjoined (by omega), fun _ _ hpoint => absurd hpoint (by decide)⟩
    · have hexec : exec (.guardPoint q d.index.toNat) s = execGuardPoint q d.index.toNat s := by rfl
      rw [hexec, execGuardPoint]
      refine ⟨fun hop => ?_, fun _ h0 => absurd h0 (by decide)⟩
      obtain ⟨t, ht, hbad, hout, hruns⟩ := h.guardDesc_ends hop fun _ s =>
        if !(s.queue q).guarded then s.descFail q d.index.toNat stBadDesc
        else (s.onGuard fun g => { g with arrivedQueues := addOnce g.arrivedQueues q }).tryArrive
      refine ⟨t, ht, hbad, fun hgood hjoined => hout hgood hjoined (by omega), fun hgood hjoined _ hfree => ?_⟩
      rw [hruns hgood hjoined (by omega), hfree]
      exact h.badDesc_ended
    · have hexec : exec (.guardAdopt q d.index.toNat) s = execGuardAdopt q d.index.toNat s := by rfl
      obtain ⟨k, hk⟩ := execGuardAdopt_onGuardDesc q d.index.toNat s
      rw [hexec, hk]
      refine ⟨fun hop => ?_, fun _ h0 => absurd h0 (by decide)⟩
      obtain ⟨t, ht, hbad, hout, -⟩ := h.guardDesc_ends hop k
      exact ⟨t, ht, hbad, fun hgood hjoined => hout hgood hjoined (by omega), fun _ _ hpoint => absurd hpoint (by decide)⟩
end

section
/-! PROOF. What work at the home slices and in the cluster caches leaves alone: the page tables and the queues (R217 to R240). -/

namespace Sys2Proof.Machine

/-- The page tables and the queues of `t` are those of `s`. -/
structure State.SameMaps (s t : State) : Prop where
  ptes : t.ptes = s.ptes
  queues : t.queues = s.queues

theorem State.SameMaps.refl (s : State) : s.SameMaps s := ⟨rfl, rfl⟩

theorem State.SameMaps.trans {s t u : State} (h : s.SameMaps t) (k : t.SameMaps u) : s.SameMaps u :=
  ⟨k.ptes.trans h.ptes, k.queues.trans h.queues⟩

theorem State.foldl_sameMaps {α : Type} {f : State → α → State} (hf : ∀ (s : State) a, s.SameMaps (f s a)) (l : List α) (s : State) :
    s.SameMaps (l.foldl f s) :=
  List.foldlRecOn (motive := fun x => s.SameMaps x) l f (.refl s) fun x h a _ => h.trans (hf x a)

theorem State.SameMaps.ite {s t u : State} {c : Prop} [Decidable c] (ht : s.SameMaps t) (hu : s.SameMaps u) :
    s.SameMaps (if c then t else u) := by
  split
  · exact ht
  · exact hu

theorem State.SameButNet.sameMaps {s t : State} (h : s.SameButNet t) : s.SameMaps t :=
  ⟨h.field State.ptes fun _ => rfl, h.field State.queues fun _ => rfl⟩

theorem State.MemoryOnly.sameMaps {s t : State} (h : s.MemoryOnly t) : s.SameMaps t :=
  ⟨h.field State.ptes fun _ => rfl, h.field State.queues fun _ => rfl⟩

/-! ### Units and the network -/

theorem State.modSlice_sameMaps (s : State) (k : Nat) (g : Slice → Slice) : s.SameMaps (s.modSlice k g) := ⟨rfl, rfl⟩

theorem State.modHome_sameMaps (s : State) (line : Nat) (g : Slice → Slice) : s.SameMaps (s.modHome line g) := ⟨rfl, rfl⟩

theorem State.modCluster_sameMaps (s : State) (k : Nat) (g : Cluster → Cluster) : s.SameMaps (s.modCluster k g) := ⟨rfl, rfl⟩

theorem State.putCc_sameMaps (s : State) (cl line : Nat) (x : Option CcLine) : s.SameMaps (s.putCc cl line x) := ⟨rfl, rfl⟩

theorem State.putDir_sameMaps (s : State) (e : DirEnt) : s.SameMaps (s.putDir e) := ⟨rfl, rfl⟩

theorem State.dropDir_sameMaps (s : State) (line : Nat) : s.SameMaps (s.dropDir line) := ⟨rfl, rfl⟩

theorem State.sendAs_sameMaps (s : State) (cls : Nat) (m : CohMsg) : s.SameMaps (s.sendAs cls m) :=
  (s.netSend_sameButNet _).sameMaps

theorem State.send_sameMaps (s : State) (m : CohMsg) : s.SameMaps (s.send m) := s.sendAs_sameMaps 1 m

theorem State.purge_sameMaps (s : State) (lo len : Nat) : s.SameMaps (s.purge lo len) :=
  State.foldl_sameMaps (fun t k => t.modSlice_sameMaps k _) _ s

/-! ### The data array (R217, R223 to R231) -/

theorem State.chanRead_sameMaps (s : State) (rq : Req) (line : Nat) (narrow : Bool) : s.SameMaps (s.chanRead rq line narrow) := by
  unfold State.chanRead
  exact ((s.modChannel_memoryOnly _ _).trans (State.burst_memoryOnly _ _ _ _ _ _)).sameMaps

theorem State.allocate_sameMaps (s : State) (rq : Req) (x : SLine) (mru : Bool) : s.SameMaps (s.allocate rq x mru) := by
  unfold State.allocate
  dsimp only
  split
  · exact (s.writeBack_memoryOnly rq x).sameMaps
  · split
    · exact s.modSlice_sameMaps _ _
    · split
      · exact (s.writeBack_memoryOnly rq x).sameMaps
      · exact (s.writeBack_memoryOnly rq _).sameMaps.trans (State.modSlice_sameMaps _ _ _)

theorem State.countAccess_sameMaps (s : State) (rq : Req) (line : Nat) (hit : Bool) : s.SameMaps (s.countAccess rq line hit) := ⟨rfl, rfl⟩

theorem State.pinLine_sameMaps (s : State) (rq : Req) (line : Nat) : s.SameMaps (s.pinLine rq line) := ⟨rfl, rfl⟩

theorem State.clearLost_sameMaps (s : State) (line : Nat) (covers : Nat → Bool) : s.SameMaps (s.clearLost line covers) := ⟨rfl, rfl⟩

theorem State.arrayRead_sameMaps (s : State) (rq : Req) (line : Nat) : s.SameMaps (s.arrayRead rq line).s := by
  have hpin (t : State) : t.SameMaps (if rq.acts = 3 then t.pinLine rq line else t) := .ite (t.pinLine_sameMaps rq line) (.refl t)
  have hmiss : s.SameMaps ((s.countAccess rq line false).chanRead rq line (s.goesNarrow rq line)) :=
    (s.countAccess_sameMaps rq line false).trans (State.chanRead_sameMaps _ rq line _)
  unfold State.arrayRead
  dsimp only
  split
  · refine (s.countAccess_sameMaps rq line true).trans (.trans ?_ (hpin _))
    exact .ite (.refl _) (State.modSlice_sameMaps _ _ _)
  · split
    · exact hmiss
    · split
      · exact hmiss
      · split
        · exact .ite (hmiss.trans (State.allocate_sameMaps _ _ _ _)) hmiss
        · exact (hmiss.trans (State.allocate_sameMaps _ _ _ _)).trans (hpin _)

theorem State.arrayWrite_sameMaps (s : State) (rq : Req) (line : Nat) (ws : List (Nat × Byte)) : s.SameMaps (s.arrayWrite rq line ws) := by
  have hpin (t : State) : t.SameMaps (if rq.acts = 3 then t.pinLine rq line else t) := .ite (t.pinLine_sameMaps rq line) (.refl t)
  unfold State.arrayWrite
  dsimp only
  refine (s.clearLost_sameMaps line (covers ws)).trans ?_
  generalize s.clearLost line (covers ws) = u
  split
  · exact ((u.countAccess_sameMaps rq line true).trans (State.modSlice_sameMaps _ _ _)).trans (hpin _)
  · refine (u.countAccess_sameMaps rq line false).trans ?_
    generalize u.countAccess rq line false = v
    split
    · exact (v.chanWrite_memoryOnly rq line _).sameMaps
    · have hfill : v.SameMaps (if coversAll ws then v else v.chanRead rq line false) := .ite (.refl v) (v.chanRead_sameMaps rq line false)
      exact (hfill.trans (State.allocate_sameMaps _ _ _ _)).trans (hpin _)

theorem State.unledger_sameMaps (s : State) (line : Nat) : s.SameMaps (s.unledger line) := ⟨rfl, rfl⟩

theorem State.enledger_sameMaps (s : State) (line : Nat) : s.SameMaps (s.enledger line) := ⟨rfl, rfl⟩

theorem State.dropLine_sameMaps (s : State) (line : Nat) : s.SameMaps (s.dropLine line) := ⟨rfl, rfl⟩

theorem State.ledgerRead_sameMaps (s : State) (rq : Req) (line : Nat) : s.SameMaps (s.ledgerRead rq line).s := by
  have hfetch (t : State) (narrow : Bool) (g : Slice → Slice) : t.SameMaps ((t.chanRead rq line narrow).modHome line g) :=
    (t.chanRead_sameMaps rq line _).trans (State.modHome_sameMaps _ line g)
  unfold State.ledgerRead
  dsimp only
  refine (s.countAccess_sameMaps rq line false).trans ?_
  generalize s.countAccess rq line false = u
  split
  · dsimp only
    exact hfetch u _ _
  · split
    · dsimp only
      exact hfetch u _ _
    · dsimp only
      exact u.modHome_sameMaps line _

/-! ### Undo logs, producer records and shadows (R357, R419, R431) -/

theorem State.undoPin_sameMaps (s : State) (l k : Nat) (image : Option (List Byte)) : s.SameMaps (s.undoPin l k image) := by
  unfold State.undoPin
  split
  · dsimp only
    refine .ite (.refl s) ?_
    refine (s.arrayWrite_sameMaps _ _ _).trans (.ite (.refl _) ?_)
    exact (State.endPin_memoryOnly _ _).sameMaps
  · exact .refl s

theorem State.undoPush_sameMaps (s : State) (l line : Nat) (image : Option (List Byte)) (lastUse : Bool) :
    s.SameMaps (s.undoPush l line image lastUse) := by
  unfold State.undoPush
  dsimp only
  refine .trans ?_ (State.undoPin_sameMaps _ l _ image)
  exact ⟨rfl, rfl⟩

theorem State.produce_sameMaps (s : State) (line : Nat) (w : Option (Nat × Nat × Nat)) : s.SameMaps (s.produce line w) := ⟨rfl, rfl⟩

theorem State.shadowTouch_sameMaps {s t : State} {line : Nat} (h : s.shadowTouch line = some t) : s.SameMaps t := by
  unfold State.shadowTouch at h
  split at h
  · exact Option.some.inj h ▸ .refl s
  · dsimp only at h
    split at h
    · exact Option.some.inj h ▸ .refl s
    · split at h
      · cases h
      · exact Option.some.inj h ▸ ⟨rfl, rfl⟩

/-! ### Cluster caches and the directory (R191 to R193, R234 to R239) -/

theorem State.ccYield_sameMaps (s : State) (cl line : Nat) (wb keep : Bool) : s.SameMaps (s.ccYield cl line wb keep) := by
  unfold State.ccYield
  split
  · exact .refl s
  · dsimp only
    refine .ite (.trans ?_ (State.putCc_sameMaps _ cl line _)) (.trans ?_ (State.putCc_sameMaps _ cl line _))
    · exact .ite ((s.modCluster_sameMaps cl _).trans (State.arrayWrite_sameMaps _ _ line _)) (s.modCluster_sameMaps cl _)
    · exact .ite ((s.modCluster_sameMaps cl _).trans (State.arrayWrite_sameMaps _ _ line _)) (s.modCluster_sameMaps cl _)

theorem State.ownerGone_sameMaps (s : State) (cl line : Nat) : s.SameMaps (s.ownerGone cl line) := by
  unfold State.ownerGone
  split
  · exact .ite (s.dropDir_sameMaps line) (.refl s)
  · exact .refl s

theorem State.ccEvict_sameMaps (s : State) (cl line : Nat) : s.SameMaps (s.ccEvict cl line) := by
  have hgone (t : State) : t.SameMaps ((t.putCc cl line none).ownerGone cl line) :=
    (t.putCc_sameMaps cl line none).trans (State.ownerGone_sameMaps _ cl line)
  unfold State.ccEvict
  split
  · exact .refl s
  · split
    · exact ((s.arrayWrite_sameMaps _ line _).trans (State.modCluster_sameMaps _ cl _)).trans (hgone _)
    · exact hgone s
    · exact s.putCc_sameMaps cl line none
    · exact .refl s

theorem State.ccRoom_sameMaps (s : State) (cl line : Nat) : s.SameMaps (s.ccRoom cl line) := by
  unfold State.ccRoom
  split
  · exact .refl s
  · split
    · exact s.ccEvict_sameMaps cl _
    · exact .refl s

theorem State.touchDir_sameMaps (s : State) (line : Nat) : s.SameMaps (s.touchDir line) := by
  unfold State.touchDir
  split
  · exact s.putDir_sameMaps _
  · exact .refl s

theorem State.dirRoom_sameMaps (s : State) (line : Nat) : s.SameMaps (s.dirRoom line) := by
  unfold State.dirRoom
  split
  · exact .refl s
  · exact ((State.foldl_sameMaps (fun t c => t.ccYield_sameMaps c _ true false) _ s).trans (State.dropDir_sameMaps _ _)).trans
      (State.modHome_sameMaps _ line _)

theorem State.setDir_sameMaps (s : State) (e : DirEnt) : s.SameMaps (s.setDir e) := by
  unfold State.setDir
  exact (State.SameMaps.ite (.refl s) (s.dirRoom_sameMaps e.line)).trans (State.putDir_sameMaps _ e)

theorem State.moveCc_sameMaps (s : State) (cl line : Nat) (mru : Bool) : s.SameMaps (s.moveCc cl line mru) := by
  unfold State.moveCc
  split
  · exact .refl s
  · exact s.modCluster_sameMaps cl _

theorem State.fillCc_sameMaps (s : State) (cl line : Nat) (st : CcSt) (d : SMap Byte) (hint asid : Nat) :
    s.SameMaps (s.fillCc cl line st d hint asid) := by
  unfold State.fillCc
  refine .ite (.refl s) ((s.ccRoom_sameMaps cl line).trans (.ite ?_ ?_))
  · exact .ite (State.ownerGone_sameMaps _ cl line) (.refl _)
  · exact (State.putCc_sameMaps _ cl line _).trans (State.moveCc_sameMaps _ cl line _)

/-- Copies of a line given up one after the other. -/
theorem State.foldl_ccYield_sameMaps (s : State) (cs : List Nat) (line : Nat) (wb keep : Bool) :
    s.SameMaps (cs.foldl (fun s c => s.ccYield c line wb keep) s) :=
  State.foldl_sameMaps (fun t c => t.ccYield_sameMaps c line wb keep) cs s

/-! ### Requests at the home (R229, R236 to R238) -/

theorem State.readHome_sameMaps (s : State) (cl line hint asid : Nat) (lenient : Bool) :
    s.SameMaps (s.readHome cl line hint asid lenient).s := by
  have hread := s.arrayRead_sameMaps (s.ccReq cl line hint asid lenient) line
  unfold State.readHome
  dsimp only
  split
  · exact s.ledgerRead_sameMaps _ line
  · split
    · exact hread
    · split
      · split
        · exact hread
        · exact (hread.trans (State.setDir_sameMaps _ _)).trans (State.fillCc_sameMaps _ _ _ _ _ _ _)
      · split
        · split
          · exact hread
          · exact (hread.trans (State.setDir_sameMaps _ _)).trans (State.fillCc_sameMaps _ _ _ _ _ _ _)
        · split
          · have htouched := (s.touchDir_sameMaps line).trans
              (State.arrayRead_sameMaps _ (s.ccReq cl line hint asid lenient) line)
            split
            · exact htouched
            · exact htouched.trans (State.fillCc_sameMaps _ _ _ _ _ _ _)
          · exact (s.setDir_sameMaps _).trans (State.send_sameMaps _ _)

theorem State.writeUncached_sameMaps (s : State) (cl line : Nat) : s.SameMaps (s.writeUncached cl line) := by
  unfold State.writeUncached
  split
  · exact .refl s
  · refine (State.foldl_sameMaps (fun t l => ?_) _ s).trans ((State.arrayWrite_sameMaps _ _ line _).trans (State.putCc_sameMaps _ cl line none))
    exact t.undoPush_sameMaps l line _ false

theorem State.ownHome_sameMaps (s : State) (cl line hint asid : Nat) : s.SameMaps (s.ownHome cl line hint asid) := by
  have hnow (t : State) (rq : Req) (e : DirEnt) :
      t.SameMaps ((((t.arrayRead rq line).s.setDir e).send (.grant line cl)).send (.done line cl)) :=
    ((t.arrayRead_sameMaps rq line).trans (State.setDir_sameMaps _ e)).trans ((State.send_sameMaps _ _).trans (State.send_sameMaps _ _))
  have hinvs (t : State) (rq : Req) (e : DirEnt) (cs : List Nat) :
      t.SameMaps (cs.foldl (fun s c => s.send (.inv line c)) ((t.arrayRead rq line).s.setDir e)) :=
    ((t.arrayRead_sameMaps rq line).trans (State.setDir_sameMaps _ e)).trans
      (State.foldl_sameMaps (fun t c => t.send_sameMaps (.inv line c)) cs _)
  unfold State.ownHome
  dsimp only
  refine (s.unledger_sameMaps line).trans ?_
  generalize s.unledger line = u
  refine .ite (u.writeUncached_sameMaps cl line) ?_
  split
  · exact hnow u _ _
  · split
    · exact .ite (hnow u _ _) (.ite ((hinvs u _ _ _).trans (State.send_sameMaps _ _)) (hinvs u _ _ _))
    · exact .ite (hnow u _ _) ((u.setDir_sameMaps _).trans (State.send_sameMaps _ _))

theorem State.signalWriter_sameMaps (s : State) (line : Nat) (pkg : Bool) : s.SameMaps (s.signalWriter line pkg) := ⟨rfl, rfl⟩

theorem State.sliceStore_sameMaps (s : State) (r : CohReq) (line : Nat) : s.SameMaps (s.sliceStore r line) := by
  unfold State.sliceStore
  split
  · exact .refl s
  · next t ht =>
    exact (State.shadowTouch_sameMaps ht).trans (((t.unledger_sameMaps line).trans (State.arrayWrite_sameMaps _ r.rq line r.data)).trans
      ((State.produce_sameMaps _ line none).trans (State.signalWriter_sameMaps _ line true)))

theorem State.sliceLast_sameMaps (s : State) (r : CohReq) (line : Nat) : s.SameMaps (s.sliceLast r line) := by
  unfold State.sliceLast
  dsimp only
  refine (s.countAccess_sameMaps { r.rq with hint := 2 } line (s.held line).isSome).trans ?_
  generalize s.countAccess { r.rq with hint := 2 } line (s.held line).isSome = u
  have hread (c : Bool) (narrow : Bool) : u.SameMaps (if c then u else u.chanRead { r.rq with hint := 2 } line narrow) :=
    .ite (.refl u) (u.chanRead_sameMaps _ line narrow)
  exact .ite (hread _ _) ((hread _ _).trans ((State.dropLine_sameMaps _ line).trans (State.enledger_sameMaps _ line)))

theorem State.sliceDo_sameMaps (s : State) (r : CohReq) (line : Nat) : s.SameMaps (s.sliceDo r line) := by
  unfold State.sliceDo
  split
  · exact s.sliceStore_sameMaps r line
  · exact .ite (s.ledgerRead_sameMaps _ line) (s.sliceLast_sameMaps r line)
  · exact .ite (s.ledgerRead_sameMaps _ line) (s.arrayRead_sameMaps _ line)

theorem State.sliceHome_sameMaps (s : State) (r : CohReq) (line : Nat) : s.SameMaps (s.sliceHome r line) := by
  unfold State.sliceHome
  split
  · exact s.sliceDo_sameMaps r line
  · dsimp only
    split
    · exact (s.touchDir_sameMaps line).trans (State.sliceDo_sameMaps _ r line)
    · refine .ite ((s.dropDir_sameMaps line).trans (State.sliceDo_sameMaps _ r line)) ?_
      exact (s.putDir_sameMaps _).trans (State.foldl_sameMaps (fun t c => t.sendAs_sameMaps _ _) _ _)

theorem State.serveHome_sameMaps (s : State) (r : CohReq) (line : Nat) : s.SameMaps (s.serveHome r line) := by
  unfold State.serveHome
  split
  · exact s.readHome_sameMaps ..
  · exact s.ownHome_sameMaps ..
  · exact s.sliceHome_sameMaps r line

theorem State.serveWaiting_sameMaps (s : State) (line : Nat) (ws : List CohReq) : s.SameMaps (s.serveWaiting line ws) := by
  induction ws generalizing s with
  | nil => exact .refl s
  | cons w ws ih =>
    unfold State.serveWaiting
    split
    · split
      · exact s.putDir_sameMaps _
      · exact .refl s
    · exact (s.serveHome_sameMaps w line).trans (ih _)

theorem State.closeTxn_sameMaps (s : State) (e : DirEnt) (st : Option DirSt) : s.SameMaps (s.closeTxn e st) := by
  unfold State.closeTxn
  cases st with
  | none => exact (s.dropDir_sameMaps e.line).trans (State.serveWaiting_sameMaps _ _ _)
  | some st => exact (s.setDir_sameMaps _).trans (State.serveWaiting_sameMaps _ _ _)

/-! ### Messages of the protocol (R236, R237) -/

theorem State.takeAck_sameMaps (s : State) (line cl : Nat) : s.SameMaps (s.takeAck line cl) := by
  have hgrant (t : Txn) (b c : Bool) : s.SameMaps (if b then (if c then
      (s.arrayRead (s.ccReq t.r.cl line t.r.hint t.r.asid false) line).s else s).send (.grant line t.r.cl) else s) :=
    .ite (.trans (.ite (s.arrayRead_sameMaps _ line) (.refl s)) (State.send_sameMaps _ _)) (.refl s)
  have hsignal (b : Bool) : s.SameMaps (if b then s.signalWriter line false else s) :=
    .ite (s.signalWriter_sameMaps line false) (.refl s)
  unfold State.takeAck
  split
  · exact .refl s
  · split
    · exact .refl s
    · next e _ _ t _ =>
      dsimp only
      split
      · refine .ite ?_ (s.putDir_sameMaps _)
        have hread := s.arrayRead_sameMaps (s.ccReq t.r.cl line t.r.hint t.r.asid t.r.lenient) line
        exact .ite (hread.trans (State.closeTxn_sameMaps _ e _))
          ((hread.trans (State.fillCc_sameMaps _ _ _ _ _ _ _)).trans (State.closeTxn_sameMaps _ e _))
      · exact .ite (((hgrant t _ _).trans (State.send_sameMaps _ _)).trans (State.closeTxn_sameMaps _ e _))
          ((hgrant t _ _).trans (State.putDir_sameMaps _ _))
      · refine .ite (.ite ?_ ?_) ((hsignal _).trans (State.putDir_sameMaps _ _))
        · exact ((hsignal _).trans (State.sliceDo_sameMaps _ t.r line)).trans (State.closeTxn_sameMaps _ e _)
        · exact ((hsignal _).trans (State.dropDir_sameMaps _ line)).trans
            ((State.sliceDo_sameMaps _ t.r line).trans (State.serveWaiting_sameMaps _ line _))

theorem State.takeGrant_sameMaps (s : State) (line cl : Nat) : s.SameMaps (s.takeGrant line cl) := by
  unfold State.takeGrant
  split
  · exact .refl s
  · refine .ite (.refl s) ?_
    refine (State.foldl_sameMaps (fun t l => ?_) _ s).trans ((State.putCc_sameMaps _ cl line _).trans (State.clearLost_sameMaps _ line _))
    exact t.undoPush_sameMaps l line _ false

theorem State.takeDone_sameMaps (s : State) (line cl : Nat) : s.SameMaps (s.takeDone line cl) := by
  unfold State.takeDone
  split
  · exact .refl s
  · exact s.putCc_sameMaps cl line _

theorem State.unsend_sameMaps (s : State) (m : CohMsg) : s.SameMaps (s.unsend m) := (s.unsend_sameButNet m).sameMaps

theorem State.deliver_sameMaps (s : State) (m : CohMsg) : s.SameMaps (s.deliver m) := by
  unfold State.deliver
  refine (s.unsend_sameMaps m).trans ?_
  match m with
  | .inv l c => exact (State.ccYield_sameMaps _ c l false false).trans (State.sendAs_sameMaps _ _ _)
  | .recall l c k => exact (State.ccYield_sameMaps _ c l _ k).trans (State.sendAs_sameMaps _ _ _)
  | .ack l c => exact State.takeAck_sameMaps _ l c
  | .grant l c => exact State.takeGrant_sameMaps _ l c
  | .done l c => exact State.takeDone_sameMaps _ l c

theorem State.settleN_sameMaps (s : State) (line fuel : Nat) : s.SameMaps (s.settleN line fuel) := by
  induction fuel generalizing s line with
  | zero => exact .refl s
  | succ fuel ih =>
    unfold State.settleN
    split
    · exact .refl s
    · next m _ =>
      have hblocked : s.SameMaps (match s.blocker line with | some o => s.settleN o fuel | none => s) := by
        split
        · exact ih s _
        · exact .refl s
      exact (hblocked.trans (State.deliver_sameMaps _ m)).trans (ih _ line)

theorem State.settle_sameMaps (s : State) (line : Nat) : s.SameMaps (s.settle line) := s.settleN_sameMaps line _

theorem State.dirForWrite_sameMaps (s : State) (line : Nat) : s.SameMaps (s.dirForWrite line) := by
  unfold State.dirForWrite
  dsimp only
  refine (s.settle_sameMaps line).trans ?_
  generalize s.settle line = u
  split
  · split
    · exact (u.ccYield_sameMaps _ line true false).trans (State.dropDir_sameMaps _ line)
    · exact (u.foldl_ccYield_sameMaps _ line false false).trans (State.dropDir_sameMaps _ line)
  · exact .refl u

/-! ### Pages zeroed (R233, R272) -/

theorem State.zeroPage_sameMaps (s : State) (pg : Nat) : s.SameMaps (s.zeroPage pg) := by
  unfold State.zeroPage each
  refine (s.purge_sameMaps _ _).trans (State.foldl_sameMaps (fun t i => ?_) _ _)
  exact ((t.dirForWrite_sameMaps _).trans (State.unledger_sameMaps _ _)).trans
    ((State.arrayWrite_sameMaps _ _ _ _).trans (State.produce_sameMaps _ _ none))

end Sys2Proof.Machine
end

section
/-! PROOF. The page tables: entries by address space and page, a leaf set, and work that handles a range page by page (R286, R287,
R389). -/

namespace Sys2Proof.Machine

/-! ### Keys of entries -/

theorem pteKey_leaf (asid va : Nat) : pteKey asid 3 va = (asid * 4 + 3) * 2 ^ 36 + va % 2 ^ 52 / 65536 := by
  rw [pteKey, Nat.shiftRight_eq_div_pow]
  rfl

theorem pteKey_level (asid lv va : Nat) : pteKey asid lv va / 2 ^ 36 = asid * 4 + lv := by
  have hindex : (va % 2 ^ 52) >>> levelShift lv < 2 ^ 36 := by
    have hlow : va % 2 ^ 52 < 2 ^ 52 := Nat.mod_lt _ (by decide)
    have hshift : 2 ^ 16 ≤ 2 ^ levelShift lv := Nat.pow_le_pow_right (by decide) (by unfold levelShift; split_ifs <;> decide)
    rw [Nat.shiftRight_eq_div_pow, Nat.div_lt_iff_lt_mul (Nat.two_pow_pos _)]
    omega
  rw [pteKey, mul_comm, Nat.mul_add_div (by decide), Nat.div_eq_of_lt hindex, Nat.add_zero]

/-- A table's entry is no leaf's. -/
theorem pteKey_leaf_ne_table {lv : Nat} (hlv : lv < 3) (a b va vb : Nat) : pteKey a 3 va ≠ pteKey b lv vb := by
  intro h
  have hleft := pteKey_level a 3 va
  rw [h, pteKey_level] at hleft
  omega

/-- Leaves of pages within the 52-bit addresses are one only where the address space and the page are. -/
theorem pteKey_leaf_inj {a b va vb : Nat} (hva : va < 2 ^ 52) (hvb : vb < 2 ^ 52) (hpa : va % 65536 = 0) (hpb : vb % 65536 = 0)
    (h : pteKey a 3 va = pteKey b 3 vb) : a = b ∧ va = vb := by
  rw [pteKey_leaf, pteKey_leaf, Nat.mod_eq_of_lt hva, Nat.mod_eq_of_lt hvb] at h
  omega

/-! ### Entries set -/

theorem State.withTable_queues (s : State) (asid va lv : Nat) : (s.withTable asid va lv).queues = s.queues := by
  unfold State.withTable
  split <;> rfl

theorem State.withTable_pte (s : State) (asid va : Nat) {lv : Nat} (hlv : lv < 3) (a vb : Nat) :
    (s.withTable asid va lv).pte a vb = s.pte a vb := by
  unfold State.withTable
  split
  · rfl
  · exact look_put_ne 0 _ _ _ (pteKey_leaf_ne_table hlv _ _ _ _)

theorem State.setPte_queues (s : State) (asid va : Nat) (e : BitVec 64) : (s.setPte asid va e).queues = s.queues :=
  ((State.withTable_queues _ asid va 2).trans (State.withTable_queues _ asid va 1)).trans (s.withTable_queues asid va 0)

theorem State.setPte_pte (s : State) (asid va : Nat) (e : BitVec 64) (a vb : Nat) :
    (s.setPte asid va e).pte a vb = if pteKey a 3 vb = pteKey asid 3 va then e else s.pte a vb := by
  refine (look_put 0 _ _ _ e).trans (if_congr Iff.rfl rfl ?_)
  exact ((State.withTable_pte _ asid va (by decide) a vb).trans (State.withTable_pte _ asid va (by decide) a vb)).trans
    (s.withTable_pte asid va (by decide) a vb)

theorem State.setPte_pte_same (s : State) (asid va : Nat) (e : BitVec 64) : (s.setPte asid va e).pte asid va = e := by
  rw [State.setPte_pte, if_pos rfl]

/-! ### One page after the other -/

/-- From `s` to `t` no leaf changes but that of one page, and no queue. -/
structure State.OnlyPage (s t : State) (asid va : Nat) : Prop where
  queues : t.queues = s.queues
  others : ∀ a vb, pteKey a 3 vb ≠ pteKey asid 3 va → t.pte a vb = s.pte a vb

theorem State.OnlyPage.refl (s : State) (asid va : Nat) : s.OnlyPage s asid va := ⟨rfl, fun _ _ _ => rfl⟩

theorem State.setPte_onlyPage (s : State) (asid va : Nat) (e : BitVec 64) : s.OnlyPage (s.setPte asid va e) asid va :=
  ⟨s.setPte_queues asid va e, fun a vb h => by rw [State.setPte_pte, if_neg h]⟩

/-- What handling pages in turn leaves, where each turn changes at most the leaf of its own page. -/
structure State.PageByPage (s t : State) (asid n : Nat) (page : Nat → Nat) (g : Nat → State → State) : Prop where
  queues : t.queues = s.queues
  others : ∀ a vb, (∀ k, k < n → pteKey a 3 vb ≠ pteKey asid 3 (page k)) → t.pte a vb = s.pte a vb
  /-- each page has the leaf that its own turn gave it, from the leaf that it had before -/
  turn : ∀ k, k < n → ∃ u : State, u.queues = s.queues ∧ u.pte asid (page k) = s.pte asid (page k) ∧
    t.pte asid (page k) = (g k u).pte asid (page k)

theorem each_pageByPage {s : State} {asid : Nat} {page : Nat → Nat} {g : Nat → State → State}
    (hg : ∀ k (u : State), u.queues = s.queues → u.OnlyPage (g k u) asid (page k)) (n : Nat)
    (hpages : ∀ j k, j < n → k < n → pteKey asid 3 (page j) = pteKey asid 3 (page k) → j = k) :
    s.PageByPage (each (List.range n) g s) asid n page g := by
  induction n with
  | zero => exact ⟨rfl, fun _ _ _ => rfl, fun k hk => absurd hk (Nat.not_lt_zero k)⟩
  | succ n ih =>
    obtain ⟨hqueues, hothers, hturn⟩ := ih fun j k hj hk => hpages j k (by omega) (by omega)
    have hlast : each (List.range (n + 1)) g s = g n (each (List.range n) g s) := by
      rw [each, List.range_succ, List.foldl_append]
      rfl
    rw [hlast]
    generalize each (List.range n) g s = u at hqueues hothers hturn
    obtain ⟨hkeep, honly⟩ := hg n u hqueues
    refine ⟨hkeep.trans hqueues, fun a vb h => ?_, fun k hk => ?_⟩
    · exact (honly a vb (h n (by omega))).trans (hothers a vb fun k hk => h k (by omega))
    · by_cases hkn : k = n
      · subst hkn
        refine ⟨u, hqueues, hothers asid (page k) fun j hj hkey => ?_, rfl⟩
        exact absurd (hpages k j (by omega) (by omega) hkey) (by omega)
      · obtain ⟨v, hv, hleaf, ht⟩ := hturn k (by omega)
        exact ⟨v, hv, hleaf, (honly _ _ fun hkey => hkn (hpages k n hk (by omega) hkey)).trans ht⟩

/-! ### Pages that stay mapped -/

/-- The queues of `t` are those of `s`, and every page that `s` maps `t` maps. -/
structure State.KeepsMapped (s t : State) : Prop where
  queues : t.queues = s.queues
  mapped : ∀ a va, s.isMapped a va = true → t.isMapped a va = true

theorem State.KeepsMapped.refl (s : State) : s.KeepsMapped s := ⟨rfl, fun _ _ h => h⟩

theorem State.KeepsMapped.trans {s t u : State} (h : s.KeepsMapped t) (k : t.KeepsMapped u) : s.KeepsMapped u :=
  ⟨k.queues.trans h.queues, fun a va hm => k.mapped a va (h.mapped a va hm)⟩

theorem State.KeepsMapped.of_bit {s t : State} (hq : t.queues = s.queues) (h : ∀ a va, bitAt (t.pte a va) 0 = bitAt (s.pte a va) 0) :
    s.KeepsMapped t := ⟨hq, fun a va hm => (h a va).trans hm⟩

theorem State.SameMaps.keepsMapped {s t : State} (h : s.SameMaps t) : s.KeepsMapped t :=
  .of_bit h.queues fun a va => by rw [State.pte, h.ptes]; rfl

theorem State.setPte_keepsMapped (s : State) (asid va : Nat) {e : BitVec 64} (he : bitAt e 0 = true) :
    s.KeepsMapped (s.setPte asid va e) := by
  refine ⟨s.setPte_queues asid va e, fun a vb hm => ?_⟩
  rw [State.isMapped, State.setPte_pte]
  split
  · exact he
  · exact hm

/-- Pages mapped in turn are all mapped in the end. -/
theorem each_maps {s : State} {asid : Nat} {page : Nat → Nat} {g : Nat → State → State}
    (hg : ∀ k (u : State), u.KeepsMapped (g k u)) (hmap : ∀ k u, (g k u).isMapped asid (page k) = true) (n : Nat) :
    (each (List.range n) g s).queues = s.queues ∧ ∀ k, k < n → (each (List.range n) g s).isMapped asid (page k) = true := by
  induction n with
  | zero => exact ⟨rfl, fun k hk => absurd hk (Nat.not_lt_zero k)⟩
  | succ n ih =>
    have hlast : each (List.range (n + 1)) g s = g n (each (List.range n) g s) := by
      rw [each, List.range_succ, List.foldl_append]
      rfl
    rw [hlast]
    generalize each (List.range n) g s = u at ih
    obtain ⟨hqueues, hmapped⟩ := ih
    refine ⟨(hg n u).queues.trans hqueues, fun k hk => ?_⟩
    by_cases hkn : k = n
    · rw [hkn]
      exact hmap n u
    · exact (hg n u).mapped _ _ (hmapped k (by omega))

/-! ### Bits of a leaf (Table 08.11) -/

theorem bitAt_zero {w : Nat} (x : BitVec w) : bitAt x 0 = decide (x.toNat % 2 = 1) := Nat.testBit_zero _

theorem mkLeaf_mapped (rwx : Nat) (code guard : Bool) (tgt addr : Nat) : bitAt (mkLeaf rwx code guard tgt addr) 0 = true := by
  rw [bitAt_zero, decide_eq_true_iff, mkLeaf, bits, BitVec.toNat_ofNat]
  omega

theorem bitAt_toNat {w : Nat} (x : BitVec w) (i : Nat) : bit01 (bitAt x i) = x.toNat / 2 ^ i % 2 := by
  rw [bitAt, Nat.testBit_eq_decide_div_mod_eq, bit01]
  have hbit := Nat.mod_two_eq_zero_or_one (x.toNat / 2 ^ i)
  simp only [decide_eq_true_eq]
  split <;> omega

theorem bit01_le (b : Bool) : bit01 b ≤ 1 := by cases b <;> decide

/-- A leaf of a class changed to another is mapped as it was. -/
theorem recoded_mapped (e : BitVec 64) (code : Bool) :
    bitAt (bits 64 (e.toNat - bit01 (bitAt e 5) * 32 + bit01 code * 32)) 0 = bitAt e 0 := by
  rw [bitAt_zero, bitAt_zero, bits, BitVec.toNat_ofNat, bitAt_toNat]
  congr 1
  rw [eq_iff_iff]
  omega

section Reprotect

variable (e : BitVec 64) (guard : Bool) {rwx : Nat} (h : rwx < 8)
include h

/-- The number of a leaf with new rights, field by field. -/
theorem reprotect_toNat : (reprotect e rwx guard).toNat =
    e.toNat % 4 + rwx * 4 + e.toNat / 32 % 2 * 32 + bit01 guard * 64 + e.toNat / 128 * 128 := by
  have he := e.isLt
  have hguard := bit01_le guard
  rw [reprotect, bits, BitVec.toNat_ofNat, bitAt_toNat, fld, Nat.shiftRight_eq_div_pow]
  simp only [Nat.reducePow]
  have h32 : e.toNat / 32 = e.toNat / 4 / 8 := (Nat.div_div_eq_div_mul _ 4 8).symm
  have h64 : e.toNat / 64 = e.toNat / 32 / 2 := (Nat.div_div_eq_div_mul _ 32 2).symm
  have h128 : e.toNat / 128 = e.toNat / 64 / 2 := (Nat.div_div_eq_div_mul _ 64 2).symm
  omega

theorem reprotect_rwx : (reprotect e rwx guard).extractLsb' 2 3 = BitVec.ofNat 3 rwx := by
  refine BitVec.eq_of_toNat_eq ?_
  have hguard := bit01_le guard
  rw [BitVec.extractLsb'_toNat, reprotect_toNat e guard h, BitVec.toNat_ofNat, Nat.shiftRight_eq_div_pow]
  omega

theorem reprotect_guard : (reprotect e rwx guard).getLsbD 6 = guard := by
  have hbit : (reprotect e rwx guard).toNat / 2 ^ 6 % 2 = bit01 guard := by
    have hguard := bit01_le guard
    rw [reprotect_toNat e guard h]
    omega
  rw [BitVec.getLsbD, Nat.testBit_eq_decide_div_mod_eq, hbit]
  cases guard <;> rfl

theorem reprotect_place : (reprotect e rwx guard).extractLsb' 7 57 = e.extractLsb' 7 57 := by
  refine BitVec.eq_of_toNat_eq ?_
  have hguard := bit01_le guard
  rw [BitVec.extractLsb'_toNat, BitVec.extractLsb'_toNat, reprotect_toNat e guard h, Nat.shiftRight_eq_div_pow,
    Nat.shiftRight_eq_div_pow]
  omega

theorem reprotect_mapped (hm : bitAt e 0 = true) : (reprotect e rwx guard).getLsbD 0 = true := by
  rw [bitAt_zero, decide_eq_true_iff] at hm
  rw [BitVec.getLsbD, Nat.testBit_zero, decide_eq_true_iff, reprotect_toNat e guard h]
  omega

end Reprotect

end Sys2Proof.Machine
end

section
/-! PROOF. The MAP descriptors: refused, or done page by page over their range (R348, R389, R391, R580, Table 11.18). -/

namespace Sys2Proof.Machine

/-! ### The range of a MAP (R389) -/

theorem Desc.mapRange {d : Desc} (h : d.mapBad = false) :
    d.mapVa % 65536 = 0 ∧ 0 < d.mapSize ∧ d.mapSize % 65536 = 0 ∧ d.mapVa + d.mapSize ≤ 2 ^ 52 := by
  simp only [Desc.mapBad, Bool.or_eq_false_iff, decide_eq_false_iff_not] at h
  omega

section Range

variable {d : Desc} (h : d.mapBad = false)
include h

theorem Desc.mapPages_pos : 0 < d.mapPages := by
  obtain ⟨-, hsize, hpages, -⟩ := d.mapRange h
  rw [Desc.mapPages]
  omega

/-- Each page of the range is a page, within the range and below the 52-bit limit. -/
theorem Desc.mapPage_within {k : Nat} (hk : k < d.mapPages) :
    d.mapVa ≤ d.mapPage k ∧ d.mapPage k < d.mapVa + d.mapSize ∧ d.mapPage k < 2 ^ 52 ∧ d.mapPage k % 65536 = 0 := by
  obtain ⟨hva, hsize, hpages, hend⟩ := d.mapRange h
  rw [Desc.mapPages] at hk
  rw [Desc.mapPage]
  omega

/-- Two pages of the range are never one. -/
theorem Desc.mapPage_inj (asid : Nat) {j k : Nat} (hj : j < d.mapPages) (hk : k < d.mapPages)
    (hkey : pteKey asid 3 (d.mapPage j) = pteKey asid 3 (d.mapPage k)) : j = k := by
  obtain ⟨-, -, hjlt, hjpage⟩ := d.mapPage_within h hj
  obtain ⟨-, -, hklt, hkpage⟩ := d.mapPage_within h hk
  obtain ⟨-, hsame⟩ := pteKey_leaf_inj hjlt hklt hjpage hkpage hkey
  rw [Desc.mapPage, Desc.mapPage] at hsame
  omega

/-- A page of another address space, or outside the range, is no page of it. -/
theorem Desc.mapPage_outside {asid a va : Nat} (hva : va < 2 ^ 52) (hpage : va % 65536 = 0)
    (hout : a ≠ asid ∨ va < d.mapVa ∨ d.mapVa + d.mapSize ≤ va) {k : Nat} (hk : k < d.mapPages) :
    pteKey a 3 va ≠ pteKey asid 3 (d.mapPage k) := by
  intro hkey
  obtain ⟨hlo, hhi, hlt, hpg⟩ := d.mapPage_within h hk
  obtain ⟨hasid, hsame⟩ := pteKey_leaf_inj hva hlt hpage hpg hkey
  omega

/-- Work that changes at most the leaf of its own page, on every page of the range. -/
theorem Desc.each_mapPages {s : State} {asid : Nat} {g : Nat → State → State}
    (hg : ∀ k (u : State), u.queues = s.queues → u.OnlyPage (g k u) asid (d.mapPage k)) :
    s.PageByPage (each (List.range d.mapPages) g s) asid d.mapPages d.mapPage g :=
  each_pageByPage hg d.mapPages fun _ _ hj hk => d.mapPage_inj h asid hj hk

end Range

/-! ### The step of a MAP in progress, and its end -/

section MapStep

variable {s : State} {q op : Nat} {d : Desc} (h : InProgress s q d 9) (hop : d.mapOp = op)
include h

theorem InProgress.mapFail_refused :
    Ended (s.descFail q d.index.toNat stBadDesc) q d.index.toNat stBadDesc 0 ∧ (s.descFail q d.index.toNat stBadDesc).ptes = s.ptes :=
  ⟨h.badDesc_ended, rfl⟩

/-- DONE, from a state with the same queues. -/
theorem InProgress.done_after {t : State} (hq : t.queues = s.queues) (hrecov : d.recov = 0) (r : BitVec 64) :
    Ended (t.descEnd q d.index.toNat stDone r) q d.index.toNat stDone r := by
  have hlive : t.live? q d.index.toNat = some d := by
    rw [← h.live, State.live?, State.queue, hq]
    rfl
  refine ended_of_desc? (State.descEnd_desc? hlive h.running stDone r) ?_
  rw [hrecov]
  rfl

include hop

theorem InProgress.mapDesc_eq (k : Desc → State → State) : mapDesc op q d.index.toNat k s =
    .next (if d.mapBad then s.descFail q d.index.toNat stBadDesc else k d s) := by
  have hneed : ((s.live? q d.index.toNat).elim true fun d => d.opc != 9 || d.mapOp == op || decide (8 ≤ d.mapOp)) = true := by
    simp [h.live, hop]
  exact (if_pos hneed).trans (h.onDesc_eq _ _)

theorem InProgress.mapFresh_eq (k : Desc → State → State) : mapFresh op q d.index.toNat k s =
    .next (if d.mapBad then s.descFail q d.index.toNat stBadDesc
      else if s.mapTaken (s.queue q).set.asid d then s.descFail q d.index.toNat stBadDesc else k d s) := h.mapDesc_eq hop _

theorem InProgress.mapDesc_good (hgood : d.mapBad = false) (k : Desc → State → State) :
    mapDesc op q d.index.toNat k s = .next (k d s) := by
  rw [h.mapDesc_eq hop, hgood, if_neg Bool.false_ne_true]

theorem InProgress.mapFresh_good (hgood : d.mapBad = false) (hfresh : s.mapTaken (s.queue q).set.asid d = false)
    (k : Desc → State → State) : mapFresh op q d.index.toNat k s = .next (k d s) := by
  rw [h.mapFresh_eq hop, hgood, hfresh, if_neg Bool.false_ne_true, if_neg Bool.false_ne_true]

/-- A MAP with bad fields is refused. -/
theorem InProgress.mapDesc_refused (k : Desc → State → State) : ∃ t, mapDesc op q d.index.toNat k s = .next t ∧
    (d.mapBad = true → Ended t q d.index.toNat stBadDesc 0 ∧ t.ptes = s.ptes) := by
  refine ⟨_, h.mapDesc_eq hop k, fun hbad => ?_⟩
  rw [if_pos hbad]
  exact h.mapFail_refused

/-- A MAP that makes mappings is refused over a mapped page too. -/
theorem InProgress.mapFresh_refused (k : Desc → State → State) : ∃ t, mapFresh op q d.index.toNat k s = .next t ∧
    (d.mapBad = true ∨ s.mapTaken (s.queue q).set.asid d = true → Ended t q d.index.toNat stBadDesc 0 ∧ t.ptes = s.ptes) := by
  refine ⟨_, h.mapFresh_eq hop k, fun hbad => ?_⟩
  split
  · exact h.mapFail_refused
  · next hgood =>
    rw [if_pos (hbad.resolve_left hgood)]
    exact h.mapFail_refused

end MapStep

/-! ### Frames of a class (R271, R272) -/

/-- Entries changed without their keys and bits 0 map what they mapped. -/
theorem bitAt_look_map {g : Nat × BitVec 64 → Nat × BitVec 64} (hkey : ∀ p, (g p).1 = p.1)
    (hbit : ∀ p, bitAt (g p).2 0 = bitAt p.2 0) (m : SMap (BitVec 64)) (k : Nat) :
    bitAt (look 0 (m.map g) k) 0 = bitAt (look 0 m k) 0 := by
  induction m with
  | nil => rfl
  | cons p m ih =>
    rw [List.map_cons, look, look, hkey]
    split
    · exact hbit p
    · exact ih

/-- A leaf that maps into a frame, with the class of the frame. -/
def recodeLeaf (fr : Nat) (code : Bool) (p : Nat × BitVec 64) : Nat × BitVec 64 :=
  if leafDev p.2 && leafPage p.2 / 32 == fr then (p.1, bits 64 (p.2.toNat - bit01 (bitAt p.2 5) * 32 + bit01 code * 32)) else p

theorem recodeLeaf_key (fr : Nat) (code : Bool) (p : Nat × BitVec 64) : (recodeLeaf fr code p).1 = p.1 := by
  unfold recodeLeaf
  split <;> rfl

theorem recodeLeaf_mapped (fr : Nat) (code : Bool) (p : Nat × BitVec 64) : bitAt (recodeLeaf fr code p).2 0 = bitAt p.2 0 := by
  unfold recodeLeaf
  split
  · exact recoded_mapped p.2 code
  · rfl

theorem State.recode_keepsMapped (s : State) (fr : Nat) (code : Bool) :
    s.KeepsMapped { s with ptes := s.ptes.map (recodeLeaf fr code) } :=
  .of_bit rfl fun _ _ => bitAt_look_map (recodeLeaf_key fr code) (recodeLeaf_mapped fr code) _ _

theorem State.frameClass_keepsMapped (s : State) (fr : Nat) (code : Bool) : s.KeepsMapped (s.frameClass fr code) := by
  have hzeroed (pgs : List Nat) (u : State) : u.KeepsMapped
      (each pgs (fun pg s => if (s.home (pg * 65536)).isSome then s.zeroPage pg else s) u) := by
    refine (State.foldl_sameMaps (fun t pg => ?_) pgs u).keepsMapped
    exact .ite (t.zeroPage_sameMaps pg) (.refl t)
  have hlight (light : List Nat) : s.KeepsMapped { s with light := light } := ⟨rfl, fun _ _ hm => hm⟩
  unfold State.frameClass
  split
  · exact .refl s
  · exact ((hlight _).trans (hzeroed _ _)).trans (State.recode_keepsMapped _ fr code)

/-! ### POOL (R580) -/

/-- A page of a pool taken, zeroed and mapped. -/
def State.mapPoolPage (s : State) (asid : Nat) (d : Desc) (pg k : Nat) : State :=
  { ((s.frameClass (pg / 32) d.mapCode).zeroPage pg).setPte asid (d.mapPage k)
      (mkLeaf d.mapRwx d.mapCode d.mapGuard 0 (pg * 65536)) with
    owners := put 0 ((s.frameClass (pg / 32) d.mapCode).zeroPage pg).owners pg (asid + 1) }

theorem State.owners_keepsMapped (s : State) (owners : SMap Nat) : s.KeepsMapped { s with owners := owners } := ⟨rfl, fun _ _ hm => hm⟩

theorem State.mapPoolPage_keepsMapped (s : State) (asid : Nat) (d : Desc) (pg k : Nat) : s.KeepsMapped (s.mapPoolPage asid d pg k) := by
  refine ((s.frameClass_keepsMapped (pg / 32) d.mapCode).trans (State.zeroPage_sameMaps _ pg).keepsMapped).trans ?_
  exact (State.setPte_keepsMapped _ asid (d.mapPage k) (mkLeaf_mapped ..)).trans (State.owners_keepsMapped _ _)

theorem State.mapPoolPage_mapped (s : State) (asid : Nat) (d : Desc) (pg k : Nat) :
    (s.mapPoolPage asid d pg k).isMapped asid (d.mapPage k) = true := by
  refine (State.owners_keepsMapped _ _).mapped asid (d.mapPage k) ?_
  rw [State.isMapped, State.setPte_pte_same, mkLeaf_mapped]

theorem InProgress.mapPool_eq {s : State} {q : Nat} {d : Desc} (h : InProgress s q d 9) (hop : d.mapOp = 0) (hgood : d.mapBad = false)
    (hfresh : s.mapTaken (s.queue q).set.asid d = false) :
    exec (.mapPool q d.index.toNat) s = .next
      (if s.poolHeld (s.queue q).set.part || (s.poolPick (s.queue q).set.part d.mapPages d.mapCode).length < d.mapPages then
        s.descFail q d.index.toNat stCapacity
      else (each (List.range d.mapPages) (fun k u => u.mapPoolPage (s.queue q).set.asid d
        ((s.poolPick (s.queue q).set.part d.mapPages d.mapCode).getD k 0) k) s).descEnd q d.index.toNat stDone 0) := by
  have hexec : exec (.mapPool q d.index.toNat) s = execMapPool q d.index.toNat s := by rfl
  rw [hexec, execMapPool, h.mapFresh_good hop hgood hfresh]
  rfl

/-! ### HOST and REMOTE (R389) -/

/-- Each page of the range with a leaf of its own. -/
theorem InProgress.mapEach_leaf {s : State} {q : Nat} {d : Desc} (h : InProgress s q d 9) (hgood : d.mapBad = false)
    (hrecov : d.recov = 0) {g : Nat → State → State} {asid : Nat}
    (hg : ∀ k (u : State), u.queues = s.queues → u.OnlyPage (g k u) asid (d.mapPage k)) :
    Ended (s.mapEach q d.index.toNat d g) q d.index.toNat stDone 0 ∧
    (∀ a va, va < 2 ^ 52 → va % 65536 = 0 → (a ≠ asid ∨ va < d.mapVa ∨ d.mapVa + d.mapSize ≤ va) →
      (s.mapEach q d.index.toNat d g).pte a va = s.pte a va) ∧
    ∀ k, k < d.mapPages → ∃ u : State, u.queues = s.queues ∧ u.pte asid (d.mapPage k) = s.pte asid (d.mapPage k) ∧
      (s.mapEach q d.index.toNat d g).pte asid (d.mapPage k) = (g k u).pte asid (d.mapPage k) := by
  obtain ⟨hqueues, hothers, hturn⟩ := d.each_mapPages hgood hg
  unfold State.mapEach
  generalize each (List.range d.mapPages) g s = t at hqueues hothers hturn
  exact ⟨h.done_after hqueues hrecov 0, fun a va hva hpage hout => hothers a va fun k hk => d.mapPage_outside hgood hva hpage hout hk,
    hturn⟩

theorem State.asid_of_queues {s u : State} (h : u.queues = s.queues) (q : Nat) : (u.queue q).set.asid = (s.queue q).set.asid := by
  rw [State.queue, h]
  rfl

/-- A leaf of each page of the range set, in the address space of the queue. -/
theorem InProgress.mapEach_setPte {s : State} {q : Nat} {d : Desc} (h : InProgress s q d 9) (hgood : d.mapBad = false)
    (hrecov : d.recov = 0) (e : Nat → BitVec 64) {t : State}
    (ht : t = s.mapEach q d.index.toNat d fun k u => u.setPte (u.queue q).set.asid (d.mapPage k) (e k)) :
    Ended t q d.index.toNat stDone 0 ∧
    (∀ a va, va < 2 ^ 52 → va % 65536 = 0 → (a ≠ (s.queue q).set.asid ∨ va < d.mapVa ∨ d.mapVa + d.mapSize ≤ va) →
      t.pte a va = s.pte a va) ∧
    ∀ k, k < d.mapPages → t.pte (s.queue q).set.asid (d.mapPage k) = e k := by
  have hg (k : Nat) (u : State) (hu : u.queues = s.queues) :
      u.OnlyPage (u.setPte (u.queue q).set.asid (d.mapPage k) (e k)) (s.queue q).set.asid (d.mapPage k) := by
    rw [State.asid_of_queues hu]
    exact u.setPte_onlyPage _ _ _
  obtain ⟨hdone, hothers, hturn⟩ := h.mapEach_leaf hgood hrecov hg
  rw [ht]
  refine ⟨hdone, hothers, fun k hk => ?_⟩
  obtain ⟨u, hu, -, hleaf⟩ := hturn k hk
  rw [hleaf, State.asid_of_queues hu, State.setPte_pte_same]

theorem InProgress.mapHost_eq {s : State} {q : Nat} {d : Desc} (h : InProgress s q d 9) (hop : d.mapOp = 2) (hgood : d.mapBad = false)
    (hfresh : s.mapTaken (s.queue q).set.asid d = false) :
    exec (.mapHost q d.index.toNat) s = .next (s.mapEach q d.index.toNat d fun k u => u.setPte (u.queue q).set.asid (d.mapPage k)
      (mkLeaf d.mapRwx false false 2 ((d.mapTarget + k * 65536) % 2 ^ 64))) := by
  have hexec : exec (.mapHost q d.index.toNat) s = execMapHost q d.index.toNat s := by rfl
  rw [hexec, execMapHost, h.mapFresh_good hop hgood hfresh]

theorem InProgress.mapRemote_eq {s : State} {q : Nat} {d : Desc} (h : InProgress s q d 9) (hop : d.mapOp = 3)
    (hgood : d.mapBad = false) (hfresh : s.mapTaken (s.queue q).set.asid d = false) :
    exec (.mapRemote q d.index.toNat) s = .next (s.mapEach q d.index.toNat d fun k u => u.setPte (u.queue q).set.asid (d.mapPage k)
      (mkLeaf (d.mapRwx % 4) false false 1 (d.mapPeer * 2 ^ 44 + (d.mapTarget + k * 65536) % 2 ^ 44))) := by
  have hexec : exec (.mapRemote q d.index.toNat) s = execMapRemote q d.index.toNat s := by rfl
  rw [hexec, execMapRemote, h.mapFresh_good hop hgood hfresh]

/-! ### EXPORT (R348) -/

/-- The device pages behind a range. -/
def State.rangePages (s : State) (asid : Nat) (d : Desc) : List (Option Nat) :=
  (List.range d.mapPages).map fun k => s.devPage asid (d.mapPage k)

/-- The exports of a range to its package. -/
def State.rangeExports (s : State) (asid : Nat) (d : Desc) : List Export :=
  (List.range d.mapPages).map fun k =>
    { peer := d.mapPeer, base := (((s.rangePages asid d).getD k none).getD 0) * 65536, len := 65536, asid := asid, va := d.mapPage k }

/-- A range exported. -/
def State.exported (s : State) (asid : Nat) (d : Desc) : State :=
  s.onFab fun f => { f with exports := f.exports ++ (s.rangeExports asid d).filter fun e => !f.exports.contains e }

theorem InProgress.mapExport_eq {s : State} {q : Nat} {d : Desc} (h : InProgress s q d 9) (hop : d.mapOp = 4)
    (hgood : d.mapBad = false) : exec (.mapExport q d.index.toNat) s = .next
      (if (s.rangePages (s.queue q).set.asid d).any Option.isNone then s.descFail q d.index.toNat stAccess
      else (s.exported (s.queue q).set.asid d).descEnd q d.index.toNat stDone
        (bits 64 ((((s.rangePages (s.queue q).set.asid d).headD none).getD 0) * 65536))) := by
  have hexec : exec (.mapExport q d.index.toNat) s = execMapExport q d.index.toNat s := by rfl
  rw [hexec, execMapExport, h.mapDesc_good hop hgood]
  rfl

theorem State.rangePages_any (s : State) (asid : Nat) (d : Desc) : (s.rangePages asid d).any Option.isNone = true ↔
    ∃ k, k < d.mapPages ∧ s.devPage asid (d.mapPage k) = none := by
  simp [State.rangePages, List.any_map]

theorem State.rangePages_head (s : State) (asid : Nat) {d : Desc} (hpages : 0 < d.mapPages) :
    (s.rangePages asid d).headD none = s.devPage asid (d.mapPage 0) ∧
    (s.rangePages asid d).getD 0 none = s.devPage asid (d.mapPage 0) := by
  obtain ⟨n, hn⟩ : ∃ n, d.mapPages = n + 1 := ⟨d.mapPages - 1, by omega⟩
  rw [State.rangePages, hn, List.range_succ_eq_map]
  exact ⟨rfl, rfl⟩

/-- The first page of the range is exported. -/
theorem State.exported_first {s : State} {asid : Nat} {d : Desc} (hpages : 0 < d.mapPages) {p : Nat}
    (hp : s.devPage asid (d.mapPage 0) = some p) :
    ∃ e ∈ (s.exported asid d).fab.exports, e.peer = d.mapPeer ∧ e.base = p * 65536 := by
  let e : Export := { peer := d.mapPeer, base := (((s.rangePages asid d).getD 0 none).getD 0) * 65536, len := 65536, asid := asid,
                      va := d.mapPage 0 }
  have hmem : e ∈ s.rangeExports asid d := List.mem_map.2 ⟨0, List.mem_range.2 hpages, rfl⟩
  refine ⟨e, List.mem_append.2 ?_, rfl, ?_⟩
  · by_cases hold : e ∈ s.fab.exports
    · exact .inl hold
    · exact .inr (List.mem_filter.2 ⟨hmem, by simp [hold]⟩)
  · have hbase : e.base = ((s.rangePages asid d).getD 0 none).getD 0 * 65536 := rfl
    rw [hbase, (s.rangePages_head asid hpages).2, hp]
    rfl

/-! ### UNMAP (R227, R278, R389) -/

/-- The exports of a range end. -/
def State.unexported (s : State) (asid : Nat) (d : Desc) : State :=
  s.onFab fun f => { f with exports := f.exports.filter fun e =>
    !(e.asid == asid && decide (d.mapVa ≤ e.va) && decide (e.va < d.mapVa + d.mapSize)) }

/-- The leaf of a page cleared. -/
def State.clearPte (s : State) (asid va : Nat) : State := { s with ptes := put 0 s.ptes (pteKey asid 3 va) 0 }

/-- The device pages that the leaves of a range name. -/
def State.oldPages (s : State) (asid : Nat) (d : Desc) : List Nat :=
  (List.range d.mapPages).filterMap fun k => if leafDev (s.pte asid (d.mapPage k)) then some (leafPage (s.pte asid (d.mapPage k))) else none

/-- A range unmapped, and the pins of the lines of its pages ended. -/
def State.unmapped (s : State) (asid : Nat) (d : Desc) : State :=
  (s.oldPages asid d).foldl State.unpinPage
    (each (List.range d.mapPages) (fun k u => u.clearPte asid (d.mapPage k)) (s.unexported asid d))

theorem InProgress.mapUnmap_eq {s : State} {q : Nat} {d : Desc} (h : InProgress s q d 9) (hop : d.mapOp = 5) (hgood : d.mapBad = false) :
    exec (.mapUnmap q d.index.toNat) s = .next ((s.unmapped (s.queue q).set.asid d).retireWaiting.descEnd q d.index.toNat stDone 0) := by
  have hexec : exec (.mapUnmap q d.index.toNat) s = execMapUnmap q d.index.toNat s := by rfl
  rw [hexec, execMapUnmap, h.mapDesc_good hop hgood]
  rfl

theorem State.clearPte_pte (s : State) (asid va a vb : Nat) :
    (s.clearPte asid va).pte a vb = if pteKey a 3 vb = pteKey asid 3 va then 0 else s.pte a vb := look_put 0 _ _ _ 0

theorem State.clearPte_onlyPage (s : State) (asid va : Nat) : s.OnlyPage (s.clearPte asid va) asid va :=
  ⟨rfl, fun a vb h => by rw [State.clearPte_pte, if_neg h]⟩

theorem State.unpinPage_memoryOnly (s : State) (pg : Nat) : s.MemoryOnly (s.unpinPage pg) :=
  State.foldl_memoryOnly (fun t line => t.endPin_memoryOnly line) _ s

theorem State.each_clearPte_rest (asid : Nat) (page : Nat → Nat) (ks : List Nat) (s : State) :
    (each ks (fun k u => u.clearPte asid (page k)) s).regions = s.regions ∧
    (each ks (fun k u => u.clearPte asid (page k)) s).fab = s.fab :=
  List.foldlRecOn (motive := fun t : State => t.regions = s.regions ∧ t.fab = s.fab) ks _ ⟨rfl, rfl⟩ fun _ ht _ _ => ht

/-- No retirement waits: none is made. -/
theorem State.retireWaiting_none {s : State} (h : ∀ r, r < 8 → (s.region r).retireWait = []) : s.retireWaiting = s := by
  have hall (rs : List Nat) (hrs : ∀ r ∈ rs, r < 8) : each rs (fun r s => (s.region r).retireWait.foldl (fun s pg =>
      match s.lowestFree pg with
      | some new => if s.lostPage pg then s else s.retireTo (pg * 65536) new (s.waitCause pg)
      | none => s) s) s = s := by
    induction rs with
    | nil => rfl
    | cons r rs ih =>
      rw [each, List.foldl_cons, h r (hrs r (List.mem_cons_self ..)), List.foldl_nil]
      exact ih fun r hr => hrs r (List.mem_cons_of_mem _ hr)
  unfold State.retireWaiting
  exact hall _ fun r hr => List.mem_range.1 hr

theorem State.unmapped_rest (s : State) (asid : Nat) (d : Desc) :
    (s.unmapped asid d).regions = s.regions ∧ (s.unmapped asid d).fab = (s.unexported asid d).fab := by
  have hpins := State.foldl_memoryOnly State.unpinPage_memoryOnly (s.oldPages asid d)
    (each (List.range d.mapPages) (fun k u => u.clearPte asid (d.mapPage k)) (s.unexported asid d))
  obtain ⟨hregions, hfab⟩ := State.each_clearPte_rest asid d.mapPage (List.range d.mapPages) (s.unexported asid d)
  exact ⟨(hpins.field State.regions fun _ => rfl).trans hregions, (hpins.field State.fab fun _ => rfl).trans hfab⟩

theorem State.unmapped_pages (s : State) (asid : Nat) {d : Desc} (hgood : d.mapBad = false) :
    (s.unmapped asid d).queues = s.queues ∧
    (∀ a va, va < 2 ^ 52 → va % 65536 = 0 → (a ≠ asid ∨ va < d.mapVa ∨ d.mapVa + d.mapSize ≤ va) →
      (s.unmapped asid d).pte a va = s.pte a va) ∧
    ∀ k, k < d.mapPages → (s.unmapped asid d).isMapped asid (d.mapPage k) = false := by
  have hcleared := d.each_mapPages (s := s.unexported asid d) hgood fun k u _ => u.clearPte_onlyPage asid (d.mapPage k)
  have hpins := (State.foldl_memoryOnly State.unpinPage_memoryOnly (s.oldPages asid d)
    (each (List.range d.mapPages) (fun k u => u.clearPte asid (d.mapPage k)) (s.unexported asid d))).sameMaps
  have hpte (a va : Nat) : (s.unmapped asid d).pte a va =
      (each (List.range d.mapPages) (fun k u => u.clearPte asid (d.mapPage k)) (s.unexported asid d)).pte a va :=
    congrArg (look 0 · (pteKey a 3 va)) hpins.ptes
  obtain ⟨hqueues, hothers, hturn⟩ := hcleared
  refine ⟨hpins.queues.trans hqueues, fun a va hva hpage hout => ?_, fun k hk => ?_⟩
  · exact (hpte a va).trans (hothers a va fun k hk => d.mapPage_outside hgood hva hpage hout hk)
  · obtain ⟨u, -, -, hleaf⟩ := hturn k hk
    rw [State.isMapped, hpte, hleaf, State.clearPte_pte, if_pos rfl]
    rfl

/-! ### CLASS (R391) -/

theorem InProgress.mapClass_noDevice {s : State} {q : Nat} {d : Desc} (h : InProgress s q d 9) (hop : d.mapOp = 6)
    (hgood : d.mapBad = false) {k : Nat} (hk : k < d.mapPages) (hnone : s.devPage (s.queue q).set.asid (d.mapPage k) = none) :
    exec (.mapClass q d.index.toNat) s = .next (s.descFail q d.index.toNat stAccess) := by
  have hexec : exec (.mapClass q d.index.toNat) s = execMapClass q d.index.toNat s := by rfl
  have hany : ((List.range d.mapPages).any fun k => (s.devPage (s.queue q).set.asid (d.mapPage k)).isNone) = true :=
    List.any_eq_true.2 ⟨k, List.mem_range.2 hk, by rw [hnone]; rfl⟩
  rw [hexec, execMapClass, h.mapDesc_good hop hgood]
  dsimp only
  rw [if_pos hany]

/-! ### PROTECT -/

/-- A mapped page of the range with new rights. -/
def State.protectPage (s : State) (asid : Nat) (d : Desc) (k : Nat) : State :=
  if s.isMapped asid (d.mapPage k) then s.setPte asid (d.mapPage k) (reprotect (s.pte asid (d.mapPage k)) d.mapRwx d.mapGuard) else s

theorem State.protectPage_onlyPage (s : State) (asid : Nat) (d : Desc) (k : Nat) : s.OnlyPage (s.protectPage asid d k) asid (d.mapPage k) := by
  unfold State.protectPage
  split
  · exact s.setPte_onlyPage _ _ _
  · exact .refl s _ _

theorem State.protectPage_pte {s : State} {asid : Nat} {d : Desc} {k : Nat} (hm : s.isMapped asid (d.mapPage k) = true) :
    (s.protectPage asid d k).pte asid (d.mapPage k) = reprotect (s.pte asid (d.mapPage k)) d.mapRwx d.mapGuard := by
  rw [State.protectPage, if_pos hm, State.setPte_pte_same]

theorem InProgress.mapProtect_eq {s : State} {q : Nat} {d : Desc} (h : InProgress s q d 9) (hop : d.mapOp = 7)
    (hgood : d.mapBad = false) : exec (.mapProtect q d.index.toNat) s =
      .next (s.mapEach q d.index.toNat d fun k u => u.protectPage (u.queue q).set.asid d k) := by
  have hexec : exec (.mapProtect q d.index.toNat) s = execMapProtect q d.index.toNat s := by rfl
  rw [hexec, execMapProtect, h.mapDesc_good hop hgood]
  rfl

theorem Desc.mapRwx_lt (d : Desc) : d.mapRwx < 8 := Nat.mod_lt _ (by decide)

/-! ### Each command of a MAP in progress -/

/-- Every MAP in progress completes; bad fields refuse it, and a mapped page the four that make mappings. -/
theorem InProgress.map_completes {s : State} {q op : Nat} {d : Desc} (h : InProgress s q d 9) (hop : d.mapOp = op)
    {mk : Nat → Nat → Instr} (hmk : (op, mk) ∈ [(0, Instr.mapPool), (1, .mapPrivate), (2, .mapHost), (3, .mapRemote),
      (4, .mapExport), (5, .mapUnmap), (6, .mapClass), (7, .mapProtect)]) :
    ∃ t, exec (mk q d.index.toNat) s = .next t ∧ (d.mapBad = true ∨ op < 4 ∧ s.mapTaken (s.queue q).set.asid d = true →
      Ended t q d.index.toNat stBadDesc 0 ∧ t.ptes = s.ptes) := by
  have hfresh {i : Instr} {k : Desc → State → State} (hexec : exec i s = mapFresh op q d.index.toNat k s) : ∃ t, exec i s = .next t ∧
      (d.mapBad = true ∨ op < 4 ∧ s.mapTaken (s.queue q).set.asid d = true →
        Ended t q d.index.toNat stBadDesc 0 ∧ t.ptes = s.ptes) := by
    obtain ⟨t, ht, hend⟩ := h.mapFresh_refused hop k
    exact ⟨t, hexec.trans ht, fun hbad => hend (hbad.imp_right And.right)⟩
  have hplain (h4 : 4 ≤ op) {i : Instr} {k : Desc → State → State} (hexec : exec i s = mapDesc op q d.index.toNat k s) :
      ∃ t, exec i s = .next t ∧ (d.mapBad = true ∨ op < 4 ∧ s.mapTaken (s.queue q).set.asid d = true →
        Ended t q d.index.toNat stBadDesc 0 ∧ t.ptes = s.ptes) := by
    obtain ⟨t, ht, hend⟩ := h.mapDesc_refused hop k
    exact ⟨t, hexec.trans ht, fun hbad => hend (hbad.resolve_right fun hlow => absurd hlow.1 (by omega))⟩
  simp only [List.mem_cons, List.not_mem_nil, or_false, Prod.mk.injEq] at hmk
  obtain ⟨rfl, rfl⟩ | ⟨rfl, rfl⟩ | ⟨rfl, rfl⟩ | ⟨rfl, rfl⟩ | ⟨rfl, rfl⟩ | ⟨rfl, rfl⟩ | ⟨rfl, rfl⟩ | ⟨rfl, rfl⟩ := hmk
  · exact hfresh (by rfl)
  · exact hfresh (by rfl)
  · exact hfresh (by rfl)
  · exact hfresh (by rfl)
  · exact hplain (by decide) (by rfl)
  · exact hplain (by decide) (by rfl)
  · exact hplain (by decide) (by rfl)
  · exact hplain (by decide) (by rfl)

end Sys2Proof.Machine

open Sys2Proof Sys2Proof.Machine

/-- Settles O45: the step of each MAP in progress is known (`InProgress.mapDesc_eq`, `InProgress.mapFresh_eq`), work page by page
leaves the leaf that each page's own turn gives it (`each_pageByPage`), and the zeroing of a page leaves every leaf as it was
(`State.zeroPage_sameMaps`). -/
theorem mapDescriptors : Obligations.MapDescriptors := by
  unfold Obligations.MapDescriptors
  refine ⟨?completes, ?pool, ?host, ?remote, ?exporting, ?unmap, ?classes, ?protect⟩
  case completes => exact fun op mk hmk s q d h hop => h.map_completes hop hmk
  case pool =>
    rintro s q d ⟨⟨h, hop, hgood, hrecov⟩, hfresh⟩
    refine ⟨_, h.mapPool_eq hop hgood hfresh, ?_⟩
    by_cases hshort : s.poolHeld (s.queue q).set.part = true ∨
        (s.poolPick (s.queue q).set.part d.mapPages d.mapCode).length < d.mapPages
    · rw [if_pos hshort, if_pos (by simpa using hshort)]
      exact ⟨h.descFail_ended (by decide), rfl⟩
    · rw [if_neg hshort, if_neg (by simpa using hshort)]
      obtain ⟨hqueues, hmapped⟩ := each_maps (s := s) (asid := (s.queue q).set.asid) (page := d.mapPage)
        (fun k u => u.mapPoolPage_keepsMapped (s.queue q).set.asid d
          ((s.poolPick (s.queue q).set.part d.mapPages d.mapCode).getD k 0) k) (fun k u => u.mapPoolPage_mapped _ d _ k) d.mapPages
      exact ⟨h.done_after hqueues hrecov 0, hmapped⟩
  case host =>
    rintro s q d ⟨⟨h, hop, hgood, hrecov⟩, hfresh⟩
    exact ⟨_, h.mapHost_eq hop hgood hfresh, h.mapEach_setPte hgood hrecov _ rfl⟩
  case remote =>
    rintro s q d ⟨⟨h, hop, hgood, hrecov⟩, hfresh⟩
    exact ⟨_, h.mapRemote_eq hop hgood hfresh, h.mapEach_setPte hgood hrecov _ rfl⟩
  case exporting =>
    rintro s q d ⟨h, hop, hgood, hrecov⟩
    refine ⟨_, h.mapExport_eq hop hgood, fun hnone => ?_, fun p hall hp => ?_⟩
    · rw [if_pos ((s.rangePages_any _ d).2 hnone)]
      exact h.descFail_ended (by decide)
    · have hpages := d.mapPages_pos hgood
      have hevery : ¬ ∃ k, k < d.mapPages ∧ s.devPage (s.queue q).set.asid (d.mapPage k) = none := by
        rintro ⟨k, hk, hnone⟩
        have hsome := hall k hk
        rw [hnone] at hsome
        cases hsome
      rw [if_neg fun hany => hevery ((s.rangePages_any _ d).1 hany), (s.rangePages_head _ hpages).1, hp]
      exact ⟨h.done_after rfl hrecov _, State.exported_first hpages hp⟩
  case unmap =>
    rintro s q d ⟨h, hop, hgood, hrecov⟩
    refine ⟨_, h.mapUnmap_eq hop hgood, fun hnone => ?_⟩
    obtain ⟨hregions, hfab⟩ := s.unmapped_rest (s.queue q).set.asid d
    obtain ⟨hqueues, hothers, hclear⟩ := s.unmapped_pages (s.queue q).set.asid hgood
    have hwait : ∀ r, r < 8 → ((s.unmapped (s.queue q).set.asid d).region r).retireWait = [] := by
      intro r hr
      rw [State.region, hregions]
      exact hnone r hr
    rw [State.retireWaiting_none hwait]
    refine ⟨h.done_after hqueues hrecov 0, hothers, hclear, fun e he => ?_⟩
    have hkept : e ∈ (s.unexported (s.queue q).set.asid d).fab.exports := hfab ▸ he
    have hcond := (List.mem_filter.1 hkept).2
    rintro ⟨hasid, hlo, hhi⟩
    simp [hasid, hlo, hhi] at hcond
  case classes =>
    rintro s q d k ⟨h, hop, hgood, hrecov⟩ hk hnone
    exact ⟨_, h.mapClass_noDevice hop hgood hk hnone, h.descFail_ended (by decide)⟩
  case protect =>
    rintro s q d ⟨h, hop, hgood, hrecov⟩
    have hg (k : Nat) (u : State) (hu : u.queues = s.queues) :
        u.OnlyPage (u.protectPage (u.queue q).set.asid d k) (s.queue q).set.asid (d.mapPage k) := by
      rw [State.asid_of_queues hu]
      exact u.protectPage_onlyPage _ d k
    obtain ⟨hdone, hothers, hturn⟩ := h.mapEach_leaf hgood hrecov hg
    refine ⟨_, h.mapProtect_eq hop hgood, hdone, hothers, fun k hk hm => ?_⟩
    obtain ⟨u, hu, hsame, hleaf⟩ := hturn k hk
    have hum : u.isMapped (s.queue q).set.asid (d.mapPage k) = true := by
      rw [State.isMapped, hsame]
      exact hm
    dsimp only
    rw [hleaf, State.asid_of_queues hu, State.protectPage_pte hum, hsame]
    exact ⟨reprotect_rwx _ _ d.mapRwx_lt, reprotect_guard _ _ d.mapRwx_lt, reprotect_place _ _ d.mapRwx_lt,
      reprotect_mapped _ _ d.mapRwx_lt hm⟩

end

section
/-! PROOF. Power good, PKG_RST_N and REF25, and what a reset keeps (R461, R465, R496, R500, R502; Table 14.2). -/

namespace Sys2Proof.Machine

/-! ### What a reset keeps (Table 14.2) -/

/-- `t` is `s` but for its slots, each of which stands as it stood: active, spare, fenced or fused off. -/
def State.SlotsKept (s t : State) : Prop := { t with slots := s.slots } = s ∧ ∀ k, (t.slot k).status = (s.slot k).status

theorem State.SlotsKept.trans {s t u : State} (h : s.SlotsKept t) (k : t.SlotsKept u) : s.SlotsKept u := by
  obtain ⟨hst, hs⟩ := h
  obtain ⟨htu, ht⟩ := k
  refine ⟨?_, fun j => (ht j).trans (hs j)⟩
  rw [← htu] at hst
  exact hst

theorem State.SlotsKept.field {s t : State} (h : s.SlotsKept t) {α : Type} (π : State → α)
    (hπ : ∀ x : State, π { x with slots := s.slots } = π x) : π t = π s := by
  rw [← hπ t]
  exact congrArg π h.left

theorem State.modSlot_slotsKept (s : State) (k : Nat) : s.SlotsKept (s.modSlot k Slot.kept) := by
  refine ⟨rfl, fun j => ?_⟩
  rw [State.modSlot_slot]
  split
  · next h => rw [h]; rfl
  · rfl

theorem State.each_slotsKept (s : State) (ks : List Nat) : s.SlotsKept (each ks (fun k s => s.modSlot k Slot.kept) s) :=
  List.foldlRecOn (motive := s.SlotsKept) ks _ ⟨rfl, fun _ => rfl⟩ fun t h k _ => h.trans (t.modSlot_slotsKept k)

/-- What both resets leave: start-up is in RESET on the sides given, no work is left, and memory is undefined. -/
structure State.ResetTo (s t : State) (b : Boot) (fab : Fab) : Prop where
  boot : t.boot = b
  fab : t.fab = fab
  queues : t.queues = []
  cores : t.cores = []
  lcores : t.lcores = s.lcores
  host : t.host = s.host
  status : ∀ k, (t.slot k).status = (s.slot k).status
  mem : t.mem = Mem.lost_ s.free

theorem State.ResetTo.of_onBoot {s t : State} {g : Boot → Boot} {b : Boot} {fab : Fab} (h : (s.onBoot g).ResetTo t b fab) :
    s.ResetTo t b fab := ⟨h.boot, h.fab, h.queues, h.cores, h.lcores, h.host, h.status, h.mem⟩

theorem State.fresh_resetTo (s : State) (b : Boot) (fab : Fab) (die : Die → Die) : s.ResetTo (s.fresh b fab die) b fab := by
  obtain ⟨u, hkept, hboot, hfab, hqueues, hcores, hlcores, hhost, hslots, hmem⟩ : ∃ u : State, u.SlotsKept (s.fresh b fab die) ∧ u.boot = b ∧
      u.fab = fab ∧ u.queues = [] ∧ u.cores = [] ∧ u.lcores = s.lcores ∧ u.host = s.host ∧ u.slots = s.slots ∧
      u.mem = Mem.lost_ s.free := ⟨_, State.each_slotsKept _ _, rfl, rfl, rfl, rfl, rfl, rfl, rfl, rfl⟩
  have hslot (k : Nat) : u.slot k = s.slot k := by rw [State.slot, hslots]; rfl
  exact ⟨(hkept.field State.boot fun _ => rfl).trans hboot, (hkept.field State.fab fun _ => rfl).trans hfab,
    (hkept.field State.queues fun _ => rfl).trans hqueues, (hkept.field State.cores fun _ => rfl).trans hcores,
    (hkept.field State.lcores fun _ => rfl).trans hlcores, (hkept.field State.host fun _ => rfl).trans hhost,
    fun k => (hkept.right k).trans (congrArg Slot.status (hslot k)), (hkept.field State.mem fun _ => rfl).trans hmem⟩

theorem State.coldReset_resetTo (s : State) : s.ResetTo s.coldReset s.boot.cold
    { engines := remap {} s.fab.engines fun e => { good := e.good } } := s.fresh_resetTo _ _ _

theorem State.packageReset_resetTo {s : State} (h : s.boot.tripLayer = 0) (cause : Nat) :
    s.ResetTo (s.packageReset cause) (s.boot.warm cause) (if cause = 1 then s.fab.warm.stop else s.fab.warm) := by
  rw [State.packageReset, if_neg fun hne => hne h]
  exact s.fresh_resetTo _ _ _

/-! ### Power good and PKG_RST_N (R372, R509) -/

/-- At the reference of a start the host mode is the strap; the grants aside, nothing else changes but the reference itself. -/
theorem State.release_leaves (s : State) :
    { s.release.boot with hostMode := s.boot.hostMode, startRef := s.boot.startRef } = s.boot ∧ s.release.mem = s.mem ∧
      (s.powered = true → s.boot.pkgRstN = true → s.release.boot.hostMode = s.boot.strap) := by
  have hgrants (t : State) : ((List.range 8).foldl (fun s p => s.modPart p fun x => { x with grant := 1, grantReq := 1 }) t).boot = t.boot ∧
      ((List.range 8).foldl (fun s p => s.modPart p fun x => { x with grant := 1, grantReq := 1 }) t).mem = t.mem :=
    List.foldlRecOn (motive := fun u : State => u.boot = t.boot ∧ u.mem = t.mem) _ _ ⟨rfl, rfl⟩ fun u h p _ => h
  unfold State.release
  split
  · dsimp only
    split
    · exact ⟨rfl, rfl, fun _ _ => rfl⟩
    · obtain ⟨hboot, hmem⟩ := hgrants (s.onBoot fun b => { b with hostMode := b.strap, startRef := s.ticks.toNat })
      rw [hboot, hmem]
      exact ⟨rfl, rfl, fun _ _ => rfl⟩
  · next hoff => exact ⟨rfl, rfl, fun hpower hrst => absurd (by rw [hpower, hrst]; rfl) hoff⟩

/-- A pin that rises, and the start that it may begin: the pin reads as it was set, and the host mode is the strap. -/
theorem State.rise_leaves (s : State) (g : Boot → Boot) :
    let t := (s.onBoot g).release
    { t.boot with hostMode := (g s.boot).hostMode, startRef := (g s.boot).startRef } = g s.boot ∧ t.mem = s.mem ∧
      (t.powered = true → t.boot.pkgRstN = true → t.boot.hostMode = t.boot.strap) := by
  obtain ⟨hboot, hmem, hmode⟩ := (s.onBoot g).release_leaves
  have hfield {α : Type} (π : Boot → α) (hπ : ∀ (b : Boot) m r, π { b with hostMode := m, startRef := r } = π b) :
      π (s.onBoot g).release.boot = π (g s.boot) := (hπ _ _ _).symm.trans (congrArg π hboot)
  refine ⟨hboot, hmem, fun hpower hrst => ?_⟩
  rw [hmode ((hfield (fun b => b.pwrokMain && b.pwrokAon && b.tripLayer == 0) fun _ _ _ => rfl).symm.trans hpower)
    ((hfield Boot.pkgRstN fun _ _ _ => rfl).symm.trans hrst)]
  exact (hfield Boot.strap fun _ _ _ => rfl).symm

/-! ### Pins that fall (R461, R465, R502) -/

/-- The package with PWROK_MAIN low. -/
def State.mainLow (s : State) : State := s.onBoot fun b => { b with pwrokMain := false }

/-- The package with PKG_RST_N low. -/
def State.rstLow (s : State) : State := s.onBoot fun b => { b with pkgRstN := false }

/-- The package without REF25. -/
def State.refLow (s : State) : State := s.onBoot fun b => { b with ref25 := false }

theorem exec_pwrokMainFall {s : State} (h : s.boot.pwrokMain = true) : exec .pwrokMainFall s = .next (
    if s.boot.tripLayer ≠ 0 || !s.boot.pwrokAon then s.mainLow
    else (s.mainLow.onBoot fun b => { b with pwrokLost := some 0 }).packageReset 1) := by
  have hexec : exec .pwrokMainFall s = execPwrokMainFall s := by rfl
  rw [hexec, execPwrokMainFall, h]
  exact (apply_ite Host.Outcome.next _ _ _).symm

theorem exec_pkgRstNAssert {s : State} (h : s.boot.pkgRstN = true) :
    exec .pkgRstNAssert s = .next (if s.powered then s.rstLow.packageReset 0 else s.rstLow) := by
  have hexec : exec .pkgRstNAssert s = execPkgRstNAssert s := by rfl
  rw [hexec, execPkgRstNAssert, h]
  exact (apply_ite Host.Outcome.next _ _ _).symm

theorem exec_ref25Loss {s : State} (haon : s.boot.pwrokAon = true) (h : s.boot.ref25 = true) : exec .ref25Loss s = .next (
    if s.boot.tripLayer ≠ 0 then s.refLow else s.refLow.tripNow 6 (locOf 0 0) 0 0) := by
  have hexec : exec .ref25Loss s = execRef25Loss s := by rfl
  rw [hexec, execRef25Loss, haon, h]
  exact (apply_ite Host.Outcome.next _ _ _).symm

end Sys2Proof.Machine

open Sys2Proof Sys2Proof.Machine

/-- Settles O49: both resets build the state anew on the two sides given (`State.fresh_resetTo`), and a pin that rises changes
its own bit before the start that it may begin (`State.rise_leaves`). -/
theorem resetsAndPowerGood : Obligations.ResetsAndPowerGood := by
  unfold Obligations.ResetsAndPowerGood
  intro reset on
  have hreset {s t : State} {b : Boot} {fab : Fab} (h : s.ResetTo t b fab) (hstate : b.state = .reset) (hmainland : b.mainland = false)
      (hfuses : b.fuses = s.boot.fuses) : reset s t := by
    refine ⟨?_, ?_, h.queues, h.cores, ?_, h.lcores, h.host, h.status, ?_, s.free, ?_⟩
    · rw [h.boot, hstate]
    · rw [h.boot, hmainland]
    · rw [h.boot, hfuses]
    · rw [h.mem]; rfl
    · rw [h.mem]; rfl
  refine ⟨?aonRise, ?mainRise, ?rstRise, ?aonFall, ?mainFall, ?rstFall, ?refLoss, ?refReturn⟩
  case aonRise =>
    intro s hlow
    have hexec : exec .pwrokAonRise s = execPwrokAonRise s := by rfl
    obtain ⟨hboot, hmem, hmode⟩ := s.rise_leaves fun b => { b with pwrokAon := true }
    rw [hexec, execPwrokAonRise, hlow]
    exact ⟨_, rfl, congrArg Boot.pwrokAon hboot, hmode, hmem⟩
  case mainRise =>
    intro s hlow
    have hexec : exec .pwrokMainRise s = execPwrokMainRise s := by rfl
    obtain ⟨hboot, hmem, hmode⟩ := s.rise_leaves fun b => { b with pwrokMain := true }
    rw [hexec, execPwrokMainRise, hlow]
    exact ⟨_, rfl, congrArg Boot.pwrokMain hboot, hmode, hmem⟩
  case rstRise =>
    intro s hlow
    have hexec : exec .pkgRstNRelease s = execPkgRstNRelease s := by rfl
    obtain ⟨hboot, hmem, hmode⟩ := s.rise_leaves fun b => { b with pkgRstN := true }
    rw [hexec, execPkgRstNRelease, hlow]
    exact ⟨_, rfl, congrArg Boot.pkgRstN hboot, hmode, hmem⟩
  case aonFall =>
    intro s hhigh
    have hexec : exec .pwrokAonFall s = execPwrokAonFall s := by rfl
    have hcold := (s.onBoot fun b => { b with pwrokAon := false, pwrokLost := some 1 }).coldReset_resetTo
    rw [hexec, execPwrokAonFall, hhigh]
    exact ⟨_, rfl, congrArg Boot.pwrokAon hcold.boot, congrArg Boot.tripLayer hcold.boot, hreset hcold.of_onBoot rfl rfl rfl⟩
  case mainFall =>
    intro s hhigh
    refine ⟨_, exec_pwrokMainFall hhigh, ?_⟩
    by_cases hstays : (s.boot.tripLayer ≠ 0 || !s.boot.pwrokAon) = true
    · rw [if_pos hstays]
      refine ⟨rfl, fun hlayer haon => ?_, fun _ => congrArg (fun p => { s with boot := { s.boot with pwrokMain := p } }) hhigh.symm⟩
      exact absurd hstays (by simp [hlayer, haon])
    · rw [if_neg hstays]
      have hlayer : s.boot.tripLayer = 0 := by_contra fun htrip => hstays (by simp [htrip])
      have hwarm := (s.mainLow.onBoot fun b => { b with pwrokLost := some 0 }).packageReset_resetTo hlayer 1
      exact ⟨congrArg Boot.pwrokMain hwarm.boot, fun _ _ => ⟨hreset hwarm.of_onBoot.of_onBoot rfl rfl rfl,
        (congrArg Fab.forwarding hwarm.fab).trans rfl, (congrArg Boot.debug hwarm.boot).trans rfl⟩, fun htrip => absurd hlayer htrip⟩
  case rstFall =>
    intro s hhigh
    refine ⟨_, exec_pkgRstNAssert hhigh, ?_⟩
    by_cases hpower : s.powered = true
    · rw [if_pos hpower]
      have hlayer : s.boot.tripLayer = 0 := by
        rw [State.powered, Bool.and_eq_true, beq_iff_eq] at hpower
        exact hpower.right
      have hwarm := s.rstLow.packageReset_resetTo hlayer 0
      exact ⟨congrArg Boot.pkgRstN hwarm.boot, fun _ => ⟨hreset hwarm.of_onBoot rfl rfl rfl,
        (congrArg Fab.forwarding hwarm.fab).trans rfl, (congrArg Boot.debug hwarm.boot).trans rfl⟩, fun htrip => absurd hlayer htrip⟩
    · rw [if_neg hpower]
      exact ⟨rfl, fun hon => absurd hon hpower, fun _ =>
        congrArg (fun p => { s with boot := { s.boot with pkgRstN := p } }) hhigh.symm⟩
  case refLoss =>
    intro s haon hruns
    refine ⟨_, exec_ref25Loss haon hruns, ?_⟩
    by_cases htrip : s.boot.tripLayer ≠ 0
    · rw [if_pos htrip]
      exact ⟨rfl, fun hlayer => absurd hlayer htrip, fun _ =>
        congrArg (fun p => { s with boot := { s.boot with ref25 := p } }) hruns.symm⟩
    · rw [if_neg htrip]
      exact ⟨rfl, fun _ => ⟨rfl, rfl, rfl⟩, fun hnow => absurd hnow htrip⟩
  case refReturn =>
    intro s hlost
    have hexec : exec .ref25Return s = execRef25Return s := by rfl
    rw [hexec, execRef25Return, hlost]
    refine ⟨_, rfl, rfl, fun hlast => ?_, fun hlast => ?_⟩
    · simp [State.onBoot, hlast]
    · simp [State.onBoot, hlast]
end

section
/-! PROOF. What reading the doorbell record and writing the completion ring change: the ring's side of one queue, and what the hosts see
(R381 to R384, R392 to R394). -/

namespace Sys2Proof.Machine

/-- `y` is `x` but for the doorbell record last read, the entries that wait and those written, and the error state. -/
def Queue.RingOnly (x y : Queue) : Prop :=
  { y with prod := x.prod, cqHead := x.cqHead, active := x.active, err := x.err, waiting := x.waiting, cqTail := x.cqTail } = x

theorem Queue.RingOnly.trans {x y z : Queue} (h : x.RingOnly y) (k : y.RingOnly z) : x.RingOnly z := by
  unfold Queue.RingOnly at h k ⊢
  rw [← k] at h
  exact h

theorem Queue.RingOnly.field {x y : Queue} (h : x.RingOnly y) {α : Type} (π : Queue → α)
    (hπ : ∀ z : Queue, π { z with prod := x.prod, cqHead := x.cqHead, active := x.active, err := x.err, waiting := x.waiting,
                                  cqTail := x.cqTail } = π z) : π y = π x := by
  rw [← hπ y]
  exact congrArg π h

theorem Queue.checkProd_ringOnly (x : Queue) : x.RingOnly x.checkProd := by
  unfold Queue.checkProd
  split <;> exact rfl

/-- From `s` to `t` the ring's side of queue `q` has moved on; the other queues, the units and memory are as they were. -/
structure State.RingWork (q : Nat) (s t : State) : Prop where
  queue : (s.queue q).RingOnly (t.queue q)
  others : ∀ k, k ≠ q → t.queue k = s.queue k
  outside : s.SameUnits { t with queues := s.queues }

namespace State.RingWork

variable {q : Nat} {s t u : State}

theorem trans (h : s.RingWork q t) (k : t.RingWork q u) : s.RingWork q u := by
  refine ⟨h.queue.trans k.queue, fun j hj => (k.others j hj).trans (h.others j hj), h.outside.trans ?_⟩
  have hrest := congrArg (fun x : State => { x with queues := s.queues }) k.outside
  exact hrest

theorem of_sameUnits (h : s.SameUnits t) : s.RingWork q t := by
  have hqueues : t.queues = s.queues := h.field State.queues fun _ => rfl
  have hqueue (k : Nat) : t.queue k = s.queue k := by rw [State.queue, hqueues]; rfl
  refine ⟨?_, fun k _ => hqueue k, ?_⟩
  · rw [hqueue]; rfl
  · rw [← hqueues]; exact h

theorem refl : s.RingWork q s := of_sameUnits (.refl s)

end State.RingWork

theorem State.modQueue_ringWork (s : State) (q : Nat) {g : Queue → Queue} (hg : ∀ x : Queue, x.RingOnly (g x)) :
    s.RingWork q (s.modQueue q g) := by
  refine ⟨?_, fun k hk => ?_, rfl⟩
  · rw [State.modQueue_queue, if_pos rfl]; exact hg _
  · rw [State.modQueue_queue, if_neg hk]

theorem State.doorbell_ringWork (s : State) (q : Nat) : s.RingWork q (s.doorbell q) := by
  unfold State.doorbell
  dsimp only
  split
  · refine s.modQueue_ringWork q fun x => Queue.RingOnly.trans ?_ (Queue.checkProd_ringOnly _)
    rfl
  · exact .refl

theorem State.cqWriteOne_ringWork (s : State) (q : Nat) : s.RingWork q (s.cqWriteOne q) := by
  unfold State.cqWriteOne
  dsimp only
  split
  · exact .refl
  · next e r _ =>
    generalize hhost : (s.hostWrite _ _ _ _).hostWrite _ _ _ _ = t
    have hwritten : s.RingWork q t :=
      hhost ▸ .of_sameUnits ((hostWrite_only ..).trans (hostWrite_only ..)).sameUnits
    have hmoved : s.RingWork q (t.modQueue q fun x => { x with waiting := r, cqTail := x.cqTail + 1 }) :=
      hwritten.trans (t.modQueue_ringWork q fun _ => rfl)
    split
    · exact hmoved.trans (.of_sameUnits (irqCount_only ..).sameUnits)
    · exact hmoved

theorem State.cqFlush_ringWork (s : State) (q fuel : Nat) : s.RingWork q (s.cqFlush q fuel) := by
  induction fuel generalizing s with
  | zero => exact .refl
  | succ fuel ih =>
    have hread : s.RingWork q (if (s.queue q).cqRoom then s else s.doorbell q) := by
      split
      · exact .refl
      · exact s.doorbell_ringWork q
    rw [State.cqFlush]
    split
    · exact .refl
    · dsimp only
      generalize (if (s.queue q).cqRoom then s else s.doorbell q) = t at hread ⊢
      split
      · exact (hread.trans (t.cqWriteOne_ringWork q)).trans (ih _)
      · exact hread

/-- A completion counts the descriptor and takes it out of its queue; its entry is the ring's work (R392, R393). -/
theorem State.completeDesc_ringWork (s : State) (q : Nat) (d : Desc) (st : BitVec 8) (r : BitVec 64) :
    (s.touch.putQueue q ((s.queue q).complete d (s.producerNames q d.index.toNat))).RingWork q (s.completeDesc q d st r) := by
  unfold State.completeDesc
  dsimp only
  have hqueue : s.touch.queue q = s.queue q := rfl
  have hnames : s.touch.producerNames q d.index.toNat = s.producerNames q d.index.toNat := rfl
  rw [hqueue, hnames]
  generalize s.touch.putQueue q ((s.queue q).complete d (s.producerNames q d.index.toNat)) = t
  split
  · exact .refl
  · refine (t.modQueue_ringWork q fun _ => ?_).trans (State.cqFlush_ringWork _ q _)
    rfl

/-- With no disable under way there is none to end. -/
theorem State.disableSettle_of_enabled {s : State} {q : Nat} (h : (s.queue q).disabling = false) : s.disableSettle q = s := by
  rw [State.disableSettle, h, Bool.false_and, Bool.false_and, if_neg Bool.false_ne_true]

end Sys2Proof.Machine
end

section
/-! PROOF. Completions, the watchdog and a unit given up, interrupts, the configuration space and ATS (R369, R375, R376, R391 to R394,
R408, R411). -/

namespace Sys2Proof.Machine

/-! ### Descriptors (R391 to R393, R408) -/

/-- What stops a descriptor in progress that is no open COLLECTIVE ends it. -/
theorem InProgress.descStop_ended {s : State} {q : Nat} {d : Desc} {opc : Nat} (h : InProgress s q d opc) {st : BitVec 8}
    (hst : st ≠ stDone) (hcoll : s.collOfDesc q d.index.toNat = none) :
    Ended (s.descStop q d.index.toNat st) q d.index.toNat st 0 := by
  rw [State.descStop, hcoll]
  exact h.descFail_ended hst

theorem InProgress.watchdog_eq {s : State} {q : Nat} {d : Desc} {opc : Nat} (h : InProgress s q d opc) (hopc : opc ≠ 1)
    (hwd : (s.queue q).set.wdMs ≠ 0) :
    exec (.descriptorWatchdog q d.index.toNat) s = .next (s.descStop q d.index.toNat stWatchdog) := by
  have hexec : exec (.descriptorWatchdog q d.index.toNat) s = execDescriptorWatchdog q d.index.toNat s := by rfl
  obtain ⟨hq, hup, hlive, hop, hrun, -⟩ := h
  rw [hexec, execDescriptorWatchdog, unit, if_pos hq, need, if_pos hup, hlive]
  exact if_pos (by simp [hrun, hop, hopc, hwd])

/-- A CHECK whose unit has been given up: the running value, the offset and the open block stay. -/
def Desc.offUnit (d : Desc) : Desc := { d with check := { d.check with onUnit := false } }

section Completion

variable {s : State} {q : Nat} {d : Desc} (hq : q < queueCount) (hup : s.mainlandUp = true) (hlive : s.live? q d.index.toNat = some d)
include hq hup hlive

theorem exec_descriptorCompletion_finished {st : BitVec 8} {r : BitVec 64} (hphase : d.phase = .finished st r) (e : Nat) :
    exec (.descriptorCompletion q d.index.toNat e) s =
      .next ((s.completeDesc q d st (if d.opc = 1 then r + bits 64 e else r)).disableSettle q) := by
  have hexec : exec (.descriptorCompletion q d.index.toNat e) s = execDescriptorCompletion q d.index.toNat e s := by rfl
  rw [hexec, execDescriptorCompletion, unit, if_pos hq, need, if_pos hup, hlive]
  dsimp only
  rw [hphase]

theorem exec_descriptorCompletion_reserved (hphase : d.phase = .fetched) (hreserved : d.reserved = true)
    (hstart : s.mayStart q d = true) (e : Nat) : exec (.descriptorCompletion q d.index.toNat e) s =
      .next ((s.begin_ q d.index.toNat).completeDesc q d stBadDesc 0) := by
  have hexec : exec (.descriptorCompletion q d.index.toNat e) s = execDescriptorCompletion q d.index.toNat e s := by rfl
  rw [hexec, execDescriptorCompletion, unit, if_pos hq, need, if_pos hup, hlive]
  dsimp only
  rw [hphase, hreserved, hstart]
  rfl

theorem exec_checkSwitch (hrun : d.phase = .running) (hunit : d.check.onUnit = true) (hdue : s.switchDue q d = true) :
    exec (.checkSwitch q d.index.toNat) s = .next (s.modDesc q d.index.toNat Desc.offUnit) := by
  have hexec : exec (.checkSwitch q d.index.toNat) s = execCheckSwitch q d.index.toNat s := by rfl
  rw [hexec, execCheckSwitch, unit, if_pos hq, need, if_pos hup, hlive]
  exact if_pos (by rw [hrun, hunit, hdue]; rfl)

end Completion

/-- A completed descriptor is counted and no longer in its queue. -/
theorem State.completeDesc_counts (s : State) (q : Nat) (d : Desc) (st : BitVec 8) (r : BitVec 64) :
    ((s.completeDesc q d st r).queue q).descs = (s.queue q).descs.filter (fun x => x.index != d.index) ∧
      ((s.completeDesc q d st r).queue q).done = (s.queue q).done + 1 ∧
      ((s.completeDesc q d st r).queue q).disabling = (s.queue q).disabling := by
  have hring := (s.completeDesc_ringWork q d st r).queue
  rw [State.putQueue_queue, if_pos rfl] at hring
  exact ⟨hring.field Queue.descs fun _ => rfl, hring.field Queue.done fun _ => rfl, hring.field Queue.disabling fun _ => rfl⟩

/-! ### Interrupts and the event log (R394, R411) -/

/-- A vector whose message is due: pending where it is masked, dropped where its port is down, sent otherwise. -/
def IrqSt.due (i : IrqSt) (up : Bool) : IrqSt :=
  if i.masked then { i with counted := 0, pend := true } else if !up then { i with counted := 0 }
  else { i with counted := 0, sent := i.sent + 1 }

theorem State.irqSend_look {s : State} (h : s.multipath = false) (k v : Nat) :
    look {} ((s.irqSend k v).func k).irq v = IrqSt.due (look {} (s.func k).irq v) (s.port (k / 32)).up := by
  simp [State.irqSend, State.irqOwner, h, IrqSt.due]

/-- A vector unmasked sends the message that was pending. -/
def IrqSt.unmask (i : IrqSt) : IrqSt :=
  if i.pend then { i with masked := false, pend := false, sent := i.sent + 1 } else { i with masked := false }

theorem IrqSt.unmask_open (i : IrqSt) : i.unmask.masked = false ∧ i.unmask.pend = false ∧
    i.unmask.sent = if i.pend then i.sent + 1 else i.sent := by
  unfold IrqSt.unmask
  cases i.pend <;> exact ⟨rfl, rfl, rfl⟩

section Functions

variable {s : State} {port fn : Nat} (hport : port < 2) (hfn : fn < 32)
include hport hfn

theorem exec_irqModTimeout {v : Nat} (hv : v < 2048) (hmulti : s.multipath = false)
    (hcounted : 0 < (look {} (s.func (fnKey port fn)).irq v).counted) (hmod : fld (look {} (s.func (fnKey port fn)).irq v).mod 8 16 ≠ 0) :
    exec (.irqModTimeout port fn v) s = .next (s.irqSend (fnKey port fn) v) := by
  have hexec : exec (.irqModTimeout port fn v) s = execIrqModTimeout port fn v s := by rfl
  have hkey : s.fnOf port fn = fnKey port fn := by rw [State.fnOf, hmulti]; rfl
  rw [hexec, execIrqModTimeout, unit, if_pos hport, unit, if_pos hfn, unit, if_pos hv, hkey]
  exact if_pos (by rw [decide_eq_true hcounted, bne_iff_ne.2 hmod]; rfl)

theorem exec_msixUnmask {v : Nat} (hv : v < 2048) (hup : s.skerryUp = true) (hthere : s.fnThere port fn = true) :
    exec (.msixUnmask port fn v) s = .next (s.modFunc (s.fnOf port fn) fun f =>
      { f with irq := put {} f.irq v (look {} f.irq v).unmask }) := by
  have hexec : exec (.msixUnmask port fn v) s = execMsixUnmask port fn v s := by rfl
  rw [hexec, execMsixUnmask, unit, if_pos hport, unit, if_pos hfn, unit, if_pos hv]
  exact if_pos (by rw [hup, hthere]; rfl)

theorem exec_atsInvalidation (page n : Nat) (hup : s.skerryUp = true) (hlink : (s.port port).up = true) :
    exec (.atsInvalidation port fn page n) s = .next (s.modPort port fun p =>
      { p with ats := p.ats.filter fun x => !(x.1 == fn && decide (page ≤ x.2) && decide (x.2 < page + n)) }) := by
  have hexec : exec (.atsInvalidation port fn page n) s = execAtsInvalidation port fn page n s := by rfl
  rw [hexec, execAtsInvalidation, unit, if_pos hport, unit, if_pos hfn]
  exact if_pos (by rw [hup, hlink]; rfl)

end Functions

theorem hostWrites_only (s : State) (port space : Nat) (ws : List Host.Cell) : RecordOnly s (s.hostWrites port space ws) :=
  List.foldlRecOn (motive := RecordOnly s) ws _ (.refl s) fun _ h _ _ => h.trans (hostWrite_only ..)

theorem exec_eventLogFullRecheck {s : State} {n : Nat} (hn : n < 2) (hup : s.skerryUp = true) (hon : (s.port n).evlOn = true)
    (hfull : s.evlRoom n = false) (ws : List Host.Cell) :
    ∃ t, exec (.eventLogFullRecheck n ws) s = .next t ∧ RecordOnly s t := by
  have hexec : exec (.eventLogFullRecheck n ws) s = execEventLogFullRecheck n ws s := by rfl
  rw [hexec, execEventLogFullRecheck, unit, if_pos hn, need, if_pos hup, need, hon, hfull]
  exact ⟨_, rfl, ((hostWrites_only ..).trans (modPort_only ..)).trans (evlFlush_only ..)⟩

/-! ### The configuration space (R369, R375, R376) -/

section Configuration

variable {s : State} {port : Nat} (hport : port < 2) (hup : s.skerryUp = true) (hthere : s.portThere port = true)
  (hlink : (s.port port).up = true)
include hport hup hthere hlink

theorem exec_configurationWrite_numVfs (n : Nat) : exec (.configurationWrite port (.numVfs n)) s =
    .next (if n ≤ 31 && !(s.multipath && port == 1) then s.setVfs port n else s) := by
  have hexec : exec (.configurationWrite port (.numVfs n)) s = execConfigurationWrite port (.numVfs n) s := by rfl
  rw [hexec, execConfigurationWrite, unit, if_pos hport]
  exact if_pos (by rw [hup, hthere, hlink]; rfl)

theorem exec_configurationWrite_bar2 {fn l : Nat} (hfn : s.fnThere port fn = true) (hlo : 30 ≤ l) (hhi : l ≤ 40) :
    exec (.configurationWrite port (.bar2 fn l)) s = .next (s.modFunc (s.fnOf port fn) fun f => { f with bar2Log2 := l }) := by
  have hexec : exec (.configurationWrite port (.bar2 fn l)) s = execConfigurationWrite port (.bar2 fn l) s := by rfl
  rw [hexec, execConfigurationWrite, unit, if_pos hport, need, if_pos (by rw [hup, hthere, hlink]; rfl)]
  exact congrArg _ (if_pos (by simp [hfn, hlo, hhi]))

theorem exec_configurationWrite_power (d : Bool) :
    exec (.configurationWrite port (.power d)) s = .next (s.modPort port fun p => { p with d3 := d }) := by
  have hexec : exec (.configurationWrite port (.power d)) s = execConfigurationWrite port (.power d) s := by rfl
  rw [hexec, execConfigurationWrite, unit, if_pos hport]
  exact if_pos (by rw [hup, hthere, hlink]; rfl)

theorem exec_configurationWrite_pasid {fn : Nat} (hfn : s.fnThere port fn = true) (e : Bool) :
    exec (.configurationWrite port (.pasid fn e)) s = .next (s.modFunc (s.fnOf port fn) fun f => { f with pasidCap := e }) := by
  have hexec : exec (.configurationWrite port (.pasid fn e)) s = execConfigurationWrite port (.pasid fn e) s := by rfl
  rw [hexec, execConfigurationWrite, unit, if_pos hport, need, if_pos (by rw [hup, hthere, hlink]; rfl)]
  exact congrArg _ (if_pos hfn)

/-- An MSI-X table entry written; a message that was pending is sent where the entry unmasks its vector. -/
theorem exec_configurationWrite_msix {fn v : Nat} (hfn : s.fnThere port fn = true) (hv : v < 2048) (a : BitVec 64) (d : BitVec 32)
    (m : Bool) : ∃ t, exec (.configurationWrite port (.msix fn v a d m)) s = .next t ∧
      let j : IrqSt := look {} (t.func (s.fnOf port fn)).irq v
      j.addr = a ∧ j.data = d ∧ j.masked = m := by
  have hexec : exec (.configurationWrite port (.msix fn v a d m)) s = execConfigurationWrite port (.msix fn v a d m) s := by rfl
  rw [hexec, execConfigurationWrite, unit, if_pos hport, need, if_pos (by rw [hup, hthere, hlink]; rfl)]
  dsimp only
  rw [unit, if_pos hv, if_pos hfn]
  refine ⟨_, rfl, ?_⟩
  rw [State.modFunc_func, if_pos rfl]
  dsimp only
  rw [look_put_same]
  split <;> exact ⟨rfl, rfl, rfl⟩

end Configuration

end Sys2Proof.Machine

open Sys2Proof Sys2Proof.Machine

/-- Settles O46: a completion is a count and the ring's work (`State.completeDesc_counts`), a due message changes its vector alone
(`State.irqSend_look`), and each option of the configuration space is the one change that it names. -/
theorem completionsAndInterrupts : Obligations.CompletionsAndInterrupts := by
  unfold Obligations.CompletionsAndInterrupts
  refine ⟨?watchdog, ?completion, ?reserved, ?switch, ?moderation, ?unmask, ?eventLog, ?configuration, ?ats⟩
  case watchdog =>
    exact fun s q d opc h hopc hwd => ⟨_, h.watchdog_eq hopc hwd, h.descStop_ended (by decide)⟩
  case completion =>
    intro s q d st r e hq hup hlive hphase hon
    refine ⟨_, exec_descriptorCompletion_finished hq hup hlive hphase e, ?_⟩
    obtain ⟨hdescs, hdone, hdisabling⟩ := s.completeDesc_counts q d st (if d.opc = 1 then r + bits 64 e else r)
    rw [State.disableSettle_of_enabled (hdisabling.trans hon)]
    exact ⟨hdescs, hdone⟩
  case reserved =>
    exact fun s q d e hq hup hlive hphase hreserved hstart =>
      ⟨_, exec_descriptorCompletion_reserved hq hup hlive hphase hreserved hstart e⟩
  case switch =>
    intro s q d hq hup hlive hrun hunit hbound hbusy hlowest hwaits
    have hdue : s.switchDue q d = true := by
      have hall : s.chkClasses.all (fun k => decide (k ≤ s.queueClass q)) = true :=
        List.all_eq_true.2 fun k hk => decide_eq_true (hlowest k hk)
      rw [State.switchDue, hbound, hbusy, hall, hwaits]
      rfl
    refine ⟨_, exec_checkSwitch hq hup hlive hrun hunit hdue, fun x hx => ?_⟩
    rw [State.modDesc_desc? (g := Desc.offUnit) (fun _ => rfl) hlive] at hx
    obtain rfl := Option.some.inj hx
    exact ⟨rfl, rfl, rfl⟩
  case moderation =>
    intro s port fn v hport hfn hv hmulti i hcounted hmod
    refine ⟨_, exec_irqModTimeout hport hfn hv hmulti hcounted hmod, ?_⟩
    have hkey : fnKey port fn / 32 = port := by unfold fnKey; omega
    rw [State.irqSend_look hmulti, hkey]
    refine ⟨?_, fun hmasked => ?_, fun hopen hlink => ?_, rfl⟩
    · unfold IrqSt.due
      split
      · rfl
      · split <;> rfl
    · rw [IrqSt.due, if_pos hmasked]
      exact ⟨rfl, rfl⟩
    · rw [IrqSt.due, if_neg (Bool.eq_false_iff.1 hopen), hlink]
      rfl
  case unmask =>
    intro s port fn v hport hfn hv hup hthere
    refine ⟨_, exec_msixUnmask hport hfn hv hup hthere, ?_⟩
    rw [State.modFunc_func, if_pos rfl]
    dsimp only
    rw [look_put_same]
    obtain ⟨hmasked, hpend, hsent⟩ := (look {} (s.func (s.fnOf port fn)).irq v).unmask_open
    exact ⟨hmasked, hpend, hsent, rfl⟩
  case eventLog =>
    intro s n ws hn hup hon hfull
    obtain ⟨t, ht, honly⟩ := exec_eventLogFullRecheck hn hup hon hfull ws
    exact ⟨t, ht, honly.sameUnits.field State.mem fun _ => rfl, honly.sameUnits.field State.queues fun _ => rfl⟩
  case configuration =>
    intro s port hport hup hthere hlink
    refine ⟨fun n => ⟨_, exec_configurationWrite_numVfs hport hup hthere hlink n, fun hmost hfirst => ?_⟩,
      fun fn l hfn hlo hhi => ⟨_, exec_configurationWrite_bar2 hport hup hthere hlink hfn hlo hhi, ?_⟩,
      fun d => ⟨_, exec_configurationWrite_power hport hup hthere hlink d, ?_, rfl⟩,
      fun fn e hfn => ⟨_, exec_configurationWrite_pasid hport hup hthere hlink hfn e, ?_⟩,
      fun fn v a d m hfn hv => exec_configurationWrite_msix hport hup hthere hlink hfn hv a d m⟩
    · have hallowed : (decide (n ≤ 31) && !(s.multipath && port == 1)) = true := by
        cases hmulti : s.multipath with
        | true => rw [decide_eq_true hmost, hfirst hmulti]; rfl
        | false => rw [decide_eq_true hmost]; rfl
      rw [if_pos hallowed, State.setVfs, State.modPort_port, if_pos rfl]
    · rw [State.modFunc_func, if_pos rfl]
    · rw [State.modPort_port, if_pos rfl]
    · rw [State.modFunc_func, if_pos rfl]
  case ats =>
    intro s port fn page n hport hfn hup hlink
    refine ⟨_, exec_atsInvalidation hport hfn page n hup hlink, fun x => ?_, rfl⟩
    rw [State.modPort_port, if_pos rfl]
    simp only [List.mem_filter, Bool.not_eq_true', ← Bool.not_eq_true, Bool.and_eq_true, beq_iff_eq, decide_eq_true_eq, and_assoc]
end

section
/-! PROOF. Queues: enable, disable, the doorbell record, descriptor fetch and failed host accesses (R378, R380 to R387, R547). -/

namespace Sys2Proof.Machine

/-! ### A write of QUE_CTRL (R380, R384, R541) -/

/-- A write of QUE_CTRL accepted by queue `q`: the word is stored and QUE_BUSY set. -/
def State.ctrlTaken (s : State) (q : Nat) (v : W64) : State :=
  s.modQueue q fun x => { x with rCtrl := v &&& 0xFFFF0001#64, busy := true }

theorem State.ctrlTaken_queue (s : State) (q : Nat) (v : W64) :
    (s.ctrlTaken q v).queue q = { s.queue q with rCtrl := v &&& 0xFFFF0001#64, busy := true } := by
  rw [State.ctrlTaken, State.modQueue_queue, if_pos rfl]

theorem State.ctrlTaken_enableCauses (s : State) (q : Nat) (v : W64) : (s.ctrlTaken q v).enableCauses q = s.enableCauses q := by
  rw [State.enableCauses, State.ctrlTaken_queue]
  rfl

theorem State.writeQueCtrl_taken {s : State} {q : Nat} (hthere : s.queueThere q = true) (hbusy : (s.queue q).busy = false) (port : Nat)
    (v : W64) : s.writeQueCtrl port q v =
      if bitAt v 0 then (s.ctrlTaken q v).enableQueue q (bits 16 (fld v 16 16)) else (s.ctrlTaken q v).disableQueue q := by
  rw [State.writeQueCtrl, hthere, hbusy]
  rfl

/-- The word that enables a queue under an epoch. -/
def enableWord (epoch : Nat) : W64 := bits 64 (1 + epoch % 65536 * 65536)

theorem enableWord_enables (epoch : Nat) :
    bitAt (enableWord epoch) 0 = true ∧ bits 16 (fld (enableWord epoch) 16 16) = BitVec.ofNat 16 epoch := by
  have hword : (enableWord epoch).toNat = 1 + epoch % 65536 * 65536 := by
    rw [enableWord, bits, BitVec.toNat_ofNat]
    omega
  refine ⟨?_, BitVec.eq_of_toNat_eq ?_⟩
  · rw [bitAt, hword, Nat.testBit_zero, decide_eq_true_eq]
    omega
  · rw [bits, fld, hword, Nat.shiftRight_eq_div_pow, BitVec.toNat_ofNat, BitVec.toNat_ofNat]
    omega

theorem exec_queueEnable {q : Nat} (hq : q < queueCount) (s : State) (epoch : Nat) (ws : List Host.Cell) :
    exec (.queueEnable q epoch ws) s =
      .next ((s.hostWrites (s.queuePort q) 0 ws).writeQueCtrl (q / 2048) q (enableWord epoch)) := by
  have hexec : exec (.queueEnable q epoch ws) s = execQueueEnable q epoch ws s := by rfl
  rw [hexec, execQueueEnable]
  exact if_pos hq

theorem exec_queueDisable {q : Nat} (hq : q < queueCount) (s : State) :
    exec (.queueDisable q) s = .next (s.writeQueCtrl (q / 2048) q 0) := by
  have hexec : exec (.queueDisable q) s = execQueueDisable q s := by rfl
  rw [hexec, execQueueDisable]
  exact if_pos hq

/-! ### Enable (R380) -/

theorem State.keepStandby_queue (s : State) (p k : Nat) : (s.keepStandby p).queue k = s.queue k := by
  unfold State.keepStandby
  dsimp only
  split
  · rfl
  · split
    · rfl
    · split <;> rfl

section Enable

variable {s : State} {q : Nat} (hoff : (s.queue q).enabled = false)
include hoff

/-- The first cause of Table 11.11 that stands refuses the enable. -/
theorem State.enableQueue_refused {c : Nat} {r : List Nat} (h : s.enableCauses q = c :: r) (epoch : BitVec 16) :
    s.enableQueue q epoch = s.modQueue q fun x => { x with err := bits 8 c } := by
  rw [State.enableQueue, hoff, h]
  rfl

/-- With no cause standing the queue runs under the epoch; reading the doorbell record leaves that. -/
theorem State.enableQueue_starts (h : s.enableCauses q = []) (epoch : BitVec 16) :
    ((s.enableQueue q epoch).queue q).enabled = true ∧ ((s.enableQueue q epoch).queue q).busy = (s.queue q).busy ∧
      ((s.enableQueue q epoch).queue q).set.epoch = epoch := by
  rw [State.enableQueue, hoff, h]
  dsimp only
  rw [if_neg Bool.false_ne_true, State.keepStandby_queue]
  generalize hstart : s.touch.modQueue q _ = t
  have hqueue : t.queue q = (s.queue q).start epoch (s.touch.port (s.touch.queuePort q)).cxl s.touch.ticks := by
    rw [← hstart, State.modQueue_queue, if_pos rfl]
    rfl
  have hring : (t.queue q).RingOnly ((if (t.queue q).dbShared then t.doorbell q else t).queue q) := by
    split
    · exact (t.doorbell_ringWork q).queue
    · exact State.RingWork.refl.queue
  exact ⟨(hring.field Queue.enabled fun _ => rfl).trans (by rw [hqueue]; rfl),
    (hring.field Queue.busy fun _ => rfl).trans (by rw [hqueue]; rfl),
    (hring.field (fun x => x.set.epoch) fun _ => rfl).trans (by rw [hqueue]; rfl)⟩

end Enable

/-! ### Disable (R384) -/

theorem State.leaveFor_of_unguarded {s : State} {q : Nat} (h : (s.queue q).guarded = false) : s.leaveFor q = s := by
  rw [State.leaveFor, h, if_neg Bool.false_ne_true]

theorem State.endDescs_of_empty {s : State} {q : Nat} (h : (s.queue q).descs = []) (st : BitVec 8) : s.endDescs q st = s := by
  rw [State.endDescs, h, List.foldl_nil]

theorem State.disableSettle_queue (s : State) (q : Nat) : (s.disableSettle q).queue q =
    if (s.queue q).disabling && (s.queue q).descs.isEmpty && (s.queue q).waiting.isEmpty then (s.queue q).stop else s.queue q := by
  unfold State.disableSettle
  dsimp only
  split
  · rw [State.modQueue_queue, if_pos rfl]
  · rfl

/-- A queue whose disable has begun. -/
def Queue.disableBegun (x : Queue) : Queue := { x with disabling := true, halted := false }

/-- A disable of a queue with nothing fetched ends at once, unless completion entries wait for room. -/
theorem State.disableQueue_idle {s : State} {q : Nat} (hon : (s.queue q).enabled = true) (hguarded : (s.queue q).guarded = false)
    (hdescs : (s.queue q).descs = []) : (s.disableQueue q).queue q =
      if (s.queue q).waiting = [] then (s.queue q).disableBegun.stop else (s.queue q).disableBegun := by
  have hqueue : ((s.modQueue q Queue.disableBegun).unproduce q).queue q = (s.queue q).disableBegun := by
    refine Eq.trans (b := (s.modQueue q Queue.disableBegun).queue q) rfl ?_
    rw [State.modQueue_queue, if_pos rfl]
  have hnone : ((s.modQueue q Queue.disableBegun).queue q).descs = [] := by
    rw [State.modQueue_queue, if_pos rfl]
    exact hdescs
  have hdisable : s.disableQueue q = ((s.modQueue q Queue.disableBegun).unproduce q).disableSettle q := by
    rw [State.disableQueue, hon, State.leaveFor_of_unguarded hguarded]
    refine Eq.trans (b := (((s.modQueue q Queue.disableBegun).endDescs q stAborted).unproduce q).disableSettle q) rfl ?_
    rw [State.endDescs_of_empty hnone]
  have hempty : ((s.queue q).disableBegun.disabling && (s.queue q).disableBegun.descs.isEmpty &&
      (s.queue q).disableBegun.waiting.isEmpty) = (s.queue q).waiting.isEmpty := by
    simp [Queue.disableBegun, hdescs]
  rw [hdisable, State.disableSettle_queue, hqueue, hempty]
  simp only [List.isEmpty_iff]

theorem exec_disableTimeout {s : State} {q : Nat} (hq : q < queueCount) (hon : (s.queue q).enabled = true)
    (hdisabling : (s.queue q).disabling = true) : exec (.disableTimeout q) s = .next (
      let s := (s.queue q).descs.foldl (fun s d => s.completeNow q d) s
      let s := s.cqFlush q (s.queue q).waiting.length
      s.modQueue q fun x => { x.stop with dropped := bits 16 x.waiting.length }) := by
  have hexec : exec (.disableTimeout q) s = execDisableTimeout q s := by rfl
  rw [hexec, execDisableTimeout, unit, if_pos hq]
  exact if_pos (by rw [hon, hdisabling]; rfl)

/-! ### The doorbell record (R381 to R383, R386, R387) -/

/-- Memory, the cores and the place of queue `q` in its ring are as they were. -/
structure State.ReadsOn (q : Nat) (s t : State) : Prop where
  mem : t.mem = s.mem
  cores : t.cores = s.cores
  fetch : (t.queue q).fetch = (s.queue q).fetch

theorem State.ReadsOn.trans {q : Nat} {s t u : State} (h : s.ReadsOn q t) (k : t.ReadsOn q u) : s.ReadsOn q u :=
  ⟨k.mem.trans h.mem, k.cores.trans h.cores, k.fetch.trans h.fetch⟩

theorem State.RingWork.readsOn {q : Nat} {s t : State} (h : s.RingWork q t) : s.ReadsOn q t :=
  ⟨h.outside.field State.mem fun _ => rfl, h.outside.field State.cores fun _ => rfl, h.queue.field Queue.fetch fun _ => rfl⟩

theorem RecordOnly.readsOn {s t : State} (h : RecordOnly s t) (q : Nat) : s.ReadsOn q t :=
  (State.RingWork.of_sameUnits h.sameUnits).readsOn

theorem State.modQueue_readsOn (s : State) (q : Nat) {g : Queue → Queue} (hg : ∀ x : Queue, (g x).fetch = x.fetch) :
    s.ReadsOn q (s.modQueue q g) := by
  refine ⟨rfl, rfl, ?_⟩
  rw [State.modQueue_queue, if_pos rfl, hg]

theorem State.disableSettle_readsOn (s : State) (q : Nat) : s.ReadsOn q (s.disableSettle q) := by
  unfold State.disableSettle
  dsimp only
  split
  · exact s.modQueue_readsOn q fun _ => rfl
  · exact ⟨rfl, rfl, rfl⟩

theorem State.watch_readsOn (s : State) (q : Nat) : s.ReadsOn q (s.watch q) :=
  ((s.doorbell_ringWork q).trans (State.cqFlush_ringWork _ q ((s.doorbell q).queue q).waiting.length)).readsOn.trans
    (State.disableSettle_readsOn _ q)

theorem Queue.nextPoll_fetch (x : Queue) (found : Bool) (now : BitVec 64) : (x.nextPoll found now).fetch = x.fetch := by
  unfold Queue.nextPoll
  split
  · rfl
  · split <;> rfl

section Doorbell

variable {s : State} {q : Nat} (hq : q < queueCount) (hup : s.mainlandUp = true) (hwatching : (s.queue q).watching = true)
include hq hup hwatching

theorem exec_doorbellInvalidation (hcxl : (s.port (s.queuePort q)).cxl = true) (ws : List Host.Cell) :
    ∃ t, exec (.doorbellInvalidation q ws) s = .next t ∧ s.ReadsOn q t := by
  have hexec : exec (.doorbellInvalidation q ws) s = execDoorbellInvalidation q ws s := by rfl
  rw [hexec, execDoorbellInvalidation, unit, if_pos hq, need, if_pos hup, need, hwatching, hcxl]
  have hread := (hostWrites_only s (s.queuePort q) (s.queueSpace q) ws).readsOn q
  have hshared := State.modQueue_readsOn (s.hostWrites (s.queuePort q) (s.queueSpace q) ws) q
    (g := fun x => { x with dbShared := true }) fun _ => rfl
  exact ⟨_, rfl, (hread.trans hshared).trans (State.watch_readsOn _ q)⟩

theorem exec_doorbellPoll (hpcie : (s.port (s.queuePort q)).cxl = false) (ws : List Host.Cell) :
    ∃ t, exec (.doorbellPoll q ws) s = .next t ∧ s.ReadsOn q t := by
  have hexec : exec (.doorbellPoll q ws) s = execDoorbellPoll q ws s := by rfl
  rw [hexec, execDoorbellPoll, unit, if_pos hq, need, if_pos hup, need, hwatching, hpcie]
  refine ⟨_, rfl, ?_⟩
  have hread := ((hostWrites_only s (s.queuePort q) (s.queueSpace q) ws).trans (touch_only _)).readsOn q
  refine (hread.trans (State.watch_readsOn _ q)).trans ?_
  split
  · exact State.modQueue_readsOn _ q fun x => x.nextPoll_fetch _ _
  · exact ⟨rfl, rfl, rfl⟩

end Doorbell

/-! ### Fetching (R381, R547) -/

/-- The `n` descriptors of queue `q` from an index of its ring on. -/
def State.ringDescs (s : State) (q : Nat) (i : BitVec 32) (n : Nat) : List Desc :=
  (List.range n).map fun k => s.ringDesc q (i + bits 32 k)

theorem State.ringDescs_getElem? (s : State) (q : Nat) (i : BitVec 32) {n k : Nat} (hk : k < n) :
    (s.ringDescs q i n)[k]? = some (s.ringDesc q (i + bits 32 k)) := by
  rw [State.ringDescs, List.getElem?_map, List.getElem?_range hk, Option.map_some]

theorem exec_descriptorFetch {s : State} {q n : Nat} (hq : q < queueCount) (hup : s.mainlandUp = true)
    (hon : (s.queue q).enabled = true) (hactive : (s.queue q).active = true) (hdisabling : (s.queue q).disabling = false)
    (hhalted : (s.queue q).halted = false)
    (hhold : (s.func (s.fnOf (q / 2048) (q / 64 % 32))).queHold.getLsbD (q % 64) = false) (hpos : 1 ≤ n) (hmost : n ≤ 8)
    (hprod : n ≤ ((s.queue q).prod - (s.queue q).fetch).toNat) (ws : List Host.Cell) :
    ∃ t, exec (.descriptorFetch q n ws) s = .next (t.modQueue q fun x =>
      { x with descs := x.descs ++ (s.hostWrites (s.queuePort q) (s.queueSpace q) ws).ringDescs q (s.queue q).fetch n,
               fetch := x.fetch + bits 32 n }) ∧ RecordOnly s t := by
  have hexec : exec (.descriptorFetch q n ws) s = execDescriptorFetch q n ws s := by rfl
  have hnot : bitAt (s.func (s.fnOf (q / 2048) (q / 64 % 32))).queHold (q % 64) = false := hhold
  rw [hexec, execDescriptorFetch, unit, if_pos hq, need, if_pos hup]
  dsimp only
  rw [hon, hactive, hdisabling, hhalted, hnot, decide_eq_true hpos, decide_eq_true hmost, decide_eq_true hprod]
  exact ⟨_, rfl, (hostWrites_only ..).trans (modPort_only ..)⟩

/-! ### Failed host accesses (R378) -/

section Timeout

variable {s : State} {q : Nat} (hq : q < queueCount) (hup : s.mainlandUp = true) (hon : (s.queue q).enabled = true)
include hq hup hon

theorem exec_completionTimeout_queue : exec (.completionTimeout q none none) s =
    .next (s.modQueue q fun x => if x.active then { x with active := false, err := 5 } else x) := by
  have hexec : exec (.completionTimeout q none none) s = execCompletionTimeout q none none s := by rfl
  rw [hexec, execCompletionTimeout, unit, if_pos hq, need, if_pos hup, need, if_pos hon]

theorem exec_completionTimeout_desc {d : Desc} (hlive : s.live? q d.index.toNat = some d) (hrun : d.phase = .running)
    (hload : d.opc ≠ 1 ∨ d.launch.loaded = false) :
    exec (.completionTimeout q (some d.index.toNat) none) s = .next (s.descStop q d.index.toNat stAccess) := by
  have hexec : exec (.completionTimeout q (some d.index.toNat) none) s = execCompletionTimeout q (some d.index.toNat) none s := by rfl
  rw [hexec, execCompletionTimeout, unit, if_pos hq, need, if_pos hup, need, if_pos hon]
  rw [hlive]
  exact if_pos (by simpa [hrun] using hload)

theorem exec_completionTimeout_task {l : Nat} {k : Task} (htask : (s.core l).task = some k) (hqueue : k.queue = q)
    (hrun : k.phase = .running) (i : Option Nat) :
    exec (.completionTimeout q i (some l)) s = .next (s.trapDesc l 0 stAccess) := by
  have hexec : exec (.completionTimeout q i (some l)) s = execCompletionTimeout q i (some l) s := by rfl
  have hneed : (k.queue == q && k.phase == .running) = true := by rw [hqueue, hrun, beq_self_eq_true, beq_self_eq_true]; rfl
  rw [hexec, execCompletionTimeout, unit, if_pos hq, need, if_pos hup, need, if_pos hon]
  cases i with
  | none =>
    rw [htask]
    exact if_pos hneed
  | some i =>
    rw [htask]
    exact if_pos hneed

end Timeout

end Sys2Proof.Machine

open Sys2Proof Sys2Proof.Machine

/-- Settles O43: a write of QUE_CTRL that is accepted leaves the causes of Table 11.11 as they were (`State.ctrlTaken_enableCauses`),
and reading the doorbell record moves the ring's side of the queue alone (`State.doorbell_ringWork`). -/
theorem queuesEnableFetchAndDisable : Obligations.QueuesEnableFetchAndDisable := by
  unfold Obligations.QueuesEnableFetchAndDisable
  refine ⟨?enable, ?disable, ?timeout, ?doorbell, ?fetch, ?access, ?work, ?task⟩
  case enable =>
    intro s q e ws hq
    refine ⟨_, exec_queueEnable hq s e ws, ?_⟩
    rintro rfl hthere hbusy hoff
    have hnone : s.hostWrites (s.queuePort q) 0 [] = s := rfl
    obtain ⟨hbit, hepoch⟩ := enableWord_enables e
    have hqueue := s.ctrlTaken_queue q (enableWord e)
    have hoff' : ((s.ctrlTaken q (enableWord e)).queue q).enabled = false := by rw [hqueue]; exact hoff
    rw [hnone, State.writeQueCtrl_taken hthere hbusy, if_pos hbit, hepoch, ← s.ctrlTaken_enableCauses q (enableWord e)]
    cases hcauses : (s.ctrlTaken q (enableWord e)).enableCauses q with
    | nil =>
      obtain ⟨hon, hstays, hset⟩ := State.enableQueue_starts hoff' hcauses (BitVec.ofNat 16 e)
      refine ⟨hstays.trans ?_, fun _ _ h => absurd h.symm (List.cons_ne_nil _ _), fun _ => ⟨hon, hset⟩⟩
      rw [hqueue]
    | cons c r =>
      rw [State.enableQueue_refused hoff' hcauses, State.modQueue_queue, if_pos rfl, hqueue]
      refine ⟨rfl, fun c' r' h => ?_, fun h => absurd h (List.cons_ne_nil _ _)⟩
      obtain ⟨rfl, -⟩ := List.cons.inj h
      exact ⟨rfl, hoff⟩
  case disable =>
    intro s q hq
    refine ⟨_, exec_queueDisable hq s, fun hthere hbusy hon hguarded hdescs => ?_⟩
    have hqueue := s.ctrlTaken_queue q 0
    have hzero : ¬ bitAt (0 : W64) 0 = true := by decide
    rw [State.writeQueCtrl_taken hthere hbusy, if_neg hzero,
      State.disableQueue_idle (by rw [hqueue]; exact hon) (by rw [hqueue]; exact hguarded) (by rw [hqueue]; exact hdescs), hqueue]
    refine ⟨fun hwaiting => ?_, fun hwaiting => ?_⟩
    · rw [if_pos hwaiting]
      exact ⟨rfl, rfl⟩
    · rw [if_neg hwaiting]
      exact ⟨rfl, rfl⟩
  case timeout =>
    intro s q hq hon hdisabling
    refine ⟨_, exec_disableTimeout hq hon hdisabling, ?_⟩
    dsimp only
    rw [State.modQueue_queue, if_pos rfl]
    refine ⟨rfl, rfl, rfl, rfl, fun hdescs hwaiting => ?_⟩
    rw [hdescs, List.foldl_nil, hwaiting]
    refine ⟨?_, fun k hk => ?_⟩
    · rw [List.length_nil, State.cqFlush, hwaiting]
      rfl
    · rw [List.length_nil, State.cqFlush, State.modQueue_queue, if_neg hk]
  case doorbell =>
    intro i s q ws hq hup hwatching hmode
    have hread : ∃ t, exec i s = .next t ∧ s.ReadsOn q t := by
      obtain ⟨rfl, hcxl⟩ | ⟨rfl, hpcie⟩ := hmode
      · exact exec_doorbellInvalidation hq hup hwatching hcxl ws
      · exact exec_doorbellPoll hq hup hwatching hpcie ws
    obtain ⟨t, ht, hreads⟩ := hread
    exact ⟨t, ht, hreads.mem, hreads.cores, hreads.fetch⟩
  case fetch =>
    intro s q n ws hq hup hon hactive hdisabling hhalted hhold hpos hmost hprod
    obtain ⟨t, ht, honly⟩ := exec_descriptorFetch hq hup hon hactive hdisabling hhalted hhold hpos hmost hprod ws
    have hqueue (k : Nat) : t.queue k = s.queue k := honly.sameUnits.field (State.queue · k) fun _ => rfl
    refine ⟨_, (s.hostWrites (s.queuePort q) (s.queueSpace q) ws).ringDescs q (s.queue q).fetch n, ht, ?_, ?_,
      fun k hk => ⟨_, State.ringDescs_getElem? _ q _ hk, rfl, rfl⟩, ?_, fun k hk => ?_⟩
    · rw [State.modQueue_queue, if_pos rfl, hqueue]
    · rw [State.ringDescs, List.length_map, List.length_range]
    · rw [State.modQueue_queue, if_pos rfl, hqueue]
      rfl
    · rw [State.modQueue_queue, if_neg hk, hqueue]
  case access =>
    intro s q hq hup hon
    refine ⟨_, exec_completionTimeout_queue hq hup hon, ?_, ?_, fun k hk => ?_⟩
    · intro hactive
      rw [State.modQueue_queue, if_pos rfl, if_pos hactive]
      exact ⟨rfl, rfl⟩
    · intro hinactive
      rw [State.modQueue_queue, if_pos rfl, if_neg (Bool.eq_false_iff.1 hinactive)]
    · rw [State.modQueue_queue, if_neg hk]
  case work =>
    intro s q d opc h hon hload
    obtain ⟨hq, hup, hlive, hopc, hrun, -⟩ := id h
    exact ⟨_, exec_completionTimeout_desc hq hup hon hlive hrun (hopc ▸ hload), h.descStop_ended (by decide)⟩
  case task =>
    exact fun s q i l k hq hup hon htask hqueue hrun => ⟨_, exec_completionTimeout_task hq hup hon htask hqueue hrun i⟩
end

section
/-! PROOF. What a record, a port brought up and a function-level reset leave of the ports and the queues (R374, R401, R411, R454). -/

namespace Sys2Proof.Machine

/-! ### The links of the ports -/

/-- How a port stands: its PERST pin, its link, and the kind that trained. -/
def Port.standing (p : Port) : Bool × Bool × Bool := (p.perstN, p.up, p.cxl)

/-- Every port stands as it stood. -/
def State.SameLinks (s t : State) : Prop := ∀ n, (t.port n).standing = (s.port n).standing

namespace State.SameLinks

variable {s t u : State}

theorem refl : s.SameLinks s := fun _ => rfl

theorem trans (h : s.SameLinks t) (k : t.SameLinks u) : s.SameLinks u := fun n => (k n).trans (h n)

theorem of_ports (h : t.ports = s.ports) : s.SameLinks t := fun n => by rw [State.port, h]; rfl

theorem perstN (h : s.SameLinks t) (n : Nat) : (t.port n).perstN = (s.port n).perstN := congrArg Prod.fst (h n)

theorem up (h : s.SameLinks t) (n : Nat) : (t.port n).up = (s.port n).up := congrArg (fun x => x.2.1) (h n)

theorem cxl (h : s.SameLinks t) (n : Nat) : (t.port n).cxl = (s.port n).cxl := congrArg (fun x => x.2.2) (h n)

end State.SameLinks

theorem State.putPort_sameLinks (s : State) (n : Nat) (p : Port) (hp : p.standing = (s.port n).standing) :
    s.SameLinks (s.putPort n p) := by
  intro j
  rw [State.putPort_port]
  split
  · next h => rw [hp, h]
  · rfl

theorem State.modPort_sameLinks (s : State) (n : Nat) {g : Port → Port} (hg : ∀ p : Port, (g p).standing = p.standing) :
    s.SameLinks (s.modPort n g) := s.putPort_sameLinks n _ (hg _)

/-! ### A record (R411, R454) -/

theorem State.hostWrite_ports (s : State) (port space a : Nat) (bs : List Byte) : (s.hostWrite port space a bs).ports = s.ports := by
  induction bs generalizing s a with
  | nil => rfl
  | cons b r ih => exact ih _ _

theorem State.irqCount_ports (s : State) (k v : Nat) : (s.irqCount k v).ports = s.ports := by
  unfold State.irqCount
  dsimp only
  split <;> rfl

theorem State.evlWriteOne_sameLinks (s : State) (n : Nat) : s.SameLinks (s.evlWriteOne n) := by
  unfold State.evlWriteOne
  dsimp only
  split
  · exact .refl
  · next seq e r _ =>
    generalize hhost : s.hostWrite _ _ _ _ = t
    have hlinks : s.SameLinks t := hhost ▸ .of_ports (s.hostWrite_ports ..)
    have hmoved : s.SameLinks (t.modPort n fun p => { p with evlBuf := r, evlLost := 0, evlWritten := p.evlWritten + 1 }) :=
      hlinks.trans (t.modPort_sameLinks n fun _ => rfl)
    exact hmoved.trans (.of_ports (State.irqCount_ports ..))

theorem State.evlFlush_sameLinks (s : State) (n fuel : Nat) : s.SameLinks (s.evlFlush n fuel) := by
  induction fuel generalizing s with
  | zero => exact .refl
  | succ fuel ih =>
    have hread : s.SameLinks (if s.evlRoom n then s else s.evlReread n) := by
      split
      · exact .refl
      · exact s.modPort_sameLinks n fun _ => rfl
    rw [State.evlFlush]
    split
    · exact .refl
    · dsimp only
      generalize (if s.evlRoom n then s else s.evlReread n) = t at hread ⊢
      split
      · exact (hread.trans (t.evlWriteOne_sameLinks n)).trans (ih _)
      · exact hread

theorem State.evlGive_sameLinks (s : State) (n seq : Nat) (e : EvRec) : s.SameLinks (s.evlGive n seq e) := by
  unfold State.evlGive
  dsimp only
  split
  · exact s.putPort_sameLinks n _ rfl
  · refine .trans (s.putPort_sameLinks n _ ?_) (State.evlFlush_sameLinks _ n _)
    rfl

theorem State.evlGiveAll_sameLinks (s : State) (e : EvRec) : s.SameLinks (s.evlGiveAll e) := by
  have hfirst : s.SameLinks (({ s with evlSeq := s.evlSeq + 1 } : State).evlGive 0 (s.evlSeq + 1) e) :=
    State.SameLinks.trans (.of_ports rfl) (State.evlGive_sameLinks _ 0 _ e)
  unfold State.evlGiveAll
  dsimp only
  split
  · exact hfirst.trans (State.evlGive_sameLinks _ 1 _ e)
  · exact hfirst

/-- A record leaves every link: what it moves of a port is the event log. -/
theorem State.record_sameLinks (s : State) (typ level action status : Nat) (loc : BitVec 32) (detail : BitVec 128) :
    s.SameLinks (s.record typ level action status loc detail) := by
  unfold State.record
  dsimp only
  generalize hgiven : State.evlGiveAll _ _ = t
  have hlinks : s.SameLinks t := hgiven ▸ (State.SameLinks.of_ports rfl).trans (State.evlGiveAll_sameLinks s.touch _)
  have hflash (e : EvRec) : s.SameLinks (if e.toFlash then t.flashLog e else t) := by
    split
    · exact hlinks.trans (.of_ports rfl)
    · exact hlinks
  split
  · exact (hflash _).trans (.of_ports rfl)
  · exact hflash _

/-! ### Function-level reset (R401, R557) -/

/-- With no queue in use there is none to end. -/
theorem State.killQueue_of_none {s : State} (h : s.queues = []) (q : Nat) : s.killQueue q = s := by
  have hdefault : s.queue q = {} := by rw [State.queue, h]; rfl
  rw [State.killQueue, hdefault]
  refine Eq.trans (b := { s with queues := put {} s.queues q {} }) rfl ?_
  rw [h]
  exact congrArg (fun m => { s with queues := m }) h.symm

/-- The end of address spaces changes neither a queue nor a port. -/
theorem State.foldl_unmapSpace (s : State) (asids : List Nat) :
    (asids.foldl State.unmapSpace s).queues = s.queues ∧ (asids.foldl State.unmapSpace s).ports = s.ports :=
  List.foldlRecOn (motive := fun t : State => t.queues = s.queues ∧ t.ports = s.ports) asids _ ⟨rfl, rfl⟩ fun _ h _ _ => h

/-- With no queue in use a function's reset leaves it so, and every port as it was. -/
theorem State.flrOne_of_none {s : State} (h : s.queues = []) (k : Nat) : (s.flrOne k).queues = [] ∧ (s.flrOne k).ports = s.ports := by
  have hkill : (List.range 64).foldl (fun s q => s.killQueue (k * 64 + q)) s = s :=
    List.foldlRecOn (motive := fun t : State => t = s) _ _ rfl fun t ht q _ => by
      rw [ht, State.killQueue_of_none h]
  obtain ⟨hqueues, hports⟩ := s.foldl_unmapSpace ((List.range 256).filter fun a => bitAt (s.func k).fnAsids a && !s.asidHeld k a)
  rw [State.flrOne]
  rw [hkill]
  exact ⟨hqueues.trans h, hports⟩

theorem State.flr_sameLinks {s : State} (h : s.queues = []) (port fn : Nat) : s.SameLinks (s.flr port fn) := by
  have heach (fs : List Nat) : (fs.foldl (fun s f => s.flrOne (fnKey port f)) s).queues = [] ∧
      (fs.foldl (fun s f => s.flrOne (fnKey port f)) s).ports = s.ports :=
    List.foldlRecOn (motive := fun t : State => t.queues = [] ∧ t.ports = s.ports) fs _ ⟨h, rfl⟩ fun t ht f _ => by
      obtain ⟨hnone, hports⟩ := State.flrOne_of_none ht.left (fnKey port f)
      exact ⟨hnone, hports.trans ht.right⟩
  have hrecords (fs : List Nat) (t : State) :
      (fs.foldl (fun s f => s.putFunc (fnKey port f) (Func.atReset (fnKey port f))) t).ports = t.ports :=
    List.foldlRecOn (motive := fun u : State => u.ports = t.ports) fs _ rfl fun _ hu _ _ => hu
  unfold State.flr
  split
  · exact .of_ports rfl
  · split
    · exact .of_ports (State.flrOne_of_none h _).right
    · refine State.SameLinks.trans (.of_ports ((hrecords _ _).trans (heach _).right)) (State.modPort_sameLinks _ port fun _ => rfl)

/-- No queue has a descriptor fetched or stands in a guard group. -/
def State.QueuesIdle (s : State) : Prop := ∀ q, (s.queue q).descs = [] ∧ (s.queue q).guarded = false

/-- An idle queue that is killed has its registers at reset, and the others are as they were. -/
theorem State.QueuesIdle.killQueue_queue {s : State} (h : s.QueuesIdle) (q k : Nat) :
    (s.killQueue q).queue k = if k = q then {} else s.queue k := by
  obtain ⟨hdescs, hguarded⟩ := h q
  unfold State.killQueue
  split
  · exact s.putQueue_queue q k {}
  · rw [State.leaveFor_of_unguarded hguarded, State.endDescs_of_empty hdescs]
    exact (s.unproduce q).putQueue_queue q k {}

theorem State.QueuesIdle.killQueue {s : State} (h : s.QueuesIdle) (q : Nat) : (s.killQueue q).QueuesIdle := by
  intro k
  rw [h.killQueue_queue]
  split
  · exact ⟨rfl, rfl⟩
  · exact h k

theorem State.QueuesIdle.foldl_killQueue {s : State} (h : s.QueuesIdle) (qs : List Nat) (k : Nat) :
    (qs.foldl State.killQueue s).queue k = if k ∈ qs then {} else s.queue k := by
  induction qs generalizing s with
  | nil => rfl
  | cons q r ih =>
    rw [List.foldl_cons, ih (h.killQueue q), h.killQueue_queue]
    by_cases hk : k = q <;> simp [hk]

/-- The reset of a function whose queues are idle leaves each of them disabled. -/
theorem State.QueuesIdle.flrOne_disabled {s : State} (h : s.QueuesIdle) (k : Nat) {q : Nat} (hq : q < 64) :
    ((s.flrOne k).queue (k * 64 + q)).enabled = false := by
  have hkilled := h.foldl_killQueue ((List.range 64).map (k * 64 + ·)) (k * 64 + q)
  rw [List.foldl_map, if_pos (List.mem_map.2 ⟨q, List.mem_range.2 hq, rfl⟩)] at hkilled
  rw [State.flrOne]
  generalize (List.range 64).foldl _ s = t at hkilled ⊢
  obtain ⟨hqueues, -⟩ := t.foldl_unmapSpace ((List.range 256).filter fun a => bitAt (s.func k).fnAsids a && !s.asidHeld k a)
  have hsame : (((List.range 256).filter fun a => bitAt (s.func k).fnAsids a && !s.asidHeld k a).foldl State.unmapSpace t).queue
      (k * 64 + q) = t.queue (k * 64 + q) := by
    rw [State.queue, hqueues]
    rfl
  exact (congrArg Queue.enabled (hsame.trans hkilled)).trans rfl

end Sys2Proof.Machine
end

section
/-! PROOF. Host ports: links, PERST, function-level reset and accesses through BAR2 (R370, R374, R377, R401, R494, R503, R508). -/

namespace Sys2Proof.Machine

/-! ### Links and PERST (R374, R503, R508) -/

theorem State.portRecord_sameLinks (s : State) (n : Nat) (up : Bool) : s.SameLinks (s.portRecord n up) := s.record_sameLinks _ _ _ _ _ _

theorem State.resetCause_sameLinks (s : State) (kind : Nat) : s.SameLinks (s.resetCause kind) := s.record_sameLinks _ _ _ _ _ _

theorem State.moveDoorbells_of_none {s : State} (h : s.queues = []) (n : Nat) : s.moveDoorbells n = s := by
  rw [State.moveDoorbells, h]
  rfl

/-- A port without its link, and without the translations it had cached. -/
def Port.linkLost (p : Port) : Port := { p with up := false, cxl := false, ats := [] }

theorem State.portDown_eq (s : State) (n : Nat) : s.portDown n =
    if s.multipath then (s.modPort n Port.linkLost).moveDoorbells n else (s.modPort n Port.linkLost).flr n 0 := rfl

/-- With no queue in use a port that goes down leaves the other links. -/
theorem State.portDown_sameLinks {s : State} (h : s.queues = []) (n : Nat) : (s.modPort n Port.linkLost).SameLinks (s.portDown n) := by
  have hnone : (s.modPort n Port.linkLost).queues = [] := h
  rw [State.portDown_eq]
  split
  · rw [State.moveDoorbells_of_none hnone]
    exact .refl
  · exact State.flr_sameLinks hnone n 0

theorem exec_portLinkDown {s : State} {n : Nat} (hn : n < 2) (hup : s.skerryUp = true) (hlink : (s.port n).up = true) :
    exec (.portLinkDown n) s = .next ((s.portDown n).portRecord n false) := by
  have hexec : exec (.portLinkDown n) s = execPortLinkDown n s := by rfl
  rw [hexec, execPortLinkDown, unit, if_pos hn, need, if_pos hup]
  exact if_pos hlink

/-- What lets a port train: skerry runs and has enabled the ports, the port exists, and the package is not tripped. -/
structure State.Trains (s : State) (n : Nat) : Prop where
  skerry : s.skerryUp = true
  there : s.portThere n = true
  started : s.boot.state ≠ .reset
  untripped : s.boot.tripLayer = 0

theorem exec_portLinkUp {s : State} {n : Nat} (hn : n < 2) (h : s.Trains n) (hdown : (s.port n).up = false)
    (hperst : (s.port n).perstN = true) (cxl : Bool) :
    exec (.portLinkUp n cxl) s = .next ((s.portUp n cxl).portRecord n true) := by
  have hexec : exec (.portLinkUp n cxl) s = execPortLinkUp n cxl s := by rfl
  rw [hexec, execPortLinkUp, unit, if_pos hn, h.skerry, h.there, need, if_pos (by rfl), hdown, hperst, bne_iff_ne.2 h.started,
    h.untripped]
  rfl

theorem State.portUp_standing (s : State) (n : Nat) (cxl : Bool) :
    ((s.portUp n cxl).port n).up = true ∧ ((s.portUp n cxl).port n).cxl = cxl ∧
      ((s.portUp n cxl).port n).perstN = (s.port n).perstN := by
  rw [State.portUp, State.modPort_port, if_pos rfl]
  exact ⟨rfl, rfl, rfl⟩

/-- Port `n` with its PERST pin low. -/
def State.perstLow (s : State) (n : Nat) : State := s.modPort n fun p => { p with perstN := false, wakeLow := false, d3 := false }

/-- The work of a READY package in multipath mode when a port is held in PERST: it ends once both ports are held (R503). -/
def State.perstShared (s : State) (n : Nat) : State :=
  if ((s.portDown n).port (1 - n)).perstN then s.portDown n else (s.portDown n).flr 0 0

theorem exec_perst {s : State} {n : Nat} (hn : n < 2) (hhigh : (s.port n).perstN = true) : exec (.perst n) s = .next (
    if s.boot.state ≠ .ready then (s.perstLow n).modPort n fun p => { p with up := false, cxl := false }
    else ((if s.multipath then (s.perstLow n).perstShared n else (s.perstLow n).portDown n).portRecord n false).resetCause 2) := by
  have hexec : exec (.perst n) s = execPerst n s := by rfl
  rw [hexec, execPerst, unit, if_pos hn, need, if_pos hhigh]
  by_cases hready : s.boot.state ≠ .ready
  · rw [if_pos hready]
    exact if_pos hready
  · rw [if_neg hready]
    refine (if_neg hready).trans ?_
    by_cases hmulti : s.multipath = true
    · rw [if_pos hmulti]
      exact if_pos hmulti
    · rw [if_neg hmulti]
      exact if_neg hmulti

/-- With no queue in use, what ends in multipath mode leaves the links too. -/
theorem State.perstShared_sameLinks {s : State} (h : s.queues = []) (hmulti : s.multipath = true) (n : Nat) :
    (s.modPort n Port.linkLost).SameLinks (s.perstShared n) := by
  have hnone : (s.modPort n Port.linkLost).queues = [] := h
  have hdown : s.portDown n = s.modPort n Port.linkLost := by
    rw [State.portDown_eq, if_pos hmulti, State.moveDoorbells_of_none hnone]
  rw [State.perstShared, hdown]
  split
  · exact .refl
  · exact State.flr_sameLinks hnone 0 0

theorem State.perstLow_port (s : State) (n : Nat) :
    (s.perstLow n).port n = { s.port n with perstN := false, wakeLow := false, d3 := false } := by
  rw [State.perstLow, State.modPort_port, if_pos rfl]

/-- A port held in PERST is down: at once before READY, and with no queue in use whatever else the reset ends. -/
theorem exec_perst_down {s : State} {n : Nat} (hn : n < 2) (hhigh : (s.port n).perstN = true) :
    ∃ t, exec (.perst n) s = .next t ∧
      (s.boot.state ≠ .ready ∨ s.queues = [] → (t.port n).perstN = false ∧ (t.port n).up = false) := by
  refine ⟨_, exec_perst hn hhigh, fun h => ?_⟩
  by_cases hready : s.boot.state ≠ .ready
  · rw [if_pos hready, State.modPort_port, if_pos rfl, State.perstLow_port]
    exact ⟨rfl, rfl⟩
  · have hnone : (s.perstLow n).queues = [] := h.resolve_left hready
    have hlinks : ((s.perstLow n).modPort n Port.linkLost).SameLinks
        (if s.multipath then (s.perstLow n).perstShared n else (s.perstLow n).portDown n) := by
      split
      · next hmulti => exact State.perstShared_sameLinks hnone hmulti n
      · exact State.portDown_sameLinks hnone n
    rw [if_neg hready]
    have hall := (hlinks.trans (State.portRecord_sameLinks _ n false)).trans (State.resetCause_sameLinks _ 2)
    rw [hall.perstN, hall.up, State.modPort_port, if_pos rfl, State.perstLow_port]
    exact ⟨rfl, rfl⟩

/-- Port `n` with its PERST pin high. -/
def State.perstHigh (s : State) (n : Nat) : State := s.modPort n fun p => { p with perstN := true }

theorem State.perstHigh_port (s : State) (n k : Nat) :
    (s.perstHigh n).port k = if k = n then { s.port n with perstN := true } else s.port k := by
  rw [State.perstHigh, State.modPort_port]

theorem exec_perstRelease {s : State} {n : Nat} (hn : n < 2) (hlow : (s.port n).perstN = false) (cxl : Bool) :
    exec (.perstRelease n cxl) s = .next (
      if s.skerryUp && s.portThere n && s.boot.state != .reset && s.boot.tripLayer == 0 then (s.perstHigh n).portUp n cxl
      else s.perstHigh n) := by
  have hexec : exec (.perstRelease n cxl) s = execPerstRelease n cxl s := by rfl
  rw [hexec, execPerstRelease, unit, if_pos hn, need, hlow]
  exact (apply_ite Host.Outcome.next _ _ _).symm

theorem exec_functionLevelReset {s : State} {port fn : Nat} (hport : port < 2) (hfn : fn < 32) (hup : s.skerryUp = true)
    (hthere : s.fnThere port fn = true) : exec (.functionLevelReset port fn) s =
      .next (if s.boot.tripLayer ≠ 0 then s else (s.flr port fn).resetCause 3) := by
  have hexec : exec (.functionLevelReset port fn) s = execFunctionLevelReset port fn s := by rfl
  rw [hexec, execFunctionLevelReset, unit, if_pos hport, unit, if_pos hfn, need, hup, hthere]
  exact (apply_ite Host.Outcome.next _ _ _).symm

/-- Outside multipath mode a virtual function is reset alone. -/
theorem State.flr_virtual {s : State} (hmulti : s.multipath = false) {fn : Nat} (hfn : fn ≠ 0) (port : Nat) :
    s.flr port fn = s.flrOne (fnKey port fn) := by
  rw [State.flr, hmulti, Bool.false_and, if_neg Bool.false_ne_true, if_pos hfn]

/-! ### BAR2 (R377, R508) -/

/-- The function that a BAR2 access reaches is open: the package is READY, and its window as its registers set it. -/
def State.barOpen (s : State) (port fn : Nat) : Prop := s.boot.state = .ready ∧ (s.func (s.fnOf port fn)).window = true

theorem State.barFail_memory (s : State) (port fn off : Nat) :
    (s.barFail port fn off).mem = s.mem ∧ (s.barFail port fn off).slices = s.slices := by
  rw [State.barFail, record_mem, record_slices]
  exact ⟨rfl, rfl⟩

section Bar

variable {s : State} {port fn off n : Nat} (hport : port < 2) (hfn : fn < 32) (hup : s.skerryUp = true)
  (hthere : s.fnThere port fn = true) (hlink : (s.port port).up = true)
  (hfits : off + n ≤ 2 ^ (s.func (s.fnOf port fn)).bar2Log2) (shut : State → State) (k : GCtx → Nat → State → State)
include hport hfn hup hthere hlink hfits

theorem barAccess_taken : barAccess port fn off n shut k s =
    if s.boot.state ≠ .ready then .next (shut s)
    else if !(s.func (s.fnOf port fn)).window then .next (shut (s.barFail port fn off))
    else .next (k (s.barCtx port fn) ((s.func (s.fnOf port fn)).bar2Base + off) s) := by
  rw [barAccess, unit, if_pos hport, unit, if_pos hfn, need, hup, hthere, hlink]
  exact if_pos (Nat.lt_succ_of_le hfits)

theorem barAccess_open (h : s.barOpen port fn) :
    barAccess port fn off n shut k s = .next (k (s.barCtx port fn) ((s.func (s.fnOf port fn)).bar2Base + off) s) := by
  obtain ⟨hready, hwindow⟩ := h
  rw [barAccess_taken hport hfn hup hthere hlink hfits, if_neg fun hne => hne hready, hwindow]
  rfl

/-- Before READY or with the window closed the access is shut out; memory is as before. -/
theorem barAccess_closed (h : ¬ s.barOpen port fn) :
    ∃ u, barAccess port fn off n shut k s = .next (shut u) ∧ u.mem = s.mem ∧ u.slices = s.slices := by
  rw [barAccess_taken hport hfn hup hthere hlink hfits]
  by_cases hready : s.boot.state = .ready
  · have hwindow : (s.func (s.fnOf port fn)).window = false := Bool.eq_false_iff.2 fun hopen => h ⟨hready, hopen⟩
    rw [if_neg fun hne => hne hready, hwindow]
    exact ⟨_, rfl, s.barFail_memory port fn off⟩
  · rw [if_pos hready]
    exact ⟨s, rfl, rfl, rfl⟩

end Bar

theorem State.portAnswer_answer (s : State) (n : Nat) (d : Option (List Byte)) : ((s.portAnswer n d).port n).answer = d := by
  rw [State.portAnswer, State.modPort_port, if_pos rfl]

end Sys2Proof.Machine

open Sys2Proof Sys2Proof.Machine

/-- Settles O42: with no queue in use a reset leaves every link (`State.flr_sameLinks`), as every record does
(`State.record_sameLinks`); idle queues are killed one by one (`State.QueuesIdle.foldl_killQueue`); and a BAR2 access is made or
shut out (`barAccess_open`, `barAccess_closed`). -/
theorem hostPortsAndResets : Obligations.HostPortsAndResets := by
  unfold Obligations.HostPortsAndResets
  refine ⟨?linkDown, ?linkUp, ?perst, ?release, ?flr, ?bar⟩
  case linkDown =>
    intro s n hn hup hlink
    refine ⟨_, exec_portLinkDown hn hup hlink, fun hnone => ?_⟩
    rw [(State.portRecord_sameLinks _ n false).up, (State.portDown_sameLinks hnone n).up, State.modPort_port, if_pos rfl]
    rfl
  case linkUp =>
    intro s n cxl hn hup hthere hdown hperst hstate hlayer
    obtain ⟨hlink, hkind, -⟩ := s.portUp_standing n cxl
    have hlinks := (s.portUp n cxl).portRecord_sameLinks n true
    exact ⟨_, exec_portLinkUp hn ⟨hup, hthere, hstate, hlayer⟩ hdown hperst cxl, (hlinks.up n).trans hlink, (hlinks.cxl n).trans hkind⟩
  case perst => exact fun s n hn hhigh => exec_perst_down hn hhigh
  case release =>
    intro s n cxl hn hlow
    refine ⟨_, exec_perstRelease hn hlow cxl, ?_⟩
    have hhigh : ((s.perstHigh n).port n).perstN = true := by rw [State.perstHigh_port, if_pos rfl]
    obtain ⟨hlink, hkind, hpin⟩ := (s.perstHigh n).portUp_standing n cxl
    split
    · refine ⟨hpin.trans hhigh, fun _ _ _ _ => ⟨hlink, hkind⟩, fun k hk => ?_⟩
      rw [State.portUp, State.modPort_port, if_neg hk, State.perstHigh_port, if_neg hk]
    · next hheld =>
      refine ⟨hhigh, fun hup hthere hstate hlayer => absurd ?_ hheld, fun k hk => ?_⟩
      · rw [hup, hthere, bne_iff_ne.2 hstate, hlayer]
        rfl
      · rw [State.perstHigh_port, if_neg hk]
  case flr =>
    intro s port fn hport hfn hup hthere
    refine ⟨_, exec_functionLevelReset hport hfn hup hthere, fun htrip => if_pos htrip, fun hidle hlayer hmulti hvirtual q hq => ?_⟩
    have hqueues : ((s.flr port fn).resetCause 3).queues = (s.flr port fn).queues := record_queues ..
    rw [if_neg fun hne => hne hlayer, State.queue, hqueues, State.flr_virtual hmulti hvirtual]
    exact State.QueuesIdle.flrOne_disabled hidle (fnKey port fn) hq
  case bar =>
    intro s port fn off hport hfn hup hthere hlink fits open_
    have hread (n : Nat) : exec (.bar2Read port fn off n) s = execBar2Read port fn off n s := by rfl
    have hwrite (d : List Byte) : exec (.bar2Write port fn off d) s = execBar2Write port fn off d s := by rfl
    have hatomic (op n x y : Nat) : exec (.bar2Atomicop port fn off op n x y) s = execBar2Atomicop port fn off op n x y s := by rfl
    by_cases hopen : s.barOpen port fn
    · refine ⟨fun n hfits => ?_, fun d hfits => ?_, fun op n x y hfits => ?_⟩
      · refine ⟨_, (hread n).trans (barAccess_open hport hfn hup hthere hlink hfits _ _ hopen), fun hshut => absurd hopen hshut,
          fun _ hlost hbad hwait => ?_⟩
        dsimp only at hlost hbad hwait ⊢
        rw [hlost, hbad, hwait]
        exact State.portAnswer_answer _ port _
      · exact ⟨_, (hwrite d).trans (barAccess_open hport hfn hup hthere hlink hfits _ _ hopen), fun hshut => absurd hopen hshut⟩
      · exact ⟨_, (hatomic op n x y).trans (barAccess_open hport hfn hup hthere hlink hfits _ _ hopen), fun hshut => absurd hopen hshut⟩
    · refine ⟨fun n hfits => ?_, fun d hfits => ?_, fun op n x y hfits => ?_⟩
      · obtain ⟨u, hu, -⟩ := barAccess_closed hport hfn hup hthere hlink hfits _ _ hopen
        exact ⟨_, (hread n).trans hu, fun _ => u.portAnswer_answer port none, fun h => absurd h hopen⟩
      · obtain ⟨u, hu, hmem⟩ := barAccess_closed hport hfn hup hthere hlink hfits _ _ hopen
        exact ⟨_, (hwrite d).trans hu, fun _ => hmem⟩
      · obtain ⟨u, hu, hmem⟩ := barAccess_closed hport hfn hup hthere hlink hfits _ _ hopen
        exact ⟨_, (hatomic op n x y).trans hu, fun _ => ⟨u.portAnswer_answer port none, hmem⟩⟩
end
